-- ==== Sys2Proof/Word.lean ====
section
/-!
DEFINITION. Word.lean: the register word and the byte, and the plainest arithmetic on their bits.
-/

namespace Sys2Proof

/-- A register of the module: 16 bits (R440). -/
abbrev Word := BitVec 16

/-- A byte of a memory, a structure or a frame (R3). -/
abbrev Byte := BitVec 8

/-- The value of bits [hi:lo] of a word (R3). -/
def bitsOf (w : Word) (hi lo : Nat) : Nat := (w.toNat >>> lo) % 2 ^ (hi - lo + 1)

/-- A word with bits [hi:lo] replaced by `v`. -/
def withBits (w : Word) (hi lo v : Nat) : Word :=
  let m : Word := BitVec.ofNat 16 ((2 ^ (hi - lo + 1) - 1) * 2 ^ lo)
  (w &&& ~~~m) ||| (BitVec.ofNat 16 (v * 2 ^ lo) &&& m)

/-- The value of a byte string, least significant byte first (R3). -/
def leNat : List Byte → Nat
  | [] => 0
  | b :: bs => b.toNat + 256 * leNat bs

/-- The `n` low bytes of a value, least significant byte first (R3). -/
def leBytes : Nat → Nat → List Byte
  | 0, _ => []
  | n + 1, v => BitVec.ofNat 8 v :: leBytes n (v / 256)

/-- `n` bytes of a byte string from place `o`; a place past its end gives no byte. -/
def slice (l : List α) (o n : Nat) : List α := (l.drop o).take n

/-- The value of `n` bytes from place `o`, least significant byte first. -/
def leAt (l : List Byte) (o n : Nat) : Nat := leNat (slice l o n)

/-- A signed value read from `w` bits (two's complement). -/
def signed (w v : Nat) : Int := if v % 2 ^ w < 2 ^ (w - 1) then (v % 2 ^ w : Nat) else ((v % 2 ^ w : Nat) : Int) - (2 ^ w : Nat)

/-- A signed value as the `w`-bit code that holds it. -/
def unsigned (w : Nat) (v : Int) : Nat := (v % (2 ^ w : Nat)).toNat

end Sys2Proof
end

