-- ==== Sys2Proof/Machine/Regs.lean ====
section
/-!
DEFINITION. Machine/Regs.lean: the register map. BAR0 offsets of every register (Table 17.3 and the register tables of
the chapters) and, for each block, its table of registers with the access type and reset value of every field (R440 to
R453). A name with an index takes the window's index first and the register's own index last.
-/

namespace Sys2Proof.Machine

/-- Access types of a field, Table 17.1 (R444). -/
inductive Access where
  | rw | ro | w1c | wo | rc | rwt
  deriving DecidableEq, Repr

/-- One field of a register: its bits, access type and reset value. Bits in no field are reserved. -/
structure Field where
  hi : Nat
  lo : Nat
  acc : Access
  rst : Nat
  deriving DecidableEq, Repr

/-- One row of a register table: `cnt` registers from offset `off`, `step` bytes apart. `grpLen` is the length of the
group the register belongs to (R448; 0 for none) and `grpPos` the place of its first register in that group. -/
structure RegDesc where
  off : Nat
  cnt : Nat
  step : Nat
  shadowed : Bool
  grpLen : Nat
  grpPos : Nat
  fields : List Field
  deriving DecidableEq, Repr


/-! Offsets of the SYS window (R453). -/

def SYS_PART : Nat := 0x0
def SYS_PART_1 : Nat := 0x2
def SYS_HWVER : Nat := 0x4
def SYS_SERIAL : Nat := 0x8
def SYS_CTL : Nat := 0x10
def SYS_STAT : Nat := 0x12
def SYS_EVT : Nat := 0x14
def SYS_STAGE_OVR : Nat := 0x16
def SYS_STAGE : Nat := 0x18
def SYS_CTIME : Nat := 0x20
def SYS_CTIME_EPOCH : Nat := 0x28
def SYS_ACC_ERR : Nat := 0x30
def SYS_ACC_ERR_1 : Nat := 0x32
def SYS_ACC_CNT : Nat := 0x34

/-! Offsets of the CST window (R76). -/

def CST_STAT : Nat := 0x1000
def CST_EVT : Nat := 0x1002
def CST_ERR_CODE : Nat := 0x1004
def CST_ERR_SECT : Nat := 0x1006
def CST_ERR_REC : Nat := 0x1008
def CST_ID : Nat := 0x1010
def CST_GEN : Nat := 0x1018
def CST_ENREF_CNT : Nat := 0x101A
def CST_TILE_PRES : Nat := 0x1020
def CST_TILE_DIFF : Nat := 0x1024
def CST_SITE_EN (k : Nat) : Nat := 0x1040 + 2 * k
def CST_DIGEST (k : Nat) : Nat := 0x1100 + 2 * k

/-! Offsets of the SEQ common window (R115). -/

def SEQ_WP_STAT : Nat := 0x2000
def SEQ_WP_CNT : Nat := 0x2002
def SEQ_WP_PART : Nat := 0x2004
def SEQ_WP_ADDR : Nat := 0x2006
def SEQ_SQ_PART : Nat := 0x2010
def SEQ_SQ_NUM : Nat := 0x2012
def SEQ_SQ_RES : Nat := 0x2014

/-! Offsets of the ASY common window (R194). -/

def ASY_ABORT_CFG (k : Nat) : Nat := 0x3000 + 2 * k
def ASY_LABORT : Nat := 0x3020
def ASY_LABORT_LIM : Nat := 0x3022
def ASY_FINAL_CFG : Nat := 0x3026
def ASY_BINMAP : Nat := 0x3040
def ASY_BINMAP_1 : Nat := 0x3042
def ASY_BINMAP_2 : Nat := 0x3044
def ASY_BINMAP_3 : Nat := 0x3046
def ASY_BINMAP_4 : Nat := 0x3048
def ASY_BINMAP_5 : Nat := 0x304A
def ASY_BINMAP_6 : Nat := 0x304C
def ASY_BINMAP_7 : Nat := 0x304E
def ASY_EVT : Nat := 0x3060
def ASY_READY (k : Nat) : Nat := 0x3080 + 2 * k

/-! Offsets of the TDC common window (R270). -/

def TDC_FRZ (k : Nat) : Nat := 0x4000 + 2 * k

/-! Offsets of the DPS common window (R297). -/

def DPS_TOTAL : Nat := 0x5000
def DPS_PWIN : Nat := 0x5002
def DPS_CEVT : Nat := 0x5004
def DPS_CCODE : Nat := 0x5006
def DPS_SLIM (k : Nat) : Nat := 0x5400 + 2 * k
def DPS_SCEIL (k : Nat) : Nat := 0x5800 + 2 * k

/-! Offsets of the CAL common window (R326). -/

def CAL_REQ_CTL : Nat := 0x6000
def CAL_REQ_SCOPE : Nat := 0x6002
def CAL_REQ_FIRST : Nat := 0x6004
def CAL_REQ_LAST : Nat := 0x6006
def CAL_PROG_DONE : Nat := 0x6008
def CAL_PROG_TOTAL : Nat := 0x600A
def CALC_EVT : Nat := 0x600C
def CALC_CODE : Nat := 0x600E
def CAL_POLICY : Nat := 0x6010
def CAL_RELEASE : Nat := 0x6012
def CAL_REF_STAT : Nat := 0x6014
def CAL_ISO : Nat := 0x6020
def CAL_ISO_STAT : Nat := 0x6022
def CAL_SUB_ACQ (k : Nat) : Nat := 0x6030 + 2 * k
def CAL_SUB_AWG (k : Nat) : Nat := 0x6038 + 2 * k
def CAL_STACK : Nat := 0x6040
def CAL_STACK_STAT : Nat := 0x6042

/-! Offsets of the HST window (R354). -/

def HST_CTL : Nat := 0x7000
def HST_STAT : Nat := 0x7002
def HST_EVT : Nat := 0x7004
def HST_CMD_BASE : Nat := 0x7010
def HST_CMD_SIZE : Nat := 0x7018
def HST_CPL_SIZE : Nat := 0x7028
def HST_CMD_PROD : Nat := 0x701A
def HST_CMD_CONS : Nat := 0x701C
def HST_CPL_BASE : Nat := 0x7020
def HST_CPL_PROD : Nat := 0x702A
def HST_CPL_CONS : Nat := 0x702C
def HST_IDX_ADDR : Nat := 0x7030
def HST_RING_CTL : Nat := 0x7038
def HST_TAGS : Nat := 0x703A
def HST_CPL_LOST : Nat := 0x703E
def HST_IRQ_MOD : Nat := 0x7040
def HST_LOG_BASE : Nat := 0x7050
def HST_LOG_WR : Nat := 0x7056
def HST_LOG_RD : Nat := 0x705A
def HST_LOG_LOST : Nat := 0x705E
def HST_ASY_BASE : Nat := 0x7060
def HST_TILE_SEL : Nat := 0x7080
def HST_TILE_STAT : Nat := 0x7082
def HST_TILE_CODE : Nat := 0x7084
def HST_TILE_ID : Nat := 0x7086
def HST_TILE_CRC : Nat := 0x708E

/-! Offsets of the CVY window (R374). -/

def CVY_STAT : Nat := 0x8000
def CVY_EVT : Nat := 0x8002
def CVY_CFG : Nat := 0x8004
def CVY_TRIG_DLY : Nat := 0x8006
def CVY_SIZE : Nat := 0x8008
def CVY_MASTER : Nat := 0x800A
def CVY_OFS : Nat := 0x8012
def CVY_CRC_ERR_E : Nat := 0x8020
def CVY_CRC_ERR_W : Nat := 0x8022
def CVY_TRIG_LATE : Nat := 0x8024
def CVY_RDV_LATE : Nat := 0x8026
def CVY_FAIL_CNT : Nat := 0x8028
def CVY_FI_CNT : Nat := 0x802A
def CVY_FAIL_SRC : Nat := 0x8030
def CVY_FAIL_GRP : Nat := 0x8032
def CVY_FAIL_CAUSE : Nat := 0x8034
def CVY_FI_CFG_E : Nat := 0x8040
def CVY_FI_CFG_W : Nat := 0x8042
def CVY_RDV (k : Nat) : Nat := 0x8100 + 16 * k
def CVY_RDV_LABEL (k : Nat) : Nat := 0x8102 + 16 * k
def CVY_RDV_LABEL1 (k : Nat) : Nat := 0x8104 + 16 * k
def CVY_RDV_PART (k : Nat) : Nat := 0x8106 + 16 * k
def CVY_RDV_PART1 (k : Nat) : Nat := 0x8108 + 16 * k
def CVY_RDV_PART2 (k : Nat) : Nat := 0x810A + 16 * k
def CVY_RDV_PART3 (k : Nat) : Nat := 0x810C + 16 * k
def CVY_RDV_TIME (k : Nat) : Nat := 0x810E + 16 * k

/-! Offsets of the WAY window (R402). -/

def WAY_EVT : Nat := 0x9000
def WAY_ERR_CNT : Nat := 0x9002
def WAY_REPEAT_CNT : Nat := 0x9004
def WAY_UNVER_CNT : Nat := 0x9006
def WAY_FI_CNT : Nat := 0x9008
def WAY_FLOG_SEL : Nat := 0x9010
def WAY_FLOG_STAT : Nat := 0x9012
def WAY_FLOG_ADDR : Nat := 0x9014
def WAY_FLOG_T : Nat := 0x901A
def WAY_FI_FAB : Nat := 0x9030
def WAY_FI_CMD : Nat := 0x9032

/-! Offsets of the TOL window (R404). -/

def TOL_STAT : Nat := 0xA000
def TOL_EVT : Nat := 0xA002
def TOL_CODE : Nat := 0xA004
def TOL_SEL : Nat := 0xA006
def TOL_SLOT_MASK : Nat := 0xA008
def TOL_SLOT_CNT : Nat := 0xA00A
def TOL_OWNER_CNT : Nat := 0xA012
def TOL_FAIL_CNT : Nat := 0xA01A
def TOL_DIRECT_CNT : Nat := 0xA01C

/-! Offsets of the FWU window (R423). -/

def FWU_STAT : Nat := 0xB000
def FWU_EVT : Nat := 0xB002
def FWU_CODE : Nat := 0xB004
def FWU_CFG : Nat := 0xB006
def FWU_FLOOR : Nat := 0xB008
def FWU_SLOTA_STAT : Nat := 0xB010
def FWU_SLOTA_SCHEMA : Nat := 0xB012
def FWU_SLOTA_VER : Nat := 0xB014
def FWU_SLOTA_RB : Nat := 0xB018
def FWU_SLOTB_STAT : Nat := 0xB020
def FWU_SLOTB_SCHEMA : Nat := 0xB022
def FWU_SLOTB_VER : Nat := 0xB024
def FWU_SLOTB_RB : Nat := 0xB028

/-! Offsets of the THM window (R439). -/

def THM_STAT : Nat := 0xC000
def THM_EVT : Nat := 0xC002
def THM_CODE : Nat := 0xC004
def THM_CTL : Nat := 0xC006
def THM_GOV : Nat := 0xC008
def THM_PF_CFG : Nat := 0xC00A
def THM_VIN : Nat := 0xC010
def THM_PIN : Nat := 0xC012
def THM_TEMP (k : Nat) : Nat := 0xC100 + 2 * k
def THM_SSTAT (k : Nat) : Nat := 0xC180 + 2 * k
def THM_SUB (k : Nat) : Nat := 0xC200 + 2 * k

/-! Offsets of the CHK unit window (R403). -/

def CHK_CTL (u : Nat) : Nat := 0x10000 + 0x100 * u
def CHK_CFG (u : Nat) : Nat := 0x10002 + 0x100 * u
def CHK_SITE (u : Nat) : Nat := 0x10004 + 0x100 * u
def CHK_PIN (u : Nat) : Nat := 0x10006 + 0x100 * u
def CHK_POLY (u : Nat) : Nat := 0x10010 + 0x100 * u
def CHK_INIT (u : Nat) : Nat := 0x10018 + 0x100 * u
def CHK_XOR (u : Nat) : Nat := 0x10020 + 0x100 * u
def CHK_DATA_BITS (u : Nat) : Nat := 0x10028 + 0x100 * u
def CHK_ALIVE (u : Nat) : Nat := 0x1002C + 0x100 * u
def CHK_ALIVE_POS (u : Nat) : Nat := 0x1002E + 0x100 * u
def CHK_START (u : Nat) : Nat := 0x10032 + 0x100 * u
def CHK_FEED (u : Nat) : Nat := 0x10034 + 0x100 * u
def CHK_FEED8 (u : Nat) : Nat := 0x10036 + 0x100 * u
def CHK_STAT (u : Nat) : Nat := 0x10038 + 0x100 * u
def CHK_EVT (u : Nat) : Nat := 0x1003A + 0x100 * u
def CHK_CODE (u : Nat) : Nat := 0x1003C + 0x100 * u
def CHK_RES_STAT (u : Nat) : Nat := 0x10040 + 0x100 * u
def CHK_RES_SEQ (u : Nat) : Nat := 0x10042 + 0x100 * u
def CHK_RES_ALIVE (u : Nat) : Nat := 0x10044 + 0x100 * u
def CHK_RES_FLAGS (u : Nat) : Nat := 0x10046 + 0x100 * u
def CHK_RES_CALC (u k : Nat) : Nat := 0x10048 + 0x100 * u + 2 * k
def CHK_RES_RECV (u k : Nat) : Nat := 0x10050 + 0x100 * u + 2 * k
def CHK_RES_T (u k : Nat) : Nat := 0x10058 + 0x100 * u + 2 * k
def CHK_RES_ADV (u : Nat) : Nat := 0x10060 + 0x100 * u
def CHK_FRAME_CNT (u : Nat) : Nat := 0x10062 + 0x100 * u
def CHK_FAIL_CNT (u : Nat) : Nat := 0x10064 + 0x100 * u
def CHK_REPEAT_CNT (u : Nat) : Nat := 0x10066 + 0x100 * u
def CHK_SKIP_CNT (u : Nat) : Nat := 0x10068 + 0x100 * u
def CHK_DROP_CNT (u : Nat) : Nat := 0x1006A + 0x100 * u

/-! Offsets of the SEQ caravan window (R114). -/

def SEQ_CTL (c : Nat) : Nat := 0x100000 + 0x1000 * c
def SEQ_STAT (c : Nat) : Nat := 0x100002 + 0x1000 * c
def SEQ_EVT (c : Nat) : Nat := 0x100004 + 0x1000 * c
def SEQ_CODE (c : Nat) : Nat := 0x100006 + 0x1000 * c
def SEQ_PROG (c : Nat) : Nat := 0x100008 + 0x1000 * c
def SEQ_ENTRY (c : Nat) : Nat := 0x10000A + 0x1000 * c
def SEQ_MODE (c : Nat) : Nat := 0x10000E + 0x1000 * c
def SEQ_HFLAG (c : Nat) : Nat := 0x100010 + 0x1000 * c
def SEQ_JMODE (c : Nat) : Nat := 0x100012 + 0x1000 * c
def SEQ_JTGT (c : Nat) : Nat := 0x100014 + 0x1000 * c
def SEQ_JSTAT (c : Nat) : Nat := 0x100018 + 0x1000 * c
def SEQ_PC (c : Nat) : Nat := 0x10001A + 0x1000 * c
def SEQ_STALL_CAUSE (c : Nat) : Nat := 0x10001E + 0x1000 * c
def SEQ_STALL_T (c : Nat) : Nat := 0x100020 + 0x1000 * c
def SEQ_STALL_D (c : Nat) : Nat := 0x100028 + 0x1000 * c
def SEQ_STALL_CNT (c : Nat) : Nat := 0x10002C + 0x1000 * c
def SEQ_JDEF_CNT (c : Nat) : Nat := 0x10002E + 0x1000 * c
def SEQ_LC_HIT (c : Nat) : Nat := 0x100030 + 0x1000 * c
def SEQ_LC_MISS (c : Nat) : Nat := 0x100032 + 0x1000 * c
def SEQ_RDCLASH_CNT (c : Nat) : Nat := 0x100034 + 0x1000 * c
def SEQ_APG_CFG (c : Nat) : Nat := 0x100040 + 0x1000 * c
def SEQ_X_MIN (c : Nat) : Nat := 0x100042 + 0x1000 * c
def SEQ_X_MIN_1 (c : Nat) : Nat := 0x100044 + 0x1000 * c
def SEQ_X_MAX (c : Nat) : Nat := 0x100046 + 0x1000 * c
def SEQ_X_MAX_1 (c : Nat) : Nat := 0x100048 + 0x1000 * c
def SEQ_X_ALT (c : Nat) : Nat := 0x10004A + 0x1000 * c
def SEQ_X_ALT_1 (c : Nat) : Nat := 0x10004C + 0x1000 * c
def SEQ_Y_MIN (c : Nat) : Nat := 0x10004E + 0x1000 * c
def SEQ_Y_MAX (c : Nat) : Nat := 0x100050 + 0x1000 * c
def SEQ_Y_ALT (c : Nat) : Nat := 0x100052 + 0x1000 * c
def SEQ_Z_LIM (c : Nat) : Nat := 0x100054 + 0x1000 * c
def SEQ_Z_ALT (c : Nat) : Nat := 0x100056 + 0x1000 * c
def SEQ_DPAT (c : Nat) : Nat := 0x100058 + 0x1000 * c
def SEQ_TSEL (c : Nat) : Nat := 0x100060 + 0x1000 * c
def SEQ_TDATA (c : Nat) : Nat := 0x100062 + 0x1000 * c
def SEQ_TCRC (c : Nat) : Nat := 0x100066 + 0x1000 * c
def SEQ_TSWAP (c : Nat) : Nat := 0x10006A + 0x1000 * c
def SEQ_TSTAT (c : Nat) : Nat := 0x10006C + 0x1000 * c
def SEQ_LOOP (c k : Nat) : Nat := 0x100100 + 0x1000 * c + 4 * k
def SEQ_GEN_X (c : Nat) : Nat := 0x100140 + 0x1000 * c
def SEQ_GEN_Y (c : Nat) : Nat := 0x100144 + 0x1000 * c
def SEQ_GEN_Z (c : Nat) : Nat := 0x100146 + 0x1000 * c
def SEQ_OP (c k : Nat) : Nat := 0x100400 + 0x1000 * c + 2 * k

/-! Offsets of the TIM caravan window (R167). -/

def TIM_PERIOD (c k : Nat) : Nat := 0x140000 + 0x100 * c + 2 * k

/-! Offsets of the RUN context window (R139). -/

def RUN_CD (c : Nat) : Nat := 0x150000 + 0x100 * c
def RUN_CD_MIN (c : Nat) : Nat := 0x150002 + 0x100 * c
def RUN_SND_CTL (c : Nat) : Nat := 0x150004 + 0x100 * c
def RUN_SND_STAT (c : Nat) : Nat := 0x150006 + 0x100 * c
def RUN_SND_RT (c : Nat) : Nat := 0x150008 + 0x100 * c
def RUN_SND_CODE (c : Nat) : Nat := 0x15000A + 0x100 * c
def RUN_CFG (c : Nat) : Nat := 0x15000C + 0x100 * c
def RUN_STAT (c : Nat) : Nat := 0x150010 + 0x100 * c
def RUN_EVT (c : Nat) : Nat := 0x150012 + 0x100 * c
def RUN_FORK_CNT (c : Nat) : Nat := 0x150014 + 0x100 * c
def RUN_PRED_CNT (c : Nat) : Nat := 0x150016 + 0x100 * c
def RUN_MISS_CNT (c : Nat) : Nat := 0x150018 + 0x100 * c
def RUN_SQUASH_CNT (c : Nat) : Nat := 0x15001A + 0x100 * c
def RUN_BUB_CNT (c : Nat) : Nat := 0x15001C + 0x100 * c
def RUN_LATE_CNT (c : Nat) : Nat := 0x15001E + 0x100 * c
def RUN_BUB_CLK (c : Nat) : Nat := 0x150020 + 0x100 * c
def RUN_BUB_LAST (c : Nat) : Nat := 0x150024 + 0x100 * c
def RUN_BUB_CAUSE (c : Nat) : Nat := 0x150026 + 0x100 * c
def RUN_WAIT_CNT (c : Nat) : Nat := 0x150028 + 0x100 * c
def RUN_HOME (c : Nat) : Nat := 0x15002A + 0x100 * c

/-! Offsets of the RUN site window (R140). -/

def RUN_SITE_STAT (n : Nat) : Nat := 0x160000 + 0x40 * n
def RUN_SITE_CODE (n : Nat) : Nat := 0x160002 + 0x40 * n
def RUN_SITE_LBL (n : Nat) : Nat := 0x160004 + 0x40 * n
def RUN_SITE_WAIT (n : Nat) : Nat := 0x160008 + 0x40 * n

/-! Offsets of the ASY site window (R193). -/

def ASY_SITE_CTL (n : Nat) : Nat := 0x180000 + 0x100 * n
def ASY_RES_ADV (n : Nat) : Nat := 0x180002 + 0x100 * n
def ASY_SITE_CFG (n : Nat) : Nat := 0x180004 + 0x100 * n
def ASY_LOG_MAX (n : Nat) : Nat := 0x180006 + 0x100 * n
def ASY_SITE_STAT (n : Nat) : Nat := 0x180008 + 0x100 * n
def ASY_RES_STAT (n : Nat) : Nat := 0x18000A + 0x100 * n
def ASY_RES_SEQ (n : Nat) : Nat := 0x18000C + 0x100 * n
def ASY_RES_USER (n : Nat) : Nat := 0x18000E + 0x100 * n
def ASY_RES_FLAGS (n k : Nat) : Nat := 0x180010 + 0x100 * n + 2 * k
def ASY_RES_END (n : Nat) : Nat := 0x180014 + 0x100 * n
def ASY_RES_REPAIRS (n : Nat) : Nat := 0x180016 + 0x100 * n
def ASY_FAILVEC (n : Nat) : Nat := 0x180018 + 0x100 * n
def ASY_LOG_WR (n : Nat) : Nat := 0x180020 + 0x100 * n
def ASY_LOG_RD (n : Nat) : Nat := 0x180024 + 0x100 * n
def ASY_LOG_BASE (n : Nat) : Nat := 0x180028 + 0x100 * n
def ASY_LOG_CAP (n : Nat) : Nat := 0x18002E + 0x100 * n
def ASY_LOST_CNT (n : Nat) : Nat := 0x180032 + 0x100 * n
def ASY_SUPP_CNT (n : Nat) : Nat := 0x180034 + 0x100 * n
def ASY_FULL_CNT (n : Nat) : Nat := 0x180036 + 0x100 * n
def ASY_ANA_LOST_CNT (n : Nat) : Nat := 0x180038 + 0x100 * n
def ASY_GEOM_CNT (n : Nat) : Nat := 0x18003A + 0x100 * n
def ASY_LOST_VEC (n : Nat) : Nat := 0x18003C + 0x100 * n

/-! Offsets of the MON group window (R297). -/

def MON_GRP_CFG (g : Nat) : Nat := 0x1C0000 + 0x40 * g
def MON_GRP_CTL (g : Nat) : Nat := 0x1C0002 + 0x40 * g
def MON_GRP_STAT (g : Nat) : Nat := 0x1C0004 + 0x40 * g
def MON_GRP_EVT (g : Nat) : Nat := 0x1C0006 + 0x40 * g
def MON_GRP_FIRST (g : Nat) : Nat := 0x1C0008 + 0x40 * g
def MON_GRP_CODE (g : Nat) : Nat := 0x1C000A + 0x40 * g
def MON_GRP_CNT (g : Nat) : Nat := 0x1C000C + 0x40 * g
def MON_GRP_T (g : Nat) : Nat := 0x1C0010 + 0x40 * g

/-! Offsets of the WFS unit window (R217). -/

def WFS_CTL (u : Nat) : Nat := 0x200000 + 0x2000 * u
def WFS_STAT (u : Nat) : Nat := 0x200002 + 0x2000 * u
def WFS_EVT (u : Nat) : Nat := 0x200004 + 0x2000 * u
def WFS_CODE (u : Nat) : Nat := 0x200006 + 0x2000 * u
def WFS_START_ENT (u : Nat) : Nat := 0x200008 + 0x2000 * u
def WFS_CFG (u : Nat) : Nat := 0x20000A + 0x2000 * u
def WFS_BIND (u : Nat) : Nat := 0x20000C + 0x2000 * u
def WFS_FTW (u : Nat) : Nat := 0x200010 + 0x2000 * u
def WFS_POFF (u : Nat) : Nat := 0x200016 + 0x2000 * u
def WFS_NCO_AMP (u : Nat) : Nat := 0x200018 + 0x2000 * u
def WFS_ADV_T (u : Nat) : Nat := 0x200020 + 0x2000 * u
def WFS_SAT_CNT (u : Nat) : Nat := 0x200028 + 0x2000 * u
def WFS_IGN_CNT (u : Nat) : Nat := 0x20002A + 0x2000 * u
def WFS_DEF_CNT (u : Nat) : Nat := 0x20002C + 0x2000 * u
def WFS_SEQ (u k : Nat) : Nat := 0x201000 + 0x2000 * u + 2 * k

/-! Offsets of the AWG unit window (R218). -/

def AWG_OUT (u : Nat) : Nat := 0x240000 + 0x100 * u
def AWG_OFFSET (u : Nat) : Nat := 0x240002 + 0x100 * u
def AWG_STAT (u : Nat) : Nat := 0x240004 + 0x100 * u
def AWG_EVT (u : Nat) : Nat := 0x240006 + 0x100 * u

/-! Offsets of the ACQ unit window (R243). -/

def ACQ_CTL (u : Nat) : Nat := 0x250000 + 0x100 * u
def ACQ_STAT (u : Nat) : Nat := 0x250002 + 0x100 * u
def ACQ_EVT (u : Nat) : Nat := 0x250004 + 0x100 * u
def ACQ_CODE (u : Nat) : Nat := 0x250006 + 0x100 * u
def ACQ_IN (u : Nat) : Nat := 0x250008 + 0x100 * u
def ACQ_OFFSET (u : Nat) : Nat := 0x25000A + 0x100 * u
def ACQ_TRIG (u : Nat) : Nat := 0x25000C + 0x100 * u
def ACQ_TRIG_LVL (u : Nat) : Nat := 0x25000E + 0x100 * u
def ACQ_TRIG_HYST (u : Nat) : Nat := 0x250010 + 0x100 * u
def ACQ_TRIG_EVT (u : Nat) : Nat := 0x250012 + 0x100 * u
def ACQ_AUTO (u : Nat) : Nat := 0x250014 + 0x100 * u
def ACQ_SEGS (u : Nat) : Nat := 0x250016 + 0x100 * u
def ACQ_MODE (u : Nat) : Nat := 0x250018 + 0x100 * u
def ACQ_DECIM (u : Nat) : Nat := 0x25001A + 0x100 * u
def ACQ_PRE (u : Nat) : Nat := 0x25001C + 0x100 * u
def ACQ_POST (u : Nat) : Nat := 0x250020 + 0x100 * u
def ACQ_CAP (u : Nat) : Nat := 0x250026 + 0x100 * u
def ACQ_CAP_1 (u : Nat) : Nat := 0x250028 + 0x100 * u
def ACQ_STRM_ADDR (u : Nat) : Nat := 0x250030 + 0x100 * u
def ACQ_STRM_BLK (u : Nat) : Nat := 0x250038 + 0x100 * u
def ACQ_STRM_PROD (u : Nat) : Nat := 0x250040 + 0x100 * u
def ACQ_STRM_CONS (u : Nat) : Nat := 0x250046 + 0x100 * u
def ACQ_RES_STAT (u : Nat) : Nat := 0x250050 + 0x100 * u
def ACQ_RES_SEQ (u : Nat) : Nat := 0x250052 + 0x100 * u
def ACQ_RES_SEG (u : Nat) : Nat := 0x250054 + 0x100 * u
def ACQ_RES_FLAGS (u : Nat) : Nat := 0x250056 + 0x100 * u
def ACQ_RES_ADV (u : Nat) : Nat := 0x250058 + 0x100 * u
def ACQ_RES_QUEUED (u : Nat) : Nat := 0x25005A + 0x100 * u
def ACQ_IGN_CNT (u : Nat) : Nat := 0x250060 + 0x100 * u
def ACQ_OVR_CNT (u : Nat) : Nat := 0x250062 + 0x100 * u

/-! Offsets of the DPS slice window (R294). -/

def DPS_CTL (i : Nat) : Nat := 0x300000 + 0x100 * i
def DPS_VSET (i : Nat) : Nat := 0x300002 + 0x100 * i
def DPS_ILIM (i : Nat) : Nat := 0x300004 + 0x100 * i
def DPS_SEQ (i : Nat) : Nat := 0x300006 + 0x100 * i
def DPS_RAMP (i : Nat) : Nat := 0x300008 + 0x100 * i
def DPS_STAT (i : Nat) : Nat := 0x30000A + 0x100 * i
def DPS_EVT (i : Nat) : Nat := 0x30000C + 0x100 * i
def DPS_CODE (i : Nat) : Nat := 0x30000E + 0x100 * i

/-! Offsets of the channel window (R165 to R168, R84, R269, R325). -/

def PIN_SRC (ch : Nat) : Nat := 0x10000E0 + 0x1000 * ch
def PIN_MODE (ch : Nat) : Nat := 0x1000000 + 0x1000 * ch
def PIN_STAT (ch : Nat) : Nat := 0x1000002 + 0x1000 * ch
def PIN_EVT (ch : Nat) : Nat := 0x1000004 + 0x1000 * ch
def PIN_SWING_CNT (ch : Nat) : Nat := 0x1000006 + 0x1000 * ch
def PIN_EDGE_ERR (ch : Nat) : Nat := 0x1000008 + 0x1000 * ch
def PIN_LVL_VIH (ch : Nat) : Nat := 0x1000010 + 0x1000 * ch
def PIN_LVL_VIL (ch : Nat) : Nat := 0x1000012 + 0x1000 * ch
def PIN_LVL_VIT (ch : Nat) : Nat := 0x1000014 + 0x1000 * ch
def PIN_LVL_VOH (ch : Nat) : Nat := 0x1000016 + 0x1000 * ch
def PIN_LVL_VOL (ch : Nat) : Nat := 0x1000018 + 0x1000 * ch
def PIN_LVL_VCOM (ch : Nat) : Nat := 0x100001A + 0x1000 * ch
def PIN_LVL_IOH (ch : Nat) : Nat := 0x100001C + 0x1000 * ch
def PIN_LVL_IOL (ch : Nat) : Nat := 0x100001E + 0x1000 * ch
def TIM_EDGE (ch k : Nat) : Nat := 0x1000800 + 0x1000 * ch + 4 * k
def TIM_EDGE_HI (ch k : Nat) : Nat := 0x1000802 + 0x1000 * ch + 4 * k
def PMU_MODE (ch : Nat) : Nat := 0x1000100 + 0x1000 * ch
def PMU_FORCE (ch : Nat) : Nat := 0x1000102 + 0x1000 * ch
def PMU_CLAMP_HI (ch : Nat) : Nat := 0x1000104 + 0x1000 * ch
def PMU_CLAMP_LO (ch : Nat) : Nat := 0x1000106 + 0x1000 * ch
def PMU_STAT (ch : Nat) : Nat := 0x1000108 + 0x1000 * ch
def TDC_CTL (ch : Nat) : Nat := 0x1000200 + 0x1000 * ch
def TDC_MODE (ch : Nat) : Nat := 0x1000202 + 0x1000 * ch
def TDC_START (ch : Nat) : Nat := 0x1000204 + 0x1000 * ch
def TDC_STOP (ch : Nat) : Nat := 0x1000206 + 0x1000 * ch
def TDC_EVSRC (ch : Nat) : Nat := 0x1000208 + 0x1000 * ch
def TDC_TMO (ch k : Nat) : Nat := 0x100020A + 0x1000 * ch + 2 * k
def TDC_TMO_2 (ch : Nat) : Nat := 0x100020E + 0x1000 * ch
def TDC_OFS_HI (ch : Nat) : Nat := 0x1000210 + 0x1000 * ch
def TDC_OFS_LO (ch : Nat) : Nat := 0x1000212 + 0x1000 * ch
def TDC_STAT (ch : Nat) : Nat := 0x1000220 + 0x1000 * ch
def TDC_EVT (ch : Nat) : Nat := 0x1000222 + 0x1000 * ch
def TDC_CODE (ch : Nat) : Nat := 0x1000224 + 0x1000 * ch
def TDC_RES_STAT (ch : Nat) : Nat := 0x1000230 + 0x1000 * ch
def TDC_RES_SEQ (ch : Nat) : Nat := 0x1000232 + 0x1000 * ch
def TDC_RES_FLAGS (ch : Nat) : Nat := 0x1000234 + 0x1000 * ch
def TDC_RES_START (ch k : Nat) : Nat := 0x1000236 + 0x1000 * ch + 2 * k
def TDC_RES_STOP (ch k : Nat) : Nat := 0x100023E + 0x1000 * ch + 2 * k
def TDC_RES_INT (ch k : Nat) : Nat := 0x1000246 + 0x1000 * ch + 2 * k
def TDC_RES_LEG (ch k : Nat) : Nat := 0x100024E + 0x1000 * ch + 2 * k
def TDC_RES_ADV (ch : Nat) : Nat := 0x1000252 + 0x1000 * ch
def TDC_EARLY_STOP (ch : Nat) : Nat := 0x1000260 + 0x1000 * ch
def TDC_LOST (ch : Nat) : Nat := 0x1000262 + 0x1000 * ch
def TDC_DROP (ch : Nat) : Nat := 0x1000264 + 0x1000 * ch
def TDC_TSEL (ch : Nat) : Nat := 0x1000270 + 0x1000 * ch
def TDC_TDATA (ch : Nat) : Nat := 0x1000272 + 0x1000 * ch
def TDC_TCRC (ch : Nat) : Nat := 0x1000274 + 0x1000 * ch
def TDC_TSWAP (ch : Nat) : Nat := 0x1000278 + 0x1000 * ch
def TDC_TSTAT (ch : Nat) : Nat := 0x100027A + 0x1000 * ch
def TDC_TGEN (ch : Nat) : Nat := 0x100027C + 0x1000 * ch
def TDC_CD_CTL (ch : Nat) : Nat := 0x1000280 + 0x1000 * ch
def TDC_CD_CFG (ch : Nat) : Nat := 0x1000282 + 0x1000 * ch
def LVL_TSEL (ch : Nat) : Nat := 0x1000180 + 0x1000 * ch
def LVL_TDATA (ch : Nat) : Nat := 0x1000182 + 0x1000 * ch
def LVL_TCRC (ch : Nat) : Nat := 0x1000184 + 0x1000 * ch
def LVL_TSWAP (ch : Nat) : Nat := 0x1000188 + 0x1000 * ch
def LVL_TSTAT (ch : Nat) : Nat := 0x100018A + 0x1000 * ch
def LVL_TGEN (ch : Nat) : Nat := 0x100018C + 0x1000 * ch

/-! Offsets of the measurement block, of a channel or of a slice (R295), from the block's own base `b`. -/

def PMU_MEAS_CFG (b : Nat) : Nat := b + 0x0
def PMU_MEAS_CTL (b : Nat) : Nat := b + 0x2
def PMU_MEAS_STAT (b : Nat) : Nat := b + 0x4
def PMU_MEAS_SEQ (b : Nat) : Nat := b + 0x6
def PMU_MEAS_AVG (b : Nat) : Nat := b + 0x8
def PMU_MEAS_MIN (b : Nat) : Nat := b + 0xA
def PMU_MEAS_MAX (b : Nat) : Nat := b + 0xC
def PMU_MEAS_FLAGS (b : Nat) : Nat := b + 0xE
def PMU_MEAS_T (b : Nat) : Nat := b + 0x10
def PMU_MEAS_ADV (b : Nat) : Nat := b + 0x18
def PMU_MEAS_CODE (b : Nat) : Nat := b + 0x1A
def PMU_MEAS_DROP (b : Nat) : Nat := b + 0x1C

/-! Offsets of the MON block, of a channel or of a slice (R296), from the block's own base `b`. -/

def MON_CFG (b : Nat) : Nat := b + 0x0
def MON_HI (b : Nat) : Nat := b + 0x2
def MON_LO (b : Nat) : Nat := b + 0x4
def MON_BLANK (b : Nat) : Nat := b + 0x6
def MON_BLANK_EVT (b : Nat) : Nat := b + 0x8
def MON_STAT (b : Nat) : Nat := b + 0xA
def MON_EVT (b : Nat) : Nat := b + 0xC
def MON_TRIP_CNT (b : Nat) : Nat := b + 0xE
def MON_BLANKED_CNT (b : Nat) : Nat := b + 0x10
def MON_TRIP_T (b : Nat) : Nat := b + 0x12

/-! Offsets of the CAL unit block, of a channel, digitizer, AWG or slice (R325), from the block's own base `b`. -/

def CAL_STAT (b : Nat) : Nat := b + 0x0
def CAL_EVT (b : Nat) : Nat := b + 0x2
def CAL_CODE (b : Nat) : Nat := b + 0x4
def CAL_CNT (b : Nat) : Nat := b + 0x6
def CAL_TIME (b : Nat) : Nat := b + 0xA
def CAL_TREF (b : Nat) : Nat := b + 0x12
def CAL_ZONE (b : Nat) : Nat := b + 0x14

/-- Base of the MON block of channel `ch` (Table 5.10). -/
def monOfChannel (ch : Nat) : Nat := 0x1000400 + 0x1000 * ch
/-- Base of the MON block of slice `i`, at 0x080 of its DPS window. -/
def monOfSlice (i : Nat) : Nat := 0x300080 + 0x100 * i
/-- Base of the measurement block of channel `ch` (Table 5.10). -/
def measOfChannel (ch : Nat) : Nat := 0x1000140 + 0x1000 * ch
/-- Base of the measurement block of slice `i`, at 0x040 of its DPS window (R282). -/
def measOfSlice (i : Nat) : Nat := 0x300040 + 0x100 * i
/-- Base of the CAL unit block of channel `ch` (Table 5.10). -/
def calOfChannel (ch : Nat) : Nat := 0x1000480 + 0x1000 * ch
/-- Base of the CAL unit block of digitizer `u` (R452). -/
def calOfAcq (u : Nat) : Nat := 0x2500E0 + 0x100 * u
/-- Base of the CAL unit block of AWG `u` (R452). -/
def calOfAwg (u : Nat) : Nat := 0x2400E0 + 0x100 * u
/-- Base of the CAL unit block of slice `i` (R452). -/
def calOfSlice (i : Nat) : Nat := 0x3000E0 + 0x100 * i

/-- The registers of the SYS window (R453), by their offset in the window. -/
def regsSYS : List RegDesc :=
  [
    ⟨0x000, 1, 2, false, 2, 0, [⟨15, 0, .ro, 0x2048⟩]⟩,
    ⟨0x002, 1, 2, false, 2, 1, [⟨15, 0, .ro, 0⟩]⟩,
    ⟨0x004, 1, 2, false, 0, 0, [⟨15, 8, .ro, 1⟩, ⟨7, 0, .ro, 0⟩]⟩,
    ⟨0x008, 4, 2, false, 4, 0, [⟨15, 0, .ro, 0⟩]⟩,
    ⟨0x010, 1, 2, false, 0, 0, [⟨0, 0, .rw, 0⟩]⟩,
    ⟨0x012, 1, 2, false, 0, 0, [⟨15, 15, .ro, 0⟩, ⟨14, 14, .ro, 0⟩, ⟨13, 13, .ro, 0⟩, ⟨12, 12, .ro, 0⟩, ⟨11, 11, .ro, 0⟩]⟩,
    ⟨0x014, 1, 2, false, 0, 0, [⟨0, 0, .w1c, 0⟩, ⟨1, 1, .w1c, 0⟩, ⟨2, 2, .w1c, 0⟩, ⟨3, 3, .w1c, 0⟩]⟩,
    ⟨0x016, 1, 2, false, 0, 0, [⟨15, 0, .rc, 0⟩]⟩,
    ⟨0x018, 2, 2, false, 2, 0, [⟨15, 0, .ro, 0⟩]⟩,
    ⟨0x020, 4, 2, false, 4, 0, [⟨15, 0, .ro, 0⟩]⟩,
    ⟨0x028, 1, 2, false, 0, 0, [⟨15, 0, .ro, 0⟩]⟩,
    ⟨0x030, 1, 2, false, 2, 0, [⟨15, 0, .ro, 0⟩]⟩,
    ⟨0x032, 1, 2, false, 2, 1, [⟨15, 14, .ro, 0⟩, ⟨11, 0, .ro, 0⟩]⟩,
    ⟨0x034, 1, 2, false, 0, 0, [⟨15, 0, .rc, 0⟩]⟩]

/-- The registers of the CST window (R76), by their offset in the window. -/
def regsCST : List RegDesc :=
  [
    ⟨0x000, 1, 2, false, 0, 0, [⟨15, 13, .ro, 0⟩, ⟨12, 11, .ro, 0⟩, ⟨10, 10, .ro, 0⟩, ⟨9, 9, .ro, 0⟩, ⟨8, 8, .ro, 0⟩, ⟨5, 0, .ro, 0⟩]⟩,
    ⟨0x002, 1, 2, false, 0, 0, [⟨0, 0, .w1c, 0⟩, ⟨1, 1, .w1c, 0⟩, ⟨2, 2, .w1c, 0⟩, ⟨3, 3, .w1c, 0⟩, ⟨4, 4, .w1c, 0⟩, ⟨5, 5, .w1c, 0⟩, ⟨6, 6, .w1c, 0⟩]⟩,
    ⟨0x004, 1, 2, false, 0, 0, [⟨15, 0, .ro, 0⟩]⟩,
    ⟨0x006, 1, 2, false, 0, 0, [⟨15, 0, .ro, 0⟩]⟩,
    ⟨0x008, 2, 2, false, 2, 0, [⟨15, 0, .ro, 0⟩]⟩,
    ⟨0x010, 4, 2, false, 4, 0, [⟨15, 0, .ro, 0⟩]⟩,
    ⟨0x018, 1, 2, false, 0, 0, [⟨15, 0, .ro, 0⟩]⟩,
    ⟨0x01A, 1, 2, false, 0, 0, [⟨15, 0, .rc, 0⟩]⟩,
    ⟨0x020, 2, 2, false, 2, 0, [⟨15, 0, .ro, 0⟩]⟩,
    ⟨0x024, 2, 2, false, 2, 0, [⟨15, 0, .ro, 0⟩]⟩,
    ⟨0x040, 32, 2, true, 0, 0, [⟨15, 0, .rw, 0⟩]⟩,
    ⟨0x100, 32, 2, false, 0, 0, [⟨15, 0, .ro, 0⟩]⟩]

/-- The registers of the SEQ common window (R115), by their offset in the window. -/
def regsSEQC : List RegDesc :=
  [
    ⟨0x000, 1, 2, false, 0, 0, [⟨0, 0, .w1c, 0⟩]⟩,
    ⟨0x002, 1, 2, false, 0, 0, [⟨15, 0, .rc, 0⟩]⟩,
    ⟨0x004, 1, 2, false, 0, 0, [⟨5, 0, .ro, 0⟩]⟩,
    ⟨0x006, 3, 2, false, 3, 0, [⟨15, 0, .ro, 0⟩]⟩,
    ⟨0x010, 1, 2, false, 0, 0, [⟨5, 0, .rw, 0⟩]⟩,
    ⟨0x012, 1, 2, false, 0, 0, [⟨15, 0, .rw, 0⟩]⟩,
    ⟨0x014, 1, 2, false, 0, 0, [⟨0, 0, .ro, 0⟩, ⟨1, 1, .ro, 0⟩, ⟨15, 8, .ro, 0⟩]⟩]

/-- The registers of the ASY common window (R194), by their offset in the window. -/
def regsASY : List RegDesc :=
  [
    ⟨0x000, 16, 2, true, 0, 0, [⟨15, 15, .rw, 0⟩, ⟨14, 14, .rw, 0⟩, ⟨7, 0, .rw, 0⟩]⟩,
    ⟨0x020, 1, 2, true, 0, 0, [⟨15, 15, .rw, 0⟩, ⟨14, 14, .rw, 0⟩]⟩,
    ⟨0x022, 2, 2, true, 2, 0, [⟨15, 0, .rw, 0⟩]⟩,
    ⟨0x026, 1, 2, true, 0, 0, [⟨7, 0, .rw, 0x10⟩]⟩,
    ⟨0x040, 1, 2, true, 0, 0, [⟨15, 0, .rw, 0⟩]⟩,
    ⟨0x042, 1, 2, true, 0, 0, [⟨15, 0, .rw, 1⟩]⟩,
    ⟨0x044, 1, 2, true, 0, 0, [⟨15, 0, .rw, 2⟩]⟩,
    ⟨0x046, 1, 2, true, 0, 0, [⟨15, 0, .rw, 3⟩]⟩,
    ⟨0x048, 1, 2, true, 0, 0, [⟨15, 0, .rw, 4⟩]⟩,
    ⟨0x04A, 1, 2, true, 0, 0, [⟨15, 0, .rw, 5⟩]⟩,
    ⟨0x04C, 1, 2, true, 0, 0, [⟨15, 0, .rw, 6⟩]⟩,
    ⟨0x04E, 1, 2, true, 0, 0, [⟨15, 0, .rw, 7⟩]⟩,
    ⟨0x060, 1, 2, false, 0, 0, [⟨0, 0, .w1c, 0⟩, ⟨1, 1, .w1c, 0⟩, ⟨2, 2, .w1c, 0⟩, ⟨3, 3, .w1c, 0⟩, ⟨4, 4, .w1c, 0⟩, ⟨5, 5, .w1c, 0⟩]⟩,
    ⟨0x080, 32, 2, false, 0, 0, [⟨15, 0, .ro, 0⟩]⟩]

/-- The registers of the TDC common window (R270), by their offset in the window. -/
def regsTDCC : List RegDesc :=
  [
    ⟨0x000, 8, 2, true, 0, 0, [⟨15, 0, .rwt, 0⟩]⟩]

/-- The registers of the DPS common window (R297), by their offset in the window. -/
def regsDPSC : List RegDesc :=
  [
    ⟨0x000, 1, 2, false, 0, 0, [⟨15, 0, .ro, 0⟩]⟩,
    ⟨0x002, 1, 2, true, 0, 0, [⟨3, 0, .rw, 4⟩]⟩,
    ⟨0x004, 1, 2, false, 0, 0, [⟨0, 0, .w1c, 0⟩]⟩,
    ⟨0x006, 1, 2, false, 0, 0, [⟨15, 0, .ro, 0⟩]⟩,
    ⟨0x400, 512, 2, true, 0, 0, [⟨15, 0, .rw, 0xffff⟩]⟩,
    ⟨0x800, 512, 2, true, 0, 0, [⟨15, 0, .rwt, 0⟩]⟩]

/-- The registers of the CAL common window (R326), by their offset in the window. -/
def regsCALC : List RegDesc :=
  [
    ⟨0x000, 1, 2, true, 0, 0, [⟨0, 0, .wo, 0⟩, ⟨1, 1, .wo, 0⟩]⟩,
    ⟨0x002, 1, 2, false, 0, 0, [⟨15, 13, .rw, 0⟩, ⟨4, 0, .rw, 0⟩]⟩,
    ⟨0x004, 1, 2, false, 0, 0, [⟨15, 0, .rw, 0⟩]⟩,
    ⟨0x006, 1, 2, false, 0, 0, [⟨15, 0, .rw, 0⟩]⟩,
    ⟨0x008, 1, 2, false, 0, 0, [⟨15, 0, .ro, 0⟩]⟩,
    ⟨0x00A, 1, 2, false, 0, 0, [⟨15, 0, .ro, 0⟩]⟩,
    ⟨0x00C, 1, 2, false, 0, 0, [⟨0, 0, .w1c, 0⟩, ⟨1, 1, .w1c, 0⟩, ⟨2, 2, .w1c, 0⟩, ⟨3, 3, .w1c, 0⟩, ⟨4, 4, .w1c, 0⟩, ⟨5, 5, .w1c, 0⟩, ⟨6, 6, .w1c, 0⟩, ⟨7, 7, .w1c, 0⟩, ⟨8, 8, .w1c, 0⟩]⟩,
    ⟨0x00E, 1, 2, false, 0, 0, [⟨15, 0, .ro, 0⟩]⟩,
    ⟨0x010, 1, 2, true, 0, 0, [⟨15, 15, .rw, 0⟩, ⟨14, 14, .rw, 0⟩]⟩,
    ⟨0x012, 1, 2, true, 0, 0, [⟨15, 15, .wo, 0⟩, ⟨11, 0, .wo, 0⟩]⟩,
    ⟨0x014, 1, 2, false, 0, 0, [⟨3, 0, .ro, 0⟩]⟩,
    ⟨0x020, 1, 2, true, 0, 0, [⟨15, 0, .rw, 0⟩]⟩,
    ⟨0x022, 2, 2, false, 2, 0, [⟨15, 0, .ro, 0⟩]⟩,
    ⟨0x030, 4, 2, true, 0, 0, [⟨15, 15, .rw, 0⟩, ⟨14, 14, .ro, 0⟩, ⟨13, 13, .ro, 0⟩, ⟨1, 0, .rw, 0⟩]⟩,
    ⟨0x038, 4, 2, true, 0, 0, [⟨15, 15, .rw, 0⟩, ⟨14, 14, .ro, 0⟩, ⟨13, 13, .ro, 0⟩, ⟨1, 0, .rw, 0⟩]⟩,
    ⟨0x040, 1, 2, true, 0, 0, [⟨3, 0, .rw, 0⟩]⟩,
    ⟨0x042, 1, 2, false, 0, 0, [⟨3, 0, .w1c, 0⟩, ⟨7, 4, .ro, 0⟩, ⟨11, 8, .ro, 0⟩]⟩]

/-- The registers of the HST window (R354), by their offset in the window. -/
def regsHST : List RegDesc :=
  [
    ⟨0x000, 1, 2, false, 0, 0, [⟨0, 0, .rw, 0⟩, ⟨1, 1, .rw, 0⟩]⟩,
    ⟨0x002, 1, 2, false, 0, 0, [⟨15, 15, .ro, 0⟩, ⟨14, 13, .ro, 0⟩, ⟨12, 11, .ro, 0⟩, ⟨10, 10, .ro, 0⟩, ⟨9, 9, .ro, 0⟩]⟩,
    ⟨0x004, 1, 2, false, 0, 0, [⟨0, 0, .w1c, 0⟩, ⟨1, 1, .w1c, 0⟩, ⟨2, 2, .w1c, 0⟩, ⟨3, 3, .w1c, 0⟩, ⟨4, 4, .w1c, 0⟩, ⟨5, 5, .w1c, 0⟩, ⟨6, 6, .w1c, 0⟩]⟩,
    ⟨0x010, 4, 2, false, 4, 0, [⟨15, 0, .rw, 0⟩]⟩,
    ⟨0x018, 1, 2, false, 0, 0, [⟨3, 0, .rw, 6⟩]⟩,
    ⟨0x01A, 1, 2, false, 0, 0, [⟨15, 0, .rw, 0⟩]⟩,
    ⟨0x01C, 1, 2, false, 0, 0, [⟨15, 0, .ro, 0⟩]⟩,
    ⟨0x020, 4, 2, false, 4, 0, [⟨15, 0, .rw, 0⟩]⟩,
    ⟨0x028, 1, 2, false, 0, 0, [⟨3, 0, .rw, 6⟩]⟩,
    ⟨0x02A, 1, 2, false, 0, 0, [⟨15, 0, .ro, 0⟩]⟩,
    ⟨0x02C, 1, 2, false, 0, 0, [⟨15, 0, .rw, 0⟩]⟩,
    ⟨0x030, 4, 2, false, 4, 0, [⟨15, 0, .rw, 0⟩]⟩,
    ⟨0x038, 1, 2, false, 0, 0, [⟨0, 0, .wo, 0⟩]⟩,
    ⟨0x03A, 2, 2, false, 2, 0, [⟨15, 0, .ro, 0⟩]⟩,
    ⟨0x03E, 1, 2, false, 0, 0, [⟨15, 0, .rc, 0⟩]⟩,
    ⟨0x040, 1, 2, false, 0, 0, [⟨15, 10, .rw, 1⟩, ⟨9, 0, .rw, 0⟩]⟩,
    ⟨0x050, 3, 2, false, 3, 0, [⟨15, 0, .ro, 0⟩]⟩,
    ⟨0x056, 2, 2, false, 2, 0, [⟨15, 0, .ro, 0⟩]⟩,
    ⟨0x05A, 2, 2, false, 2, 0, [⟨15, 0, .rw, 0⟩]⟩,
    ⟨0x05E, 1, 2, false, 0, 0, [⟨15, 0, .rc, 0⟩]⟩,
    ⟨0x060, 3, 2, false, 3, 0, [⟨15, 0, .ro, 0⟩]⟩,
    ⟨0x080, 1, 2, false, 0, 0, [⟨4, 0, .rw, 0⟩]⟩,
    ⟨0x082, 1, 2, false, 0, 0, [⟨15, 13, .ro, 0⟩, ⟨10, 0, .ro, 0⟩]⟩,
    ⟨0x084, 1, 2, false, 0, 0, [⟨15, 0, .ro, 0⟩]⟩] ++
  [
    ⟨0x086, 4, 2, false, 4, 0, [⟨15, 0, .ro, 0⟩]⟩,
    ⟨0x08E, 2, 2, false, 2, 0, [⟨15, 0, .ro, 0⟩]⟩]

/-- The registers of the CVY window (R374), by their offset in the window. -/
def regsCVY : List RegDesc :=
  [
    ⟨0x000, 1, 2, false, 0, 0, [⟨15, 13, .ro, 0⟩, ⟨12, 12, .ro, 0⟩, ⟨11, 11, .ro, 0⟩, ⟨10, 10, .ro, 0⟩, ⟨9, 8, .ro, 0⟩, ⟨7, 6, .ro, 0⟩, ⟨5, 0, .ro, 0⟩]⟩,
    ⟨0x002, 1, 2, false, 0, 0, [⟨0, 0, .w1c, 0⟩, ⟨1, 1, .w1c, 0⟩, ⟨2, 2, .w1c, 0⟩, ⟨3, 3, .w1c, 0⟩, ⟨4, 4, .w1c, 0⟩, ⟨5, 5, .w1c, 0⟩, ⟨6, 6, .w1c, 0⟩, ⟨7, 7, .w1c, 0⟩]⟩,
    ⟨0x004, 1, 2, true, 0, 0, [⟨15, 15, .rw, 0⟩, ⟨8, 0, .rw, 0⟩]⟩,
    ⟨0x006, 1, 2, true, 0, 0, [⟨15, 0, .rw, 0x800⟩]⟩,
    ⟨0x008, 1, 2, false, 0, 0, [⟨6, 0, .ro, 1⟩]⟩,
    ⟨0x00A, 4, 2, false, 4, 0, [⟨15, 0, .ro, 0⟩]⟩,
    ⟨0x012, 1, 2, false, 0, 0, [⟨15, 0, .ro, 0⟩]⟩,
    ⟨0x020, 1, 2, false, 0, 0, [⟨15, 0, .rc, 0⟩]⟩,
    ⟨0x022, 1, 2, false, 0, 0, [⟨15, 0, .rc, 0⟩]⟩,
    ⟨0x024, 1, 2, false, 0, 0, [⟨15, 0, .rc, 0⟩]⟩,
    ⟨0x026, 1, 2, false, 0, 0, [⟨15, 0, .rc, 0⟩]⟩,
    ⟨0x028, 1, 2, false, 0, 0, [⟨15, 0, .rc, 0⟩]⟩,
    ⟨0x02A, 1, 2, false, 0, 0, [⟨15, 0, .rc, 0⟩]⟩,
    ⟨0x030, 1, 2, false, 0, 0, [⟨15, 0, .ro, 0⟩]⟩,
    ⟨0x032, 1, 2, false, 0, 0, [⟨15, 0, .ro, 0⟩]⟩,
    ⟨0x034, 1, 2, false, 0, 0, [⟨15, 0, .ro, 0⟩]⟩,
    ⟨0x040, 1, 2, true, 0, 0, [⟨15, 15, .rwt, 0⟩, ⟨14, 13, .rwt, 0⟩, ⟨12, 8, .rwt, 0⟩, ⟨7, 0, .rwt, 0⟩]⟩,
    ⟨0x042, 1, 2, true, 0, 0, [⟨15, 15, .rwt, 0⟩, ⟨14, 13, .rwt, 0⟩, ⟨12, 8, .rwt, 0⟩, ⟨7, 0, .rwt, 0⟩]⟩,
    ⟨0x100, 16, 16, true, 0, 0, [⟨15, 15, .rw, 0⟩, ⟨5, 0, .rw, 0⟩]⟩,
    ⟨0x102, 16, 16, true, 2, 0, [⟨15, 0, .rw, 0⟩]⟩,
    ⟨0x104, 16, 16, true, 2, 1, [⟨15, 0, .rw, 0⟩]⟩,
    ⟨0x106, 16, 16, true, 4, 0, [⟨15, 0, .rw, 0⟩]⟩,
    ⟨0x108, 16, 16, true, 4, 1, [⟨15, 0, .rw, 0⟩]⟩,
    ⟨0x10A, 16, 16, true, 4, 2, [⟨15, 0, .rw, 0⟩]⟩] ++
  [
    ⟨0x10C, 16, 16, true, 4, 3, [⟨15, 0, .rw, 0⟩]⟩,
    ⟨0x10E, 16, 16, true, 0, 0, [⟨15, 8, .rw, 0⟩, ⟨7, 0, .rw, 0⟩]⟩]

/-- The registers of the WAY window (R402), by their offset in the window. -/
def regsWAY : List RegDesc :=
  [
    ⟨0x000, 1, 2, false, 0, 0, [⟨0, 0, .w1c, 0⟩, ⟨1, 1, .w1c, 0⟩, ⟨2, 2, .w1c, 0⟩, ⟨3, 3, .w1c, 0⟩]⟩,
    ⟨0x002, 1, 2, false, 0, 0, [⟨15, 0, .rc, 0⟩]⟩,
    ⟨0x004, 1, 2, false, 0, 0, [⟨15, 0, .rc, 0⟩]⟩,
    ⟨0x006, 1, 2, false, 0, 0, [⟨15, 0, .rc, 0⟩]⟩,
    ⟨0x008, 1, 2, false, 0, 0, [⟨15, 0, .rc, 0⟩]⟩,
    ⟨0x010, 1, 2, false, 0, 0, [⟨3, 0, .rw, 0⟩]⟩,
    ⟨0x012, 1, 2, false, 0, 0, [⟨15, 12, .ro, 0⟩, ⟨11, 10, .ro, 0⟩, ⟨9, 9, .ro, 0⟩, ⟨8, 8, .ro, 0⟩, ⟨3, 0, .ro, 0⟩]⟩,
    ⟨0x014, 3, 2, false, 3, 0, [⟨15, 0, .ro, 0⟩]⟩,
    ⟨0x01A, 4, 2, false, 4, 0, [⟨15, 0, .ro, 0⟩]⟩,
    ⟨0x030, 1, 2, true, 0, 0, [⟨15, 15, .rwt, 0⟩, ⟨14, 13, .rwt, 0⟩, ⟨12, 8, .rwt, 0⟩, ⟨7, 7, .rwt, 0⟩]⟩,
    ⟨0x032, 1, 2, true, 0, 0, [⟨15, 15, .rwt, 0⟩, ⟨14, 13, .rwt, 0⟩, ⟨12, 8, .rwt, 0⟩, ⟨7, 7, .rwt, 0⟩]⟩]

/-- The registers of the TOL window (R404), by their offset in the window. -/
def regsTOL : List RegDesc :=
  [
    ⟨0x000, 1, 2, false, 0, 0, [⟨15, 15, .ro, 0⟩, ⟨14, 14, .ro, 0⟩, ⟨13, 13, .ro, 0⟩, ⟨12, 12, .ro, 0⟩, ⟨7, 0, .ro, 0⟩]⟩,
    ⟨0x002, 1, 2, false, 0, 0, [⟨0, 0, .w1c, 0⟩, ⟨1, 1, .w1c, 0⟩, ⟨2, 2, .w1c, 0⟩, ⟨3, 3, .w1c, 0⟩]⟩,
    ⟨0x004, 1, 2, false, 0, 0, [⟨15, 0, .ro, 0⟩]⟩,
    ⟨0x006, 1, 2, false, 0, 0, [⟨2, 0, .rw, 0⟩]⟩,
    ⟨0x008, 1, 2, false, 0, 0, [⟨8, 0, .ro, 0⟩]⟩,
    ⟨0x00A, 4, 2, false, 4, 0, [⟨15, 0, .ro, 0⟩]⟩,
    ⟨0x012, 4, 2, false, 4, 0, [⟨15, 0, .ro, 0⟩]⟩,
    ⟨0x01A, 1, 2, false, 0, 0, [⟨15, 0, .rc, 0⟩]⟩,
    ⟨0x01C, 1, 2, false, 0, 0, [⟨15, 0, .rc, 0⟩]⟩]

/-- The registers of the FWU window (R423), by their offset in the window. -/
def regsFWU : List RegDesc :=
  [
    ⟨0x000, 1, 2, false, 0, 0, [⟨15, 15, .ro, 0⟩, ⟨14, 14, .ro, 0⟩, ⟨13, 12, .ro, 0⟩, ⟨11, 4, .ro, 0⟩, ⟨3, 0, .ro, 0⟩]⟩,
    ⟨0x002, 1, 2, false, 0, 0, [⟨0, 0, .w1c, 0⟩, ⟨1, 1, .w1c, 0⟩, ⟨2, 2, .w1c, 0⟩, ⟨3, 3, .w1c, 0⟩, ⟨4, 4, .w1c, 0⟩]⟩,
    ⟨0x004, 1, 2, false, 0, 0, [⟨15, 0, .ro, 0⟩]⟩,
    ⟨0x006, 1, 2, true, 0, 0, [⟨15, 15, .rw, 1⟩]⟩,
    ⟨0x008, 2, 2, false, 2, 0, [⟨15, 0, .ro, 0⟩]⟩,
    ⟨0x010, 1, 2, false, 0, 0, [⟨15, 13, .ro, 0⟩, ⟨12, 11, .ro, 0⟩]⟩,
    ⟨0x012, 1, 2, false, 0, 0, [⟨15, 0, .ro, 0⟩]⟩,
    ⟨0x014, 2, 2, false, 2, 0, [⟨15, 0, .ro, 0⟩]⟩,
    ⟨0x018, 2, 2, false, 2, 0, [⟨15, 0, .ro, 0⟩]⟩,
    ⟨0x020, 1, 2, false, 0, 0, [⟨15, 13, .ro, 0⟩, ⟨12, 11, .ro, 0⟩]⟩,
    ⟨0x022, 1, 2, false, 0, 0, [⟨15, 0, .ro, 0⟩]⟩,
    ⟨0x024, 2, 2, false, 2, 0, [⟨15, 0, .ro, 0⟩]⟩,
    ⟨0x028, 2, 2, false, 2, 0, [⟨15, 0, .ro, 0⟩]⟩]

/-- The registers of the THM window (R439), by their offset in the window. -/
def regsTHM : List RegDesc :=
  [
    ⟨0x000, 1, 2, false, 0, 0, [⟨15, 14, .ro, 0⟩, ⟨13, 13, .ro, 0⟩, ⟨12, 12, .ro, 0⟩, ⟨11, 11, .ro, 0⟩, ⟨10, 10, .ro, 0⟩, ⟨5, 0, .ro, 0⟩]⟩,
    ⟨0x002, 1, 2, false, 0, 0, [⟨0, 0, .w1c, 0⟩, ⟨1, 1, .w1c, 0⟩, ⟨2, 2, .w1c, 0⟩, ⟨3, 3, .w1c, 0⟩, ⟨4, 4, .w1c, 0⟩, ⟨5, 5, .w1c, 0⟩, ⟨6, 6, .w1c, 0⟩, ⟨7, 7, .w1c, 0⟩]⟩,
    ⟨0x004, 1, 2, false, 0, 0, [⟨15, 0, .ro, 0⟩]⟩,
    ⟨0x006, 1, 2, false, 0, 0, [⟨15, 15, .wo, 0⟩, ⟨5, 0, .wo, 0⟩]⟩,
    ⟨0x008, 1, 2, true, 0, 0, [⟨15, 15, .rw, 1⟩, ⟨4, 0, .rw, 0⟩]⟩,
    ⟨0x00A, 1, 2, true, 0, 0, [⟨15, 15, .rw, 1⟩]⟩,
    ⟨0x010, 1, 2, false, 0, 0, [⟨15, 0, .ro, 0⟩]⟩,
    ⟨0x012, 1, 2, false, 0, 0, [⟨15, 0, .ro, 0⟩]⟩,
    ⟨0x100, 64, 2, false, 0, 0, [⟨15, 0, .ro, 0x7fff⟩]⟩,
    ⟨0x180, 64, 2, false, 0, 0, [⟨15, 14, .ro, 0⟩, ⟨13, 13, .ro, 0⟩, ⟨12, 11, .ro, 0⟩, ⟨10, 10, .ro, 0⟩]⟩,
    ⟨0x200, 64, 2, true, 0, 0, [⟨15, 15, .rwt, 0⟩, ⟨5, 0, .rwt, 0⟩]⟩]

/-- The registers of the CHK unit window (R403), by their offset in the window. -/
def regsCHK : List RegDesc :=
  [
    ⟨0x000, 1, 2, true, 0, 0, [⟨0, 0, .wo, 0⟩, ⟨1, 1, .wo, 0⟩]⟩,
    ⟨0x002, 1, 2, true, 0, 0, [⟨15, 10, .rw, 0⟩, ⟨9, 9, .rw, 0⟩, ⟨8, 8, .rw, 0⟩, ⟨7, 7, .rw, 0⟩, ⟨6, 4, .rw, 0⟩, ⟨3, 0, .rw, 0⟩]⟩,
    ⟨0x004, 1, 2, true, 0, 0, [⟨8, 0, .rw, 0⟩]⟩,
    ⟨0x006, 1, 2, true, 0, 0, [⟨7, 0, .rw, 0⟩]⟩,
    ⟨0x010, 4, 2, true, 4, 0, [⟨15, 0, .rw, 0⟩]⟩,
    ⟨0x018, 4, 2, true, 4, 0, [⟨15, 0, .rw, 0⟩]⟩,
    ⟨0x020, 4, 2, true, 4, 0, [⟨15, 0, .rw, 0⟩]⟩,
    ⟨0x028, 2, 2, true, 2, 0, [⟨15, 0, .rw, 0⟩]⟩,
    ⟨0x02C, 1, 2, true, 0, 0, [⟨15, 15, .rw, 0⟩, ⟨7, 0, .rw, 1⟩]⟩,
    ⟨0x02E, 2, 2, true, 2, 0, [⟨15, 0, .rw, 0⟩]⟩,
    ⟨0x032, 1, 2, true, 0, 0, [⟨15, 15, .rw, 0⟩, ⟨14, 14, .rw, 0⟩, ⟨13, 8, .rw, 0⟩, ⟨7, 0, .rw, 0⟩]⟩,
    ⟨0x034, 1, 2, false, 0, 0, [⟨15, 0, .wo, 0⟩]⟩,
    ⟨0x036, 1, 2, false, 0, 0, [⟨15, 0, .wo, 0⟩]⟩,
    ⟨0x038, 1, 2, false, 0, 0, [⟨15, 14, .ro, 0⟩, ⟨13, 13, .ro, 0⟩]⟩,
    ⟨0x03A, 1, 2, false, 0, 0, [⟨0, 0, .w1c, 0⟩, ⟨1, 1, .w1c, 0⟩, ⟨2, 2, .w1c, 0⟩, ⟨3, 3, .w1c, 0⟩, ⟨4, 4, .w1c, 0⟩, ⟨5, 5, .w1c, 0⟩]⟩,
    ⟨0x03C, 1, 2, false, 0, 0, [⟨15, 0, .ro, 0⟩]⟩,
    ⟨0x040, 1, 2, false, 0, 0, [⟨15, 15, .ro, 0⟩, ⟨14, 14, .ro, 0⟩, ⟨13, 9, .ro, 0⟩]⟩,
    ⟨0x042, 1, 2, false, 0, 0, [⟨15, 0, .ro, 0⟩]⟩,
    ⟨0x044, 1, 2, false, 0, 0, [⟨15, 0, .ro, 0⟩]⟩,
    ⟨0x046, 1, 2, false, 0, 0, [⟨0, 0, .ro, 0⟩, ⟨1, 1, .ro, 0⟩, ⟨2, 2, .ro, 0⟩, ⟨3, 3, .ro, 0⟩, ⟨4, 4, .ro, 0⟩, ⟨5, 5, .ro, 0⟩, ⟨6, 6, .ro, 0⟩, ⟨7, 7, .ro, 0⟩]⟩,
    ⟨0x048, 4, 2, false, 0, 0, [⟨15, 0, .ro, 0⟩]⟩,
    ⟨0x050, 4, 2, false, 0, 0, [⟨15, 0, .ro, 0⟩]⟩,
    ⟨0x058, 4, 2, false, 0, 0, [⟨15, 0, .ro, 0⟩]⟩,
    ⟨0x060, 1, 2, false, 0, 0, [⟨0, 0, .wo, 0⟩]⟩] ++
  [
    ⟨0x062, 1, 2, false, 0, 0, [⟨15, 0, .rc, 0⟩]⟩,
    ⟨0x064, 1, 2, false, 0, 0, [⟨15, 0, .rc, 0⟩]⟩,
    ⟨0x066, 1, 2, false, 0, 0, [⟨15, 0, .rc, 0⟩]⟩,
    ⟨0x068, 1, 2, false, 0, 0, [⟨15, 0, .rc, 0⟩]⟩,
    ⟨0x06A, 1, 2, false, 0, 0, [⟨15, 0, .rc, 0⟩]⟩]

/-- The registers of the SEQ caravan window (R114), by their offset in the window. -/
def regsSEQ : List RegDesc :=
  [
    ⟨0x000, 1, 2, true, 0, 0, [⟨0, 0, .wo, 0⟩, ⟨1, 1, .wo, 0⟩, ⟨2, 2, .wo, 0⟩, ⟨3, 3, .wo, 0⟩]⟩,
    ⟨0x002, 1, 2, false, 0, 0, [⟨2, 0, .ro, 0⟩, ⟨6, 3, .ro, 0⟩]⟩,
    ⟨0x004, 1, 2, false, 0, 0, [⟨0, 0, .w1c, 0⟩, ⟨1, 1, .w1c, 0⟩, ⟨2, 2, .w1c, 0⟩, ⟨3, 3, .w1c, 0⟩, ⟨4, 4, .w1c, 0⟩, ⟨5, 5, .w1c, 0⟩, ⟨6, 6, .w1c, 0⟩]⟩,
    ⟨0x006, 1, 2, false, 0, 0, [⟨15, 0, .ro, 0⟩]⟩,
    ⟨0x008, 1, 2, true, 0, 0, [⟨15, 0, .rw, 0⟩]⟩,
    ⟨0x00A, 2, 2, true, 2, 0, [⟨15, 0, .rw, 0⟩]⟩,
    ⟨0x00E, 1, 2, true, 0, 0, [⟨15, 8, .rw, 0x20⟩, ⟨0, 0, .rw, 0⟩]⟩,
    ⟨0x010, 1, 2, true, 0, 0, [⟨0, 0, .rw, 0⟩]⟩,
    ⟨0x012, 1, 2, true, 0, 0, [⟨1, 0, .rw, 0⟩]⟩,
    ⟨0x014, 2, 2, true, 2, 0, [⟨15, 0, .rw, 0⟩]⟩,
    ⟨0x018, 1, 2, false, 0, 0, [⟨0, 0, .ro, 0⟩, ⟨1, 1, .ro, 0⟩]⟩,
    ⟨0x01A, 2, 2, false, 2, 0, [⟨15, 0, .ro, 0⟩]⟩,
    ⟨0x01E, 1, 2, false, 0, 0, [⟨3, 0, .ro, 0⟩]⟩,
    ⟨0x020, 4, 2, false, 4, 0, [⟨15, 0, .ro, 0⟩]⟩,
    ⟨0x028, 2, 2, false, 2, 0, [⟨15, 0, .ro, 0⟩]⟩,
    ⟨0x02C, 1, 2, false, 0, 0, [⟨15, 0, .rc, 0⟩]⟩,
    ⟨0x02E, 1, 2, false, 0, 0, [⟨15, 0, .rc, 0⟩]⟩,
    ⟨0x030, 1, 2, false, 0, 0, [⟨15, 0, .rc, 0⟩]⟩,
    ⟨0x032, 1, 2, false, 0, 0, [⟨15, 0, .rc, 0⟩]⟩,
    ⟨0x034, 1, 2, false, 0, 0, [⟨15, 0, .rc, 0⟩]⟩,
    ⟨0x040, 1, 2, true, 0, 0, [⟨15, 15, .rw, 0⟩, ⟨14, 14, .rw, 0⟩, ⟨13, 8, .rw, 0⟩, ⟨7, 4, .rw, 0⟩, ⟨3, 3, .rw, 0⟩]⟩,
    ⟨0x042, 1, 2, true, 2, 0, [⟨15, 0, .rw, 0⟩]⟩,
    ⟨0x044, 1, 2, true, 2, 1, [⟨3, 0, .rw, 0⟩]⟩,
    ⟨0x046, 1, 2, true, 2, 0, [⟨15, 0, .rw, 0⟩]⟩] ++
  [
    ⟨0x048, 1, 2, true, 2, 1, [⟨3, 0, .rw, 0⟩]⟩,
    ⟨0x04A, 1, 2, true, 2, 0, [⟨15, 0, .rw, 0⟩]⟩,
    ⟨0x04C, 1, 2, true, 2, 1, [⟨3, 0, .rw, 0⟩]⟩,
    ⟨0x04E, 1, 2, true, 0, 0, [⟨15, 0, .rw, 0⟩]⟩,
    ⟨0x050, 1, 2, true, 0, 0, [⟨15, 0, .rw, 0⟩]⟩,
    ⟨0x052, 1, 2, true, 0, 0, [⟨15, 0, .rw, 0⟩]⟩,
    ⟨0x054, 1, 2, true, 0, 0, [⟨13, 8, .rw, 0⟩, ⟨5, 0, .rw, 0⟩]⟩,
    ⟨0x056, 1, 2, true, 0, 0, [⟨5, 0, .rw, 0⟩]⟩,
    ⟨0x058, 2, 2, true, 2, 0, [⟨15, 0, .rw, 0⟩]⟩,
    ⟨0x060, 1, 2, false, 0, 0, [⟨15, 12, .rw, 0⟩, ⟨11, 0, .rw, 0⟩]⟩,
    ⟨0x062, 2, 2, false, 2, 0, [⟨15, 0, .wo, 0⟩]⟩,
    ⟨0x066, 2, 2, false, 2, 0, [⟨15, 0, .rw, 0⟩]⟩,
    ⟨0x06A, 1, 2, false, 0, 0, [⟨4, 0, .wo, 0⟩]⟩,
    ⟨0x06C, 1, 2, false, 0, 0, [⟨4, 0, .ro, 0⟩, ⟨5, 5, .w1c, 0⟩]⟩,
    ⟨0x100, 32, 2, false, 2, 0, [⟨15, 0, .ro, 0⟩]⟩,
    ⟨0x140, 2, 2, false, 2, 0, [⟨15, 0, .ro, 0⟩]⟩,
    ⟨0x144, 1, 2, false, 0, 0, [⟨15, 0, .ro, 0⟩]⟩,
    ⟨0x146, 1, 2, false, 0, 0, [⟨15, 0, .ro, 0⟩]⟩,
    ⟨0x400, 256, 4, true, 0, 0, [⟨8, 6, .rw, 0⟩, ⟨5, 3, .rw, 0⟩, ⟨2, 0, .rw, 0⟩]⟩,
    ⟨0x402, 256, 4, true, 0, 0, [⟨15, 8, .rw, 0⟩, ⟨7, 6, .rw, 0⟩, ⟨5, 4, .rw, 0⟩]⟩]

/-- The registers of the TIM caravan window (R167), by their offset in the window. -/
def regsTIM : List RegDesc :=
  [
    ⟨0x000, 64, 2, true, 0, 0, [⟨11, 0, .rw, 0⟩]⟩]

/-- The registers of the RUN context window (R139), by their offset in the window. -/
def regsRUN : List RegDesc :=
  [
    ⟨0x000, 1, 2, true, 0, 0, [⟨11, 0, .rw, 0⟩]⟩,
    ⟨0x002, 1, 2, false, 0, 0, [⟨15, 15, .ro, 0⟩, ⟨11, 0, .ro, 0⟩]⟩,
    ⟨0x004, 1, 2, false, 0, 0, [⟨0, 0, .wo, 0⟩, ⟨1, 1, .wo, 0⟩]⟩,
    ⟨0x006, 1, 2, false, 0, 0, [⟨1, 0, .ro, 0⟩, ⟨15, 8, .ro, 0⟩]⟩,
    ⟨0x008, 1, 2, false, 0, 0, [⟨15, 0, .ro, 0⟩]⟩,
    ⟨0x00A, 1, 2, false, 0, 0, [⟨15, 0, .ro, 0⟩]⟩,
    ⟨0x00C, 1, 2, true, 0, 0, [⟨15, 8, .rw, 0⟩, ⟨3, 2, .rw, 0⟩, ⟨1, 0, .rw, 2⟩]⟩,
    ⟨0x010, 1, 2, false, 0, 0, [⟨15, 13, .ro, 0⟩, ⟨12, 7, .ro, 0⟩, ⟨6, 3, .ro, 0⟩, ⟨2, 0, .ro, 0⟩]⟩,
    ⟨0x012, 1, 2, false, 0, 0, [⟨0, 0, .w1c, 0⟩, ⟨1, 1, .w1c, 0⟩, ⟨2, 2, .w1c, 0⟩, ⟨3, 3, .w1c, 0⟩, ⟨4, 4, .w1c, 0⟩, ⟨5, 5, .w1c, 0⟩, ⟨6, 6, .w1c, 0⟩, ⟨7, 7, .w1c, 0⟩]⟩,
    ⟨0x014, 1, 2, false, 0, 0, [⟨15, 0, .rc, 0⟩]⟩,
    ⟨0x016, 1, 2, false, 0, 0, [⟨15, 0, .rc, 0⟩]⟩,
    ⟨0x018, 1, 2, false, 0, 0, [⟨15, 0, .rc, 0⟩]⟩,
    ⟨0x01A, 1, 2, false, 0, 0, [⟨15, 0, .rc, 0⟩]⟩,
    ⟨0x01C, 1, 2, false, 0, 0, [⟨15, 0, .rc, 0⟩]⟩,
    ⟨0x01E, 1, 2, false, 0, 0, [⟨15, 0, .rc, 0⟩]⟩,
    ⟨0x020, 2, 2, false, 2, 0, [⟨15, 0, .ro, 0⟩]⟩,
    ⟨0x024, 1, 2, false, 0, 0, [⟨15, 0, .ro, 0⟩]⟩,
    ⟨0x026, 1, 2, false, 0, 0, [⟨2, 0, .ro, 0⟩]⟩,
    ⟨0x028, 1, 2, false, 0, 0, [⟨15, 0, .rc, 0⟩]⟩,
    ⟨0x02A, 1, 2, false, 0, 0, [⟨15, 15, .ro, 0⟩, ⟨5, 0, .ro, 0⟩]⟩]

/-- The registers of the RUN site window (R140), by their offset in the window. -/
def regsRUNS : List RegDesc :=
  [
    ⟨0x000, 1, 2, false, 0, 0, [⟨8, 3, .ro, 0⟩, ⟨2, 0, .ro, 0⟩]⟩,
    ⟨0x002, 1, 2, false, 0, 0, [⟨15, 0, .ro, 0⟩]⟩,
    ⟨0x004, 2, 2, false, 2, 0, [⟨15, 0, .ro, 0⟩]⟩,
    ⟨0x008, 1, 2, false, 0, 0, [⟨15, 0, .ro, 0⟩]⟩]

/-- The registers of the ASY site window (R193), by their offset in the window. -/
def regsASYS : List RegDesc :=
  [
    ⟨0x000, 1, 2, true, 0, 0, [⟨0, 0, .wo, 0⟩, ⟨1, 1, .wo, 0⟩]⟩,
    ⟨0x002, 1, 2, false, 0, 0, [⟨0, 0, .wo, 0⟩]⟩,
    ⟨0x004, 1, 2, true, 0, 0, [⟨15, 15, .rw, 1⟩, ⟨14, 14, .rw, 1⟩, ⟨13, 13, .rw, 0⟩, ⟨12, 12, .rw, 0⟩, ⟨11, 11, .rw, 0⟩]⟩,
    ⟨0x006, 1, 2, true, 0, 0, [⟨15, 0, .rw, 0⟩]⟩,
    ⟨0x008, 1, 2, false, 0, 0, [⟨15, 14, .ro, 0⟩, ⟨13, 13, .ro, 0⟩, ⟨12, 12, .ro, 0⟩, ⟨11, 11, .ro, 0⟩, ⟨10, 10, .ro, 0⟩, ⟨9, 7, .ro, 0⟩, ⟨6, 4, .ro, 0⟩]⟩,
    ⟨0x00A, 1, 2, false, 0, 0, [⟨15, 15, .ro, 0⟩, ⟨14, 14, .ro, 0⟩, ⟨13, 13, .w1c, 0⟩, ⟨12, 10, .ro, 0⟩, ⟨5, 4, .ro, 0⟩, ⟨3, 0, .ro, 0⟩]⟩,
    ⟨0x00C, 1, 2, false, 0, 0, [⟨15, 0, .ro, 0⟩]⟩,
    ⟨0x00E, 1, 2, false, 0, 0, [⟨15, 0, .ro, 0⟩]⟩,
    ⟨0x010, 2, 2, false, 0, 0, [⟨15, 0, .ro, 0⟩]⟩,
    ⟨0x014, 1, 2, false, 0, 0, [⟨15, 0, .ro, 0⟩]⟩,
    ⟨0x016, 1, 2, false, 0, 0, [⟨15, 0, .ro, 0⟩]⟩,
    ⟨0x018, 3, 2, false, 3, 0, [⟨15, 0, .ro, 0⟩]⟩,
    ⟨0x020, 2, 2, false, 2, 0, [⟨15, 0, .ro, 0⟩]⟩,
    ⟨0x024, 2, 2, false, 2, 0, [⟨15, 0, .rw, 0⟩]⟩,
    ⟨0x028, 3, 2, false, 3, 0, [⟨15, 0, .ro, 0⟩]⟩,
    ⟨0x02E, 2, 2, false, 2, 0, [⟨15, 0, .ro, 0⟩]⟩,
    ⟨0x032, 1, 2, false, 0, 0, [⟨15, 0, .rc, 0⟩]⟩,
    ⟨0x034, 1, 2, false, 0, 0, [⟨15, 0, .rc, 0⟩]⟩,
    ⟨0x036, 1, 2, false, 0, 0, [⟨15, 0, .rc, 0⟩]⟩,
    ⟨0x038, 1, 2, false, 0, 0, [⟨15, 0, .rc, 0⟩]⟩,
    ⟨0x03A, 1, 2, false, 0, 0, [⟨15, 0, .rc, 0⟩]⟩,
    ⟨0x03C, 3, 2, false, 3, 0, [⟨15, 0, .ro, 0⟩]⟩]

/-- The registers of the MON group window (R297), by their offset in the window. -/
def regsMG : List RegDesc :=
  [
    ⟨0x000, 1, 2, true, 0, 0, [⟨15, 15, .rw, 1⟩]⟩,
    ⟨0x002, 1, 2, false, 0, 0, [⟨0, 0, .wo, 0⟩, ⟨1, 1, .wo, 0⟩]⟩,
    ⟨0x004, 1, 2, false, 0, 0, [⟨15, 15, .ro, 0⟩, ⟨14, 13, .ro, 0⟩, ⟨12, 12, .ro, 0⟩, ⟨11, 8, .ro, 0⟩]⟩,
    ⟨0x006, 1, 2, false, 0, 0, [⟨0, 0, .w1c, 0⟩, ⟨1, 1, .w1c, 0⟩, ⟨2, 2, .w1c, 0⟩]⟩,
    ⟨0x008, 1, 2, false, 0, 0, [⟨15, 12, .ro, 0⟩, ⟨11, 0, .ro, 0⟩]⟩,
    ⟨0x00A, 1, 2, false, 0, 0, [⟨15, 0, .ro, 0⟩]⟩,
    ⟨0x00C, 1, 2, false, 0, 0, [⟨15, 0, .rc, 0⟩]⟩,
    ⟨0x010, 4, 2, false, 4, 0, [⟨15, 0, .ro, 0⟩]⟩]

/-- The registers of the WFS unit window (R217), by their offset in the window. -/
def regsWFS : List RegDesc :=
  [
    ⟨0x000, 1, 2, true, 0, 0, [⟨0, 0, .wo, 0⟩, ⟨1, 1, .wo, 0⟩, ⟨2, 2, .wo, 0⟩]⟩,
    ⟨0x002, 1, 2, false, 0, 0, [⟨15, 14, .ro, 0⟩, ⟨7, 0, .ro, 0⟩]⟩,
    ⟨0x004, 1, 2, false, 0, 0, [⟨0, 0, .w1c, 0⟩, ⟨1, 1, .w1c, 0⟩, ⟨2, 2, .w1c, 0⟩, ⟨3, 3, .w1c, 0⟩, ⟨4, 4, .w1c, 0⟩, ⟨5, 5, .w1c, 0⟩, ⟨6, 6, .w1c, 0⟩]⟩,
    ⟨0x006, 1, 2, false, 0, 0, [⟨15, 0, .ro, 0⟩]⟩,
    ⟨0x008, 1, 2, true, 0, 0, [⟨7, 0, .rw, 0⟩]⟩,
    ⟨0x00A, 1, 2, true, 0, 0, [⟨15, 14, .rw, 0⟩, ⟨13, 12, .rw, 0⟩, ⟨11, 0, .rw, 0⟩]⟩,
    ⟨0x00C, 1, 2, true, 0, 0, [⟨15, 15, .rw, 0⟩, ⟨5, 0, .rw, 0⟩]⟩,
    ⟨0x010, 3, 2, true, 3, 0, [⟨15, 0, .rw, 0⟩]⟩,
    ⟨0x016, 1, 2, true, 0, 0, [⟨15, 0, .rw, 0⟩]⟩,
    ⟨0x018, 1, 2, true, 0, 0, [⟨14, 0, .rw, 0⟩]⟩,
    ⟨0x020, 4, 2, false, 4, 0, [⟨15, 0, .ro, 0⟩]⟩,
    ⟨0x028, 1, 2, false, 0, 0, [⟨15, 0, .rc, 0⟩]⟩,
    ⟨0x02A, 1, 2, false, 0, 0, [⟨15, 0, .rc, 0⟩]⟩,
    ⟨0x02C, 1, 2, false, 0, 0, [⟨15, 0, .rc, 0⟩]⟩,
    ⟨0x1000, 256, 16, false, 0, 0, [⟨15, 0, .rw, 0⟩]⟩,
    ⟨0x1002, 256, 16, false, 0, 0, [⟨15, 0, .rw, 0⟩]⟩,
    ⟨0x1004, 256, 16, false, 0, 0, [⟨15, 0, .rw, 0⟩]⟩,
    ⟨0x1006, 256, 16, false, 0, 0, [⟨15, 0, .rw, 0⟩]⟩,
    ⟨0x1008, 256, 16, false, 0, 0, [⟨15, 0, .rw, 0⟩]⟩,
    ⟨0x100A, 256, 16, false, 0, 0, [⟨15, 15, .rw, 0⟩, ⟨11, 11, .rw, 0⟩, ⟨10, 10, .rw, 0⟩, ⟨9, 8, .rw, 0⟩, ⟨7, 0, .rw, 0⟩]⟩,
    ⟨0x100C, 256, 16, false, 0, 0, [⟨7, 0, .rw, 0⟩]⟩,
    ⟨0x100E, 256, 16, false, 0, 0, []⟩]

/-- The registers of the AWG unit window (R218), by their offset in the window. -/
def regsAWG : List RegDesc :=
  [
    ⟨0x000, 1, 2, true, 0, 0, [⟨15, 15, .rw, 0⟩, ⟨14, 12, .rw, 0⟩, ⟨11, 11, .rw, 0⟩, ⟨10, 9, .rw, 0⟩]⟩,
    ⟨0x002, 1, 2, true, 0, 0, [⟨15, 0, .rw, 0x1f40⟩]⟩,
    ⟨0x004, 1, 2, false, 0, 0, [⟨0, 0, .ro, 0⟩, ⟨1, 1, .ro, 0⟩, ⟨2, 2, .ro, 0⟩, ⟨3, 3, .ro, 0⟩, ⟨4, 4, .ro, 0⟩]⟩,
    ⟨0x006, 1, 2, false, 0, 0, [⟨0, 0, .w1c, 0⟩, ⟨1, 1, .w1c, 0⟩, ⟨2, 2, .w1c, 0⟩, ⟨3, 3, .w1c, 0⟩, ⟨4, 4, .w1c, 0⟩]⟩]

/-- The registers of the ACQ unit window (R243), by their offset in the window. -/
def regsACQ : List RegDesc :=
  [
    ⟨0x000, 1, 2, true, 0, 0, [⟨0, 0, .wo, 0⟩, ⟨1, 1, .wo, 0⟩, ⟨2, 2, .wo, 0⟩]⟩,
    ⟨0x002, 1, 2, false, 0, 0, [⟨15, 13, .ro, 0⟩, ⟨12, 11, .ro, 0⟩, ⟨10, 10, .ro, 0⟩, ⟨9, 9, .ro, 0⟩]⟩,
    ⟨0x004, 1, 2, false, 0, 0, [⟨0, 0, .w1c, 0⟩, ⟨1, 1, .w1c, 0⟩, ⟨2, 2, .w1c, 0⟩, ⟨3, 3, .w1c, 0⟩, ⟨4, 4, .w1c, 0⟩, ⟨5, 5, .w1c, 0⟩, ⟨6, 6, .w1c, 0⟩]⟩,
    ⟨0x006, 1, 2, false, 0, 0, [⟨15, 0, .ro, 0⟩]⟩,
    ⟨0x008, 1, 2, true, 0, 0, [⟨15, 15, .rw, 0⟩, ⟨14, 12, .rw, 0⟩, ⟨11, 10, .rw, 0⟩]⟩,
    ⟨0x00A, 1, 2, true, 0, 0, [⟨15, 0, .rw, 0x1f40⟩]⟩,
    ⟨0x00C, 1, 2, true, 0, 0, [⟨15, 15, .rw, 0⟩, ⟨14, 13, .rw, 0⟩, ⟨1, 0, .rw, 0⟩]⟩,
    ⟨0x00E, 1, 2, true, 0, 0, [⟨15, 0, .rw, 0⟩]⟩,
    ⟨0x010, 1, 2, true, 0, 0, [⟨14, 0, .rw, 0⟩]⟩,
    ⟨0x012, 1, 2, true, 0, 0, [⟨15, 15, .rw, 0⟩, ⟨13, 8, .rw, 0⟩, ⟨7, 0, .rw, 0⟩]⟩,
    ⟨0x014, 1, 2, true, 0, 0, [⟨15, 0, .rw, 1⟩]⟩,
    ⟨0x016, 1, 2, true, 0, 0, [⟨15, 0, .rw, 0⟩]⟩,
    ⟨0x018, 1, 2, true, 0, 0, [⟨15, 15, .rw, 0⟩, ⟨14, 14, .rw, 0⟩]⟩,
    ⟨0x01A, 1, 2, true, 0, 0, [⟨15, 0, .rw, 0⟩]⟩,
    ⟨0x01C, 2, 2, true, 2, 0, [⟨15, 0, .rw, 0⟩]⟩,
    ⟨0x020, 3, 2, true, 3, 0, [⟨15, 0, .rw, 0⟩]⟩,
    ⟨0x026, 1, 2, false, 2, 0, [⟨15, 0, .ro, 0xffe0⟩]⟩,
    ⟨0x028, 1, 2, false, 2, 1, [⟨15, 0, .ro, 0xfff⟩]⟩,
    ⟨0x030, 4, 2, true, 4, 0, [⟨15, 0, .rw, 0⟩]⟩,
    ⟨0x038, 2, 2, true, 2, 0, [⟨15, 0, .rw, 0⟩]⟩,
    ⟨0x040, 3, 2, false, 3, 0, [⟨15, 0, .ro, 0⟩]⟩,
    ⟨0x046, 3, 2, false, 3, 0, [⟨15, 0, .rw, 0⟩]⟩,
    ⟨0x050, 1, 2, false, 0, 0, [⟨15, 15, .ro, 0⟩, ⟨14, 14, .ro, 0⟩]⟩,
    ⟨0x052, 1, 2, false, 0, 0, [⟨15, 0, .ro, 0⟩]⟩] ++
  [
    ⟨0x054, 1, 2, false, 0, 0, [⟨15, 0, .ro, 0⟩]⟩,
    ⟨0x056, 1, 2, false, 0, 0, [⟨15, 0, .ro, 0⟩]⟩,
    ⟨0x058, 1, 2, false, 0, 0, [⟨0, 0, .wo, 0⟩]⟩,
    ⟨0x05A, 1, 2, false, 0, 0, [⟨15, 0, .ro, 0⟩]⟩,
    ⟨0x060, 1, 2, false, 0, 0, [⟨15, 0, .rc, 0⟩]⟩,
    ⟨0x062, 1, 2, false, 0, 0, [⟨15, 0, .rc, 0⟩]⟩]

/-- The registers of the DPS slice window (R294), by their offset in the window. -/
def regsDPS : List RegDesc :=
  [
    ⟨0x000, 1, 2, true, 0, 0, [⟨0, 0, .rw, 0⟩]⟩,
    ⟨0x002, 1, 2, true, 0, 0, [⟨15, 0, .rw, 0x1f40⟩]⟩,
    ⟨0x004, 1, 2, true, 0, 0, [⟨15, 0, .rw, 0x800⟩]⟩,
    ⟨0x006, 1, 2, true, 0, 0, [⟨15, 8, .rw, 0⟩, ⟨7, 0, .rw, 0⟩]⟩,
    ⟨0x008, 1, 2, true, 0, 0, [⟨15, 14, .rw, 1⟩, ⟨13, 13, .rw, 1⟩]⟩,
    ⟨0x00A, 1, 2, false, 0, 0, [⟨15, 13, .ro, 0⟩, ⟨12, 12, .ro, 0⟩, ⟨11, 11, .ro, 0⟩, ⟨10, 10, .ro, 0⟩, ⟨9, 9, .ro, 0⟩]⟩,
    ⟨0x00C, 1, 2, false, 0, 0, [⟨0, 0, .w1c, 0⟩, ⟨1, 1, .w1c, 0⟩, ⟨2, 2, .w1c, 0⟩, ⟨3, 3, .w1c, 0⟩, ⟨4, 4, .w1c, 0⟩]⟩,
    ⟨0x00E, 1, 2, false, 0, 0, [⟨15, 0, .ro, 0⟩]⟩]

/-- The registers of the channel window (R165 to R168, R84, R269, R325), by their offset in the window. -/
def regsCH : List RegDesc :=
  [
    ⟨0x000, 1, 2, true, 0, 0, [⟨15, 14, .rw, 0⟩, ⟨13, 13, .rw, 0⟩, ⟨12, 12, .rw, 0⟩, ⟨11, 10, .rw, 0⟩]⟩,
    ⟨0x002, 1, 2, false, 0, 0, [⟨15, 15, .ro, 1⟩, ⟨14, 14, .ro, 0⟩, ⟨13, 13, .ro, 0⟩, ⟨12, 11, .ro, 0⟩, ⟨3, 0, .ro, 0⟩]⟩,
    ⟨0x004, 1, 2, false, 0, 0, [⟨0, 0, .w1c, 0⟩, ⟨1, 1, .w1c, 0⟩, ⟨2, 2, .w1c, 0⟩, ⟨3, 3, .w1c, 0⟩, ⟨4, 4, .w1c, 0⟩, ⟨5, 5, .w1c, 0⟩, ⟨6, 6, .w1c, 0⟩, ⟨7, 7, .w1c, 0⟩]⟩,
    ⟨0x006, 1, 2, false, 0, 0, [⟨15, 0, .rc, 0⟩]⟩,
    ⟨0x008, 1, 2, false, 0, 0, [⟨8, 6, .ro, 0⟩, ⟨5, 0, .ro, 0⟩]⟩,
    ⟨0x010, 1, 2, true, 0, 0, [⟨15, 0, .rw, 0x1f40⟩]⟩,
    ⟨0x012, 1, 2, true, 0, 0, [⟨15, 0, .rw, 0x1f40⟩]⟩,
    ⟨0x014, 1, 2, true, 0, 0, [⟨15, 0, .rw, 0x1f40⟩]⟩,
    ⟨0x016, 1, 2, true, 0, 0, [⟨15, 0, .rw, 0x1f40⟩]⟩,
    ⟨0x018, 1, 2, true, 0, 0, [⟨15, 0, .rw, 0x1f40⟩]⟩,
    ⟨0x01A, 1, 2, true, 0, 0, [⟨15, 0, .rw, 0x1f40⟩]⟩,
    ⟨0x01C, 1, 2, true, 0, 0, [⟨15, 0, .rw, 0⟩]⟩,
    ⟨0x01E, 1, 2, true, 0, 0, [⟨15, 0, .rw, 0⟩]⟩,
    ⟨0x0E0, 1, 2, true, 0, 0, [⟨15, 13, .rw, 0⟩, ⟨4, 0, .rw, 0⟩]⟩,
    ⟨0x100, 1, 2, true, 0, 0, [⟨15, 13, .rw, 0⟩, ⟨12, 10, .rw, 0⟩]⟩,
    ⟨0x102, 1, 2, true, 0, 0, [⟨15, 0, .rw, 0⟩]⟩,
    ⟨0x104, 1, 2, true, 0, 0, [⟨15, 0, .rw, 0x7fff⟩]⟩,
    ⟨0x106, 1, 2, true, 0, 0, [⟨15, 0, .rw, 0x8000⟩]⟩,
    ⟨0x108, 1, 2, false, 0, 0, [⟨0, 0, .ro, 0⟩, ⟨1, 1, .ro, 0⟩, ⟨2, 2, .ro, 0⟩, ⟨3, 3, .ro, 0⟩]⟩,
    ⟨0x180, 1, 2, false, 0, 0, [⟨15, 15, .rw, 0⟩, ⟨5, 0, .rw, 0⟩]⟩,
    ⟨0x182, 1, 2, false, 0, 0, [⟨15, 0, .rw, 0⟩]⟩,
    ⟨0x184, 2, 2, false, 2, 0, [⟨15, 0, .rw, 0⟩]⟩,
    ⟨0x188, 1, 2, false, 0, 0, [⟨0, 0, .wo, 0⟩]⟩,
    ⟨0x18A, 1, 2, false, 0, 0, [⟨15, 15, .ro, 0⟩, ⟨14, 14, .w1c, 0⟩]⟩] ++
  [
    ⟨0x18C, 1, 2, false, 0, 0, [⟨15, 0, .ro, 0⟩]⟩,
    ⟨0x200, 1, 2, true, 0, 0, [⟨0, 0, .wo, 0⟩, ⟨1, 1, .wo, 0⟩]⟩,
    ⟨0x202, 1, 2, true, 0, 0, [⟨15, 14, .rw, 0⟩, ⟨13, 13, .rw, 0⟩, ⟨12, 12, .rw, 0⟩]⟩,
    ⟨0x204, 1, 2, true, 0, 0, [⟨15, 13, .rw, 0⟩, ⟨12, 11, .rw, 0⟩]⟩,
    ⟨0x206, 1, 2, true, 0, 0, [⟨15, 13, .rw, 0⟩, ⟨12, 11, .rw, 0⟩, ⟨5, 5, .rw, 0⟩, ⟨4, 0, .rw, 0⟩]⟩,
    ⟨0x208, 1, 2, true, 0, 0, [⟨15, 15, .rw, 0⟩, ⟨13, 8, .rw, 0⟩, ⟨7, 0, .rw, 0⟩]⟩,
    ⟨0x20A, 2, 2, true, 3, 0, [⟨15, 0, .rw, 0xffff⟩]⟩,
    ⟨0x20E, 1, 2, true, 3, 2, [⟨7, 0, .rw, 0xff⟩]⟩,
    ⟨0x210, 1, 2, true, 0, 0, [⟨15, 0, .rw, 0⟩]⟩,
    ⟨0x212, 1, 2, true, 0, 0, [⟨15, 0, .rw, 0⟩]⟩,
    ⟨0x220, 1, 2, false, 0, 0, [⟨15, 13, .ro, 0⟩, ⟨12, 12, .ro, 0⟩, ⟨11, 11, .ro, 1⟩]⟩,
    ⟨0x222, 1, 2, false, 0, 0, [⟨0, 0, .w1c, 0⟩, ⟨1, 1, .w1c, 0⟩, ⟨2, 2, .w1c, 0⟩, ⟨3, 3, .w1c, 0⟩, ⟨4, 4, .w1c, 0⟩, ⟨5, 5, .w1c, 0⟩, ⟨6, 6, .w1c, 0⟩, ⟨7, 7, .w1c, 0⟩, ⟨8, 8, .w1c, 0⟩]⟩,
    ⟨0x224, 1, 2, false, 0, 0, [⟨15, 0, .ro, 0⟩]⟩,
    ⟨0x230, 1, 2, false, 0, 0, [⟨15, 15, .ro, 0⟩, ⟨14, 14, .ro, 0⟩, ⟨13, 9, .ro, 0⟩]⟩,
    ⟨0x232, 1, 2, false, 0, 0, [⟨15, 0, .ro, 0⟩]⟩,
    ⟨0x234, 1, 2, false, 0, 0, [⟨15, 0, .ro, 0⟩]⟩,
    ⟨0x236, 4, 2, false, 0, 0, [⟨15, 0, .ro, 0⟩]⟩,
    ⟨0x23E, 4, 2, false, 0, 0, [⟨15, 0, .ro, 0⟩]⟩,
    ⟨0x246, 4, 2, false, 0, 0, [⟨15, 0, .ro, 0⟩]⟩,
    ⟨0x24E, 2, 2, false, 0, 0, [⟨15, 0, .ro, 0⟩]⟩,
    ⟨0x252, 1, 2, false, 0, 0, [⟨0, 0, .wo, 0⟩]⟩,
    ⟨0x260, 1, 2, false, 0, 0, [⟨15, 0, .rc, 0⟩]⟩,
    ⟨0x262, 1, 2, false, 0, 0, [⟨15, 0, .rc, 0⟩]⟩,
    ⟨0x264, 1, 2, false, 0, 0, [⟨15, 0, .rc, 0⟩]⟩] ++
  [
    ⟨0x270, 1, 2, false, 0, 0, [⟨15, 15, .rw, 0⟩, ⟨7, 0, .rw, 0⟩]⟩,
    ⟨0x272, 1, 2, false, 0, 0, [⟨15, 0, .rw, 0⟩]⟩,
    ⟨0x274, 2, 2, false, 2, 0, [⟨15, 0, .rw, 0⟩]⟩,
    ⟨0x278, 1, 2, false, 0, 0, [⟨0, 0, .wo, 0⟩]⟩,
    ⟨0x27A, 1, 2, false, 0, 0, [⟨15, 14, .ro, 0⟩, ⟨13, 13, .ro, 0⟩]⟩,
    ⟨0x27C, 1, 2, false, 0, 0, [⟨15, 0, .ro, 0⟩]⟩,
    ⟨0x280, 1, 2, true, 0, 0, [⟨0, 0, .wo, 0⟩, ⟨1, 1, .wo, 0⟩]⟩,
    ⟨0x282, 1, 2, true, 0, 0, [⟨15, 15, .rw, 1⟩, ⟨7, 0, .rw, 0x10⟩]⟩,
    ⟨0x800, 384, 4, true, 0, 0, [⟨15, 0, .rw, 0⟩]⟩,
    ⟨0x802, 384, 4, true, 0, 0, [⟨15, 15, .rw, 0⟩, ⟨5, 0, .rw, 0⟩]⟩]

/-- PMU_MEAS_CFG of a channel, whose MRANGE is reserved (R295). -/
def regMeasCfg : RegDesc := ⟨0x140, 1, 2, true, 0, 0, [⟨15, 13, .rw, 0⟩, ⟨12, 11, .rw, 0⟩, ⟨10, 3, .rw, 0⟩]⟩

/-- PMU_MEAS_CFG of a slice (R295). -/
def regMeasCfgSlice : RegDesc := ⟨0x140, 1, 2, true, 0, 0, [⟨15, 13, .rw, 0⟩, ⟨12, 11, .rw, 0⟩, ⟨10, 3, .rw, 0⟩, ⟨2, 1, .rw, 0⟩]⟩

/-- The other registers of the measurement block, of a channel or of a slice (R295), by their offset in the window. -/
def regsPMUM : List RegDesc :=
  [
    ⟨0x142, 1, 2, true, 0, 0, [⟨0, 0, .wo, 0⟩]⟩,
    ⟨0x144, 1, 2, false, 0, 0, [⟨15, 15, .ro, 0⟩, ⟨14, 14, .ro, 0⟩, ⟨13, 11, .ro, 0⟩, ⟨10, 10, .ro, 0⟩]⟩,
    ⟨0x146, 1, 2, false, 0, 0, [⟨15, 0, .ro, 0⟩]⟩,
    ⟨0x148, 1, 2, false, 0, 0, [⟨15, 0, .ro, 0⟩]⟩,
    ⟨0x14A, 1, 2, false, 0, 0, [⟨15, 0, .ro, 0⟩]⟩,
    ⟨0x14C, 1, 2, false, 0, 0, [⟨15, 0, .ro, 0⟩]⟩,
    ⟨0x14E, 1, 2, false, 0, 0, [⟨0, 0, .ro, 0⟩, ⟨3, 1, .ro, 0⟩, ⟨4, 4, .ro, 0⟩, ⟨5, 5, .ro, 0⟩, ⟨6, 6, .ro, 0⟩, ⟨7, 7, .ro, 0⟩, ⟨8, 8, .ro, 0⟩]⟩,
    ⟨0x150, 4, 2, false, 0, 0, [⟨15, 0, .ro, 0⟩]⟩,
    ⟨0x158, 1, 2, false, 0, 0, [⟨0, 0, .wo, 0⟩]⟩,
    ⟨0x15A, 1, 2, false, 0, 0, [⟨15, 0, .ro, 0⟩]⟩,
    ⟨0x15C, 1, 2, false, 0, 0, [⟨15, 0, .rc, 0⟩]⟩]

/-- The registers of the MON block, of a channel or of a slice (R296), by their offset in the window. -/
def regsMON : List RegDesc :=
  [
    ⟨0x400, 1, 2, true, 0, 0, [⟨15, 14, .rw, 0⟩, ⟨13, 12, .rw, 0⟩, ⟨11, 11, .rw, 0⟩]⟩,
    ⟨0x402, 1, 2, true, 0, 0, [⟨15, 0, .rw, 0x7fff⟩]⟩,
    ⟨0x404, 1, 2, true, 0, 0, [⟨15, 0, .rw, 0x8000⟩]⟩,
    ⟨0x406, 1, 2, true, 0, 0, [⟨15, 8, .rw, 0⟩, ⟨7, 7, .rw, 1⟩, ⟨6, 6, .rw, 0⟩]⟩,
    ⟨0x408, 1, 2, true, 0, 0, [⟨15, 15, .rw, 0⟩, ⟨13, 8, .rw, 0⟩, ⟨7, 0, .rw, 0⟩]⟩,
    ⟨0x40A, 1, 2, false, 0, 0, [⟨15, 14, .ro, 0⟩, ⟨13, 13, .ro, 0⟩, ⟨12, 12, .ro, 0⟩]⟩,
    ⟨0x40C, 1, 2, false, 0, 0, [⟨0, 0, .w1c, 0⟩, ⟨1, 1, .w1c, 0⟩]⟩,
    ⟨0x40E, 1, 2, false, 0, 0, [⟨15, 0, .rc, 0⟩]⟩,
    ⟨0x410, 1, 2, false, 0, 0, [⟨15, 0, .rc, 0⟩]⟩,
    ⟨0x412, 4, 2, false, 4, 0, [⟨15, 0, .ro, 0⟩]⟩]

/-- The registers of the CAL unit block, of a channel, digitizer, AWG or slice (R325), by their offset in the window. -/
def regsCALU : List RegDesc :=
  [
    ⟨0x480, 1, 2, false, 0, 0, [⟨15, 13, .ro, 0⟩, ⟨12, 12, .ro, 0⟩, ⟨11, 11, .ro, 0⟩, ⟨10, 10, .ro, 0⟩, ⟨9, 9, .ro, 0⟩, ⟨8, 8, .ro, 0⟩]⟩,
    ⟨0x482, 1, 2, false, 0, 0, [⟨0, 0, .w1c, 0⟩, ⟨1, 1, .w1c, 0⟩, ⟨2, 2, .w1c, 0⟩]⟩,
    ⟨0x484, 1, 2, false, 0, 0, [⟨15, 0, .ro, 0⟩]⟩,
    ⟨0x486, 2, 2, false, 2, 0, [⟨15, 0, .ro, 0⟩]⟩,
    ⟨0x48A, 4, 2, false, 4, 0, [⟨15, 0, .ro, 0⟩]⟩,
    ⟨0x492, 1, 2, false, 0, 0, [⟨15, 0, .ro, 0⟩]⟩,
    ⟨0x494, 1, 2, false, 0, 0, [⟨5, 0, .ro, 0⟩]⟩]

/-- A block of registers moved from offset `a` of its table to offset `b` of a window. -/
def movedRegs (a b : Nat) (l : List RegDesc) : List RegDesc := l.map fun r => { r with off := r.off - a + b }

/-- One row of the window map, Table 17.3: base, count and stride of the windows, and their registers. -/
structure Window where
  base : Nat
  count : Nat
  stride : Nat
  regs : List RegDesc
  deriving DecidableEq, Repr

/-- The window map, Table 17.3 (R452). -/
def windows : List Window :=
  [
  ⟨0x0, 1, 0x1000, regsSYS⟩,
  ⟨0x1000, 1, 0x1000, regsCST⟩,
  ⟨0x2000, 1, 0x1000, regsSEQC⟩,
  ⟨0x3000, 1, 0x1000, regsASY⟩,
  ⟨0x4000, 1, 0x1000, regsTDCC⟩,
  ⟨0x5000, 1, 0x1000, regsDPSC⟩,
  ⟨0x6000, 1, 0x1000, regsCALC⟩,
  ⟨0x7000, 1, 0x1000, regsHST⟩,
  ⟨0x8000, 1, 0x1000, regsCVY⟩,
  ⟨0x9000, 1, 0x1000, regsWAY⟩,
  ⟨0xA000, 1, 0x1000, regsTOL⟩,
  ⟨0xB000, 1, 0x1000, regsFWU⟩,
  ⟨0xC000, 1, 0x1000, regsTHM⟩,
  ⟨0x10000, 16, 0x100, regsCHK⟩,
  ⟨0x100000, 64, 0x1000, regsSEQ⟩,
  ⟨0x140000, 64, 0x100, regsTIM⟩,
  ⟨0x150000, 64, 0x100, regsRUN⟩,
  ⟨0x160000, 512, 0x40, regsRUNS⟩,
  ⟨0x180000, 512, 0x100, regsASYS⟩,
  ⟨0x1C0000, 512, 0x40, regsMG⟩,
  ⟨0x200000, 20, 0x2000, regsWFS⟩,
  ⟨0x240000, 20, 0x100, regsAWG ++ movedRegs 0x480 0xE0 regsCALU⟩,
  ⟨0x250000, 20, 0x100, regsACQ ++ movedRegs 0x480 0xE0 regsCALU⟩,
  ⟨0x300000, 256, 0x100, regsDPS ++ movedRegs 0x140 0x40 (regMeasCfgSlice :: regsPMUM) ++ movedRegs 0x400 0x80 regsMON ++ movedRegs 0x480 0xE0 regsCALU⟩,
  ⟨0x1000000, 2176, 0x1000, regsCH ++ regMeasCfg :: regsPMUM ++ regsMON ++ regsCALU⟩]

/-- The row of a register table that holds window offset `x`, and the place `k` of the register in the row. -/
def findReg (x : Nat) : List RegDesc → Option (RegDesc × Nat)
  | [] => none
  | r :: rs =>
    if r.off ≤ x && x < r.off + r.cnt * r.step && (x - r.off) % r.step == 0 then some (r, (x - r.off) / r.step)
    else findReg x rs

/-- The window of Table 17.3 that holds BAR0 offset `a`, with the offset in it. -/
def findWindow (a : Nat) : List Window → Option (Window × Nat)
  | [] => none
  | w :: ws =>
    if w.base ≤ a && a < w.base + w.count * w.stride then some (w, (a - w.base) % w.stride) else findWindow a ws

/-- The register at BAR0 offset `a`, or none where the offset is reserved (R443). -/
def regAt (a : Nat) : Option (RegDesc × Nat) :=
  match findWindow a windows with
  | none => none
  | some (w, x) => findReg x w.regs

/-- The bits of a field, as a mask. -/
def Field.mask (f : Field) : Word := BitVec.ofNat 16 ((2 ^ (f.hi - f.lo + 1) - 1) * 2 ^ f.lo)

/-- The bits of a register that have access type `t`. -/
def accMask (t : Access) (r : RegDesc) : Word :=
  r.fields.foldl (fun m f => if f.acc = t then m ||| f.mask else m) 0

/-- The value of a register after power-up or a reset of the module (R451). Entries NV, casting, own, fixed and the dash
stand as 0 here (1 for SYS_HWVER.MAJOR, log entry 5): the start writes the values that non-volatile memory and the module give. -/
def RegDesc.reset (r : RegDesc) : Word :=
  BitVec.ofNat 16 (r.fields.foldl (fun n f => n + f.rst * 2 ^ f.lo) 0)

/-- The lane of a channel (R8, R9). -/
def laneOf (ch : Nat) : Nat := if ch < 2048 then ch / 16 else ch - 2048

/-- The zone sensor of a unit (Sensors and zones). -/
def zoneOf (x : Nat) : Nat :=
  if x < 2176 then
    let lane := laneOf x
    2 * (lane / 8) + (if lane % 8 ≥ 4 then 1 else 0)
  else if x < 2432 then (if (x - 2176) % 64 < 32 then 36 else 40) + (x - 2176) / 64
  else
    let u := if x < 2452 then x - 2432 else x - 2452
    if u < 16 then 2 * u + 1 else 44 + (u - 16)

/-- The unit whose CAL_ZONE stands at BAR0 offset `a` (R325, R452). -/
def unitOfZone (a : Nat) : Option Nat :=
  let at_ := fun (base stride count first : Nat) =>
    if base ≤ a && a < base + stride * count && (a - base) % stride == 0 then some (first + (a - base) / stride) else none
  (at_ 0x1000494 0x1000 2176 0).orElse fun _ => (at_ 0x3000F4 0x100 256 2176).orElse fun _ =>
    (at_ 0x2500F4 0x100 20 2432).orElse fun _ => at_ 0x2400F4 0x100 20 2452

/-- The reset value at BAR0 offset `a`; a reserved offset reads 0 (R443). CAL_ZONE is fixed: the zone sensor of its unit (R325). -/
def resetOf (a : Nat) : Word :=
  match unitOfZone a with
  | some x => BitVec.ofNat 16 (zoneOf x)
  | none =>
    match regAt a with
    | none => 0
    | some (r, _) => r.reset

/-- True where the register at `a` is shadowed (R17). -/
def isShadowed (a : Nat) : Bool :=
  match regAt a with
  | none => false
  | some (r, _) => r.shadowed

/-- The group that the register at `a` belongs to, as the offset of its NAME0 and its length; none outside a group
(R448). -/
def groupOf (a : Nat) : Option (Nat × Nat) :=
  match regAt a with
  | none => none
  | some (r, k) => if r.grpLen = 0 then none else some (a - 2 * ((r.grpPos + k) % r.grpLen), r.grpLen)

end Sys2Proof.Machine
end

