-- ==== Sys2Proof/Machine/Types.lean ====
section
/-!
DEFINITION. Machine/Types.lean: the parts of the machine's state other than its registers, as plain data.
-/

namespace Sys2Proof.Machine

/-- A sparse table: strictly rising keys, and no entry equal to what an unlisted key reads as. -/
abbrev Tab (α : Type) := List (Nat × α)

/-! Convoy time, the stage and stage work. -/

/-- Time. `clock` and `epoch` are convoy time (R15, R27, R30); `stage` is the stage counter; `up` counts the clocks since
reset release, which no time step changes, and due instants are kept in it; `began` is the clock count at the tick that began
the stage; `stepped` marks a stage begun by a step (R365). -/
structure Time where
  clock : BitVec 48
  epoch : BitVec 16
  stage : BitVec 32
  up : Nat
  began : BitVec 48
  stepped : Bool
  deriving DecidableEq, Repr

/-- The commit hold (R22, R23). `release` is 0 for none, 1 for a release that belongs to this stage and 2 for one that
belongs to the next; `ticks` counts consecutive ticks under COMMIT_HOLD = 1. -/
structure Hold where
  inForce : Bool
  release : Nat
  ticks : Nat
  deriving DecidableEq, Repr

/-- A reading of one sensor as a sample takes it: the code, and whether the sensor is open or shorted. -/
structure Reading where
  code : Nat
  isOpen : Bool
  isShort : Bool
  deriving DecidableEq, Repr

/-- What a stage work item does when it acts (Table 1.5). -/
inductive WorkKind where
  /-- A profile command, with its 128-byte entry (R343). -/
  | profile (entry : List Byte)
  /-- Application of the prepared recast (R72). -/
  | recast
  /-- A table swap of TDC `ch` (R265). -/
  | tdcSwap (ch : Nat)
  /-- A swap of the level trim table of channel `ch` (R307). -/
  | lvlSwap (ch : Nat)
  /-- A swap of table `t` of the pattern generator of caravan `c` (R91). -/
  | seqSwap (c t : Nat)
  /-- A calibration takeover of channel `ch` (R304). -/
  | takeover (ch : Nat)
  /-- A hand-back, or an install of trims, for a unit of the calibration list (R306). -/
  | handback (unit : Nat)
  /-- The new sample schedule of the monitor whose block is at `b` (R285). -/
  | schedule (b : Nat)
  /-- Trigger re-arm bookkeeping of digitizer `u` (R236). -/
  | rearm (u : Nat)
  /-- Trip-net recovery bookkeeping: the clear of group `g` (R292). -/
  | clear (g : Nat)
  /-- A thermal resume of sensor `n` (R434). -/
  | resume (n : Nat)
  /-- A thermal sample, with what the 64 sensors read and the input's voltage and power (R426, R429). -/
  | sample (readings : List Reading) (vin pin : Nat)
  deriving DecidableEq, Repr

/-- A stage work item (R24 to R26, R469). -/
structure WorkItem where
  cls : Nat
  origin : Nat
  cost : Nat
  kind : WorkKind
  deferrals : Nat
  arrival : Nat
  firstDefer : Nat
  deriving DecidableEq, Repr

/-- The scheduler. `waiting` are the items for the next tick, `running` the admitted ones with the clock (in `up`) in which
each acts, `acted` those whose tick is the next one; `budget` is what this stage has left; `deferred` the classes with a
deferral in this stage; `idleFrom` the clock after the last admitted item acts (0: none has been admitted); `seq` numbers arrivals and
deferrals. -/
structure Sched where
  waiting : List WorkItem
  running : List (WorkItem × Nat)
  acted : List WorkItem
  budget : Nat
  deferred : List Nat
  idleFrom : Nat
  seq : Nat
  deriving DecidableEq, Repr

/-! The host attachment. -/

/-- A completion or notification that waits to be written (Table 12.4). `holds` tells that its tag leaves flight when it is
written. -/
structure Cpl where
  kind : Nat
  flags : Nat
  tag : Nat
  opcode : Nat
  code : Nat
  d0 : Nat
  d1 : Nat
  d2 : Nat
  time : Nat
  holds : Bool
  deriving DecidableEq, Repr

/-- A profile command whose writes are in the shadows and not yet in force (R344). -/
structure OpenProfile where
  entry : List Byte
  deriving DecidableEq, Repr

/-- The host attachment (R334 to R340). `mem` is host memory as far as the module has written it; `irq0` to `irq2` count the
MSI-X messages sent on each vector; `unsignalled` are completion entries written since the last vector 0 message, the first
of them at clock `firstUp`. `running` are the tags of accepted commands that have not completed, `inflight` those whose completion
is not written yet; `tolled` the tags of REG_WRITE_Ts that wait for their tick, with those of the commit cut marked. -/
structure HostIf where
  inflight : List Nat
  running : List Nat
  waiting : List Cpl
  profiles : List OpenProfile
  tolled : List (Nat × Bool)
  afterLoss : Bool
  unsignalled : Nat
  firstUp : Nat
  irq0 : Nat
  irq1 : Nat
  irq2 : Nat
  mem : Tab (Option Byte)
  deriving DecidableEq, Repr

/-- A queue of latched results (R191, R238, R260, R281, R386). Each item is the status bits below bit 14 that its latch
shows, and the words of its result registers. `last` is the item most recently advanced; `seen` tells that the oldest has
been latched; `seq` is the next sequence number; `gap` that a result has been discarded since the last one queued. -/
structure ResQueue where
  items : List (Nat × List Nat)
  last : Nat × List Nat
  seen : Bool
  seq : Nat
  gap : Bool
  deriving DecidableEq, Repr

/-- An empty result queue, whose first sequence number is 1. -/
def ResQueue.init : ResQueue := ⟨[], (0, []), false, 1, false⟩

/-! Trust, firmware and the non-volatile memory (Table 16.6). -/

/-- A toll key slot (R393 to R396). `fails` counts consecutive TOLL_MAC_INVALID refusals, `lockUntil` is the clock at which
a lockout ends. -/
structure TollSlot where
  key : Option (List Byte)
  mask : Nat
  count : Nat
  fails : Nat
  lockUntil : Option Nat
  deriving DecidableEq, Repr

def TollSlot.init : TollSlot := ⟨none, 0, 0, 0, none⟩

/-- A firmware slot (Table 15.4): its state, its header and body, and whether its image has ever been confirmed. -/
structure FwSlot where
  state : Nat
  header : List Byte
  body : List Byte
  confirmed : Bool
  deriving DecidableEq, Repr

/-- A settings region (R420): the schema that stamped it and the settings it holds. -/
structure Settings where
  schema : Nat
  autoConfirm : Bool
  deriving DecidableEq, Repr

/-- What a transaction writes (R436). -/
inductive TxnKind where
  | calRecord (content : List Byte) (tag : Nat)
  | casting (slot : Nat) (content : List Byte)
  deriving DecidableEq, Repr

/-- A transaction in progress, with the pages still to program. -/
structure Txn where
  kind : TxnKind
  pages : Nat
  deriving DecidableEq, Repr

/-- Non-volatile memory (Table 16.6). `txns` are the transactions begun and not committed, the one being programmed first. -/
structure NvMem where
  owner : Option (List Byte)
  ownerCount : Nat
  requireSigned : Bool
  ownerLock : Bool
  castKey : Option (List Byte)
  tolls : Tab TollSlot
  fwA : FwSlot
  fwB : FwSlot
  runningB : Bool
  floor : Nat
  revoked : Nat
  stacksOut : Nat
  hardTrip : Bool
  calRecord : Option (List Byte)
  castings : Tab (Option (List Byte))
  settings : Settings
  oldSettings : Option Settings
  txns : List Txn
  deriving DecidableEq, Repr

/-- An update or activation in progress (R409 to R418). `phase` is FWU_STAT.PHASE; `toB` names the target slot. -/
structure FwJob where
  tag : Nat
  opcode : Nat
  source : Nat
  addr : Nat
  len : Nat
  toB : Bool
  phase : Nat
  header : List Byte
  deriving DecidableEq, Repr

/-- A SEG_LOAD or WAVE_LOAD in progress: its tag, opcode and command entry, and for a SEG_LOAD the data area of its directory entry at
acceptance (R99). -/
structure LoadJob where
  tag : Nat
  opcode : Nat
  entry : List Byte
  area : Nat × Nat
  deriving DecidableEq, Repr

/-- Start of the module (R427): the phase (0 held in reset or stopped, 1 starting, 2 ready, 3 recovery, 4 hard-tripped), the
instant of reset release, the slot chosen for the next start by FW_ACTIVATE, a start that follows a failed trial, and whether the
reset input is held asserted. -/
structure Start where
  phase : Nat
  since : Nat
  next : Option Bool
  rolledBack : Bool
  held : Bool
  deriving DecidableEq, Repr

/-! Waybills (R375 to R380). -/

/-- A block's journey in which a check has failed or a block is missing: the kind of Table 14.2, its 40-bit origin address, the
context, unit, site or tag it travels for, whether a check has failed, and the hop at which fault injection dropped it, with the
clock at which it was due. -/
structure Journey where
  kind : Nat
  origin : Nat
  owner : Nat
  failed : Bool
  missing : Option (Nat × Nat)
  deriving DecidableEq, Repr

/-- An entry of the fault log (R380). -/
structure FaultEntry where
  hop : Nat
  result : Nat
  injected : Bool
  kind : Nat
  origin : Nat
  time : Nat
  deriving DecidableEq, Repr

structure Waybills where
  journeys : List Journey
  flog : List FaultEntry
  poison : List Nat
  deriving DecidableEq, Repr

/-- A check-value unit (R381 to R387): armed, waiting for a start event or inside a frame; the bits of the open frame in
order of arrival; the alive reference. -/
structure ChkUnit where
  armed : Bool
  inFrame : Bool
  started : Bool
  bits : List Bool
  alive : Option Nat
  deriving DecidableEq, Repr

def ChkUnit.init : ChkUnit := ⟨false, false, false, [], none⟩

/-! Thermal management (R424 to R435). -/

/-- One sensor (R428 to R431): its own last reading, how many consecutive samples were identical, and whether it is broken,
with the cause. -/
structure Sensor where
  raw : Nat
  same : Nat
  broken : Bool
  cause : Nat
  deriving DecidableEq, Repr

def Sensor.init : Sensor := ⟨0x7FFF, 0, false, 0⟩

/-- Thermal management: the stages until the next sample, which of the two fast intervals comes next, the input voltage in units
of 10 mV, and whether the power-fail input is asserted or the enable blade is not mated. -/
structure Thermal where
  sensors : Tab Sensor
  wait : Nat
  alternate : Bool
  vin : Nat
  pfInput : Bool
  deriving DecidableEq, Repr

/-! The casting (Tables 2.4 to 2.12). -/

structure TileRec where
  slot : Nat
  present : Nat
  crc : Nat
  id : Nat
  deriving DecidableEq, Repr

structure StoreRec where
  part : Nat
  kind : Nat
  stackMask : Nat
  base : Nat
  size : Nat
  deriving DecidableEq, Repr

structure CaravanRec where
  caravan : Nat
  stragMax : Nat
  delay : Nat
  patPart : Nat
  failPart : Nat
  siteCount : Nat
  deriving DecidableEq, Repr

structure SiteRec where
  site : Nat
  caravan : Nat
  stype : Nat
  pinCount : Nat
  group : Nat
  straggle : Bool
  deriving DecidableEq, Repr

/-- A PIN record (Table 2.8). With `common` the owner is a caravan, otherwise a site. -/
structure PinRec where
  channel : Nat
  common : Bool
  owner : Nat
  role : Nat
  park : Nat
  tile : Nat
  pad : Nat
  deriving DecidableEq, Repr

structure RouteRec where
  kind : Nat
  unit : Nat
  channel : Nat
  slot : Nat
  deriving DecidableEq, Repr

structure LcRec where
  cluster : Nat
  caravan : Nat
  size : Nat
  deriving DecidableEq, Repr

structure RepairRec where
  stype : Nat
  regions : Nat
  banks : Nat
  select : Nat
  rowBits : Nat
  colBits : Nat
  spareRows : Nat
  spareCols : Nat
  deriving DecidableEq, Repr

structure TripRec where
  group : Nat
  action : Nat
  notify : Bool
  deriving DecidableEq, Repr

/-- A POWER record (R52). With `byGroup` the owner is a trip group, otherwise a site. -/
structure PowerRec where
  slice : Nat
  lead : Nat
  byGroup : Bool
  owner : Nat
  deriving DecidableEq, Repr

structure BudgetRec where
  site : Nat
  max : Nat
  deriving DecidableEq, Repr

structure SoundRec where
  caravan : Nat
  method : Nat
  drive : Nat
  recv : Nat
  repeats : Nat
  margin : Nat
  deriving DecidableEq, Repr

/-- A casting: what its header says, and its records. -/
structure Casting where
  isPartial : Bool
  signed : Bool
  target : Nat
  id : Nat
  baseId : Nat
  bodyDigest : List Byte
  tileDigest : List Byte
  tiles : List TileRec
  stores : List StoreRec
  caravans : List CaravanRec
  sites : List SiteRec
  pins : List PinRec
  routes : List RouteRec
  lcs : List LcRec
  repairs : List RepairRec
  trips : List TripRec
  powers : List PowerRec
  budgets : List BudgetRec
  sounds : List SoundRec
  deriving DecidableEq, Repr

/-- A refusal of a casting: code, section type and record index (R56). -/
structure CastErr where
  code : Nat
  sect : Nat
  idx : Nat
  deriving DecidableEq, Repr

/-- A CAST_LOAD or CAST_RECAST in progress. `phase` is 0 while its header and body are read and checked, 1 once its tables are
built or the recast is ready; `built` is the checked casting, and `file` its bytes, of a recast those of the header judged first.
`disturbed` tells that a tile was added, removed
or replaced since the header check (R59). -/
structure CastJob where
  tag : Nat
  source : Nat
  slot : Nat
  dest : Nat
  addr : Nat
  len : Nat
  target : Option Nat
  phase : Nat
  built : Option Casting
  file : List Byte
  disturbed : Bool
  deriving DecidableEq, Repr

/-- The casting in force, its load and its recast (R63 to R73), the identity (R68), and a stored-casting write that follows a
load (R66). -/
structure CastState where
  applied : Option Casting
  identity : List Byte
  load : Option CastJob
  recast : Option CastJob
  deriving DecidableEq, Repr

/-- A tile slot (R351). `phase` is HST_TILE_STAT.STATE, `since` the clock at which it was entered; `found` is a descriptor
that has checked and takes effect at the next tick; `map` joins pads to contacts. -/
structure Tile where
  line : Bool
  phase : Nat
  since : Nat
  joined : Bool
  found : Bool
  id : Nat
  crc : Nat
  code : Nat
  map : List (Nat × Nat)
  deriving DecidableEq, Repr

def Tile.init : Tile := ⟨false, 0, 0, false, false, 0, 0, 0, []⟩

/-! Sequencer contexts (Pattern Sequencing; Run-Ahead, the Pour Line and Site Divergence). -/

/-- The expected data of a READ vector and its physical address (R89, R171). -/
structure Landing where
  data : Nat
  px : Nat
  py : Nat
  pz : Nat
  deriving DecidableEq, Repr

/-- The state of the three address generators, DINV and the read-compare queue, whose head lands in the next vector (R86 to
R89). -/
structure Apg where
  x : Nat
  y : Nat
  z : Nat
  dinv : Bool
  rdq : List (Option Landing)
  deriving DecidableEq, Repr

/-- A loop counter with its loop head (R81). `order` tells which active counter was loaded most recently. -/
structure LoopCtr where
  active : Bool
  count : Nat
  loaded : Nat
  head : Nat
  depth : Nat
  order : Nat
  apg : Apg
  deriving DecidableEq, Repr

/-- A pending requested jump (R107 to R109): the mode latched, the target, the generation point G, and whether it has been
deferred. -/
structure JumpReq where
  mode : Nat
  target : Nat
  g : Nat
  deferred : Bool
  deriving DecidableEq, Repr

/-- What a checkpoint holds (Table 4.1): the position from which generation goes on. `vec` is the position of the next
vector, `clr` that of the last MATCH_CLR; `cont` gives the continuation point of each segment played, `stream` the next row of
each stream segment, `rdv` the occurrences of each rendezvous entry, `seam` the last seam generated (R107). `stop` is the generation
point of a stop that has taken effect; `notes` are the SEQ_EVT bits of requested jumps on this path that no commitment has raised yet. -/
structure SeqPos where
  pc : Nat
  stack : List Nat
  loops : List LoopCtr
  apg : Apg
  cont : Tab (Option Nat)
  stream : Tab Nat
  rdv : Tab Nat
  tset : Nat
  vec : Nat
  seam : Nat
  clr : Nat
  jump : Option JumpReq
  stop : Option Nat
  notes : List Nat
  deriving DecidableEq, Repr

/-- An instruction word (Table 3.1). -/
structure PatInstr where
  op : Nat
  tset : Nat
  apgPre : Nat
  loop : Nat
  cond : Nat
  stored : Bool
  apg : Bool
  isMatch : Bool
  matchClr : Bool
  mlog : Bool
  endOnCarry : Bool
  lc : Bool
  cont : Bool
  rep : Nat
  apgStart : Nat
  apgLen : Nat
  carrySel : Nat
  segment : Nat
  offset : Nat
  arg : Nat
  deriving DecidableEq, Repr

/-- A block in progress: its instruction, the ingot periods already generated, the row of its first ingot, whether it is
over, and RUN_CFG as it stood for its last ingot. -/
structure Block where
  index : Nat
  instr : PatInstr
  done : Nat
  row : Nat
  finished : Bool
  cfg : Nat
  deriving DecidableEq, Repr

/-- Why a path generates nothing: it waits for a checkpoint slot (R126), for a rendezvous (R370), for data with the cause of
Table 3.8 (R101), or it has reached an end code. -/
inductive Halt where
  | none
  | slot
  | rendezvous (entry occurrence : Nat)
  | data (cause : Nat)
  | ended (code : Nat)
  deriving DecidableEq, Repr

/-- A live path of a context. `need` are the unresolved branches that lie on it, each with the outcome it assumes; `time` is
the time, in half clocks of `up`, at which its next vector is generated; `cause` and `causeIdx` the cause of a bubble that ends
with that vector, 0 for none. -/
structure Path where
  pos : SeqPos
  block : Option Block
  need : List (Nat × Bool)
  time : Nat
  halt : Halt
  cause : Nat
  causeIdx : Nat
  deriving DecidableEq, Repr

/-- A compare or a capture that a vector makes on a site's pin: its channel, the site and the pin's index in it, the symbol
after its role, whether it tests a window, whether the mid level can be met (R146, R153), and the data bit whose landed read it
compares. -/
structure Strobe where
  channel : Nat
  site : Nat
  index : Nat
  sym : Nat
  window : Bool
  midOk : Bool
  dbit : Option Nat
  deriving DecidableEq, Repr

/-- A vector. `pos` is its position (R77), `gen` its time of generation in half clocks, `slots` its period; `syms` gives each
pin's symbol by channel; `read` is the landing that its DATA pins compare, `dbits` their data bits, `clash` a landing in a WRITE vector; `row` is 1 on the
first vector of an ingot row that loop caches gave whole, 2 of one of an LC block that DRAM gave. `first` and `last` mark the
block's first and last vector; `rdLat` is RD_LAT in force. What `cross` says, `applied` (sites with their vector positions), `straggler`,
its stream and its run (see Ctx) and the strobes are filled in when it crosses the pour line. -/
structure Vec where
  pos : Nat
  gen : Nat
  slots : Nat
  index : Nat
  instr : PatInstr
  need : List (Nat × Bool)
  syms : List (Nat × Nat)
  read : Option Landing
  dbits : List (Nat × Nat)
  clash : Bool
  row : Nat
  loops : List Nat
  apg : Apg
  depth : Nat
  first : Bool
  last : Bool
  cause : Nat
  causeIdx : Nat
  rdLat : Nat
  cross : Nat
  applied : List (Nat × Nat)
  straggler : Bool
  stream : Nat × Nat
  run : Nat × Nat
  strobes : List Strobe
  deriving DecidableEq, Repr

/-- What a pin's comparators showed for one vector: their states at E4, and whether the expectation held throughout the
window E4 to E5 (for CE, whether the high comparator changed state in it). -/
structure PinObs where
  channel : Nat
  hi : Bool
  lo : Bool
  held : Bool
  deriving DecidableEq, Repr

/-- What waits for compare results, in order: a vector that has crossed, with its results once they are in; a site whose run begins; or
a site that has left the run, with its code, the convoy time of its leaving, its last instruction and timing set, and the vectors
applied to it. -/
inductive Await where
  | vec (v : Vec) (obs : Option (List PinObs))
  | start (site : Nat)
  | leave (site code time index tset vecs : Nat) (straggler : Bool)
  deriving DecidableEq, Repr

/-- An unresolved compare-based branch with its checkpoint (R126): whether it is predicted and the outcome predicted, the
position of the last vector of its block, the time at which its successor is generated without a gap, and the index of the
instruction. `diverge` is the RUN_CFG that its block ended under, `late` tells that both its successors have been discarded
(R117). -/
structure Fork where
  id : Nat
  predicted : Bool
  guess : Bool
  last : Nat
  time : Nat
  index : Nat
  instr : PatInstr
  need : List (Nat × Bool)
  ckpt : SeqPos
  diverge : Nat
  late : Bool
  deriving DecidableEq, Repr

/-- A group of sites that takes its own way at a branch, at once or after a wait (R134, R135): the position from which it generates, the
stages it has waited, the branch, the committed vector time there, the half clock at which the next vector would have been generated,
the streams it comes from and its fails counted. -/
structure WaitGroup where
  sites : List Nat
  ckpt : SeqPos
  stages : Nat
  index : Nat
  phase : Nat
  due : Nat
  lineage : List (Nat × Nat)
  results : List (Nat × Nat)
  deriving DecidableEq, Repr

/-- A site that waits at a waypoint for its caravan (R137), and the straggler context that served it. -/
structure Rejoin where
  site : Nat
  label : Nat
  context : Nat
  deriving DecidableEq, Repr

/-- A site that a context serves up to the vector at position `last` and no longer after it; `code` is the code with which it
then leaves the run, 0 for a site that goes on elsewhere. -/
structure Tail where
  site : Nat
  last : Nat
  code : Nat
  deriving DecidableEq, Repr

/-- A stall (R102): its cause, its instruction, the clock at which generation stopped, and the convoy time at which the last
complete ingot crosses. -/
structure Stall where
  cause : Nat
  index : Nat
  since : Nat
  time : Nat
  deriving DecidableEq, Repr

/-- A rendezvous wait of a caravan (R370): entry, occurrence, and the clock at which the end of the waypoint crosses. -/
structure RdvWait where
  entry : Nat
  occurrence : Nat
  label : Nat
  since : Nat
  deriving DecidableEq, Repr

/-- A sounding in progress (R120): the record under way, by its place among the caravan's SOUND records, its repeat, the clock in which
the first vector of its sequence crosses the pour line, and the largest result of each record so far with its MARGIN. -/
structure Sounding where
  rec_ : Nat
  rep : Nat
  since : Nat
  best : List (Nat × Nat)
  deriving DecidableEq, Repr

/-- The scramble and topology tables of a context, each as its words by index; an unlisted word is the identity's. `ready` are the
tables of swaps admitted (R91). -/
structure SeqTables where
  active : List (Tab Nat)
  shadow : List (Tab Nat)
  ready : List (Tab Nat)
  deriving DecidableEq, Repr

/-- Committed vectors of one period in a row (R208): the clock half at which the first begins, the sum of the periods before it, the period
in slots and their number. -/
structure PhaseRun where
  start : Nat
  base : Nat
  period : Nat
  count : Nat
  deriving DecidableEq, Repr

/-- A sequencer context. `lineage` names the stream that it generates, by context and clock of beginning, and behind it the streams
from which it diverged, the caravan's run last. `sites` are those it serves and `tails` those that it serves a little longer; `delay`
is D; `vecs` are generated and not yet across the pour line, `await` what waits for compare results of this caravan's vectors;
`expect` is the time at which the next vector would be generated without a gap, and `crossed` the clock of the last crossing. `phases`
is the committed vector time in slots, newest first, as far back as a waveform sequencer can ask. `present` are the ingot rows in the
prefetch buffer as (entry, row), `instrs` the instructions, `rows` the stream rows by entry and row, `fetched` the rows fetched of each
stream segment, `caches` the segments that loop caches hold as (cluster, entry), least recently played first. `results` are the counted
fails as (site, position); `outcomes` what each branch last committed. `code` is the end code of a run whose vectors still cross, `kill`
one that waits for the next ingot boundary. -/
structure Ctx where
  home : Nat
  straggler : Bool
  lineage : List (Nat × Nat)
  sites : List Nat
  tails : List Tail
  delay : Nat
  program : Nat
  start : Nat
  paths : List Path
  vecs : List Vec
  forks : List Fork
  nextFork : Nat
  expect : Option Nat
  crossed : Nat
  lastIndex : Nat
  lastTset : Nat
  phases : List PhaseRun
  present : List (Nat × Nat)
  instrs : List Nat
  rows : Tab (List Byte)
  fetched : Tab Nat
  caches : List (Nat × Nat)
  await : List Await
  results : List (Nat × Nat)
  outcomes : Tab (Option Bool)
  stall : Option Stall
  resume : Bool
  code : Option Nat
  kill : Option Nat
  waits : List WaitGroup
  rejoins : List Rejoin
  passed : Option (Nat × Nat)
  rdv : Option RdvWait
  sound : Option Sounding
  tables : SeqTables
  deriving DecidableEq, Repr

/-! Fail capture and the assay engine. -/

/-- A memory event (R171, R179): the physical address and the failing data bits. -/
structure MemEvent where
  bank : Nat
  row : Nat
  col : Nat
  dbits : Nat
  deriving DecidableEq, Repr

/-- An assigned repair (Table 6.6, REPAIR). -/
structure Repair where
  region : Nat
  isCol : Bool
  bank : Nat
  addr : Nat
  must : Bool
  deriving DecidableEq, Repr

/-- A site's session (R184). `cells` is the uncovered set, as bank, row and column; `flags` those of Table 6.7; `codes` the
codes with which the site left each run, latest first. -/
structure Session where
  cells : List (Nat × Nat × Nat)
  repairs : List Repair
  failvec : Nat
  flags : Nat
  codes : List Nat
  runs : Nat
  endCode : Nat
  deriving DecidableEq, Repr

def Session.empty : Session := ⟨[], [], 0, 0, [], 0, 0⟩

/-- A session that finalize has closed and whose final analysis runs (R185): the session, the convoy time of finalize, the
log count and the user bins in force then. -/
structure Closing where
  session : Session
  time : Nat
  logWr : Nat
  bins : List Nat
  deriving DecidableEq, Repr

/-- A site as fail capture and the assay engine hold it. `queue` are records accepted and not yet written; `accepted` counts
those accepted in the run; `vecs` the committed vectors applied in the run, `runFails` its failing vectors; `abort` is a decided
early abort, with its ACTION and clock; `tripped` tells that a trip makes it leave its run at the next ingot boundary (R290);
`disableAt` tells that the enable clears at the next tick. -/
structure Site where
  session : Session
  finalizing : Option Closing
  fifo : List MemEvent
  queue : List (List Byte)
  accepted : Nat
  afterLoss : Bool
  vecs : Nat
  runFails : Nat
  abort : Option (Bool × Nat)
  tripped : Bool
  disableAt : Bool
  lastIndex : Nat
  lastTset : Nat
  deriving DecidableEq, Repr

def Site.init : Site := ⟨Session.empty, none, [], [], 0, false, 0, 0, none, false, false, 0, 0⟩

/-! Pin channels. -/

/-- The state of a pad switch. -/
inductive Switch where
  | opened | closing | closed | opening
  deriving DecidableEq, Repr

/-- A pin channel beside its registers: its pad switch and the clock at which a movement ends, the driver and the present
drive level (R151), the symbol that acts, the end of a ranging interval and of the last one, the end of an
overlap of a takeover or hand-back (R161), the codes in its level DACs, and the clock at which the last driver trip ended; `synth` are the
DRIVE and STROBE edges of its committed vectors that lie ahead of a TDC, as source, slope and instant in 1/65,536 clock of `up` (R247).
Whether the termination and the active load are on follows from these and the registers (`State.pad`, R147). -/
structure Chan where
  switch : Switch
  due : Nat
  driverOn : Bool
  driveHigh : Bool
  symbol : Nat
  ranging : Option Nat
  rangedTill : Nat
  overlap : Option Nat
  dacs : List Nat
  trippedTill : Nat
  synth : List (Nat × Bool × Nat)
  deriving DecidableEq, Repr

def Chan.init : Chan := ⟨.opened, 0, false, false, 0, none, 0, none, [8000, 8000, 8000, 8000, 8000, 8000, 0, 0], 0, []⟩

/-! Waveform sequencers and AWGs. -/

/-- The settings of WFS_CFG, WFS_BIND and the oscillator that form a sample (R201, R209): SRC, PHASE, the binding, FTW, POFF and AMP. -/
structure OscSet where
  src : Nat
  mode : Nat
  bind : Nat
  ftw : Nat
  poff : Nat
  amp : Nat
  deriving DecidableEq, Repr

/-- A waveform sequencer beside its registers (Waveform Sequencing and the DACs). `mem` is its waveform memory by byte and `bills` the
waybill that each granule keeps, as origin × 2^32 + CRC (R196, R375);
`hold` the clocks per sample of this start; `at` the clock at which the first sample of the entry leaves the DAC; `next` the
clock at which the entry gives way to the next one, with the clock of that decision; `stopAt` the clock of the park code after a
stop, with the end code. `acc` is the accumulator at clock `accAt`; `old` holds the settings that act on
samples before clock `oldTill`. -/
structure Wfs where
  mem : Tab Byte
  hold : Nat
  at_ : Nat
  next : Option (Nat × Nat)
  stopAt : Option (Nat × Nat)
  acc : Nat
  accAt : Nat
  old : OscSet
  oldTill : Nat
  bills : Tab Nat
  deriving DecidableEq, Repr

def Wfs.init : Wfs := ⟨[], 1, 0, none, none, 0, 0, ⟨0, 0, 0, 0, 0, 0⟩, 0, []⟩

/-- An AWG output beside its registers: the end of a ranging interval, the pin channel of its closed route, and the pin whose driver
trip opened its mute switch (R213 to R215). -/
structure Awg where
  ranging : Option Nat
  route : Option Nat
  trip : Option Nat
  deriving DecidableEq, Repr

def Awg.init : Awg := ⟨none, none, none⟩

/-! Digitizers. -/

/-- The trigger of a segment (R229, R231): the assigned sample's clock, the sources, the trigger time, the event code, the
clock of the trigger sample, and the settings that the header records. -/
structure Trig where
  assigned : Nat
  sources : Nat
  time : Nat
  event : Nat
  kept : Nat
  range : Nat
  offset : Nat
  route : Nat
  channel : Nat
  deriving DecidableEq, Repr

/-- A trigger source found before its assigned sample (R226): the source's bit, the clock of the sample, the trigger time and the event
code. -/
structure Found where
  mask : Nat
  assigned : Nat
  time : Nat
  event : Nat
  deriving DecidableEq, Repr

/-- A digitizer beside its registers: the values in force at the arm, the segment in progress, the clock of its first kept
sample and of its first WAITING sample, its trigger and its header flags (Table 8.2); the sources `found` whose sample is still to come;
`shut` tells that the route has been open since the segment began, so that every sample is the centre voltage (R220). -/
structure Acq where
  segs : Nat
  pre : Nat
  post : Nat
  decim : Nat
  stream : Bool
  seg : Nat
  first : Nat
  waitAt : Nat
  trig : Option Trig
  flags : Nat
  written : Option Nat
  ranging : Option Nat
  route : Option Nat
  found : List Found
  shut : Bool
  deriving DecidableEq, Repr

def Acq.init : Acq := ⟨1, 0, 0, 1, false, 0, 0, 0, none, 0, none, none, none, [], true⟩

/-! Time measurement. -/

/-- A captured edge: its timestamp, its time in 1/65,536 clock of `up`, the table generation that converted it (none for a
synthetic edge), the physical TDC, and whether the table was the nominal one. -/
structure Stamp where
  time : Nat
  when_ : Int
  gen : Option Nat
  phys : Nat
  nominal : Bool
  deriving DecidableEq, Repr

/-- The last delay-line edge that a TDC captured (R251): its timestamp as in `Stamp.when_`, its clock and tap, the measurement that took it
as an early or a bipolar stop, and that measurement's early-stop flag and count before. -/
structure Capture where
  when_ : Int
  clock : Nat
  tap : Nat
  stopOf : Option Nat
  early : Bool
  count : Nat
  deriving DecidableEq, Repr

/-- A TDC beside its registers. `table` and `shadow` are its tables; `mode`, `start`, `stop`, `evsrc` and `tmo` the settings of
the measurement under way, `peer` the channel lent to it with
`peerPhys` the TDC that then holds it, and `frozen` its frozen state; `since` the clock from which the
timeout runs; `s` and `e` the start and stop captured; `last` the last edge captured on this physical TDC;
`lentTo` the channel it is lent to; `collect` the clock at which a collection began; `held` tells
that a swap waits for frozen-table mode to end. -/
structure Tdc where
  table : Tab Nat
  shadow : Tab Nat
  mode : Word
  start : Word
  stop : Word
  evsrc : Word
  tmo : Nat
  peer : Option Nat
  peerPhys : Nat
  frozen : Bool
  since : Nat
  s : Option Stamp
  e : Option Stamp
  early : Bool
  lost : Bool
  last : Option Capture
  lentTo : Option Nat
  collect : Option Nat
  held : Bool
  deriving DecidableEq, Repr

def Tdc.init : Tdc :=
  ⟨[], [], 0, 0, 0, 0, 0, none, 0, false, 0, none, none, false, false, none, none, none, false⟩

/-! Power slices, measurement, monitors and trips. -/

/-- A power slice beside its registers: the ticks left of a delay, and its ramp: the output as a voltage code at clock
`since`, the code it moves to and the slew (R273); the OFF_DELAY of the tick at which ON was cleared, none while ON is 1; the current
that the load would draw, as a magnitude in current codes of one slice; and the clocks at which the current limit last stopped holding
the output and the last slice trip ended. -/
structure Slice where
  ticks : Nat
  out : Nat
  since : Nat
  target : Nat
  slew : Nat
  discharging : Bool
  offDelay : Option Nat
  demand : Nat
  clampedTill : Nat
  trippedTill : Nat
  deriving DecidableEq, Repr

def Slice.init : Slice := ⟨0, 8000, 0, 8000, 0, false, none, 0, 0, 0⟩

/-- A converter, of a lane or of a slice: the clock from which it is free, and its requests in order, each with the base of
its measurement block, the clock of its acceptance and its conversions. -/
structure Adc where
  free : Nat
  queue : List (Nat × Nat)
  deriving DecidableEq, Repr

def Adc.init : Adc := ⟨0, []⟩

/-- A window monitor beside its registers: the end of its blanking window, whether an excursion occurred in it, and whether
the present excursion has tripped. -/
structure Monitor where
  until_ : Nat
  seen : Bool
  tripped : Bool
  deriving DecidableEq, Repr

def Monitor.init : Monitor := ⟨0, false, false⟩

/-- A clear that a tick accepted, kept for the clock of that tick (R292): its group, the clock, the causes it cleared, whether
MON_GRP_EVT.CLEARED stood before, and the write count of its run-log entry. -/
structure ClearNote where
  group : Nat
  clock : Nat
  causes : Nat
  stood : Bool
  entry : Nat
  deriving DecidableEq, Repr

/-- The trip net: groups whose sites are to be disabled at the next tick (R291); the clock of each group's last trip; sites
over their limit, with the stages in a row (R278); the write count of each group's TRIP entry (R288); the clear last accepted. -/
structure Trips where
  disable : List Nat
  since : Tab Nat
  exceeded : Tab Nat
  noted : Tab Nat
  cleared : List ClearNote
  deriving DecidableEq, Repr

/-! Calibration. -/

/-- A named unit of the calibration request (R301 to R309). `tdcOnly` names its TDC table only. `phase`: 0 not begun, 1 its
takeover item is awaited, 2 its contact is changing hands, 3 its steps run, 4 its hand-back, install or swap item waits. `step` is
the step under way, `live` a live calibration, `trims` what its steps have found so far, `hits` its code-density counts, `collects` that
its TDC collects them (R305). -/
structure CalJob where
  unit : Nat
  tdcOnly : Bool
  phase : Nat
  step : Nat
  live : Bool
  trims : List Nat
  hits : List Nat
  collects : Bool
  deriving DecidableEq, Repr

/-- Calibration, spares and service. `zeners` are the reference voltages in microvolts as last compared, `refs` the quadrant whose reference
set each quadrant's units use (R300); `jobs` the units named
and not ended, `named` all that the request names; `lanes` those whose ADC is being calibrated; `handback` the displaced channels
handed back at the next tick and `hold` the failed channels whose duty is taken then; `tables` and `shadows` the level trim tables
by channel (none listed: nominal); `unitTrims` the installed trims of other units; `heldOfs` TDC offsets that wait with a frozen
table; `copied` the quadrants whose AWG copy is complete; `reloading` clusters under drover reload and `reloaded` those whose
release waits for its tick; `loaded` tells that this start has installed the calibration record; `coreFail` clusters whose drover or loop cache failed, `unitFail` units whose self-test failed. -/
structure Cal where
  zeners : List Nat
  refs : List Nat
  active : Bool
  jobs : List CalJob
  lanes : List Nat
  handback : List Nat
  tables : Tab (Tab Nat)
  shadows : Tab (Tab Nat)
  unitTrims : Tab (List Byte)
  copied : List Nat
  reloading : List Nat
  reloaded : List Nat
  coreFail : List Nat
  unitFail : List Nat
  named : List Nat
  hold : List Nat
  heldOfs : Tab (Nat × Nat)
  loaded : Bool
  deriving DecidableEq, Repr

def Cal.init : Cal := ⟨[2500000, 2500000, 2500000, 2500000], [0, 1, 2, 3], false, [], [], [], [], [], [], [], [], [], [], [], [], [], [], false⟩

/-! The convoy. -/

/-- A HELLO as heard (Table 13.2). -/
structure Hello where
  serial : Nat
  west : Nat
  east : Nat
  position : Nat
  state : Nat
  master : Nat
  deriving DecidableEq, Repr

/-- What a lane receives (R356): blocks with valid sync headers, a block without one, and an ALIGN block in block slot `slot` of the
receiver. -/
inductive LaneSeen where
  | valid (n : Nat)
  | bad
  | align (slot : Nat)
  deriving DecidableEq, Repr

/-- A receiving lane: its valid sync headers in a row, the blocks since its last ALIGN block, whether that came on schedule, and the
block slot it came in. -/
structure LaneRx where
  run : Nat
  since : Option Nat
  onTime : Bool
  slot : Nat
  deriving DecidableEq, Repr

/-- A 64b/66b block before it is scrambled (R355): a control block or a data block, and its 64 bits. -/
structure LineBlock where
  control : Bool
  bits : Nat
  deriving DecidableEq, Repr

/-- A port of the convoy: beacons received in consecutive stages, whether one came in this stage, stages missed, what the
neighbour last said of itself, a frame held back by REORDER, a sounding under way and the offsets measured; its receiving lanes, and
the number of the first block that no frame sent so far takes. -/
structure Port where
  got : Bool
  run : Nat
  missed : Nat
  serial : Nat
  master : Nat
  position : Nat
  upHops : Nat
  heldBack : Option (List Byte)
  t1 : Option Nat
  samples : List Int
  lanes : List LaneRx
  next : Nat
  deriving DecidableEq, Repr

def Port.init : Port := ⟨false, 0, 0, 0, 0, 0, 0, none, none, [], List.replicate 4 ⟨0, none, false, 0⟩, 0⟩

/-- A remote trigger that waits for its delivery time (R367). -/
structure RemoteTrigger where
  event : Nat
  time : Nat
  deriving DecidableEq, Repr

/-- An arrival at a rendezvous (R370), of a module at position `src`. -/
structure Arrival where
  label : Nat
  src : Nat
  occurrence : Nat
  time : Nat
  deriving DecidableEq, Repr

/-- The convoy link. `members` are the positions held, with serials; `pairs` are the frames accepted, as (SRC, SEQ), newest first; `sent` the frames sent in
the present clock, as (west, bytes), and `places` the number of the first block of each with that of the free values which its lanes'
scramblers hold before it; `upstream` the upstream port (true for west), none without a path to the master. `step` is a
time step that waits, in clocks; `reseat` a new position with the serial of its master; `forming` the HELLOs from which the module has
computed its convoy, and `electing` the serials that an election reaches, until the tick at which the result acts. -/
structure Convoy where
  east : Port
  west : Port
  hellos : List Hello
  same : Nat
  members : List (Nat × Nat)
  pairs : List (Nat × Nat)
  nextSeq : Nat
  sent : List (Bool × List Byte)
  places : List (Nat × Nat)
  step : Option Int
  reseat : Option (Nat × Nat)
  triggers : List RemoteTrigger
  arrivals : List Arrival
  counts : List (Nat × Nat × Nat)
  upstream : Option Bool
  forming : Option (List Hello)
  electing : Option (List Nat)
  deriving DecidableEq, Repr

/-! The test access port (R466). -/

inductive TapInstr where
  | none | bypass | samplePreload | extest | idcode
  deriving DecidableEq, Repr

/-- The test access port: the instruction in force, the bypass bit, the identification register and the boundary register
with its update stage, which EXTEST drives. -/
structure Tap where
  instr : TapInstr
  bypass : Bool
  idreg : Nat
  boundary : List Bool
  update : List Bool
  driven : List Bool
  deriving DecidableEq, Repr

end Sys2Proof.Machine
end

