-- ==== Sys2Proof/Syntax.lean ====
section
/-!
DEFINITION. Syntax.lean: the commands of the module, one constructor for each row of spec/opcode_table.json.

Operands. A ring command carries its 128-byte command entry (R335), and where the module reads a block from host memory as
part of the same step, the bytes host memory gave (none: the read failed). `c` is a context, `p` the place of a live path in
it, `n` a site, `ch` a channel, `u` a digitizer, waveform or check unit, `i` a slice, `g` a trip group, `k` a cluster, table
entry or toll slot, `q` a quadrant or stack, `slot` a tile slot, `a` a BAR0 offset with `width` bytes and value `v`, `b` the
base of a measurement or monitor block, `west` the port, `powers` the mean output power of power slices over the stage that
ends, as pairs of slice and units of 10 mW, `hot` that a sensor reads 110 °C or more, `prev` and `nv` input voltages of a
digitizer in nanovolts, `v` of a monitor row the code of the monitored quantity. `x` is a reading with what it is of: the code of the
monitored quantity, the current that a slice's load asks for in the slice's current codes, the input of a digitizer, the blocks of a port. `lanes` are the 66-bit words that the four lanes of a port bring, lane 0 first, each with its
sync header in bits 1 and 0; the first word of a lane only lends its bits to the descrambler. What the lanes of
a port have received since the port was last told: blocks with valid sync headers, a block without one, ALIGN blocks. What an event
brings from outside (a reading, a comparator state, a frame, converter codes, read data) is an operand of its row.
-/

namespace Sys2Proof

/-- A reading that an event brings: the unit, or the base of the block, it is of, and its code. -/
structure CodeRead where
  /-- The slice, or the base of the monitor block. -/
  unit : Nat
  /-- The code read. -/
  code : Nat
  deriving DecidableEq, Repr

/-- The input of a digitizer, in nanovolts. -/
structure InputVolts where
  /-- The digitizer. -/
  unit : Nat
  /-- The voltage, in nanovolts. -/
  nv : Int
  deriving DecidableEq, Repr

/-- What the four lanes of a port have received. -/
structure PortSeen where
  /-- The west port, or the east one. -/
  west : Bool
  /-- What each lane received, lane 0 first. -/
  lanes : List (List Machine.LaneSeen)
  deriving DecidableEq, Repr

/-- The commands and events of the module. -/
inductive Instr where
  /-- STAGE_TICK, R18. -/
  | stageTick (powers : List (Nat × Nat))
  /-- CLOCK_WRAP, R30. -/
  | clockWrap (powers : List (Nat × Nat))
  /-- COMMIT_HOLD_SET, R22. -/
  | commitHoldSet
  /-- COMMIT_HOLD_RELEASE, R22. -/
  | commitHoldRelease
  /-- COMMIT_HOLD_TIMEOUT, R23. -/
  | commitHoldTimeout
  /-- WORK_ITEM_ACTS, R469. -/
  | workItemActs
  /-- REGISTER_WRITE, R444. -/
  | registerWrite (a : Nat) (width : Nat) (v : Nat)
  /-- COUNTER_READ_CLEAR, R447. -/
  | counterReadClear (a : Nat)
  /-- GROUP_READ_LATCH, R448. -/
  | groupReadLatch (a : Nat) (width : Nat)
  /-- CTIME_LATCH, R29. -/
  | ctimeLatch
  /-- DIRECT_WRITE, R398. -/
  | directWrite (a : Nat) (v : Nat)
  /-- CAST_LOAD, R63. -/
  | castLoad (entry : List Byte)
  /-- CAST_LOAD_APPLY, R64. -/
  | castLoadApply
  /-- STORE_DONE, R66. -/
  | storeDone
  /-- CAST_RECAST, R70. -/
  | castRecast (entry : List Byte) (header : Option (List Byte))
  /-- RECAST_READY, R71. -/
  | recastReady (data : Option (List Byte))
  /-- CAST_CANCEL, R71. -/
  | castCancel (entry : List Byte)
  /-- TILE_PRESENT_RISE, R351. -/
  | tilePresentRise (slot : Nat)
  /-- TILE_DEBOUNCE_EXPIRY, R351. -/
  | tileDebounceExpiry (slot : Nat)
  /-- TILE_HOT_JOIN, R351. -/
  | tileHotJoin (slot : Nat)
  /-- TILE_NO_JOIN, R351. -/
  | tileNoJoin (slot : Nat)
  /-- TILE_DESCRIPTOR_READ, R351. -/
  | tileDescriptorRead (slot : Nat) (desc : List Byte)
  /-- TILE_REMOVED, R61. -/
  | tileRemoved (slot : Nat)
  /-- SEQ_START, R110. -/
  | seqStart (c : Nat)
  /-- SEQ_STOP, R112. -/
  | seqStop (c : Nat)
  /-- SEQ_RESUME, R103. -/
  | seqResume (c : Nat)
  /-- SEQ_RESTART_LOOP, R103. -/
  | seqRestartLoop (c : Nat)
  /-- INGOT_GENERATE, R101. -/
  | ingotGenerate (c : Nat) (p : Nat)
  /-- NEXT, R79. -/
  | nextInstr (c : Nat) (p : Nat)
  /-- JUMP, R79. -/
  | jump (c : Nat) (p : Nat)
  /-- BRANCH, R79. -/
  | branch (c : Nat) (p : Nat)
  /-- CALL, R79. -/
  | call (c : Nat) (p : Nat)
  /-- RETURN, R79. -/
  | ret (c : Nat) (p : Nat)
  /-- LOOP_SET, R79. -/
  | loopSet (c : Nat) (p : Nat)
  /-- LOOP_END, R79. -/
  | loopEnd (c : Nat) (p : Nat)
  /-- LOOP_BREAK, R79. -/
  | loopBreak (c : Nat) (p : Nat)
  /-- WAYPOINT, R79. -/
  | waypoint (c : Nat) (p : Nat)
  /-- HALT, R79. -/
  | halt (c : Nat) (p : Nat)
  /-- TRIGGER, R79. -/
  | trigger (c : Nat) (p : Nat)
  /-- STALL_RESUME, R103. -/
  | stallResume (c : Nat)
  /-- PREFETCH_ARRIVAL, R101. -/
  | prefetchArrival (c : Nat) (entry : Nat) (k : Nat)
  /-- STREAM_ROW_FETCH, R105. -/
  | streamRowFetch (c : Nat) (prod : Nat) (data : List Byte)
  /-- SEQ_TABLE_ENTRY_WRITE, R91. -/
  | seqTableEntryWrite (c : Nat) (v : Nat)
  /-- SEQ_TABLE_SWAP, R91. -/
  | seqTableSwap (c : Nat) (mask : Nat)
  /-- SEG_LOAD, R341. -/
  | segLoad (entry : List Byte)
  /-- SEG_LOAD_DONE, R99. -/
  | segLoadDone (tag : Nat) (data : Option (List Byte))
  /-- CXL_MEM_WRITE, R98. -/
  | cxlMemWrite (dpa : Nat) (data : List Byte)
  /-- CXL_MEM_READ, R333. -/
  | cxlMemRead (dpa : Nat)
  /-- SOUND_GO, R119. -/
  | soundGo (c : Nat)
  /-- SOUND_ABORT, R121. -/
  | soundAbort (c : Nat)
  /-- SOUND_DONE, R121. -/
  | soundDone (c : Nat) (trips : List Nat)
  /-- SOUND_NO_ECHO, R120. -/
  | soundNoEcho (c : Nat) (r : Nat)
  /-- POUR_LINE_CROSSING, R116. -/
  | pourLineCrossing (c : Nat)
  /-- BRANCH_RESOLVED, R125. -/
  | branchResolved (c : Nat)
  /-- WAIT_TIMEOUT, R135. -/
  | waitTimeout (c : Nat)
  /-- COMPARE_RESULT, R169. -/
  | compareResult (c : Nat) (obs : List Machine.PinObs)
  /-- LOG_DRAIN_WRITE, R176. -/
  | logDrainWrite (n : Nat)
  /-- MEMORY_EVENT_ANALYSIS, R180. -/
  | memoryEventAnalysis (n : Nat)
  /-- EARLY_ABORT, R187. -/
  | earlyAbort (n : Nat)
  /-- FINALIZE, R185. -/
  | finalize (n : Nat)
  /-- SESSION_CLEAR, R184. -/
  | sessionClear (n : Nat)
  /-- FINAL_ANALYSIS, R183. -/
  | finalAnalysis (n : Nat)
  /-- ASY_RES_STAT_READ, R191. -/
  | asyResStatRead (n : Nat)
  /-- ASY_RES_ADV, R191. -/
  | asyResAdv (n : Nat)
  /-- PMU_RANGING_END, R156. -/
  | pmuRangingEnd (ch : Nat)
  /-- PAD_SWITCH_CLOSED, R158. -/
  | padSwitchClosed (ch : Nat)
  /-- PAD_SWITCH_OPEN, R159. -/
  | padSwitchOpen (ch : Nat)
  /-- TAKEOVER_SWITCH_OPEN, R161. -/
  | takeoverSwitchOpen (ch : Nat)
  /-- HANDBACK_SWITCH_OPEN, R161. -/
  | handbackSwitchOpen (ch : Nat)
  /-- WAVE_LOAD, R195. -/
  | waveLoad (entry : List Byte)
  /-- WAVE_LOAD_DONE, R195. -/
  | waveLoadDone (tag : Nat) (data : Option (List Byte))
  /-- WFS_START, R202. -/
  | wfsStart (u : Nat)
  /-- WFS_STOP, R206. -/
  | wfsStop (u : Nat)
  /-- WFS_ADVANCE, R205. -/
  | wfsAdvance (u : Nat)
  /-- ENTRY_ADVANCE, R204. -/
  | entryAdvance (u : Nat)
  /-- AUTO_ADVANCE, R198. -/
  | autoAdvance (u : Nat)
  /-- WFS_TABLE_WRITE, R199. -/
  | wfsTableWrite (u : Nat) (k : Nat) (v : Nat)
  /-- AWG_MUTE_RECLOSE, R214. -/
  | awgMuteReclose (u : Nat)
  /-- ACQ_CTL_ARM, R233. -/
  | acqCtlArm (u : Nat)
  /-- ACQ_CTL_STOP, R236. -/
  | acqCtlStop (u : Nat)
  /-- ACQ_FORCE, R226. -/
  | acqForce (u : Nat)
  /-- ACQ_TRIGGER, R229. -/
  | acqTrigger (u : Nat) (prev nv : Int)
  /-- AUTO_TRIGGER, R228. -/
  | autoTrigger (u : Nat)
  /-- SEGMENT_COMPLETE, R234. -/
  | segmentComplete (u : Nat) (samples : List Nat)
  /-- STREAM_BLOCK_WRITE, R239. -/
  | streamBlockWrite (u : Nat) (samples : List Nat)
  /-- STREAM_OVERRUN, R240. -/
  | streamOverrun (u : Nat)
  /-- ACQ_OVERRANGE, R221. -/
  | acqOverrange (x : InputVolts)
  /-- ACQ_RANGING_END, R222. -/
  | acqRangingEnd (u : Nat)
  /-- ACQ_RES_STAT_READ, R238. -/
  | acqResStatRead (u : Nat)
  /-- ACQ_RES_ADV, R238. -/
  | acqResAdv (u : Nat)
  /-- TDC_CTL_ARM, R250. -/
  | tdcCtlArm (ch : Nat)
  /-- TDC_CTL_DISARM, R257. -/
  | tdcCtlDisarm (ch : Nat)
  /-- TDC_EDGE, R251. -/
  | tdcEdge (ch : Nat) (source : Nat) (rising : Bool) (tap : Nat)
  /-- TDC_TIMEOUT, R255. -/
  | tdcTimeout (ch : Nat)
  /-- CD_GO, R262. -/
  | cdGo (ch : Nat)
  /-- CD_ABORT, R262. -/
  | cdAbort (ch : Nat)
  /-- CD_DONE, R263. -/
  | cdDone (ch : Nat) (hits : List Nat)
  /-- CD_TOO_FEW, R262. -/
  | cdTooFew (ch : Nat)
  /-- TDC_TABLE_WRITE, R264. -/
  | tdcTableWrite (ch : Nat) (v : Nat)
  /-- TDC_TSWAP, R264. -/
  | tdcTswap (ch : Nat)
  /-- TDC_RES_STAT_READ, R260. -/
  | tdcResStatRead (ch : Nat)
  /-- TDC_RES_ADV, R260. -/
  | tdcResAdv (ch : Nat)
  /-- DPS_ON, R272. -/
  | dpsOn (i : Nat)
  /-- SLICE_DELAY_ON_EXPIRY, R273. -/
  | sliceDelayOnExpiry (i : Nat)
  /-- AT_LEVEL, R273. -/
  | atLevel (i : Nat)
  /-- SLICE_DELAY_OFF_EXPIRY, R273. -/
  | sliceDelayOffExpiry (i : Nat)
  /-- OFF_DONE, R273. -/
  | offDone (i : Nat)
  /-- DISCHARGE_END, R275. -/
  | dischargeEnd (i : Nat)
  /-- PMU_MEAS_GO, R279. -/
  | pmuMeasGo (ch : Nat)
  /-- MEAS_COMPLETE, R280. -/
  | measComplete (b : Nat) (codes : List Nat) (clamp : Bool)
  /-- PMU_MEAS_STAT_READ, R281. -/
  | pmuMeasStatRead (b : Nat)
  /-- PMU_MEAS_ADV, R281. -/
  | pmuMeasAdv (b : Nat)
  /-- DPS_MEAS_GO, R282. -/
  | dpsMeasGo (i : Nat)
  /-- MONITOR_TRIP, R287. -/
  | monitorTrip (x : CodeRead)
  /-- BLANK_WINDOW_CLOSE, R286. -/
  | blankWindowClose (b : Nat) (v : Nat)
  /-- GROUP_FORCE, R287. -/
  | groupForce (g : Nat)
  /-- SITE_TRIPPED, R290. -/
  | siteTripped (n : Nat)
  /-- GROUP_CLEAR, R292. -/
  | groupClear (g : Nat)
  /-- CAL_REQ_GO, R301. -/
  | calReqGo (zeners : List Nat)
  /-- CAL_REQ_ABORT, R303. -/
  | calReqAbort
  /-- LANE_ADC_CAL_DONE, R302. -/
  | laneAdcCalDone (lane : Nat)
  /-- CAL_STEP_DONE, R305. -/
  | calStepDone (ch : Nat) (trims : List Nat)
  /-- UNIT_CAL_DONE, R309. -/
  | unitCalDone (unit : Nat) (pass : Bool) (trims : List Byte)
  /-- CAL_RELEASE, R310. -/
  | calRelease (ch : Nat)
  /-- LVL_TABLE_WRITE, R307. -/
  | lvlTableWrite (ch : Nat) (v : Nat)
  /-- LVL_TSWAP, R307. -/
  | lvlTswap (ch : Nat)
  /-- CAL_STORE, R311. -/
  | calStore (entry : List Byte)
  /-- SUB_ENABLE, R315. -/
  | subEnable (awg : Bool) (q : Nat)
  /-- SUB_DISABLE, R317. -/
  | subDisable (awg : Bool) (q : Nat)
  /-- SPARE_COPY_DONE, R316. -/
  | spareCopyDone (awg : Bool) (q : Nat)
  /-- ISO_SET, R318. -/
  | isoSet (k : Nat)
  /-- SELFTEST_DONE, R319. -/
  | selftestDone (k : Nat) (core : Bool) (failed : List Nat)
  /-- ISO_RELEASE, R320. -/
  | isoRelease (k : Nat)
  /-- DROVER_RELOAD_DONE, R320. -/
  | droverReloadDone (k : Nat)
  /-- CASTOUT_SET, R321. -/
  | castoutSet (q : Nat)
  /-- STACK_RESTORE, R322. -/
  | stackRestore (q : Nat)
  /-- STACK_SELFTEST_DONE, R322. -/
  | stackSelftestDone (q : Nat) (pass : Bool)
  /-- STACK_FAULT, R322. -/
  | stackFault (q : Nat)
  /-- YARD_FAILURE, R323. -/
  | yardFailure
  /-- YARD_RESTARTED, R323. -/
  | yardRestarted
  /-- COMPLETION_WRITE, R338. -/
  | completionWrite
  /-- IRQ_MODERATION_EXPIRY, R340. -/
  | irqModerationExpiry
  /-- RING_RESET, R350. -/
  | ringReset
  /-- HOST_ATTACHMENT_RESET, R348. -/
  | hostAttachmentReset (cause : Nat)
  /-- LINK_UP, R350. -/
  | linkUp (width : Nat) (speed : Nat) (ide : Bool)
  /-- UNKNOWN_OPCODE, R336. -/
  | unknownOpcode (entry : List Byte)
  /-- SITE_ENABLE, R343. -/
  | siteEnable (entry : List Byte)
  /-- RUN_START, R343. -/
  | runStart (entry : List Byte)
  /-- RUN_STOP, R343. -/
  | runStop (entry : List Byte)
  /-- JUMP_REQUEST, R343. -/
  | jumpRequest (entry : List Byte)
  /-- SOUND, R343. -/
  | soundCmd (entry : List Byte)
  /-- RUN_CONFIG, R343. -/
  | runConfig (entry : List Byte)
  /-- PIN_LEVELS, R343. -/
  | pinLevels (entry : List Byte)
  /-- PIN_TIMING, R343. -/
  | pinTiming (entry : List Byte)
  /-- PMU_SET, R343. -/
  | pmuSet (entry : List Byte)
  /-- ASSAY_CONFIG, R343. -/
  | assayConfig (entry : List Byte)
  /-- ASSAY_FINALIZE, R343. -/
  | assayFinalize (entry : List Byte)
  /-- ASSAY_CLEAR, R343. -/
  | assayClear (entry : List Byte)
  /-- ABORT_POLICY, R343. -/
  | abortPolicy (entry : List Byte)
  /-- WAVE_START, R343. -/
  | waveStart (entry : List Byte)
  /-- WAVE_STOP, R343. -/
  | waveStop (entry : List Byte)
  /-- AWG_SET, R343. -/
  | awgSet (entry : List Byte)
  /-- ACQ_ARM, R343. -/
  | acqArm (entry : List Byte)
  /-- ACQ_STOP, R343. -/
  | acqStop (entry : List Byte)
  /-- ACQ_SET, R343. -/
  | acqSet (entry : List Byte)
  /-- TDC_SET, R343. -/
  | tdcSet (entry : List Byte)
  /-- TDC_ARM, R343. -/
  | tdcArm (entry : List Byte)
  /-- TDC_DISARM, R343. -/
  | tdcDisarm (entry : List Byte)
  /-- SLICE_SET, R343. -/
  | sliceSet (entry : List Byte)
  /-- PMU_MEASURE, R343. -/
  | pmuMeasure (entry : List Byte)
  /-- MONITOR_SET, R343. -/
  | monitorSet (entry : List Byte)
  /-- TRIP_CLEAR, R343. -/
  | tripClear (entry : List Byte)
  /-- CALIBRATE, R343. -/
  | calibrate (entry : List Byte)
  /-- CAL_ABORT, R343. -/
  | calAbort (entry : List Byte)
  /-- SPARE_SET, R343. -/
  | spareSet (entry : List Byte)
  /-- CLUSTER_ISOLATE, R343. -/
  | clusterIsolate (entry : List Byte)
  /-- STACK_CASTOUT, R343. -/
  | stackCastout (entry : List Byte)
  /-- PORT_UP, R357. -/
  | portUp (x : PortSeen)
  /-- PORT_DOWN, R357. -/
  | portDown (x : PortSeen)
  /-- BEACON, R357. -/
  | beaconFrame (west : Bool) (lanes : List (List Nat))
  /-- HELLO, R360. -/
  | helloFrame (west : Bool) (lanes : List (List Nat))
  /-- TRIGGER_FRAME, R367. -/
  | triggerFrame (west : Bool) (lanes : List (List Nat))
  /-- RENDEZVOUS, R370. -/
  | rendezvousFrame (west : Bool) (lanes : List (List Nat))
  /-- FAIL, R368. -/
  | failFrame (west : Bool) (lanes : List (List Nat))
  /-- SOUND_REQ, R364. -/
  | soundReq (west : Bool) (lanes : List (List Nat)) (frac : Nat) (dep : Nat)
  /-- SOUND_ECHO, R364. -/
  | soundEcho (west : Bool) (lanes : List (List Nat)) (frac : Nat)
  /-- FRAME_DISCARD, R358. -/
  | frameDiscard (west : Bool)
  /-- CONVOY_FORMED, R360. -/
  | convoyFormed
  /-- MASTER_CHANGE, R361. -/
  | masterChange (reach : List Nat)
  /-- POSITION_FREED, R362. -/
  | positionFreed (pos : Nat)
  /-- LINK_SOUNDING, R364. -/
  | linkSounding (west : Bool) (frac : Nat)
  /-- TIME_STEP, R365. -/
  | timeStep
  /-- REMOTE_TRIGGER_DELIVERY, R367. -/
  | remoteTriggerDelivery
  /-- RENDEZVOUS_RELEASE, R370. -/
  | rendezvousRelease (c : Nat)
  /-- RENDEZVOUS_TIMEOUT, R371. -/
  | rendezvousTimeout (c : Nat)
  /-- BLOCK_HOP, R377. -/
  | blockHop (kind : Nat) (origin : Nat) (owner : Nat) (hop : Nat) (ok : Bool) (selected : Bool)
  /-- REFETCH_ARRIVAL, R378. -/
  | refetchArrival (kind : Nat) (origin : Nat) (owner : Nat) (ok : Bool)
  /-- INJECTED_DROP_DETECT, R400. -/
  | injectedDropDetect (kind : Nat) (origin : Nat) (owner : Nat)
  /-- CHK_ARM, R387. -/
  | chkArm (u : Nat)
  /-- CHK_DISARM, R387. -/
  | chkDisarm (u : Nat)
  /-- CHK_FEED, R381. -/
  | chkFeed (u : Nat) (v : Nat)
  /-- CHK_FEED8, R381. -/
  | chkFeed8 (u : Nat) (v : Nat)
  /-- CHK_RES_STAT_READ, R386. -/
  | chkResStatRead (u : Nat)
  /-- CHK_RES_ADV, R386. -/
  | chkResAdv (u : Nat)
  /-- TOLL_LOCKOUT_EXPIRY, R396. -/
  | tollLockoutExpiry (k : Nat)
  /-- REG_WRITE_T, R397. -/
  | regWriteT (entry : List Byte)
  /-- OWNER_CLAIM, R391. -/
  | ownerClaim (entry : List Byte) (block : Option (List Byte))
  /-- OWNER_RELEASE, R391. -/
  | ownerRelease (entry : List Byte) (block : Option (List Byte))
  /-- KEY_SET, R391. -/
  | keySet (entry : List Byte) (block : Option (List Byte))
  /-- KEY_ERASE, R391. -/
  | keyErase (entry : List Byte) (block : Option (List Byte))
  /-- CAST_KEY_SET, R391. -/
  | castKeySet (entry : List Byte) (block : Option (List Byte))
  /-- OWNER_POLICY, R391. -/
  | ownerPolicy (entry : List Byte) (block : Option (List Byte))
  /-- ATTEST, R390. -/
  | attest (entry : List Byte)
  /-- IDENTITY_READ, R389. -/
  | identityRead (entry : List Byte)
  /-- FW_UPDATE, R409. -/
  | fwUpdate (entry : List Byte)
  /-- FW_HEADER_CHECKED, R410. -/
  | fwHeaderChecked (data : Option (List Byte))
  /-- FW_WRITE_DONE, R411. -/
  | fwWriteDone (data : Option (List Byte))
  /-- FW_ACTIVATE, R418. -/
  | fwActivate (entry : List Byte)
  /-- FW_CONFIRM, R417. -/
  | fwConfirm (entry : List Byte)
  /-- TRIAL_FAILED, R416. -/
  | trialFailed
  /-- TRIAL_READY_TIMEOUT, R416. -/
  | trialReadyTimeout
  /-- CONTROLLER_LOAD_TIMEOUT, R419. -/
  | controllerLoadTimeout (ctl : Nat)
  /-- POWER_FAIL_WARNING, R424. -/
  | powerFailWarning (vin : Nat) (pf : Bool)
  /-- POWER_FAIL_END, R424. -/
  | powerFailEnd (vin : Nat)
  /-- MODULE_START, R427. -/
  | moduleStart (hot : Bool)
  /-- RESET_ASSERT, R427. -/
  | resetAssert
  /-- MODULE_READY, R427. -/
  | moduleReady
  /-- THERMAL_SAMPLE, R429. -/
  | thermalSample (readings : List Machine.Reading) (vin : Nat) (pin : Nat)
  /-- THM_RESUME, R434. -/
  | thmResume (n : Nat)
  /-- HARD_TRIP, R435. -/
  | hardTrip
  /-- NV_PAGE_DONE, R436. -/
  | nvPageDone
  /-- NV_TRANSACTION_COMMIT, R436. -/
  | nvTransactionCommit
  /-- CONTACT_ENGAGED_ASSERT, R465. -/
  | contactEngagedAssert
  /-- CONTACT_ENGAGED_DEASSERT, R465. -/
  | contactEngagedDeassert
  /-- BYPASS, R466. -/
  | bypass
  /-- SAMPLE_PRELOAD, R466. -/
  | samplePreload (pins : List Bool) (shiftIn : List Bool)
  /-- EXTEST, R466. -/
  | extest (pins : List Bool)
  /-- IDCODE, R466. -/
  | idcode
  /-- POWER_LOSS, R437. -/
  | powerLoss
  /-- CAST_CHECKS_COMPLETE, R65. -/
  | castChecksComplete (data : Option (List Byte))
  /-- PRE_FILLED, R234. -/
  | preFilled (u : Nat)
  /-- VSET_RAMP_END, R273. -/
  | vsetRampEnd (i : Nat)
  /-- MONITOR_INSIDE, R283. -/
  | monitorInside (x : CodeRead)
  /-- BLANKED_OUTSIDE, R286. -/
  | blankedOutside (x : CodeRead)
  /-- CURRENT_LIMIT_ENGAGED, R271. -/
  | currentLimitEngaged (x : CodeRead)
  /-- SAMPLE_SATURATED, R210. -/
  | sampleSaturated (u : Nat)
  /-- OUTPUT_STAGE_LIMIT, R211. -/
  | outputStageLimit (u : Nat)
  /-- TDC_TDATA_READ, R269. -/
  | tdcTdataRead (ch : Nat)
  /-- LVL_TDATA_READ, R325. -/
  | lvlTdataRead (ch : Nat)
  deriving DecidableEq, Repr

end Sys2Proof
end

