-- ==== Sys2Proof/Decode.lean ====
section
/-!
DEFINITION. Decode.lean: the commands that a word spells by the bits of the opcode table. No row of the table gives bits: the module
takes commands, not instruction words, so no word spells one. notes/assumptions/1.md.
-/

namespace Sys2Proof

/-- The command spelled by a word of `nbits` bits: none of the table's rows has an encoding. -/
def decodeTableWord (_nbits _w : Nat) : Option Instr := none

end Sys2Proof
end

