-- ==== Sys2Proof/Machine/Crypto.lean ====
section
/-!
DEFINITION. Machine/Crypto.lean: the check values and signatures that the spec names by their standards: CRC-32C (R36),
SHA-512 (casting, image and tile digests), HMAC-SHA-512 (R394) and Ed25519 (R35, R391, R408). PRESUMED: the functions follow
the named standards (RFC 3720, FIPS 180-4, RFC 2104, RFC 8032), which the spec cites and does not repeat; notes/assumptions/4.md.
-/

namespace Sys2Proof.Machine

/-! CRC-32C, R36. -/

/-- One bit step of the reflected CRC-32C. -/
def crcBit (c : BitVec 32) : BitVec 32 :=
  if c.getLsbD 0 then (c >>> 1) ^^^ 0x82F63B78#32 else c >>> 1

/-- One byte of the reflected CRC-32C. -/
def crcByte (c : BitVec 32) (b : Byte) : BitVec 32 :=
  let x := c ^^^ b.setWidth 32
  crcBit (crcBit (crcBit (crcBit (crcBit (crcBit (crcBit (crcBit x)))))))

/-- The register after the bytes of a string. Its two branches agree: the test makes the kernel evaluate the register byte by byte. -/
def crcFold : BitVec 32 → List Byte → BitVec 32
  | c, [] => c
  | c, b :: bs => if c = 0#32 then crcFold (crcByte 0#32 b) bs else crcFold (crcByte c b) bs

/-- CRC-32C of a byte string: initial value and final XOR 0xFFFF_FFFF, reflected input and output (R36). -/
def crc32c (l : List Byte) : BitVec 32 := crcFold 0xFFFFFFFF#32 l ^^^ 0xFFFFFFFF#32

/-! SHA-512, FIPS 180-4. -/

/-- Initial hash value of SHA-512. -/
def shaInit : List (BitVec 64) :=
  [ 0x6A09E667F3BCC908, 0xBB67AE8584CAA73B, 0x3C6EF372FE94F82B, 0xA54FF53A5F1D36F1,
    0x510E527FADE682D1, 0x9B05688C2B3E6C1F, 0x1F83D9ABFB41BD6B, 0x5BE0CD19137E2179 ]

/-- Round constants of SHA-512. -/
def shaK : List (BitVec 64) :=
  [ 0x428A2F98D728AE22, 0x7137449123EF65CD, 0xB5C0FBCFEC4D3B2F, 0xE9B5DBA58189DBBC,
    0x3956C25BF348B538, 0x59F111F1B605D019, 0x923F82A4AF194F9B, 0xAB1C5ED5DA6D8118,
    0xD807AA98A3030242, 0x12835B0145706FBE, 0x243185BE4EE4B28C, 0x550C7DC3D5FFB4E2,
    0x72BE5D74F27B896F, 0x80DEB1FE3B1696B1, 0x9BDC06A725C71235, 0xC19BF174CF692694,
    0xE49B69C19EF14AD2, 0xEFBE4786384F25E3, 0x0FC19DC68B8CD5B5, 0x240CA1CC77AC9C65,
    0x2DE92C6F592B0275, 0x4A7484AA6EA6E483, 0x5CB0A9DCBD41FBD4, 0x76F988DA831153B5,
    0x983E5152EE66DFAB, 0xA831C66D2DB43210, 0xB00327C898FB213F, 0xBF597FC7BEEF0EE4,
    0xC6E00BF33DA88FC2, 0xD5A79147930AA725, 0x06CA6351E003826F, 0x142929670A0E6E70,
    0x27B70A8546D22FFC, 0x2E1B21385C26C926, 0x4D2C6DFC5AC42AED, 0x53380D139D95B3DF,
    0x650A73548BAF63DE, 0x766A0ABB3C77B2A8, 0x81C2C92E47EDAEE6, 0x92722C851482353B ] ++
  [ 0xA2BFE8A14CF10364, 0xA81A664BBC423001, 0xC24B8B70D0F89791, 0xC76C51A30654BE30,
    0xD192E819D6EF5218, 0xD69906245565A910, 0xF40E35855771202A, 0x106AA07032BBD1B8,
    0x19A4C116B8D2D0C8, 0x1E376C085141AB53, 0x2748774CDF8EEB99, 0x34B0BCB5E19B48A8,
    0x391C0CB3C5C95A63, 0x4ED8AA4AE3418ACB, 0x5B9CCA4F7763E373, 0x682E6FF3D6B2B8A3,
    0x748F82EE5DEFB2FC, 0x78A5636F43172F60, 0x84C87814A1F0AB72, 0x8CC702081A6439EC,
    0x90BEFFFA23631E28, 0xA4506CEBDE82BDE9, 0xBEF9A3F7B2C67915, 0xC67178F2E372532B,
    0xCA273ECEEA26619C, 0xD186B8C721C0C207, 0xEADA7DD6CDE0EB1E, 0xF57D4F7FEE6ED178,
    0x06F067AA72176FBA, 0x0A637DC5A2C898A6, 0x113F9804BEF90DAE, 0x1B710B35131C471B,
    0x28DB77F523047D84, 0x32CAAB7B40C72493, 0x3C9EBE0A15C9BEBC, 0x431D67C49C100D4C,
    0x4CC5D4BECB3E42B6, 0x597F299CFC657E2A, 0x5FCB6FAB3AD6FAEC, 0x6C44198C4A475817 ]

def shaS0 (x : BitVec 64) : BitVec 64 := x.rotateRight 28 ^^^ x.rotateRight 34 ^^^ x.rotateRight 39
def shaS1 (x : BitVec 64) : BitVec 64 := x.rotateRight 14 ^^^ x.rotateRight 18 ^^^ x.rotateRight 41
def shas0 (x : BitVec 64) : BitVec 64 := x.rotateRight 1 ^^^ x.rotateRight 8 ^^^ (x >>> 7)
def shas1 (x : BitVec 64) : BitVec 64 := x.rotateRight 19 ^^^ x.rotateRight 61 ^^^ (x >>> 6)

/-- The eight working variables of a round, with the sixteen schedule words that the next rounds draw on. -/
structure ShaRound where
  v : List (BitVec 64)
  w : List (BitVec 64)
  deriving DecidableEq, Repr

/-- One round with constant `k`. -/
def shaStep (r : ShaRound) (k : BitVec 64) : ShaRound :=
  match r.v, r.w with
  | [a, b, c, d, e, f, g, h], w0 :: ws =>
    let t1 := h + shaS1 e + ((e &&& f) ^^^ (~~~e &&& g)) + k + w0
    let t2 := shaS0 a + ((a &&& b) ^^^ (a &&& c) ^^^ (b &&& c))
    let wn := shas1 (ws.getD 13 0) + ws.getD 8 0 + shas0 (ws.getD 0 0) + w0
    ⟨[t1 + t2, a, b, c, d + t1, e, f, g], ws ++ [wn]⟩
  | _, _ => r

/-- A big-endian 64-bit word. -/
def beWord (l : List Byte) : BitVec 64 := l.foldl (fun a b => (a <<< 8) ||| b.setWidth 64) 0

/-- The eight bytes of a word, most significant first. -/
def beBytes (w : BitVec 64) : List Byte := (leBytes 8 w.toNat).reverse

/-- The compression function on one 128-byte block. -/
def shaBlock (h : List (BitVec 64)) (blk : List Byte) : List (BitVec 64) :=
  let w := (List.range 16).map fun i => beWord (slice blk (8 * i) 8)
  let r := shaK.foldl shaStep ⟨h, w⟩
  List.zipWith (· + ·) h r.v

/-- `n` blocks of a padded message. -/
def shaBlocks : Nat → List (BitVec 64) → List Byte → List (BitVec 64)
  | 0, h, _ => h
  | n + 1, h, m => shaBlocks n (shaBlock h (m.take 128)) (m.drop 128)

/-- SHA-512 of a byte string. -/
def sha512 (m : List Byte) : List Byte :=
  let n := m.length
  let z := (239 - n % 128) % 128
  let p := m ++ [0x80#8] ++ List.replicate z 0#8 ++ (leBytes 16 (8 * n)).reverse
  (shaBlocks (p.length / 128) shaInit p).flatMap beBytes

/-- HMAC-SHA-512 (RFC 2104) with a key of at most 128 bytes. -/
def hmacSha512 (key msg : List Byte) : List Byte :=
  let k := key ++ List.replicate (128 - key.length) 0#8
  let i := k.map (· ^^^ 0x36#8)
  let o := k.map (· ^^^ 0x5C#8)
  sha512 (o ++ sha512 (i ++ msg))

/-! Ed25519, RFC 8032. -/

/-- The field prime 2^255 - 19. -/
def edP : Nat := 2 ^ 255 - 19
/-- The group order. -/
def edL : Nat := 2 ^ 252 + 27742317777372353535851937790883648493

/-- Modular power by the bits of the exponent, `n` of them. -/
def powMod (m : Nat) : Nat → Nat → Nat → Nat
  | 0, _, _ => 1 % m
  | n + 1, b, e =>
    let h := powMod m n (b * b % m) (e / 2)
    if e % 2 = 1 then h * b % m else h

/-- The inverse in the field. -/
def edInv (x : Nat) : Nat := powMod edP 256 x (edP - 2)

/-- The curve constant d. -/
def edD : Nat := (edP - 121665) * edInv 121666 % edP

/-- A point in extended coordinates. -/
structure EdPoint where
  x : Nat
  y : Nat
  z : Nat
  t : Nat
  deriving DecidableEq, Repr

def edZero : EdPoint := ⟨0, 1, 1, 0⟩

/-- Point addition (RFC 8032, 5.1.4). -/
def edAdd (p q : EdPoint) : EdPoint :=
  let a := (p.y + (edP - p.x)) * (q.y + (edP - q.x)) % edP
  let b := (p.y + p.x) * (q.y + q.x) % edP
  let c := p.t * 2 * edD % edP * q.t % edP
  let d := p.z * 2 * q.z % edP
  let e := (b + (edP - a)) % edP
  let f := (d + (edP - c)) % edP
  let g := (d + c) % edP
  let h := (b + a) % edP
  ⟨e * f % edP, g * h % edP, f * g % edP, e * h % edP⟩

/-- Scalar multiple by the `n` low bits of `k`. -/
def edMul : Nat → Nat → EdPoint → EdPoint
  | 0, _, _ => edZero
  | n + 1, k, p =>
    let r := edMul n (k / 2) (edAdd p p)
    if k % 2 = 1 then edAdd r p else r

/-- The x coordinate of a y with sign bit `s`, or none where there is none (RFC 8032, 5.1.3). -/
def edRecover (y s : Nat) : Option Nat :=
  if edP ≤ y then none else
  let x2 := (y * y + (edP - 1)) % edP * edInv (edD * (y * y % edP) + 1) % edP
  if x2 = 0 then (if s = 1 then none else some 0) else
  let x := powMod edP 256 x2 ((edP + 3) / 8)
  let x := if x * x % edP = x2 then x else x * powMod edP 256 2 ((edP - 1) / 4) % edP
  if x * x % edP = x2 then some (if x % 2 = s then x else edP - x) else none

/-- Decompression of a 32-byte point. -/
def edDecode (l : List Byte) : Option EdPoint :=
  let n := leNat l
  let y := n % 2 ^ 255
  match edRecover y (n / 2 ^ 255) with
  | none => none
  | some x => some ⟨x, y, 1, x * y % edP⟩

/-- Compression of a point. -/
def edEncode (p : EdPoint) : List Byte :=
  let zi := edInv p.z
  let x := p.x * zi % edP
  let y := p.y * zi % edP
  leBytes 32 (y + (x % 2) * 2 ^ 255)

/-- The base point. -/
def edBase : EdPoint :=
  let y := 4 * edInv 5 % edP
  match edRecover y 0 with
  | none => edZero
  | some x => ⟨x, y, 1, x * y % edP⟩

/-- Equality of two points in projective coordinates. -/
def edEq (p q : EdPoint) : Bool :=
  p.x * q.z % edP == q.x * p.z % edP && p.y * q.z % edP == q.y * p.z % edP

/-- Ed25519 verification of a 64-byte signature under a 32-byte public key (RFC 8032, 5.1.7). -/
def edVerify (key msg sig : List Byte) : Bool :=
  match edDecode key, edDecode (sig.take 32) with
  | some a, some r =>
    let s := leNat (sig.drop 32)
    let h := leNat (sha512 (sig.take 32 ++ key ++ msg)) % edL
    sig.length == 64 && key.length == 32 && decide (s < edL) && edEq (edMul 256 s edBase) (edAdd r (edMul 256 h a))
  | _, _ => false

/-- The clamped secret scalar of a 32-byte private key. -/
def edSecret (h : List Byte) : Nat := leNat (h.take 32) % 2 ^ 254 / 8 * 8 + 2 ^ 254

/-- The public key of a 32-byte private key (RFC 8032, 5.1.5). -/
def edPublic (sk : List Byte) : List Byte := edEncode (edMul 256 (edSecret (sha512 sk)) edBase)

/-- Ed25519 signature of a message (RFC 8032, 5.1.6). -/
def edSign (sk msg : List Byte) : List Byte :=
  let h := sha512 sk
  let a := edSecret h
  let pk := edEncode (edMul 256 a edBase)
  let r := leNat (sha512 (h.drop 32 ++ msg)) % edL
  let rb := edEncode (edMul 256 r edBase)
  let k := leNat (sha512 (rb ++ pk ++ msg)) % edL
  rb ++ leBytes 32 ((r + k * a) % edL)

end Sys2Proof.Machine
end

