-- ==== Sys2Proof/Config.lean ====
section
/-!
DEFINITION. Config.lean: what is fixed for one module and the spec leaves to it, and the values the spec leaves open. The
constants below without a body are FREE: nothing can be proved about their value. notes/assumptions/2.md and 3.md.
-/

namespace Sys2Proof.Config

/-- The free value number `n`: a value the spec leaves undefined or does not state. -/
opaque freeValue : Nat → BitVec 64

/-- The cost in clocks that the yard firmware declares for a stage work item of class `cls` (Stage work and overruns); the
spec gives costs only for recasts and profile commands. -/
opaque workCost (cls : Nat) : Nat

/-- The impedance entry of a nominal level trim table, and whether an entry lies in the trim range (R307); the spec gives the
entry no unit. -/
opaque nominalImpedance : Nat
opaque impedanceInRange (entry : Nat) : Bool

/-- The nodes that the final repair search of a site visits, by the cells that it has to cover (R183); the spec does not say how
the search branches. -/
opaque searchNodes (cells : List (Nat × Nat × Nat)) : Nat

/-- The device identity private key, 32 bytes (R389). -/
opaque identityKey : List Byte

/-- The two certificates that IDENTITY_READ writes, in DER form (R389). -/
opaque deviceCertificate : List Byte
opaque authorityCertificate : List Byte

/-- The Kyorex release public keys 0 to 3 held in ROM (R408). -/
opaque releaseKey : Nat → List Byte

/-- The image in firmware slot A as the module is delivered: header and body. -/
opaque factoryHeader : List Byte
opaque factoryBody : List Byte

end Sys2Proof.Config
end

