-- ==== Sys2Proof/Machine/State.lean ====
section
/-!
DEFINITION. Machine/State.lean: the state of the module as plain data, what can stop it, and its state after reset.
-/

namespace Sys2Proof.Machine

/-- What the machine's own rules stop on. -/
inductive Fault where
  /-- CXL_MEM_READ and CXL_MEM_WRITE raise it for a device address at or above 64 GiB, which no HDM decoder of the module maps
  (Table 12.1). Safe: nothing is claimed of such an access. -/
  | outsideDeviceMemory (dpa : Nat)
  deriving DecidableEq, Repr

/-- What the model refuses. -/
inductive Refusal where
  /-- A command whose meaning is not written yet; exec alone raises it. Safe: nothing is claimed of it. -/
  | notModelled (mnemonic : String)
  deriving DecidableEq, Repr

/-- What the last read returned: its value and whether it came poisoned (R333). -/
structure ReadPort where
  data : Nat
  block : List Byte
  poison : Bool
  deriving DecidableEq, Repr

/-- The state of the module.

`regs` are the registers in force, by BAR0 offset; `shadow` the shadow of each shadowed register that holds a value not in
force, of the stage under way or held; `shadowNext` the writes of the commit cut, which belong to the next stage (R17).
`latch` are the latched registers of read groups (R448), `staged` the staged higher registers of immediate groups (R449).
`fresh` are the event bits and counts that arose in the present clock (R445, R447), `claimed` the bits of shadows that a profile
command wrote in it (R21). `refused` are the control registers whose
pulse was refused since the last tick, with the code (R344). `mem` is device memory. `opens` numbers the next free value. -/
structure State where
  pending : List Instr
  regs : Tab Word
  shadow : Tab (Option Word)
  shadowNext : Tab (Option Word)
  latch : Tab (Option Word)
  staged : Tab (Option Word)
  fresh : Tab Word
  claimed : Tab Word
  refused : List (Nat × Nat)
  read : ReadPort
  time : Time
  hold : Hold
  sched : Sched
  host : HostIf
  results : Tab ResQueue
  mem : Tab Byte
  cast : CastState
  tiles : Tab Tile
  ctxs : Tab Ctx
  sites : Tab Site
  chans : Tab Chan
  wfss : Tab Wfs
  awgs : Tab Awg
  acqs : Tab Acq
  tdcs : Tab Tdc
  slices : Tab Slice
  adcs : Tab Adc
  mons : Tab Monitor
  trips : Trips
  cal : Cal
  nv : NvMem
  loads : List LoadJob
  fw : Option FwJob
  start : Start
  way : Waybills
  chks : Tab ChkUnit
  therm : Thermal
  cvy : Convoy
  tap : Tap
  touch : Bool
  yardDown : Bool
  opens : Nat
  deriving DecidableEq, Repr

/-- The module right after reset (R427, R451): every register at its reset value, host memory and device memory with nothing
written, no casting, no owner, and firmware slot A ACTIVE with the image as delivered. The module serial number has no stated
value. notes/assumptions/5.md. -/
def State.reset : State :=
  { pending := [], regs := [(SYS_SERIAL, 1#16), (CVY_MASTER, 1#16)], shadow := [], shadowNext := [], latch := [], staged := []
    fresh := [], claimed := [], refused := [], read := ⟨0, [], false⟩
    time := ⟨0, 0, 0, 0, 0, false⟩, hold := ⟨false, 0, 0⟩, sched := ⟨[], [], [], 2688, [], 0, 0⟩
    host :=
      { inflight := [], running := [], waiting := [], profiles := [], tolled := [], afterLoss := false
        unsignalled := 0, firstUp := 0, irq0 := 0, irq1 := 0, irq2 := 0, mem := [] }
    results := [], mem := [], cast := ⟨none, List.replicate 64 0#8, none, none⟩
    tiles := [], ctxs := [], sites := [], chans := [], wfss := [], awgs := [], acqs := [], tdcs := [], slices := [], adcs := []
    mons := [], trips := ⟨[], [], [], [], []⟩, cal := Cal.init
    nv :=
      { owner := none, ownerCount := 0, requireSigned := false, ownerLock := false, castKey := none, tolls := []
        fwA := ⟨4, Config.factoryHeader, Config.factoryBody, true⟩, fwB := ⟨0, [], [], false⟩, runningB := false
        floor := 0, revoked := 0, stacksOut := 0, hardTrip := false, calRecord := none, castings := []
        settings := ⟨leAt Config.factoryHeader 0x14 2, true⟩, oldSettings := none, txns := [] }
    loads := [], fw := none, start := ⟨0, 0, none, false, false⟩, way := ⟨[], [], []⟩, chks := []
    therm := ⟨[], 0, false, 0, false⟩
    cvy :=
      { east := Port.init, west := Port.init, hellos := [], same := 0, members := [], pairs := []
        nextSeq := 0, sent := [], places := [], step := none, reseat := none, triggers := [], arrivals := [], counts := [], upstream := none
        forming := none, electing := none }
    tap := ⟨.none, false, 0, [], [], []⟩, touch := false, yardDown := false, opens := 0 }

end Sys2Proof.Machine
end

