-- ==== Sys2Proof/Machine/Ops.lean ====
section
/-!
DEFINITION. Machine/Ops.lean: the operations that every meaning is built from: sparse tables, registers and their shadows,
event bits and counters, time and due instants, device memory, the run log, completions, stage work and result queues.
-/

namespace Sys2Proof.Machine

/-! Sparse tables. -/

/-- The listed value of key `k`. -/
def tabLookup {α : Type} : Tab α → Nat → Option α
  | [], _ => none
  | (a, v) :: t, k => if k = a then some v else tabLookup t k

/-- The table without key `k`. -/
def tabErase {α : Type} : Tab α → Nat → Tab α
  | [], _ => []
  | (a, v) :: t, k => if k = a then tabErase t k else (a, v) :: tabErase t k

/-- An entry put before the first larger key. -/
def tabInsert {α : Type} : Tab α → Nat → α → Tab α
  | [], k, v => [(k, v)]
  | (a, w) :: t, k, v => if k < a then (k, v) :: (a, w) :: t else (a, w) :: tabInsert t k v

/-- The value of key `k`; an unlisted key reads `d k`. -/
def tabGet {α : Type} (d : Nat → α) (m : Tab α) (k : Nat) : α := (tabLookup m k).getD (d k)

/-- The table with `v` at key `k`, in the canonical form: a value that an unlisted key reads as is not listed. -/
def tabSet {α : Type} [DecidableEq α] (d : Nat → α) (m : Tab α) (k : Nat) (v : α) : Tab α :=
  if v = d k then tabErase m k else tabInsert (tabErase m k) k v

/-- The canonical form: keys strictly rise and no entry equals what an unlisted key reads as. -/
def tabWf {α : Type} [DecidableEq α] (d : Nat → α) : Tab α → Bool
  | [] => true
  | (a, v) :: t => v ≠ d a && t.all (fun e => a < e.1) && tabWf d t

/-- Updates the entry of key `k` in a table whose unlisted keys read `z`. -/
def tabMod {α : Type} [DecidableEq α] (z : α) (m : Tab α) (k : Nat) (f : α → α) : Tab α :=
  tabSet (fun _ => z) m k (f (tabGet (fun _ => z) m k))

/-! Registers (R440 to R451). -/

/-- The value of a register in force (R19). -/
def State.rd (s : State) (a : Nat) : Word := tabGet resetOf s.regs a
/-- The same as a number. -/
def State.rdN (s : State) (a : Nat) : Nat := (s.rd a).toNat
/-- A register in force takes a value. -/
def State.wr (s : State) (a : Nat) (w : Word) : State := { s with regs := tabSet resetOf s.regs a w }
/-- The same from a number. -/
def State.wrN (s : State) (a v : Nat) : State := s.wr a (BitVec.ofNat 16 v)
/-- Field [hi:lo] of a register in force. -/
def State.fld (s : State) (a hi lo : Nat) : Nat := bitsOf (s.rd a) hi lo
/-- Bit `b` of a register in force. -/
def State.bit (s : State) (a b : Nat) : Bool := (s.rd a).getLsbD b
/-- A field of a register in force takes a value. -/
def State.setFld (s : State) (a hi lo v : Nat) : State := s.wr a (withBits (s.rd a) hi lo v)
/-- One bit of a register in force takes a value. -/
def State.setBit (s : State) (a b : Nat) (v : Bool) : State := s.setFld a b b v.toNat
/-- The value that `n` registers from `a` hold together, bits [15:0] first. -/
def State.wide (s : State) (a : Nat) : Nat → Nat
  | 0 => 0
  | n + 1 => s.rdN a + 65536 * s.wide (a + 2) n
/-- `n` registers from `a` take a value, bits [15:0] first. -/
def State.setWide (s : State) (a : Nat) : Nat → Nat → State
  | 0, _ => s
  | n + 1, v => (s.wrN a v).setWide (a + 2) n (v / 65536)
/-- Consecutive registers take a list of words. -/
def State.setWords (s : State) (a : Nat) : List Nat → State
  | [] => s
  | v :: vs => (s.wrN a v).setWords (a + 2) vs

/-- The shadow of a register: the value last written to it that is not yet in force, or else the value in force (R450). -/
def State.shadowOf (s : State) (a : Nat) : Word :=
  match tabGet (fun _ => none) s.shadowNext a with
  | some w => w
  | none => (tabGet (fun _ => none) s.shadow a).getD (s.rd a)

/-- The bits of a register that have access type `t`; none at a reserved offset. -/
def maskAt (t : Access) (a : Nat) : Word :=
  match regAt a with
  | some (r, _) => accMask t r
  | none => 0

/-- SYS_STAT.PENDING: some shadow differs from the value in force (R450). -/
def State.anyPending (s : State) : Bool :=
  (s.shadow ++ s.shadowNext).any fun e => match e.2 with
    | some w => ((w ^^^ s.rd e.1) &&& ~~~maskAt .ro e.1) ≠ 0
    | none => false

/-- Bits of a shadow layer take a value, where the layer holds the register. -/
def layerBits (m : Tab (Option Word)) (a : Nat) (mask v : Word) : Tab (Option Word) :=
  match tabGet (fun _ => none) m a with
  | some w => tabSet (fun _ => none) m a (some ((w &&& ~~~mask) ||| (v &&& mask)))
  | none => m

/-- Masked bits of a register take a value at once, in force and in shadow. -/
def State.forceBits (s : State) (a : Nat) (mask v : Word) : State :=
  { s.wr a ((s.rd a &&& ~~~mask) ||| (v &&& mask)) with
    shadow := layerBits s.shadow a mask v
    shadowNext := layerBits s.shadowNext a mask v }

/-- A register takes a value at once, in force and in shadow. -/
def State.force (s : State) (a : Nat) (w : Word) : State := s.forceBits a 0xFFFF#16 w

/-! Time (R15 to R17, R27 to R31). -/

/-- 2^48, the number of clocks after which the clock count wraps. -/
def clockSpan : Nat := 2 ^ 48

/-- Clocks from the present clock to the next tick: the next multiple of 3,072 or the wrap (R15). -/
def State.toTick (s : State) : Nat :=
  let c := s.time.clock.toNat
  min (3072 - c % 3072) (clockSpan - c)

/-- The length of the stage under way, in clocks. -/
def State.stageLen (s : State) : Nat :=
  let b := s.time.began.toNat
  min (3072 - b % 3072) (clockSpan - b)

/-- The present clock lies in the commit cut (R17); a stage shorter than 16 clocks is all cut (R365). -/
def State.inCut (s : State) : Bool := s.toTick ≤ 16

/-- Convoy time of the present clock, with fraction 0 (R27, R28). -/
def State.convoyTime (s : State) : Nat := s.time.clock.toNat * 65536

/-- Convoy time of a clock `u` counted in `up`, which may lie before or after the present one. -/
def State.timeOf (s : State) (u : Nat) : Nat :=
  ((s.time.clock.toNat + clockSpan + u - s.time.up % clockSpan) % clockSpan) * 65536

/-- Convoy time at the tick that began the stage. -/
def State.tickTime (s : State) : Nat := s.time.began.toNat * 65536

/-- `n` clocks pass inside the stage; the events of the clock left behind are no longer fresh, and the frames that departed in
it have gone. -/
def State.advance (s : State) (n : Nat) : State :=
  if n = 0 then s else
  { s with fresh := [], claimed := [], cvy := { s.cvy with sent := [], places := [] }, time := { s.time with clock := s.time.clock + BitVec.ofNat 48 n, up := s.time.up + n } }

/-- What is due at clock `d` comes about: at once if that clock has come, at that clock if it lies before the next tick, and
not yet otherwise. notes/assumptions/7.md. -/
def State.atDue (s : State) (d : Nat) (f : State → State) : State :=
  if d ≤ s.time.up then f s
  else if d - s.time.up < s.toTick then f (s.advance (d - s.time.up))
  else s

/-! Event bits and counters (R444 to R447). -/

/-- An event sets its W1C bit; a rising bit signals MSI-X vector 1 (R340). -/
def State.evt (s : State) (a b : Nat) : State :=
  let m : Word := BitVec.ofNat 16 (2 ^ b)
  let rose := !s.bit a b
  let s1 := s.wr a (s.rd a ||| m)
  { s1 with
    fresh := tabSet (fun _ => 0) s.fresh a (tabGet (fun _ => 0) s.fresh a ||| m)
    host := if rose then { s.host with irq1 := s.host.irq1 + 1 } else s.host }

/-- A counter counts `n`, saturating at 0xFFFF (R447). -/
def State.incBy (s : State) (a n : Nat) : State :=
  let s1 := s.wrN a (min 0xFFFF (s.rdN a + n))
  { s1 with fresh := tabSet (fun _ => 0) s.fresh a (BitVec.ofNat 16 (min 0xFFFF ((tabGet (fun _ => 0) s.fresh a).toNat + n))) }

/-- A counter counts one. -/
def State.inc (s : State) (a : Nat) : State := s.incBy a 1

/-- A value over two registers counts `n`, saturating at 0xFFFF_FFFF. -/
def State.addWide (s : State) (a n : Nat) : State := s.setWide a 2 (min 0xFFFFFFFF (s.wide a 2 + n))

/-- MSI-X vector 2 is signalled (R340). -/
def State.irqUrgent (s : State) : State := { s with host := { s.host with irq2 := s.host.irq2 + 1 } }

/-- The pulse of control register `a` was refused with a code (R344). -/
def State.refuse (s : State) (a code : Nat) : State := { s with refused := s.refused ++ [(a, code)] }

/-- A fresh free value of the spec's, with the state that has used it up. notes/assumptions/3.md. -/
def State.free (s : State) : Nat × State := ((Config.freeValue s.opens).toNat, { s with opens := s.opens + 1 })

/-! Device memory (Table 12.2). A byte that nothing has written reads 0. notes/assumptions/6.md. -/

/-- One byte of device memory. -/
def State.memByte (s : State) (a : Nat) : Byte := tabGet (fun _ => 0#8) s.mem a
/-- `n` bytes of device memory from `a`. -/
def State.memRead (s : State) (a : Nat) : Nat → List Byte
  | 0 => []
  | n + 1 => s.memByte a :: s.memRead (a + 1) n
/-- Bytes stored from `a`. -/
def memStore (m : Tab Byte) (a : Nat) : List Byte → Tab Byte
  | [] => m
  | b :: bs => memStore (tabSet (fun _ => 0#8) m a b) (a + 1) bs
/-- Device memory takes bytes from `a`. -/
def State.memWrite (s : State) (a : Nat) (l : List Byte) : State := { s with mem := memStore s.mem a l }
/-- The module writes bytes to host memory from host address `a`. -/
def hostStore (m : Tab (Option Byte)) (a : Nat) : List Byte → Tab (Option Byte)
  | [] => m
  | b :: bs => hostStore (tabSet (fun _ => none) m a (some b)) (a + 1) bs
/-- Host memory takes bytes from the module. -/
def State.hostWrite (s : State) (a : Nat) (l : List Byte) : State :=
  { s with host := { s.host with mem := hostStore s.host.mem a l } }

/-! Sorting, stable and by structural recursion. -/

def insertBy {α : Type} (le : α → α → Bool) (x : α) : List α → List α
  | [] => [x]
  | y :: ys => if le x y then x :: y :: ys else y :: insertBy le x ys

/-- A list in ascending order of `le`; elements that compare equal keep their order. -/
def sortBy {α : Type} (le : α → α → Bool) : List α → List α
  | [] => []
  | x :: xs => insertBy le x (sortBy le xs)

/-! The run log (R346). -/

/-- Bytes of a payload, padded with zeros to `n`. -/
def padTo (n : Nat) (l : List Byte) : List Byte := (l ++ List.replicate (n - l.length) 0#8).take n

/-- One run-log entry of 64 bytes: type, flags, the entry's write count, time and payload. A full ring overwrites its oldest
entry, which HST_LOG_LOST counts. -/
def State.logEntry (s : State) (type flags time : Nat) (payload : List Byte) : State :=
  let wc := s.wide HST_LOG_WR 2
  let ring := 1048576
  let e := leBytes 2 type ++ leBytes 2 flags ++ leBytes 4 wc ++ leBytes 8 time ++ padTo 48 payload
  let full := (wc + 2 ^ 32 - s.wide HST_LOG_RD 2) % 2 ^ 32 ≥ ring
  let s1 := (s.memWrite (s.wide HST_LOG_BASE 3 + 64 * (wc % ring)) e).setWide HST_LOG_WR 2 (wc + 1)
  if full then (s1.inc HST_LOG_LOST).evt HST_EVT 3 else s1

/-- Bytes of the run-log entry with write count `wc` are replaced, from place `o` of the entry. -/
def State.patchLog (s : State) (wc o : Nat) (bytes : List Byte) : State :=
  s.memWrite (s.wide HST_LOG_BASE 3 + 64 * (wc % 1048576) + o) bytes

/-- A run-log entry without a site list. -/
def State.log (s : State) (type time : Nat) (payload : List Byte) : State := s.logEntry type 0 time payload

/-- A site list as a 512-bit bitmap of 64 bytes (R346). -/
def siteBitmap (sites : List Nat) : List Byte := leBytes 64 ((List.range 512).foldl (fun n k => if sites.contains k then n + 2 ^ k else n) 0)

/-- A run-log entry with a site list: two entries written together (R346). -/
def State.logSites (s : State) (type time : Nat) (fixed : List Byte) (sites : List Nat) : State :=
  let b := siteBitmap sites
  (s.logEntry type 1 time (padTo 24 fixed ++ b.take 24)).logEntry type 2 time (b.drop 24)

/-! Completions (R336 to R338). -/

/-- A command completes with a code: its completion waits to be written. -/
def State.complete (s : State) (tag opcode code d0 d1 d2 : Nat) : State :=
  let c : Cpl := ⟨1, 0, tag, opcode, code, d0, d1, d2, s.convoyTime, true⟩
  { s with host := { s.host with waiting := s.host.waiting ++ [c], running := s.host.running.erase tag } }

/-! The parts of the state that are kept as sparse tables. -/

/-- A sequencer context (R42). A context that nothing has used is empty. -/
def Ctx.init : Ctx :=
  { home := 0, straggler := false, lineage := [], sites := [], tails := [], delay := 0, program := 0, start := 0, paths := [], vecs := []
    forks := [], nextFork := 0, expect := none, crossed := 0, lastIndex := 0, lastTset := 0, phases := [], present := [], instrs := []
    rows := [], fetched := [], caches := [], await := [], results := [], outcomes := [], stall := none, resume := false, code := none, kill := none, waits := [], rejoins := [], passed := none, rdv := none, sound := none, tables := ⟨[], [], []⟩ }

def State.wfs (s : State) (u : Nat) : Wfs := tabGet (fun _ => Wfs.init) s.wfss u
def State.setWfs (s : State) (u : Nat) (x : Wfs) : State := { s with wfss := tabSet (fun _ => Wfs.init) s.wfss u x }
def State.awg (s : State) (u : Nat) : Awg := tabGet (fun _ => Awg.init) s.awgs u
def State.setAwg (s : State) (u : Nat) (x : Awg) : State := { s with awgs := tabSet (fun _ => Awg.init) s.awgs u x }
def State.acq (s : State) (u : Nat) : Acq := tabGet (fun _ => Acq.init) s.acqs u
def State.setAcq (s : State) (u : Nat) (x : Acq) : State := { s with acqs := tabSet (fun _ => Acq.init) s.acqs u x }
def State.tdc (s : State) (ch : Nat) : Tdc := tabGet (fun _ => Tdc.init) s.tdcs ch
def State.setTdc (s : State) (ch : Nat) (x : Tdc) : State := { s with tdcs := tabSet (fun _ => Tdc.init) s.tdcs ch x }
def State.slice (s : State) (i : Nat) : Slice := tabGet (fun _ => Slice.init) s.slices i
def State.setSlice (s : State) (i : Nat) (x : Slice) : State := { s with slices := tabSet (fun _ => Slice.init) s.slices i x }
def State.adc (s : State) (k : Nat) : Adc := tabGet (fun _ => Adc.init) s.adcs k
def State.setAdc (s : State) (k : Nat) (x : Adc) : State := { s with adcs := tabSet (fun _ => Adc.init) s.adcs k x }
def State.mon (s : State) (b : Nat) : Monitor := tabGet (fun _ => Monitor.init) s.mons b
def State.setMon (s : State) (b : Nat) (x : Monitor) : State := { s with mons := tabSet (fun _ => Monitor.init) s.mons b x }
def State.ctx (s : State) (c : Nat) : Ctx := tabGet (fun _ => Ctx.init) s.ctxs c
def State.setCtx (s : State) (c : Nat) (x : Ctx) : State := { s with ctxs := tabSet (fun _ => Ctx.init) s.ctxs c x }
def State.site (s : State) (n : Nat) : Site := tabGet (fun _ => Site.init) s.sites n
def State.setSite (s : State) (n : Nat) (x : Site) : State := { s with sites := tabSet (fun _ => Site.init) s.sites n x }
def State.chan (s : State) (ch : Nat) : Chan := tabGet (fun _ => Chan.init) s.chans ch
def State.setChan (s : State) (ch : Nat) (x : Chan) : State := { s with chans := tabSet (fun _ => Chan.init) s.chans ch x }
def State.tile (s : State) (k : Nat) : Tile := tabGet (fun _ => Tile.init) s.tiles k
def State.setTile (s : State) (k : Nat) (x : Tile) : State := { s with tiles := tabSet (fun _ => Tile.init) s.tiles k x }
def State.chk (s : State) (u : Nat) : ChkUnit := tabGet (fun _ => ChkUnit.init) s.chks u
def State.setChk (s : State) (u : Nat) (x : ChkUnit) : State := { s with chks := tabSet (fun _ => ChkUnit.init) s.chks u x }
def State.toll (s : State) (k : Nat) : TollSlot := tabGet (fun _ => TollSlot.init) s.nv.tolls k
def State.setToll (s : State) (k : Nat) (x : TollSlot) : State :=
  { s with nv := { s.nv with tolls := tabSet (fun _ => TollSlot.init) s.nv.tolls k x } }
def State.sensor (s : State) (k : Nat) : Sensor := tabGet (fun _ => Sensor.init) s.therm.sensors k
def State.setSensor (s : State) (k : Nat) (x : Sensor) : State :=
  { s with therm := { s.therm with sensors := tabSet (fun _ => Sensor.init) s.therm.sensors k x } }

/-! Stage work (R24 to R26, R469). -/

/-- The cost of an item whose cost the yard firmware declares; no item costs more than 2,304 clocks (R26). -/
def yardCost (cls : Nat) : Nat := Config.workCost cls % 2305

/-- An item is admitted: it starts in the later of this clock and the clock after the previous item acts, and acts when its
cost has elapsed (R469). -/
def admitWork (q : Sched) (up : Nat) (w : WorkItem) : Sched :=
  let act := max up q.idleFrom + w.cost
  { q with running := q.running ++ [(w, act)], budget := q.budget - w.cost, idleFrom := act + 1 }

/-- The first five of a copy's tables. -/
def fiveTables (l : List (Tab Nat)) : List (Tab Nat) := (l ++ List.replicate 5 []).take 5

/-- The swap of table `t` of caravan `c` is admitted: the table as it now stands, which was checked, is the one that goes in (R91). -/
def State.tableReady (s : State) (c t : Nat) : State :=
  let x := (s.ctx c).tables
  s.setCtx c { s.ctx c with tables := { x with ready := (fiveTables x.ready).set t ((fiveTables x.shadow).getD t []) } }

/-- What an admission shows: the pending bit of a swap or of a schedule clears (R91, R265, R285, R307). -/
def State.admitNote (s : State) : WorkKind → State
  | .schedule b => s.setBit (MON_STAT b) 12 false
  | .tdcSwap ch => s.setBit (TDC_TSTAT ch) 13 false
  | .lvlSwap ch => s.setBit (LVL_TSTAT ch) 15 false
  | .seqSwap c t => (s.setBit (SEQ_TSTAT c) t false).tableReady c t
  | _ => s

/-- An item is admitted in the present clock. -/
def State.admitItem (s : State) (w : WorkItem) : State :=
  ({ s with sched := admitWork s.sched s.time.up w }).admitNote w.kind

/-- An item is deferred whole: SYS_STAGE_OVR counts it and the run log records it (R26). -/
def State.deferItem (s : State) (w : WorkItem) : State :=
  let w1 := { w with deferrals := w.deferrals + 1, firstDefer := if w.deferrals = 0 then s.sched.seq else w.firstDefer }
  let s1 := { s with sched := { s.sched with
    waiting := s.sched.waiting ++ [w1], deferred := w.cls :: s.sched.deferred, seq := s.sched.seq + 1 } }
  ((s1.inc SYS_STAGE_OVR).evt SYS_EVT 3).log 0x0001 s.tickTime
    (leBytes 4 s.time.stage.toNat ++ leBytes 2 w.cls ++ leBytes 2 w.origin ++ leBytes 4 w.cost ++ leBytes 4 w1.deferrals)

/-- A new stage work item arrives during a stage and is considered on arrival (R469). While the yard restarts, only class 0 items
are admitted, and the others wait (R323). -/
def State.arrive (s : State) (cls origin cost : Nat) (kind : WorkKind) : State :=
  let w : WorkItem := ⟨cls, origin, cost, kind, 0, s.sched.seq, 0⟩
  let s1 := { s with sched := { s.sched with seq := s.sched.seq + 1 } }
  if s.inCut || (s.yardDown && cls != 0) then { s1 with sched := { s1.sched with waiting := s1.sched.waiting ++ [w] } }
  else
    let act := max s.time.up s.sched.idleFrom + cost
    if cls = 0 ∨ (cost ≤ s.sched.budget ∧ act < s.time.up + s.toTick - 16 ∧ ¬ s.sched.deferred.contains cls) then
      s1.admitItem w
    else s1.deferItem w

/-! Result queues (R191, R238, R260, R281, R386). -/

/-- The result queue whose status register is at `a`. -/
def State.queue (s : State) (a : Nat) : ResQueue := tabGet (fun _ => ResQueue.init) s.results a
def State.setQueue (s : State) (a : Nat) (q : ResQueue) : State :=
  { s with results := tabSet (fun _ => ResQueue.init) s.results a q }

/-- A read of the status register latches the oldest result into it and into the result registers `regs`. `live` are status
bits that every latch shows (a count of queued results). An empty queue shows READY 0 with the result last advanced. -/
def State.latchResult (s : State) (a : Nat) (regs : List Nat) (live : Nat) : State :=
  let q := s.queue a
  match q.items with
  | [] => (regs.zip (q.last.2 ++ List.replicate regs.length 0)).foldl (fun t e => t.wrN e.1 e.2) (s.wrN a (q.last.1 ||| live))
  | it :: _ =>
    let st := 0x8000 ||| (if q.seen then 0x4000 else 0) ||| it.1 ||| live
    (regs.zip it.2).foldl (fun t e => t.wrN e.1 e.2) ((s.setQueue a { q with seen := true }).wrN a st)

/-- A result joins the queue with the next sequence number, which is the first of its words; `st` are its status bits. -/
def State.pushResult (s : State) (a st : Nat) (words : List Nat) : State :=
  let q := s.queue a
  s.setQueue a { q with items := q.items ++ [(st, q.seq :: words)], seq := (q.seq + 1) % 65536, gap := false }

/-- A result has been discarded: the next one queued carries GAP. -/
def State.dropResult (s : State) (a : Nat) : State :=
  let q := s.queue a
  s.setQueue a { q with gap := true }

/-- An advance discards the oldest result and makes the next one current; it has no effect on an empty queue. -/
def State.advResult (s : State) (a : Nat) : State :=
  let q := s.queue a
  match q.items with
  | [] => s
  | it :: rest => s.setQueue a { q with items := rest, last := it, seen := false }

/-! Small helpers. -/

/-- `n` free values of 16 bits. -/
def State.free16 (s : State) (n : Nat) : List Nat × State :=
  ((List.range n).map fun i => (Config.freeValue (s.opens + i)).toNat % 65536, { s with opens := s.opens + n })

/-- The same step for each of a list of numbers, in order. -/
def State.each (s : State) (l : List Nat) (f : State → Nat → State) : State := l.foldl f s

/-- The step only where a condition holds. -/
def State.when (s : State) (b : Bool) (f : State → State) : State := if b then f s else s

/-- A write to a block other than SYS and HST has an effect only while READY is 1 (R347). -/
def State.whenReady (s : State) (f : State → State) : State := if s.bit SYS_STAT 15 then f s else s

/-- A read of such a block returns 0 before READY. -/
def State.readReady (s : State) (f : State → State) : State := if s.bit SYS_STAT 15 then f s else { s with read := ⟨0, [], false⟩ }

end Sys2Proof.Machine
end

