-- ==== Sys2Proof/Machine/CastCheck.lean ====
section
/-!
DEFINITION. Machine/CastCheck.lean: reading a casting file and judging its legality: the header, the structural pass and the
cross-reference pass of R55, with the codes of Table 2.13. notes/assumptions/12.md.
-/

namespace Sys2Proof.Machine

/-- The byte at place `o`, as a number. -/
def byteAt (l : List Byte) (o : Nat) : Nat := leAt l o 1

/-- All bytes of a string are zero. -/
def allZero (l : List Byte) : Bool := l.all (· == 0#8)

/-- The first place at which a list meets a test, counted from `i`. -/
def firstIdx {α : Type} (p : Nat → α → Bool) : Nat → List α → Option Nat
  | _, [] => none
  | i, a :: l => if p i a then some i else firstIdx p (i + 1) l

/-- The first record whose key an earlier record holds. -/
def firstDup {α : Type} (key : α → Nat) (l : List α) : Option Nat :=
  firstIdx (fun i a => (l.take i).any fun b => key b == key a) 0 l

/-! Records. -/

/-- The records of a section. -/
def chunks (size : Nat) : Nat → List Byte → List (List Byte)
  | 0, _ => []
  | n + 1, l => l.take size :: chunks size n (l.drop size)

/-- Record size of a section type (Table 2.3); 0 for an unknown type. -/
def recordSize (t : Nat) : Nat := [0, 16, 16, 8, 12, 12, 8, 4, 16, 4, 4, 4, 8].getD t 0

def tileOf (r : List Byte) : TileRec := ⟨byteAt r 0, byteAt r 1, leAt r 4 4, leAt r 8 8⟩
def storeOf (r : List Byte) : StoreRec := ⟨byteAt r 0, byteAt r 1, byteAt r 2, leAt r 4 4, leAt r 8 4⟩
def caravanOf (r : List Byte) : CaravanRec := ⟨byteAt r 0, byteAt r 1, leAt r 2 2, byteAt r 4, byteAt r 5, leAt r 6 2⟩
def siteOf (r : List Byte) : SiteRec := ⟨leAt r 0 2, byteAt r 2, byteAt r 3, leAt r 4 2, leAt r 6 2, leAt r 8 2 % 2 == 1⟩
def pinOf (r : List Byte) : PinRec :=
  let o := leAt r 2 2
  let common := o ≥ 0x8000
  ⟨leAt r 0 2, common, if common then o % 64 else o % 512, byteAt r 4, byteAt r 5 % 16, byteAt r 6, leAt r 8 2⟩
def routeOf (r : List Byte) : RouteRec := ⟨byteAt r 0, byteAt r 1, leAt r 2 2, byteAt r 4⟩
def lcOf (r : List Byte) : LcRec := ⟨byteAt r 0, byteAt r 1, leAt r 2 2⟩
def repairOf (r : List Byte) : RepairRec :=
  ⟨byteAt r 0, byteAt r 1, byteAt r 2, byteAt r 3, byteAt r 4, byteAt r 5, leAt r 8 2, leAt r 10 2⟩
def tripOf (r : List Byte) : TripRec := ⟨leAt r 0 2, byteAt r 2, byteAt r 3 % 2 == 1⟩
def powerOf (r : List Byte) : PowerRec := ⟨byteAt r 0, byteAt r 1, leAt r 2 2 ≥ 0x8000, leAt r 2 2 % 512⟩
def budgetOf (r : List Byte) : BudgetRec := ⟨leAt r 0 2, leAt r 2 2⟩
def soundOf (r : List Byte) : SoundRec := ⟨byteAt r 0, byteAt r 1, leAt r 2 2, leAt r 4 2, byteAt r 6, byteAt r 7⟩

/-- A record of type `t` holds a nonzero reserved bit or field (R4, R472). -/
def recordReserved (t : Nat) (r : List Byte) : Bool :=
  match t with
  | 1 => leAt r 2 2 ≠ 0
  | 2 => byteAt r 2 ≥ 16 || byteAt r 3 ≠ 0 || leAt r 12 4 ≠ 0
  | 4 => leAt r 8 2 ≥ 2 || leAt r 10 2 ≠ 0
  | 5 =>
    let o := leAt r 2 2
    (if o ≥ 0x8000 then o % 0x8000 ≥ 64 else o ≥ 512) || byteAt r 5 ≥ 16 || byteAt r 7 ≠ 0 || leAt r 10 2 ≠ 0
  | 6 => leAt r 5 3 ≠ 0
  | 8 => leAt r 6 2 ≠ 0 || leAt r 12 4 ≠ 0
  | 9 => byteAt r 3 ≥ 2
  | 10 => leAt r 2 2 % 0x8000 ≥ 512
  | _ => false

/-! The header (Table 2.1). -/

/-- PARTIAL and SIGNED of a header. -/
def hdrPartial (f : List Byte) : Bool := (leAt f 0x0C 4).testBit 1
def hdrSigned (f : List Byte) : Bool := (leAt f 0x0C 4).testBit 0
def hdrBodyLen (f : List Byte) : Nat := leAt f 0x10 4
/-- The body of a casting file. -/
def castBody (f : List Byte) : List Byte := slice f 256 (hdrBodyLen f)

/-- What the header checks need of the module: whether the command is CAST_RECAST, the length available, the digest of the
tiles present, the owner's requirement and casting key. -/
structure HdrEnv where
  recast : Bool
  len : Nat
  tiles : List Byte
  requireSigned : Bool
  castKey : Option (List Byte)

/-- The header checks from BAD_LENGTH of the command up to TILE_MISMATCH, in ascending code order (R55). -/
def headerCode (e : HdrEnv) (f : List Byte) : Option Nat :=
  let p := hdrPartial f
  let bl := hdrBodyLen f
  if e.len < 256 then some 0x0C05
  else if slice f 0 4 ≠ [0x5A#8, 0x56#8, 0x43#8, 0x53#8] then some 0x0C01
  else if leAt f 4 2 ≠ 2 ∨ leAt f 6 2 > 1 then some 0x0C02
  else if leAt f 8 4 ≠ 0x2048 then some 0x0C03
  else if (crc32c (f.take 0xFC)).toNat ≠ leAt f 0xFC 4 then some 0x0C04
  else if bl % 64 ≠ 0 ∨ bl < 64 ∨ bl > 16776960 ∨ 256 + bl > e.len then some 0x0C05
  else if leAt f 0x0C 4 ≥ 4 ∨ byteAt f 0x17 ≠ 0 ∨ leAt f 0xE8 20 ≠ 0
      ∨ (if p then byteAt f 0x16 > 63 else byteAt f 0x16 ≠ 0 ∨ leAt f 0x20 8 ≠ 0)
      ∨ (hdrSigned f = false ∧ leAt f 0xA8 64 ≠ 0) then some 0x0C06
  else if p ≠ e.recast then some 0x0C07
  else if hdrSigned f = false ∧ e.requireSigned then some 0x0C08
  else if hdrSigned f && (match e.castKey with
      | none => true
      | some k => !edVerify k (f.take 0xA8) (slice f 0xA8 64)) then some 0x0C09
  else if slice f 0x68 64 ≠ e.tiles then some 0x0C0A
  else none

/-- The body digest, checked before anything of the body is parsed. -/
def digestCode (f : List Byte) : Option Nat :=
  if sha512 (castBody f) ≠ slice f 0x28 64 then some 0x0C0B else none

/-! The structural pass (R470). -/

/-- A section as found: its type and records. -/
structure Section where
  type : Nat
  recs : List (List Byte)

/-- The rest of a body from the end of a section's records to the next section: the bytes left after the zero blocks, or the
code that refuses them. `pad` bytes are the section's padding. -/
def skipZero (pad : Nat) (l : List Byte) : Nat → List Byte → Option Nat × List Byte
  | 0, m => (none, m)
  | n + 1, m =>
    match m with
    | [] => (none, [])
    | b :: bs =>
      if b = 0#8 then skipZero pad l n bs
      else
        let at_ := l.length - m.length
        if at_ < pad then (some 0x0C06, m)
        else if (at_ - pad) % 64 ≠ 0 then (some 0x0C12, m) else (none, m)

/-- Walks the sections. `n` bounds the walk, `want` is SECTION_COUNT, `prev` the previous type, `pad` the padding bytes at the
front of `l`. -/
def walk (isPartial : Bool) (want : Nat) : Nat → List Byte → Nat → Nat → List Section → Except CastErr (List Section)
  | 0, _, _, _, acc => .ok acc.reverse
  | n + 1, l, pad, prev, acc =>
    match skipZero pad l (l.length + 1) l with
    | (some c, _) => .error ⟨c, prev, 0⟩
    | (none, []) => if acc.length = want then .ok acc.reverse else .error ⟨0x0C12, prev, 0⟩
    | (none, m) =>
      let t := leAt m 0 2
      let cnt := leAt m 4 4
      let len := leAt m 8 4
      if acc.length ≥ want then .error ⟨0x0C12, t, 0⟩
      else if 16 + len > m.length then .error ⟨0x0C13, t, 0⟩
      else if (crc32c (m.take 12 ++ slice m 16 len)).toNat ≠ leAt m 12 4 then .error ⟨0x0C10, t, 0⟩
      else if t = 0 ∨ t > 12 ∨ leAt m 2 2 ≠ 1 then .error ⟨0x0C11, t, 0⟩
      else if t ≤ prev then .error ⟨0x0C12, t, 0⟩
      else if isPartial ∧ (t = 1 ∨ t = 2 ∨ t = 6 ∨ (t = 3 ∧ cnt ≠ 1)) then .error ⟨0x0C15, t, 0⟩
      else if len ≠ cnt * recordSize t then .error ⟨0x0C13, t, 0⟩
      else
        let recs := chunks (recordSize t) cnt (slice m 16 len)
        match firstIdx (fun _ r => recordReserved t r) 0 recs with
        | some i => .error ⟨0x0C06, t, i⟩
        | none => walk isPartial want n (m.drop (16 + len)) ((64 - (16 + len) % 64) % 64) t (⟨t, recs⟩ :: acc)

/-- The records of a type among the sections. -/
def recsOf (ss : List Section) (t : Nat) : List (List Byte) :=
  ss.flatMap fun x => if x.type = t then x.recs else []

/-- The required sections of Table 2.3 are present. -/
def missingSection (isPartial : Bool) (ss : List Section) : Option Nat :=
  let has := fun t => ss.any fun x => x.type == t
  let req := (if isPartial then [3, 4, 5, 12] else [1, 2, 3, 4, 5, 12]) ++ (if has 10 then [11] else [])
  (req.filter fun t => !has t).min?

/-- Reads a file whose header has passed: its casting, or the structural refusal. -/
def parseCasting (f : List Byte) : Except CastErr Casting :=
  let p := hdrPartial f
  let body := castBody f
  match walk p (leAt f 0x14 2) (body.length / 16 + 2) body 0 0 [] with
  | .error e => .error e
  | .ok ss =>
    match missingSection p ss with
    | some t => .error ⟨0x0C14, t, 0⟩
    | none => .ok
      { isPartial := p, signed := hdrSigned f, target := byteAt f 0x16, id := leAt f 0x18 8, baseId := leAt f 0x20 8
        bodyDigest := slice f 0x28 64, tileDigest := slice f 0x68 64
        tiles := (recsOf ss 1).map tileOf, stores := (recsOf ss 2).map storeOf, caravans := (recsOf ss 3).map caravanOf
        sites := (recsOf ss 4).map siteOf, pins := (recsOf ss 5).map pinOf, routes := (recsOf ss 6).map routeOf
        lcs := (recsOf ss 7).map lcOf, repairs := (recsOf ss 8).map repairOf, trips := (recsOf ss 9).map tripOf
        powers := (recsOf ss 10).map powerOf, budgets := (recsOf ss 11).map budgetOf, sounds := (recsOf ss 12).map soundOf }

/-! Names in a structure. -/

def findSite (k : Casting) (n : Nat) : Option SiteRec := k.sites.find? fun x => x.site == n
def findCaravan (k : Casting) (c : Nat) : Option CaravanRec := k.caravans.find? fun x => x.caravan == c
def findPin (k : Casting) (ch : Nat) : Option PinRec := k.pins.find? fun x => x.channel == ch
def findStore (k : Casting) (p : Nat) : Option StoreRec := k.stores.find? fun x => x.part == p
/-- The caravan that a PIN record serves. -/
def caravanOfPin (k : Casting) (p : PinRec) : Option Nat :=
  if p.common then some p.owner else (findSite k p.owner).map (·.caravan)
/-- The pins of a site, by ascending channel number (R170). -/
def pinsOfSite (k : Casting) (n : Nat) : List PinRec :=
  sortBy (fun a b => a.channel ≤ b.channel) (k.pins.filter fun p => !p.common && p.owner == n)
/-- The sites of a caravan. -/
def sitesOfCaravan (k : Casting) (c : Nat) : List Nat := (k.sites.filter fun x => x.caravan == c).map (·.site)
/-- Every pin that a caravan drives: those of its sites and its common pins (R77). -/
def pinsOfCaravan (k : Casting) (c : Nat) : List PinRec := k.pins.filter fun p => caravanOfPin k p == some c
/-- The sites of a trip group. -/
def sitesOfGroup (k : Casting) (g : Nat) : List Nat := (k.sites.filter fun x => x.group == g).map (·.site)
/-- The quadrant of a digitizer or AWG (R47). -/
def unitQuadrant (u : Nat) : Nat := if u < 16 then u / 4 else u - 16
/-- The contact that a pin meets (R456, R455). -/
def contactOf (p : Nat) : Nat := 128 * (13 * (p / 512) + p % 512 / 64) + 2 * (p % 64) + 1

/-! The cross-reference pass (R57, R471). Each check gives the section and record that fail it. -/

/-- The first record of section `t` that a test refuses. -/
def badRec {α : Type} (t : Nat) (l : List α) (p : Nat → α → Bool) : Option (Nat × Nat) :=
  (firstIdx p 0 l).map fun i => (t, i)

/-- The earlier record of `l` or any of `oth` meets a test with record `i`. -/
def clash {α : Type} (oth l : List α) (r : α → α → Bool) (i : Nat) (a : α) : Bool :=
  oth.any (fun b => r b a) || (l.take i).any (fun b => r b a)

/-- The record at which the sum of `f` over records of the same key passes a limit. -/
def sumPast {α : Type} (oth l : List α) (key : α → Nat) (f : α → Nat) (limit : α → Nat) (i : Nat) (a : α) : Bool :=
  ((oth ++ l.take (i + 1)).filter fun b => key b == key a).foldl (fun n b => n + f b) 0 > limit a

/-- The slices that a site owns, and those that a group owns. -/
def slicesOfSite (k : Casting) (n : Nat) : Nat := (k.powers.filter fun p => !p.byGroup && p.owner == n).length
def slicesOfGroup (k : Casting) (g : Nat) : Nat := (k.powers.filter fun p => p.byGroup && p.owner == g).length

/-- What the checks need of the module: the tiles present with their pad maps, and the stacks cast out. -/
structure XrefEnv where
  maps : List (Nat × List (Nat × Nat))
  stacksOut : Nat

/-- A REPAIR record breaks R50. -/
def geometryBad (r : RepairRec) : Bool :=
  let rows := if r.select = 0 then r.banks / r.regions * 2 ^ r.rowBits else r.banks * 2 ^ r.rowBits / r.regions
  r.stype > 15 || ! [1, 2, 4, 8, 16].contains r.regions || r.banks = 0 || r.banks > 64 || r.select > 1
    || (r.select = 0 && r.banks % r.regions ≠ 0) || r.rowBits < 4 || r.rowBits > 20 || r.colBits < 4 || r.colBits > 16
    || r.spareRows > 1024 || r.spareRows > rows || r.spareCols > 1024 || r.spareCols > 2 ^ r.colBits

/-- A park symbol that R46 does not allow for a role. -/
def parkBad (p : PinRec) : Bool :=
  ! [0, 1, 2, 7].contains p.park || ((p.role = 3 || p.role = 5) && p.park ≠ 2 && p.park ≠ 7) || (p.role = 6 && p.park ≠ 7)

/-- The budgets of the trip group of record `r`'s site pass the group's limit in the structure `all` (R53). -/
def groupOver (all : Casting) (r : BudgetRec) : Bool :=
  let groupOf := fun n => ((findSite all n).map (·.group)).getD 512
  let g := groupOf r.site
  let gs := slicesOfGroup all g
  gs > 0 && ((all.budgets.filter fun b => groupOf b.site == g).map (·.max)).foldl (· + ·) 0
    > 330 * (gs + ((sitesOfGroup all g).map (slicesOfSite all)).foldl (· + ·) 0)

/-- The checks of Table 2.13 from TILE_RECORDS on, in ascending code order. `own` is the casting judged, `oth` what other
caravans keep (nothing for a full casting), `all` the structure that would result. DESIGN CHOICES, notes/assumptions/36.md: a
loopback SOUND record may name one channel twice, and a STRAGGLER_MAX above 63 is accepted, since no code of Table 2.13 refuses it; where
BUDGET_EXCEEDS_SITE holds of budgets that a partial casting keeps and of none of its own, the record named is the first of section 11. -/
def xrefChecks (e : XrefEnv) (own oth all : Casting) : List (Nat × Option (Nat × Nat)) :=
  let full := !own.isPartial
  let mapOf := fun t => (e.maps.find? fun m => m.1 == t).map (·.2)
  let onPins := fun c ch => (findPin all ch).any fun p => caravanOfPin all p == some c
  [ (0x0C20, if !full then none else
      if own.tiles.length ≠ 32 then some (1, min own.tiles.length 32)
      else match badRec 1 own.tiles (fun i t => t.slot ≠ i || t.present > 1 || (t.present = 0 && (t.crc ≠ 0 || t.id ≠ 0))) with
        | some r => some r
        | none =>
          let bytes := own.tiles.flatMap fun t => leBytes 1 t.slot ++ leBytes 1 t.present ++ leBytes 2 0 ++ leBytes 4 t.crc ++ leBytes 8 t.id
          if sha512 bytes ≠ own.tileDigest then some (1, 0) else none),
    (0x0C21, match badRec 2 own.stores (fun _ r => r.part > 63 || (r.kind ≠ 1 && r.kind ≠ 2) || r.stackMask = 0 || r.size = 0
        || r.base + r.size > 6656) with
      | some r => some r
      | none => if full && !own.stores.any (fun r => r.kind == 1) then some (2, 0) else none),
    (0x0C22, badRec 2 own.stores (clash [] own.stores fun b a => b.stackMask &&& a.stackMask ≠ 0 && b.base < a.base + a.size
        && a.base < b.base + b.size)),
    (0x0C23, badRec 2 own.stores (clash [] own.stores fun b a => b.part == a.part)),
    (0x0C24, badRec 2 own.stores (fun _ r => r.stackMask &&& e.stacksOut ≠ 0)),
    (0x0C28, badRec 3 own.caravans (fun i r => r.caravan > 63 || clash [] own.caravans (fun b a => b.caravan == a.caravan) i r)),
    (0x0C29, badRec 3 own.caravans (fun _ r => r.delay ≠ 0 && (r.delay < 256 || r.delay > 2048))),
    (0x0C2A, badRec 3 own.caravans (fun _ r => !((findStore all r.patPart).any fun p => p.kind == 1)
        || !((findStore all r.failPart).any fun p => p.kind == 2))),
    (0x0C2B, badRec 3 own.caravans (fun _ r => r.siteCount = 0 || r.siteCount ≠ (sitesOfCaravan all r.caravan).length)),
    (0x0C30, badRec 4 own.sites (fun i r => r.site > 511 || clash [] own.sites (fun b a => b.site == a.site) i r)),
    (0x0C31, badRec 4 own.sites (fun _ r => (findCaravan all r.caravan).isNone)),
    (0x0C32, badRec 4 own.sites (fun _ r => r.pinCount > 256)),
    (0x0C33, badRec 4 own.sites (fun _ r => r.pinCount = 0 || r.pinCount ≠ (pinsOfSite all r.site).length)),
    (0x0C34, badRec 4 own.sites (fun _ r => r.group > 511)),
    (0x0C38, badRec 5 own.pins (fun _ p => p.channel > 2047)),
    (0x0C39, badRec 5 own.pins (clash [] own.pins fun b a => b.channel == a.channel)),
    (0x0C3A, badRec 5 own.pins (fun _ p => if p.common then (findCaravan all p.owner).isNone else (findSite all p.owner).isNone)),
    (0x0C3B, badRec 5 own.pins (fun _ p => p.role = 0 || p.role > 6 || p.common ≠ (p.role == 4))),
    (0x0C3C, badRec 5 own.pins (fun _ p => parkBad p)),
    (0x0C3D, badRec 5 own.pins (fun _ p => !((mapOf p.tile).any fun m => m.any fun x => x.1 == p.pad))),
    (0x0C3E, badRec 5 own.pins (fun _ p => !((mapOf p.tile).any fun m => m.any fun x => x.1 == p.pad && x.2 == contactOf p.channel))),
    (0x0C3F, badRec 5 own.pins (clash oth.pins own.pins fun b a => b.tile == a.tile && b.pad == a.pad)),
    (0x0C40, badRec 6 own.routes (fun _ r => r.kind > 2 || (if r.kind = 0 then r.unit > 127 || r.slot ≠ 0 else r.unit > 19 || r.slot > 7))),
    (0x0C41, badRec 6 all.routes (fun i r => r.kind = 0 && (r.channel > 2047 || r.channel / 16 ≠ r.unit || (findPin all r.channel).isNone
        || clash [] all.routes (fun b a => b.kind == 0 && b.unit == a.unit) i r))),
    (0x0C42, badRec 6 own.routes (fun _ r => r.kind ≠ 0 && (r.channel > 2047 || r.channel / 512 ≠ unitQuadrant r.unit))),
    (0x0C43, badRec 6 all.routes (fun _ r => r.kind ≠ 0 && !((findPin all r.channel).any fun p => p.role == 5))),
    (0x0C44, badRec 6 own.routes (fun i r => r.kind ≠ 0
        && clash [] own.routes (fun b a => b.kind == a.kind && b.unit == a.unit && b.slot == a.slot) i r)),
    (0x0C48, badRec 7 own.lcs (fun i r => r.size > 128 || sumPast oth.lcs own.lcs (·.cluster) (·.size) (fun _ => 128) i r)),
    (0x0C49, badRec 7 own.lcs (fun i r => r.cluster > 15 || r.size = 0 || (findCaravan all r.caravan).isNone
        || !((pinsOfCaravan all r.caravan).any fun p => p.channel / 128 == r.cluster)
        || clash [] own.lcs (fun b a => b.cluster == a.cluster && b.caravan == a.caravan) i r)),
    (0x0C50, badRec 4 own.sites (fun _ r => r.stype ≠ 255 && !all.repairs.any fun g => g.stype == r.stype)),
    (0x0C51, badRec 8 own.repairs (fun i r => geometryBad r || clash [] own.repairs (fun b a => b.stype == a.stype) i r)),
    (0x0C58, badRec 9 own.trips (fun i r => r.group > 511 || r.action > 2 || clash [] own.trips (fun b a => b.group == a.group) i r)),
    (0x0C60, badRec 10 own.powers (fun i r => clash [] own.powers (fun b a => b.slice == a.slice) i r
        || (if r.byGroup then (sitesOfGroup all r.owner).isEmpty else (findSite all r.owner).isNone))),
    (0x0C61, badRec 10 own.powers (fun _ r =>
        let gang := all.powers.filter fun p => p.lead == r.lead
        gang.any (fun p => p.slice / 64 ≠ r.slice / 64 || p.byGroup ≠ r.byGroup || p.owner ≠ r.owner)
          || !gang.any (fun p => p.slice == r.lead)
          || gang.length > 16)),
    (0x0C62, match badRec 4 own.sites (fun _ r => (slicesOfSite all r.site > 0 || slicesOfGroup all r.group > 0)
        && !all.budgets.any fun b => b.site == r.site) with
      | some r => some r
      | none => badRec 11 own.budgets (fun i r => (findSite all r.site).isNone || clash oth.budgets own.budgets (fun b a => b.site == a.site) i r)),
    (0x0C63, match badRec 11 own.budgets (fun i r =>
        let g := ((findSite all r.site).map (·.group)).getD 0
        let gs := slicesOfGroup all g
        if gs = 0 then slicesOfSite all r.site > 0 && r.max > 330 * slicesOfSite all r.site
        else
          let limit := 330 * (gs + ((sitesOfGroup all g).map (slicesOfSite all)).foldl (· + ·) 0)
          sumPast oth.budgets own.budgets (fun b => ((findSite all b.site).map (·.group)).getD 512) (·.max) (fun _ => limit) i r) with
      | some r => some r
      | none => if oth.budgets.any (groupOver all) then some (11, 0) else none),
    (0x0C64, badRec 11 own.budgets (sumPast oth.budgets own.budgets (fun _ => 0) (·.max) (fun _ => 30000))),
    (0x0C68, match badRec 3 own.caravans (fun _ r => !all.sounds.any fun x => x.caravan == r.caravan) with
      | some r => some r
      | none => badRec 12 own.sounds (fun _ r => (findCaravan all r.caravan).isNone || r.method > 1 || !onPins r.caravan r.drive
          || !onPins r.caravan r.recv || (r.method = 0 && r.recv ≠ r.drive) || r.repeats = 0)) ]

/-- The first check that fails. -/
def firstFailure : List (Nat × Option (Nat × Nat)) → Option CastErr
  | [] => none
  | (c, some (t, i)) :: _ => some ⟨c, t, i⟩
  | (_, none) :: l => firstFailure l

/-- A casting with nothing in it, of the header of another. -/
def emptyLike (k : Casting) : Casting :=
  { k with tiles := [], stores := [], caravans := [], sites := [], pins := [], routes := [], lcs := [], repairs := [], trips := []
           powers := [], budgets := [], sounds := [] }

/-- A slice's record belongs to the target caravan: its owner is one of its sites, or a group that only its sites use. -/
def powerOfTarget (a : Casting) (t : Nat) (p : PowerRec) : Bool :=
  if p.byGroup then !(a.sites.any fun x => x.group == p.owner && x.caravan ≠ t)
  else (findSite a p.owner).any fun x => x.caravan == t

/-- What the other caravans keep of the applied structure `a` when caravan `t` is recast by `p`. REPAIR and TRIP records that only the
target's sites used, and that `p` does not restate, stay in force: DESIGN CHOICE, R72 does not name them. notes/assumptions/36.md. -/
def keptOf (a p : Casting) (t : Nat) : Casting :=
  { a with
    caravans := a.caravans.filter fun x => x.caravan ≠ t
    sites := a.sites.filter fun x => x.caravan ≠ t
    pins := a.pins.filter fun x => caravanOfPin a x ≠ some t
    lcs := a.lcs.filter fun x => x.caravan ≠ t
    repairs := a.repairs.filter fun x => !p.repairs.any fun y => y.stype == x.stype
    trips := a.trips.filter fun x => !p.trips.any fun y => y.group == x.group
    powers := a.powers.filter fun x => !powerOfTarget a t x
    budgets := a.budgets.filter fun x => !(findSite a x.site).any fun y => y.caravan == t
    sounds := a.sounds.filter fun x => x.caravan ≠ t }

/-- The structure that results when partial casting `p` amends `a` (R69, R72). -/
def amend (a p : Casting) : Casting :=
  let k := keptOf a p p.target
  { k with
    caravans := k.caravans ++ p.caravans, sites := k.sites ++ p.sites, pins := k.pins ++ p.pins, lcs := k.lcs ++ p.lcs
    repairs := k.repairs ++ p.repairs, trips := k.trips ++ p.trips, powers := k.powers ++ p.powers
    budgets := k.budgets ++ p.budgets, sounds := k.sounds ++ p.sounds }

/-- The scope rule of a partial casting, R69. -/
def scopeCheck (a p : Casting) : Option (Nat × Nat) :=
  let t := p.target
  let others := fun (x : SiteRec) => x.caravan ≠ t
  let mine := fun n => p.sites.any fun x => x.site == n
  let groupOfOther := fun g => a.sites.any fun x => x.group == g && others x
  let strange := fun ch => (findPin a ch).any fun o => caravanOfPin a o ≠ some t
  let checks : List (Option (Nat × Nat)) :=
    [ badRec 3 p.caravans (fun _ r => r.caravan ≠ t || (findCaravan a t).any fun o => o.patPart ≠ r.patPart || o.failPart ≠ r.failPart),
      badRec 4 p.sites (fun _ r => r.caravan ≠ t || (findSite a r.site).any others),
      badRec 5 p.pins (fun _ r => strange r.channel
        || (if r.common then r.owner ≠ t else !mine r.owner)),
      badRec 7 p.lcs (fun _ r => r.caravan ≠ t),
      badRec 8 p.repairs (fun _ r => a.sites.any fun x => x.stype == r.stype && others x),
      badRec 9 p.trips (fun _ r => groupOfOther r.group),
      badRec 10 p.powers (fun _ r => ((a.powers.find? fun o => o.slice == r.slice).any fun o => !powerOfTarget a t o)
        || (if r.byGroup then groupOfOther r.owner || !(p.sites.any fun x => x.group == r.owner) else !mine r.owner)),
      badRec 11 p.budgets (fun _ r => !mine r.site),
      badRec 12 p.sounds (fun _ r => r.caravan ≠ t || strange r.drive || strange r.recv) ]
  checks.findSome? id

/-- The cross-reference pass of a full casting. -/
def xrefFull (e : XrefEnv) (k : Casting) : Option CastErr := firstFailure (xrefChecks e k (emptyLike k) k)

/-- The cross-reference pass of a partial casting over the applied structure (R471). -/
def xrefPartial (e : XrefEnv) (a p : Casting) : Option CastErr :=
  match scopeCheck a p with
  | some (t, i) => some ⟨0x0C73, t, i⟩
  | none =>
    let all := amend a p
    firstFailure (xrefChecks e { p with tiles := [], stores := [] } (keptOf a p p.target) all)

end Sys2Proof.Machine
end

