-- ==== Sys2Proof/Machine/Monitors.lean ====
section
/-!
DEFINITION. Machine/Monitors.lean: the window monitors but for their trips: when one is active, its timer events and blanking
windows, its sample points, and its excursions (R283 to R286). notes/assumptions/20.md.
-/

namespace Sys2Proof.Machine

/-- The block of monitor unit `u`: channels 0 to 2,175, then the slices. -/
def monBase (u : Nat) : Nat := if u < 2176 then monOfChannel u else monOfSlice (u - 2176)

/-- The monitor unit whose block is at `b`. -/
def monUnit (b : Nat) : Option Nat :=
  if 0x1000400 ≤ b && (b - 0x1000400) % 0x1000 == 0 && (b - 0x1000400) / 0x1000 < 2176 then some ((b - 0x1000400) / 0x1000)
  else if 0x300080 ≤ b && (b - 0x300080) % 0x100 == 0 && (b - 0x300080) / 0x100 < 256 then some (2176 + (b - 0x300080) / 0x100)
  else none

/-- The PMU mode in force, reserved codes acting as OFF (Table 5.13): 0 OFF, 1 FV, 2 FI, 3 MV. -/
def State.pmuSet (s : State) (ch : Nat) : Nat :=
  let m := s.fld (PMU_MODE ch) 15 13
  if m > 3 then 0 else m

/-- The PMU mode that acts: under a driver trip FV and FI act as MV (Table 5.5). -/
def State.pmuMode (s : State) (ch : Nat) : Nat :=
  if s.bit (PIN_STAT ch) 14 && (s.pmuSet ch == 1 || s.pmuSet ch == 2) then 3 else s.pmuSet ch

/-- The monitor mode in force (Table 10.6): 0 OFF, 1 CONTINUOUS, 2 SAMPLED. -/
def State.monMode (s : State) (b : Nat) : Nat :=
  let m := s.fld (MON_CFG b) 15 14
  if m = 3 then 1 else m

/-- A monitor is active (R283): a PMU monitor while its PMU is connected and in FV, FI or MV, a slice monitor while its slice is
not OFF and leads its gang. A monitor whose MODE is OFF compares nothing. -/
def State.monActive (s : State) (u : Nat) : Bool :=
  s.monMode (monBase u) ≠ 0 &&
  (if u < 2176 then s.bit (PMU_STAT u) 3 && s.pmuMode u ≠ 0
   else s.fld (DPS_STAT (u - 2176)) 15 13 ≠ 0 && !s.bit (DPS_STAT (u - 2176)) 10)

/-- A timer event opens or extends the blanking window (R286). -/
def State.timerEvent (s : State) (b : Nat) : State :=
  let len := min 250 (s.fld (MON_BLANK b) 15 8)
  let m := s.mon b
  if len = 0 then s
  else
    let opening := !s.bit (MON_STAT b) 13
    (s.setMon b { m with until_ := max m.until_ (s.time.up + 96 * len), seen := if opening then false else m.seen }).setBit (MON_STAT b) 13 true

/-- A setting of the monitored unit takes effect (R286, SET_EN). -/
def State.settingEvent (s : State) (b : Nat) : State := if s.bit (MON_BLANK b) 7 then s.timerEvent b else s

/-- The STATE of a monitor follows whether it is active: it becomes active INSIDE and untripped, which is a timer event, and an
inactive one compares nothing. -/
def State.monRefresh (s : State) (u : Nat) : State :=
  let b := monBase u
  let now := s.monActive u
  let was := s.fld (MON_STAT b) 15 14 ≠ 0
  if now = was then s
  else if now then
    ((s.setFld (MON_STAT b) 15 14 1).setMon b { s.mon b with tripped := false }).settingEvent b
  else (s.setFld (MON_STAT b) 15 14 0).setMon b { s.mon b with tripped := false }

/-- A module event is released at the pour line: it is a timer event of every monitor that names it (R286, EVT_EN), under the
binding rule of R248 (EVT_EN is 0 at reset, so only a listed MON_BLANK can hold it). `caravan` is the caravan whose own context released it. -/
def State.monEvent (s : State) (code : Nat) (caravan : Option Nat) : State :=
  s.each (s.regs.filterMap fun e => (monUnit (e.1 - 6)).map fun _ => e.1 - 6) fun t b =>
    let w := t.rd (MON_BLANK_EVT b)
    if t.bit (MON_BLANK b) 6 && bitsOf w 7 0 == code && (bitsOf w 15 15 == 0 || caravan == some (bitsOf w 13 8)) then t.timerEvent b
    else t

/-- The offset of the present clock from the first clock of its stage. -/
def State.stageOffset (s : State) : Nat := (s.time.clock - s.time.began).toNat

/-- The sample points of Table 10.2 that the stage under way has for monitor unit `u`. -/
def State.samplePoints (s : State) (u : Nat) : List Nat :=
  let len := s.stageLen
  let rate := s.fld (MON_CFG (monBase u)) 13 12
  let half := if s.time.stepped then len / 2 else if len = 3072 then 1536 else 512
  if rate = 1 then [half]
  else if rate = 2 then (if s.time.stage.toNat % 8 = u % 8 then [half] else [])
  else (List.range (len / 384 + 1)).filterMap fun k => if 384 * k < len then some (384 * k) else none

/-- A decision can fall in the present clock (R284): at any time for a CONTINUOUS monitor and one whose new schedule is pending,
and within 60 clocks of a sample point otherwise. -/
def State.canDecide (s : State) (u : Nat) : Bool :=
  let b := monBase u
  s.monMode b == 1 || s.bit (MON_STAT b) 12 || (s.samplePoints u).any fun p => p ≤ s.stageOffset && s.stageOffset ≤ p + 60

/-- The quantity of monitor unit `u` is a voltage (R283): in FI and MV of a PMU, under a driver trip as in MV; of a slice with QTY 1. -/
def State.monVolts (s : State) (u : Nat) : Bool := if u < 2176 then s.pmuMode u ≠ 1 else s.bit (MON_CFG (monBase u)) 11

/-- A value lies outside the window from `lo` to `hi`; every value does where `lo` lies above `hi`. -/
def outsideWindow (hi lo v : Int) : Bool := v > hi || v < lo

/-- The code `v` of the quantity of monitor unit `u` is outside (R283). Voltage codes are unsigned and current codes signed (R6). -/
def State.monOutside (s : State) (u v : Nat) : Bool :=
  let hi := s.rdN (MON_HI (monBase u))
  let lo := s.rdN (MON_LO (monBase u))
  if s.monVolts u then outsideWindow hi lo (v % 65536 : Nat) else outsideWindow (signed 16 hi) (signed 16 lo) (signed 16 v)

/-- A decision: the code `v` of the quantity is found inside its window. -/
def monitorInsideAt (s : State) (b v : Nat) : State :=
  match monUnit b with
  | none => s
  | some u =>
    if s.monActive u && s.canDecide u && !s.monOutside u v then
      (s.setFld (MON_STAT b) 15 14 1).setMon b { s.mon b with tripped := false }
    else s

/-- A decision: the code `v` of the quantity is found outside its window during a blanking window: it does not trip, and the window
counts once. -/
def blankedOutsideAt (s : State) (b v : Nat) : State :=
  match monUnit b with
  | none => s
  | some u =>
    if s.monActive u && s.bit (MON_STAT b) 13 && s.canDecide u && s.monOutside u v then
      let s1 := s.setFld (MON_STAT b) 15 14 2
      if (s.mon b).seen then s1
      else ((s1.setMon b { s.mon b with seen := true }).inc (MON_BLANKED_CNT b)).evt (MON_EVT b) 1
    else s

/-- A change of MODE or RATE: the monitor acts as CONTINUOUS until the class 1 item with its new schedule is admitted (R285). -/
def State.monSchedule (s : State) (b : Nat) : State :=
  (s.setBit (MON_STAT b) 12 true).arrive 1 ((monUnit b).getD 0) (yardCost 1) (.schedule b)

/-- MONITOR_INSIDE (R283): a comparison of the monitored quantity of the monitor at `x.unit`. -/
def execMonitorInside (x : CodeRead) (s : State) : Host.Outcome State Fault Refusal := .next (monitorInsideAt s x.unit x.code)

/-- BLANKED_OUTSIDE (R286): a comparison of the monitored quantity of the monitor at `x.unit`. -/
def execBlankedOutside (x : CodeRead) (s : State) : Host.Outcome State Fault Refusal := .next (blankedOutsideAt s x.unit x.code)

end Sys2Proof.Machine
end

