-- ==== Sys2Proof/Machine/Pins.lean ====
section
/-!
DEFINITION. Machine/Pins.lean: pin channels: who holds a duty, levels, edges and symbols, the PMU, the safe state, driver trips and
the outrider pad switch (Pin Channels, R142 to R168). notes/assumptions/13.md and 21.md.
-/

namespace Sys2Proof.Machine

/-! The applied structure and the site enables. -/

/-- A casting that defines nothing. -/
def Casting.none : Casting :=
  { isPartial := false, signed := false, target := 0, id := 0, baseId := 0, bodyDigest := [], tileDigest := [], tiles := [], stores := []
    caravans := [], sites := [], pins := [], routes := [], lcs := [], repairs := [], trips := [], powers := [], budgets := [], sounds := [] }

/-- The casting in force. -/
def State.casting (s : State) : Casting := s.cast.applied.getD Casting.none

/-- The enable bit of a site in force (R74). -/
def State.enabled (s : State) (n : Nat) : Bool := s.bit (CST_SITE_EN (n / 16)) (n % 16)

/-- An enable bit clears at once, in force and in shadow. -/
def State.disableNow (s : State) (n : Nat) : State :=
  s.forceBits (CST_SITE_EN (n / 16)) (BitVec.ofNat 16 (2 ^ (n % 16))) 0

/-- Cluster `k` is isolated (R318), which lasts to the tick of its release (R320). -/
def State.isolated (s : State) (k : Nat) : Bool := s.bit CAL_ISO k || s.cal.reloading.contains k || s.cal.reloaded.contains k

/-- The trip group of a site is tripped (R289). -/
def State.groupTripped (s : State) (g : Nat) : Bool := s.bit (MON_GRP_STAT g) 15

/-- A site is in a run: WITH_CARAVAN, STRAGGLER, WAITING or REJOIN_WAIT (Table 4.7). -/
def State.siteServed (s : State) (n : Nat) : Bool :=
  let st := s.fld (RUN_SITE_STAT n) 2 0
  1 ≤ st && st ≤ 4

/-! Lanes and outriders (R8, R9, R161 to R163). -/

/-- The outrider of a lane, and a channel's position in its lane. -/
def outriderOf (lane : Nat) : Nat := 2048 + lane
def lanePos (ch : Nat) : Nat := if ch < 2048 then ch % 16 else 16
/-- The channel at a position of a lane. -/
def laneChannel (lane pos : Nat) : Nat := if pos = 16 then outriderOf lane else 16 * lane + pos

/-- OUT_STATE of an outrider: 0 PARKED, 1 SERVING, 2 REPLACING. -/
def State.outState (s : State) (o : Nat) : Nat := s.fld (PIN_STAT o) 12 11

/-- The channel that holds the duty of pin channel `ch`: its lane's outrider while that serves or replaces it, otherwise itself.
In the overlap of a hand-back the duty is back at `ch`. -/
def State.holder (s : State) (ch : Nat) : Nat :=
  let o := outriderOf (laneOf ch)
  if ch < 2048 && s.outState o ≠ 0 && s.fld (PIN_STAT o) 3 0 == ch % 16 && (s.chan o).overlap.isNone then o else ch

/-- The duty that channel `ph` holds: for an outrider the pin it serves or replaces, and none for a parked one. -/
def State.dutyOf (s : State) (ph : Nat) : Option Nat :=
  if ph < 2048 then (if s.holder ph = ph then some ph else Option.none)
  else if s.outState ph ≠ 0 && (s.chan ph).overlap.isNone then some (16 * (ph - 2048) + s.fld (PIN_STAT ph) 3 0)
  else Option.none

/-- The channels that drive the contact of pin channel `ch`: the holder of its duty, and in the overlap of a takeover or hand-back the
other channel too (R161). -/
def State.driving (s : State) (ch : Nat) : List Nat :=
  let o := outriderOf (laneOf ch)
  let h := s.holder ch
  if ch < 2048 && s.outState o ≠ 0 && s.fld (PIN_STAT o) 3 0 == ch % 16 && ((s.chan ch).overlap.isSome || (s.chan o).overlap.isSome) then
    [h, if h = o then ch else o]
  else [h]

/-- What acts on every channel that drives the contact of `ch`. -/
def State.drivers (s : State) (ch : Nat) (f : Chan → Chan) : State := s.each (s.driving ch) fun t h => t.setChan h (f (t.chan h))

/-- The settings in the window of `ch` are applied: those of an outrider that serves or replaces a pin are only kept (R163). -/
def State.ownApplied (s : State) (ch : Nat) : Bool := ch < 2048 || s.outState ch == 0

/-! Levels (R143, R144). -/

/-- The voltage code acted on, and the current code acted on. -/
def voltActed (v : Nat) : Nat := min v 0xDAC0
def curActed (v : Nat) : Nat := if v ≥ 0x8000 then 0 else v

/-- The eight level registers of a channel. -/
def levelRegs (ch : Nat) : List Nat :=
  [PIN_LVL_VIH ch, PIN_LVL_VIL ch, PIN_LVL_VIT ch, PIN_LVL_VOH ch, PIN_LVL_VOL ch, PIN_LVL_VCOM ch, PIN_LVL_IOH ch, PIN_LVL_IOL ch]

/-- All eight level DACs of the channels that drive the contact load the values in force. -/
def State.loadLevels (s : State) (ch : Nat) : State :=
  let v := (levelRegs ch).map s.rdN
  let acted := (v.take 6).map voltActed ++ (v.drop 6).map curActed
  s.drivers ch fun c => { c with dacs := acted }

/-- A level register of a pin took effect: the DACs load, and a code that is acted on otherwise sets LEVEL_CLAMP. -/
def State.levelCommit (s : State) (ch a : Nat) : State :=
  let v := s.rdN a
  let clamp := if a = PIN_LVL_IOH ch ∨ a = PIN_LVL_IOL ch then curActed v ≠ v else voltActed v ≠ v
  (s.loadLevels ch).when clamp (·.evt (PIN_EVT ch) 0)

/-! Edges and symbols (R145 to R153). -/

/-- Edge `e` of timing set `t` on a channel: its offset in steps of 0.25 ps, and its enable. -/
def State.edge (s : State) (ch t e : Nat) : Nat × Bool :=
  (s.rdN (TIM_EDGE ch (6 * t + e)) + 65536 * s.fld (TIM_EDGE_HI ch (6 * t + e)) 5 0, s.bit (TIM_EDGE_HI ch (6 * t + e)) 15)

/-- The period of a timing set of caravan `c`, in slots (R148). -/
def State.period (s : State) (c t : Nat) : Nat := s.fld (TIM_PERIOD c t) 11 0 + 1

/-- An offset lies inside a period of `slots` slots: a slot is 1/6 ns, a step 0.25 ps. -/
def inPeriod (offset slots : Nat) : Bool := 3 * offset < 2000 * slots

/-- Edge `e` acts: it is enabled and lies inside the period (R149). -/
def State.edgeActs (s : State) (ch t slots e : Nat) : Bool := (s.edge ch t e).2 && inPeriod (s.edge ch t e).1 slots

/-- What an edge does to the driver. -/
inductive DriveAct where
  | on | level (high : Bool) | off
  deriving DecidableEq, Repr

/-- The driver actions of a symbol as (offset, edge, action), Table 5.4 with the last column of Table 5.3. -/
def State.driveActs (s : State) (ch t slots sym : Nat) : List (Nat × Nat × DriveAct) :=
  let off := fun e => (s.edge ch t e).1
  let acts := s.edgeActs ch t slots
  let e1 := if acts 1 then off 1 else 0
  let e0 := if acts 0 then off 0 else e1
  let on : List (Nat × Nat × DriveAct) := [(e0, 0, .on)]
  let lvl := fun h => [(e1, 1, DriveAct.level h)]
  let second := fun h => if acts 2 then [(off 2, 2, DriveAct.level h)] else []
  let release := [(if acts 3 then off 3 else 0, 3, DriveAct.off)]
  match sym with
  | 0x0 => on ++ lvl false
  | 0x1 => on ++ lvl true
  | 0x3 => []
  | 0x9 => on ++ lvl true ++ second false
  | 0xA => on ++ lvl false ++ second true
  | 0xB => (e0, 0, .level true) :: on ++ lvl false ++ second true
  | 0xC => (e0, 0, .level false) :: on ++ lvl true ++ second false
  | 0xE => on ++ lvl false ++ release
  | 0xF => on ++ lvl true ++ release
  | _ => release

/-- Actions in order of offset and, at one offset, of edge number (R150). -/
def sortActs (l : List (Nat × Nat × DriveAct)) : List DriveAct :=
  (sortBy (fun a b => a.1 < b.1 || (a.1 == b.1 && a.2.1 ≤ b.2.1)) l).map (·.2.2)

/-- The driver in the course of a vector: on, at the high level, and whether it has moved between levels and has turned off. -/
structure DriveRun where
  on : Bool
  high : Bool
  moved : Bool
  turnedOff : Bool
  deriving DecidableEq, Repr

/-- One driver action. -/
def DriveRun.act (x : DriveRun) : DriveAct → DriveRun
  | .on => { x with on := true }
  | .off => { x with on := false, turnedOff := x.turnedOff || x.on }
  | .level b => { x with high := b, moved := x.moved || b ≠ x.high }

/-- The driver after the actions of a vector. -/
def runActs (c : Chan) (l : List DriveAct) : DriveRun := l.foldl DriveRun.act ⟨c.driverOn, c.driveHigh, false, false⟩

/-- The vector drives a level transition (R145): the driver moves between levels and does not turn off. -/
def DriveRun.transition (x : DriveRun) : Bool := x.moved && !x.turnedOff

/-- The symbol that a role lets through (R153). -/
def roleSymbol (role sym : Nat) : Nat :=
  let expecting := [0x4, 0x5, 0x6, 0xD, 0xE, 0xF].contains sym
  if role = 2 ∨ role = 4 then (if expecting then 7 else sym)
  else if role = 3 then
    (if [0x0, 0x1, 0x9, 0xA, 0xB, 0xC].contains sym then 2 else if sym = 0xE then 5 else if sym = 0xF then 4 else sym)
  else sym

/-- CMP in force, reserved codes acting as OFF: 0 EDGE, 1 WINDOW, 2 OFF. -/
def State.cmpMode (s : State) (ch : Nat) : Nat := min 2 (s.fld (PIN_MODE ch) 11 10)

/-- E5 acts and does not precede E4 (R150). -/
def State.windowOpen (s : State) (ch t slots : Nat) : Bool := s.edgeActs ch t slots 5 && (s.edge ch t 4).1 ≤ (s.edge ch t 5).1

/-- The symbol that acts on a pin: after its role (R153), a compare symbol or CP whose E4 does not act and a CE without its window act
as CX (R149, R150, Table 5.3), and under CMP OFF so do the expecting symbols that do not drive (Table 5.5). -/
def State.actingSymbol (s : State) (ch role t slots sym : Nat) : Nat :=
  let sy := roleSymbol role sym
  if !s.edgeActs ch t slots 4 && [0x4, 0x5, 0x6, 0x8, 0xD, 0xE, 0xF].contains sy then 7
  else if sy = 0xD ∧ !s.windowOpen ch t slots then 7
  else if s.cmpMode ch = 2 ∧ [0x4, 0x5, 0x6, 0xD].contains sy then 7
  else sy

/-- The symbols that Table 5.4 marks load-eligible; CP acts as CX (R152). -/
def loadEligible (sym : Nat) : Bool := [0x4, 0x5, 0x6, 0x7, 0x8, 0xD].contains sym

/-- The driver of a pin is in vector mode. -/
def State.drvVector (s : State) (ch : Nat) : Bool := s.fld (PIN_MODE ch) 15 14 == 0

/-- The PMU forces the pad: FV or FI, and no driver trip (Table 5.5). -/
def State.pmuForces (s : State) (ch : Nat) : Bool := s.pmuMode ch == 1 || s.pmuMode ch == 2

/-- Drive actions on a pin are inert (Table 5.5): safe state, driver trip, DRV OFF, or a PMU that forces. -/
def State.driveInert (s : State) (ch : Nat) : Bool :=
  s.bit (PIN_STAT ch) 15 || s.bit (PIN_STAT ch) 14 || !s.drvVector ch || s.pmuForces ch

/-- The limit of Table 5.2 on |VIH − VIL| for a period, in voltage codes of 125 µV. -/
def swingLimit (slots : Nat) : Nat := if slots ≥ 7 then 56000 else if slots ≥ 3 then 26400 else 12800

/-- The swing in force. -/
def State.swing (s : State) (ch : Nat) : Nat :=
  let hi := voltActed (s.rdN (PIN_LVL_VIH ch))
  let lo := voltActed (s.rdN (PIN_LVL_VIL ch))
  max hi lo - min hi lo

/-- An enabled edge that does not lie inside the period is reported (R149). -/
def State.edgeRange (s : State) (ch t slots : Nat) : State :=
  s.each (List.range 6) fun u e =>
    if (u.edge ch t e).2 && !inPeriod (u.edge ch t e).1 slots then
      (u.wrN (PIN_EDGE_ERR ch) (64 * e + t)).evt (PIN_EVT ch) 2
    else u

/-! What the channel does at its pad (R147, Table 5.5, Table 5.6). -/

/-- The pad switch of the channel that holds the duty `ch` is closed, and the pin is out of the safe state. -/
def State.padJoined (s : State) (ch : Nat) : Bool := (s.chan (s.holder ch)).switch == .closed && !s.bit (PIN_STAT ch) 15

/-- The driver drives the pad. -/
def State.driverActs (s : State) (ch : Nat) : Bool := s.padJoined ch && (s.chan (s.holder ch)).driverOn

/-- The termination and the active load are not forced off: by a driver that is on, a PMU that forces or a driver trip. -/
def State.passiveFree (s : State) (ch : Nat) : Bool :=
  s.padJoined ch && !(s.chan (s.holder ch)).driverOn && !s.pmuForces ch && !s.bit (PIN_STAT ch) 14

/-- The 50 Ω termination connects the pad to VIT. -/
def State.terminates (s : State) (ch : Nat) : Bool := s.passiveFree ch && s.bit (PIN_MODE ch) 13

/-- The active load acts: TERM 0, LOAD 1 and a load-eligible symbol. -/
def State.loadActs (s : State) (ch : Nat) : Bool :=
  s.passiveFree ch && !s.bit (PIN_MODE ch) 13 && s.bit (PIN_MODE ch) 12 && loadEligible (s.chan (s.holder ch)).symbol

/-- What a channel's elements do at its pad, as the codes acted on: the level driven, the termination voltage, the active load as
VCOM, IOH and IOL, and the mode and force code of a connected PMU. -/
structure Pad where
  driver : Option Nat
  term : Option Nat
  load : Option (Nat × Nat × Nat)
  pmu : Option (Nat × Nat)
  deriving DecidableEq, Repr

/-- The pad of duty `ch`. -/
def State.pad (s : State) (ch : Nat) : Pad :=
  let c := s.chan (s.holder ch)
  let dac := fun i => c.dacs.getD i 0
  { driver := if s.driverActs ch then some (dac (if c.driveHigh then 0 else 1)) else none
    term := if s.terminates ch then some (dac 2) else none
    load := if s.loadActs ch then some (dac 5, dac 6, dac 7) else none
    pmu := if s.padJoined ch && s.pmuMode ch ≠ 0 then some (s.pmuMode ch, s.rdN (PMU_FORCE ch)) else none }

/-- The current that the active load draws from a pad at voltage code `v`: IOH above VCOM, and IOL supplied below it (R147). -/
def Pad.loadCurrent (p : Pad) (v : Nat) : Int :=
  match p.load with
  | some (vcom, ioh, iol) => if v > vcom then (ioh : Int) else if v < vcom then -(iol : Int) else 0
  | none => 0

/-- The voltage code at which a pad settles that nothing outside drives: VIT under termination, VCOM under the active load. -/
def Pad.settles (p : Pad) : Option Nat := p.term.orElse fun _ => p.load.map (·.1)

/-! Vectors and park symbols at a pin. -/

/-- The driver after a vector: off where drive actions are inert. -/
def Chan.drive (c : Chan) (inert : Bool) (sym : Nat) (acts : List DriveAct) : Chan :=
  if inert then { c with symbol := sym, driverOn := false }
  else { c with symbol := sym, driverOn := (runActs c acts).on, driveHigh := (runActs c acts).high }

/-- The driver under a steady symbol: D0 and D1 drive their level, any other releases (R46, R158). -/
def Chan.holds (c : Chan) (inert : Bool) (sym : Nat) : Chan :=
  if inert ∨ sym > 1 then { c with symbol := sym, driverOn := false }
  else { c with symbol := sym, driverOn := true, driveHigh := sym == 1 }

/-- A steady symbol applies at a pin whose pad switch is not moving. -/
def State.holdSymbol (s : State) (ch sym : Nat) : State := s.drivers ch fun c => c.holds (s.driveInert ch) sym

/-- Drive actions on a pin became inert, or no longer are (R154): the driver turns off, or drives again the D0 or D1 that it holds.
notes/assumptions/13.md. -/
def State.driveFollow (s : State) (ch : Nat) : State :=
  let sym := (s.chan (s.holder ch)).symbol
  if s.driveInert ch || sym ≤ 1 && s.padJoined ch then s.holdSymbol ch sym else s

/-- A strobe of a CP pin compares nothing. -/
def Strobe.isCapture (x : Strobe) : Bool := x.sym == 8

/-- The compare passes (R146, R150, R153). `hi` and `lo` are the comparators at E4; `held` tells that the expectation held
throughout the window, or for CE that the high comparator changed state in it. -/
def Strobe.pass (x : Strobe) (o : PinObs) : Bool :=
  let atE4 := match x.sym with
    | 0x4 => o.lo
    | 0xF => o.lo
    | 0x5 => o.hi
    | 0xE => o.hi
    | _ => !o.hi && !o.lo
  if x.sym = 0xD then o.held else atE4 && (!x.window || o.held) && x.midOk

/-! The parametric unit (R155, R156). -/

/-- The range acted on. -/
def pmuRange (w : Word) : Nat := if bitsOf w 12 10 > 4 then 0 else bitsOf w 12 10

/-- PMU_STAT follows the mode that acts, the pad switch and the clamps. A clamp pair is judged as currents in FV and as voltages in
FI. Where the PMU forces nothing no clamp limits a force. -/
def State.pmuUpdate (s : State) (ch : Nat) : State :=
  let m := s.pmuMode ch
  let hi := s.rdN (PMU_CLAMP_HI ch)
  let lo := s.rdN (PMU_CLAMP_LO ch)
  let bad := if m = 1 then signed 16 hi ≤ signed 16 lo else m = 2 ∧ hi ≤ lo
  let conn := m ≠ 0 && s.padJoined ch
  let s1 := (s.setBit (PMU_STAT ch) 1 bad).setBit (PMU_STAT ch) 3 conn
  (if conn && s.pmuForces ch && !bad then s1 else s1.setBit (PMU_STAT ch) 0 false).monRefresh ch

/-- PMU_STAT.CLAMP at a read: while the PMU forces, whether a clamp limits it is decided by the device outside, which no command
tells, so it is a free value (R155). notes/assumptions/13.md. -/
def State.clampSeen (ch : Nat) (s : State) : State :=
  if s.bit (PMU_STAT ch) 3 && s.pmuForces ch && !s.bit (PMU_STAT ch) 1 then
    let r := s.free
    r.2.setBit (PMU_STAT ch) 0 (r.1 % 2 == 1)
  else s

/-- A range or mode change begins its 2 µs interval. -/
def State.pmuRanging (s : State) (ch : Nat) : State :=
  (s.setChan ch { s.chan ch with ranging := some (s.time.up + 6000), rangedTill := s.time.up + 6000 }).setBit (PMU_STAT ch) 2 true

/-- PMU_MODE takes effect over `old`. -/
def State.pmuModeCommit (s : State) (ch : Nat) (old : Word) : State :=
  let new := s.rd (PMU_MODE ch)
  let loop := fun (w : Word) => bitsOf w 15 13 = 1 ∨ bitsOf w 15 13 = 2
  let change := pmuRange old ≠ pmuRange new ∨ (loop old ∧ loop new ∧ bitsOf old 15 13 ≠ bitsOf new 15 13)
  let s1 := if change then s.pmuRanging ch else s
  ((s1.driveFollow ch).pmuUpdate ch).settingEvent (monOfChannel ch)

/-! The safe state (R157 to R159) and driver trips (R160). -/

/-- A pin leaves the safe state: the pad switch of the channel that holds its duty begins to close. -/
def State.leaveSafe (s : State) (ch : Nat) : State :=
  let h := s.holder ch
  ((s.setChan h { s.chan h with switch := .closing, due := s.time.up + 150, driverOn := false }).setBit (PIN_STAT ch) 15 false).evt
    (PIN_EVT ch) 3

/-- A pin enters the safe state: driver, termination, load and PMU turn off and the pad switch begins to open. Register values
stay. -/
def State.enterSafe (s : State) (ch : Nat) : State :=
  let h := s.holder ch
  let s0 := s.drivers ch fun c => { c with driverOn := false }
  let s1 := s0.setChan h { s0.chan h with switch := .opening, due := s.time.up + 150 }
  ((s1.setBit (PIN_STAT ch) 15 true).pmuUpdate ch).evt (PIN_EVT ch) 4

/-- The pad switch of the channel that holds the duty `ch` has closed: termination, load and PMU connect per their modes, and the
park symbol applies (Table 5.7). -/
def State.padClosed (s : State) (ch : Nat) : State :=
  let h := s.holder ch
  let s1 := s.setChan h { s.chan h with switch := .closed }
  (s1.holdSymbol ch (((findPin s.casting ch).map (·.park)).getD 2)).pmuUpdate ch

/-- The pad switch of duty `ch` is still closing. -/
def State.padClosing (s : State) (ch : Nat) : Bool := (s.chan (s.holder ch)).switch == .closing && s.time.up < (s.chan (s.holder ch)).due

/-- A pad switch whose time has come has closed. -/
def State.padSettle (s : State) (ch : Nat) : State :=
  if (s.chan (s.holder ch)).switch == .closing && (s.chan (s.holder ch)).due ≤ s.time.up then s.padClosed ch else s

/-- The source of an edge selection of a TDC (Table 9.1). -/
def selSource (w : Word) : Nat := bitsOf w 15 13

/-- A measurement under way listens for a synthetic source on the TDC of `ch`, its own or one that it has on loan. -/
def State.tdcHears (s : State) (ch source : Nat) : Bool :=
  let m := (s.tdc ch).lentTo.getD ch
  let st := s.fld (TDC_STAT m) 15 13
  (st == 1 || st == 2) && (selSource (s.tdc m).start == source || selSource (s.tdc m).stop == source)

/-- The instant of edge `e` of a vector that begins in the present clock, in 1/65,536 clock of `up`, rounded to the nearest: a step of
0.25 ps is 6,144/125 of that unit, and `half` tells a start in the second slot of the clock (R247). -/
def State.edgeInstant (s : State) (ch t e : Nat) (half : Bool) : Nat :=
  s.time.up * 65536 + (if half then 32768 else 0) + ((s.edge ch t e).1 * 12288 + 125) / 250

/-- The level that a symbol sets at E1, where it sets one. -/
def dataLevel (sym : Nat) : Option Bool :=
  if [0x1, 0x9, 0xC, 0xF].contains sym then some true else if [0x0, 0xA, 0xB, 0xE].contains sym then some false else Option.none

/-- The synthetic edges of a vector on pin `ch` (Table 9.1): DRIVE at an E1 that acts on the driver, STROBE at the E4 of CP. -/
def State.synthEdges (s : State) (ch t slots sym : Nat) (half : Bool) : List (Nat × Bool × Nat) :=
  let drive := match dataLevel sym with
    | some h => if s.edgeActs ch t slots 1 && !s.driveInert ch then [(2, h, s.edgeInstant ch t 1 half)] else []
    | Option.none => []
  drive ++ if sym = 8 then [(3, true, s.edgeInstant ch t 4 half)] else []

/-- The synthetic edges of a vector wait for a TDC that hears them, or that may be armed at a tick before them. -/
def State.putSynth (s : State) (ch t slots sym : Nat) (half : Bool) : State :=
  let tick := (s.time.up + s.toTick) * 65536
  let hears := fun (e : Nat × Bool × Nat) => tick ≤ e.2.2 || s.tdcHears ch e.1
  let l := ((s.chan ch).synth ++ s.synthEdges ch t slots sym half).filter hears
  if l = (s.chan ch).synth then s else s.setChan ch { s.chan ch with synth := l }

/-- A committed vector of period `slots` and timing set `t` reaches pin channel `ch` with a symbol. PMU_ONLY pins take none, and a pin
whose pad switch is still closing does not apply it (R158). `half` tells that it begins in the second slot of the clock. -/
def State.applyVector (s : State) (ch role t slots : Nat) (half : Bool) (sym : Nat) : State :=
  let s0 := s.padSettle ch
  if role = 6 ∨ s0.padClosing ch then s0
  else
    let s1 := s0.edgeRange ch t slots
    let sy := s1.actingSymbol ch role t slots sym
    let acts := sortActs (s1.driveActs ch t slots sy)
    let inert := s1.driveInert ch
    let s2 := (s1.putSynth ch t slots sy half).drivers ch fun c => c.drive inert sy acts
    if !inert && (runActs (s1.chan (s1.holder ch)) acts).transition && s1.swing ch > swingLimit slots then
      (s2.inc (PIN_SWING_CNT ch)).evt (PIN_EVT ch) 1
    else s2

/-- The park symbol applies (R46, R158); while the pad switch closes it waits. -/
def State.applyPark (s : State) (ch park : Nat) : State :=
  let s0 := s.padSettle ch
  if s0.padClosing ch then s0 else s0.holdSymbol ch park

/-- A vector of this symbol on this pin gives a compare result (R153). -/
def State.compares (s : State) (ch role t slots sym : Nat) : Bool :=
  [0x4, 0x5, 0x6, 0xD, 0xE, 0xF].contains (s.actingSymbol ch role t slots sym) && s.cmpMode ch ≠ 2 && role ≠ 6

/-- What a vector that crosses now strobes on a pin with index `i` of site `n`: a compare, or the capture of a CP symbol; nothing on a
pin that does not apply the vector. -/
def State.strobe (s : State) (n i ch role t slots sym : Nat) (dbit : Option Nat) : Option Strobe :=
  let sy := s.actingSymbol ch role t slots sym
  let midOk := sy ≠ 6 || voltActed (s.rdN (PIN_LVL_VOL ch)) < voltActed (s.rdN (PIN_LVL_VOH ch))
  if (s.compares ch role t slots sym || (sy == 8 && role ≠ 6)) && !s.padClosing ch then
    some ⟨ch, n, i, sy, s.cmpMode ch == 1 && s.windowOpen ch t slots, midOk, dbit⟩
  else none

/-- The tile slots with nothing present, so that no pin of theirs can leave the safe state (R61). -/
def State.slotPresent (s : State) (slot : Nat) : Bool := s.bit (CST_TILE_PRES + 2 * (slot / 16)) (slot % 16)

/-- A pin is to be out of the safe state (R45, R74, R318): its tile is there, its cluster is not isolated, and its site, or for a
common pin some site of its caravan, is enabled. -/
def State.pinWanted (s : State) (p : PinRec) : Bool :=
  s.slotPresent p.tile && !s.isolated (p.channel / 128) &&
  (if p.common then (sitesOfCaravan s.casting p.owner).any s.enabled else s.enabled p.owner)

/-- Every pin takes the safe state or leaves it, as the enables in force and the tiles say. `names` are pins to look at beside
those of the applied casting. -/
def State.refreshPins (s : State) (names : List Nat) : State :=
  let k := s.casting
  let s1 := s.each names fun t ch =>
    if (findPin k ch).isNone && !t.bit (PIN_STAT ch) 15 then t.enterSafe ch else t
  k.pins.foldl (fun t p =>
    let want := t.pinWanted p
    let safe := t.bit (PIN_STAT p.channel) 15
    if want && safe then t.leaveSafe p.channel else if !want && !safe then t.enterSafe p.channel else t) s1

/-- A driver trip is in force at a pin: driver, termination and load are off, a forcing PMU senses, and the pad switch stays closed. In
an overlap both channels take it (R162). -/
def State.driverOff (s : State) (ch : Nat) : State :=
  (((s.drivers ch fun c => { c with driverOn := false }).setBit (PIN_STAT ch) 14 true)).pmuUpdate ch

/-- A driver trip reaches a pin. -/
def State.driverTrip (s : State) (ch : Nat) : State := (s.driverOff ch).evt (PIN_EVT ch) 5

/-- A driver trip ends (R292): the driver returns to the settings in force. -/
def State.driverClear (s : State) (ch : Nat) : State :=
  if s.bit (PIN_STAT ch) 14 then
    let s1 := (s.setChan ch { s.chan ch with trippedTill := s.time.up }).setBit (PIN_STAT ch) 14 false
    (s1.driveFollow ch).pmuUpdate ch
  else s

/-! Outrider takeover and hand-back (R161, R162). -/

/-- A takeover of channel `ch` at its tick. In the safe state neither switch closes and only the assignment changes. -/
def State.takeover (s0 : State) (ch : Nat) : State :=
  let s := s0.padSettle ch
  let o := outriderOf (laneOf ch)
  let c := s.chan ch
  let s1 := (s.setFld (PIN_STAT o) 12 11 1).setFld (PIN_STAT o) 3 0 (ch % 16)
  if s.bit (PIN_STAT ch) 15 then
    ((s1.setBit (PIN_STAT ch) 13 true).evt (PIN_EVT ch) 6).loadLevels ch
  else
    let s2 := s1.setChan o { c with switch := .closed, overlap := Option.none, ranging := Option.none }
    (s2.setChan ch { c with overlap := some (s.time.up + 12) }).loadLevels ch

/-- The hand-back of channel `ch` at its tick. -/
def State.handback (s0 : State) (ch : Nat) : State :=
  let s := s0.padSettle ch
  let o := outriderOf (laneOf ch)
  let x := s.chan o
  if s.bit (PIN_STAT ch) 15 then
    let s1 := ((s.setFld (PIN_STAT o) 12 11 0).setFld (PIN_STAT o) 3 0 0).setBit (PIN_STAT ch) 13 false
    (s1.evt (PIN_EVT ch) 7).loadLevels ch
  else
    let s1 := s.setChan ch { s.chan ch with switch := .closed, driverOn := x.driverOn, driveHigh := x.driveHigh, symbol := x.symbol, overlap := Option.none }
    ((s1.setChan o { x with overlap := some (s.time.up + 12) }).setBit (PIN_STAT ch) 13 false).loadLevels ch

/-! The rows. -/

/-- PMU_RANGING_END (R156): the interval of a range or mode change ends. -/
def execPmuRangingEnd (ch : Nat) (s : State) : Host.Outcome State Fault Refusal :=
  .next (match (s.chan ch).ranging with
    | Option.none => s
    | some d => s.atDue d fun t => (t.setChan ch { t.chan ch with ranging := Option.none }).setBit (PMU_STAT ch) 2 false)

/-- PAD_SWITCH_CLOSED (R158), for the duty of channel `ch`. -/
def execPadSwitchClosed (ch : Nat) (s : State) : Host.Outcome State Fault Refusal :=
  .next (let x := s.chan (s.holder ch)
    if x.switch = .closing then s.atDue x.due (·.padClosed ch) else s)

/-- The pad switch of physical channel `h` has opened. -/
def State.padOpened (s : State) (h : Nat) : State :=
  if (s.chan h).switch == .opening && (s.chan h).due ≤ s.time.up then s.setChan h { s.chan h with switch := .opened } else s

/-- The clock at which a switch of channel `ch` or of its lane's outrider is open. -/
def State.opensAt (s : State) (ch : Nat) : Option Nat :=
  (([ch, outriderOf (laneOf ch)].filter fun h => (s.chan h).switch == .opening).map fun h => (s.chan h).due).min?

/-- PAD_SWITCH_OPEN (R159), for the contact of channel `ch`: its own switch or that of its lane's outrider. -/
def execPadSwitchOpen (ch : Nat) (s : State) : Host.Outcome State Fault Refusal :=
  .next (match s.opensAt ch with
    | Option.none => s
    | some d => s.atDue d fun t => (t.padOpened ch).padOpened (outriderOf (laneOf ch)))

/-- The displaced channel's pad switch is open. -/
def State.takeoverOpen (s : State) (ch : Nat) : State :=
  ((s.setChan ch { s.chan ch with overlap := Option.none, switch := .opened, driverOn := false }).setBit (PIN_STAT ch) 13 true).evt
    (PIN_EVT ch) 6

/-- The outrider's switch is open after a hand-back of `ch`: it is PARKED. -/
def State.handbackOpen (s : State) (ch : Nat) : State :=
  let o := outriderOf (laneOf ch)
  let s1 := s.setChan o { s.chan o with overlap := Option.none, switch := .opened, driverOn := false }
  (((s1.setFld (PIN_STAT o) 12 11 0).setFld (PIN_STAT o) 3 0 0).loadLevels o).evt (PIN_EVT ch) 7

/-- HANDBACK_SWITCH_OPEN (R161). -/
def execHandbackSwitchOpen (ch : Nat) (s : State) : Host.Outcome State Fault Refusal :=
  .next (match (s.chan (outriderOf (laneOf ch))).overlap with
    | Option.none => s
    | some d => if s.fld (PIN_STAT (outriderOf (laneOf ch))) 3 0 = ch % 16 then s.atDue d (·.handbackOpen ch) else s)

end Sys2Proof.Machine
end

