-- ==== Sys2Proof/Machine/Service.lean ====
section
/-!
DEFINITION. Machine/Service.lean: the units as calibration and thermal management number them: calibration blocks and outcomes,
zone sensors, and the refusals of a zone that throttles or is in shutdown (R303, R311, R428, R432, R433).
notes/assumptions/22.md.
-/

namespace Sys2Proof.Machine

/-! Units (R311): channels 0 to 2,175, slices from 2,176, digitizers from 2,432, AWGs from 2,452. -/

def unitOfSlice (i : Nat) : Nat := 2176 + i
def unitOfAcq (u : Nat) : Nat := 2432 + u
def unitOfAwg (u : Nat) : Nat := 2452 + u

/-- The calibration block of a unit. -/
def calBlock (x : Nat) : Nat :=
  if x < 2176 then calOfChannel x else if x < 2432 then calOfSlice (x - 2176)
  else if x < 2452 then calOfAcq (x - 2432) else calOfAwg (x - 2452)

/-! Zones (R432, R433). -/

/-- The level of a zone: 0 NORMAL, 1 WARN, 2 THROTTLE, 3 SHUTDOWN. -/
def State.zoneLevel (s : State) (n : Nat) : Nat := s.fld (THM_SSTAT n) 15 14

/-- The refusal that the zones of an action's units give it, the whole-module zones included. -/
def State.thermalCode (s : State) (zones : List Nat) : Option Nat :=
  let l := (zones ++ (List.range 16).map (48 + ·)).map s.zoneLevel
  if l.contains 3 then some 0x1901
  else if l.contains 2 && s.bit THM_GOV 15 then some 0x1902
  else none

/-- Some zone is in shutdown. -/
def State.anyShutdown (s : State) : Bool := s.fld THM_STAT 15 14 == 3

/-- The refusal of a non-volatile transaction (R437). -/
def State.nvCode (s : State) : Option Nat :=
  if s.anyShutdown then some 0x1903 else if s.bit THM_STAT 12 then some 0x1904 else none

/-! Outcomes of calibration (R303). -/

def State.calJob (s : State) (x : Nat) : Option CalJob := s.cal.jobs.find? fun j => j.unit == x

/-- A named unit's job changes. -/
def State.setCalJob (s : State) (j : CalJob) : State :=
  { s with cal := { s.cal with jobs := s.cal.jobs.map fun o => if o.unit = j.unit then j else o } }

/-- A named unit ends with an outcome (1 OK, 2 FAILED, 3 SKIPPED, 4 ABORTED) and a code; with the last one the request ends. -/
def State.calEnd (s : State) (x outcome code : Nat) : State :=
  if (s.calJob x).isNone then s
  else
    let b := calBlock x
    let jobs := s.cal.jobs.filter fun j => j.unit ≠ x
    let s1 := { s with cal := { s.cal with jobs := jobs, active := !jobs.isEmpty } }
    let s2 := ((s1.setFld (CAL_STAT b) 15 13 outcome).setBit (CAL_STAT b) 12 false).wrN (CAL_CODE b) code
    let s3 := s2.wrN CAL_PROG_DONE (s2.rdN CAL_PROG_DONE + 1)
    let s4 := if outcome = 2 then (s3.evt (CAL_EVT b) 1).evt CALC_EVT 2 else if outcome = 1 then s3.evt (CAL_EVT b) 0 else s3
    if jobs.isEmpty then s4.evt CALC_EVT 0 else s4

/-- A use of a unit ends its calibration (R308, R309). -/
def State.calPreempt (s : State) (x : Nat) : State :=
  match s.calJob x with
  | some j => if j.phase = 0 then s else s.calEnd x 4 0x1414
  | none => s

/-- New trims of a unit are installed at a tick: its count, time and temperature (R313). -/
def State.calInstalled (s : State) (x : Nat) : State :=
  let b := calBlock x
  let s1 := (s.setWide (CAL_CNT b) 2 (s.wide (CAL_CNT b) 2 + 1)).setWide (CAL_TIME b) 4 s.convoyTime
  ((s1.setBit (CAL_STAT b) 10 false).setBit (CAL_STAT b) 11 false).wrN (CAL_TREF b) (s1.rdN (THM_TEMP (zoneOf x)))

/-- The code of a refused common-window change (R315 to R321). -/
def State.calRefuse (s : State) (a code : Nat) : State := (s.wrN CALC_CODE code).refuse a code

/-! Touchdown and what it ends (R399, R409, R412, R465). -/

/-- The injection registers. -/
def fiRegs : List Nat := [WAY_FI_FAB, WAY_FI_CMD, CVY_FI_CFG_E, CVY_FI_CFG_W]

/-- The module is in touchdown: the contact-engaged input is asserted, or a sounding is in progress. -/
def State.touchdown (s : State) : Bool := s.touch || (List.range 64).any fun c => s.fld (RUN_SND_STAT c) 1 0 == 1

/-- Touchdown begins: an injection EN that is 1, in force or in shadow, clears with every other. -/
def State.fiStop (s : State) : State :=
  if fiRegs.any fun a => s.bit a 15 || (s.shadowOf a).getLsbD 15 then
    (fiRegs.foldl (fun t a => t.forceBits a 0x8000#16 0#16) s).evt WAY_EVT 3
  else s

/-- A firmware slot, slot B where `b` holds. -/
def State.fwSlot (s : State) (b : Bool) : FwSlot := if b then s.nv.fwB else s.nv.fwA
def State.setFwSlot (s : State) (b : Bool) (x : FwSlot) : State :=
  { s with nv := if b then { s.nv with fwB := x } else { s.nv with fwA := x } }

/-- The FWU registers of a slot, from `a` on. -/
def State.showFwSlot (s : State) (a : Nat) (x : FwSlot) : State :=
  let has := x.state ≠ 0 && x.state ≠ 1
  let f := fun (o n : Nat) => if has then leAt x.header o n else 0
  (((s.wrN a (x.state * 8192 + f 0x016 1 % 4 * 2048)).wrN (a + 2) (f 0x014 2)).setWide (a + 4) 2 (f 0x00C 4)).setWide (a + 8) 2 (f 0x010 4)

/-- The FWU registers show the slots, the running slot, the floor and the revoked keys. -/
def State.showFw (s : State) : State :=
  let s1 := (s.showFwSlot FWU_SLOTA_STAT s.nv.fwA).showFwSlot FWU_SLOTB_STAT s.nv.fwB
  let s2 := (s1.setBit FWU_STAT 15 s.nv.runningB).setBit FWU_STAT 14 ((s.fwSlot s.nv.runningB).state == 3)
  (s2.setFld FWU_STAT 3 0 s.nv.revoked).setWide FWU_FLOOR 2 s.nv.floor

/-- THM_STAT.NV_BUSY: a transaction, or the writing of a firmware slot, is in progress. -/
def State.showNv (s : State) : State := s.setBit THM_STAT 10 (!s.nv.txns.isEmpty || s.fw.any fun j => j.phase == 2)

/-- An update ends otherwise than with OK. Unless a header check has failed, its target slot is EMPTY (R410, R412). -/
def State.fwEnd (s : State) (header : Bool) (code d0 : Nat) : State :=
  match s.fw with
  | some j =>
    if j.opcode ≠ 0x0048 then s
    else
      let s1 := if !header then s.setFwSlot j.toB ⟨0, [], [], false⟩ else s
      let s2 := ({ s1 with fw := none }.setFld FWU_STAT 13 12 0).setFld FWU_STAT 11 4 0
      (((s2.showFw.showNv.wrN FWU_CODE code).evt FWU_EVT 1).complete j.tag 0x0048 code d0 0 0)
  | none => s

/-- A watched condition ends an update with FW_ABORTED; DETAIL0 names it. A page program under way ends with it. -/
def State.fwAbort (s : State) (condition : Nat) : State := s.fwEnd false 0x181A condition

/-- Touchdown begins: fault injection stops and an update ends. -/
def State.touchdownBegins (s : State) : State := s.fiStop.fwAbort 0x1802

end Sys2Proof.Machine
end

