-- ==== Sys2Proof/Machine/Wave.lean ====
section
/-!
DEFINITION. Machine/Wave.lean: waveform sequencers, the oscillator and the AWG outputs (Waveform Sequencing and the DACs, R195 to
R218). notes/assumptions/23.md.
-/

namespace Sys2Proof.Machine

/-! The sequence table (Tables 7.1 and 7.2). -/

structure SeqEntry where
  start : Nat
  length : Nat
  plays : Nat
  next : Nat
  adv : Nat
  forever : Bool
  isEnd : Bool
  valid : Bool
  event : Nat
  deriving DecidableEq, Repr

/-- Entry `e` of the sequence table of unit `u`. -/
def State.seqEntry (s : State) (u e : Nat) : SeqEntry :=
  let w := fun i => s.rd (WFS_SEQ u (8 * e + i))
  let n := fun i => (w i).toNat
  { start := n 0 + 65536 * n 1, length := n 2 + 65536 * n 3, plays := n 4, next := bitsOf (w 5) 7 0
    adv := bitsOf (w 5) 9 8, forever := (w 5).getLsbD 10, isEnd := (w 5).getLsbD 11, valid := (w 5).getLsbD 15, event := bitsOf (w 6) 7 0 }

/-- A valid entry lies in waveform memory and has a legal length (Table 7.1). -/
def SeqEntry.ok (e : SeqEntry) : Bool := e.start ≤ 131071 && 8 ≤ e.length && e.length ≤ 131072 && e.start + e.length ≤ 131072

/-- The check of R199: every valid entry is in range and its NEXT, unless it ends, names a valid entry. -/
def State.tableOk (s : State) (u : Nat) : Bool :=
  (List.range 256).all fun k =>
    let e := s.seqEntry u k
    !e.valid || (e.ok && (e.isEnd || (s.seqEntry u e.next).valid))

/-- WFS_STAT.STATE: 0 IDLE, 1 RUNNING, 2 ENDED. -/
def State.wfsState (s : State) (u : Nat) : Nat := s.fld (WFS_STAT u) 15 14
/-- The entry at the DAC. -/
def State.wfsEntry (s : State) (u : Nat) : SeqEntry := s.seqEntry u (s.fld (WFS_STAT u) 7 0)
/-- Clocks of one granule, and of one repetition of the entry (R200). -/
def State.granuleClocks (s : State) (u : Nat) : Nat := 32 * (s.wfs u).hold
def State.repClocks (s : State) (u : Nat) : Nat := (s.wfsEntry u).length * s.granuleClocks u

/-- The physical AWG that performs the duty of unit `u` (R316). -/
def State.awgPhys (s : State) (u : Nat) : Nat :=
  if u < 16 ∧ s.bit (CAL_SUB_AWG (u / 4)) 13 ∧ s.fld (CAL_SUB_AWG (u / 4)) 1 0 = u % 4 then 16 + u / 4 else u

/-- Unit `u` is a spare that performs another unit's duty: its own settings are kept but not applied, and its own commands wait for no
clock of that duty, so they do nothing (R316; DESIGN CHOICE, log entry 30). -/
def State.awgServes (s : State) (u : Nat) : Bool := decide (16 ≤ u) && s.bit (CAL_SUB_AWG (u - 16)) 13

/-- The first point `origin + k × step` that lies at or after `from_`. -/
def nextPoint (origin step from_ : Nat) : Nat := if from_ ≤ origin then origin else origin + (from_ - origin + step - 1) / step * step

/-! The oscillator (R207 to R210). -/

/-- π × 2^64, rounded down. -/
def piFixed : Nat := 57952155664616982739

/-- Terms of the sine series in units of 2^-64, from term `t` of odd order `2k - 1`, squared angle `x2` in the same units. -/
def sineSeries (x2 : Nat) : Nat → Nat → Nat → Int
  | 0, _, _ => 0
  | n + 1, k, t => (t : Int) - sineSeries x2 n (k + 1) (t * x2 / 2 ^ 64 / (2 * k * (2 * k + 1)))

/-- The NCO value for the top 20 phase bits: round(32,767 × sin(2π p ÷ 2^20)) (R210). -/
def ncoValue (p : Nat) : Int :=
  let quarter := p % 2 ^ 20 / 2 ^ 18
  let r := p % 2 ^ 18
  let m := if quarter % 2 = 1 then 2 ^ 18 - r else r
  let x := m * piFixed / 2 ^ 19
  let mag := (32767 * sineSeries (x * x / 2 ^ 64) 14 1 x + 2 ^ 63) / 2 ^ 64
  if quarter < 2 then mag else -mag

/-- The settings of unit `u` in force that form samples. -/
def State.oscNow (s : State) (u : Nat) : OscSet :=
  ⟨s.fld (WFS_CFG u) 15 14, s.fld (WFS_CFG u) 13 12, s.rdN (WFS_BIND u), s.wide (WFS_FTW u) 3, s.rdN (WFS_POFF u), s.fld (WFS_NCO_AMP u) 14 0⟩

/-- The settings that act on the sample of clock `c`: those in force 64 clocks before (R201, R209). -/
def State.oscAt (s : State) (u c : Nat) : OscSet := if c < (s.wfs u).oldTill then (s.wfs u).old else s.oscNow u

/-- The committed vector time of a context, in slots, at the half clock `t` (R208). -/
def phaseSum : List PhaseRun → Nat → Nat
  | [], _ => 0
  | r :: rest, t => if r.start ≤ t ∨ rest.isEmpty then r.base + r.period * min r.count ((t - r.start) / r.period) else phaseSum rest t

/-- A(`c`) in CONTINUOUS mode, from the accumulator `w.acc`, where `ftw` follows `w.old.ftw` from sample `w.oldTill` on. -/
def Wfs.accFrom (w : Wfs) (ftw c : Nat) : Nat :=
  let before := min c (w.oldTill - 1) - w.accAt
  (w.acc + w.old.ftw * before + ftw * (c - w.accAt - before)) % 2 ^ 48

/-- A(c) of Table 7.3 under the settings `o`; P is that of the bound caravan's own context 64 clocks before. -/
def State.ncoAccOf (s : State) (u : Nat) (o : OscSet) (c : Nat) : Nat :=
  match o.mode with
  | 1 => o.ftw * (s.timeOf c / 65536) % 2 ^ 48
  | 2 => o.ftw * (phaseSum (s.ctx (o.bind % 64)).phases (2 * (c - 64)) / 2) % 2 ^ 48
  | _ => (s.wfs u).accFrom (s.oscNow u).ftw c

/-- The phase φ(c). -/
def State.ncoPhase (s : State) (u c : Nat) : Nat := (s.ncoAccOf u (s.oscAt u c) c + (s.oscAt u c).poff * 2 ^ 32) % 2 ^ 48

/-- The clock at which the output sample of clock `c` was formed (R200). -/
def State.formedAt (s : State) (u c : Nat) : Nat := (s.wfs u).at_ + (c - (s.wfs u).at_) / (s.wfs u).hold * (s.wfs u).hold

/-- The segment sample G that the DAC shows in clock `c`. -/
def State.segmentSample (s : State) (u c : Nat) : Int :=
  let e := s.wfsEntry u
  let w := s.wfs u
  let n := (c - w.at_) / w.hold % (32 * e.length)
  let a := 2 * (32 * e.start + n)
  let byte := fun i => (tabGet (fun _ => (0#8 : Byte)) w.mem (a + i)).toNat
  signed 16 (byte 0 + 256 * byte 1)

/-- A SUM result before it saturates. -/
def State.sumSample (s : State) (u c : Nat) : Int :=
  s.segmentSample u c + ((s.oscAt u c).amp * ncoValue (s.ncoPhase u c / 2 ^ 28)) / 32768

/-- A code saturates at the ends of the code range. -/
def saturate16 (v : Int) : Int := max (-32768) (min 32767 v)

/-- A sequencer sample leaves the DAC in clock `c`. -/
def State.sampleDue (s : State) (u c : Nat) : Bool :=
  s.wfsState u == 1 && (s.wfs u).at_ ≤ c && !(s.wfs u).stopAt.any (·.1 ≤ c)

/-- The output sample formed at clock `c` (Table 7.4). -/
def State.outSample (s : State) (u c : Nat) : Int :=
  let v := ncoValue (s.ncoPhase u c / 2 ^ 28)
  match (s.oscAt u c).src with
  | 0 => s.segmentSample u c
  | 1 => ((s.oscAt u c).amp * v) / 32768
  | 2 => (s.segmentSample u c * v) / 32768
  | _ => saturate16 (s.sumSample u c)

/-- The code that the DAC of unit `u` receives in clock `c`: the sample formed last, held for HOLD clocks (R200); the park code when no
sample is due. -/
def State.dacCode (s : State) (u c : Nat) : Int := if !s.sampleDue u c then 0 else s.outSample u (s.formedAt u c)

/-- The routed-pad voltage before limiting, in voltage codes times 32,768 (R211). -/
def State.awgVolts (s : State) (u c : Nat) : Int :=
  (voltActed (s.rdN (AWG_OFFSET u)) : Int) * 32768 + s.dacCode u c * (2000 * 2 ^ s.fld (AWG_OUT u) 10 9 : Nat)

/-! Running, advancing and stopping (R202 to R206). -/

/-- The refusals of a start, in order. -/
def State.wfsStartCode (s : State) (u : Nat) : Option Nat :=
  let first := s.fld (WFS_START_ENT u) 7 0
  if s.wfsState u = 1 then some 0x1003
  else if !(s.seqEntry u first).valid || !s.tableOk u then some 0x1004
  else if s.fld (WFS_CFG u) 13 12 = 2 ∧ (!s.bit (WFS_BIND u) 15 || (findCaravan s.casting (s.fld (WFS_BIND u) 5 0)).isNone) then some 0x1005
  else s.thermalCode [zoneOf (unitOfAwg (s.awgPhys u))]

/-- WFS_CTL.START at its tick. -/
def wfsStart (u : Nat) (s : State) : State :=
  if u ≥ 20 || s.awgServes u then s
  else
    match s.wfsStartCode u with
    | some code => ((s.wrN (WFS_CODE u) code).evt (WFS_EVT u) 0).refuse (WFS_CTL u) code
    | none =>
      let first := s.fld (WFS_START_ENT u) 7 0
      let t := s.time.up
      let w := { s.wfs u with hold := s.fld (WFS_CFG u) 11 0 + 1, at_ := t + 64, next := none, stopAt := none, acc := 0, accAt := t + 64 }
      ((s.setWfs u w).wrN (WFS_STAT u) (0x4000 + first)).calPreempt (unitOfAwg (s.awgPhys u))

/-- The sequencer ends with a code; mute and route stay as they are (R206). -/
def wfsEnd (u code : Nat) (s : State) : State :=
  let s1 := s.setWfs u { s.wfs u with next := none, stopAt := none }
  ((s1.setFld (WFS_STAT u) 15 14 2).wrN (WFS_CODE u) code).evt (WFS_EVT u) 1

/-- The sequencer is to send the park code from the first granule boundary `lead` clocks or more from now, and ends there. -/
def wfsStopAt (u lead code : Nat) (s : State) : State :=
  if s.wfsState u ≠ 1 then s
  else
    let b := nextPoint (s.wfs u).at_ (s.granuleClocks u) (s.time.up + lead)
    match (s.wfs u).stopAt with
    | some (d, _) => if d ≤ b then s else s.setWfs u { s.wfs u with stopAt := some (b, code) }
    | none => s.setWfs u { s.wfs u with stopAt := some (b, code) }

/-- WFS_CTL.STOP at its tick (R206). -/
def wfsStop (u : Nat) (s : State) : State := if u ≥ 20 then s else wfsStopAt u 64 0x1011 s

/-- The entry advances at clock `b`: to NEXT, or to the end of the sequence (R198, R205). -/
def wfsAdvanceAt (u b : Nat) (s : State) : State :=
  let e := s.wfsEntry u
  let s1 := s.evt (WFS_EVT u) 2
  if e.isEnd then wfsEnd u 0x1010 s1
  else
    let s2 := s1.setWfs u { s1.wfs u with at_ := b, next := none }
    (s2.setFld (WFS_STAT u) 7 0 e.next).setWide (WFS_ADV_T u) 4 (s2.timeOf b)

/-- A decided stop or advance whose clock has come takes place. The end of the sequence ends the sequencer before a later stop (R206). -/
def wfsSettle (u : Nat) (s : State) : State :=
  if s.wfsState u ≠ 1 then s
  else
    let s1 := match (s.wfs u).next with
      | some (b, _) => if b ≤ s.time.up ∧ ¬ (s.wfs u).stopAt.any (·.1 ≤ b) then wfsAdvanceAt u b s else s
      | none => s
    if s1.wfsState u ≠ 1 then s1
    else match (s1.wfs u).stopAt with
      | some (d, code) => if d ≤ s1.time.up then wfsEnd u code s1 else s1
      | none => s1

/-- An event or ADVANCE that no listening entry hears is ignored and counted (R203, R205). -/
def wfsIgnore (u : Nat) (s : State) : State := (s.inc (WFS_IGN_CNT u)).evt (WFS_EVT u) 4

/-- The entry at the DAC listens in the present clock for its mode `adv`. -/
def State.wfsListens (s : State) (u : Nat) (adv : List Nat) : Bool :=
  s.wfsState u == 1 && (s.wfs u).at_ ≤ s.time.up && adv.contains (s.wfsEntry u).adv

/-- A listening entry hears its event in the present clock and its advance is decided (R204). -/
def wfsHear (u : Nat) (s : State) : State :=
  let w := s.wfs u
  let e := s.time.up
  match w.next with
  | some (_, d) => if d = e then s else wfsIgnore u s
  | none =>
    if (s.wfsEntry u).adv = 2 then s.setWfs u { w with next := some (nextPoint w.at_ (s.granuleClocks u) (e + 64), e) }
    else
      let rep := s.repClocks u
      let b := nextPoint w.at_ rep (e + 64)
      let s1 := s.setWfs u { w with next := some (b, e) }
      if b = w.at_ + ((e - w.at_) / rep + 1) * rep then s1 else (s1.inc (WFS_DEF_CNT u)).evt (WFS_EVT u) 3

/-- WFS_CTL.ADVANCE at its tick (R205). -/
def wfsAdvance (u : Nat) (s : State) : State :=
  if u ≥ 20 then s
  else
    let s1 := wfsSettle u s
    if s1.wfsListens u [3] then wfsHear u s1 else wfsIgnore u s1

/-- An event is released on the module event bus: what the sequencers hear (R203). -/
def wfsEvent (code : Nat) (caravan : Option Nat) (s : State) : State :=
  s.each (List.range 20) fun t u =>
    if t.wfsState u ≠ 1 then t
    else
      let t1 := wfsSettle u t
      if t1.wfsState u ≠ 1 then t1
      else if t1.bit (WFS_BIND u) 15 && caravan ≠ some (t1.fld (WFS_BIND u) 5 0) then t1
      else if t1.wfsListens u [1, 2] && (t1.wfsEntry u).event == code then wfsHear u t1
      else wfsIgnore u t1

/-- Settings of the oscillator take effect at a tick over `old`: they act on samples 64 clocks later (R201, R209). A change to CONTINUOUS
goes on from the accumulator of the sample before (DEDUCED, log entry 23). -/
def wfsNcoCommit (u : Nat) (old : OscSet) (s : State) : State :=
  let w := s.wfs u
  let t := s.time.up
  let w1 :=
    if t + 64 ≤ w.accAt then w
    else if old.mode = 1 ∨ old.mode = 2 then { w with acc := s.ncoAccOf u old (t + 63), accAt := t + 63 }
    else { w with acc := w.accFrom old.ftw (max w.accAt t), accAt := max w.accAt t }
  s.setWfs u { w1 with old := old, oldTill := t + 64 }

/-- A write to the sequence table (R199, R316), whose reserved bits stay 0 (R4, Table 7.1). -/
def wfsTableWrite (u k v : Nat) (s : State) : State :=
  if u ≥ 20 ∨ k ≥ 2048 then s
  else if s.wfsState u = 1 then s.evt (WFS_EVT u) 6
  else if u < 16 ∧ s.bit (CAL_SUB_AWG (u / 4)) 14 ∧ s.fld (CAL_SUB_AWG (u / 4)) 1 0 = u % 4 then s.wrN CALC_CODE 0x142A
  else s.wr (WFS_SEQ u k) (BitVec.ofNat 16 v &&& maskAt .rw (WFS_SEQ u k))

/-! Waveform memory (R195). -/

/-- The refusal of a load of `n` granules from granule `g` into unit `u`. -/
def State.waveCode (s : State) (u g n : Nat) : Option Nat :=
  if g + n > 131072 then some 0x1001
  else if u < 16 ∧ s.bit (CAL_SUB_AWG (u / 4)) 14 ∧ s.fld (CAL_SUB_AWG (u / 4)) 1 0 = u % 4 then some 0x142A
  else if s.wfsState u = 1 ∧ (List.range 256).any (fun k =>
      let e := s.seqEntry u k
      e.valid && g < e.start + e.length && e.start < g + n) then some 0x1002
  else none

/-- Granules written by one load become visible together. Each keeps the waybill of its block, whose origin address is `origin` for the
first (R196, R375). -/
def State.waveWrite (s : State) (u g origin : Nat) (data : List Byte) : State :=
  let bill := fun i =>
    let o := origin + i
    o * 2 ^ 32 + (crc32c (Sys2Proof.slice data (64 * i) 64 ++ leBytes 5 o)).toNat
  s.setWfs u { s.wfs u with
    mem := memStore (s.wfs u).mem (64 * g) data
    bills := (List.range (data.length / 64)).foldl (fun m i => tabSet (fun _ => 0) m (g + i) (bill i)) (s.wfs u).bills }

/-! Output, mute and routing (R211 to R215). -/

/-- The pin channel of the ROUTE record that AWG_OUT selects. -/
def State.awgRoute (s : State) (u : Nat) : Option Nat :=
  (s.casting.routes.find? fun r => r.kind == 2 && r.unit == u && r.slot == s.fld (AWG_OUT u) 14 12).map (·.channel)

/-- The pin's settings in force let an AWG connect. -/
def State.pinTakesAwg (s : State) (ch : Nat) : Bool :=
  !s.drvVector ch && !s.bit (PIN_MODE ch) 13 && (s.pmuSet ch == 0 || s.pmuSet ch == 3)

/-- The route switch opens. -/
def awgOpen (u : Nat) (s : State) : State := (s.setAwg u { s.awg u with route := none }).setBit (AWG_STAT u) 1 false

/-- The route switch at a tick: it connects where every condition of R213 holds, and otherwise stays open with the bit of the first
that fails. -/
def awgConnect (u : Nat) (s : State) : State :=
  if !s.bit (AWG_OUT u) 11 || s.awgServes u then awgOpen u s
  else
    match s.awgRoute u with
    | none => (awgOpen u s).evt (AWG_EVT u) 0
    | some ch =>
      if (s.awg u).route = some ch then s
      else if (List.range 20).any fun x => x ≠ u && (s.awg x).route == some ch then (awgOpen u s).evt (AWG_EVT u) 1
      else if !s.pinTakesAwg ch then (awgOpen u s).evt (AWG_EVT u) 2
      else (s.setAwg u { s.awg u with route := some ch }).setBit (AWG_STAT u) 1 true

/-- AWG_OUT selects another route than the one connected, which then opens first. -/
def awgRelease (u : Nat) (s : State) : State :=
  if (s.awg u).route.isSome && (!s.bit (AWG_OUT u) 11 || s.awgRoute u ≠ (s.awg u).route) then awgOpen u s else s

/-- The driver trip that holds the mute switch open has recovered, at whatever pin the route now ends (R215). -/
def State.awgTripOver (s : State) (u : Nat) : Bool := !(s.awg u).trip.any fun ch => s.bit (PIN_STAT ch) 14

/-- The mute switch closes, which ends a calibration of the AWG (R309). -/
def awgClose (u : Nat) (s : State) : State := (s.setBit (AWG_STAT u) 0 true).calPreempt (unitOfAwg (s.awgPhys u))

/-- AWG_OUT takes effect at a tick over `old` (R212 to R215). -/
def awgOutCommit (u : Nat) (old : Word) (s : State) : State :=
  let s1 := awgConnect u s
  let out := s1.bit (AWG_OUT u) 15 && !s.awgServes u
  let free := !s1.bit (AWG_STAT u) 3 || s1.awgTripOver u
  let s2 := if out && free then (s1.setBit (AWG_STAT u) 3 false).setAwg u { s1.awg u with trip := none } else s1
  if bitsOf old 10 9 ≠ s.fld (AWG_OUT u) 10 9 then
    ((s2.setBit (AWG_STAT u) 0 false).setAwg u { s2.awg u with ranging := some (s.time.up + 6000) }).setBit (AWG_STAT u) 2 true
  else if s2.bit (AWG_STAT u) 2 then s2
  else if out && free then awgClose u s2 else s2.setBit (AWG_STAT u) 0 false

/-- The ranging interval ends: the mute switch closes again where OUT holds it closed (R214). -/
def awgReclose (u : Nat) (s : State) : State :=
  let s1 := (s.setAwg u { s.awg u with ranging := none }).setBit (AWG_STAT u) 2 false
  if s1.bit (AWG_OUT u) 15 && !s1.awgServes u && !s1.bit (AWG_STAT u) 3 then awgClose u s1 else s1

/-- A pin's settings take effect: an AWG connected to it that they no longer allow opens (R213). -/
def awgPinCheck (ch : Nat) (s : State) : State :=
  s.each (List.range 20) fun t u =>
    if (t.awg u).route = some ch ∧ ¬ t.pinTakesAwg ch then (awgOpen u t).evt (AWG_EVT u) 2 else t

/-- A driver trip reaches pins: the mute switch of every AWG connected to one opens (R215). -/
def awgTrip (chs : List Nat) (s : State) : State :=
  s.each (List.range 20) fun t u =>
    if (t.awg u).route.any chs.contains then
      (((t.setAwg u { t.awg u with trip := (t.awg u).route }).setBit (AWG_STAT u) 0 false).setBit (AWG_STAT u) 3 true).evt (AWG_EVT u) 3
    else t

/-- A casting apply opens the routes that it removes. -/
def awgRoutesKept (s : State) : State :=
  s.each (List.range 20) fun t u => if (t.awg u).route.isSome && t.awgRoute u ≠ (t.awg u).route then awgOpen u t else t

/-- The granules of the present entry that carry an origin address. -/
def State.granulesOf (s : State) (u origin : Nat) : List Nat :=
  let e := s.wfsEntry u
  (s.wfs u).bills.filterMap fun b =>
    if b.2 / 2 ^ 32 = origin ∧ e.start ≤ b.1 ∧ b.1 < e.start + e.length then some (b.1 - e.start) else none

/-- A granule fails a second time (R196): the sequencer sends the park code from that granule's next playback on and ends there with
WAYBILL_REPEAT. A granule that does not play ends nothing. -/
def wfsGranuleLost (u origin : Nat) (s : State) : State :=
  let w := s.wfs u
  let at_ := fun k => nextPoint (w.at_ + k * s.granuleClocks u) (s.repClocks u) s.time.up
  match ((s.granulesOf u origin).map at_).min? with
  | none => s
  | some b =>
    if s.wfsState u ≠ 1 then s
    else match w.stopAt with
      | some (d, _) => if d ≤ b then s else s.setWfs u { w with stopAt := some (b, 0x1701) }
      | none => s.setWfs u { w with stopAt := some (b, 0x1701) }

/-! The rows. -/

/-- WFS_START (R202). -/
def execWfsStart (u : Nat) (s : State) : Host.Outcome State Fault Refusal := .next (s.whenReady fun s => wfsStart u s)

/-- WFS_STOP (R206). -/
def execWfsStop (u : Nat) (s : State) : Host.Outcome State Fault Refusal := .next (s.whenReady fun s => wfsStop u s)

/-- WFS_ADVANCE (R205). -/
def execWfsAdvance (u : Nat) (s : State) : Host.Outcome State Fault Refusal := .next (s.whenReady fun s => wfsAdvance u s)

/-- ENTRY_ADVANCE (R204): a decided advance takes place. -/
def execEntryAdvance (u : Nat) (s : State) : Host.Outcome State Fault Refusal :=
  .next (if u ≥ 20 ∨ s.wfsState u ≠ 1 then s
    else match (s.wfs u).next with
      | some (b, _) => s.atDue b (wfsSettle u)
      | none => s)

/-- AUTO_ADVANCE (R198): an AUTO entry has played PLAYS + 1 times; or the clock of a decided stop has come (R206). -/
def execAutoAdvance (u : Nat) (s : State) : Host.Outcome State Fault Refusal :=
  .next (if u ≥ 20 ∨ s.wfsState u ≠ 1 then s
    else
      let e := s.wfsEntry u
      let b := (s.wfs u).at_ + (e.plays + 1) * s.repClocks u
      match (s.wfs u).stopAt with
      | some (d, _) =>
        if e.adv = 0 ∧ ¬ e.forever ∧ b ≤ d then s.atDue b (wfsAdvanceAt u b) else s.atDue d (wfsSettle u)
      | none => if e.adv = 0 ∧ ¬ e.forever then s.atDue b (wfsAdvanceAt u b) else s)

/-- WFS_TABLE_WRITE (R199): register `k` of the sequence table. -/
def execWfsTableWrite (u k v : Nat) (s : State) : Host.Outcome State Fault Refusal := .next (s.whenReady fun s => wfsTableWrite u k v s)

/-- AWG_MUTE_RECLOSE (R214). -/
def execAwgMuteReclose (u : Nat) (s : State) : Host.Outcome State Fault Refusal :=
  .next (match (s.awg u).ranging with
    | none => s
    | some d => s.atDue d (awgReclose u))

/-- SAMPLE_SATURATED (R210): the SUM sample formed in the present clock lies outside the code range. -/
def execSampleSaturated (u : Nat) (s : State) : Host.Outcome State Fault Refusal :=
  .next (let c := s.time.up
    let v := s.sumSample u c
    if s.sampleDue u c && s.formedAt u c == c && (s.oscAt u c).src == 3 && saturate16 v ≠ v then (s.inc (WFS_SAT_CNT u)).evt (WFS_EVT u) 5 else s)

/-- OUTPUT_STAGE_LIMIT (R211): the output stage begins or ceases to limit in the present clock. -/
def execOutputStageLimit (u : Nat) (s : State) : Host.Outcome State Fault Refusal :=
  .next (let v := s.awgVolts u s.time.up
    if u ≥ 20 then s
    else if v < 0 ∨ v > 56000 * 32768 then (s.setBit (AWG_STAT u) 4 true).evt (AWG_EVT u) 4
    else s.setBit (AWG_STAT u) 4 false)

end Sys2Proof.Machine
end

