-- ==== Sys2Proof/Machine/Acquire.lean ====
section
/-!
DEFINITION. Machine/Acquire.lean: the digitizers: input, triggers, segments, results and stream-through capture (R220 to R243).
notes/assumptions/24.md.
-/

namespace Sys2Proof.Machine

/-! The sample grid (R223). -/

/-- The clock of `up` of the first sample instant at or after the present clock. -/
def State.sampleNow (s : State) : Nat :=
  let c := s.time.clock.toNat
  s.time.up + min ((6 - c % 6) % 6) (clockSpan - c)

/-- Sample instants in one wrap of the clock count; the last interval is 4 clocks. -/
def wrapSamples : Nat := (clockSpan + 5) / 6

/-- The clock of the `n`-th sample instant after the sample at clock `u`. -/
def State.nthSample (s : State) (u n : Nat) : Nat :=
  let c := s.timeOf u / 65536
  let j := c / 6 + n
  u + (j / wrapSamples * clockSpan + 6 * (j % wrapSamples) - c)

/-- Sample instants after the sample at clock `u`, up to clock `v`. -/
def State.samplesTo (s : State) (u v : Nat) : Nat :=
  let c := s.timeOf u / 65536
  let d := c + (v - u)
  d / clockSpan * wrapSamples + d % clockSpan / 6 - c / 6

/-- The clocks from one sample instant to the sample at clock `u`. -/
def State.sampleStep (s : State) (u : Nat) : Nat := if s.timeOf u / 65536 = 0 then 4 else 6

/-! Samples (R220, R221). -/

/-- round(n ÷ d), for d above 0. -/
def roundInt (n d : Int) : Int := (2 * n + d) / (2 * d)

/-- The half-range, in nanovolts. -/
def State.acqRange (s : State) (u : Nat) : Int := 250000000 * 2 ^ s.fld (ACQ_IN u) 11 10

/-- The result for an input of `nv` nanovolts before it saturates (R221); a voltage code is 125 µV. While the route is open the input is
held at the centre voltage (R220). -/
def State.acqResult (s : State) (u : Nat) (nv : Int) : Int :=
  if (s.acq u).route.isNone then 0
  else roundInt ((nv - ((voltActed (s.rdN (ACQ_OFFSET u)) : Int) - 8000) * 125000) * 32768) (s.acqRange u)

/-- The sample, saturated at the ends of the code range. -/
def State.acqCode (s : State) (u : Nat) (nv : Int) : Int := saturate16 (s.acqResult u nv)

/-! States and settings. -/

/-- ACQ_STAT.STATE: 0 IDLE, 1 FILLING, 2 WAITING, 3 POST, 4 REARM, 5 DONE. -/
def State.acqState (s : State) (u : Nat) : Nat := s.fld (ACQ_STAT u) 15 13
def State.setAcqState (s : State) (u v : Nat) : State := s.setFld (ACQ_STAT u) 15 13 v

/-- A segment is in progress. -/
def State.segOpen (s : State) (u : Nat) : Bool := [1, 2, 3].contains (s.acqState u)

/-- A flag of the segment in progress (Table 8.2). -/
def State.segFlag (s : State) (u b : Nat) : State :=
  if s.segOpen u then s.setAcq u { s.acq u with flags := (s.acq u).flags ||| 2 ^ b } else s

/-- Samples per slot, header included, and the segment capacity (R232). -/
def slotSamples (n : Nat) : Nat := 2 ^ 28 / n / 32 * 32
def segCapacity (n : Nat) : Nat := slotSamples n - 32

/-- PRE and POST in force (R233). -/
def State.acqPre (s : State) (u : Nat) : Nat := s.wide (ACQ_PRE u) 2
def State.acqPost (s : State) (u : Nat) : Nat := if s.bit (ACQ_MODE u) 14 then 2 ^ 48 else s.wide (ACQ_POST u) 3

/-- The physical unit that performs the duty of unit `u` (R316). -/
def State.acqPhys (s : State) (u : Nat) : Nat :=
  if u < 16 ∧ s.bit (CAL_SUB_ACQ (u / 4)) 13 ∧ s.fld (CAL_SUB_ACQ (u / 4)) 1 0 = u % 4 then 16 + u / 4 else u

/-- Unit `u` is a spare that performs another unit's duty (R316): its own settings are kept but not applied, and an arm in its own window
does nothing (DESIGN CHOICE, log entry 30). -/
def State.acqServes (s : State) (u : Nat) : Bool := decide (16 ≤ u) && s.bit (CAL_SUB_ACQ (u - 16)) 13

/-- The unit base in device memory (R331). -/
def unitBase (u : Nat) : Nat :=
  let q := if u < 16 then u / 4 else u - 16
  q * 2 ^ 34 + 0x340000000 + (if u < 16 then u % 4 else 4) * 2 ^ 29

/-- The pin channel of the ROUTE record that ACQ_IN selects. -/
def State.acqRoute (s : State) (u : Nat) : Option Nat :=
  (s.casting.routes.find? fun r => r.kind == 1 && r.unit == u && r.slot == s.fld (ACQ_IN u) 14 12).map (·.channel)

/-! Arming (R233, R234). -/

/-- The refusals of an arm, in order, with those of a cast-out stack and of a hot zone after them (R322, R432). -/
def State.acqArmCode (s : State) (u : Nat) : Option Nat :=
  let cap := segCapacity (s.rdN (ACQ_SEGS u) + 1)
  let stream := s.bit (ACQ_MODE u) 15
  let pre := s.acqPre u
  let post := s.acqPost u
  if s.segOpen u || s.acqState u == 4 then some 0x1103
  else if post = 0 then some 0x1104
  else if !stream && post > cap then some 0x1101
  else if (if stream then pre > 65536 else pre + post > cap) then some 0x1102
  else if stream && (s.wide (ACQ_STRM_ADDR u) 4 % 64 ≠ 0 || s.wide (ACQ_STRM_BLK u) 2 < 16) then some 0x1105
  else if s.bit CAL_STACK_STAT (8 + unitQuadrant u) then some 0x1432
  else s.thermalCode [zoneOf (unitOfAcq (s.acqPhys u)), 32 + unitQuadrant u]

/-- A segment begins at clock `at_`, which is its first kept sample's. -/
def beginSegment (u at_ : Nat) (s : State) : State :=
  let a := s.acq u
  let flags := if s.bit (ACQ_STAT u) 9 then 32 else 0
  let wait := if a.pre = 0 then at_ else s.nthSample at_ ((a.pre - 1) * a.decim + 1)
  (s.setAcq u { a with first := at_, waitAt := wait, trig := none, flags := flags, written := none, shut := a.route.isNone }).setAcqState u
    (if a.pre = 0 then 2 else 1)

/-- ACQ_CTL.ARM at its tick. -/
def acqArm (u : Nat) (s : State) : State :=
  if u ≥ 20 || s.acqServes u then s
  else
    match s.acqArmCode u with
    | some code => ((s.wrN (ACQ_CODE u) code).evt (ACQ_EVT u) 0).refuse (ACQ_CTL u) code
    | none =>
      let a := s.acq u
      let s1 := s.setAcq u { a with
        segs := s.rdN (ACQ_SEGS u) + 1, pre := s.acqPre u, post := s.acqPost u, decim := s.rdN (ACQ_DECIM u) + 1
        stream := s.bit (ACQ_MODE u) 15, seg := 0 }
      let s2 := s1.setQueue (ACQ_RES_STAT u) { s1.queue (ACQ_RES_STAT u) with items := [], seen := false }
      let s3 := ((s2.wrN (ACQ_RES_QUEUED u) 0).setWide (ACQ_STRM_PROD u) 3 0).setWide (ACQ_STRM_CONS u) 3 0
      beginSegment u s3.sampleNow (s3.calPreempt (unitOfAcq (s3.acqPhys u)))

/-- A source is ignored (R230). -/
def acqIgnore (u : Nat) (s : State) : State := ((s.inc (ACQ_IGN_CNT u)).evt (ACQ_EVT u) 3).segFlag u 6

/-- The lowest source of a mask. -/
def lowestSource (m : Nat) : Nat := if m % 2 = 1 then 0 else if m / 2 % 2 = 1 then 1 else if m / 4 % 2 = 1 then 2 else 3

/-- The trigger settings that the header records, as in force now. -/
def State.trigSettings (s : State) (u : Nat) (t : Trig) : Trig :=
  { t with range := s.fld (ACQ_IN u) 11 10, offset := s.rdN (ACQ_OFFSET u), route := s.fld (ACQ_IN u) 14 12, channel := (s.acqRoute u).getD 0 }

/-- A source is judged at its assigned sample: the trigger fires once for all sources of one sample, and a source found while the
digitizer is not WAITING is ignored. -/
def acqJudge (u : Nat) (f : Found) (s : State) : State :=
  let a := s.acq u
  if s.acqState u = 2 then
    let k := (s.samplesTo a.first f.assigned + a.decim - 1) / a.decim
    let t : Trig := s.trigSettings u
      { assigned := f.assigned, sources := f.mask, time := f.time, event := f.event, kept := s.nthSample a.first (k * a.decim)
        range := 0, offset := 0, route := 0, channel := 0 }
    (s.setAcq u { a with trig := some t }).setAcqState u 3
  else
    match a.trig with
    | some t =>
      if s.acqState u = 3 ∧ t.assigned = f.assigned then
        s.setAcq u { a with trig := some { t with
          sources := t.sources ||| f.mask, time := if lowestSource f.mask < lowestSource t.sources then f.time else t.time
          event := if f.mask / 2 % 2 = 1 then f.event else t.event } }
      else acqIgnore u s
    | none => acqIgnore u s

/-- A REARM whose next segment's first sample has come by clock `till` is over (R236). -/
def acqRearmed (u till : Nat) (s : State) : State :=
  if s.acqState u = 4 ∧ (s.acq u).first ≤ till then beginSegment u (s.acq u).first s else s

/-- A segment whose PRE samples are collected by clock `till` is WAITING (R234). -/
def acqFilled (u till : Nat) (s : State) : State := if s.acqState u = 1 ∧ (s.acq u).waitAt ≤ till then s.setAcqState u 2 else s

/-- A source found earlier is judged, at the state of its sample. -/
def acqJudgeAt (u : Nat) (s : State) (f : Found) : State := acqJudge u f (acqFilled u f.assigned (acqRearmed u f.assigned s))

/-- The digitizer is brought up to the present clock. -/
def acqSettle (u : Nat) (s : State) : State :=
  let now := s.time.up
  let l := (s.acq u).found
  let s1 := if l.isEmpty then s else
    (l.filter (·.assigned ≤ now)).foldl (acqJudgeAt u) (s.setAcq u { s.acq u with found := l.filter (now < ·.assigned) })
  acqFilled u now (acqRearmed u now s1)

/-- A source is found: it is judged when its assigned sample has come. -/
def acqRecognise (u mask at_ time event : Nat) (s : State) : State :=
  let s1 := acqSettle u s
  let f : Found := ⟨mask, at_, time, event⟩
  if at_ ≤ s1.time.up then acqJudge u f s1 else s1.setAcq u { s1.acq u with found := (s1.acq u).found ++ [f] }

/-- A full-rate sample `code`, after the sample `prev`, moves the trigger state; the answer tells whether it completes a rising or a
falling edge (R225). -/
def trigStep (upper lower : Int) (state : Nat) (code : Int) : Nat × Option Bool :=
  if code ≥ upper then (2, if state = 1 then some true else none)
  else if code < lower then (1, if state = 2 then some false else none)
  else (state, none)

/-- The thresholds U and L (Trigger state). -/
def State.trigUpper (s : State) (u : Nat) : Int := saturate16 (signed 16 (s.rdN (ACQ_TRIG_LVL u)) + s.fld (ACQ_TRIG_HYST u) 14 0)
def State.trigLower (s : State) (u : Nat) : Int := saturate16 (signed 16 (s.rdN (ACQ_TRIG_LVL u)) - s.fld (ACQ_TRIG_HYST u) 14 0)

/-- How long before the sample `v` the line from the sample `p` before it crosses the threshold `th`, in 1/65,536 clock (R231). -/
def crossedBefore (p v th : Int) (step : Nat) : Int :=
  let n := (v - th) * (step * 65536)
  if v < p then roundInt (-n) (p - v) else if v = p then n else roundInt n (v - p)

/-- The sample of the present instant is judged, from the input voltages of the sample before and of this one. The trigger time of an
edge is where the line between the samples crosses the threshold that completed it (R231). -/
def acqSample (u : Nat) (prev nv : Int) (s : State) : State :=
  if u ≥ 20 then s
  else
    let s1 := acqSettle u s
    let at_ := s1.sampleNow
    let v := s1.acqCode u nv
    let up := s1.trigUpper u
    let lo := s1.trigLower u
    let r := trigStep up lo (s1.fld (ACQ_STAT u) 12 11) v
    let s2 := s1.setFld (ACQ_STAT u) 12 11 r.1
    let slope := s1.fld (ACQ_TRIG u) 14 13
    match r.2 with
    | none => s2
    | some rising =>
      if !s2.bit (ACQ_TRIG u) 0 || !(slope == 2 || (rising && slope ≠ 1) || (!rising && slope == 1)) then s2
      else
        let back := crossedBefore (s1.acqCode u prev) v (if rising then up else lo) (s1.sampleStep at_)
        acqRecognise u 1 at_ (((s2.timeOf at_ : Int) - back) % (2 : Int) ^ 64).toNat 0 s2

/-- A module event is released at the pour line (R227): it is assigned to the first sample instant at or after the release. -/
def acqEvent (code : Nat) (caravan : Option Nat) (s : State) : State :=
  s.each (List.range 20) fun t u =>
    let w := t.rd (ACQ_TRIG_EVT u)
    if t.bit (ACQ_TRIG u) 1 && bitsOf w 7 0 == code && (bitsOf w 15 15 == 0 || caravan == some (bitsOf w 13 8)) then
      acqRecognise u 2 t.sampleNow (t.timeOf t.sampleNow) code t
    else t

/-- ACQ_CTL.FORCE at its tick. -/
def acqForce (u : Nat) (s : State) : State :=
  if u ≥ 20 then s
  else acqRecognise u 4 s.sampleNow (s.timeOf s.sampleNow) 0 s

/-! Segments (R234 to R237). -/

/-- Kept samples taken in the segment up to clock `v`, from its first kept sample. -/
def State.keptTo (s : State) (u v : Nat) : Nat := s.samplesTo (s.acq u).first v / (s.acq u).decim + 1

/-- The index of the earliest sample that the segment delivers, counted from its first kept sample. -/
def State.earliestKept (s : State) (u : Nat) (t : Trig) : Nat := s.samplesTo (s.acq u).first t.kept / (s.acq u).decim - (s.acq u).pre

/-- The segment header (Table 8.2). -/
def State.segHeader (s : State) (u seq written : Nat) (t : Trig) : List Byte :=
  let a := s.acq u
  let e := s.earliestKept u t
  let firstTime := s.timeOf (s.nthSample a.first (e * a.decim))
  let truncated := a.flags.testBit 2
  let lowest := if t.sources % 2 = 1 then 0 else if t.sources / 2 % 2 = 1 then 1 else if t.sources / 4 % 2 = 1 then 2 else 3
  [0x5A#8, 0x56#8, 0x53#8, 0x47#8] ++ leBytes 2 seq ++ leBytes 2 a.seg ++ leBytes 2 a.flags ++ leBytes 1 t.sources
    ++ leBytes 1 (if truncated then 0xFF else lowest) ++ leBytes 1 t.event ++ leBytes 1 t.range ++ leBytes 2 t.offset
    ++ leBytes 8 t.time ++ leBytes 8 firstTime ++ leBytes 4 a.pre ++ leBytes 4 a.decim ++ leBytes 8 a.post ++ leBytes 8 written
    ++ leBytes 1 (s.acqPhys u) ++ leBytes 1 t.route ++ leBytes 2 t.channel ++ leBytes 4 (if a.stream then 0 else e % (a.pre + a.post))

/-- Samples go to the segment's ring of PRE + POST positions from position `p`. -/
def ringStore (m : Tab Byte) (base size p : Nat) : List Nat → Tab Byte
  | [] => m
  | v :: vs => ringStore (memStore m (base + 2 * (p % size)) (leBytes 2 v)) base size (p + 1) vs

/-- The `n` samples to be written, of which the row carried `samples`: the code of the centre voltage where the route has been open since
the segment began, and free values where no row carried them. -/
def State.segSamples (s : State) (u n : Nat) (samples : List Nat) : List Nat × State :=
  if (s.acq u).shut then (List.replicate n 0, s)
  else
    let f := s.free16 (n - samples.length)
    ((samples ++ f.1).take n, f.2)

/-- The segment ends with `written` samples: its samples and header stand in capture memory and its result joins the queue. -/
def finishSegment (u written : Nat) (samples : List Nat) (t : Trig) (s : State) : State :=
  let wraps := clockSpan ≤ s.timeOf (s.acq u).first / 65536 + (s.time.up - (s.acq u).first)
  let s0 := if wraps then s.segFlag u 4 else s
  let a := s0.acq u
  let slot := unitBase (s0.acqPhys u) + a.seg * slotSamples a.segs * 2
  let f := s0.segSamples u written samples
  let s1 := if a.stream then s0 else
    { f.2 with mem := ringStore f.2.mem (slot + 64) (a.pre + a.post) (s0.earliestKept u t) f.1 }
  let seq := (s1.queue (ACQ_RES_STAT u)).seq
  let s2 := s1.memWrite slot (s1.segHeader u seq written t)
  let s3 := (s2.pushResult (ACQ_RES_STAT u) 0 [a.seg, a.flags]).setAcq u { a with written := some written }
  (s3.wrN (ACQ_RES_QUEUED u) (min 0xFFFF (s3.queue (ACQ_RES_STAT u)).items.length)).evt (ACQ_EVT u) 1

/-- The acquisition ends with a code. -/
def acqDone (u code : Nat) (s : State) : State := ((s.setAcqState u 5).wrN (ACQ_CODE u) code).evt (ACQ_EVT u) 2

/-- The acquisition ends at the present clock as a STOP does, with a code (R236, R432, R321). -/
def acqEndAs (u code : Nat) (s : State) : State :=
  let s1 := acqSettle u s
  if s1.acqState u = 3 then
    match (s1.acq u).trig with
    | some t =>
      let s2 := s1.segFlag u 2
      let n := s2.keptTo u s2.time.up - s2.earliestKept u t
      acqDone u code (finishSegment u (min n ((s2.acq u).pre + (s2.acq u).post)) [] t s2)
    | none => acqDone u code s1
  else if s1.segOpen u || s1.acqState u == 4 then acqDone u code s1
  else s1

/-- ACQ_CTL.STOP at its tick. -/
def acqStop (u : Nat) (s : State) : State := if u ≥ 20 then s else acqEndAs u 0x1111 s

/-- The last POST sample has been taken: the segment is complete, and the next one begins 600 clocks later at most, or the
acquisition is complete. -/
def segmentDone (u : Nat) (samples : List Nat) (t : Trig) (s : State) : State :=
  let a := s.acq u
  let s1 := finishSegment u (a.pre + a.post) samples t s
  if a.stream || a.seg + 1 ≥ a.segs then acqDone u 0x1110 s1
  else
    let f := s1.free
    let next := f.2.nthSample f.2.sampleNow (1 + f.1 % 100)
    ((f.2.setAcq u { f.2.acq u with seg := a.seg + 1, first := next, trig := none }).setAcqState u 4).arrive 1 u (yardCost 1) (.rearm u)

/-! Settings at a tick (R220 to R222, R225). -/

/-- The header records the settings in force at the trigger sample, which may lie after the sample that fired (R222). -/
def trigRefresh (u : Nat) (s : State) : State :=
  match (s.acq u).trig with
  | some t => if s.acqState u = 3 ∧ s.time.up ≤ t.kept then s.setAcq u { s.acq u with trig := some (s.trigSettings u t) } else s
  | none => s

/-- ACQ_IN, ACQ_OFFSET, ACQ_TRIG_LVL or ACQ_TRIG_HYST changes: the segment in progress is marked and the trigger state is
UNDETERMINED. -/
def acqChanged (u : Nat) (s : State) : State := trigRefresh u (((acqSettle u s).segFlag u 1).setFld (ACQ_STAT u) 12 11 0)

/-- ACQ_IN takes effect over `old`. -/
def acqInCommit (u : Nat) (old : Word) (s : State) : State :=
  let new := s.rd (ACQ_IN u)
  let r := if new.getLsbD 15 && !s.acqServes u then s.acqRoute u else none
  let s1 := (s.setAcq u { s.acq u with route := r, shut := (s.acq u).shut && r.isNone }).setBit (ACQ_STAT u) 10 r.isSome
  let s2 := if new.getLsbD 15 && r.isNone && !s.acqServes u then s1.evt (ACQ_EVT u) 5 else s1
  let s3 := if bitsOf old 11 10 ≠ bitsOf new 11 10 then
      ((s2.setAcq u { s2.acq u with ranging := some (s.time.up + 6000) }).setBit (ACQ_STAT u) 9 true).segFlag u 5 else s2
  if old = new then s3 else acqChanged u s3

/-- A casting apply opens the routes that it removes. -/
def acqRoutesKept (s : State) : State :=
  s.each (List.range 20) fun t u =>
    if (t.acq u).route.isSome && t.acqRoute u ≠ (t.acq u).route then (t.setAcq u { t.acq u with route := none }).setBit (ACQ_STAT u) 10 false
    else t

/-- ACQ_CAP reports the capacity for the ACQ_SEGS in force. -/
def acqCapacity (u : Nat) (s : State) : State := s.setWide (ACQ_CAP u) 2 (segCapacity (s.rdN (ACQ_SEGS u) + 1))

/-! Stream-through (R239, R240). -/

/-- Kept samples of the stream that have been taken so far, from the earliest. -/
def State.streamTaken (s : State) (u : Nat) (t : Trig) : Nat :=
  match (s.acq u).written with
  | some n => n
  | none => s.keptTo u s.time.up - s.earliestKept u t

/-- The next block of the stream is written to the host ring, where the host has left room for it and its samples have been taken. -/
def streamBlock (u : Nat) (samples : List Nat) (s : State) : State :=
  match (s.acq u).trig with
  | none => s
  | some t =>
    let a := s.acq u
    let n := s.wide (ACQ_STRM_PROD u) 3
    let blocks := s.wide (ACQ_STRM_BLK u) 2
    let taken := s.streamTaken u t
    let have_ := min 32 (taken - 32 * n)
    if !a.stream || blocks = 0 || n - s.wide (ACQ_STRM_CONS u) 3 ≥ blocks || have_ = 0 || (have_ < 32 && a.written.isNone) then s
    else
      let f := s.segSamples u have_ samples
      let data := (f.1 ++ List.replicate (32 - have_) 0).flatMap (leBytes 2)
      (f.2.hostWrite (s.wide (ACQ_STRM_ADDR u) 4 + 64 * (n % blocks)) data).setWide (ACQ_STRM_PROD u) 3 (n + 1)

/-! The rows. -/

/-- ACQ_CTL_ARM (R233). -/
def execAcqCtlArm (u : Nat) (s : State) : Host.Outcome State Fault Refusal := .next (s.whenReady fun s => acqArm u s)

/-- ACQ_CTL_STOP (R236). -/
def execAcqCtlStop (u : Nat) (s : State) : Host.Outcome State Fault Refusal := .next (s.whenReady fun s => acqStop u s)

/-- ACQ_FORCE (R226). -/
def execAcqForce (u : Nat) (s : State) : Host.Outcome State Fault Refusal := .next (s.whenReady fun s => acqForce u s)

/-- ACQ_TRIGGER (R229): the full-rate sample of this instant is judged; `prev` and `nv` are the input voltages in nanovolts at the sample
before and at this one. -/
def execAcqTrigger (u : Nat) (prev nv : Int) (s : State) : Host.Outcome State Fault Refusal := .next (acqSample u prev nv s)

/-- AUTO_TRIGGER (R228). -/
def execAutoTrigger (u : Nat) (s : State) : Host.Outcome State Fault Refusal :=
  .next (let s1 := acqSettle u s
    let d := s1.nthSample (s1.acq u).waitAt (512 * max 1 (s1.rdN (ACQ_AUTO u)))
    if u < 20 ∧ s1.bit (ACQ_TRIG u) 15 ∧ (s1.acqState u = 2 ∨ (s1.acqState u = 3 ∧ (s1.acq u).trig.any (·.assigned = d))) then
      s1.atDue d fun t => acqRecognise u 8 d (t.timeOf d) 0 t
    else s1)

/-- PRE_FILLED (R234). -/
def execPreFilled (u : Nat) (s : State) : Host.Outcome State Fault Refusal :=
  .next (let s1 := acqSettle u s
    if u < 20 ∧ s1.acqState u = 1 then s1.atDue (s1.acq u).waitAt (acqSettle u) else s1)

/-- SEGMENT_COMPLETE (R234). `samples` are the samples delivered, in order of time. -/
def execSegmentComplete (u : Nat) (samples : List Nat) (s : State) : Host.Outcome State Fault Refusal :=
  .next (let s1 := acqSettle u s
    if u < 20 ∧ s1.acqState u = 3 then
      match (s1.acq u).trig with
      | some t => s1.atDue (s1.nthSample t.kept (((s1.acq u).post - 1) * (s1.acq u).decim)) (segmentDone u samples t)
      | none => s1
    else s1)

/-- STREAM_BLOCK_WRITE (R239). -/
def execStreamBlockWrite (u : Nat) (samples : List Nat) (s : State) : Host.Outcome State Fault Refusal := .next (streamBlock u samples s)

/-- STREAM_OVERRUN (R240): the backlog reaches 2^28 samples. -/
def execStreamOverrun (u : Nat) (s : State) : Host.Outcome State Fault Refusal :=
  .next (match (s.acq u).trig with
    | some t =>
      let a := s.acq u
      if u < 20 ∧ a.stream ∧ s.acqState u = 3 then
        let last := s.earliestKept u t + 32 * s.wide (ACQ_STRM_PROD u) 3 + 2 ^ 28 - 1
        s.atDue (s.nthSample a.first (last * a.decim)) fun x =>
          (acqDone u 0x1112 (finishSegment u (32 * x.wide (ACQ_STRM_PROD u) 3 + 2 ^ 28) [] t (x.segFlag u 3))).evt (ACQ_EVT u) 6
      else s
    | none => s)

/-- ACQ_OVERRANGE (R221): the sample of an input of `x.nv` nanovolts saturates. -/
def execAcqOverrange (x : InputVolts) (s : State) : Host.Outcome State Fault Refusal :=
  .next (let u := x.unit
    let s1 := acqSettle u s
    let v := s1.acqResult u x.nv
    if u < 20 ∧ saturate16 v ≠ v then ((s1.inc (ACQ_OVR_CNT u)).evt (ACQ_EVT u) 4).segFlag u 0 else s1)

/-- ACQ_RANGING_END (R222). -/
def execAcqRangingEnd (u : Nat) (s : State) : Host.Outcome State Fault Refusal :=
  .next (match (s.acq u).ranging with
    | none => s
    | some d => s.atDue d fun t =>
      let t1 := acqSettle u t
      (t1.setAcq u { t1.acq u with ranging := none }).setBit (ACQ_STAT u) 9 false)

/-- A read of ACQ_RES_STAT latches the current result (R238). -/
def acqLatch (u : Nat) (s : State) : State := s.latchResult (ACQ_RES_STAT u) [ACQ_RES_SEQ u, ACQ_RES_SEG u, ACQ_RES_FLAGS u] 0

/-- A write of ACQ_RES_ADV (R238). -/
def acqAdv (u : Nat) (s : State) : State :=
  let s1 := s.advResult (ACQ_RES_STAT u)
  s1.wrN (ACQ_RES_QUEUED u) (min 0xFFFF (s1.queue (ACQ_RES_STAT u)).items.length)

/-- ACQ_RES_STAT_READ (R238). -/
def execAcqResStatRead (u : Nat) (s : State) : Host.Outcome State Fault Refusal :=
  .next (s.readReady fun s => if u < 20 then let t := acqLatch u (acqSettle u s); { t with read := ⟨t.rdN (ACQ_RES_STAT u), [], false⟩ } else s)

/-- ACQ_RES_ADV (R238). -/
def execAcqResAdv (u : Nat) (s : State) : Host.Outcome State Fault Refusal := .next (s.whenReady fun s => if u < 20 then acqAdv u s else s)

end Sys2Proof.Machine
end

