-- ==== Sys2Proof/Machine/TimeMeas.lean ====
section
/-!
DEFINITION. Machine/TimeMeas.lean: the per-pin time-to-digital converters: arming, edges, results, code-density tables and
frozen-table mode (R245 to R270). notes/assumptions/25.md.
-/

namespace Sys2Proof.Machine

/-! Tables (R245, R246, R264, R267). -/

/-- Entry `k` of the active table of channel `ch`; a table that nothing has replaced is the nominal one. -/
def State.tdcEntry (s : State) (ch k : Nat) : Nat := tabGet (fun k => 256 * k + 128) (s.tdc ch).table k
/-- Entry `k` of the shadow table. -/
def State.tdcShadow (s : State) (ch k : Nat) : Nat := tabGet (fun _ => 0) (s.tdc ch).shadow k
/-- A table from its 256 entries. -/
def tableOf (d : Nat → Nat) : Nat → List Nat → Tab Nat
  | _, [] => []
  | k, v :: vs => if v = d k then tableOf d (k + 1) vs else (k, v) :: tableOf d (k + 1) vs

/-- TDC_STAT.STATE: 0 IDLE, 1 WAIT_START, 2 WAIT_STOP, 3 COLLECTING, 4 LENT. -/
def State.tdcState (s : State) (ch : Nat) : Nat := s.fld (TDC_STAT ch) 15 13
def State.setTdcState (s : State) (ch v : Nat) : State := s.setFld (TDC_STAT ch) 15 13 v

/-- Frozen-table mode is selected for the lane of a channel (R267). -/
def State.laneFrozen (s : State) (ch : Nat) : Bool := s.bit (TDC_FRZ (laneOf ch / 16)) (laneOf ch % 16)

/-! Selections (R247, Table 9.1). -/

/-- A selection word matches an edge of a source and a slope. -/
def selMatches (w : Word) (source : Nat) (rising : Bool) : Bool :=
  let slope := bitsOf w 12 11
  selSource w == source && (source ≥ 3 || slope == 2 || (if slope = 1 then !rising else rising))

/-- Measurement mode: 1 INTERVAL, 2 STAMP, 0 otherwise (R250). -/
def tdcMode (w : Word) : Nat := if bitsOf w 15 14 = 3 then 0 else bitsOf w 15 14

/-! Collections (R262, R263). -/

/-- A collection on channel `ch` ends without a table, with a code. -/
def cdEnd (ch code : Nat) (s : State) : State :=
  let s1 := s.setTdc ch { s.tdc ch with collect := none, shadow := [] }
  let s2 := if s1.tdcState ch = 3 then s1.setTdcState ch 0 else s1
  (s2.setFld (TDC_TSTAT ch) 15 14 0).wrN (TDC_CODE ch) code

/-- A collection is ended by an arm or ABORT. -/
def cdAbort (ch : Nat) (s : State) : State := if (s.tdc ch).collect.isSome then (cdEnd ch 0x1215 s).evt (TDC_EVT ch) 6 else s

/-- Collection begins on channel `ch`. -/
def cdBegin (ch : Nat) (s : State) : State :=
  ((s.setTdc ch { s.tdc ch with collect := some s.time.up, shadow := [] }).setFld (TDC_TSTAT ch) 15 14 1)

/-- TDC_CD_CTL.GO at its tick. -/
def cdGo (ch : Nat) (s : State) : State :=
  if ch ≥ 2176 then s
  else if s.tdcState ch ≠ 0 then (s.wrN (TDC_CODE ch) 0x1210).refuse (TDC_CD_CTL ch) 0x1210
  else (cdBegin ch s).setTdcState ch 3

/-- The hits that a collection counts. -/
def State.cdHits (s : State) (ch : Nat) : Nat := max 16 (s.fld (TDC_CD_CFG ch) 7 0) * 65536

/-- The table that hits give: TABLE[k] = ⌊65,536 × (h[0] + … + h[k−1] + h[k] ÷ 2) ÷ H⌋. -/
def densityTable (total : Nat) : Nat → List Nat → List Nat
  | _, [] => []
  | sum, h :: hs => 65536 * (2 * sum + h) / (2 * total) :: densityTable total (sum + h) hs

/-- The acceptance check of R263: none, or its code. -/
def densityCode (total : Nat) (hits : List Nat) : Option Nat :=
  if hits.contains 0 then some 0x1212
  else if hits.any (fun h => 65536 * h / total < 64 || 65536 * h / total > 1024) then some 0x1213 else none

/-- The shadow becomes the active table at the tick of its swap item (R265). -/
def tdcSwapIn (ch : Nat) (s : State) : State :=
  if s.fld (TDC_TSTAT ch) 15 14 ≠ 2 then s
  else
    let t := s.tdc ch
    let entries := (List.range 256).map (s.tdcShadow ch)
    let s1 := s.setTdc ch { t with table := tableOf (fun k => 256 * k + 128) 0 entries, shadow := [], held := false }
    let s2 := (s1.wrN (TDC_TGEN ch) (s1.rdN (TDC_TGEN ch) + 1)).setFld (TDC_TSTAT ch) 15 14 0
    ((s2.setBit (TDC_TSTAT ch) 13 false).setBit (TDC_STAT ch) 11 false).evt (TDC_EVT ch) 7

/-- A swap held under frozen-table mode is reported (R267). -/
def swapFrozen (ch : Nat) (s : State) : State :=
  (((s.setTdc ch { s.tdc ch with held := true }).setBit (TDC_TSTAT ch) 13 true).wrN (TDC_CODE ch) 0x1216).evt (TDC_EVT ch) 8

/-- A swap of an accepted shadow is requested. -/
def tdcSwapRequest (ch : Nat) (s : State) : State :=
  if s.fld (TDC_TSTAT ch) 15 14 ≠ 2 then s
  else if s.laneFrozen ch then swapFrozen ch s
  else if s.bit (TDC_TSTAT ch) 13 then s
  else (s.setBit (TDC_TSTAT ch) 13 true).arrive 2 ch (yardCost 2) (.tdcSwap ch)

/-- A shadow is rejected with a code. -/
def tdcReject (ch code : Nat) (s : State) : State := ((s.setFld (TDC_TSTAT ch) 15 14 3).wrN (TDC_CODE ch) code).evt (TDC_EVT ch) 5

/-- The hits of a collection have been counted. -/
def cdComplete (ch : Nat) (hits : List Nat) (s : State) : State :=
  let total := s.cdHits ch
  if (s.tdc ch).collect.isNone || hits.length ≠ 256 || hits.foldl (· + ·) 0 ≠ total then s
  else
    let s1 := s.setTdc ch { s.tdc ch with collect := none, shadow := tableOf (fun _ => 0) 0 (densityTable total 0 hits) }
    let s2 := if s1.tdcState ch = 3 then s1.setTdcState ch 0 else s1
    match densityCode total hits with
    | some code => tdcReject ch code s2
    | none => (s2.setFld (TDC_TSTAT ch) 15 14 2).evt (TDC_EVT ch) 4

/-- Entries strictly increase. -/
def increasing : List Nat → Bool
  | a :: b :: l => a < b && increasing (b :: l)
  | _ => true

/-- A write of TDC_TSWAP (R264, R265): a table that the host wrote is checked first. -/
def tdcTswap (ch : Nat) (s : State) : State :=
  if ch ≥ 2176 then s
  else if s.fld (TDC_TSTAT ch) 15 14 = 0 then
    let entries := (List.range 256).map (s.tdcShadow ch)
    if (crc32c (entries.flatMap (leBytes 2))).toNat ≠ s.wide (TDC_TCRC ch) 2 then tdcReject ch 0x1214 s
    else if !increasing entries then tdcReject ch 0x1213 s
    else tdcSwapRequest ch (s.setFld (TDC_TSTAT ch) 15 14 2)
  else tdcSwapRequest ch s

/-- A write through TDC_TDATA to the shadow table. -/
def tdcTableWrite (ch v : Nat) (s : State) : State :=
  if ch ≥ 2176 then s
  else
    let k := s.fld (TDC_TSEL ch) 7 0
    let s1 := s.setTdc ch { s.tdc ch with shadow := tabSet (fun _ => 0) (s.tdc ch).shadow k (v % 65536) }
    (s1.setFld (TDC_TSTAT ch) 15 14 0).setFld (TDC_TSEL ch) 7 0 (k + 1)

/-- A read through TDC_TDATA: the entry of the view selected, and the index moves on. -/
def tdcTableRead (ch : Nat) (s : State) : Nat × State :=
  let k := s.fld (TDC_TSEL ch) 7 0
  (if s.bit (TDC_TSEL ch) 15 then s.tdcShadow ch k else s.tdcEntry ch k, s.setFld (TDC_TSEL ch) 7 0 (k + 1))

/-! Arming (R249, R250, R257). -/

/-- The peer that the settings in force name for a stop. -/
def State.tdcPeer (s : State) (ch : Nat) : Option Nat :=
  let w := s.rd (TDC_STOP ch)
  if w.getLsbD 5 && tdcMode (s.rd (TDC_MODE ch)) == 1 && bitsOf w 4 0 ≠ lanePos ch then some (bitsOf w 4 0) else none

/-- The refusals of an arm, in order. -/
def State.tdcArmCode (s : State) (ch : Nat) : Option Nat :=
  let st := s.tdcState ch
  let mode := tdcMode (s.rd (TDC_MODE ch))
  if st = 1 ∨ st = 2 then some 0x1201
  else if st = 4 then some 0x1202
  else if mode = 0 then some 0x1203
  else if selSource (s.rd (TDC_START ch)) ≥ 5 ∨ (mode = 1 ∧ selSource (s.rd (TDC_STOP ch)) ≥ 5) then some 0x1204
  else
    if s.fld (TDC_STOP ch) 4 0 > 16 then some 0x1205
    else match s.tdcPeer ch with
    | none => none
    | some p => if s.tdcState (laneChannel (laneOf ch) p) ≠ 0 then some 0x1206 else none

/-- A measurement begins or repeats with clean phases at clock `since`. -/
def tdcRestart (ch since : Nat) (s : State) : State :=
  (s.setTdc ch { s.tdc ch with since := since, s := none, e := none, early := false, lost := false, frozen := s.laneFrozen ch }).setTdcState ch 1

/-- TDC_CTL.ARM at its tick. -/
def tdcArm (ch : Nat) (s : State) : State :=
  if ch ≥ 2176 then s
  else
    match s.tdcArmCode ch with
    | some code => ((s.wrN (TDC_CODE ch) code).evt (TDC_EVT ch) 0).refuse (TDC_CTL ch) code
    | none =>
      let s1 := if s.tdcState ch = 3 then cdAbort ch s else s
      let peer := (s1.tdcPeer ch).map (laneChannel (laneOf ch))
      let s2 := s1.setTdc ch { s1.tdc ch with
        mode := s1.rd (TDC_MODE ch), start := s1.rd (TDC_START ch), stop := s1.rd (TDC_STOP ch), evsrc := s1.rd (TDC_EVSRC ch)
        tmo := s1.wide (TDC_TMO ch 0) 3 + 1, peer := peer, peerPhys := (peer.map s1.holder).getD 0 }
      let s3 := match peer with
        | some p => (s2.setTdc p { s2.tdc p with lentTo := some ch }).setTdcState p 4
        | none => s2
      tdcRestart ch s3.time.up s3

/-- The TDC returns to IDLE and a lent peer is freed. -/
def tdcIdle (ch : Nat) (s : State) : State :=
  let s1 := match (s.tdc ch).peer with
    | some p => (s.setTdc p { s.tdc p with lentTo := none }).setTdcState p 0
    | none => s
  (s1.setTdc ch { s1.tdc ch with peer := none }).setTdcState ch 0

/-- TDC_CTL.DISARM at its tick. -/
def tdcDisarm (ch : Nat) (s : State) : State := if s.tdcState ch = 1 ∨ s.tdcState ch = 2 then tdcIdle ch s else s

/-! Results (R256 to R259). -/

/-- The signed interval of two stamps. -/
def intervalOf (a b : Stamp) : Int := signed 64 (unsigned 64 ((b.time : Int) - a.time))

/-- The flags of Table 9.3 but GAP. -/
def tdcFlags (t : Tdc) (timeout : Bool) : Nat :=
  let bit := fun (b : Nat) (c : Bool) => if c then 2 ^ b else 0
  let both := match t.s, t.e with
    | some a, some b => !timeout && tdcMode t.mode == 1 && a.time < 2 ^ 64 && b.time < 2 ^ 64
    | _, _ => false
  let iv : Int := match t.s, t.e with
    | some a, some b => intervalOf a b
    | _, _ => 0
  let uncal := fun (x : Option Stamp) => x.any fun a => a.nominal
  bit 0 (both && iv.natAbs < 256) + bit 1 (both && iv < 0) + bit 2 timeout + bit 3 t.s.isSome + bit 4 t.e.isSome + bit 5 t.early
    + bit 6 t.lost
    + bit 8 (match t.s, t.e with
        | some a, some b => a.gen.isSome && b.gen.isSome && a.gen ≠ b.gen
        | _, _ => false)
    + bit 9 (match t.s, t.e with
        | some a, some b => if t.peer.isSome then b.phys ≠ t.peerPhys else a.phys ≠ b.phys
        | _, _ => false)
    + bit 10 t.frozen + bit 11 (uncal t.s || uncal t.e) + bit 12 (tdcMode t.mode == 2) + bit 13 (t.peer.isSome && t.e.isSome)
    + bit 14 (both && t.frozen && (iv / 256 > 2 ^ 31 - 1 || iv / 256 < -2 ^ 31))

/-- The four words of a 64-bit field. -/
def words64 (v : Nat) : List Nat := [v % 65536, v / 65536 % 65536, v / 65536 ^ 2 % 65536, v / 65536 ^ 3 % 65536]

/-- The measurement of channel `ch` completes: its result joins the queue of 16 or is dropped, and it re-arms or is IDLE. -/
def tdcResult (ch : Nat) (timeout : Bool) (s : State) : State :=
  let t := s.tdc ch
  let a := TDC_RES_STAT ch
  let iv : Int := match t.s, t.e with
    | some x, some y => if timeout then 0 else intervalOf x y
    | _, _ => 0
  let leg : Int := if t.frozen then max (-2 ^ 31) (min (2 ^ 31 - 1) (iv / 256)) else 0
  let q := s.queue a
  let s1 :=
    if q.items.length ≥ 16 then ((s.inc (TDC_DROP ch)).evt (TDC_EVT ch) 3).dropResult a
    else
      let flags := tdcFlags t timeout + (if q.gap then 128 else 0)
      (s.pushResult a 0 ([flags] ++ words64 ((t.s.map (·.time)).getD 0) ++ words64 ((t.e.map (·.time)).getD 0)
        ++ words64 (unsigned 64 iv) ++ (words64 (unsigned 32 leg)).take 2)).evt (TDC_EVT ch) 1
  let s2 := if timeout then s1.evt (TDC_EVT ch) 2 else s1
  if t.mode.getLsbD 13 then tdcRestart ch (s2.time.up + 1) s2 else tdcIdle ch s2

/-! Edges (R245, R247, R251 to R254). -/

/-- An edge at a TDC: its source and slope, its clock in `up`, and its tap, or for a synthetic source its fraction in 1/65,536 clock. -/
structure Edge where
  source : Nat
  rising : Bool
  clock : Nat
  tap : Nat
  deriving DecidableEq, Repr

/-- The edge comes through the delay line, not from a synthetic source. -/
def Edge.line (e : Edge) : Bool := e.source ≤ 1

/-- The stamp that measurement `m` gives an edge on physical channel `ph`: through the delay line for the comparators, and as
programmed for a synthetic source. In frozen-table mode bits [7:0] are cleared (R267). -/
def State.stampOf (s : State) (m ph : Nat) (e : Edge) : Stamp :=
  let ofs : Int := if e.source = 0 then signed 16 (s.rdN (TDC_OFS_HI ph)) else signed 16 (s.rdN (TDC_OFS_LO ph))
  let part : Int := if e.line then (s.tdcEntry ph (e.tap % 256) : Int) + ofs else ((e.tap % 65536 : Nat) : Int)
  let raw := unsigned 64 ((s.convoyTime : Int) + ((e.clock : Int) - s.time.up) * 65536 + part)
  let cut := if (s.tdc m).frozen then raw % 256 else 0
  { time := raw - cut, when_ := (e.clock * 65536 : Nat) + part - cut
    gen := if e.line then some (s.rdN (TDC_TGEN ph)) else none, phys := ph, nominal := e.line && s.bit (TDC_STAT ph) 11 }

/-- A captured delay-line edge starts dead time on its TDC; `stop` tells that measurement `m` took it as a stop that another edge of its
clock and tap may still displace. -/
def deadTime (m ph : Nat) (e : Edge) (w : Int) (stop : Bool) (s : State) : State :=
  if e.line then
    s.setTdc ph { s.tdc ph with
      last := some (Capture.mk w e.clock e.tap (if stop then some m else none) (s.tdc m).early (s.rdN (TDC_EARLY_STOP m))) }
  else s

/-- An early stop is discarded and counted (R252). -/
def earlyStop (m : Nat) (s : State) : State := (s.setTdc m { s.tdc m with early := true }).inc (TDC_EARLY_STOP m)

/-- A lost edge (R251). -/
def edgeLost (m : Nat) (s : State) : State := (s.setTdc m { s.tdc m with lost := true }).inc (TDC_LOST m)

/-- The edge captured last on `ph` is a stop of measurement `m` in the clock and tap of the start edge `e`. -/
def State.stopBefore (s : State) (m ph : Nat) (e : Edge) : Option Capture :=
  (s.tdc ph).last.filter fun l => e.line && l.stopOf == some m && l.clock == e.clock && l.tap == e.tap

/-- That stop is lost instead of captured, whichever of the two edges came first (R251). -/
def stopDisplaced (m : Nat) (l : Capture) (s : State) : State :=
  edgeLost m ((s.setTdc m { s.tdc m with e := none, early := l.early }).wrN (TDC_EARLY_STOP m) l.count)

/-- The start of measurement `m` is captured with stamp `x`. -/
def startTaken (m : Nat) (x : Stamp) (s : State) : State :=
  let t := s.tdc m
  let bipolar := t.mode.getLsbD 12
  let s1 := s.setTdc m { t with s := some x, peerPhys := (t.peer.map s.holder).getD 0 }
  if tdcMode t.mode = 2 ∨ (bipolar ∧ t.e.isSome) then tdcResult m false s1 else s1.setTdcState m (if bipolar then 1 else 2)

/-- A stop of measurement `m` is captured with stamp `x`. -/
def stopTaken (m : Nat) (x : Stamp) (s : State) : State :=
  let t := s.tdc m
  let s1 := s.setTdc m { t with e := some x }
  if t.mode.getLsbD 12 then (if t.s.isSome then tdcResult m false s1 else s1)
  else match t.s with
    | none => earlyStop m s
    | some a => if x.when_ < a.when_ then earlyStop m s else tdcResult m false s1

/-- An edge that may be the start (`isStart`) or the stop (`isStop`) of measurement `m` occurs on physical channel `ph`. -/
def tdcEdgeFor (m ph : Nat) (e : Edge) (isStart isStop : Bool) (s : State) : State :=
  let t := s.tdc m
  let st := s.tdcState m
  let wantStart := isStart && t.s.isNone && selMatches t.start e.source e.rising
  let wantStop := isStop && tdcMode t.mode == 1 && t.e.isNone && selMatches t.stop e.source e.rising
  if (st ≠ 1 ∧ st ≠ 2) ∨ e.clock < t.since then s
  else
    let x := s.stampOf m ph e
    let dead := e.line && (s.tdc ph).last.any fun l => l.when_ ≤ x.when_ && x.when_ - l.when_ ≤ 6 * 65536
    if isStart && t.s.isNone && selMatches t.start e.source e.rising && (s.stopBefore m ph e).isSome then
      match s.stopBefore m ph e with
      | some l => startTaken m x (deadTime m ph e x.when_ false (stopDisplaced m l s))
      | none => s
    else if !wantStart && !wantStop then s
    else if dead then edgeLost m s
    else if wantStart then startTaken m x (deadTime m ph e x.when_ false s)
    else stopTaken m x (deadTime m ph e x.when_ t.s.isNone s)

/-- The synthetic edges before the instant `till` that wait on the channels of measurement `m`, in order of time, each with its channel. -/
def State.synthOf (s : State) (m till : Nat) : List (Nat × Nat × Bool × Nat) :=
  let on := fun ch => ((s.chan ch).synth.filter (·.2.2 < till)).map fun e => (ch, e)
  sortBy (fun a b => a.2.2.2 ≤ b.2.2.2) (on m ++ match (s.tdc m).peer with
    | some p => on p
    | none => [])

/-- The synthetic edges before `till` reach measurement `m`. -/
def tdcSettle (m till : Nat) (s : State) : State :=
  let l := s.synthOf m till
  let drop := fun (t : State) ch => t.setChan ch { t.chan ch with synth := (t.chan ch).synth.filter (till ≤ ·.2.2) }
  if l.isEmpty then s
  else
    l.foldl (fun t e =>
      tdcEdgeFor m (t.holder e.1) ⟨e.2.1, e.2.2.1, e.2.2.2 / 65536, e.2.2.2 % 65536⟩ (e.1 == m) (e.1 ≠ m || (t.tdc m).peer.isNone) t)
      (((s.tdc m).peer.toList).foldl drop (drop s m))

/-- The duties whose measurements an edge on physical channel `ch` can serve: that of the contact it holds, and an outrider's own TDC,
which may be on loan. -/
def State.tdcDuties (s : State) (ch : Nat) : List Nat := (s.dutyOf ch).toList ++ if ch < 2048 then [] else [ch]

/-- A comparator edge occurs on channel `ch` in the present clock: it serves the measurement of the duty that `ch` holds, or the one that
duty's TDC is lent to. The window of an outrider that holds a duty measures nothing of its own (R163). -/
def tdcEdge (ch : Nat) (e : Edge) (s : State) : State :=
  s.each (s.tdcDuties ch) fun t d =>
    match (t.tdc d).lentTo with
    | some m => tdcEdgeFor m ch e false true (tdcSettle m (t.time.up * 65536) t)
    | none =>
      if d = ch && !t.ownApplied ch then t else tdcEdgeFor d ch e true (t.tdc d).peer.isNone (tdcSettle d (t.time.up * 65536) t)

/-- The next synthetic edge of a source and slope that waits on a channel. -/
def State.nextSynth (s : State) (ch source : Nat) (rising : Bool) : Option (Nat × Bool × Nat) :=
  (s.chan ch).synth.find? fun e => e.1 == source && (source == 3 || e.2.1 == rising)

/-- A DRIVE or STROBE edge of the duty of channel `ch` comes, at the instant that its vector gave it. -/
def tdcSynth (ch source : Nat) (rising : Bool) (s : State) : State :=
  match s.dutyOf ch with
  | none => s
  | some d => match s.nextSynth d source rising with
    | none => s
    | some e => s.atDue (e.2.2 / 65536) (tdcSettle ((s.tdc d).lentTo.getD d) (e.2.2 + 1))

/-- A module event is released at the pour line (R248). A stop is taken from the peer's TDC where there is one (R249). -/
def tdcEvent (code : Nat) (caravan : Option Nat) (s : State) : State :=
  s.each (s.tdcs.map (·.1)) fun t m =>
    let w := (t.tdc m).evsrc
    if bitsOf w 7 0 == code && (bitsOf w 15 15 == 0 || caravan == some (bitsOf w 13 8)) then
      let e : Edge := ⟨4, true, t.time.up, 0⟩
      let t1 := tdcSettle m (t.time.up * 65536) t
      match (t1.tdc m).peer with
      | none => tdcEdgeFor m (t1.holder m) e true true t1
      | some p => tdcEdgeFor m (t1.holder p) e false true (tdcEdgeFor m (t1.holder m) e true false t1)
    else t

/-- TDC_FRZ takes effect: the FROZEN bits of its lanes follow, a measurement re-armed in this clock takes the new state, and held swaps of
lanes no longer frozen are requested (R267). -/
def tdcFreezeCommit (k : Nat) (old : Word) (s : State) : State :=
  s.each (List.range 16) fun t b =>
    if old.getLsbD b = (t.rd (TDC_FRZ k)).getLsbD b then t
    else
      let lane := 16 * k + b
      t.each (List.range 17) fun x p =>
        let ch := laneChannel lane p
        let x0 := x.setBit (TDC_STAT ch) 12 ((t.rd (TDC_FRZ k)).getLsbD b)
        let x1 := if (x0.tdc ch).since = x0.time.up ∧ x0.tdcState ch = 1 then
            x0.setTdc ch { x0.tdc ch with frozen := (t.rd (TDC_FRZ k)).getLsbD b } else x0
        if (x1.tdc ch).held && !x1.laneFrozen ch then
          tdcSwapRequest ch ((x1.setTdc ch { x1.tdc ch with held := false }).setBit (TDC_TSTAT ch) 13 false)
        else x1

/-! The rows. -/

/-- TDC_CTL_ARM (R250). -/
def execTdcCtlArm (ch : Nat) (s : State) : Host.Outcome State Fault Refusal := .next (s.whenReady fun s => tdcArm ch s)

/-- TDC_CTL_DISARM (R257). -/
def execTdcCtlDisarm (ch : Nat) (s : State) : Host.Outcome State Fault Refusal := .next (s.whenReady fun s => tdcDisarm ch s)

/-- TDC_EDGE (R251): an edge of source `source` on physical channel `ch`. `tap` is the tap of a comparator edge; a DRIVE or STROBE edge
comes at the instant of a committed vector's edge, and an EVENT at its release at the pour line (R247). -/
def execTdcEdge (ch source : Nat) (rising : Bool) (tap : Nat) (s : State) : Host.Outcome State Fault Refusal :=
  .next (if source ≤ 1 then tdcEdge ch ⟨source, rising, s.time.up, tap⟩ s
    else if source ≤ 3 then tdcSynth ch source rising s else s)

/-- The timeout of a measurement expires, unless a synthetic edge before it has completed it. -/
def tdcExpire (ch : Nat) (s : State) : State :=
  let s1 := tdcSettle ch (s.time.up * 65536) s
  if (s1.tdcState ch = 1 ∨ s1.tdcState ch = 2) ∧ (s1.tdc ch).since + (s1.tdc ch).tmo ≤ s1.time.up then tdcResult ch true s1 else s1

/-- TDC_TIMEOUT (R255). -/
def execTdcTimeout (ch : Nat) (s : State) : Host.Outcome State Fault Refusal :=
  .next (if s.tdcState ch = 1 ∨ s.tdcState ch = 2 then s.atDue ((s.tdc ch).since + (s.tdc ch).tmo) (tdcExpire ch) else s)

/-- CD_GO (R262). -/
def execCdGo (ch : Nat) (s : State) : Host.Outcome State Fault Refusal := .next (s.whenReady fun s => cdGo ch s)

/-- CD_ABORT (R262). -/
def execCdAbort (ch : Nat) (s : State) : Host.Outcome State Fault Refusal := .next (s.whenReady fun s => cdAbort ch s)

/-- CD_TOO_FEW (R262). -/
def execCdTooFew (ch : Nat) (s : State) : Host.Outcome State Fault Refusal :=
  .next (match (s.tdc ch).collect with
    | none => s
    | some d => s.atDue (d + 2 ^ 30) (cdEnd ch 0x1211))

/-- TDC_TABLE_WRITE (R264). -/
def execTdcTableWrite (ch v : Nat) (s : State) : Host.Outcome State Fault Refusal := .next (s.whenReady fun s => tdcTableWrite ch v s)

/-- TDC_TSWAP (R264). -/
def execTdcTswap (ch : Nat) (s : State) : Host.Outcome State Fault Refusal := .next (s.whenReady fun s => tdcTswap ch s)

/-- A read of TDC_RES_STAT latches the current result (R260). -/
def tdcLatch (ch : Nat) (s : State) : State :=
  s.latchResult (TDC_RES_STAT ch)
    ([TDC_RES_SEQ ch, TDC_RES_FLAGS ch] ++ (List.range 4).map (TDC_RES_START ch) ++ (List.range 4).map (TDC_RES_STOP ch)
      ++ (List.range 4).map (TDC_RES_INT ch) ++ [TDC_RES_LEG ch 0, TDC_RES_LEG ch 1])
    (512 * (s.queue (TDC_RES_STAT ch)).items.length)

/-- TDC_RES_STAT_READ (R260). -/
def execTdcResStatRead (ch : Nat) (s : State) : Host.Outcome State Fault Refusal :=
  .next (s.readReady fun s => let t := tdcLatch ch (tdcSettle ch (s.time.up * 65536) s); { t with read := ⟨t.rdN (TDC_RES_STAT ch), [], false⟩ })

/-- TDC_RES_ADV (R260). -/
def execTdcResAdv (ch : Nat) (s : State) : Host.Outcome State Fault Refusal := .next (s.whenReady fun s => s.advResult (TDC_RES_STAT ch))

/-- TDC_TDATA_READ (R269). -/
def execTdcTdataRead (ch : Nat) (s : State) : Host.Outcome State Fault Refusal :=
  .next (s.readReady fun s => if ch ≥ 2176 then s else let r := tdcTableRead ch s; { r.2 with read := ⟨r.1, [], false⟩ })

end Sys2Proof.Machine
end

