-- ==== Sys2Proof/Machine/Check.lean ====
section
/-!
DEFINITION. Machine/Check.lean: the check-value units (R381 to R387, R403) and the module event bus that feeds every listener
(R130, R203, R227, R248, R286). notes/assumptions/27.md.
-/

namespace Sys2Proof.Machine

/-! Bits and the check value (R382, R383). -/

/-- The bits of a byte, most significant first. -/
def byteBits (b : Nat) : List Bool := (List.range 8).map fun i => b.testBit (7 - i)

/-- The value of bits, the first the most significant. -/
def msbNat (l : List Bool) : Nat := l.foldl (fun n b => 2 * n + b.toNat) 0

/-- Groups of 8 from the first bit, each reversed; a final partial group keeps its own length. -/
def reverseGroups : Nat → List Bool → List Bool
  | 0, l => l
  | n + 1, l => if l.isEmpty then [] else (l.take 8).reverse ++ reverseGroups n (l.drop 8)

/-- The bits of a frame as they enter, reflected where REFIN is 1. -/
def entering (refin : Bool) (l : List Bool) : List Bool := if refin then reverseGroups (l.length / 8 + 1) l else l

/-- Bits W − 1 to 0 of a value reversed. -/
def reverseBits (w v : Nat) : Nat := (List.range w).foldl (fun n i => n + (v.testBit (w - 1 - i)).toNat * 2 ^ i) 0

/-- One data bit enters the check register. -/
def chkCrcBit (w poly reg : Nat) (b : Bool) : Nat :=
  let sh := 2 * reg % 2 ^ w
  if reg.testBit (w - 1) != b then sh ^^^ (poly % 2 ^ w) else sh

/-- The check value of data bits. -/
def crcCalc (w poly init xorout : Nat) (refout : Bool) (data : List Bool) : Nat :=
  let reg := data.foldl (chkCrcBit w poly) (init % 2 ^ w)
  (if refout then reverseBits w reg else reg) ^^^ (xorout % 2 ^ w)

/-! The unit's settings and state. -/

/-- W, and the number of data bits. -/
def State.chkWidth (s : State) (u : Nat) : Nat := s.fld (CHK_CFG u) 15 10 + 1
def State.chkData (s : State) (u : Nat) : Nat := s.wide (CHK_DATA_BITS u) 2
/-- SRC: 1 SITE_CP, 2 HOST. -/
def State.chkSrc (s : State) (u : Nat) : Nat := s.fld (CHK_CFG u) 6 4

/-- STATE and ALIVE_REF follow the unit. -/
def chkShow (u : Nat) (s : State) : State :=
  let x := s.chk u
  (s.setFld (CHK_STAT u) 15 14 (if !x.armed then 0 else if x.inFrame then 2 else 1)).setBit (CHK_STAT u) 13 x.alive.isSome

/-- The judgement of the alive counter (R385): the flag bits, the events and the reference after. -/
def chkAlive (u value : Nat) (isMatch : Bool) (s : State) : Nat × State :=
  let x := s.chk u
  if !s.bit (CHK_ALIVE u) 15 then (0, s)
  else if !isMatch then (64, s)
  else
    let s1 := s.setChk u { x with alive := some value }
    match x.alive with
    | none => (8, s1)
    | some r =>
      if value = r then (16, (s1.inc (CHK_REPEAT_CNT u)).evt (CHK_EVT u) 2)
      else if value = (r + max 1 (s.fld (CHK_ALIVE u) 7 0)) % 65536 then (0, s1)
      else (32, (s1.inc (CHK_SKIP_CNT u)).evt (CHK_EVT u) 3)

/-- The received value of W bits: the first is bit W − 1, or bit 0 with TX_ORDER 1 (R384). -/
def received (txOrder : Bool) (l : List Bool) : Nat := if txOrder then msbNat l.reverse else msbNat l

/-- The frame in progress ends with the bits received; `whole` tells that it is complete. What a truncated frame has not
received is free in its received value and its alive value. -/
def chkFrameEnd (u : Nat) (whole : Bool) (s : State) : State :=
  let x := s.chk u
  let w := s.chkWidth u
  let d := s.chkData u
  let bits := entering (s.bit (CHK_CFG u) 9) x.bits
  let cval := crcCalc w (s.wide (CHK_POLY u) 4) (s.wide (CHK_INIT u) 4) (s.wide (CHK_XOR u) 4) (s.bit (CHK_CFG u) 8) (bits.take d)
  let pos := s.wide (CHK_ALIVE_POS u) 2
  let held := pos + 16 ≤ (bits.take d).length
  let free := s.free
  let s0 := if whole then s else free.2
  let recv := if whole then received (s.bit (CHK_CFG u) 7) (bits.drop d) else free.1 % 2 ^ w
  let value := if !s.bit (CHK_ALIVE u) 15 then 0 else if held then msbNat ((bits.drop pos).take 16) else free.1 / 2 ^ 16 % 65536
  let isMatch := whole && recv == cval
  let s1 := (s0.inc (CHK_FRAME_CNT u)).when (!isMatch) fun t => (t.inc (CHK_FAIL_CNT u)).evt (CHK_EVT u) 1
  let al := chkAlive u value isMatch s1
  let a := CHK_RES_STAT u
  let q := s.queue a
  let flags := (if isMatch then 1 else 2) + (if whole then 0 else 4) + al.1 + (if q.gap then 128 else 0)
  let s2 :=
    if q.items.length ≥ 16 then ((al.2.inc (CHK_DROP_CNT u)).evt (CHK_EVT u) 4).dropResult a
    else
      (al.2.pushResult a 0 ([value, flags] ++ words64 cval ++ words64 recv ++ words64 s.convoyTime)).evt (CHK_EVT u) 0
  chkShow u (s2.setChk u { s2.chk u with inFrame := false, started := !s.bit (CHK_START u) 15, bits := [] })

/-- One bit arrives at a unit. -/
def chkBit (u : Nat) (s : State) (b : Bool) : State :=
  let x := s.chk u
  if !x.armed || (!x.inFrame && !x.started) then s
  else
    let s1 := s.setChk u { x with inFrame := true, started := false, bits := x.bits ++ [b] }
    if x.bits.length + 1 ≥ s.chkData u + s.chkWidth u then chkFrameEnd u true s1 else chkShow u s1

/-- Bits arrive at a unit in order. -/
def chkBits (u : Nat) (l : List Bool) (s : State) : State := l.foldl (chkBit u) s

/-- Bytes that the host feeds, with SRC HOST. -/
def chkFeed (u : Nat) (bytes : List Nat) (s : State) : State :=
  if u < 16 ∧ s.chkSrc u = 2 then chkBits u (bytes.flatMap byteBits) s else s

/-- A committed vector of a site: `hi` gives the bits of its pins by index, 0 for a pin whose symbol is not CP. The first pin
of the unit must have CP for the vector to contribute. -/
def chkVector (n : Nat) (isCp : Nat → Bool) (hi : Nat → Bool) (s : State) : State :=
  s.each (List.range 16) fun t u =>
    let p := t.fld (CHK_PIN u) 7 0
    if t.chkSrc u = 1 ∧ t.fld (CHK_SITE u) 8 0 = n ∧ isCp p then
      chkBits u ((List.range (t.fld (CHK_CFG u) 3 0 + 1)).map fun k => isCp (p + k) && hi (p + k)) t
    else t

/-- A site leaves its run: a frame in progress of a unit that taps it is truncated (R387). -/
def chkSiteLeaves (n : Nat) (s : State) : State :=
  s.each (List.range 16) fun t u =>
    if t.chkSrc u = 1 ∧ t.fld (CHK_SITE u) 8 0 = n ∧ (t.chk u).armed ∧ (t.chk u).inFrame then chkFrameEnd u false t else t

/-- A module event is released at the pour line: a unit whose CHK_START names it waits for its first bit (R382). -/
def chkEvent (code : Nat) (caravan : Option Nat) (s : State) : State :=
  s.each (List.range 16) fun t u =>
    let x := t.chk u
    if x.armed && !x.inFrame && t.bit (CHK_START u) 15 && t.fld (CHK_START u) 7 0 == code &&
        (!t.bit (CHK_START u) 14 || caravan == some (t.fld (CHK_START u) 13 8)) then
      t.setChk u { x with started := true }
    else t

/-- The refusal of an arm (R387). -/
def State.chkArmCode (s : State) (u : Nat) : Option Nat :=
  let src := s.chkSrc u
  let d := s.chkData u
  let w := s.chkWidth u
  let badSite := match findSite s.casting (s.fld (CHK_SITE u) 8 0) with
    | none => true
    | some x => s.fld (CHK_PIN u) 7 0 + s.fld (CHK_CFG u) 3 0 ≥ x.pinCount
  if (s.chk u).armed then some 0x1730
  else if (src ≠ 1 && src ≠ 2) || d == 0 || w + d > 2 ^ 32 - 1
      || (s.bit (CHK_ALIVE u) 15 && s.wide (CHK_ALIVE_POS u) 2 + 16 > d) || (src == 1 && badSite)
      || (src == 2 && (d % 8 ≠ 0 || w % 8 ≠ 0)) then some 0x1731
  else none

/-- CHK_CTL.ARM at its tick. With EVT_EN 0 the first frame begins with it (R382). -/
def chkArm (u : Nat) (s : State) : State :=
  if u ≥ 16 then s
  else match s.chkArmCode u with
    | some code => ((s.wrN (CHK_CODE u) code).evt (CHK_EVT u) 5).refuse (CHK_CTL u) code
    | none =>
      let q := s.queue (CHK_RES_STAT u)
      let s1 := s.setQueue (CHK_RES_STAT u) { q with items := [], seen := false }
      chkShow u (s1.setChk u ⟨true, !s.bit (CHK_START u) 15, false, [], none⟩)

/-- CHK_CTL.DISARM at its tick. -/
def chkDisarm (u : Nat) (s : State) : State :=
  if u ≥ 16 ∨ ¬ (s.chk u).armed then s
  else
    let s1 := if (s.chk u).inFrame then chkFrameEnd u false s else s
    chkShow u (s1.setChk u { s1.chk u with armed := false, inFrame := false, started := false, bits := [] })

/-- A read of CHK_RES_STAT latches the current result. -/
def chkLatch (u : Nat) (s : State) : State :=
  if u ≥ 16 then s
  else
    s.latchResult (CHK_RES_STAT u)
      ([CHK_RES_SEQ u, CHK_RES_ALIVE u, CHK_RES_FLAGS u] ++ (List.range 4).map (CHK_RES_CALC u) ++ (List.range 4).map (CHK_RES_RECV u)
        ++ (List.range 4).map (CHK_RES_T u))
      (512 * (s.queue (CHK_RES_STAT u)).items.length)

/-! The module event bus. -/

/-- A module event is raised: monitors, waveform sequencers, digitizers, time measurement and check units hear it. `caravan` is
the caravan whose own context released it; a remote event has none (R367). -/
def State.busRaise (s : State) (code : Nat) (caravan : Option Nat) : State :=
  chkEvent code caravan (tdcEvent code caravan (acqEvent code caravan (wfsEvent code caravan (s.monEvent code caravan))))

/-! The rows. -/

/-- CHK_ARM (R387). -/
def execChkArm (u : Nat) (s : State) : Host.Outcome State Fault Refusal := .next (s.whenReady fun s => chkArm u s)

/-- CHK_DISARM (R387). -/
def execChkDisarm (u : Nat) (s : State) : Host.Outcome State Fault Refusal := .next (s.whenReady fun s => chkDisarm u s)

/-- CHK_FEED (R381): two bytes, the low byte first. -/
def execChkFeed (u v : Nat) (s : State) : Host.Outcome State Fault Refusal := .next (s.whenReady fun s => chkFeed u [v % 256, v / 256 % 256] s)

/-- CHK_FEED8 (R381): the low byte. -/
def execChkFeed8 (u v : Nat) (s : State) : Host.Outcome State Fault Refusal := .next (s.whenReady fun s => chkFeed u [v % 256] s)

/-- CHK_RES_STAT_READ (R386). -/
def execChkResStatRead (u : Nat) (s : State) : Host.Outcome State Fault Refusal := .next (s.readReady fun s => if u < 16 then let t := chkLatch u s; { t with read := ⟨t.rdN (CHK_RES_STAT u), [], false⟩ } else s)

/-- CHK_RES_ADV (R386). -/
def execChkResAdv (u : Nat) (s : State) : Host.Outcome State Fault Refusal :=
  .next (s.whenReady fun s => if u < 16 then s.advResult (CHK_RES_STAT u) else s)

end Sys2Proof.Machine
end

