-- ==== Sys2Proof/Machine/Repair.lean ====
section
/-!
DEFINITION. Machine/Repair.lean: repair geometry, the must-repair rule and the final search (R179 to R183).
notes/assumptions/31.md.
-/

namespace Sys2Proof.Machine

/-! Geometry (R179). A cell is a bank, a row address and a column address. -/

/-- The base-2 logarithm of a power of two. -/
def log2 (n : Nat) : Nat := ((List.range 8).find? fun i => 2 ^ i ≥ n).getD 8

/-- The repair region of a row. -/
def RepairRec.regionOf (g : RepairRec) (bank row : Nat) : Nat :=
  if g.select = 0 then bank / (g.banks / g.regions) else row / 2 ^ (g.rowBits - log2 g.regions)

/-- An event lies outside the geometry. -/
def RepairRec.outside (g : RepairRec) (e : MemEvent) : Bool :=
  e.bank ≥ g.banks || e.row ≥ 2 ^ g.rowBits || e.col ≥ 2 ^ g.colBits

/-- The region of an event, none outside the geometry. -/
def RepairRec.regionOfEvent (g : RepairRec) (e : MemEvent) : Option Nat :=
  if g.outside e then none else some (g.regionOf e.bank e.row)

/-- A repair covers a cell. -/
def Repair.covers (g : RepairRec) (p : Repair) (c : Nat × Nat × Nat) : Bool :=
  if p.isCol then p.region == g.regionOf c.1 c.2.1 && p.addr == c.2.2 else p.bank == c.1 && p.addr == c.2.1

/-- The order of repair entries in a result block (R191): region, rows before columns, bank, address. -/
def Repair.before (a b : Repair) : Bool :=
  let key := fun (p : Repair) => [p.region, p.isCol.toNat, p.bank, p.addr]
  (key a).lex (key b) (· < ·)

/-- Repairs in the order of R191. -/
def sortRepairs (l : List Repair) : List Repair := sortBy (fun a b => !b.before a) l

/-! Must-repair (R180, R181). -/

/-- Spare rows or columns of a region that no repair holds. -/
def spareLeft (g : RepairRec) (l : List Repair) (region : Nat) (isCol : Bool) : Nat :=
  (if isCol then g.spareCols else g.spareRows) - (l.filter fun p => p.region == region && p.isCol == isCol).length

/-- The lines of a region that need a spare at once, rows by bank and address and then columns by address. -/
def mustLines (g : RepairRec) (cells : List (Nat × Nat × Nat)) (repairs : List Repair) (region : Nat) : List Repair :=
  let mine := cells.filter fun c => g.regionOf c.1 c.2.1 == region
  let sr := spareLeft g repairs region false
  let sc := spareLeft g repairs region true
  let rows := (mine.map fun c => (c.1, c.2.1)).eraseDups.filter fun r =>
    ((mine.filter fun c => c.1 == r.1 && c.2.1 == r.2).map (·.2.2)).eraseDups.length > sc
  let cols := (mine.map (·.2.2)).eraseDups.filter fun y =>
    ((mine.filter fun c => c.2.2 == y).map fun c => (c.1, c.2.1)).eraseDups.length > sr
  sortRepairs (rows.map (fun r => ⟨region, false, r.1, r.2, true⟩) ++ cols.map fun y => ⟨region, true, 0xFF, y, true⟩)

/-- The must-repair rule on a region, one spare at a time. The last component tells that a spare of a kind has run out. -/
def mustRepair (g : RepairRec) (region : Nat) :
    Nat → List (Nat × Nat × Nat) → List Repair → List (Nat × Nat × Nat) × List Repair × Bool
  | 0, cells, repairs => (cells, repairs, false)
  | n + 1, cells, repairs =>
    match mustLines g cells repairs region with
    | [] => (cells, repairs, false)
    | p :: _ =>
      if spareLeft g repairs region p.isCol = 0 then (cells, repairs, true)
      else mustRepair g region n (cells.filter fun c => !p.covers g c) (repairs ++ [p])

/-- A region holds more uncovered cells than its spares can cover. -/
def tooMany (g : RepairRec) (cells : List (Nat × Nat × Nat)) (repairs : List Repair) (region : Nat) : Bool :=
  (cells.filter fun c => g.regionOf c.1 c.2.1 == region).length
    > 2 * spareLeft g repairs region false * spareLeft g repairs region true

/-! The final search (R183). -/

/-- Every way to cover the cells of a region by branching on the first uncovered cell, with `sr` rows and `sc` columns. -/
def coversOf (g : RepairRec) (region : Nat) : Nat → Nat → Nat → List (Nat × Nat × Nat) → List (List Repair)
  | _, _, _, [] => [[]]
  | 0, _, _, _ => []
  | n + 1, sr, sc, c :: cs =>
    let row : Repair := ⟨region, false, c.1, c.2.1, false⟩
    let col : Repair := ⟨region, true, 0xFF, c.2.2, false⟩
    let with' := fun (p : Repair) (sr' sc' : Nat) => (coversOf g region n sr' sc' (cs.filter fun x => !p.covers g x)).map (p :: ·)
    (if sr = 0 then [] else with' row (sr - 1) sc) ++ (if sc = 0 then [] else with' col sr (sc - 1))

/-- The order of covering sets: fewest spares, then fewest columns, then the first in the order of repair entries. -/
def betterCover (a b : List Repair) : Bool :=
  let cols := fun (l : List Repair) => (l.filter (·.isCol)).length
  if a.length ≠ b.length then a.length < b.length
  else if cols a ≠ cols b then cols a < cols b
  else (sortRepairs a).lex (sortRepairs b) Repair.before

/-- The first of a list in that order. -/
def bestCover : List (List Repair) → Option (List Repair)
  | [] => none
  | a :: l => match bestCover l with
    | some b => some (if betterCover b a then b else a)
    | none => some a

/-- The covering set of a region, none where its spares cover it in no way. -/
def regionCover (g : RepairRec) (cells : List (Nat × Nat × Nat)) (repairs : List Repair) (region : Nat) : Option (List Repair) :=
  let mine := cells.filter fun c => g.regionOf c.1 c.2.1 == region
  let sr := spareLeft g repairs region false
  let sc := spareLeft g repairs region true
  bestCover (coversOf g region (sr + sc) sr sc mine)

/-- The repairs that the search adds for every region, none where some region has no cover. -/
def finalCover (g : RepairRec) (cells : List (Nat × Nat × Nat)) (repairs : List Repair) : Option (List Repair) :=
  (List.range g.regions).foldl (fun acc r => acc.bind fun l => (regionCover g cells repairs r).map (l ++ ·)) (some [])

end Sys2Proof.Machine
end

