-- ==== Sys2Proof/Machine/Assay.lean ====
section
/-!
DEFINITION. Machine/Assay.lean: fail capture and the assay engine (R169 to R194). notes/assumptions/31.md.
-/

namespace Sys2Proof.Machine

/-! Sites. -/

/-- The SITE_TYPE of a site, 0xFF for one that the casting does not define. -/
def State.siteType (s : State) (n : Nat) : Nat := ((findSite s.casting n).map (·.stype)).getD 0xFF

/-- The repair geometry of a site. -/
def State.geometry (s : State) (n : Nat) : Option RepairRec :=
  if s.siteType n = 0xFF then none else s.casting.repairs.find? fun r => r.stype == s.siteType n

/-- A flag of the session (Table 6.7). -/
def Session.flag (x : Session) (b : Nat) : Bool := x.flags.testBit b
def Session.setFlag (x : Session) (b : Nat) : Session := { x with flags := x.flags ||| 2 ^ b }

/-- ASY_SITE_STAT and ASY_FAILVEC follow the site. -/
def State.siteShow (s : State) (n : Nat) : State :=
  let x := s.site n
  let f := fun b => (x.session.flag b).toNat
  let st := if x.finalizing.isSome then 2 else if x.session = Session.empty then 0 else 1
  let fifo := min 7 (x.fifo.length / 32)
  (s.wrN (ASY_SITE_STAT n) (st * 16384 + f 2 * 8192 + f 3 * 4096 + f 0 * 2048 + f 1 * 1024 + f 11 * 512 + f 12 * 256 + f 13 * 128
    + fifo * 16)).setWide (ASY_FAILVEC n) 3 x.session.failvec

/-- A site changes, and its status with it. -/
def State.putSite (s : State) (n : Nat) (x : Site) : State := (s.setSite n x).siteShow n

/-- The session of a site takes a flag. -/
def State.flagSite (s : State) (n b : Nat) : State := s.putSite n { s.site n with session := (s.site n).session.setFlag b }

/-! Partitions and the fail log (R175 to R177, R330). -/

/-- The stacks that a STORE record names, in ascending order. -/
def StoreRec.stackList (r : StoreRec) : List Nat := (List.range 4).filter r.stackMask.testBit

/-- The capacity of a partition in bytes (R40). -/
def StoreRec.capacity (r : StoreRec) : Nat := r.size * 2 ^ 21 * r.stackList.length

/-- The device address of partition address `a` (R330). -/
def StoreRec.device (r : StoreRec) (a : Nat) : Nat :=
  let n := r.stackList.length
  let b := a / 4096
  (r.stackList.getD (b % n) 0) * 2 ^ 34 + r.base * 2 ^ 21 + b / n * 4096 + a % 4096

/-- The fail partition of a site. -/
def failStore (k : Casting) (n : Nat) : Option StoreRec :=
  (findSite k n).bind fun x => (findCaravan k x.caravan).bind fun c => findStore k c.failPart

/-- A share of the fail log and its capacity in records. -/
def State.setShare (s : State) (n base bytes : Nat) : State :=
  (((s.setWide (ASY_LOG_BASE n) 3 base).setWide (ASY_LOG_CAP n) 2 (bytes / 32)).setWide (ASY_LOG_WR n) 2 0).setWide (ASY_LOG_RD n) 2 0

/-- The fail records that the module log queue holds. -/
def State.queuedRecords (s : State) : Nat := (s.sites.map fun e => e.2.queue.length).sum

/-- A fail record (Tables 6.1 and 6.2). -/
structure FailRec where
  kind : Nat
  straggler : Bool
  index : Nat
  vector : Nat
  group : Nat
  tset : Nat
  payload : List Byte
  deriving DecidableEq, Repr

/-- The 32 bytes of a record. -/
def FailRec.bytes (r : FailRec) (n : Nat) (afterLoss : Bool) : List Byte :=
  leBytes 1 r.kind ++ leBytes 1 (r.straggler.toNat + 2 * afterLoss.toNat) ++ leBytes 2 n ++ leBytes 4 r.index ++ leBytes 6 r.vector
    ++ leBytes 1 r.group ++ leBytes 1 r.tset ++ padTo 16 r.payload

/-- A record is suppressed, dropped or lost: the session flag `b` and AFTER_LOSS. -/
def State.recordGone (s : State) (n b : Nat) : State :=
  let x := s.site n
  s.putSite n { x with session := x.session.setFlag b, afterLoss := true }

/-- A record passes the checks of R177. -/
def State.record (s : State) (n : Nat) (r : FailRec) : State :=
  let x := s.site n
  let limit := s.rdN (ASY_LOG_MAX n) * 1024
  let held := (s.wide (ASY_LOG_WR n) 2 + 2 ^ 32 - s.wide (ASY_LOG_RD n) 2) % 2 ^ 32 + x.queue.length
  if limit ≠ 0 ∧ x.accepted ≥ limit then (s.inc (ASY_SUPP_CNT n)).recordGone n 13
  else if held ≥ s.wide (ASY_LOG_CAP n) 2 then (s.inc (ASY_FULL_CNT n)).recordGone n 12
  else if s.queuedRecords ≥ 262144 then
    let s1 := if s.rdN (ASY_LOST_CNT n) = 0 then s.setWide (ASY_LOST_VEC n) 3 r.vector else s
    ((s1.inc (ASY_LOST_CNT n)).evt ASY_EVT 2).recordGone n 11
  else
    s.putSite n { x with queue := x.queue ++ [r.bytes n x.afterLoss], accepted := x.accepted + 1, afterLoss := false }

/-- The drain writes the oldest accepted record of site `n` into its log. -/
def logDrain (n : Nat) (s : State) : State :=
  let x := s.site n
  match x.queue, failStore s.casting n with
  | r :: rest, some p =>
    let wr := s.wide (ASY_LOG_WR n) 2
    let a := s.wide (ASY_LOG_BASE n) 3 + 32 * (wr % max 1 (s.wide (ASY_LOG_CAP n) 2))
    ((s.memWrite (p.device a) r).putSite n { x with queue := rest }).setWide (ASY_LOG_WR n) 2 (wr + 1)
  | _, _ => s

/-! Early abort (R186, R187). -/

/-- The abort policy of a site: whether it is enabled, its ACTION, HOLDOFF in vectors and the limit of failing vectors. -/
def State.abortPolicy (s : State) (n : Nat) : Bool × Bool × Nat × Nat :=
  let t := s.siteType n
  if t = 0xFF then (s.bit ASY_LABORT 15, s.bit ASY_LABORT 14, 0, max 1 (s.wide ASY_LABORT_LIM 2))
  else (s.bit (ASY_ABORT_CFG t) 15, s.bit (ASY_ABORT_CFG t) 14, s.fld (ASY_ABORT_CFG t) 7 0 * 65536, 0)

/-- An abort is decided once its conditions hold. -/
def abortCheck (n : Nat) (s : State) : State :=
  let x := s.site n
  let p := s.abortPolicy n
  let due := if s.siteType n = 0xFF then x.runFails ≥ p.2.2.2 else x.session.flag 2 && x.vecs ≥ max 1 p.2.2.1
  if s.siteServed n && x.abort.isNone && p.1 && due then s.setSite n { x with abort := some (p.2.1, s.time.up) } else s

/-! Analysis (R179 to R182). -/

/-- A site is found unrepairable: its further memory events are neither queued nor analysed. -/
def unrepairable (n : Nat) (s : State) : State :=
  let x := s.site n
  abortCheck n (s.putSite n { x with session := x.session.setFlag 2, fifo := [] })

/-- An event is not analysed. -/
def eventLost (n : Nat) (s : State) : State := ((s.inc (ASY_ANA_LOST_CNT n)).evt ASY_EVT 3).flagSite n 3

/-- An assigned repair already covers a cell. -/
def Session.covered (x : Session) (g : RepairRec) (c : Nat × Nat × Nat) : Bool := x.repairs.any fun p => p.covers g c

/-- A memory event reaches the pre-filter (R179, R180, R182). -/
def memoryEvent (n : Nat) (e : MemEvent) (s : State) : State :=
  let x := s.site n
  match s.geometry n with
  | none => s
  | some g =>
    if g.outside e then (((s.inc (ASY_GEOM_CNT n)).evt ASY_EVT 3).flagSite n 5).flagSite n 3
    else if x.session.flag 2 then s
    else if x.session.covered g (e.bank, e.row, e.col) then s
    else if x.fifo.length ≥ 256 then eventLost n s
    else s.putSite n { x with fifo := x.fifo ++ [e] }

/-- The oldest event of the FIFO is analysed (R180 to R182). -/
def analyseEvent (n : Nat) (s : State) : State :=
  let x := s.site n
  match x.fifo, s.geometry n with
  | e :: rest, some g =>
    let s0 := s.putSite n { x with fifo := rest }
    let c := (e.bank, e.row, e.col)
    let isNew := !x.session.cells.contains c
    if x.session.covered g c then s0
    else if isNew && x.session.cells.length + x.session.repairs.length ≥ 8184 then eventLost n s0
    else
      let r := g.regionOf e.bank e.row
      let cells := if isNew then x.session.cells ++ [c] else x.session.cells
      let m := mustRepair g r (g.spareRows + g.spareCols + 1) cells x.session.repairs
      let s1 := s0.putSite n { s0.site n with session := { x.session with cells := m.1, repairs := m.2.1 } }
      if m.2.2 || tooMany g m.1 m.2.1 r then unrepairable n s1 else s1
  | _, _ => s

/-! Results (R188 to R191). -/

/-- The category of a session before a final search (Table 6.5). -/
def Session.category (x : Session) : Nat :=
  if x.flag 7 then 7 else if x.flag 8 then 6 else if x.flag 9 || x.flag 10 then 5 else if x.flag 2 then 4
  else if x.flag 0 then 3 else if x.flag 1 then (if x.flag 3 || x.flag 4 then 2 else 1) else 0

/-- The 8 bytes of a repair entry (Table 6.6). -/
def Repair.bytes (p : Repair) : List Byte :=
  leBytes 4 p.addr ++ leBytes 1 p.bank ++ leBytes 1 p.region ++ leBytes 1 (p.isCol.toNat + 2 * p.must.toNat) ++ leBytes 1 0

/-- The result block (Table 6.6). -/
def resultBlock (n stype seq bin : Nat) (x : Closing) : List Byte :=
  let z := x.session
  let reps := sortRepairs z.repairs
  leBytes 4 0x5241565A ++ leBytes 2 seq ++ leBytes 1 z.category ++ leBytes 1 stype ++ leBytes 2 n ++ leBytes 2 bin ++ leBytes 4 z.flags
    ++ leBytes 2 z.endCode ++ leBytes 2 reps.length ++ leBytes 4 z.runs ++ leBytes 8 z.failvec ++ leBytes 8 x.time ++ leBytes 4 x.logWr
    ++ leBytes 20 0 ++ reps.flatMap Repair.bytes

/-- The result slot that a queued result holds. -/
def resultSlot (e : Nat × List Nat) : Nat := e.1 / 16 % 4

/-- A result joins the queue of its site and its block is written (R190). A full queue gives up its newest entry. -/
def deliver (n : Nat) (x : Closing) (s : State) : State :=
  let a := ASY_RES_STAT n
  let q := s.queue a
  let full := q.items.length ≥ 4
  let kept := if full then q.items.dropLast else q.items
  let used := kept.map resultSlot
  let slot := if full then resultSlot (q.items.getLastD (0, [])) else ((List.range 4).find? fun i => !used.contains i).getD 0
  let bin := x.bins.getD x.session.category 0
  let words := [bin, x.session.flags % 65536, x.session.flags / 65536, x.session.endCode, x.session.repairs.length]
  let s1 := (s.setQueue a { q with items := kept }).pushResult a (16 * slot + x.session.category) words
  let s2 := s1.memWrite (s.wide HST_ASY_BASE 3 + (4 * n + slot) * 65536) (resultBlock n (s.siteType n) q.seq bin x)
  let s3 := (s2.setBit (ASY_READY (n / 16)) (n % 16) true).evt ASY_EVT 0
  if full then (s3.setBit a 13 true).evt ASY_EVT 4 else s3

/-- The final search of a closed session ends, and its result is delivered (R183). A session that no spares cover is
unrepairable. -/
def finalAnalysis (n : Nat) (s : State) : State :=
  match (s.site n).finalizing with
  | none => s
  | some x =>
    let z := x.session.setFlag 14
    let s1 := s.putSite n { s.site n with finalizing := none }
    let limit := max 1 (s.fld ASY_FINAL_CFG 7 0) * 65536
    match s.geometry n with
    | none => deliver n { x with session := z.setFlag 4 } s1
    | some g =>
      if !z.cells.isEmpty && Config.searchNodes z.cells > limit then deliver n { x with session := z.setFlag 4 } s1
      else match finalCover g z.cells z.repairs with
        | some l => deliver n { x with session := { z with cells := [], repairs := z.repairs ++ l } } s1
        | none => deliver n { x with session := z.setFlag 2 } s1

/-- The events that wait in the FIFO are analysed in order. -/
def analyseAll (n : Nat) : Nat → State → State
  | 0, s => s
  | k + 1, s => if (s.site n).fifo.isEmpty then s else analyseAll n k (analyseEvent n s)

/-- Finalize closes the session of a site (R185), every event of it analysed (Table 6.4), and an empty one opens. -/
def finalizeSite (n : Nat) (s : State) : State :=
  let t := finalAnalysis n s
  let s0 := analyseAll n (t.site n).fifo.length t
  let x := s0.site n
  let z := if x.session.runs = 0 then x.session.setFlag 10 else x.session
  let c : Closing := ⟨z, s.convoyTime, s.wide (ASY_LOG_WR n) 2, (List.range 8).map fun i => s.rdN (ASY_BINMAP + 2 * i)⟩
  let searches := z.category = 1 ∨ z.category = 2
  let s1 := s0.putSite n { x with session := Session.empty, fifo := [], finalizing := if searches then some c else none }
  if searches then s1 else deliver n c s1

/-- ASY_SITE_CTL.FINALIZE at its tick; it is refused while the site is in a running context (R184). -/
def siteFinalize (n : Nat) (s : State) : State :=
  if n ≥ 512 then s
  else if s.siteServed n then (s.evt ASY_EVT 5).refuse (ASY_SITE_CTL n) 0x0F08 else finalizeSite n s

/-- ASY_SITE_CTL.CLEAR at its tick (R184). -/
def siteClear (n : Nat) (s : State) : State :=
  if n ≥ 512 then s
  else if s.siteServed n then (s.evt ASY_EVT 5).refuse (ASY_SITE_CTL n) 0x0F09
  else s.putSite n { s.site n with session := Session.empty, fifo := [] }

/-- The result registers that a latch of ASY_RES_STAT fills. -/
def asyRegs (n : Nat) : List Nat :=
  [ASY_RES_SEQ n, ASY_RES_USER n, ASY_RES_FLAGS n 0, ASY_RES_FLAGS n 1, ASY_RES_END n, ASY_RES_REPAIRS n]

/-- A read of ASY_RES_STAT latches the current result (R191). -/
def asyLatch (n : Nat) (s : State) : State :=
  if n ≥ 512 then s
  else
    let a := ASY_RES_STAT n
    s.latchResult a (asyRegs n) (8192 * (s.bit a 13).toNat + 1024 * (s.queue a).items.length)

/-- ASY_RES_ADV.ADV (R191). -/
def asyAdv (n : Nat) (s : State) : State :=
  if n ≥ 512 then s
  else
    let s1 := s.advResult (ASY_RES_STAT n)
    s1.setBit (ASY_READY (n / 16)) (n % 16) (!(s1.queue (ASY_RES_STAT n)).items.isEmpty)

/-! Compare results of a site (R171 to R174). -/

/-- The groups of 64 site pins that a list of pin indices lies in, ascending. -/
def pinGroups (l : List Nat) : List Nat := (List.range 4).filter fun g => l.any fun i => i / 64 == g

/-- A mask of the pins of group `g` among pin indices. -/
def groupMask (g : Nat) (l : List Nat) : Nat :=
  (List.range 64).foldl (fun v b => if l.contains (64 * g + b) then v + 2 ^ b else v) 0

/-- A MARK record's payload. -/
def markPayload (code endCode arg time : Nat) : List Byte := leBytes 2 code ++ leBytes 2 endCode ++ leBytes 4 arg ++ leBytes 8 time

/-- The MARK records of a vector: RUN_START at the first of a run, TRIGGER and WAYPOINT at the first of their block (R174). -/
def siteMarks (n vector : Nat) (v : Vec) (s : State) : State :=
  if !s.bit (ASY_SITE_CFG n) 11 then s
  else
    let time := s.timeOf v.cross
    let mark := fun (t : State) (code arg : Nat) =>
      t.record n ⟨4, v.straggler, v.index, vector, 0, v.instr.tset, markPayload code 0 arg time⟩
    let s1 := if vector = 0 then mark s 1 (v.stream.1 % 64) else s
    if v.first && v.instr.op == 0x0B then mark s1 2 v.instr.arg
    else if v.first && v.instr.op == 0x09 then mark s1 3 v.instr.arg else s1

/-- The vector belongs to the run that a site is in, not to an earlier one. -/
def State.sameRun (s : State) (n : Nat) (v : Vec) : Bool := (s.ctx (s.fld (RUN_SITE_STAT n) 8 3)).lineage.getLast? == some v.run

/-- A vector's results at one site enter fail capture (R169 to R174). HIGH of a record shows every pin of the group. -/
def siteVector (n vector : Nat) (v : Vec) (obs : List PinObs) (s : State) : State :=
  let see := fun ch => (obs.find? fun o => o.channel == ch).getD ⟨ch, false, false, false⟩
  let mine := v.strobes.filter fun x => x.site == n
  let caps := mine.filter (·.isCapture)
  let heard := !v.instr.isMatch || v.instr.mlog
  let fails := if heard then mine.filter fun x => !x.isCapture && !x.pass (see x.channel) else []
  let isMem := fun (x : Strobe) => s.siteType n ≠ 0xFF && x.dbit.isSome
  let mems := fails.filter isMem
  let logics := (fails.filter fun x => !isMem x).map Strobe.index
  let highs := ((pinsOfSite s.casting n).zipIdx.filter fun e => (see e.1.channel).hi).map Prod.snd
  let capHighs := (caps.filter fun x => (see x.channel).hi).map Strobe.index
  let capLows := (caps.filter fun x => (see x.channel).lo).map Strobe.index
  let rec_ := fun (kind group : Nat) (p : List Byte) => FailRec.mk kind v.straggler v.index vector group v.instr.tset p
  let s1 := siteMarks n vector v s
  let s2 := (s1.when (!logics.isEmpty) (·.flagSite n 0)).when (s.bit (ASY_SITE_CFG n) 14) fun t =>
    t.each (pinGroups logics) fun w g => w.record n (rec_ 1 g (leBytes 8 (groupMask g logics) ++ leBytes 8 (groupMask g highs)))
  let s3 := match mems, v.read with
    | [], _ => s2
    | _, none => s2
    | _, some r =>
      let dbits := (mems.filterMap Strobe.dbit).eraseDups.foldl (fun m b => m + 2 ^ b) 0
      let e : MemEvent := ⟨r.pz, r.px, r.py, dbits⟩
      let region := ((s.geometry n).bind fun g => g.regionOfEvent e).getD 0xFF
      let t := s2.flagSite n 1
      let t1 := t.when (s.bit (ASY_SITE_CFG n) 13) fun w => w.record n (rec_ 2 region (leBytes 4 r.px ++ leBytes 2 r.py ++ leBytes 1 r.pz
        ++ leBytes 1 v.rdLat ++ leBytes 4 dbits))
      memoryEvent n e t1
  let s4 := s3.when (s.bit (ASY_SITE_CFG n) 12) fun t =>
    t.each (pinGroups (caps.map Strobe.index)) fun w g => w.record n (rec_ 3 g (leBytes 8 (groupMask g capHighs) ++ leBytes 8 (groupMask g capLows)))
  let s5 := if fails.isEmpty then s4
    else
      let x := s4.site n
      let runFails := if s4.sameRun n v then x.runFails + 1 else x.runFails
      abortCheck n (s4.putSite n { x with runFails := runFails, session := { x.session with failvec := x.session.failvec + 1 } })
  chkVector n (fun i => caps.any fun x => x.index == i) (fun i => capHighs.contains i) s5

/-- The flag of Table 6.7 that a leaving code sets; COMPLETE sets none. -/
def leaveFlag (code : Nat) : Option Nat :=
  if code = 0x0D10 then none else if code = 0x0F01 then some 6 else if code = 0x1310 then some 7 else if code = 0x0F02 then some 8 else some 9

/-- The leaving of a site reaches fail capture after the results of its vectors (R173, R174, R184, R185, R387, R473). -/
def siteEnds (n code time index tset vecs : Nat) (straggler : Bool) (s : State) : State :=
  let s1 := chkSiteLeaves n s
  let s2 := s1.when (s.bit (ASY_SITE_CFG n) 11) fun t => t.record n ⟨4, straggler, index, vecs, 0, tset, markPayload 4 code 0 time⟩
  let x := s2.site n
  let z := { x.session with codes := code :: x.session.codes, runs := x.session.runs + 1, endCode := code }
  let s3 := s2.putSite n { x with session := match leaveFlag code with | some b => z.setFlag b | none => z }
  if s.bit (ASY_SITE_CFG n) 15 then finalizeSite n s3 else s3

/-! Castings (R175, R184, R190). -/

/-- A casting apply defines a site: an empty session, an empty result queue and sequence number 1. -/
def defineSite (s : State) (n : Nat) : State :=
  let a := ASY_RES_STAT n
  let s1 := (s.setQueue a ResQueue.init).wr a 0
  let s2 := ((asyRegs n).foldl (fun t r => t.wr r 0) s1).setBit (ASY_READY (n / 16)) (n % 16) false
  s2.putSite n Site.init

/-- Shares of the fail partitions at the apply tick of a full casting: equal ones, in ascending site number. -/
def sharesFull (k : Casting) (s : State) : State :=
  let s0 := s.each (List.range 512) fun t n => t.setShare n 0 0
  s0.each (k.stores.map (·.part)) fun t p =>
    match findStore k p with
    | none => t
    | some st =>
      let sites := sortBy (· ≤ ·) ((k.caravans.filter fun c => c.failPart == p).flatMap fun c => sitesOfCaravan k c.caravan)
      let bytes := st.capacity / max 1 sites.length / 65536 * 65536
      (sites.zipIdx).foldl (fun u e => u.setShare e.1 (e.2 * bytes) bytes) t

/-- Shares at a recast of a caravan: released sites give theirs to new ones. -/
def sharesRecast (old new : List Nat) (s : State) : State :=
  let gone := sortBy (· ≤ ·) (old.filter fun n => !new.contains n)
  let fresh := sortBy (· ≤ ·) (new.filter fun n => !old.contains n)
  let shares := gone.map fun n => (s.wide (ASY_LOG_BASE n) 3, s.wide (ASY_LOG_CAP n) 2 * 32)
  let s1 := s.each gone fun t n => t.setShare n 0 0
  (fresh.zipIdx).foldl (fun t e => let sh := shares.getD e.2 (0, 0); (defineSite t e.1).setShare e.1 sh.1 sh.2) s1

/-! The rows. -/

/-- LOG_DRAIN_WRITE (R176). -/
def execLogDrainWrite (n : Nat) (s : State) : Host.Outcome State Fault Refusal := .next (logDrain n s)

/-- MEMORY_EVENT_ANALYSIS (R180). -/
def execMemoryEventAnalysis (n : Nat) (s : State) : Host.Outcome State Fault Refusal := .next (analyseEvent n s)

/-- FINALIZE (R185). -/
def execFinalize (n : Nat) (s : State) : Host.Outcome State Fault Refusal := .next (s.whenReady fun s => siteFinalize n s)

/-- SESSION_CLEAR (R184). -/
def execSessionClear (n : Nat) (s : State) : Host.Outcome State Fault Refusal := .next (s.whenReady fun s => siteClear n s)

/-- FINAL_ANALYSIS (R183). -/
def execFinalAnalysis (n : Nat) (s : State) : Host.Outcome State Fault Refusal := .next (finalAnalysis n s)

/-- ASY_RES_STAT_READ (R191). -/
def execAsyResStatRead (n : Nat) (s : State) : Host.Outcome State Fault Refusal :=
  .next (s.readReady fun s => if n < 512 then let t := asyLatch n s; { t with read := ⟨t.rdN (ASY_RES_STAT n), [], false⟩ } else s)

/-- ASY_RES_ADV (R191). -/
def execAsyResAdv (n : Nat) (s : State) : Host.Outcome State Fault Refusal := .next (s.whenReady fun s => asyAdv n s)

end Sys2Proof.Machine
end

