-- ==== Sys2Proof/Machine/Lanes.lean ====
section
/-!
DEFINITION. Machine/Lanes.lean: the lanes of the convoy ports: 64b/66b blocks, scrambling, striping, ALIGN blocks, lock and deskew
(R355, R356). notes/assumptions/28.md.
-/

namespace Sys2Proof.Machine

/-! Blocks (R355, R356). -/

/-- The type of a control block: its first byte. -/
def LineBlock.type (b : LineBlock) : Nat := b.bits % 256
def typeIdle : Nat := 0x1E
def typeStart : Nat := 0x5A
def typeTerm : Nat := 0xA5
def typeAlign : Nat := 0x4B

/-- The sync header of a block. -/
def LineBlock.header (b : LineBlock) : Nat := if b.control then 2 else 1

/-- The blocks of a frame: START with seven bytes, data blocks with the rest, and TERM. -/
def frameBlocks (f : List Byte) : List LineBlock :=
  let rest := f.drop 7
  ⟨true, typeStart + 256 * leAt f 0 7⟩ :: (List.range ((rest.length + 7) / 8)).map (fun i => ⟨false, leAt rest (8 * i) 8⟩) ++ [⟨true, typeTerm⟩]

/-- The bytes between a START block and the TERM block, `acc` those found so far. -/
def frameBody (acc : List Byte) : List LineBlock → Option (List Byte)
  | [] => none
  | b :: l =>
    if !b.control then frameBody (acc ++ leBytes 8 b.bits) l
    else if b.type = typeTerm then some acc
    else if b.type = typeAlign then frameBody acc l
    else none

/-- The first frame among the blocks of a port. -/
def frameFound : List LineBlock → Option (List Byte)
  | [] => none
  | b :: l => if b.control && b.type == typeStart then frameBody (leBytes 7 (b.bits / 256)) l else frameFound l

/-! Scrambling with x^58 + x^39 + 1 (R355). Each lane scrambles its own blocks, bit 0 first. -/

/-- The 64 bits `d` scrambled by a register of the last 58 bits sent, the latest in bit 0; the register after them comes first. -/
def scramble (reg d : Nat) : Nat × Nat :=
  (List.range 64).foldl (fun r i =>
    let b := ((d.testBit i ^^ r.1.testBit 38) ^^ r.1.testBit 57).toNat
    ((2 * r.1 + b) % 2 ^ 58, r.2 + b * 2 ^ i)) (reg, 0)

/-- 64 bits descrambled, given the 64 before them on their lane. -/
def descramble (before w : Nat) : Nat :=
  let x := before + w * 2 ^ 64
  (x ^^^ x * 2 ^ 39 ^^^ x * 2 ^ 58) / 2 ^ 64 % 2 ^ 64

/-! Sending. Block `n` of a port goes out on lane n mod 4 in block slot n ÷ 4. -/

/-- All four lanes send ALIGN in block slot `k`. -/
def alignSlot (k : Nat) : Bool := k % 16384 == 0

/-- The first block from block `n` on that may carry a frame. -/
def blockPlace (n : Nat) : Nat := if alignSlot (n / 4) then 4 * (n / 4 + 1) else n

/-- The block slot of a clock: a lane sends 25 blocks in 192 clocks. -/
def slotOf (up : Nat) : Nat := up * 25 / 192

/-- The number of the block after a frame of `n` blocks that begins at block `start`. -/
def placeAfter (start : Nat) : Nat → Nat
  | 0 => start
  | n + 1 => placeAfter (blockPlace start + 1) n

/-- The 66-bit words of a frame, each with its block number; `regs` are the scramblers of the four lanes before it. -/
def frameWords (start : Nat) (regs : List Nat) : List LineBlock → List (Nat × Nat)
  | [] => []
  | b :: l =>
    let regs1 := if alignSlot (start / 4) then regs.map fun r => (scramble r typeAlign).1 else regs
    let n := blockPlace start
    let w := scramble (regs1.getD (n % 4) 0) b.bits
    (n, b.header + 4 * w.2) :: frameWords (n + 1) (regs1.set (n % 4) w.1) l

/-- The scramblers of the lanes before a frame: the spec gives no seed, and what they hold is free. -/
def lineRegs (first : Nat) : List Nat := (List.range 4).map fun l => (Config.freeValue (first + l)).toNat % 2 ^ 58

/-- What a port sends of the frames of the present clock: 66-bit words with their block numbers. -/
def State.lineSent (s : State) (west : Bool) : List (Nat × Nat) :=
  ((s.cvy.sent.zip s.cvy.places).filter fun e => e.1.1 == west).flatMap fun e => frameWords e.2.1 (lineRegs e.2.2) (frameBlocks e.1.2)

/-- The block in place `n` of a port: ALIGN, a block of a frame of the present clock, or IDLE. -/
def State.blockAt (s : State) (west : Bool) (n : Nat) : LineBlock :=
  let mine := (s.cvy.sent.zip s.cvy.places).filter fun e => e.1.1 == west
  let all := mine.flatMap fun e => ((frameWords e.2.1 [] (frameBlocks e.1.2)).map Prod.fst).zip (frameBlocks e.1.2)
  if alignSlot (n / 4) then ⟨true, typeAlign⟩ else ((all.find? fun e => e.1 == n).map Prod.snd).getD ⟨true, typeIdle⟩

/-! Receiving. -/

/-- A lane after what it has received: an ALIGN block is on schedule 16,384 blocks after the one before. -/
def LaneRx.see (l : LaneRx) : LaneSeen → LaneRx
  | .valid n => { l with
      run := l.run + n, since := l.since.map (· + n), onTime := l.onTime && l.since.all fun k => k + n < 16384 }
  | .bad => { l with run := 0, since := l.since.map (· + 1), onTime := l.onTime && l.since.all fun k => k + 1 < 16384 }
  | .align slot => { run := l.run + 1, since := some 0, onTime := l.since == some 16383, slot := slot }

/-- A lane is locked. -/
def LaneRx.locked (l : LaneRx) : Bool := 64 ≤ l.run && l.onTime

/-- The lanes are all locked, and within the 64 blocks that deskew evens out. -/
def lanesAligned (l : List LaneRx) : Bool :=
  l.length == 4 && l.all LaneRx.locked && l.all fun a => l.all fun b => a.slot ≤ b.slot + 64

/-- How many block slots each lane lags behind the first. -/
def laneSkews (l : List LaneRx) : List Nat :=
  let first := (l.map (·.slot)).foldl min ((l.map (·.slot)).headD 0)
  l.map fun a => a.slot - first

/-- The blocks of a lane from its 66-bit words; the first word only lends its bits to the descrambler. -/
def laneBlocks (words : List Nat) : List LineBlock :=
  (words.zip words.tail).map fun e => ⟨e.2 % 4 == 2, descramble (e.1 / 4 % 2 ^ 64) (e.2 / 4 % 2 ^ 64)⟩

/-- The blocks of four lanes in the order in which they were striped. -/
def unstripe (lanes : List (List LineBlock)) : List LineBlock :=
  (List.range ((lanes.map List.length).foldl max 0)).flatMap fun r => lanes.filterMap fun l => l[r]?

/-- The frame in the words of four lanes that lag by `skews`. -/
def lineFrame (skews : List Nat) (lanes : List (List Nat)) : Option (List Byte) :=
  frameFound (unstripe ((lanes.zip skews).map fun e => laneBlocks (e.1.drop e.2)))

/-- A word has a valid sync header. -/
def headerOk (w : Nat) : Bool := w % 4 == 1 || w % 4 == 2

end Sys2Proof.Machine
end

