-- ==== Sys2Proof/Machine/ConvoyLink.lean ====
section
/-!
DEFINITION. Machine/ConvoyLink.lean: the frames of the convoy ports, how they are formed, checked and sent, and fault injection on
them (R358, R359, R372). notes/assumptions/28.md.
-/

namespace Sys2Proof.Machine

/-! Frames (Tables 13.1 and 13.2). -/

/-- Header and payload of a frame. -/
def frameHead (type flags src hops seq time : Nat) (payload : List Byte) : List Byte :=
  leBytes 1 type ++ leBytes 1 flags ++ leBytes 1 src ++ leBytes 1 hops ++ leBytes 2 payload.length ++ leBytes 2 seq ++ leBytes 8 time ++ payload

/-- A header and payload with CRC and pad. -/
def frameSeal (head : List Byte) : List Byte := head ++ leBytes 4 (crc32c head).toNat ++ leBytes 4 0

/-- The header and payload of a sealed frame. -/
def frameOpen (f : List Byte) : List Byte := f.take (16 + leAt f 4 2)

/-- A frame that is kept: its CRC holds, its LENGTH is at most 256 and its TYPE is one of Table 13.2 (R358). -/
def frameOk (f : List Byte) : Bool :=
  let n := leAt f 4 2
  n ≤ 256 && 16 + n + 4 ≤ f.length && 1 ≤ leAt f 0 1 && leAt f 0 1 ≤ 7 && leAt f (16 + n) 4 == (crc32c (frameOpen f)).toNat

def frameType (f : List Byte) : Nat := leAt f 0 1
def frameSrc (f : List Byte) : Nat := leAt f 2 1
def frameHops (f : List Byte) : Nat := leAt f 3 1
def frameSeq (f : List Byte) : Nat := leAt f 6 2
def frameTime (f : List Byte) : Nat := leAt f 8 8
/-- `n` bytes of the payload from offset `o`, as a number. -/
def frameArg (f : List Byte) (o n : Nat) : Nat := leAt f (16 + o) n

/-- A header byte replaced. -/
def setByte (l : List Byte) (o v : Nat) : List Byte := l.set o (BitVec.ofNat 8 v)

/-- One bit of a byte string inverted. -/
def flipBit (l : List Byte) (k : Nat) : List Byte := l.set (k / 8) (l.getD (k / 8) 0#8 ^^^ BitVec.ofNat 8 (2 ^ (k % 8)))

/-! The state of the module in its convoy (R360). -/

/-- CVY_STAT.STATE: 0 DISCOVERING, 1 FORMED, 2 EXCLUDED, 3 RESEAT_PENDING. -/
def State.cvyState (s : State) : Nat := s.fld CVY_STAT 15 13
/-- The module holds a position. -/
def State.seated (s : State) : Bool := s.cvyState == 1 || s.cvyState == 3
/-- The module's own position, 0xFF without one. -/
def State.position (s : State) : Nat := if s.seated then s.fld CVY_STAT 5 0 else 0xFF
def State.serial (s : State) : Nat := s.wide SYS_SERIAL 4
/-- The serial of the master that the module follows. -/
def State.master (s : State) : Nat := s.wide CVY_MASTER 4
def State.isMaster (s : State) : Bool := s.bit CVY_STAT 11

/-- A port, and whether it is up. -/
def State.port (s : State) (west : Bool) : Port := if west then s.cvy.west else s.cvy.east
def State.setPort (s : State) (west : Bool) (p : Port) : State :=
  { s with cvy := if west then { s.cvy with west := p } else { s.cvy with east := p } }
def State.portUp (s : State) (west : Bool) : Bool := s.bit CVY_STAT (if west then 6 else 7)

/-! Sending (R359, R372). -/

/-- A frame departs on a port, from the first block that is free. -/
def State.depart (s : State) (west : Bool) (f : List Byte) : State :=
  let p := s.port west
  let start := max p.next (4 * slotOf s.time.up)
  let s1 := s.setPort west { p with next := placeAfter start (frameBlocks f).length }
  { s1 with opens := s1.opens + 4, cvy := { s1.cvy with sent := s1.cvy.sent ++ [(west, f)], places := s1.cvy.places ++ [(start, s.opens)] } }

/-- A frame departs, and after it a frame that REORDER held back on this port. -/
def State.departOn (s : State) (west : Bool) (f : List Byte) : State :=
  let p := s.port west
  match p.heldBack with
  | none => s.depart west f
  | some h => ((s.depart west f).depart west h).setPort west { p with heldBack := none }

/-- A frame that fault injection has selected: dropped, sent with one header or payload bit inverted, or held back. -/
def State.injectFrame (s : State) (west : Bool) (mode : Nat) (head : List Byte) : State :=
  let marked := setByte head 1 (leAt head 1 1 ||| 1)
  let s1 := s.inc CVY_FI_CNT
  if mode = 1 then
    let r := s1.free
    r.2.departOn west (flipBit (frameSeal marked) (r.1 % (8 * marked.length)))
  else if mode = 2 ∧ (s.port west).heldBack.isNone then
    s1.setPort west { s1.port west with heldBack := some (frameSeal marked) }
  else if mode = 2 then s1.departOn west (frameSeal marked)
  else s1

/-- A frame leaves a port; on average one in every 2^RATE of the selected types is altered. -/
def State.sendOn (s : State) (west : Bool) (head : List Byte) : State :=
  let w := s.rd (if west then CVY_FI_CFG_W else CVY_FI_CFG_E)
  if w.getLsbD 15 && (bitsOf w 7 0).testBit (leAt head 0 1 - 1) then
    let r := s.free
    if r.1 % 2 ^ bitsOf w 12 8 = 0 then r.2.injectFrame west (bitsOf w 14 13) head else r.2.departOn west (frameSeal head)
  else s.departOn west (frameSeal head)

/-- The next value of the module's frame count. -/
def State.takeSeq (s : State) : Nat × State := (s.cvy.nextSeq, { s with cvy := { s.cvy with nextSeq := (s.cvy.nextSeq + 1) % 65536 } })

/-- A one-hop frame on one port. -/
def State.sendHop (s : State) (west : Bool) (type time : Nat) (payload : List Byte) : State :=
  let q := s.takeSeq
  q.2.sendOn west (frameHead type 0 s.position 0 q.1 time payload)

/-- A convoy frame of the module's own: twice on each port. -/
def State.flood (s : State) (type time : Nat) (payload : List Byte) : State :=
  let q := s.takeSeq
  let h := frameHead type 0 s.position 63 q.1 time payload
  (((q.2.sendOn false h).sendOn false h).sendOn true h).sendOn true h

/-- The accepted pairs after one more: the 1,024 most recent of each originator are kept. -/
def keepPairs (l : List (Nat × Nat)) (src seq : Nat) : List (Nat × Nat) :=
  let own := (l.filter fun p => p.1 == src).take 1023
  (src, seq) :: (own ++ l.filter fun p => p.1 ≠ src)

/-- A convoy frame arrives: its first copy is accepted and forwarded, and `f` takes it; a later copy and the module's own frames
are discarded. -/
def State.acceptFrame (s : State) (west : Bool) (f : List Byte) (act : State → State) : State :=
  let pair := (frameSrc f, frameSeq f)
  if s.cvy.pairs.contains pair || (s.seated && frameSrc f == s.position) then s
  else
    let s1 := { s with cvy := { s.cvy with pairs := keepPairs s.cvy.pairs pair.1 pair.2 } }
    let s2 := if frameHops f > 0 then s1.sendOn (!west) (setByte (frameOpen f) 3 (frameHops f - 1)) else s1
    act s2

/-- A frame that fails its check is discarded and counted. -/
def State.frameBad (s : State) (west : Bool) : State := s.inc (if west then CVY_CRC_ERR_W else CVY_CRC_ERR_E)

/-- A CONVOY entry of the run log. -/
def State.convoyLog (s : State) (event port oldTime : Nat) : State :=
  s.log 0x0021 s.convoyTime (leBytes 1 event ++ leBytes 1 port ++ leBytes 1 s.position ++ leBytes 1 s.cvyState ++ leBytes 4 0
    ++ leBytes 8 s.master ++ leBytes 8 oldTime)

end Sys2Proof.Machine
end

