-- ==== Sys2Proof/Machine/Power.lean ====
section
/-!
DEFINITION. Machine/Power.lean: the DUT power slices, site power and its limits, and the measurement blocks (R271 to R282).
notes/assumptions/26.md.
-/

namespace Sys2Proof.Machine

/-! Owners and gangs (R52, R271, R276). -/

def State.powerRec (s : State) (i : Nat) : Option PowerRec := s.casting.powers.find? fun p => p.slice == i

/-- The owner of a POWER record is live. -/
def State.ownerLive (s : State) (p : PowerRec) : Bool :=
  if p.byGroup then !s.groupTripped p.owner && (sitesOfGroup s.casting p.owner).any s.enabled
  else s.enabled p.owner && !s.groupTripped ((findSite s.casting p.owner).map (·.group) |>.getD 0)

/-- A slice is live (R271). -/
def State.sliceLive (s : State) (i : Nat) : Bool := (s.powerRec i).any s.ownerLive

/-- The leader of a slice's gang, and the members of a leader's gang. -/
def State.leaderOf (s : State) (i : Nat) : Nat := ((s.powerRec i).map (·.lead)).getD i
def State.gang (s : State) (i : Nat) : List Nat :=
  match s.powerRec i with
  | none => [i]
  | some p => (s.casting.powers.filter fun o => o.lead == p.lead).map (·.slice)

/-- DPS_STAT.STATE: 0 OFF, 1 DELAY_ON, 2 RAMP_UP, 3 ON, 4 DELAY_OFF, 5 RAMP_DOWN; a gang's members follow their leader. -/
def State.sliceState (s : State) (i : Nat) : Nat := s.fld (DPS_STAT i) 15 13
def State.setSliceState (s : State) (i v : Nat) : State := s.each (s.gang i) fun t k => t.setFld (DPS_STAT k) 15 13 v

/-! Ramps (R273): SLEW is 8 × 10^SLEW voltage codes per 3,000 clocks. -/

/-- The voltage code that VSET makes the slice act on. -/
def State.vsetActed (s : State) (i : Nat) : Nat := max 0x1F40 (min 0xCB20 (s.rdN (DPS_VSET i)))

/-- The output code in clock `c`. -/
def Slice.outAt (x : Slice) (c : Nat) : Nat :=
  let moved := (c - x.since) * (8 * 10 ^ x.slew) / 3000
  if x.out ≤ x.target then min x.target (x.out + moved) else max x.target (x.out - moved)

/-- Clocks that a ramp over `d` codes takes. -/
def rampClocks (slew d : Nat) : Nat := (d * 3000 + 8 * 10 ^ slew - 1) / (8 * 10 ^ slew)

/-- The clock in which the ramp reaches its target. -/
def Slice.doneAt (x : Slice) : Nat := x.since + rampClocks x.slew (max x.out x.target - min x.out x.target)

/-- A ramp starts from the present output toward `target`; its start is a timer event of the slice's monitor (R286). -/
def State.rampTo (s : State) (i target : Nat) : State :=
  let x := s.slice i
  (s.setSlice i { x with out := x.outAt s.time.up, since := s.time.up, target := target, slew := s.fld (DPS_RAMP i) 15 14 }).settingEvent
    (monOfSlice i)

/-- The current limit of slice `i` in force, over its gang, in current codes of one slice: a negative ILIM acts as 0 (R271), and a
gang's is its leader's times the members (R276). -/
def State.limitActed (s : State) (i : Nat) : Nat := curActed (s.rdN (DPS_ILIM i)) * (s.gang i).length

/-- DPS_STAT.CLAMP follows whether the current limit holds the output: the slice is connected and its load would draw more than the
limit in force (R271). -/
def State.clampFollow (s : State) (i : Nat) : State :=
  let holds := 2 ≤ s.sliceState i && (s.slice i).demand > s.limitActed i
  if holds == s.bit (DPS_STAT i) 12 then s
  else if holds then (s.setBit (DPS_STAT i) 12 true).evt (DPS_EVT i) 1
  else (s.setSlice i { s.slice i with clampedTill := s.time.up }).setBit (DPS_STAT i) 12 false

/-- The output disconnects with no ramp and the slice is OFF (R274, R275). -/
def State.sliceOff (s : State) (i : Nat) : State :=
  let s1 := s.setSlice i { s.slice i with
    ticks := 0, out := 8000, since := s.time.up, target := 8000, discharging := s.bit (DPS_RAMP i) 13, demand := 0 }
  ((s1.setSliceState i 0).clampFollow i).monRefresh (2176 + i)

/-- LIVE and GANG_MEMBER follow the casting, the enables and the trips; a slice that is not live has ON cleared, in force and in
shadow, and its gang disconnects (R271, R272, R274, R276). -/
def State.refreshSlices (s : State) : State :=
  s.each (List.range 256) fun t i =>
    let live := t.sliceLive i
    let t1 := (t.setBit (DPS_STAT i) 9 live).setBit (DPS_STAT i) 10 (t.leaderOf i ≠ i)
    if live then t1
    else
      let t2 := if t1.bit (DPS_CTL i) 0 then t1.forceBits (DPS_CTL i) 1 0 else t1
      if t2.sliceState i ≠ 0 then t2.sliceOff (t2.leaderOf i) else t2

/-- A slice trip reaches slice `i`: it acts on the whole gang (R274, R276). -/
def State.sliceTrip (s : State) (i : Nat) : State :=
  let l := s.leaderOf i
  let s1 := s.each (s.gang i) fun t k => if t.bit (DPS_STAT k) 11 then t else (t.setBit (DPS_STAT k) 11 true).evt (DPS_EVT k) 2
  if s1.sliceState l ≠ 0 then s1.sliceOff l else s1

/-- A slice trip ends (R292). -/
def State.sliceClear (s : State) (i : Nat) : State :=
  if s.bit (DPS_STAT i) 11 then (s.setSlice i { s.slice i with trippedTill := s.time.up }).setBit (DPS_STAT i) 11 false else s

/-! Settings at a tick (R272, R273). -/

/-- DPS_CTL takes effect. The registers of a gang's other members are kept but not applied (R276). OFF_DELAY is that of DPS_SEQ in
force at the tick at which ON is cleared (R273). -/
def dpsCtlCommit (i : Nat) (s : State) : State :=
  if s.leaderOf i ≠ i then s
  else
    let st := s.sliceState i
    let s1 :=
      if s.bit (DPS_CTL i) 0 then
        if !s.sliceLive i then
          (((s.forceBits (DPS_CTL i) 1 0).wrN (DPS_CODE i) 0x1303).evt (DPS_EVT i) 0).refuse (DPS_CTL i) 0x1303
        else
          let s0 := s.setSlice i { s.slice i with offDelay := none }
          if st = 0 then
            let t := (s0.setSlice i { s0.slice i with ticks := s.fld (DPS_SEQ i) 15 8, discharging := false }).setSliceState i 1
            ((s.gang i).foldl (fun u k => u.calPreempt (unitOfSlice k)) t).monRefresh (2176 + i)
          else if st = 4 then s0.setSliceState i 3
          else if st = 5 then (s0.rampTo i (s.vsetActed i)).setSliceState i 2
          else s0
      else
        let off := (s.slice i).offDelay.getD (s.fld (DPS_SEQ i) 7 0)
        let s0 := s.setSlice i { s.slice i with offDelay := some off }
        if st = 3 then (s0.setSlice i { s0.slice i with ticks := off }).setSliceState i 4 else s0
    s1.settingEvent (monOfSlice i)

/-- DPS_ILIM takes effect (R271, R286). -/
def dpsIlimCommit (i : Nat) (s : State) : State :=
  if s.leaderOf i ≠ i then s else (s.clampFollow i).settingEvent (monOfSlice i)

/-- DPS_VSET takes effect: a connected slice ramps to it. -/
def dpsVsetCommit (i : Nat) (s : State) : State :=
  if s.leaderOf i ≠ i then s
  else
    let st := s.sliceState i
    let s1 := if st = 2 ∨ st = 3 ∨ st = 4 then s.rampTo i (s.vsetActed i) else s
    s1.settingEvent (monOfSlice i)

/-- DPS_RAMP takes effect: a ramp under way goes on at the new rate. -/
def dpsRampCommit (i : Nat) (s : State) : State :=
  let x := s.slice i
  if s.leaderOf i ≠ i then s else s.setSlice i { x with out := x.outAt s.time.up, since := s.time.up, slew := s.fld (DPS_RAMP i) 15 14 }

/-- A tick passes in the delays (R273). -/
def State.sliceTicks (s : State) : State :=
  s.each (s.slices.map (·.1)) fun t i => t.setSlice i { t.slice i with ticks := (t.slice i).ticks - 1 }

/-! Site power (R277, R278). -/

/-- The mean output power of the slices with owner test `own`, in units of 10 mW; a gang counts once, through its leader. -/
def ownedPower (k : Casting) (powers : List (Nat × Nat)) (own : PowerRec → Bool) : Nat :=
  (k.powers.filter fun p => own p && p.lead == p.slice).foldl
    (fun n p => n + ((powers.find? fun x => x.1 == p.slice).map (·.2)).getD 0) 0

/-- The site's power exceeds its limit in force. -/
def State.overLimit (s : State) (powers : List (Nat × Nat)) (x : SiteRec) : Bool :=
  let k := s.casting
  let sites := (sitesOfGroup k x.group).length
  let own := ownedPower k powers fun p => !p.byGroup && p.owner == x.site
  let grp := ownedPower k powers fun p => p.byGroup && p.owner == x.group
  let limit := min (s.rdN (DPS_SLIM x.site)) (s.rdN (DPS_SCEIL x.site))
  (slicesOfSite k x.site > 0 || slicesOfGroup k x.group > 0) && own * sites + grp > limit * sites

/-- The power controllers compare site power with limits at a tick: the state with DPS_TOTAL and the stages over the limit, and the
groups that trip with cause POWER. -/
def State.powerCheck (s : State) (powers : List (Nat × Nat)) : State × List Nat :=
  let k := s.casting
  let s1 := s.wrN DPS_TOTAL (min 0xFFFF (ownedPower k powers fun _ => true))
  let need := max 1 (s.fld DPS_PWIN 3 0)
  k.sites.foldl (fun r x =>
    let n := if s.overLimit powers x then tabGet (fun _ => 0) r.1.trips.exceeded x.site + 1 else 0
    let trip := n ≥ need
    ({ r.1 with trips := { r.1.trips with exceeded := tabSet (fun _ => 0) r.1.trips.exceeded x.site (if trip then 0 else n) } },
      if trip then r.2 ++ [x.group] else r.2)) (s1, [])

/-- The refusal of a ceiling `v` for site `n` (R277). -/
def State.ceilCode (s : State) (n v : Nat) : Option Nat :=
  let k := s.casting
  let g := ((findSite k n).map (·.group)).getD 512
  let sites := (sitesOfGroup k g).length
  let bound := 330 * slicesOfSite k n + (if sites = 0 then 0 else 330 * slicesOfGroup k g / sites)
  let total := (List.range 512).foldl (fun t m => t + (if m = n then v else (s.shadowOf (DPS_SCEIL m)).toNat)) 0
  if v > bound then some 0x1304 else if total > 30000 then some 0x1305 else none

/-- A casting apply gives each site that it defines its ceiling and resets its limit. -/
def State.ceilings (s : State) (k : Casting) : State :=
  k.sites.foldl (fun t x =>
    let m := ((k.budgets.find? fun b => b.site == x.site).map (·.max)).getD 0
    (t.force (DPS_SCEIL x.site) (BitVec.ofNat 16 m)).force (DPS_SLIM x.site) 0xFFFF) s

/-! Measurement (R279 to R282). A block is named by its base; its converter is that of the lane, or the slice's own. -/

/-- What a measurement block belongs to: a channel (false) or a slice (true), with its number. -/
def measUnit (b : Nat) : Option (Bool × Nat) :=
  if 0x1000140 ≤ b && (b - 0x1000140) % 0x1000 == 0 && (b - 0x1000140) / 0x1000 < 2176 then some (false, (b - 0x1000140) / 0x1000)
  else if 0x300040 ≤ b && (b - 0x300040) % 0x100 == 0 && (b - 0x300040) / 0x100 < 256 then some (true, (b - 0x300040) / 0x100)
  else none

/-- The converter of a unit. -/
def converterOf : Bool × Nat → Nat
  | (false, ch) => laneOf ch
  | (true, i) => 128 + i

/-- GO at its tick. -/
def measGo (b : Nat) (s : State) : State :=
  match measUnit b with
  | none => s
  | some (sl, n) =>
    let k := converterOf (sl, n)
    let q := (s.adc k).queue
    let ready := if sl then s.sliceLive n else s.bit (PMU_STAT n) 3
    if sl && s.leaderOf n ≠ n then s
    else if q.any (·.1 == b) then (s.wrN (PMU_MEAS_CODE b) 0x1301).refuse (PMU_MEAS_CTL b) 0x1301
    else if !ready then (s.wrN (PMU_MEAS_CODE b) 0x1302).refuse (PMU_MEAS_CTL b) 0x1302
    else (s.setAdc k { s.adc k with queue := q ++ [(b, s.time.up)] }).setBit (PMU_MEAS_STAT b) 10 true

/-- The request measures voltage. -/
def State.measVolts (s : State) (sl : Bool) (n b : Nat) : Bool :=
  let qty := s.fld (PMU_MEAS_CFG b) 12 11
  let m := s.pmuMode n
  if qty = 1 then true else if qty = 2 then !sl && m == 3 else !sl && (m == 2 || m == 3)

/-- A sum over `n` conversions divided by `n`, to nearest with ties away from zero (R280). -/
def roundDiv (sum : Int) (n : Nat) : Int := if sum ≥ 0 then (2 * sum + n) / (2 * n : Nat) else -((2 * -sum + n) / (2 * n : Nat))

/-- The conversions of the request of block `b`, which began in clock `start`, have been taken. -/
def measDone (b start : Nat) (codes : List Nat) (clamp : Bool) (s : State) : State :=
  match measUnit b with
  | none => s
  | some (sl, n) =>
    let k := converterOf (sl, n)
    let volts := s.measVolts sl n b
    let vals := codes.map fun c => if volts then ((c % 65536 : Nat) : Int) else signed 16 c
    let first := vals.headD 0
    let lo := vals.foldl min first
    let hi := vals.foldl max first
    let ends := if volts then [(0 : Int), 65535] else [-32768, 32767]
    let range := if sl then s.fld (PMU_MEAS_CFG b) 2 1 else pmuRange (s.rd (PMU_MODE n))
    let clamped := if sl then s.bit (DPS_STAT n) 12 || (s.slice n).clampedTill > start else clamp
    let tripped :=
      if sl then s.bit (DPS_STAT n) 11 || (s.slice n).trippedTill > start else s.bit (PIN_STAT n) 14 || (s.chan n).trippedTill > start
    let bit := fun (x : Nat) (c : Bool) => if c then 2 ^ x else 0
    let a := PMU_MEAS_STAT b
    let q := s.queue a
    let flags := bit 0 volts + 2 * range + bit 4 clamped + bit 5 (!sl && (s.chan n).rangedTill > start) + bit 6 tripped + bit 7 q.gap
      + bit 8 (vals.any ends.contains)
    let s2 := (s.setAdc k ⟨s.time.up, ((s.adc k).queue.filter fun x => x.1 ≠ b)⟩).setBit a 10 false
    if q.items.length ≥ 4 then (s2.inc (PMU_MEAS_DROP b)).dropResult a
    else
      (s2.pushResult a 0 ([unsigned 16 (roundDiv (vals.foldl (· + ·) 0) codes.length), unsigned 16 lo, unsigned 16 hi, flags]
        ++ words64 (s.timeOf start))).setBit a 15 true

/-- A read of PMU_MEAS_STAT latches the oldest result (R281). -/
def measLatch (b : Nat) (s : State) : State :=
  let a := PMU_MEAS_STAT b
  let busy := match measUnit b with
    | some u => (s.adc (converterOf u)).queue.any (·.1 == b)
    | none => false
  s.latchResult a ([PMU_MEAS_SEQ b, PMU_MEAS_AVG b, PMU_MEAS_MIN b, PMU_MEAS_MAX b, PMU_MEAS_FLAGS b]
    ++ (List.range 4).map fun i => PMU_MEAS_T b + 2 * i) (2048 * (s.queue a).items.length + (if busy then 1024 else 0))

/-! The rows. -/

/-- DPS_ON (R272): DPS_CTL with ON at 1 takes effect. -/
def execDpsOn (i : Nat) (s : State) : Host.Outcome State Fault Refusal :=
  .next (s.whenReady fun s => if i < 256 then dpsCtlCommit i (s.setBit (DPS_CTL i) 0 true) else s)

/-- SLICE_DELAY_ON_EXPIRY (R273): the output connects at 0 V. -/
def execSliceDelayOnExpiry (i : Nat) (s : State) : Host.Outcome State Fault Refusal :=
  .next (if i < 256 ∧ s.leaderOf i = i ∧ s.sliceState i = 1 ∧ (s.slice i).ticks = 0 then
      let x := s.slice i
      ((s.setSlice i { x with out := 8000, since := s.time.up, target := 8000 }).setSliceState i 2).rampTo i (s.vsetActed i)
    else s)

/-- AT_LEVEL (R273). A slice whose ON has been cleared meanwhile goes on to DELAY_OFF. -/
def execAtLevel (i : Nat) (s : State) : Host.Outcome State Fault Refusal :=
  .next (if i < 256 ∧ s.leaderOf i = i ∧ s.sliceState i = 2 then
      s.atDue (s.slice i).doneAt fun t =>
        let t1 := ((t.setSliceState i 3).evt (DPS_EVT i) 3).settingEvent (monOfSlice i)
        if t1.bit (DPS_CTL i) 0 then t1 else (t1.setSlice i { t1.slice i with ticks := (t1.slice i).offDelay.getD (t1.fld (DPS_SEQ i) 7 0) }).setSliceState i 4
    else s)

/-- SLICE_DELAY_OFF_EXPIRY (R273). -/
def execSliceDelayOffExpiry (i : Nat) (s : State) : Host.Outcome State Fault Refusal :=
  .next (if i < 256 ∧ s.leaderOf i = i ∧ s.sliceState i = 4 ∧ (s.slice i).ticks = 0 then (s.setSliceState i 5).rampTo i 8000 else s)

/-- OFF_DONE (R273): the output is below 50 mV and disconnects. -/
def execOffDone (i : Nat) (s : State) : Host.Outcome State Fault Refusal :=
  .next (if i < 256 ∧ s.leaderOf i = i ∧ s.sliceState i = 5 then
      let x := s.slice i
      s.atDue (x.since + rampClocks x.slew (x.out - 8399)) fun t => ((t.settingEvent (monOfSlice i)).sliceOff i).evt (DPS_EVT i) 4
    else s)

/-- DISCHARGE_END (R275): the output falls below 50 mV and the active discharge ends. -/
def execDischargeEnd (i : Nat) (s : State) : Host.Outcome State Fault Refusal :=
  .next (if s.sliceState i = 0 then s.setSlice i { s.slice i with discharging := false } else s)

/-- VSET_RAMP_END (R273): the ramp of a changed VSET ends, which is a timer event. -/
def execVsetRampEnd (i : Nat) (s : State) : Host.Outcome State Fault Refusal :=
  .next (let x := s.slice i
    if i < 256 ∧ (s.sliceState i = 3 ∨ s.sliceState i = 4) ∧ x.out ≠ x.target then
      s.atDue x.doneAt fun t => (t.setSlice i { x with out := x.target, since := t.time.up }).settingEvent (monOfSlice i)
    else s)

/-- CURRENT_LIMIT_ENGAGED (R271): the load of slice `x.unit`, or of the gang that it leads, would draw a current of magnitude `x.code`,
in current codes of one slice. -/
def execCurrentLimitEngaged (x : CodeRead) (s : State) : Host.Outcome State Fault Refusal :=
  .next (let i := x.unit
    if i < 256 ∧ s.leaderOf i = i then (s.setSlice i { s.slice i with demand := x.code }).clampFollow i else s)

/-- PMU_MEAS_GO (R279). -/
def execPmuMeasGo (ch : Nat) (s : State) : Host.Outcome State Fault Refusal := .next (s.whenReady fun s => measGo (measOfChannel ch) s)

/-- DPS_MEAS_GO (R282). -/
def execDpsMeasGo (i : Nat) (s : State) : Host.Outcome State Fault Refusal := .next (s.whenReady fun s => measGo (measOfSlice i) s)

/-- MEAS_COMPLETE (R280): the request at the head of its converter's queue has its conversions `codes`; `clamp` tells that a clamp
limited the PMU's force during them. -/
def execMeasComplete (b : Nat) (codes : List Nat) (clamp : Bool) (s : State) : Host.Outcome State Fault Refusal :=
  .next (match measUnit b with
    | none => s
    | some u =>
      let k := converterOf u
      match (s.adc k).queue with
      | (b0, acc) :: _ =>
        let n := 2 ^ s.fld (PMU_MEAS_CFG b) 15 13
        let start := max (acc + 3000 * s.fld (PMU_MEAS_CFG b) 10 3) (s.adc k).free
        if b0 ≠ b ∨ codes.length ≠ n ∨ (u.1 = false ∧ s.cal.lanes.contains k) then s
        else s.atDue (start + 3000 * n) (measDone b start codes clamp)
      | [] => s)

/-- PMU_MEAS_STAT_READ (R281). -/
def execPmuMeasStatRead (b : Nat) (s : State) : Host.Outcome State Fault Refusal :=
  .next (s.readReady fun s => if (measUnit b).isNone then s else let t := measLatch b s; { t with read := ⟨t.rdN (PMU_MEAS_STAT b), [], false⟩ })

/-- PMU_MEAS_ADV (R281). -/
def execPmuMeasAdv (b : Nat) (s : State) : Host.Outcome State Fault Refusal :=
  .next (s.whenReady fun s => if (measUnit b).isNone then s else s.advResult (PMU_MEAS_STAT b))

end Sys2Proof.Machine
end

