-- ==== Sys2Proof/Machine/Trips.lean ====
section
/-!
DEFINITION. Machine/Trips.lean: the trip net: monitor trips, groups and their recovery (R287 to R292). notes/assumptions/29.md.
-/

namespace Sys2Proof.Machine

/-! Groups and their members (R51, R287, R288). -/

/-- The pins of the group's sites; common pins are not shut. -/
def groupPins (k : Casting) (g : Nat) : List Nat :=
  (k.pins.filter fun p => !p.common && (findSite k p.owner).any fun x => x.group == g).map (·.channel)

/-- The slices that a site of the group or the group owns. -/
def groupSlices (k : Casting) (g : Nat) : List Nat :=
  (k.powers.filter fun p => if p.byGroup then p.owner == g else (findSite k p.owner).any fun x => x.group == g).map (·.slice)

/-- The action and NOTIFY of a group; one without a TRIP record has action 0 and no notice. -/
def groupRule (k : Casting) (g : Nat) : Nat × Bool :=
  ((k.trips.find? fun t => t.group == g).map fun t => (t.action, t.notify)).getD (0, false)

/-- The groups that a monitor belongs to. -/
def monGroups (k : Casting) (u : Nat) : List Nat :=
  if u < 2176 then
    match findPin k u with
    | none => []
    | some p =>
      ((if p.common then sitesOfCaravan k p.owner else [p.owner]).filterMap fun n => (findSite k n).map (·.group)).eraseDups
  else
    match k.powers.find? fun p => p.slice == u - 2176 with
    | none => []
    | some p => if p.byGroup then [p.owner] else ((findSite k p.owner).map (·.group)).toList

/-- The monitors of a group. -/
def groupMonitors (k : Casting) (g : Nat) : List Nat :=
  let us : List Nat := (k.pins.map (fun p => p.channel)) ++ (k.powers.map fun p => 2176 + p.slice)
  us.filter fun u => (monGroups k u).contains g

/-! A trip (R288, R289, R291). -/

/-- The trip reaches the channels, AWGs and slices of the group that its action names: 0 both, 1 drivers, 2 slices. -/
def State.tripReach (s : State) (g action : Nat) : State :=
  let chs := groupPins s.casting g
  let s1 := if action = 2 then s else awgTrip chs (s.each chs State.driverTrip)
  let s2 := if action = 1 then s1 else s1.each (groupSlices s.casting g) State.sliceTrip
  s2.refreshSlices

/-- The FAIL frame of a trip with NOTIFY (R368). -/
def State.failNotice (s : State) (g : Nat) : State :=
  let first := s.rd (MON_GRP_FIRST g)
  s.flood 5 s.convoyTime (leBytes 2 g ++ leBytes 1 (bitsOf first 15 12) ++ leBytes 1 0 ++ leBytes 2 (bitsOf first 11 0) ++ leBytes 2 0
    ++ siteBitmap (sitesOfGroup s.casting g))

/-- A FAIL frame of group `g` that module `src` sends, with another cause and unit. -/
def renameFail (src g cause unit : Nat) (f : List Byte) : List Byte :=
  if frameOk f && frameType f == 5 && frameSrc f == src && frameArg f 0 2 == g then
    let h := frameOpen f
    frameSeal (h.take 18 ++ leBytes 1 cause ++ slice h 19 1 ++ leBytes 2 unit ++ h.drop 22)
  else f

/-- FIRST of a group drops to a lower cause or unit decided in the same clock (R289): its TRIP entry and the FAIL frames of this clock
name that one (R288). -/
def State.renameFirst (s : State) (g cause unit : Nat) : State :=
  let s1 := s.wrN (MON_GRP_FIRST g) (cause * 4096 + unit)
  let wc := tabGet (fun _ => 0) s.trips.noted g
  let s2 := (s1.patchLog wc 18 (leBytes 1 cause)).patchLog wc 20 (leBytes 2 unit)
  { s2 with cvy := { s2.cvy with sent := s2.cvy.sent.map fun x => (x.1, renameFail s.position g cause unit x.2) } }

/-- A site in a running context leaves its run at the next ingot boundary of its context (R290). -/
def State.tripLeaves (s : State) (g : Nat) : State :=
  s.each (sitesOfGroup s.casting g) fun t n => if t.siteServed n then t.setSite n { t.site n with tripped := true } else t

/-- The trip of a group not tripped acts. -/
def State.groupTrips (s : State) (g cause unit : Nat) : State :=
  let rule := groupRule s.casting g
  let s1 := (s.setFld (MON_GRP_STAT g) 15 15 1).setFld (MON_GRP_STAT g) 11 8 (2 ^ cause)
  let s2 := ((s1.wrN (MON_GRP_FIRST g) (cause * 4096 + unit)).setWide (MON_GRP_T g) 4 s.convoyTime).evt (MON_GRP_EVT g) 0
  let s3 := ((s2.tripReach g rule.1).tripLeaves g).irqUrgent
  let s4 := { s3 with trips := { s3.trips with noted := tabSet (fun _ => 0) s3.trips.noted g (s3.wide HST_LOG_WR 2) } }
  let s5 := s4.logSites 0x0004 s.convoyTime (leBytes 2 g ++ leBytes 1 cause ++ leBytes 1 rule.1 ++ leBytes 2 unit)
    (sitesOfGroup s.casting g)
  let s6 := if rule.2 then s5.failNotice g else s5
  if s.bit (MON_GRP_CFG g) 15 then { s6 with trips := { s6.trips with disable := g :: s6.trips.disable } } else s6

/-- The clear of group `g` that a tick accepted in the present clock. -/
def State.clearedNow (s : State) (g : Nat) : Option ClearNote := s.trips.cleared.find? fun x => x.group == g && x.clock == s.time.up

/-- A trip decided in the clock of a tick that accepted a clear: the clear is refused after all, the group stayed tripped (R292), and
the trip is a later one. -/
def State.clearUndone (s : State) (g cause : Nat) (x : ClearNote) : State :=
  let rule := groupRule s.casting g
  let s1 := (s.setFld (MON_GRP_STAT g) 15 15 1).setFld (MON_GRP_STAT g) 11 8 (x.causes ||| 2 ^ cause)
  let s2 := if x.stood then s1 else s1.setBit (MON_GRP_EVT g) 1 false
  let s3 := ((s2.wrN (MON_GRP_CODE g) 0x1308).evt (MON_GRP_EVT g) 2).inc (MON_GRP_CNT g)
  let s4 := if rule.1 = 2 then s3 else s3.each (groupPins s.casting g) State.driverOff
  let s5 := if rule.1 = 1 then s4 else s4.each (groupSlices s.casting g) fun t i => t.setBit (DPS_STAT i) 11 true
  let s6 := (s5.patchLog x.entry 18 (leBytes 1 1)).patchLog x.entry 20 (leBytes 2 0x1308)
  { s6.refreshSlices with trips := { s6.trips with cleared := [] } }

/-- A cause trips a group. `unit` is the monitor unit, 0 for a cause without one. A first trip acts; a later one adds its cause;
causes of the first trip's own clock are recorded with it. -/
def State.groupTrip (s : State) (g cause unit : Nat) : State :=
  let s0 := { s with trips := { s.trips with since := tabInsert (tabErase s.trips.since g) g s.time.up } }
  if s.groupTripped g then
    let s1 := s0.setFld (MON_GRP_STAT g) 11 8 (s.fld (MON_GRP_STAT g) 11 8 ||| 2 ^ cause)
    if s.wide (MON_GRP_T g) 4 = s.convoyTime then
      if cause * 4096 + unit < s.rdN (MON_GRP_FIRST g) then s1.renameFirst g cause unit else s1
    else s1.inc (MON_GRP_CNT g)
  else match s.clearedNow g with
  | some x => s0.clearUndone g cause x
  | none => s0.groupTrips g cause unit

/-- Enables of the groups tripped in the stage that ended clear at the tick (R291). -/
def State.tripDisable (s : State) : State :=
  let gs := s.trips.disable
  let s1 := s.each gs fun t g => t.each (sitesOfGroup t.casting g) State.disableNow
  { s1 with trips := { s1.trips with disable := [] } }

/-- An outside decision of the monitor whose block is at `b` that no blanking window holds: a monitor trip (R287). -/
def monitorDecides (b : Nat) (s : State) : State :=
  match monUnit b with
  | none => s
  | some u =>
    if s.monActive u && !s.bit (MON_STAT b) 13 && !(s.mon b).tripped && s.canDecide u then
      let s1 := ((s.setFld (MON_STAT b) 15 14 2).setMon b { s.mon b with tripped := true }).inc (MON_TRIP_CNT b)
      let s2 := (s1.evt (MON_EVT b) 0).setWide (MON_TRIP_T b) 4 s.convoyTime
      s2.each (monGroups s.casting u) fun t g => t.groupTrip g 0 u
    else s

/-- A comparison of the code `v` of the monitored quantity. -/
def monitorTrip (b v : Nat) (s : State) : State :=
  match monUnit b with
  | none => s
  | some u => if s.monOutside u v then monitorDecides b s else s

/-- The blanking window ends (R286), with the monitored quantity at code `v`. A quantity still outside then is an outside decision that
nothing blanks. -/
def blankClose (b v : Nat) (s : State) : State :=
  match monUnit b with
  | none => s
  | some u =>
    if s.bit (MON_STAT b) 13 then
      s.atDue (s.mon b).until_ fun t =>
        let t1 := t.setBit (MON_STAT b) 13 false
        if t1.monActive u && t1.monOutside u v then monitorDecides b (t1.setMon b { t1.mon b with tripped := false }) else t1
    else s

/-! Recovery (R292). -/

/-- A write of MON_GRP_CTL.CLEAR: a class 0 item, which a hold does not delay. -/
def groupClear (g : Nat) (s : State) : State := if g < 512 then s.arrive 0 0 (yardCost 0) (.clear g) else s

/-- The item's tick. -/
def clearAtTick (g : Nat) (s : State) : State :=
  if !s.groupTripped g then s
  else
    let k := s.casting
    let outside := (groupMonitors k g).any fun u => s.fld (MON_STAT (monBase u)) 15 14 == 2
    let now := tabLookup s.trips.since g == some s.time.up
    if outside || now then
      ((s.wrN (MON_GRP_CODE g) 0x1308).evt (MON_GRP_EVT g) 2).log 0x0005 s.convoyTime
        (leBytes 2 g ++ leBytes 1 1 ++ leBytes 1 0 ++ leBytes 2 0x1308)
    else
      let x : ClearNote := ⟨g, s.time.up, s.fld (MON_GRP_STAT g) 11 8, s.bit (MON_GRP_EVT g) 1, s.wide HST_LOG_WR 2⟩
      let s1 := ((s.setFld (MON_GRP_STAT g) 15 15 0).setFld (MON_GRP_STAT g) 11 8 0).evt (MON_GRP_EVT g) 1
      let s2 := s1.each (groupPins k g) State.driverClear
      let s3 := s2.each (groupSlices k g) State.sliceClear
      let s4 := { s3.refreshSlices with trips := { s3.trips with cleared := x :: s3.trips.cleared.filter fun y => y.clock == s.time.up } }
      s4.log 0x0005 s.convoyTime (leBytes 2 g ++ leBytes 1 0 ++ leBytes 1 0 ++ leBytes 2 0)

/-- ACTION and NOTIFY of every group, as the casting applied gives them. -/
def State.groupsCast (s : State) : State :=
  s.each (List.range 512) fun t g =>
    let rule := groupRule t.casting g
    (t.setFld (MON_GRP_STAT g) 14 13 rule.1).setBit (MON_GRP_STAT g) 12 rule.2

/-! The rows. -/

/-- MONITOR_TRIP (R287): a comparison of the monitored quantity of the monitor at `x.unit`. -/
def execMonitorTrip (x : CodeRead) (s : State) : Host.Outcome State Fault Refusal := .next (monitorTrip x.unit x.code s)

/-- BLANK_WINDOW_CLOSE (R286), with the monitored quantity at code `v`. -/
def execBlankWindowClose (b v : Nat) (s : State) : Host.Outcome State Fault Refusal := .next (blankClose b v s)

/-- GROUP_FORCE (R287): cause HOST, which acts at once. -/
def execGroupForce (g : Nat) (s : State) : Host.Outcome State Fault Refusal :=
  .next (s.whenReady fun s => if g < 512 then s.groupTrip g 2 0 else s)

/-- GROUP_CLEAR (R292). -/
def execGroupClear (g : Nat) (s : State) : Host.Outcome State Fault Refusal := .next (s.whenReady fun s => groupClear g s)

end Sys2Proof.Machine
end

