-- ==== Sys2Proof/Machine/Calib.lean ====
section
/-!
DEFINITION. Machine/Calib.lean: calibration requests and their units, level trim tables, calibration records, quadrant spares and
cluster isolation (Calibration, Spares and Live Service, R299 to R320). notes/assumptions/30.md.
-/

namespace Sys2Proof.Machine

/-! Level trim tables (R307, R325). -/

/-- Entry `k` of the nominal table: gains 1.0, offsets and skews 0. -/
def lvlNominal (k : Nat) : Nat :=
  if k = 16 then Config.nominalImpedance % 65536
  else if (k < 16 ∨ (20 ≤ k ∧ k < 60)) ∧ k % 2 = 0 then 0x8000 else 0

/-- Entry `k` of the active table of channel `ch`. -/
def State.lvlEntry (s : State) (ch k : Nat) : Nat :=
  match tabLookup s.cal.tables ch with
  | none => lvlNominal k
  | some t => tabGet (fun _ => 0) t k

/-- The shadow table of a channel. -/
def State.lvlShadow (s : State) (ch : Nat) : Tab Nat := tabGet (fun _ => []) s.cal.shadows ch

/-- An entry is acceptable in its place. The nominal impedance entry lies in the trim range (DEDUCED, log entry 30). -/
def lvlEntryOk (k v : Nat) : Bool :=
  if k = 16 then v == Config.nominalImpedance % 65536 || Config.impedanceInRange v
  else if 60 ≤ k then true
  else if k < 16 ∨ 20 ≤ k then
    if k % 2 = 0 then 0x7D71 ≤ v && v ≤ 0x828F else -1024 ≤ signed 16 v && signed 16 v ≤ 1024
  else true

/-- A table of 64 entries is acceptable. -/
def lvlTableOk (entry : Nat → Nat) : Bool := (List.range 64).all fun k => lvlEntryOk k (entry k)

/-- A write through LVL_TDATA to the shadow table. -/
def lvlTableWrite (ch v : Nat) (s : State) : State :=
  if ch ≥ 2176 then s
  else
    let k := s.fld (LVL_TSEL ch) 5 0
    let t := tabSet (fun _ => 0) (s.lvlShadow ch) k (v % 65536)
    let s1 := { s with cal := { s.cal with shadows := tabSet (fun _ => []) s.cal.shadows ch t } }
    s1.setFld (LVL_TSEL ch) 5 0 (k + 1)

/-- A read through LVL_TDATA. -/
def lvlTableRead (ch : Nat) (s : State) : Nat × State :=
  let k := s.fld (LVL_TSEL ch) 5 0
  (if s.bit (LVL_TSEL ch) 15 then tabGet (fun _ => 0) (s.lvlShadow ch) k else s.lvlEntry ch k, s.setFld (LVL_TSEL ch) 5 0 (k + 1))

/-- A write of LVL_TSWAP: a class 2 swap where the table passes R307. -/
def lvlTswap (ch : Nat) (s : State) : State :=
  if ch ≥ 2176 then s
  else
    let t := s.lvlShadow ch
    let entries := (List.range 64).map (tabGet (fun _ => 0) t)
    if !lvlTableOk (tabGet (fun _ => 0) t) || (crc32c (entries.flatMap (leBytes 2))).toNat ≠ s.wide (LVL_TCRC ch) 2 then
      (s.wrN (CAL_CODE (calOfChannel ch)) 0x1417).evt (LVL_TSTAT ch) 14
    else if s.bit (LVL_TSTAT ch) 15 then s
    else (s.setBit (LVL_TSTAT ch) 15 true).arrive 2 ch (yardCost 2) (.lvlSwap ch)

/-- A table becomes the active one: its generation counts and the levels load. -/
def lvlInstall (ch : Nat) (t : Tab Nat) (s : State) : State :=
  let s1 := { s with cal := { s.cal with tables := tabSet (fun _ => []) s.cal.tables ch t } }
  (s1.wrN (LVL_TGEN ch) (s1.rdN (LVL_TGEN ch) + 1)).loadLevels ch

/-- The tick of a swap item: the shadow becomes the active table. -/
def lvlSwapIn (ch : Nat) (s : State) : State := lvlInstall ch (s.lvlShadow ch) s

/-! Requests (R299 to R303). -/

/-- A reference beyond 250 µV from the median of the four, which is the mean of the middle two. -/
def suspects (z : List Nat) : List Nat :=
  let m := sortBy (· ≤ ·) z
  let mid2 := m.getD 1 0 + m.getD 2 0
  (List.range 4).filter fun q => max (2 * z.getD q 0) mid2 - min (2 * z.getD q 0) mid2 > 500

/-- The quadrant whose reference set the units of quadrant `q` use (R300): their own, or where it is suspect the next one in order that is
not. -/
def refOf (bad : List Nat) (q : Nat) : Nat := (((List.range 4).map fun i => (q + i) % 4).find? fun r => !bad.contains r).getD q

/-- The cluster of a unit; spares and slices lie in none. -/
def clusterOfUnit (x : Nat) : Option Nat :=
  if x < 2176 then some (laneOf x / 8)
  else if x < 2432 then none
  else
    let u := if x < 2452 then x - 2432 else x - 2452
    if u < 16 then some u else none

/-- The channels of a lane, the outrider last. -/
def laneUnits (lane : Nat) : List Nat := (List.range 17).map (laneChannel lane)

/-- The units of a cluster, of a quadrant's spares and slices, and of a scope (Table 11.1). -/
def clusterUnits (items k : Nat) : List Nat :=
  (if items % 4 ≠ 0 then (List.range 8).flatMap fun l => laneUnits (8 * k + l) else [])
    ++ (if items.testBit 2 then [unitOfAcq k] else []) ++ (if items.testBit 3 then [unitOfAwg k] else [])

def quadrantUnits (items q : Nat) : List Nat :=
  ((List.range 4).flatMap fun c => clusterUnits items (4 * q + c))
    ++ (if items.testBit 2 then [unitOfAcq (16 + q)] else []) ++ (if items.testBit 3 then [unitOfAwg (16 + q)] else [])
    ++ (if items.testBit 4 then (List.range 64).map fun i => unitOfSlice (64 * q + i) else [])

def scopeUnits (scope items first last : Nat) : List Nat :=
  let range := (List.range (last + 1 - first)).map (first + ·)
  match scope with
  | 0 => if items % 4 ≠ 0 then range else []
  | 1 => if items % 4 ≠ 0 then range.flatMap laneUnits else []
  | 2 => range.flatMap (clusterUnits items)
  | 3 => range.flatMap (quadrantUnits items)
  | _ => (List.range 4).flatMap (quadrantUnits items)

/-- The last place of a scope's range, none for a reserved scope. -/
def scopeLast (scope : Nat) : Option Nat := [2175, 127, 15, 3, 0][scope]?

/-- A refusal of a request. -/
def calGoRefused (code : Nat) (s : State) : State := ((s.wrN CALC_CODE code).evt CALC_EVT 1).refuse CAL_REQ_CTL code

/-- A unit's job begins. -/
def calBegin (x : Nat) (f : CalJob → CalJob) (s : State) : State :=
  match s.calJob x with
  | none => s
  | some j => (s.setCalJob (f j)).setBit (CAL_STAT (calBlock x)) 12 true

/-- The window through which the physical digitizer or AWG `p` works: that of the cluster unit that a spare serves, its own, and none for
a cluster unit whose duty a spare holds (R316). -/
def State.windowOf (s : State) (awg : Bool) (p : Nat) : Option Nat :=
  let a := fun q => if awg then CAL_SUB_AWG q else CAL_SUB_ACQ q
  if p < 16 then (if s.bit (a (p / 4)) 13 && s.fld (a (p / 4)) 1 0 == p % 4 then none else some p)
  else if s.bit (a (p - 16)) 13 then some (4 * (p - 16) + s.fld (a (p - 16)) 1 0) else some p

/-- A digitizer or AWG that is in use, and a slice that is not OFF (R309, R315). -/
def State.acqIdle (s : State) (u : Nat) : Bool := s.acqState u == 0 || s.acqState u == 5
def State.awgFree (s : State) (u : Nat) : Bool := s.wfsState u ≠ 1 && !s.bit (AWG_STAT u) 0
def State.unitInUse (s : State) (x : Nat) : Bool :=
  if x < 2176 then false else if x < 2432 then s.sliceState (x - 2176) ≠ 0
  else if x < 2452 then (s.windowOf false (x - 2432)).any fun u => !s.acqIdle u else (s.windowOf true (x - 2452)).any fun u => !s.awgFree u

/-- The turn of a digitizer, an AWG or a slice. -/
def unitTurn (x : Nat) (s : State) : State :=
  if s.unitInUse x then s.calEnd x 3 0x1411 else calBegin x (fun j => { j with phase := 3 }) s

/-- The turn of a TDC whose table alone is named. -/
def tdcTurn (ch : Nat) (s : State) : State :=
  if s.tdcState ch ≠ 0 then s.calEnd ch 3 0x1411
  else calBegin ch (fun j => { j with phase := 3 }) (cdGo ch s)

/-- CAL_REQ_CTL.GO at its tick. `zeners` are the four reference voltages in microvolts. -/
def calGo (zeners : List Nat) (s : State) : State :=
  let scope := s.fld CAL_REQ_SCOPE 15 13
  let items := s.fld CAL_REQ_SCOPE 4 0
  let first := s.rdN CAL_REQ_FIRST
  let last := s.rdN CAL_REQ_LAST
  if s.cal.active then calGoRefused 0x1401 s
  else if first > last || !(scopeLast scope).any (last ≤ ·) then calGoRefused 0x1402 s
  else
    let bad := suspects zeners
    let s1 := { s.wrN CAL_REF_STAT (bad.foldl (fun n q => n + 2 ^ q) 0) with cal := { s.cal with refs := (List.range 4).map (refOf bad) } }
    let s2 := if bad.isEmpty then s1 else s1.evt CALC_EVT 4
    if bad.length ≥ 2 then calGoRefused 0x1403 s2
    else
      let units := scopeUnits scope items first last
      let only := !items.testBit 0
      let jobs : List CalJob := units.map fun x => ⟨x, only && x < 2176, 0, 1, false, [], [], false⟩
      let lanes := if only then [] else ((units.filter (· < 2176)).map laneOf).eraseDups
      let s3 := { s2 with cal := { s2.cal with jobs := jobs, named := units, active := !units.isEmpty, lanes := lanes } }
      let s4 := (s3.wrN CAL_PROG_DONE 0).wrN CAL_PROG_TOTAL units.length
      let s5 := s4.each lanes fun t l => t.setAdc l { t.adc l with free := max (t.adc l).free t.time.up + 1500000 }
      let s6 := if units.isEmpty then s5.evt CALC_EVT 0 else s5
      let s7 := s6.each units fun t x => if (clusterOfUnit x).any t.isolated then t.calEnd x 3 0x1411 else t
      s7.each units fun t x =>
        if (t.calJob x).isNone then t
        else if x < 2176 then (if only then tdcTurn x t else t)
        else if x < 2432 then t
        else unitTurn x t

/-- A displaced channel's duty goes back at the next tick. -/
def calHandback (ch : Nat) (s : State) : State := { s with cal := { s.cal with handback := s.cal.handback ++ [ch] } }

/-- Every unit in progress ends ABORTED with a code and every other one SKIPPED; displaced channels are handed back at the next
tick with old trims (R303, R323). -/
def calEndAll (code : Nat) (s : State) : State :=
  s.each (s.cal.jobs.map (·.unit)) fun t x =>
    match t.calJob x with
    | none => t
    | some j =>
      let t1 := if j.live && j.phase ≥ 2 then calHandback x t else t
      let t2 := if j.collects || (j.tdcOnly && t1.tdcState x == 3) then cdAbort x t1 else t1
      if j.phase = 0 then t2.calEnd x 3 0 else t2.calEnd x 4 code

/-- CAL_REQ_CTL.ABORT at its tick. -/
def calAbort (s : State) : State := { calEndAll 0x1413 s with cal := { (calEndAll 0x1413 s).cal with lanes := [] } }

/-! A channel's turn and its steps (R302, R304 to R308). -/

/-- The steps of channel `ch` begin, and with them the collection of its TDC (R262, R305). A TDC that measures, or that collects already,
does not begin one. notes/assumptions/30.md. -/
def stepsBegin (ch : Nat) (s : State) : State :=
  match s.calJob ch with
  | none => s
  | some j =>
    let busy := if j.live then (s.tdc ch).collect.isSome else s.tdcState ch ≠ 0
    let s1 := if busy then s.wrN (TDC_CODE ch) 0x1210 else if j.live then cdBegin ch s else (cdBegin ch s).setTdcState ch 3
    s1.setCalJob { j with phase := 3, collects := !busy }

/-- The calibration of channel `ch` ends before step 7: its collection ends with it. -/
def channelEnd (ch outcome code : Nat) (s : State) : State :=
  (if (s.calJob ch).any (·.collects) then cdAbort ch s else s).calEnd ch outcome code

/-- The turn of channel `ch` at a tick. -/
def channelTurn (ch : Nat) (s : State) : State :=
  let o := outriderOf (laneOf ch)
  let st := s.outState o
  let offline := fun t => stepsBegin ch (calBegin ch (fun j => { j with phase := 3, live := false }) t)
  if ch = o then
    if st = 0 then offline s
    else if st = 2 ∧ s.bit (PIN_STAT (16 * laneOf ch + s.fld (PIN_STAT o) 3 0)) 15 then offline s
    else s.calEnd ch 3 0x1411
  else if s.bit (PIN_STAT ch) 15 ∧ ¬ (st = 1 ∧ s.fld (PIN_STAT o) 3 0 = ch % 16) then offline s
  else if st ≠ 0 then s.calEnd ch 3 0x1410
  else (calBegin ch (fun j => { j with phase := 1, live := true }) s).arrive 3 ch 16 (.takeover ch)

/-- Turns of a lane at a tick: the next named channel in ascending position begins, and skipped ones give way at once. -/
def laneTurns : Nat → Nat → State → State
  | 0, _, s => s
  | n + 1, lane, s =>
    let mine := s.cal.jobs.filter fun j => j.unit < 2176 && laneOf j.unit == lane && !j.tdcOnly
    if s.cal.lanes.contains lane || mine.any (fun j => j.phase ≠ 0) then s
    else
      match (sortBy (fun a b => lanePos a.unit ≤ lanePos b.unit) mine).head? with
      | none => s
      | some j =>
        let t := channelTurn j.unit s
        if (t.calJob j.unit).isNone then laneTurns n lane t else t

/-- Turns of a quadrant's slices: four at a time, in ascending number. -/
def sliceTurns : Nat → Nat → State → State
  | 0, _, s => s
  | n + 1, q, s =>
    let mine := s.cal.jobs.filter fun j => 2176 + 64 * q ≤ j.unit && j.unit < 2240 + 64 * q
    if (mine.filter fun j => j.phase ≠ 0).length ≥ 4 then s
    else
      match mine.find? fun j => j.phase == 0 with
      | none => s
      | some j => sliceTurns n q (unitTurn j.unit s)

/-- A collection of a TDC whose table alone is named has ended without a table. -/
def tdcJobLost (x : Nat) (s : State) : State :=
  if (s.tdc x).collect.isSome ∨ s.fld (TDC_TSTAT x) 15 14 = 2 then s
  else if s.rdN (TDC_CODE x) = 0x1215 then s.calEnd x 4 0x1414 else s.calEnd x 2 0x1412

/-- The turns that come at a tick. -/
def State.calTurns (s : State) : State :=
  if !s.cal.active then s
  else
    let s0 := s.each ((s.cal.jobs.filter fun j => j.tdcOnly && j.phase == 3).map (·.unit)) fun t x => tdcJobLost x t
    let lanes := ((s0.cal.jobs.filter fun j => j.unit < 2176 && !j.tdcOnly).map fun j => laneOf j.unit).eraseDups
    let s1 := s0.each lanes fun t l => laneTurns 17 l t
    s1.each (List.range 4) fun t q => sliceTurns 64 q t

/-- The tick of a takeover item. In the safe state no switch moves and the steps begin. -/
def takeoverTick (ch : Nat) (s : State) : State :=
  match s.calJob ch with
  | some j =>
    if j.phase = 1 then
      let s1 := s.takeover ch
      if s.bit (PIN_STAT ch) 15 then stepsBegin ch s1 else s1.setCalJob { j with phase := 2 }
    else s
  | none => s

/-- The displaced channel is off its contact and joins the calibration bus. -/
def takeoverDone (ch : Nat) (s : State) : State :=
  let s1 := s.takeoverOpen ch
  match s1.calJob ch with
  | some j => if j.phase = 2 then stepsBegin ch s1 else s1
  | none => s1

/-- What the steps 1 to 6 find, in order: trim entries, and 64 and 65 for TDC_OFS_HI and TDC_OFS_LO (Table 11.2). -/
def stepEntries (step : Nat) : List Nat :=
  match step with
  | 1 => [0, 1, 2, 3, 4, 5, 10, 11]
  | 2 => [6, 7, 8, 9]
  | 3 => [16]
  | 4 => [12, 13, 14, 15]
  | 5 => (List.range 40).map (20 + ·)
  | 6 => [17, 18, 19, 64, 65]
  | _ => []

/-- The value that the steps found for an entry. -/
def CalJob.found (j : CalJob) (k : Nat) : Nat :=
  let order := (List.range 6).flatMap fun i => stepEntries (i + 1)
  ((order.zip j.trims).find? fun e => e.1 == k).elim 0 (·.2)

/-- A calibration of a channel fails its acceptance check (R306, R310). -/
def channelFailed (j : CalJob) (s : State) : State :=
  let ch := j.unit
  let hold := s.bit CAL_POLICY 15
  let s1 := s.calEnd ch 2 0x1412
  if j.live then
    if hold then s1.setBit (CAL_STAT (calOfChannel ch)) 9 true else calHandback ch s1
  else if hold ∧ ch < 2048 ∧ s1.outState (outriderOf (laneOf ch)) = 0 then
    { s1 with cal := { s1.cal with hold := s1.cal.hold ++ [ch] } }
  else s1

/-- Step 7 of channel `ch` (R263, R305, R306): the trims and the code-density counts `hits` are judged. Without a collection there is no
table to accept. -/
def calJudged (ch : Nat) (hits : List Nat) (j : CalJob) (s : State) : State :=
  let total := s.cdHits ch
  if !j.collects || (s.tdc ch).collect.isNone then channelFailed j s
  else if hits.length ≠ 256 || hits.foldl (· + ·) 0 ≠ total then s
  else
    let s1 := cdComplete ch hits s
    let j1 := { j with hits := hits, phase := 4, collects := false }
    if lvlTableOk j.found && (densityCode total hits).isNone then (s1.setCalJob j1).arrive 3 ch 16 (.handback ch) else channelFailed j s1

/-- A step of channel `ch` ends. The operand of steps 1 to 6 are the entries found, that of step 7 the 256 code-density counts. -/
def calStepDone (ch : Nat) (trims : List Nat) (s : State) : State :=
  match s.calJob ch with
  | none => s
  | some j =>
    if j.phase ≠ 3 ∨ j.tdcOnly ∨ ch ≥ 2176 then s
    else if j.step < 7 then
      if trims.length ≠ (stepEntries j.step).length then s
      else s.setCalJob { j with step := j.step + 1, trims := j.trims ++ trims.map (· % 65536) }
    else calJudged ch trims j s

/-- TDC offsets of a channel take new values, in force and in shadow. -/
def ofsInstall (ch hi lo : Nat) (s : State) : State :=
  (s.force (TDC_OFS_HI ch) (BitVec.ofNat 16 hi)).force (TDC_OFS_LO ch) (BitVec.ofNat 16 lo)

/-- New trims of channel `ch` install: the level table at once, the TDC table and offsets together, held in a frozen lane. -/
def channelInstall (j : CalJob) (s : State) : State :=
  let ch := j.unit
  let level : Tab Nat := tableOf (fun _ => 0) 0 ((List.range 64).map fun k => j.found k)
  let s1 := lvlInstall ch level s
  let table := tableOf (fun _ => 0) 0 (densityTable (s1.cdHits ch) 0 j.hits)
  let s2 := (s1.setTdc ch { s1.tdc ch with shadow := table }).setFld (TDC_TSTAT ch) 15 14 2
  if s2.laneFrozen ch then
    let s3 := swapFrozen ch s2
    { s3 with cal := { s3.cal with heldOfs := tabInsert (tabErase s3.cal.heldOfs ch) ch (j.found 64, j.found 65) } }
  else ofsInstall ch (j.found 64) (j.found 65) (tdcSwapIn ch s2)

/-- The tick of a TDC swap: offsets that waited with the table take effect, and a calibration of the table alone ends. -/
def tdcSwapTick (ch : Nat) (s : State) : State :=
  let s1 := tdcSwapIn ch s
  let s2 := match tabLookup s1.cal.heldOfs ch with
    | some o => ofsInstall ch o.1 o.2 { s1 with cal := { s1.cal with heldOfs := tabErase s1.cal.heldOfs ch } }
    | none => s1
  match s2.calJob ch with
  | some j => if j.tdcOnly then (s2.calInstalled ch).calEnd ch 1 0 else s2
  | none => s2

/-- The tick of a hand-back or install item. -/
def handbackTick (x : Nat) (s : State) : State :=
  match s.calJob x with
  | none => s
  | some j =>
    if j.phase ≠ 4 then s
    else if x < 2176 then
      let s1 := channelInstall j s
      let s2 := if j.live then s1.handback x else s1
      (s2.calInstalled x).calEnd x 1 0
    else
      let s1 := { s with cal := { s.cal with unitTrims := tabSet (fun _ => []) s.cal.unitTrims x (j.trims.map (BitVec.ofNat 8)) } }
      (s1.calInstalled x).calEnd x 1 0

/-- The hand-backs and holds of ended calibrations, at the next tick. -/
def State.calMoves (s : State) : State :=
  let s0 := { s with cal := { s.cal with handback := [], hold := [] } }
  let s1 := s0.each s.cal.handback fun t ch =>
    let o := outriderOf (laneOf ch)
    if t.outState o = 1 ∧ t.fld (PIN_STAT o) 3 0 = ch % 16 then t.handback ch else t
  s1.each s.cal.hold fun t ch =>
    if t.outState (outriderOf (laneOf ch)) = 0 then (t.takeover ch).setBit (CAL_STAT (calOfChannel ch)) 9 true else t

/-- Pins that will leave the safe state at this tick: an offline calibration of one goes on live on the lane's outrider, or ends
(Table 11.3). -/
def State.calBeforePins (s : State) : State :=
  let jobs := s.cal.jobs.filter fun j => j.unit < 2176 && !j.tdcOnly && !j.live && (j.phase == 3 || j.phase == 4)
  jobs.foldl (fun t j =>
    let o := outriderOf (laneOf j.unit)
    let duty := if j.unit = o then 16 * laneOf j.unit + t.fld (PIN_STAT o) 3 0 else j.unit
    let leaves := (j.unit ≠ o || t.outState o == 2) && t.bit (PIN_STAT duty) 15 && (findPin t.casting duty).any t.pinWanted
    if !leaves then t
    else if j.unit ≠ o && t.outState o == 0 then
      let t1 := (t.takeover j.unit).setCalJob { j with live := true }
      if t1.tdcState j.unit = 3 then t1.setTdcState j.unit 0 else t1
    else channelEnd j.unit 4 0x1414 t) s

/-- A write of CAL_RELEASE at its tick: a held duty goes back to its channel. -/
def calRelease (ch : Nat) (s : State) : State :=
  if ch < 2048 ∧ s.bit (CAL_STAT (calOfChannel ch)) 9 then (s.handback ch).setBit (CAL_STAT (calOfChannel ch)) 9 false else s

/-- The calibration of another unit ends (R309): its trims wait for their install item. -/
def unitCalDone (x : Nat) (pass : Bool) (trims : List Byte) (s : State) : State :=
  match s.calJob x with
  | none => s
  | some j =>
    if x < 2176 ∨ j.phase ≠ 3 then s
    else if pass then (s.setCalJob { j with phase := 4, trims := trims.map (·.toNat) }).arrive 3 x 16 (.handback x)
    else s.calEnd x 2 0x1412

/-! Calibration records (R311, R312). -/

/-- The trims of a unit in force, as a record holds them. -/
def State.trimsOf (s : State) (x : Nat) : List Byte :=
  if x < 2176 then
    ((List.range 64).map (s.lvlEntry x) ++ (List.range 256).map (s.tdcEntry x) ++ [s.rdN (TDC_OFS_HI x), s.rdN (TDC_OFS_LO x)]).flatMap
      (leBytes 2)
  else tabGet (fun _ => []) s.cal.unitTrims x

/-- An entry of a record. -/
def State.recordEntry (s : State) (x : Nat) : List Byte :=
  let t := s.trimsOf x
  leBytes 2 x ++ leBytes 2 t.length ++ leBytes 4 (s.wide (CAL_CNT (calBlock x)) 2) ++ leBytes 2 (s.rdN (CAL_TREF (calBlock x)))
    ++ leBytes 2 0 ++ t

/-- The record of the trims in force (Table 11.4). -/
def State.calRecord (s : State) : List Byte :=
  let units := (List.range 2472).filter fun x => s.fld (CAL_STAT (calBlock x)) 15 13 == 1 || s.bit (CAL_STAT (calBlock x)) 10
  let entries := units.flatMap s.recordEntry
  let head := [0x5A#8, 0x56#8, 0x43#8, 0x52#8] ++ leBytes 2 1 ++ leBytes 2 0 ++ leBytes 8 s.serial ++ leBytes 8 s.convoyTime
    ++ leBytes 4 units.length ++ leBytes 4 entries.length ++ entries
  head ++ leBytes 4 (crc32c head).toNat

/-- A record checks at a start. -/
def State.recordOk (s : State) (r : List Byte) : Bool :=
  let n := 32 + leAt r 28 4
  r.take 4 == [0x5A#8, 0x56#8, 0x43#8, 0x52#8] && leAt r 4 2 == 1 && leAt r 8 8 == s.serial && n + 4 ≤ r.length
    && leAt r n 4 == (crc32c (r.take n)).toNat

/-- The words of a byte string. -/
def wordsOf : Nat → List Byte → List Nat
  | 0, _ => []
  | n + 1, l => leAt l 0 2 :: wordsOf n (l.drop 2)

/-- One entry installs. -/
def State.recordInstall (s : State) (x count tref : Nat) (trims : List Byte) : State :=
  let b := calBlock x
  let s1 :=
    if x < 2176 then
      let w := wordsOf 322 trims
      let t := { s with cal := { s.cal with tables := tabSet (fun _ => []) s.cal.tables x (tableOf (fun _ => 0) 0 (w.take 64)) } }
      let t1 := t.setTdc x { t.tdc x with table := tableOf (fun k => 256 * k + 128) 0 ((w.drop 64).take 256) }
      ofsInstall x (w.getD 320 0) (w.getD 321 0) ((t1.wrN (TDC_TGEN x) 1).setBit (TDC_STAT x) 11 false)
    else { s with cal := { s.cal with unitTrims := tabSet (fun _ => []) s.cal.unitTrims x trims } }
  (((s1.setWide (CAL_CNT b) 2 count).setWide (CAL_TIME b) 4 0).wrN (CAL_TREF b) tref).setBit (CAL_STAT b) 10 true

/-- Entries of a record install in order. -/
def State.recordEntries (s : State) : Nat → List Byte → State
  | 0, _ => s
  | n + 1, l =>
    let size := leAt l 2 2
    let s1 := if leAt l 0 2 < 2472 then s.recordInstall (leAt l 0 2) (leAt l 4 4) (leAt l 8 2) (Sys2Proof.slice l 12 size) else s
    s1.recordEntries n (l.drop (12 + size))

/-- The record is read at a start (R312). -/
def State.recordLoad (s : State) : State :=
  match s.nv.calRecord with
  | none => s.evt CALC_EVT 5
  | some r =>
    if s.recordOk r then 
      let s1 := s.recordEntries (leAt r 24 4) (Sys2Proof.slice r 32 (leAt r 28 4))
      { s1 with cal := { s1.cal with loaded := true } }.evt CALC_EVT 6
    else s.evt CALC_EVT 5

/-! Quadrant spares (R315 to R317). -/

def subReg (awg : Bool) (q : Nat) : Nat := if awg then CAL_SUB_AWG q else CAL_SUB_ACQ q

/-- Idle, with the mute switch and route switch of an AWG open. -/
def State.subIdle (s : State) (awg : Bool) (u : Nat) : Bool := if awg then s.awgFree u && !s.bit (AWG_STAT u) 1 else s.acqIdle u

/-- EN of a substitution is refused: it keeps its old value in force and in shadow. -/
def subRefuse (awg : Bool) (q : Nat) (keep : Bool) (code : Nat) (s : State) : State :=
  ((s.forceBits (subReg awg q) 0x8000#16 (if keep then 0x8000#16 else 0)).calRefuse (subReg awg q) code)

/-- EN becomes 1 at a tick. -/
def subEnable (awg : Bool) (q : Nat) (s : State) : State :=
  let a := subReg awg q
  let u := 4 * q + s.fld a 1 0
  if s.bit a 13 || s.bit a 14 || !s.subIdle awg (16 + q) then subRefuse awg q false 0x1428 s
  else if !s.subIdle awg u then subRefuse awg q false 0x1429 s
  else if awg then s.setBit a 14 true
  else s.setBit a 13 true

/-- EN becomes 0 at a tick. -/
def subDisable (awg : Bool) (q : Nat) (s : State) : State :=
  let a := subReg awg q
  if !s.bit a 13 then s.setBit a 14 false
  else if !s.subIdle awg (4 * q + s.fld a 1 0) then subRefuse awg q true 0x1428 s
  else if awg then s.setBit a 14 true
  else acqInCommit (16 + q) (s.rd (ACQ_IN (16 + q))) (s.setBit a 13 false)

/-- A substitution register takes effect over `old`. CLUSTER stays while the spare holds or is taking a duty. -/
def subCommit (awg : Bool) (q : Nat) (old : Word) (s : State) : State :=
  let a := subReg awg q
  let s1 := if old.getLsbD 15 then s.forceBits a 3#16 old else s
  if old.getLsbD 15 = s1.bit a 15 then s1
  else if s1.bit a 15 then subEnable awg q s1 else subDisable awg q s1

/-- An AWG's copy is complete: the duty moves at the next tick. -/
def spareCopyDone (awg : Bool) (q : Nat) (s : State) : State :=
  if awg && s.bit (CAL_SUB_AWG q) 14 && !s.cal.copied.contains q then
    { s with cal := { s.cal with copied := s.cal.copied ++ [q] } }
  else s

/-- The spare of quadrant `q` holds the waveform memory and the sequence table of the duty `u`, which it takes and later gives back
(R316, R317). -/
def spareCopies (q u : Nat) (s : State) : State :=
  let w := s.wfs (16 + q)
  (s.setWfs (16 + q) { w with mem := (s.wfs u).mem, bills := (s.wfs u).bills }).each (List.range 2048) fun t k =>
    t.wr (WFS_SEQ (16 + q) k) (t.rd (WFS_SEQ u k))

/-- The duties whose copies are complete move at a tick. A duty that returns leaves the spare to its own settings, which apply again. -/
def State.subMoves (s : State) : State :=
  let s0 := { s with cal := { s.cal with copied := [] } }
  s0.each s.cal.copied fun t q =>
    let a := CAL_SUB_AWG q
    if !t.bit a 14 then t
    else
      let t1 := ((spareCopies q (4 * q + t.fld a 1 0) t).setBit a 14 false).setBit a 13 (t.bit a 15)
      if t.bit a 15 then t1 else awgOutCommit (16 + q) (t1.rd (AWG_OUT (16 + q))) t1

/-! Isolation (R318 to R320). -/

/-- CAL_ISO_STAT of a cluster: 0 NONE, 1 RUNNING, 2 PASS, 3 FAIL. -/
def State.isoStat (s : State) (k : Nat) : Nat := s.fld (CAL_ISO_STAT + 2 * (k / 8)) (2 * (k % 8) + 1) (2 * (k % 8))
def State.setIsoStat (s : State) (k v : Nat) : State := s.setFld (CAL_ISO_STAT + 2 * (k / 8)) (2 * (k % 8) + 1) (2 * (k % 8)) v

/-- A context is running or stalled. -/
def State.ctxActive (s : State) (c : Nat) : Bool := s.fld (SEQ_STAT c) 2 0 == 2 || s.fld (SEQ_STAT c) 2 0 == 3

/-- The pins that a context drives: those of the sites it serves, and for a caravan's own context the common pins. -/
def State.pinsDriven (s : State) (c : Nat) : List PinRec :=
  let x := s.ctx c
  s.casting.pins.filter fun p => if p.common then !x.straggler && p.owner == x.home else x.sites.contains p.owner

/-- Isolation of a cluster is refused (R318). -/
def State.clusterBusy (s : State) (k : Nat) : Bool :=
  let inside := fun (p : PinRec) => p.channel / 128 == k
  (s.ctxs.any fun e => s.ctxActive e.1 && (s.pinsDriven e.1).any inside)
    || s.casting.pins.any (fun p => inside p && !p.common && s.enabled p.owner)
    || (!s.acqIdle k && s.acqPhys k == k)
    || (!(s.awgFree k && !s.bit (AWG_STAT k) 1) && !(s.bit (CAL_SUB_AWG (k / 4)) 13 && s.fld (CAL_SUB_AWG (k / 4)) 1 0 == k % 4))
    || (s.cal.active && s.cal.named.any fun x => clusterOfUnit x == some k)

/-- Bit `k` of CAL_ISO becomes 1 at a tick. -/
def isoSet (k : Nat) (s : State) : State :=
  let m : Word := BitVec.ofNat 16 (2 ^ k)
  if k ≥ 16 then s
  else if s.clusterBusy k then (s.forceBits CAL_ISO m 0).calRefuse CAL_ISO 0x1420
  else
    let s0 := { s with cal := { s.cal with reloading := s.cal.reloading.erase k, reloaded := s.cal.reloaded.erase k } }
    let s1 := s0.each (s.ctxs.map (·.1)) fun t c =>
      t.setCtx c { t.ctx c with caches := (t.ctx c).caches.filter fun h => h.1 ≠ k }
    ((s1.forceBits CAL_ISO m m).setIsoStat k 1).refreshPins []

/-- The self-test of a cluster ends with its result. -/
def isoResult (k : Nat) (fail : Bool) (s : State) : State := (s.setIsoStat k (if fail then 3 else 2)).evt CALC_EVT 7

/-- SELFTEST_DONE: `core` tells that the drover or the loop cache failed, `failed` are the units that failed. -/
def selftestDone (k : Nat) (core : Bool) (failed : List Nat) (s : State) : State :=
  if k ≥ 16 ∨ s.isoStat k ≠ 1 then s
  else
    let units := (clusterUnits 0x1F k).filter fun x =>
      !(x == unitOfAcq k && s.acqPhys k ≠ k) && !(x == unitOfAwg k && s.awgPhys k ≠ k)
    let bad := units.filter failed.contains
    let s1 := s.each units fun t x => t.setBit (CAL_STAT (calBlock x)) 8 (bad.contains x)
    let s2 := { s1 with cal := { s1.cal with
      unitFail := s1.cal.unitFail.filter (fun x => !units.contains x) ++ bad
      coreFail := if core then k :: s1.cal.coreFail else s1.cal.coreFail.filter (· ≠ k) } }
    isoResult k (core || !bad.isEmpty) s2

/-- Bit `k` of CAL_ISO becomes 0 at a tick. -/
def isoRelease (k : Nat) (s : State) : State :=
  let m : Word := BitVec.ofNat 16 (2 ^ k)
  if k ≥ 16 then s
  else if s.cal.coreFail.contains k then (s.forceBits CAL_ISO m m).calRefuse CAL_ISO 0x1422
  else
    let s1 := if s.isoStat k = 1 then isoResult k true s else s
    { s1.forceBits CAL_ISO m 0 with cal := { s1.cal with reloading := s1.cal.reloading ++ [k] } }

/-- CAL_ISO takes effect over `old`. -/
def isoCommit (old : Word) (s : State) : State :=
  let new := s.rd CAL_ISO
  s.each (List.range 16) fun t k =>
    if old.getLsbD k = new.getLsbD k then t else if new.getLsbD k then isoSet k t else isoRelease k t

/-- The drover of a cluster is reloaded: the release takes effect at the next tick. -/
def droverReloaded (k : Nat) (s : State) : State :=
  if s.cal.reloading.contains k then
    { s with cal := { s.cal with reloading := s.cal.reloading.erase k, reloaded := s.cal.reloaded ++ [k] } }
  else s

/-- The releases that take effect at a tick. With SELFTEST_HOLD each lane's parked outrider takes the duty of the lowest failed
channel. -/
def State.isoReleases (s : State) : State :=
  let s0 := { s with cal := { s.cal with reloaded := [] } }
  if !s.bit CAL_POLICY 14 then s0
  else
    s0.each s.cal.reloaded fun t k =>
      t.each (List.range 8) fun x l =>
        let lane := 8 * k + l
        match ((List.range 16).map (16 * lane + ·)).find? fun ch => x.bit (CAL_STAT (calOfChannel ch)) 8 with
        | some ch =>
          if x.outState (outriderOf lane) = 0 then (x.takeover ch).setBit (CAL_STAT (calOfChannel ch)) 9 true else x
        | none => x

/-! The rows. -/

/-- CAL_REQ_GO (R301). -/
def execCalReqGo (zeners : List Nat) (s : State) : Host.Outcome State Fault Refusal :=
  .next (s.whenReady fun s => calGo zeners { s with cal := { s.cal with zeners := zeners } })

/-- CAL_REQ_ABORT (R303). -/
def execCalReqAbort (s : State) : Host.Outcome State Fault Refusal := .next (s.whenReady fun s => calAbort s)

/-- LANE_ADC_CAL_DONE (R302): 0.5 ms after its start; the lane's turns come at ticks from then on. -/
def execLaneAdcCalDone (lane : Nat) (s : State) : Host.Outcome State Fault Refusal :=
  .next (if s.cal.lanes.contains lane then
    s.atDue (s.adc lane).free fun t => { t with cal := { t.cal with lanes := t.cal.lanes.erase lane } } else s)

/-- CAL_STEP_DONE (R305, R306). -/
def execCalStepDone (ch : Nat) (trims : List Nat) (s : State) : Host.Outcome State Fault Refusal := .next (calStepDone ch trims s)

/-- UNIT_CAL_DONE (R309). -/
def execUnitCalDone (unit : Nat) (pass : Bool) (trims : List Byte) (s : State) : Host.Outcome State Fault Refusal :=
  .next (unitCalDone unit pass trims s)

/-- CAL_RELEASE (R310). -/
def execCalRelease (ch : Nat) (s : State) : Host.Outcome State Fault Refusal := .next (s.whenReady fun s => calRelease ch s)

/-- LVL_TABLE_WRITE (R307). -/
def execLvlTableWrite (ch v : Nat) (s : State) : Host.Outcome State Fault Refusal := .next (s.whenReady fun s => lvlTableWrite ch v s)

/-- LVL_TSWAP (R307). -/
def execLvlTswap (ch : Nat) (s : State) : Host.Outcome State Fault Refusal := .next (s.whenReady fun s => lvlTswap ch s)

/-- LVL_TDATA_READ (R325). -/
def execLvlTdataRead (ch : Nat) (s : State) : Host.Outcome State Fault Refusal :=
  .next (s.readReady fun s => if ch ≥ 2176 then s else let r := lvlTableRead ch s; { r.2 with read := ⟨r.1, [], false⟩ })

/-- TAKEOVER_SWITCH_OPEN (R161). -/
def execTakeoverSwitchOpen (ch : Nat) (s : State) : Host.Outcome State Fault Refusal :=
  .next (match (s.chan ch).overlap with
    | none => s
    | some d => if ch < 2048 then s.atDue d fun t => takeoverDone ch t else s)

/-- CD_DONE (R263): a table of an accepted collection is swapped in by itself with AUTO, or for a calibration of the table alone. The
counts of a channel's calibration are judged in its step 7 (Table 11.2). -/
def execCdDone (ch : Nat) (hits : List Nat) (s : State) : Host.Outcome State Fault Refusal :=
  .next (if (s.calJob ch).any (·.collects) then s else
    let s1 := cdComplete ch hits s
    let only := (s1.calJob ch).any (·.tdcOnly)
    if s1.fld (TDC_TSTAT ch) 15 14 = 2 ∧ (s.tdc ch).collect.isSome ∧ (s1.bit (TDC_CD_CFG ch) 15 ∨ only) then
      tdcSwapRequest ch (if only then calBegin ch (fun j => { j with phase := 4 }) s1 else s1)
    else s1)

/-- SUB_ENABLE (R315). -/
def execSubEnable (awg : Bool) (q : Nat) (s : State) : Host.Outcome State Fault Refusal :=
  .next (s.whenReady fun s => if q < 4 then subCommit awg q (s.rd (subReg awg q)) (s.forceBits (subReg awg q) 0x8000#16 0x8000#16) else s)

/-- SUB_DISABLE (R317). -/
def execSubDisable (awg : Bool) (q : Nat) (s : State) : Host.Outcome State Fault Refusal :=
  .next (s.whenReady fun s => if q < 4 then subCommit awg q (s.rd (subReg awg q)) (s.forceBits (subReg awg q) 0x8000#16 0) else s)

/-- SPARE_COPY_DONE (R316). -/
def execSpareCopyDone (awg : Bool) (q : Nat) (s : State) : Host.Outcome State Fault Refusal := .next (spareCopyDone awg q s)

/-- ISO_SET (R318). -/
def execIsoSet (k : Nat) (s : State) : Host.Outcome State Fault Refusal :=
  .next (s.whenReady fun s => if s.bit CAL_ISO k then s else isoSet k s)

/-- SELFTEST_DONE (R319). -/
def execSelftestDone (k : Nat) (core : Bool) (failed : List Nat) (s : State) : Host.Outcome State Fault Refusal :=
  .next (selftestDone k core failed s)

/-- ISO_RELEASE (R320). -/
def execIsoRelease (k : Nat) (s : State) : Host.Outcome State Fault Refusal :=
  .next (s.whenReady fun s => if s.bit CAL_ISO k then isoRelease k s else s)

/-- DROVER_RELOAD_DONE (R320). -/
def execDroverReloadDone (k : Nat) (s : State) : Host.Outcome State Fault Refusal := .next (droverReloaded k s)

end Sys2Proof.Machine
end

