-- ==== Sys2Proof/Machine/Program.lean ====
section
/-!
DEFINITION. Machine/Program.lean: instruction words, the directory and the segments of the pattern store, and the algorithmic
pattern generator (R78, R84 to R96). notes/assumptions/32.md.
-/

namespace Sys2Proof.Machine

/-! Instruction words (Table 3.1). -/

/-- The instruction in 16 bytes. -/
def patInstr (w : List Byte) : PatInstr :=
  let b := byteAt w
  { op := b 0, tset := b 1 % 64, apgPre := b 1 / 64, loop := b 2 % 16, cond := b 2 / 16, stored := (b 3).testBit 0
    apg := (b 3).testBit 1, isMatch := (b 3).testBit 2, matchClr := (b 3).testBit 3, mlog := (b 3).testBit 4
    endOnCarry := (b 3).testBit 5, lc := (b 3).testBit 6, cont := (b 3).testBit 7, rep := leAt w 4 2, apgStart := b 6
    apgLen := b 7 % 64, carrySel := b 7 / 64, segment := leAt w 8 2, offset := leAt w 10 2, arg := leAt w 12 4 }

/-- An instruction that reads a compare-based condition (R125). -/
def PatInstr.compares (i : PatInstr) : Bool := (i.op == 0x03 || i.op == 0x08) && i.cond ≤ 5

/-- A per-site condition. -/
def PatInstr.perSite (i : PatInstr) : Bool := i.cond == 4 || i.cond == 5

/-! Partitions and directories (R93, R94). -/

/-- `n` bytes of a partition. -/
def State.partRead (s : State) (p : StoreRec) (a n : Nat) : List Byte := (List.range n).map fun i => s.memByte (p.device (a + i))

/-- A directory entry (Table 3.7). -/
structure DirEntry where
  base : Nat
  length : Nat
  kind : Nat
  mask : Nat
  hostAddr : Nat
  ringRows : Nat
  prodAddr : Nat
  consAddr : Nat
  deriving DecidableEq, Repr

/-- Directory entry `e` of a partition; one beyond the capacity reads as KIND 0. -/
def State.dirEntry (s : State) (p : StoreRec) (e : Nat) : DirEntry :=
  if 64 * e + 64 > p.capacity then ⟨0, 0, 0, 0, 0, 0, 0, 0⟩
  else
    let w := s.partRead p (64 * e) 64
    ⟨leAt w 0 4, leAt w 4 4, byteAt w 8, leAt w 16 16, leAt w 32 8, leAt w 40 4, leAt w 48 8, leAt w 56 8⟩

/-- KIND 1 to 4 are vector kinds, 3 and 4 stream kinds, 2 and 4 FULL. -/
def DirEntry.isVector (d : DirEntry) : Bool := 1 ≤ d.kind && d.kind ≤ 4
def DirEntry.isStream (d : DirEntry) : Bool := d.kind == 3 || d.kind == 4
def DirEntry.isFull (d : DirEntry) : Bool := d.kind == 2 || d.kind == 4

/-- The lanes of a segment, ascending. -/
def DirEntry.lanes (d : DirEntry) : List Nat := (List.range 128).filter d.mask.testBit

/-- The size of the palette area. -/
def DirEntry.paletteBytes (d : DirEntry) : Nat := (32 * d.lanes.length + 63) / 64 * 64

/-- The bytes of one lane ingot, and of one ingot row. -/
def DirEntry.ingotBytes (d : DirEntry) : Nat := if d.isFull then 512 else 256
def DirEntry.rowBytes (d : DirEntry) : Nat := d.lanes.length * d.ingotBytes

/-- The data area as partition address and size (R341). -/
def DirEntry.dataArea (d : DirEntry) : Nat × Nat :=
  (d.base * 64,
    if d.kind = 5 then 16 * d.length
    else if d.isStream then d.paletteBytes
    else if d.isVector then d.paletteBytes + d.length * d.rowBytes else 0)

/-- The pattern partition of a caravan. -/
def State.patStore (s : State) (h : Nat) : Option StoreRec := (findCaravan s.casting h).bind fun c => findStore s.casting c.patPart

/-- The directory entry `e` of a caravan's pattern partition. -/
def State.segEntry (s : State) (h e : Nat) : DirEntry := ((s.patStore h).map fun p => s.dirEntry p e).getD ⟨0, 0, 0, 0, 0, 0, 0, 0⟩

/-- The entry of a vector kind is valid (R96). A LANE_MASK with no bit set makes it invalid too: DESIGN CHOICE, R96 does not list it.
notes/assumptions/33.md. -/
def State.segValid (s : State) (h : Nat) (d : DirEntry) : Bool :=
  d.isVector && d.length ≥ 4 && !d.lanes.isEmpty
    && (s.patStore h).any fun p => d.dataArea.1 + d.dataArea.2 ≤ p.capacity

/-- Instruction `k` of a caravan's program. -/
def State.instrAt (s : State) (h prog k : Nat) : PatInstr :=
  match s.patStore h with
  | some p => patInstr (s.partRead p ((s.dirEntry p prog).base * 64 + 16 * k) 16)
  | none => patInstr []

/-- A symbol of a lane ingot (R95): `pal` is the lane's palette, `v` the vector and `p` the lane pin. -/
def ingotSymbol (full : Bool) (pal ingot : List Byte) (v p : Nat) : Nat :=
  if full then byteAt ingot (8 * v + p / 2) / 16 ^ (p % 2) % 16
  else leAt pal (2 * p) 2 / 16 ^ (byteAt ingot (4 * v + p / 4) / 4 ^ (p % 4) % 4) % 16

/-! The algorithmic pattern generator (R85 to R90). -/

/-- The settings of a caravan's generator in force. -/
structure ApgCfg where
  order : Bool
  addrOut : Bool
  rdLat : Nat
  bg : Nat
  topo : Bool
  x : Nat × Nat × Nat
  y : Nat × Nat × Nat
  z : Nat × Nat × Nat
  dpat : Nat
  tables : List (Tab Nat)
  deriving DecidableEq, Repr

/-- The settings of caravan `h`: MIN, MAX and ALT of each generator among them. -/
def State.apgCfg (s : State) (h : Nat) : ApgCfg :=
  let x := fun a => s.wide a 2 % 2 ^ 20
  { order := s.bit (SEQ_APG_CFG h) 15, addrOut := s.bit (SEQ_APG_CFG h) 14, rdLat := s.fld (SEQ_APG_CFG h) 13 8
    bg := s.fld (SEQ_APG_CFG h) 7 4, topo := s.bit (SEQ_APG_CFG h) 3
    x := (x (SEQ_X_MIN h), x (SEQ_X_MAX h), x (SEQ_X_ALT h)), y := (s.rdN (SEQ_Y_MIN h), s.rdN (SEQ_Y_MAX h), s.rdN (SEQ_Y_ALT h))
    z := (s.fld (SEQ_Z_LIM h) 5 0, s.fld (SEQ_Z_LIM h) 13 8, s.fld (SEQ_Z_ALT h) 5 0), dpat := s.wide (SEQ_DPAT h) 2
    tables := (s.ctx h).tables.active }

/-- What entry `i` of table `t` of an identity copy holds: 0 XLO, 1 XHI, 2 YLO, 3 YHI, 4 TOPO. -/
def tableIdentity (t i : Nat) : Nat := match t with
  | 0 => i
  | 1 => i * 1024
  | 2 => i
  | 3 => i * 256
  | _ => 0

/-- The entries of a table. -/
def tableSize (t : Nat) : Nat := if t < 2 then 1024 else 256

/-- Entry `i` of table `t` in a copy. -/
def tableEntry (copy : List (Tab Nat)) (t i : Nat) : Nat := tabGet (tableIdentity t) (copy.getD t []) i

/-- The physical row and column (R88). -/
def ApgCfg.physical (g : ApgCfg) (a : Apg) : Nat × Nat :=
  (tableEntry g.tables 0 (a.x % 1024) ^^^ tableEntry g.tables 1 (a.x / 1024), tableEntry g.tables 2 (a.y % 256) ^^^ tableEntry g.tables 3 (a.y / 256))

/-- The background bit (Table 3.6). -/
def background (bg px py : Nat) : Bool := match bg with
  | 1 => px.testBit 0 != py.testBit 0
  | 2 => px.testBit 0
  | 3 => py.testBit 0
  | 4 => px.testBit 1
  | 5 => py.testBit 1
  | _ => false

/-- The 32-bit data word (R88). -/
def ApgCfg.dataWord (g : ApgCfg) (a : Apg) : Nat :=
  let p := g.physical a
  let i := p.1 % 64 * 64 + p.2 % 64
  let topo := g.topo && (tableEntry g.tables 4 (i / 16)).testBit (i % 16)
  if (background g.bg p.1 p.2 != topo) != a.dinv then g.dpat ^^^ 0xFFFFFFFF else g.dpat

/-- An address operation on CUR with MIN, MAX and ALT; `below` tells that the generator below carried (R86). -/
def addrOp (op cur : Nat) (lim : Nat × Nat × Nat) (below : Bool) : Nat × Bool :=
  let inc := if cur ≥ lim.2.1 then (lim.1, true) else (cur + 1, false)
  let dec := if cur ≤ lim.1 then (lim.2.1, true) else (cur - 1, false)
  match op with
  | 1 => inc
  | 2 => dec
  | 3 => if below then inc else (cur, false)
  | 4 => if below then dec else (cur, false)
  | 5 => (lim.1, false)
  | 6 => (lim.2.1, false)
  | 7 => (lim.2.2, false)
  | _ => (cur, false)

/-- YOP, XOP and ZOP of an op table entry act; the carries are of Y, X and Z. -/
def ApgCfg.move (g : ApgCfg) (a : Apg) (e : Nat) : Apg × Bool × Bool × Bool :=
  let yop := e % 8
  let xop := e / 8 % 8
  let zop := e / 64 % 8
  if g.order then
    let x := addrOp xop a.x g.x false
    let y := addrOp yop a.y g.y x.2
    let z := addrOp zop a.z g.z y.2
    ({ a with x := x.1, y := y.1, z := z.1 }, y.2, x.2, z.2)
  else
    let y := addrOp yop a.y g.y false
    let x := addrOp xop a.x g.x y.2
    let z := addrOp zop a.z g.z x.2
    ({ a with x := x.1, y := y.1, z := z.1 }, y.2, x.2, z.2)

/-- APG_PRE acts on all three generators. -/
def ApgCfg.preload (g : ApgCfg) (a : Apg) (pre : Nat) : Apg :=
  let pick := fun (cur : Nat) (l : Nat × Nat × Nat) => match pre with
    | 1 => l.1
    | 2 => l.2.1
    | 3 => l.2.2
    | _ => cur
  { a with x := pick a.x g.x, y := pick a.y g.y, z := pick a.z g.z }

/-- DOP acts on DINV. -/
def dataOp (e : Nat) (dinv : Bool) : Bool := match e / 2 ^ 20 % 4 with
  | 1 => !dinv
  | 2 => false
  | 3 => true
  | _ => dinv

/-- A queue with something at place `n`. -/
def putAt (q : List (Option Landing)) (n : Nat) (l : Landing) : List (Option Landing) :=
  (q ++ List.replicate (n + 1 - q.length) none).set n (some l)

/-- What one vector of the generator shows: the symbols that each kind of source takes, and the landing. -/
structure ApgVec where
  active : Bool
  fill : Bool
  x : Nat
  y : Nat
  z : Nat
  ctl : Nat
  write : Bool
  data : Nat
  landing : Option Landing
  deriving DecidableEq, Repr

/-- A vector in which no operation acts: of a block without APG, or a fill vector. -/
def idleApg (a : Apg) (fill : Bool) : ApgVec × Apg :=
  (⟨false, fill, 0, 0, 0, 0, false, 0, none⟩, { a with rdq := a.rdq.tail })

/-- A vector that op table entry `e` forms (R87 to R89), the state after it, and whether the selected carry occurs. -/
def ApgCfg.vector (g : ApgCfg) (a : Apg) (e carrySel : Nat) : ApgVec × Apg × Bool :=
  let a1 := { a with dinv := dataOp e a.dinv }
  let p := g.physical a1
  let w := g.dataWord a1
  let dmode := e / 2 ^ 22 % 4
  let q := if dmode = 2 then putAt a1.rdq g.rdLat ⟨w, p.1, p.2, a1.z⟩ else a1.rdq
  let v : ApgVec :=
    { active := true, fill := false, x := if g.addrOut then p.1 else a1.x, y := if g.addrOut then p.2 else a1.y, z := a1.z
      ctl := e / 2 ^ 24 % 256, write := dmode == 1, data := w, landing := q.head?.join }
  let m := g.move { a1 with rdq := q.tail } e
  (v, m.1, match carrySel with
    | 0 => m.2.1
    | 1 => m.2.2.1
    | _ => m.2.2.2)

/-- The symbol of an algorithmic pin (R85, R89, R90). -/
def ApgVec.symbol (v : ApgVec) (kind bit : Nat) : Nat :=
  let level := fun (n : Nat) => if n.testBit bit then 1 else 0
  if v.fill then (if kind = 4 then 7 else 3)
  else if !v.active then 3
  else match kind with
    | 1 => level v.x
    | 2 => level v.y
    | 3 => level v.z
    | 5 => level v.ctl
    | _ => if v.write then level v.data else match v.landing with
      | some l => 4 + level l.data
      | none => 7

/-! Table loading (R91). -/

/-- The CRC-32C of a table copy. -/
def tableCrc (copy : List (Tab Nat)) (t : Nat) : Nat :=
  (crc32c ((List.range (tableSize t)).flatMap fun i => leBytes (if t = 4 then 2 else 4) (tableEntry copy t i))).toNat

/-- A table copy with an entry stored; what the table's width does not hold is dropped. -/
def tableStore (copy : List (Tab Nat)) (t i v : Nat) : List (Tab Nat) :=
  let full := fiveTables copy
  let w := if t < 2 then v % 2 ^ 20 else v % 2 ^ 16
  full.set t (tabSet (tableIdentity t) (full.getD t []) i w)

end Sys2Proof.Machine
end

