-- ==== Sys2Proof/Machine/Lifecycle.lean ====
section
/-!
DEFINITION. Machine/Lifecycle.lean: sites and contexts as they leave a run and end it, and the compare results on their way back
(R82, R112, R124, R135, R137, R138, R169). notes/assumptions/33.md.
-/

namespace Sys2Proof.Machine

/-! Contexts and what their registers show. -/

/-- The contexts that stragglers of caravan `h` hold. -/
def State.stragglersOf (s : State) (h : Nat) : List Nat := (s.ctxs.filter fun e => e.2.straggler && e.2.home == h).map (·.1)

/-- RUN_STAT of a context. -/
def State.runShow (s : State) (c : Nat) : State :=
  let x := s.ctx c
  s.wrN (RUN_STAT c) (min 4 x.waits.length * 8192 + (s.stragglersOf c).length * 128 + min 8 x.forks.length * 8 + min 4 x.paths.length)

/-- A context changes, and RUN_STAT with it. -/
def State.putCtx (s : State) (c : Nat) (x : Ctx) : State := (s.setCtx c x).runShow c

/-- The caravan that a context serves. -/
def State.homeOf (s : State) (c : Nat) : Nat := if (s.ctx c).straggler then (s.ctx c).home else c

/-- The context that serves a site in a run. -/
def State.ctxOfSite (s : State) (n : Nat) : Nat := s.fld (RUN_SITE_STAT n) 8 3

/-- RUN_SITE_STAT of a site. -/
def State.setSiteStat (s : State) (n st c : Nat) : State := s.wrN (RUN_SITE_STAT n) (st + 8 * (c % 64))

/-- The pins of a site hold its park vector. -/
def parkSite (s : State) (n : Nat) : State :=
  (pinsOfSite s.casting n).foldl (fun t p => if p.role = 6 then t else t.applyPark p.channel p.park) s

/-- The pins that a context drives hold their park vector. -/
def parkCtx (c : Nat) (s : State) : State :=
  (s.pinsDriven c).foldl (fun t p => if p.role = 6 then t else t.applyPark p.channel p.park) s

/-- A context is free again. Results on their way back still reach it, and its tables stay. -/
def freeCtx (d : Nat) (s : State) : State :=
  let x := s.ctx d
  let s1 := s.setCtx d { Ctx.init with await := x.await, tables := x.tables }
  let s2 := (s1.wrN (RUN_HOME d) 0).setFld (SEQ_STAT d) 2 0 (if s.fld (SEQ_STAT d) 2 0 = 4 then 4 else 0)
  (s2.runShow d).runShow x.home

/-- A straggler's context frees once it serves no site (R138). -/
def freeIfDone (c : Nat) (s : State) : State :=
  if (s.ctx c).straggler && (s.ctx c).sites.isEmpty && (s.ctx c).tails.isEmpty then freeCtx c s else s

/-! What crosses next. -/

/-- The vector generated first among a list. -/
def firstVec : List Vec → Option Vec
  | [] => none
  | v :: l => match firstVec l with
    | some w => some (if w.gen < v.gen then w else v)
    | none => some v

/-- The next vector of a context due at the pour line. -/
def State.nextVec (s : State) (c : Nat) : Option Vec := firstVec (s.ctx c).vecs

/-! Common pins (R45). -/

/-- A context's vectors have stopped for now: the next one was due in an earlier clock. -/
def State.ctxHeld (s : State) (c : Nat) : Bool := (s.ctx c).expect.all fun e => e / 2 + (s.ctx c).delay < s.time.up

/-- A site holds its park vector: it is in no run, it waits, or its context's vectors have stopped. -/
def State.siteHeld (s : State) (n : Nat) : Bool :=
  let st := s.fld (RUN_SITE_STAT n) 2 0
  !s.siteServed n || (!(s.ctxs.any fun e => e.2.tails.any (·.site == n)) && (st == 3 || st == 4 || s.ctxHeld (s.ctxOfSite n)))

/-- Every enabled site of a caravan holds its park vector. -/
def State.allHeld (s : State) (h : Nat) : Bool := (sitesOfCaravan s.casting h).all fun n => !s.enabled n || s.siteHeld n

/-- The common pins of a caravan hold park once every enabled site of it does. -/
def commonsFollow (h : Nat) (s : State) : State :=
  if s.allHeld h then (s.casting.pins.filter fun p => p.common && p.owner == h).foldl (fun t p => t.applyPark p.channel p.park) s else s

/-! Compare results (R82, R124, R169). -/

/-- The strobes of a vector that fail. -/
def Vec.fails (v : Vec) (obs : List PinObs) : List Strobe :=
  v.strobes.filter fun x => !x.isCapture && !x.pass ((obs.find? fun o => o.channel == x.channel).getD ⟨x.channel, false, false, false⟩)

/-- A MATCH fail of site `n` on a vector of stream `v.stream` counts V positions on, in the stream that serves the site now or, while
the site waits, in its group; nothing that another run or a straggler before its rejoin strobed counts (R124, R137). -/
def countFail (v : Vec) (s : State) (n : Nat) : State :=
  let d := s.ctxOfSite n
  let x := s.ctx d
  let fail := (n, v.pos + 2 * x.delay)
  if !s.siteServed n then s
  else if x.waits.any fun w => w.sites.contains n then
    s.setCtx d { x with waits := x.waits.map fun w =>
      if w.sites.contains n && w.lineage.contains v.stream then { w with results := w.results ++ [fail] } else w }
  else if x.lineage.contains v.stream then s.setCtx d { x with results := x.results ++ [fail] }
  else s

/-- The results of one vector reach the match state and fail capture. -/
def resultVec (v : Vec) (obs : List PinObs) (s : State) : State :=
  let s1 := v.applied.foldl (fun t e => siteVector e.1 e.2 v obs t) s
  if v.instr.isMatch then s1.each ((v.fails obs).map Strobe.site).eraseDups (countFail v) else s1

/-- What waits for no compare result leaves the head of the queue of caravan `h`. -/
def drainSteps (h : Nat) : Nat → State → State
  | 0, s => s
  | k + 1, s =>
    let x := s.ctx h
    match x.await with
    | .leave n code time index tset vecs strag :: rest =>
      drainSteps h k (siteEnds n code time index tset vecs strag (s.setCtx h { x with await := rest }))
    | .start n :: rest =>
      let t := s.setCtx h { x with await := rest }
      drainSteps h k (t.setSite n { t.site n with accepted := 0 })
    | .vec v obs :: rest =>
      if v.strobes.isEmpty || obs.isSome then drainSteps h k (resultVec v (obs.getD []) (s.setCtx h { x with await := rest })) else s
    | [] => s

/-- What waits for no compare result is processed, in the order in which it crossed. -/
def drainAwait (h : Nat) (s : State) : State := drainSteps h ((s.ctx h).await.length) s

/-- The clock in which a vector of context `c` that waits for its results crossed. -/
def Await.waits (c : Nat) : Await → Option Nat
  | .vec v none => if v.stream.1 = c ∧ v.strobes ≠ [] then some v.cross else none
  | .vec _ (some _) => none
  | .start _ => none
  | .leave _ _ _ _ _ _ _ => none

/-- The results `obs` go to the oldest vector of context `c` that waits for them. -/
def putObs (c : Nat) (obs : List PinObs) : List Await → List Await
  | [] => []
  | a :: l => match a, a.waits c with
    | .vec v _, some _ => .vec v (some obs) :: l
    | _, _ => a :: putObs c obs l

/-- The caravan whose queue holds the oldest vector of context `c` that waits for results. -/
def State.awaitHome (s : State) (c : Nat) : Option Nat :=
  let l := s.ctxs.filterMap fun e => (e.2.await.findSome? (Await.waits c)).map fun t => (e.1, t)
  let first := (l.map Prod.snd).foldl min ((l.head?.map Prod.snd).getD 0)
  (l.find? fun e => e.2 == first).map Prod.fst

/-- The compare results of the oldest vector of context `c` that waits for them come in. -/
def compareResult (c : Nat) (obs : List PinObs) (s : State) : State :=
  match s.awaitHome c with
  | none => s
  | some h => drainAwait h (s.setCtx h { s.ctx h with await := putObs c obs (s.ctx h).await })

/-! Leaving the run (R112, R138, R173, R187, R188). -/

/-- A WAIT entry for the end of a wait (R135). -/
def waitEnds (h : Nat) (w : WaitGroup) (sites : List Nat) (s : State) : State :=
  let s1 := sites.foldl (fun t n => t.wrN (RUN_SITE_WAIT n) (min 0xFFFF w.stages)) s
  s1.logSites 0x0013 s.convoyTime (leBytes 1 h ++ leBytes 1 1 ++ leBytes 2 0 ++ leBytes 4 w.index ++ leBytes 4 w.stages) sites

/-- No context of caravan `h` serves site `n` any more; where it was the last of a waiting group, the wait ends. -/
def siteGone (h : Nat) (s : State) (n : Nat) : State :=
  let s1 := s.each (h :: s.stragglersOf h) fun t d =>
    let y := t.ctx d
    t.setCtx d { y with sites := y.sites.erase n, tails := y.tails.filter fun t => t.site ≠ n }
  let z := s1.ctx h
  let s2 := s1.putCtx h { z with
    rejoins := z.rejoins.filter (fun r => r.site ≠ n)
    waits := (z.waits.map fun w => { w with sites := w.sites.erase n }).filter fun w => !w.sites.isEmpty }
  match z.waits.find? fun w => w.sites.contains n with
  | some w => if w.sites.length ≤ 1 then waitEnds h w [n] s2 else s2.wrN (RUN_SITE_WAIT n) (min 0xFFFF w.stages)
  | none => s2

/-- A site leaves the run of context `c` with a code. Fail capture learns of it after the results of its vectors. -/
def siteLeave (c code : Nat) (s : State) (n : Nat) : State :=
  let x := s.site n
  let h := s.homeOf c
  let d := s.ctxOfSite n
  let s1 := (s.setSiteStat n 5 d).wrN (RUN_SITE_CODE n) code
  let s2 :=
    if 0x0E10 ≤ code ∧ code ≤ 0x0E13 then
      (s1.evt (RUN_EVT c) 7).log 0x0015 s.convoyTime (leBytes 1 c ++ leBytes 1 0 ++ leBytes 2 n ++ leBytes 2 code)
    else s1
  let s3 := siteGone h s2 n
  let w := s3.ctx h
  let s4 := s3.setCtx h { w with
    await := w.await ++ [.leave n code s.convoyTime x.lastIndex x.lastTset x.vecs (s.ctx c).straggler] }
  let s5 := s4.setSite n { s4.site n with
    abort := none, tripped := false, disableAt := x.disableAt || (code = 0x0F01 && x.abort.any (·.1)) }
  let s6 := if code = 0x0F01 then s5.evt ASY_EVT 1 else s5
  freeIfDone d (freeIfDone c (drainAwait h (commonsFollow h (parkSite s6 n))))

/-- Every site of a context leaves with a code. -/
def sitesLeave (c code : Nat) (s : State) : State := s.each (s.ctx c).sites (siteLeave c code)

/-! Stalls (R102). -/

/-- A STALL entry of the run log. -/
def stallLog (c phase : Nat) (st : Stall) (duration : Nat) (s : State) : State :=
  s.log 0x0002 (if phase = 0 then st.time else s.convoyTime)
    (leBytes 1 c ++ leBytes 1 st.cause ++ leBytes 1 phase ++ leBytes 1 0 ++ leBytes 4 st.index ++ leBytes 8 st.time ++ leBytes 4 duration)

/-- A stall ends, by resumption or with the run. -/
def stallEnd (c : Nat) (s : State) : State :=
  let x := s.ctx c
  match x.stall with
  | none => s
  | some st =>
    let d := min 0xFFFFFFFF (s.time.up - st.since)
    stallLog c 1 st d ((s.setCtx c { x with stall := none, resume := false }).setWide (SEQ_STALL_D c) 2 d)

/-! The end of a run (R109, R112, R135, R137, R138). -/

/-- Sites that wait leave a caravan's run, and their wait ends. -/
def waitEnd (h code : Nat) (s : State) (w : WaitGroup) : State :=
  (waitEnds h w w.sites s).each w.sites (siteLeave h code)

/-- A pending requested jump is dropped. -/
def jumpDrop (c : Nat) (s : State) : State :=
  if s.bit (SEQ_JSTAT c) 0 then (s.wrN (SEQ_JSTAT c) 0).evt (SEQ_EVT c) 5 else s

/-- A site of the context still takes the last vectors of the stream it diverged from. -/
def State.tailed (s : State) (c : Nat) : Bool := s.ctxs.any fun e => e.2.tails.any fun t => (s.ctx c).sites.contains t.site

/-- The run of a context ends once the last vector it has generated has crossed, and the last one its sites still take from another:
the context enters ENDED, groups that wait and sites that wait for a rejoin leave, and its own sites leave with the code. -/
def finishRun (c : Nat) (s : State) : State :=
  let x := s.ctx c
  match x.code with
  | some code =>
    if s.ctxActive c && x.vecs.isEmpty && !s.tailed c then
      let y := { x with
        present := [], instrs := [], rows := [], fetched := [], caches := [], resume := false, kill := none, rdv := none, waits := []
        rejoins := [] }
      let s1 := ((s.putCtx c y).setFld (SEQ_STAT c) 2 0 4).wrN (SEQ_CODE c) code
      let s2 := jumpDrop c (s1.evt (SEQ_EVT c) 1)
      let s3 := if x.straggler then s2
        else
          let t := x.waits.foldl (waitEnd c (if code = 0x0D11 then 0x0D11 else 0x0E12)) s2
          x.rejoins.foldl (fun u r => siteLeave r.context 0x0E13 u r.site) t
      freeIfDone c (sitesLeave c code (parkCtx c s3))
    else s
  | none => s

/-- A run's end code is fixed: nothing more is generated, and what the committed path has generated still crosses. The first end
code stands. -/
def endRun (c code : Nat) (s : State) : State :=
  if (s.ctx c).code.isSome then s
  else
    let s0 := stallEnd c s
    let x := s0.ctx c
    finishRun c (s0.putCtx c { x with
      paths := [], forks := [], vecs := x.vecs.filter (fun v => v.need.isEmpty), code := some code, kill := none, rdv := none })

/-- A caravan has sites in its run. -/
def State.anySite (s : State) (h : Nat) : Bool :=
  !(s.ctx h).sites.isEmpty || !(s.ctx h).waits.isEmpty || !(s.ctx h).rejoins.isEmpty
    || (s.stragglersOf h).any fun d => !(s.ctx d).sites.isEmpty

end Sys2Proof.Machine
end

