-- ==== Sys2Proof/Machine/Sequencer.lean ====
section
/-!
DEFINITION. Machine/Sequencer.lean: the generation point: blocks, ingots, control actions, forks and divergence (R79 to R83, R96,
R100 to R109, R125 to R136). notes/assumptions/33.md and 34.md.
-/

namespace Sys2Proof.Machine

/-! Positions. -/

/-- The present clock in half clocks. -/
def State.nowHalf (s : State) : Nat := 2 * s.time.up

def LoopCtr.init : LoopCtr := ⟨false, 0, 0, 0, 0, 0, ⟨0, 0, 0, false, []⟩⟩

/-- The position from which a run begins (R474). -/
def SeqPos.first (pc : Nat) : SeqPos :=
  { pc := pc, stack := [], loops := List.replicate 16 LoopCtr.init, apg := ⟨0, 0, 0, false, []⟩, cont := [], stream := []
    rdv := [], tset := 0, vec := 0, seam := 0, clr := 0, jump := none, stop := none, notes := [] }

def SeqPos.loopAt (q : SeqPos) (k : Nat) : LoopCtr := q.loops.getD k LoopCtr.init
def SeqPos.setLoop (q : SeqPos) (k : Nat) (l : LoopCtr) : SeqPos := { q with loops := q.loops.set k l }

/-- The live path at place `p` changes. -/
def State.putPath (s : State) (c p : Nat) (x : Path) : State := s.putCtx c { s.ctx c with paths := (s.ctx c).paths.set p x }

/-! Holds on directory entries (R97). -/

/-- A key of a stream row. -/
def rowKey (e row : Nat) : Nat := e * 2 ^ 32 + row

/-- Context `c` holds directory entry `e`. -/
def State.ctxHolds (s : State) (c e : Nat) : Bool :=
  let x := s.ctx c
  s.ctxActive c &&
    (x.program == e || (x.present.any fun r => r.1 == e) || (x.rows.any fun r => r.1 / 2 ^ 32 == e) || (x.caches.any fun h => h.2 == e)
      || (x.vecs.any fun v => v.instr.stored && v.instr.segment == e)
      || x.paths.any fun p => p.block.any fun b => b.instr.stored && b.instr.segment == e)

/-- The caravans that hold entry `e` of pattern partition `p`; a straggler holds it for its caravan. -/
def State.entryHolders (s : State) (p e : Nat) : List Nat :=
  (((s.ctxs.map (·.1)).filter fun c =>
    ((findCaravan s.casting (s.homeOf c)).any fun k => k.patPart == p) && s.ctxHolds c e).map s.homeOf).eraseDups

/-- SEG_LOADs in progress lock their entries (R99). -/
def State.entryLocked (s : State) (p e : Nat) : Bool :=
  s.loads.any fun j => j.opcode == 0x0010 && leAt j.entry 16 1 == p && leAt j.entry 18 2 == e

/-- The pattern partition of a caravan. -/
def State.partOf (s : State) (h : Nat) : Nat := ((findCaravan s.casting h).map (·.patPart)).getD 0

/-! Loop caches (R100). -/

/-- The clusters that hold lanes of a segment. -/
def DirEntry.clusters (d : DirEntry) : List Nat := (d.lanes.map (· / 8)).eraseDups

/-- The bytes of a cluster's copy of a segment. -/
def DirEntry.copyBytes (d : DirEntry) (k : Nat) : Nat := (d.lanes.filter fun l => l / 8 == k).length * (32 + d.length * d.ingotBytes)

/-- A caravan's allocation in a cluster. -/
def cacheSize (k : Casting) (h cl : Nat) : Nat :=
  ((k.lcs.find? fun r => r.cluster == cl && r.caravan == h).map fun r => r.size * 65536).getD 0

/-- A row of the segment comes wholly from loop caches. -/
def State.rowCached (s : State) (h e : Nat) (d : DirEntry) : Bool := d.clusters.all fun k => (s.ctx h).caches.contains (k, e)

/-- Segments make room in a cluster, the least recently played first, until `need` more bytes fit. -/
def cacheEvict (size : Nat → Nat) (k total need : Nat) : Nat → List (Nat × Nat) → List (Nat × Nat)
  | 0, l => l
  | n + 1, l =>
    let used := ((l.filter fun h => h.1 == k).map fun h => size h.2).sum
    if used + need ≤ total then l
    else match l.find? fun h => h.1 == k with
      | some h => cacheEvict size k total need n (l.erase h)
      | none => l

/-- A block has played a segment: copies of it are the most recently played, and with LC (`lc`) the clusters that can hold it make
one. -/
def cachePlay (h e : Nat) (lc : Bool) (s : State) : State :=
  let d := s.segEntry h e
  if d.isStream then s
  else
    let size := fun k x => (s.segEntry h x).copyBytes k
    let fill := fun (l : List (Nat × Nat)) (k : Nat) =>
      let total := cacheSize s.casting h k
      if l.contains (k, e) then l.erase (k, e) ++ [(k, e)]
      else if !lc || s.isolated k || d.copyBytes k > total then l
      else cacheEvict (size k) k total (d.copyBytes k) l.length l ++ [(k, e)]
    s.setCtx h { s.ctx h with caches := d.clusters.foldl fill (s.ctx h).caches }

/-! The start of a block (R80, R96, R105, R474). -/

/-- The fault of an instruction that stops the path before its block. -/
def instrFault (q : SeqPos) (i : PatInstr) : Option Nat :=
  if i.op = 0 ∨ i.op > 0x0B then some 0x0D13
  else if i.op = 0x06 ∧ i.arg = 0 then some 0x0D13
  else if (i.op = 0x03 ∨ i.op = 0x08) ∧ i.cond > 6 then some 0x0D13
  else if i.op = 0x07 ∧ (q.loopAt i.loop).active = false then some 0x0D13
  else if i.op = 0x04 ∧ q.stack.length ≥ 8 then some 0x0D14
  else if i.op = 0x05 ∧ q.stack = [] then some 0x0D15
  else none

/-- The first row that a stored block plays, or the code that stops the path before it. -/
def State.firstRow (s : State) (h : Nat) (q : SeqPos) (i : PatInstr) : Except Nat Nat :=
  let d := s.segEntry h i.segment
  let cont := tabGet (fun _ => none) q.cont i.segment
  if !s.segValid h d then .error 0x0D16
  else match (if i.cont then cont else some i.offset) with
    | none => .error 0x0D17
    | some row =>
      if !i.endOnCarry && row + i.rep + 1 > d.length then .error 0x0D17
      else if d.isStream && (row ≠ tabGet (fun _ => 0) q.stream i.segment
          || (s.entryHolders (s.partOf h) i.segment).any (· ≠ h)) then .error 0x0D18
      else .ok row

/-- The block at a path's position is the next to generate. -/
def Path.opened (p : Path) (i : PatInstr) (row : Nat) : Path := { p with block := some ⟨p.pos.pc, i, 0, row, false, 0⟩ }

/-- A block begins with its first vector: at the first of a run CUR of each generator is its MIN in force (R86), and then APG_PRE and
MATCH_CLR act. -/
def Path.begun (p : Path) (g : ApgCfg) (i : PatInstr) : Path :=
  let q := p.pos
  let apg := if q.vec = 0 then ⟨g.x.1, g.y.1, g.z.1, false, []⟩ else q.apg
  { p with pos := { q with apg := g.preload apg i.apgPre, clr := if i.matchClr then q.vec else q.clr, tset := i.tset } }

/-- What the path meets at a block's beginning: the block, an end code, or missing instructions. -/
def State.openBlock (s : State) (c : Nat) (p : Path) : Path :=
  let h := s.homeOf c
  let x := s.ctx c
  let k := p.pos.pc
  if k ≥ (s.segEntry h x.program).length then { p with halt := .ended 0x0D13 }
  else if !x.instrs.contains k then { p with halt := .data (if s.entryLocked (s.partOf h) x.program then 3 else 4) }
  else
    let i := s.instrAt h x.program k
    match instrFault p.pos i with
    | some code => { p with halt := .ended code }
    | none =>
      if !i.stored then p.opened i 0
      else if s.entryLocked (s.partOf h) i.segment then { p with halt := .data 3 }
      else match s.firstRow h p.pos i with
        | .error code => { p with halt := .ended code }
        | .ok row => p.opened i row

/-! One ingot (R79, R85, R87 to R90, R94, R95). -/

/-- What the row of a segment gives: lane, palette and ingot. -/
def State.rowData (s : State) (h : Nat) (rows : Tab (List Byte)) (e row : Nat) : List (Nat × List Byte × List Byte) :=
  let d := s.segEntry h e
  match s.patStore h with
  | none => []
  | some p =>
    let stream := tabGet (fun _ => []) rows (rowKey e row)
    (d.lanes.zipIdx).map fun l =>
      let n := d.lanes.length
      let ingot := if d.isStream then Sys2Proof.slice stream (l.2 * d.ingotBytes) d.ingotBytes
        else s.partRead p (d.base * 64 + d.paletteBytes + (row * n + l.2) * d.ingotBytes) d.ingotBytes
      (l.1, s.partRead p (d.base * 64 + 32 * l.2) 32, ingot)

/-- The symbol of a pin in vector `v` of an ingot. -/
def State.pinSymbol (s : State) (i : PatInstr) (full : Bool) (data : List (Nat × List Byte × List Byte)) (a : ApgVec) (v ch : Nat) : Nat :=
  let kind := s.fld (PIN_SRC ch) 15 13
  if 1 ≤ kind ∧ kind ≤ 5 then a.symbol kind (s.fld (PIN_SRC ch) 4 0)
  else if !i.stored then 3
  else match data.find? fun l => l.1 == ch / 16 with
    | some l => ingotSymbol full l.2.1 l.2.2 v (ch % 16)
    | none => 3

/-- Op table entry `k` of a caravan. -/
def State.opEntry (s : State) (h k : Nat) : Nat := s.wide (SEQ_OP h (2 * k)) 2

/-- One vector of an ingot: the generator's part, the state after it, and whether the ending carry has come. -/
def State.apgStep (s : State) (h : Nat) (g : ApgCfg) (i : PatInstr) (n : Nat) (a : Apg) (finished : Bool) : ApgVec × Apg × Bool :=
  if !i.apg then let r := idleApg a false; (r.1, r.2, finished)
  else if finished then let r := idleApg a true; (r.1, r.2, finished)
  else
    let r := g.vector a (s.opEntry h ((i.apgStart + n % (i.apgLen + 1)) % 256)) i.carrySel
    (r.1, r.2.1, i.endOnCarry && r.2.2)

/-- The 64 vectors of an ingot of block `b`, in reverse, with the generator's state and whether the carry has come. -/
def State.ingotVecs (s : State) (h : Nat) (p : Path) (b : Block) (t slots rowNote : Nat)
    (data : List (Nat × List Byte × List Byte)) : List Vec × Apg × Bool :=
  let g := s.apgCfg h
  let i := b.instr
  let d := s.segEntry h i.segment
  let chs := ((pinsOfCaravan s.casting h).filter fun r => r.role ≠ 6).map (·.channel)
  (List.range 64).foldl (fun (acc : List Vec × Apg × Bool) v =>
    let r := s.apgStep h g i (64 * b.done + v) acc.2.1 acc.2.2
    let a := r.1
    let lands := a.active && !a.write && a.landing.isSome
    let vec : Vec :=
      { pos := p.pos.vec + v, gen := t + v * slots, slots := slots, index := b.index, instr := i, need := p.need
        syms := chs.map fun ch => (ch, s.pinSymbol i d.isFull data a v ch)
        read := if lands then a.landing else none
        dbits := if lands then (chs.filter fun ch => s.fld (PIN_SRC ch) 15 13 == 4).map fun ch => (ch, s.fld (PIN_SRC ch) 4 0) else []
        clash := a.write && a.landing.isSome, row := if v = 0 then rowNote else 0, loops := p.pos.loops.map (·.count)
        apg := { acc.2.1 with dinv := if a.active then dataOp (s.opEntry h ((i.apgStart + (64 * b.done + v) % (i.apgLen + 1)) % 256)) acc.2.1.dinv else acc.2.1.dinv, rdq := [] }
        depth := p.pos.stack.length, first := b.done == 0 && v == 0, last := false, cause := if v = 0 then p.cause else 0
        causeIdx := if v = 0 then p.causeIdx else 0, rdLat := g.rdLat, cross := 0, applied := [], straggler := false, stream := (0, 0)
        run := (0, 0), strobes := [] }
    (vec :: acc.1, r.2.1, r.2.2)) ([], p.pos.apg, false)

/-- Stream rows that some path, checkpoint or waiting group of a context has still to play (R105, R127). -/
def Ctx.liveRows (x : Ctx) : Tab (List Byte) :=
  let l := x.paths.map (·.pos) ++ x.forks.map (·.ckpt) ++ x.waits.map (·.ckpt)
  x.rows.filter fun r => l.any fun q => tabGet (fun _ => 0) q.stream (r.1 / 2 ^ 32) ≤ r.1 % 2 ^ 32

/-- The path generates one ingot of its block in the present clock. -/
def genIngot (c n : Nat) (p0 : Path) (b : Block) (s : State) : State :=
  let h := s.homeOf c
  let x := s.ctx c
  let i := b.instr
  let e := i.segment
  let d := s.segEntry h e
  let row := b.row + b.done
  let slots := s.period h i.tset
  let p := if b.done = 0 then p0.begun (s.apgCfg h) i else p0
  let t := max p.time s.nowHalf
  let cached := i.stored && s.rowCached h e d
  let note := if cached then 1 else if i.stored && i.lc then 2 else 0
  let data := if i.stored then s.rowData h x.rows e row else []
  let r := s.ingotVecs h p b t slots note data
  let finished := b.done ≥ i.rep || r.2.2
  let vecs := (match r.1 with
    | v :: rest => { v with last := finished } :: rest
    | [] => []).reverse
  let q := { p.pos with
    apg := r.2.1, vec := p.pos.vec + 64, seam := if i.stored && row + 1 == d.length then p.pos.vec + 64 else p.pos.seam
    cont := if i.stored then tabSet (fun _ => none) p.pos.cont e (some (row + 1)) else p.pos.cont
    stream := if i.stored && d.isStream then tabSet (fun _ => 0) p.pos.stream e (row + 1) else p.pos.stream }
  let b1 := { b with done := b.done + 1, finished := finished, cfg := s.rdN (RUN_CFG h) }
  let p1 := { p with pos := q, block := some b1, time := t + 64 * slots, cause := 0, causeIdx := 0 }
  let x1 := { x with
    paths := x.paths.set n p1, vecs := x.vecs ++ vecs
    expect := if x.expect.isNone then some t else x.expect
    present := if i.stored then x.present.erase (e, row) else x.present }
  let s1 := s.putCtx c { x1 with rows := x1.liveRows }
  if finished && i.stored && (i.lc || cached) then cachePlay h e i.lc s1 else s1

/-- The data of the next ingot of a block is there, or the cause for which it is not. A row that loop caches hold needs no fetch. -/
def State.ingotCause (s : State) (c : Nat) (b : Block) : Option Nat :=
  let h := s.homeOf c
  let x := s.ctx c
  let e := b.instr.segment
  let d := s.segEntry h e
  let row := b.row + b.done
  if !b.instr.stored then none
  else if d.isStream then
    (if (tabLookup x.rows (rowKey e row)).isSome then none else some (if s.entryLocked (s.partOf h) e then 3 else 2))
  else if x.present.contains (e, row) || s.rowCached h e d then none
  else some (if s.entryLocked (s.partOf h) e then 3 else 1)

/-! What is settled on the committed path. -/

/-- Events of a requested jump on a committed path (R107, R109). -/
def jumpNote (c : Nat) (s : State) (b : Nat) : State :=
  if b = 4 then ((s.inc (SEQ_JDEF_CNT c)).evt (SEQ_EVT c) 4).setBit (SEQ_JSTAT c) 1 true
  else (((s.evt (SEQ_EVT c) 3).wrN (SEQ_JSTAT c) 0).forceBits (SEQ_JMODE c) 3 0)

/-- A stall begins (R102, R103). -/
def stallStart (c cause index : Nat) (s : State) : State :=
  let x := s.ctx c
  let last := match x.vecs.getLast? with
    | some v => v.gen / 2 + x.delay
    | none => x.crossed
  let st : Stall := ⟨cause, index, s.time.up, s.timeOf last⟩
  let s1 := (s.setCtx c { x with stall := some st, resume := false }).wrN (SEQ_STALL_CAUSE c) cause
  let s2 := ((s1.setWide (SEQ_STALL_T c) 4 st.time).inc (SEQ_STALL_CNT c)).evt (SEQ_EVT c) 2
  let s3 := stallLog c 0 st 0 s2
  if s.bit (SEQ_MODE (s.homeOf c)) 0 then s3.setFld (SEQ_STAT c) 2 0 3 else endRun c 0x0D12 s3

/-- What a committed path has met takes effect: events of jumps, an end code, a stall. -/
def settle (c : Nat) (s : State) : State :=
  let x := s.ctx c
  match (x.paths.zipIdx).find? fun e => e.1.need.isEmpty with
  | none => s
  | some (p, n) =>
    let s1 := (p.pos.notes.foldl (jumpNote c) s).putPath c n { p with pos := { p.pos with notes := [] } }
    match p.halt with
    | .ended code => endRun c code s1
    | .data cause => if s1.fld (SEQ_STAT c) 2 0 = 2 then stallStart c cause (match p.block with | some b => b.index | none => p.pos.pc) s1 else s1
    | _ => s1

/-! An ingot boundary (R103, R104, R108, R112). -/

/-- What ends a path at an ingot boundary, or cuts its block. -/
def State.boundary (s : State) (c : Nat) (p : Path) : Path :=
  let x := s.ctx c
  let q := p.pos
  match x.kill, q.stop, q.jump with
  | some code, _, _ => { p with halt := .ended code }
  | none, stop, jump =>
    if !x.straggler && !s.anySite c then { p with halt := .ended 0x0D19 }
    else if stop.any fun g => q.vec ≥ g + 128 then { p with halt := .ended 0x0D11 }
    else match jump with
      | some j => if j.mode = 2 ∧ q.vec ≥ j.g + 128 then
          { p with pos := { q with pc := j.target, jump := none, notes := q.notes ++ [3] }, block := none }
        else p
      | none => p

/-- The generation point of path `n` reaches an ingot period. -/
def ingotNow (c n : Nat) (s : State) : State :=
  match (s.ctx c).paths[n]? with
  | none => s
  | some p =>
    let p1 := s.boundary c p
    let p2 := if p1.halt ≠ .none then p1 else if p1.block.isNone then s.openBlock c p1 else p1
    match p2.halt, p2.block with
    | .none, some b =>
      let d := s.segEntry (s.homeOf c) b.instr.segment
      if b.finished then s.putPath c n p2
      else if b.instr.stored && b.row + b.done ≥ d.length then settle c (s.putPath c n { p2 with halt := .ended 0x0D17 })
      else match s.ingotCause c b with
        | none => settle c (genIngot c n p2 b s)
        | some cause =>
          if d.isStream && !p2.need.isEmpty then s.putPath c n p2
          else settle c (s.putPath c n { p2 with halt := .data cause })
    | _, _ => settle c (s.putPath c n p2)

/-- INGOT_GENERATE: the next ingot of a live path at its time. A path whose block is over takes its control action first. -/
def ingotGenerate (c n : Nat) (s : State) : State :=
  match (s.ctx c).paths[n]? with
  | some p =>
    if s.fld (SEQ_STAT c) 2 0 = 2 ∧ p.halt = .none ∧ (p.block.any (·.finished)) = false then s.atDue (p.time / 2) (ingotNow c n) else s
  | none => s

/-! Conditions (R82, R83, R125, R133). -/

/-- A vector's symbols include one that expects. -/
def Vec.expects (v : Vec) : Bool := v.syms.any fun e => [4, 5, 6, 0xD, 0xE, 0xF].contains e.2

/-- A vector that sites of context `c` still take from the stream they diverged from meets `p`, and expects. -/
def State.tailVecs (s : State) (c : Nat) (p : Vec → Bool) : Bool :=
  s.ctxs.any fun e => e.2.tails.any fun t => (s.ctx c).sites.contains t.site && e.2.vecs.any fun v => v.pos ≤ t.last && p v && v.expects

/-- Some strobe that counts at or before position `n` has no result yet, for a site of the context (R124, R125). -/
def State.outstanding (s : State) (c n : Nat) : Bool :=
  let x := s.ctx c
  let h := s.homeOf c
  let counts := fun (v : Vec) => v.instr.isMatch && v.pos + 2 * x.delay ≤ n
  let waits := fun (a : Await) => match a with
    | .vec v _ => x.lineage.contains v.stream && counts v && v.strobes.any fun b => !b.isCapture && x.sites.contains b.site
    | .start _ => false
    | .leave _ _ _ _ _ _ _ => false
  !x.sites.isEmpty && ((x.vecs.any fun v => counts v && v.expects) || (s.ctx h).await.any waits || s.tailVecs c counts)

/-- A site's match state at position `n` of its stream. -/
def Ctx.failed (x : Ctx) (clr n site : Nat) : Bool := x.results.any fun r => r.1 == site && clr ≤ r.2 && r.2 ≤ n

/-- How a compare-based branch comes out: the outcome of the context's own path, and the sites that take the other one. `cfg` is the
RUN_CFG that its block ended under. -/
def State.outcome (s : State) (c clr n cfg : Nat) (i : PatInstr) : Bool × List Nat :=
  let x := s.ctx c
  let fail := x.failed clr n
  match i.cond with
  | 0 => (x.sites.all fun k => !fail k, [])
  | 1 => (x.sites.any fail, [])
  | 2 => (x.sites.all fail, [])
  | 3 => (x.sites.any fun k => !fail k, [])
  | _ =>
    let takes := x.sites.filter fun k => if i.cond = 4 then !fail k else fail k
    let others := x.sites.filter fun k => !takes.contains k
    if takes.isEmpty then (false, [])
    else if others.isEmpty then (true, [])
    else
      let own := match cfg / 4 % 4 with
        | 1 => false
        | 2 => true
        | _ => decide (takes.length > others.length)
      (own, if own then others else takes)

/-- The position after a branch block with an outcome. -/
def SeqPos.branch (q : SeqPos) (i : PatInstr) (index : Nat) (taken : Bool) : SeqPos :=
  let q1 := if taken && i.op == 0x08 then q.setLoop i.loop { q.loopAt i.loop with active := false } else q
  { q1 with pc := if taken then i.arg else index + 1 }

/-! Divergence (R133 to R135). -/

/-- The context that a group of caravan `h` could take. -/
def State.freeContext (s : State) (h : Nat) : Option Nat :=
  let max := ((findCaravan s.casting h).map (·.stragMax)).getD 0
  if (s.stragglersOf h).length ≥ max then none
  else (List.range 64).find? fun d =>
    (findCaravan s.casting d).isNone && !(s.ctx d).straggler && (s.cast.recast.bind (·.target)) ≠ some d

/-- Sites whose last vector in a context has crossed are done with it: those with a code leave, and the others go on in the context that
serves them now, in park where its first vector does not follow at once. -/
def settleTails (c : Nat) (s : State) : State :=
  let x := s.ctx c
  let done := x.tails.filter fun t => !x.vecs.any fun v => v.pos ≤ t.last
  freeIfDone c (done.foldl (fun u t =>
    let y := u.ctx c
    let d := u.ctxOfSite t.site
    let follows := (u.nextVec d).any fun v => y.expect == some v.gen
    let u1 := u.setCtx c { y with tails := y.tails.erase t }
    if t.code ≠ 0 then siteLeave c t.code u1 t.site
    else if follows then u1
    else finishRun d (commonsFollow (u1.homeOf c) (parkSite u1 t.site)))
    s)

/-- The group `w` of context `c` takes context `d`: it begins with what passes to it, or with a path of its own. -/
def detach (c d : Nat) (w : WaitGroup) (expect : Option Nat) (paths : List Path) (forks : List Fork) (vecs : List Vec) (s : State) : State :=
  let h := s.homeOf c
  let x := s.ctx c
  let y : Ctx := { Ctx.init with
    home := h, straggler := true, lineage := (d, s.time.up) :: w.lineage, sites := w.sites, delay := x.delay, program := x.program
    start := x.start, paths := paths, vecs := vecs, forks := forks, nextFork := x.nextFork, expect := expect, crossed := s.time.up
    phases := [⟨s.nowHalf, w.phase, 1, 0⟩], present := x.present, instrs := x.instrs, rows := x.rows, fetched := x.fetched
    lastIndex := x.lastIndex, lastTset := x.lastTset, outcomes := x.outcomes, results := w.results, await := (s.ctx d).await
    tables := (s.ctx d).tables }
  let s1 := (((s.setCtx d y).wrN (SEQ_STAT d) 2).wrN (RUN_HOME d) (0x8000 + h)).setWide (RUN_BUB_CLK d) 2 0
  let s2 := s1.each w.sites fun t n => t.setSiteStat n 2 d
  ((s2.runShow d).runShow h |>.evt (RUN_EVT h) 4).logSites 0x0012 s.convoyTime
    (leBytes 1 h ++ leBytes 1 d ++ leBytes 2 0 ++ leBytes 4 w.index) w.sites

/-- The sum of the periods of the vectors that a stream has committed. -/
def phaseTotal : List PhaseRun → Nat
  | [] => 0
  | r :: _ => r.base + r.period * r.count

/-- Committed vector time of a context at a branch whose block ends at position `last`. -/
def Ctx.phaseAt (x : Ctx) (last : Nat) : Nat := phaseTotal x.phases + ((x.vecs.filter fun v => v.pos ≤ last).map (·.slots)).sum

/-- The sites of a group go their own way at branch `f`: those that may not straggle leave, the others detach, wait or leave.
`moved` is what passes to them with the branch; without it they begin at half clock `at_` from `f.ckpt` with outcome `taken`. -/
def divergeSites (c : Nat) (f : Fork) (group : List Nat) (taken : Bool) (moved : Option (List Path × List Fork × List Vec))
    (at_ cause : Nat) (s : State) : State :=
  if group.isEmpty then s
  else
    let h := s.homeOf c
    let may := group.filter fun n => (findSite s.casting n).any (·.straggle)
    let x := s.ctx c
    let room := s.freeContext h
    let waits := may ≠ [] ∧ room.isNone ∧ (s.ctx h).waits.length < 4
    let stays := if room.isSome ∨ waits then may else []
    let tails := group.map fun n => Tail.mk n f.last (if stays.contains n then 0 else 0x0E10)
    let s1 := s.setCtx c { x with sites := x.sites.filter (fun n => !group.contains n), tails := x.tails ++ tails }
    let pos := { f.ckpt.branch f.instr f.index taken with jump := none }
    let w : WaitGroup := ⟨may, pos, 0, f.index, x.phaseAt f.last, f.time, x.lineage, x.results.filter fun r => may.contains r.1⟩
    let s2 := match room with
      | some d =>
        if may.isEmpty then s1
        else match moved with
          | some m => detach c d w ((m.2.2.head?.map (·.gen)).orElse fun _ => m.1.head?.map (·.time)) m.1 m.2.1 m.2.2 s1
          | none => detach c d w (some f.time) [⟨pos, none, [], at_, .none, cause, f.index⟩] [] [] s1
      | none =>
        if waits then
          let y := s1.ctx h
          let t := s1.putCtx h { y with waits := y.waits ++ [w] }
          let t1 := t.each may fun u n => u.setSiteStat n 3 h
          ((t1.evt (RUN_EVT h) 6).inc (RUN_WAIT_CNT h)).logSites 0x0013 s.convoyTime
            (leBytes 1 h ++ leBytes 1 0 ++ leBytes 2 0 ++ leBytes 4 f.index) may
        else s1
    settleTails c s2

/-! Branches (R125 to R129). -/

/-- The outcome that a prediction assumes under RUN_CFG `cfg` (Table 4.2). -/
def State.guess (s : State) (c index cfg : Nat) : Bool := match cfg % 4 with
  | 0 => false
  | 1 => true
  | _ => (tabGet (fun _ => none) (s.ctx c).outcomes index).getD false

/-- A requested jump does not act on what passes to stragglers (R109). -/
def Path.noJump (p : Path) : Path := { p with pos := { p.pos with jump := none } }

/-- A compare-based branch at the end of a path's block. Where it is resolved at generation and sites disagree, the spec covers forked and
predicted branches only: the group's context generates at once from the block's end, in a bubble only where a checkpoint slot was waited
for (DESIGN CHOICE, notes/assumptions/34.md). -/
def branchAct (c n : Nat) (p : Path) (b : Block) (s : State) : State :=
  let x := s.ctx c
  let i := b.instr
  let last := p.pos.vec - 1
  let go := fun (taken : Bool) (q : Path) => { q with pos := q.pos.branch i b.index taken, block := none, halt := .none }
  let late := p.halt = .slot
  let p0 := if late then { p with time := max p.time s.nowHalf, cause := 4, causeIdx := b.index } else p
  if p.need.isEmpty ∧ s.outstanding c last = false then
    let o := s.outcome c p.pos.clr last b.cfg i
    let f : Fork := ⟨0, false, false, last, p.time, b.index, i, [], p.pos, b.cfg, false⟩
    let s1 := s.putCtx c { x with paths := x.paths.set n (go o.1 p0), outcomes := tabSet (fun _ => none) x.outcomes b.index (some o.1) }
    divergeSites c f o.2 (!o.1) none p0.time p0.cause s1
  else if x.forks.length ≥ 8 then s.putPath c n { p with halt := .slot }
  else
    let id := x.nextFork
    let depth := (p.need.filter fun e => (x.forks.any fun f => f.id == e.1 && !f.predicted)).length
    let guess := s.guess c b.index b.cfg
    let f : Fork := ⟨id, depth ≥ 2, guess, last, p.time, b.index, i, p.need, p.pos, b.cfg, false⟩
    let along := fun (taken : Bool) => { go taken p0 with need := p.need ++ [(id, taken)] }
    if depth < 2 then
      (s.putCtx c { x with paths := x.paths.set n (along false) ++ [along true], forks := x.forks ++ [f], nextFork := id + 1 }).inc (RUN_FORK_CNT c)
    else
      (s.putCtx c { x with paths := x.paths.set n (along guess), forks := x.forks ++ [f], nextFork := id + 1 }).inc (RUN_PRED_CNT c)

/-- Paths that halted for a checkpoint slot take their branch again. -/
def retrySlots (c : Nat) (s : State) : State :=
  s.each (List.range (s.ctx c).paths.length) fun t n =>
    match (t.ctx c).paths[n]? with
    | some p => match p.halt, p.block with
      | .slot, some b => branchAct c n p b t
      | _, _ => t
    | none => t

/-- A list of unresolved branches without branch `id`. -/
def dropNeed (id : Nat) (l : List (Nat × Bool)) : List (Nat × Bool) := l.filter fun e => e.1 ≠ id

/-- The oldest unresolved branch of a context, once it can be resolved. -/
def State.ripeFork (s : State) (c : Nat) : Option Fork :=
  match (s.ctx c).forks.find? fun f => f.need.isEmpty with
  | some f => if s.outstanding c f.last then none else some f
  | none => none

/-! Prefetched rows of squashed paths (R128). -/

/-- The instructions that may follow instruction `k`. -/
def PatInstr.nexts (i : PatInstr) (k : Nat) : List Nat := match i.op with
  | 0x02 => [i.arg]
  | 0x03 => [k + 1, i.arg]
  | 0x04 => [i.arg, k + 1]
  | 0x05 => []
  | 0x07 => [k + 1, i.arg]
  | 0x08 => [k + 1, i.arg]
  | 0x0A => []
  | _ => [k + 1]

/-- The fetched instructions that generation can reach from a list of indices. -/
def State.reach (s : State) (h prog : Nat) (instrs : List Nat) : Nat → List Nat → List Nat → List Nat
  | 0, _, seen => seen
  | _ + 1, [], seen => seen
  | n + 1, k :: l, seen =>
    if seen.contains k || !instrs.contains k then State.reach s h prog instrs n l seen
    else State.reach s h prog instrs n ((s.instrAt h prog k).nexts k ++ l) (k :: seen)

/-- The segments that the live paths and checkpoints of a context can still play. -/
def State.wantedSegments (s : State) (c : Nat) : List Nat :=
  let x := s.ctx c
  let h := s.homeOf c
  let ofPath := fun (p : Path) => (match p.block with
    | some b => b.index
    | none => p.pos.pc) :: p.pos.stack
  let ofFork := fun (f : Fork) => [f.index + 1, f.instr.arg] ++ f.ckpt.stack
  let from_ := x.paths.flatMap ofPath ++ x.forks.flatMap ofFork
  let l := s.reach h x.program x.instrs (3 * x.instrs.length + from_.length + 1) from_ []
  (l.map fun k => s.instrAt h x.program k).filterMap fun i => if i.stored then some i.segment else none

/-- A context gives up the prefetched rows that no path left can play, and with them its holds. -/
def dropRows (c : Nat) (s : State) : State :=
  let w := s.wantedSegments c
  s.setCtx c { s.ctx c with present := (s.ctx c).present.filter fun r => w.contains r.1 }

/-- A branch resolves (R125, R128, R129, R133, R134). -/
def resolve (c : Nat) (f : Fork) (s : State) : State :=
  let x := s.ctx c
  let o := s.outcome c f.ckpt.clr f.last f.diverge f.instr
  let on := fun (b : Bool) (l : List (Nat × Bool)) => l.contains (f.id, b)
  let clean := fun (p : Path) => { p with need := dropNeed f.id p.need }
  let cleanF := fun (g : Fork) => { g with need := dropNeed f.id g.need }
  let cleanV := fun (v : Vec) => { v with need := dropNeed f.id v.need }
  let lost := x.paths.filter fun p => on (!o.1) p.need
  let moves := !o.2.isEmpty && !f.predicted && !f.late
  let moved : Option (List Path × List Fork × List Vec) :=
    if moves then
      some (lost.map (fun p => (clean p).noJump), (x.forks.filter fun g => on (!o.1) g.need).map (fun g => { cleanF g with ckpt := { g.ckpt with jump := none } }),
        (x.vecs.filter fun v => on (!o.1) v.need).map cleanV)
    else none
  let wrong := f.predicted && f.guess ≠ o.1
  let again : List Path :=
    if wrong || f.late then
      [⟨f.ckpt.branch f.instr f.index o.1, none, [], s.nowHalf + 16, .none, if f.late then 2 else 1, f.index⟩]
    else []
  let x1 := { x with
    paths := again ++ (x.paths.filter fun p => !on (!o.1) p.need).map clean
    forks := (x.forks.filter fun g => g.id ≠ f.id && !on (!o.1) g.need).map cleanF
    vecs := (x.vecs.filter fun v => !on (!o.1) v.need).map cleanV
    outcomes := tabSet (fun _ => none) x.outcomes f.index (some o.1) }
  let s1 := (s.putCtx c x1).when wrong fun t => t.inc (RUN_MISS_CNT c)
  let s2 := if moves && (s.freeContext (s.homeOf c)).isSome && o.2.any (fun n => (findSite s.casting n).any (·.straggle)) then s1
    else s1.incBy (RUN_SQUASH_CNT c) lost.length
  let s3 := divergeSites c f o.2 (!o.1) moved (s.nowHalf + 16) 3 s2
  retrySlots c (settle c (if lost.isEmpty then s3 else dropRows c s3))

/-- Every branch that can be resolved now is, the oldest first. -/
def resolveAll (c : Nat) : Nat → State → State
  | 0, s => s
  | k + 1, s => match s.ripeFork c with
    | some f => resolveAll c k (resolve c f s)
    | none => s

/-! Control actions (R79, R81, R107, R370). -/

/-- The armed rendezvous entry that a waypoint of a caravan's own context meets (R369). -/
def State.rdvEntry (s : State) (c label : Nat) : Option Nat :=
  if (s.ctx c).straggler then none
  else (List.range 16).find? fun r => s.bit (CVY_RDV r) 15 && s.fld (CVY_RDV r) 5 0 == c && s.wide (CVY_RDV_LABEL r) 2 == label

/-- The control action of an instruction other than a compare-based branch. -/
def State.action (s : State) (c : Nat) (p : Path) (b : Block) : Path :=
  let i := b.instr
  let q := p.pos
  let go := fun (r : SeqPos) => { p with pos := r, block := none }
  let next := b.index + 1
  match i.op with
  | 0x02 => go { q with pc := i.arg }
  | 0x03 => go (q.branch i b.index (s.bit (SEQ_HFLAG (s.homeOf c)) 0))
  | 0x04 => go { q with pc := i.arg, stack := next :: q.stack }
  | 0x05 => go { q with pc := q.stack.headD 0, stack := q.stack.tail }
  | 0x06 =>
    let order := (q.loops.map (·.order)).foldl max 0 + 1
    go { q.setLoop i.loop ⟨true, i.arg, i.arg, next, q.stack.length, order, q.apg⟩ with pc := next }
  | 0x07 =>
    let l := q.loopAt i.loop
    if l.count - 1 = 0 then go { q.setLoop i.loop { l with active := false, count := 0 } with pc := next }
    else go { q.setLoop i.loop { l with count := l.count - 1 } with pc := i.arg }
  | 0x08 => go (q.branch i b.index (s.bit (SEQ_HFLAG (s.homeOf c)) 0))
  | 0x09 => match s.rdvEntry c i.arg with
    | some r =>
      let n := tabGet (fun _ => 0) q.rdv r
      { go { q with pc := next, rdv := tabSet (fun _ => 0) q.rdv r (n + 1) } with halt := .rendezvous r n }
    | none => go { q with pc := next }
  | 0x0A => { go q with halt := .ended 0x0D10 }
  | _ => go { q with pc := next }

/-- The requested jump at the end of a block: it is taken in place of the control action, deferred, or not concerned. A seam jump applies
at seams (R107), an immediate one at any ingot boundary (R108). -/
def State.jumpHere (s : State) (c : Nat) (p : Path) (b : Block) : Option Bool :=
  match p.pos.jump with
  | none => none
  | some j =>
    let d := s.segEntry (s.homeOf c) b.instr.segment
    let far := decide (p.pos.vec ≥ j.g + 128)
    if j.mode = 2 then (if far then some true else none)
    else if j.mode = 1 ∧ b.instr.stored ∧ b.row + b.done = d.length ∧ p.pos.vec > j.g then some far else none

/-- The control action of a block that is over. -/
def controlNow (c n : Nat) (s : State) : State :=
  match (s.ctx c).paths[n]? with
  | none => s
  | some p => match p.block with
    | none => s
    | some b =>
      match s.jumpHere c p b, p.pos.jump with
      | some true, some j =>
        settle c (s.putPath c n { p with pos := { p.pos with pc := j.target, jump := none, notes := p.pos.notes ++ [3] }, block := none })
      | r, j =>
        let p1 := match r, j with
          | some false, some k => if k.deferred then p else { p with pos := { p.pos with jump := some { k with deferred := true }, notes := p.pos.notes ++ [4] } }
          | _, _ => p
        if b.instr.compares then settle c (branchAct c n p1 b s) else settle c (s.putPath c n (s.action c p1 b))

/-- The ingots that a block still has to give, as far as they lie in this stage. -/
def restOfBlock (c n op : Nat) : Nat → State → State
  | 0, s => s
  | k + 1, s =>
    match (s.ctx c).paths[n]? with
    | none => s
    | some p =>
      let ours := match p.block with
        | some b => b.instr.op == op && !b.finished
        | none => (s.ctx c).instrs.contains p.pos.pc && (s.instrAt (s.homeOf c) (s.ctx c).program p.pos.pc).op == op
      let t := if ours then ingotGenerate c n s else s
      let moved := match (t.ctx c).paths[n]? with
        | some p1 => p1.pos.vec != p.pos.vec
        | none => false
      if moved then restOfBlock c n op k t else t

/-- An instruction: the rest of its block, and then its control action in the clock of the block's last vector. -/
def instrRow (op c n : Nat) (s : State) : State :=
  if s.fld (SEQ_STAT c) 2 0 ≠ 2 then s
  else
    let s1 := restOfBlock c n op 65537 s
    match (s1.ctx c).paths[n]? with
    | some p => match p.block with
      | some b =>
        if b.finished && b.instr.op == op && p.halt == .none && s1.fld (SEQ_STAT c) 2 0 == 2 then
          s1.atDue ((p.time - s1.period (s1.homeOf c) b.instr.tset) / 2) (controlNow c n)
        else s1
      | none => s1
    | none => s1

end Sys2Proof.Machine
end

