-- ==== Sys2Proof/Machine/RunAhead.lean ====
section
/-!
DEFINITION. Machine/RunAhead.lean: the pour line, waypoints and rejoins, starts and stops, sounding, and the tick's part in runs
(R103, R105, R107, R110 to R123, R130 to R138, R187, R290, R370). notes/assumptions/34.md.
-/

namespace Sys2Proof.Machine

/-! What crosses next. -/

/-- The clock in which a vector crosses (R116). -/
def State.crossClock (s : State) (c : Nat) (v : Vec) : Nat := v.gen / 2 + (s.ctx c).delay

/-! Bubbles (R117, R131, R132). -/

/-- A bubble of `len` clocks from clock `since`. -/
def bubble (c cause index since len : Nat) (s : State) : State :=
  let s1 := ((s.inc (RUN_BUB_CNT c)).addWide (RUN_BUB_CLK c) len).wrN (RUN_BUB_LAST c) (min 0xFFFF len)
  let s2 := (s1.wrN (RUN_BUB_CAUSE c) cause).evt (RUN_EVT c) 0
  let s3 := if cause = 2 then (s2.inc (RUN_LATE_CNT c)).evt (RUN_EVT c) 1 else s2
  s3.log 0x0011 (s.timeOf since) (leBytes 1 c ++ leBytes 1 cause ++ leBytes 2 0 ++ leBytes 4 index ++ leBytes 4 len)

/-- A vector is due while branch `id` on its path is unresolved: both successors are discarded. -/
def lateResult (c id : Nat) (s : State) : State :=
  let x := s.ctx c
  let has := fun (l : List (Nat × Bool)) => l.any fun e => e.1 == id
  parkCtx c (s.putCtx c { x with
    vecs := x.vecs.filter fun v => !has v.need
    paths := x.paths.filter fun p => !has p.need
    forks := (x.forks.filter fun f => !has f.need).map fun f => if f.id = id then { f with late := true } else f })

/-! Side effects at the pour line (R130). -/

/-- A notification (R339). -/
def notify (c code index : Nat) (s : State) : State :=
  let n : Cpl := ⟨2, 0, 0, c, code, 0, 0, index, s.convoyTime, false⟩
  let isNote := fun (x : Cpl) => x.kind == 2
  if (s.host.waiting.filter isNote).length < 4096 then { s with host := { s.host with waiting := s.host.waiting ++ [n] } }
  else
    let rest := s.host.waiting.eraseP isNote
    (({ s with host := { s.host with waiting := rest ++ [n], afterLoss := true } }).inc HST_CPL_LOST).evt HST_EVT 4

/-- A TRIGGER block's first vector crosses (Table 3.2, R367). -/
def triggerRelease (c : Nat) (v : Vec) (s : State) : State :=
  let code := v.instr.arg % 256
  let s1 := s.busRaise code (if v.straggler then none else some c)
  let s2 := if v.instr.arg.testBit 8 then s1.flood 3 s.convoyTime (leBytes 1 code ++ leBytes 1 c ++ leBytes 6 0) else s1
  if v.instr.arg.testBit 9 then notify c code v.index s2 else s2

/-- The caravan's arrivals at a label in its run. -/
def State.arrivalsAt (s : State) (c label : Nat) : Nat :=
  ((s.cvy.counts.find? fun e => e.1 == c && e.2.1 == label).map (·.2.2)).getD 0

/-- A rendezvous waypoint's first vector crosses: the arrival and its frame (R370). -/
def rdvArrive (c label : Nat) (s : State) : State :=
  match s.rdvEntry c label with
  | none => s
  | some r =>
    let n := s.arrivalsAt c label
    let counts := (c, label, n + 1) :: s.cvy.counts.filter fun e => !(e.1 == c && e.2.1 == label)
    let here : Arrival := ⟨label, s.position, n, s.convoyTime⟩
    let s1 : State := { s with cvy := { s.cvy with counts := counts, arrivals := s.cvy.arrivals ++ [here] } }
    let s2 := s1.setCtx c { s1.ctx c with rdv := some ⟨r, n, label, s.time.up⟩ }
    s2.flood 4 s.convoyTime (leBytes 4 label ++ leBytes 1 c ++ leBytes 1 0 ++ leBytes 2 n)

/-! Waypoints and rejoins (R45, R137, R138). -/

/-- The sites that wait at label `label` join their caravan again. -/
def rejoin (h label : Nat) (s : State) : State :=
  let x := s.ctx h
  let now := x.rejoins.filter fun r => r.label == label
  if now.isEmpty then s
  else
    let sites := now.map Rejoin.site
    let s1 := s.putCtx h { x with
      rejoins := x.rejoins.filter (fun r => r.label ≠ label), sites := sortBy (· ≤ ·) (x.sites ++ sites)
      results := x.results.filter fun r => !sites.contains r.1 }
    let s2 := s1.each sites fun t n => (t.setSiteStat n 1 h).setWide (RUN_SITE_LBL n) 2 label
    let s3 := s2.each (now.map Rejoin.context).eraseDups fun t d =>
      let group := (now.filter fun r => r.context == d).map Rejoin.site
      let t1 := t.logSites 0x0014 s.convoyTime (leBytes 1 h ++ leBytes 1 d ++ leBytes 2 0 ++ leBytes 4 label) group
      let y := t1.ctx d
      freeIfDone d (t1.setCtx d { y with sites := y.sites.filter fun n => !group.contains n })
    s3.evt (RUN_EVT h) 5

/-- The run of its caravan that a straggler belongs to goes on. -/
def State.homeRuns (s : State) (x : Ctx) : Bool := s.ctxActive x.home && (s.ctx x.home).lineage.getLast? == x.lineage.getLast?

/-- The end of a WAYPOINT block crosses the pour line. A straggler whose caravan's run has ended, be it that another has begun since,
has missed its rejoin. -/
def waypointEnd (c label : Nat) (s : State) : State :=
  let x := s.ctx c
  if !x.straggler then
    let s1 := rejoin c label s
    s1.setCtx c { s1.ctx c with passed := some (label, s.time.up) }
  else if !s.homeRuns x then sitesLeave c 0x0E13 (s.putCtx c { x with vecs := [], paths := [], forks := [] })
  else
    let h := x.home
    let s1 := s.putCtx c { x with vecs := [], paths := [], forks := [], expect := none, code := none }
    let y := s1.ctx h
    let s2 := s1.setCtx h { y with rejoins := y.rejoins ++ x.sites.map fun n => ⟨n, label, c⟩ }
    let s3 := s2.each x.sites fun t n => parkSite ((t.setSiteStat n 4 c).setWide (RUN_SITE_LBL n) 2 label) n
    if y.passed == some (label, s.time.up) then rejoin h label s3 else commonsFollow h s3

/-! A vector crosses (R112, R116, R172, R187, R290). -/

/-- The sites whose context is `c` for an ingot boundary: those it serves, those that take its vectors a little longer, and, for the
caravan itself, those that wait. -/
def Ctx.boundarySites (x : Ctx) : List Nat := x.sites ++ x.tails.map Tail.site ++ x.waits.flatMap WaitGroup.sites

/-- Sites with a decided abort, or that a trip has reached, leave at an ingot boundary that crosses. -/
def boundaryLeave (c : Nat) (s : State) : State :=
  s.each (s.ctx c).boundarySites.eraseDups fun t n =>
    if !t.siteServed n then t
    else if (t.site n).abort.any fun a => a.2 < t.time.up then siteLeave c 0x0F01 t n
    else if (t.site n).tripped then siteLeave c 0x1310 t n
    else t

/-- The vector reaches the pins of the sites and the common pins that it applies to; common pins keep park while every enabled site
does (R45). -/
def applyPins (c : Nat) (v : Vec) (sites : List Nat) (s : State) : State :=
  let x := s.ctx c
  let held := sites.isEmpty && s.allHeld c
  let pins := s.casting.pins.filter fun p => if p.common then !x.straggler && p.owner == c && !held else sites.contains p.owner
  pins.foldl (fun t p => match v.syms.find? fun e => e.1 == p.channel with
    | some e => t.applyVector p.channel p.role v.instr.tset v.slots (v.gen % 2 == 1) e.2
    | none => t) s

/-- What the vector strobes on the pins of a site. -/
def State.siteStrobes (s : State) (v : Vec) (n : Nat) : List Strobe :=
  ((pinsOfSite s.casting n).zipIdx).filterMap fun e => match v.syms.find? fun y => y.1 == e.1.channel with
    | some y => s.strobe n e.2 e.1.channel e.1.role v.instr.tset v.slots y.2
        ((v.dbits.find? fun d => d.1 == e.1.channel).map (·.2))
    | none => none

/-- The registers that report the last vector that crossed (R114). -/
def showVec (c : Nat) (v : Vec) (s : State) : State :=
  let s1 := (s.setWide (SEQ_PC c) 2 v.index).setFld (SEQ_STAT c) 6 3 v.depth
  let s2 := (v.loops.zipIdx).foldl (fun t e => t.setWide (SEQ_LOOP c e.2) 2 e.1) s1
  let s3 := ((s2.setWide (SEQ_GEN_X c) 2 v.apg.x).wrN (SEQ_GEN_Y c) v.apg.y).wrN (SEQ_GEN_Z c) (v.apg.z + 64 * v.apg.dinv.toNat)
  let s4 := if v.clash then s3.inc (SEQ_RDCLASH_CNT c) else s3
  if v.row = 1 then s4.inc (SEQ_LC_HIT c) else if v.row = 2 then s4.inc (SEQ_LC_MISS c) else s4

/-- A caravan without a site in its run ends it at an ingot boundary; one that generates nothing stands at one (R112). -/
def emptyEnd (h : Nat) (s : State) : State :=
  let x := s.ctx h
  if s.ctxActive h && !x.straggler && !s.anySite h && x.paths.all (fun p => p.halt ≠ .none) then endRun h 0x0D19 s else s

/-- Committed vector time goes on with a vector of `slots` slots that crosses at half clock `t`; `origin` tells that it is the first of a
run (R208). Runs that ended more than 66 clocks ago are dropped. -/
def phaseStep (l : List PhaseRun) (t slots : Nat) (origin : Bool) : List PhaseRun :=
  let rest := l.filter fun r => t ≤ r.start + r.period * r.count + 132
  match l, origin with
  | r :: _, false =>
    if r.period = slots ∧ r.start + r.period * r.count = t then { r with count := r.count + 1 } :: rest.tail
    else ⟨t, r.base + r.period * r.count, slots, 1⟩ :: rest
  | _, _ => ⟨t, 0, slots, 1⟩ :: rest

/-- A vector with no unresolved branch before it crosses the pour line. -/
def crossVec (c : Nat) (v : Vec) (s : State) : State :=
  let s0 := if v.pos % 64 = 0 then boundaryLeave c s else s
  if !(s0.ctx c).vecs.contains v then s0
  else
    let x := s0.ctx c
    let h := s0.homeOf c
    let due := x.expect.getD v.gen
    let gap := due < v.gen
    let s1 := if gap then parkCtx c s0 else s0
    let s2 := if gap ∧ v.cause ≠ 0 then bubble c v.cause v.causeIdx (due / 2 + x.delay) (v.gen / 2 - due / 2) s1 else s1
    let sites := sortBy (· ≤ ·) (x.sites ++ (x.tails.filter fun t => v.pos ≤ t.last).map Tail.site)
    let w := { v with
      cross := s.time.up, straggler := x.straggler, applied := sites.map fun n => (n, (s2.site n).vecs)
      stream := x.lineage.headD (c, 0), run := x.lineage.getLast?.getD (c, 0), strobes := sites.flatMap fun n => s2.siteStrobes v n }
    let s3 := applyPins c v sites s2
    let y := s3.ctx c
    let s4 := s3.setCtx c { y with
      vecs := y.vecs.erase v, expect := some (v.gen + v.slots), crossed := s.time.up
      phases := phaseStep y.phases (v.gen + 2 * y.delay) v.slots (v.pos = 0 && !y.straggler), lastIndex := v.index
      lastTset := v.instr.tset }
    let s4a := s4.setCtx h { s4.ctx h with await := (s4.ctx h).await ++ [.vec w none] }
    let s5 := s4a.each sites fun t n =>
      let z := t.site n
      abortCheck n (t.setSite n { z with
        vecs := z.vecs + 1, runFails := if z.vecs = 0 then 0 else z.runFails, lastIndex := v.index, lastTset := v.instr.tset })
    let s6 := showVec c v s5
    let s7 := if v.first && v.instr.op == 0x0B then triggerRelease c w s6
      else if v.first && v.instr.op == 0x09 then rdvArrive c v.instr.arg s6 else s6
    let s8 := if v.last && v.instr.op == 0x09 then waypointEnd c v.instr.arg s7 else s7
    finishRun c (drainAwait h (settleTails c s8))

/-- The next vector of a context is due at the pour line. -/
def crossNow (c : Nat) (s : State) : State :=
  match s.nextVec c with
  | none => s
  | some v => match v.need with
    | [] => crossVec c v s
    | e :: _ => lateResult c e.1 s

/-- The clock in which a gap begins at the pour line: the next vector was due there, and none crosses (R116). -/
def State.gapClock (s : State) (c : Nat) : Option Nat :=
  let x := s.ctx c
  x.expect.bind fun e => if s.ctxActive c && (s.nextVec c).all (fun v => e < v.gen) then some (e / 2 + x.delay) else none

/-- POUR_LINE_CROSSING: the next vector crosses in its clock. From the clock in which no vector is due the context's pins hold park. -/
def pourLine (c : Nat) (s : State) : State :=
  let s1 := match s.gapClock c with
    | some g => s.atDue g (parkCtx c)
    | none => s
  match s1.nextVec c with
  | some v => s1.atDue (s1.crossClock c v) (crossNow c)
  | none => s1

/-- Contexts in a gap hold park, at a tick. -/
def State.gapsPark (s : State) : State :=
  s.each (s.ctxs.map Prod.fst) fun t c => match t.gapClock c with
    | some g => if g < t.time.up then parkCtx c t else t
    | none => t

/-- What is left of an ended run crosses before a new run begins. -/
def flushOld (c : Nat) : Nat → State → State
  | 0, s => s
  | k + 1, s => if (s.ctx c).vecs.isEmpty then s else flushOld c k (crossNow c s)

/-- The context whose ingot boundaries are a site's: the one whose vectors it takes. -/
def State.boundaryCtx (s : State) (n : Nat) : Nat :=
  ((s.ctxs.find? fun e => e.2.tails.any (·.site == n)).map (·.1)).getD (s.ctxOfSite n)

/-- EARLY_ABORT and SITE_TRIPPED: the context of a site is at an ingot boundary that crosses. -/
def leaveAtBoundary (n code : Nat) (due : State → Bool) (s : State) : State :=
  let c := s.boundaryCtx n
  match s.nextVec c with
  | some v =>
    if s.siteServed n && v.need.isEmpty && v.pos % 64 == 0 then
      s.atDue (s.crossClock c v) fun t => if due t then siteLeave c code t n else t
    else s
  | none => s

/-! Starting (R110, R111, R118, R123). -/

/-- The stacks of a caravan's pattern and fail partitions. -/
def caravanStacks (k : Casting) (h : Nat) : List Nat :=
  match findCaravan k h with
  | none => []
  | some c => ([c.patPart, c.failPart].filterMap (findStore k)).flatMap StoreRec.stackList

/-- A stack is cast out or not yet restored. -/
def State.stackOut (s : State) (q : Nat) : Bool := s.nv.stacksOut.testBit q

/-- The commit delay in force for the next start (Table 4.6). -/
def State.commitDelay (s : State) (c : Nat) : Nat := max 256 (min 2048 (s.fld (RUN_CD c) 11 0))

/-- The program entry and start index of a caravan are valid (R110). -/
def State.programOk (s : State) (c : Nat) : Bool :=
  let d := s.segEntry c (s.rdN (SEQ_PROG c))
  d.kind == 5 && s.wide (SEQ_ENTRY c) 2 < d.length

/-- The first condition that refuses a caravan start, in the order of R111. -/
def State.startCode (s : State) (c : Nat) : Option Nat :=
  let k := s.casting
  let pins := pinsOfCaravan k c
  if (findCaravan k c).isNone then some 0x0D01
  else if s.cast.load.isSome then some 0x0C77
  else if s.cast.recast.any fun j => j.target == some c then some 0x0C78
  else if !(sitesOfCaravan k c).any s.enabled then some 0x0D02
  else if s.ctxActive c then some 0x0D03
  else if !s.programOk c then some 0x0D04
  else if s.fld (RUN_SND_STAT c) 1 0 = 1 then some 0x0E03
  else if !s.bit (RUN_CD_MIN c) 15 then some 0x0E01
  else if s.commitDelay c < s.fld (RUN_CD_MIN c) 11 0 then some 0x0E02
  else if s.fw.isSome then some 0x1806
  else if s.fld CVY_STAT 9 8 = 1 then some 0x1601
  else if pins.any fun p => s.isolated (p.channel / 128) then some 0x1421
  else if (caravanStacks k c).any s.stackOut then some 0x1431
  else s.thermalCode (pins.map fun p => zoneOf p.channel)

/-- A run begins (R110, R118). -/
def startRun (c : Nat) (s : State) : State :=
  let s0 := finishRun c (flushOld c (s.ctx c).vecs.length s)
  let pc := s0.wide (SEQ_ENTRY c) 2
  let sites := sortBy (· ≤ ·) ((sitesOfCaravan s0.casting c).filter s0.enabled)
  let old := s0.ctx c
  let prog := s0.rdN (SEQ_PROG c)
  let first : Path := ⟨SeqPos.first pc, none, [], s0.nowHalf, .none, 0, 0⟩
  let tset := (s0.instrAt c prog pc).tset
  let x : Ctx := { Ctx.init with
    home := c, lineage := [(c, s0.time.up)], sites := sites, delay := s0.commitDelay c, program := prog, start := pc, paths := [first]
    await := old.await ++ sites.map .start, phases := old.phases, tables := old.tables, expect := some s0.nowHalf, crossed := s0.time.up
    lastIndex := pc, lastTset := tset }
  let s1 := (((s0.putCtx c x).wrN (SEQ_STAT c) 2).wrN (RUN_HOME c) 0).setWide (RUN_BUB_CLK c) 2 0
  let s2 := s1.each sites fun t n =>
    ((t.setSiteStat n 1 c).wrN (RUN_SITE_CODE n) 0).setSite n { t.site n with vecs := 0, abort := none, tripped := false, lastIndex := pc, lastTset := tset }
  drainAwait c { s2 with cvy := { s2.cvy with
    counts := s2.cvy.counts.filter fun e => e.1 ≠ c
    arrivals := s2.cvy.arrivals.filter fun a => !(a.src == s.position && (List.range 16).any fun r =>
      s.fld (CVY_RDV r) 5 0 == c && s.wide (CVY_RDV_LABEL r) 2 == a.label) } }

/-- SEQ_CTL.START at its tick. -/
def seqStart (c : Nat) (s : State) : State :=
  if c ≥ 64 then s
  else match s.startCode c with
    | some code => ((s.wrN (SEQ_CODE c) code).evt (SEQ_EVT c) 0).refuse (SEQ_CTL c) code
    | none => startRun c s

/-! Stopping, resuming and restarting (R103, R112). -/

/-- The generation point of a path at the present clock: the position of the first vector that it has not generated before this clock.
`need` are the path's unresolved branches, and `vec` is the position after its last ingot. -/
def State.genPoint (s : State) (c : Nat) (need : List (Nat × Bool)) (vec : Nat) : Nat :=
  vec - ((s.ctx c).vecs.filter fun v => v.pos < vec && s.nowHalf ≤ v.gen && v.need.all need.contains).length

/-- A stop takes effect on one context: a path that generates stops 128 vectors on, a halted one at once. -/
def stopCtx (c : Nat) (s : State) : State :=
  if !s.ctxActive c then s
  else
    let x := s.ctx c
    let mark := fun (need : List (Nat × Bool)) (q : SeqPos) => { q with stop := some (s.genPoint c need q.vec) }
    let halted := x.paths.any fun p => p.need.isEmpty && p.halt ≠ .none
    if halted then endRun c 0x0D11 s
    else s.setCtx c { x with
      paths := x.paths.map (fun p => { p with pos := mark p.need p.pos }), forks := x.forks.map fun f => { f with ckpt := mark f.need f.ckpt } }

/-- SEQ_CTL.STOP at its tick: the caravan, its stragglers, which may have outlived its run, and its waiting groups. -/
def seqStop (c : Nat) (s : State) : State :=
  if c ≥ 64 ∨ (findCaravan s.casting c).isNone then s
  else
    let x := s.ctx c
    let s1 := if s.ctxActive c then x.waits.foldl (waitEnd c 0x0D11) (s.putCtx c { x with waits := [] }) else s
    stopCtx c (s1.each (s1.stragglersOf c) fun t d => stopCtx d t)

/-- The committed path of a stalled context goes on from `p`. -/
def unstall (c n : Nat) (p : Path) (s : State) : State :=
  let s1 := (stallEnd c s).putPath c n { p with halt := .none, time := s.nowHalf }
  s1.setFld (SEQ_STAT c) 2 0 2

/-- A resumed stall goes on once its data is present, and not while the yard restarts (Table 11.5). -/
def tryResume (c : Nat) (s : State) : State :=
  let x := s.ctx c
  if s.yardDown then s else
  match (x.paths.zipIdx).find? fun e => e.1.need.isEmpty with
  | some (p, n) =>
    if x.resume && s.fld (SEQ_STAT c) 2 0 == 3 then
      let there := match p.block with
        | some b => (s.ingotCause c b).isNone
        | none => match (s.openBlock c { p with halt := .none }).halt with
          | .data _ => false
          | _ => true
      if there then unstall c n p s else s
    else s
  | none => s

/-- A refusal of RESUME or RESTART_LOOP. -/
def seqRefuse (c code : Nat) (s : State) : State := (s.wrN (SEQ_CODE c) code).refuse (SEQ_CTL c) code

/-- SEQ_CTL.RESUME at its tick. -/
def seqResume (c : Nat) (s : State) : State :=
  if c ≥ 64 then s
  else if s.fld (SEQ_STAT c) 2 0 ≠ 3 then seqRefuse c 0x0D05 s
  else tryResume c (s.setCtx c { s.ctx c with resume := true })

/-- The innermost active loop: the active counter that was loaded most recently (R81). -/
def SeqPos.innermost (q : SeqPos) : Option Nat :=
  let best := ((q.loops.filter (·.active)).map (·.order)).foldl max 0
  (List.range 16).find? fun k => (q.loopAt k).active && (q.loopAt k).order == best

/-- SEQ_CTL.RESTART_LOOP at its tick. While the yard restarts it is not accepted (Table 11.5), and nothing is kept of it (DESIGN CHOICE,
log entry 30). -/
def seqRestart (c : Nat) (s : State) : State :=
  if c ≥ 64 || s.yardDown then s
  else if s.fld (SEQ_STAT c) 2 0 ≠ 3 then seqRefuse c 0x0D05 s
  else match ((s.ctx c).paths.zipIdx).find? fun e => e.1.need.isEmpty with
    | none => s
    | some (p, n) => match p.pos.innermost with
      | none => seqRefuse c 0x0D06 s
      | some k =>
        let q := p.pos
        let l := q.loopAt k
        let q1 := { q.setLoop k { l with count := l.loaded } with
          pc := l.head, apg := l.apg, stack := q.stack.drop (q.stack.length - l.depth) }
        unstall c n { p with pos := q1, block := none } s

/-- A requested jump latches at a path's generation point `g`; `past` tells that the control action of its last block has been taken. A
seam between `g` and that block's end is deferred (R107). -/
def SeqPos.latchJump (q : SeqPos) (mode target g : Nat) (past : Bool) : SeqPos :=
  let passed := mode = 1 && past && q.seam > g
  { q with jump := some ⟨mode, target, g, passed⟩, notes := if passed then q.notes ++ [4] else q.notes }

/-- A requested jump latches at the tick at which SEQ_JMODE takes effect (R107 to R109). SEQ_JMODE written 0 or 3 requests nothing, and
a request that is pending then stands: DESIGN CHOICE, the spec gives no cancelling. notes/assumptions/33.md. -/
def jumpLatch (c : Nat) (s : State) : State :=
  let mode := s.fld (SEQ_JMODE c) 1 0
  if c ≥ 64 ∨ (mode ≠ 1 ∧ mode ≠ 2) ∨ !s.ctxActive c ∨ (s.ctx c).straggler then s
  else
    let x := s.ctx c
    let latch := fun (need : List (Nat × Bool)) (past : Bool) (q : SeqPos) =>
      q.latchJump mode (s.wide (SEQ_JTGT c) 2) (s.genPoint c need q.vec) past
    let s1 := if s.bit (SEQ_JSTAT c) 0 then s.evt (SEQ_EVT c) 6 else s
    settle c ((s1.wrN (SEQ_JSTAT c) 1).setCtx c { x with
      paths := x.paths.map (fun p => { p with pos := latch p.need p.block.isNone p.pos })
      forks := x.forks.map fun f => { f with ckpt := latch f.need true f.ckpt } })

/-! Prefetch and streaming (R99, R101, R105, R349). -/

/-- The prefetch depth in ingot rows (Table 3.10). -/
def State.prefetchDepth (s : State) (h : Nat) : Nat := max 8 (min 128 (s.fld (SEQ_MODE h) 15 8))

/-- An instruction or an ingot row arrives in the prefetch buffer, checked. -/
def prefetchArrival (c e k : Nat) (s : State) : State :=
  let h := s.homeOf c
  let x := s.ctx c
  let d := s.segEntry h e
  if !s.ctxActive c || s.entryLocked (s.partOf h) e then s
  else if e = x.program ∧ d.kind = 5 then
    (if k < d.length ∧ !x.instrs.contains k then tryResume c (s.setCtx c { x with instrs := x.instrs ++ [k] }) else s)
  else if s.segValid h d && !d.isStream && k < d.length && x.present.length < s.prefetchDepth h * max 1 x.paths.length then
    tryResume c (s.setCtx c { x with present := x.present ++ [(e, k)] })
  else s

/-- The stream segment that the committed path plays, or plays next. R127 lets a path of depth 0 fetch, and a path beyond a prediction
has depth 0 too, while its rows may yet be squashed; the model fetches for a path only once no branch on it is unresolved (DESIGN CHOICE,
notes/assumptions/34.md). -/
def State.streamEntry (s : State) (c : Nat) : Option Nat :=
  let x := s.ctx c
  let h := s.homeOf c
  (x.paths.find? fun p => p.need.isEmpty).bind fun p =>
    let i := match p.block with
      | some b => b.instr
      | none => if x.instrs.contains p.pos.pc then s.instrAt h x.program p.pos.pc else patInstr []
    if i.stored && (s.segEntry h i.segment).isStream then some i.segment else none

/-- Row `n` of stream segment `e` reaches a context whose next row it is. -/
def rowArrives (e n : Nat) (data : List Byte) (s : State) (k : Nat) : State :=
  let y := s.ctx k
  if s.ctxActive k && tabGet (fun _ => 0) y.fetched e == n then
    tryResume k (s.setCtx k { y with
      rows := tabSet (fun _ => []) y.rows (rowKey e n) data, fetched := tabSet (fun _ => 0) y.fetched e (n + 1) })
  else s

/-- A stream row is fetched from the host's ring and checked, once for the caravan and its stragglers; the consumer index follows. -/
def streamFetch (c prod : Nat) (data : List Byte) (s : State) : State :=
  let h := s.homeOf c
  let x := s.ctx c
  match s.streamEntry c with
  | none => s
  | some e =>
    let d := s.segEntry h e
    let n := tabGet (fun _ => 0) x.fetched e
    if s.ctxActive c && s.segValid h d && !s.entryLocked (s.partOf h) e && n < prod && n < d.length && data.length == d.rowBytes
        && s.bit HST_STAT 15 && x.rows.length < s.prefetchDepth h then
      (s.each (h :: s.stragglersOf h) (rowArrives e n data)).hostWrite d.consAddr (leBytes 8 (n + 1))
    else s

/-! Table loading (R91). -/

/-- A write of SEQ_TDATA1 stores a shadow entry. -/
def tableWrite (c v : Nat) (s : State) : State :=
  let t := s.fld (SEQ_TSEL c) 15 12
  let i := s.fld (SEQ_TSEL c) 11 0
  if c ≥ 64 ∨ t > 4 ∨ i ≥ tableSize t then s
  else
    let x := s.ctx c
    let entry := if t = 4 then v % 65536 else s.rdN (SEQ_TDATA c) + 65536 * (v % 65536)
    (s.setCtx c { x with tables := { x.tables with shadow := tableStore x.tables.shadow t i entry } }).setFld (SEQ_TSEL c) 11 0 (i + 1)

/-- The shadow of table `t` of a caravan has the CRC that SEQ_TCRC gives (R91). -/
def State.tableChecked (s : State) (c t : Nat) : Bool := tableCrc (s.ctx c).tables.shadow t == s.wide (SEQ_TCRC c) 2

/-- A SEQ_TSWAP request: each table whose shadow has the expected CRC becomes a class 2 item. -/
def tableSwap (c mask : Nat) (s : State) : State :=
  if c ≥ 64 then s
  else s.each ((List.range 5).filter mask.testBit) fun u t =>
    if u.tableChecked c t then (u.setBit (SEQ_TSTAT c) t true).arrive 2 c (yardCost 2) (.seqSwap c t)
    else u.evt (SEQ_TSTAT c) 5

/-- A table swap at its tick: the generator uses the table admitted from the next ingot boundary. The shadow keeps what it holds: DESIGN
CHOICE, the spec does not say what a swap leaves there. notes/assumptions/33.md. -/
def tableInstall (c t : Nat) (s : State) : State :=
  let x := (s.ctx c).tables
  s.setCtx c { s.ctx c with tables := { x with active := (fiveTables x.active).set t ((fiveTables x.ready).getD t []) } }

/-! Sounding (R119 to R122). -/

/-- The SOUND records of a caravan. -/
def soundsOf (k : Casting) (c : Nat) : List SoundRec := k.sounds.filter fun r => r.caravan == c

/-- A channel that a SOUND record names is enabled: its site, or some site of its caravan for a common pin. -/
def State.soundPinOn (s : State) (ch : Nat) : Bool := match findPin s.casting ch with
  | none => false
  | some p => if p.common then (sitesOfCaravan s.casting p.owner).any s.enabled else s.enabled p.owner

/-- Every channel of a caravan's SOUND records is enabled. -/
def State.soundReady (s : State) (c : Nat) : Bool :=
  (soundsOf s.casting c).all fun r => s.soundPinOn r.drive && s.soundPinOn r.recv

/-- A SOUND entry of the run log. -/
def soundLog (c result code minimum rec_ : Nat) (s : State) : State :=
  s.log 0x0010 s.convoyTime (leBytes 1 c ++ leBytes 1 result ++ leBytes 2 code ++ leBytes 2 (s.rdN (RUN_SND_RT c)) ++ leBytes 2 minimum ++ leBytes 1 rec_)

/-- The pins that a sounding used return to park. -/
def soundPark (c : Nat) (s : State) : State :=
  ((soundsOf s.casting c).flatMap fun r => [r.drive, r.recv]).foldl (fun t ch => match findPin t.casting ch with
    | some p => t.applyPark ch p.park
    | none => t) s

/-- Vector `k` of a sounding sequence, as the symbols of DRIVE_CH and RECV_CH (R120), 0x10 for the drive-and-strobe of reflection, which
no symbol code selects. Each has a period of 2 slots, E0 and E1 at offset 0 and E4 at offset 1 slot, so vectors are one clock apart. -/
def soundSyms (r : SoundRec) (k : Nat) : List (Nat × Nat) :=
  if k < 64 then [(r.drive, 0)]
  else if r.method = 0 then [(r.drive, 0x10)]
  else [(r.drive, 1), (r.recv, 5)]

/-- The pins take the symbols of the sounding sequence in the present clock: D0 or D1 drives, and a strobing receiver releases. -/
def soundDrive (c : Nat) (s : State) : State :=
  match (s.ctx c).sound with
  | none => s
  | some q => match (soundsOf s.casting c)[q.rec_]? with
    | none => s
    | some r => (soundSyms r (s.time.up - q.since)).foldl (fun t e => t.holdSymbol e.1 (if e.2 = 0x10 then 1 else e.2)) s

/-- A context's sounding changes. -/
def State.setSound (s : State) (c : Nat) (q : Option Sounding) : State := s.setCtx c { s.ctx c with sound := q }

/-- A sounding fails (R121). -/
def soundFail (c code rec_ : Nat) (s0 : State) : State :=
  let s := s0.setSound c none
  let s1 := (((s.setFld (RUN_SND_STAT c) 1 0 3).setFld (RUN_SND_STAT c) 15 8 rec_).wrN (RUN_SND_CODE c) code).setBit (RUN_CD_MIN c) 15 false
  soundLog c 1 code 0 rec_ (soundPark c (s1.evt (RUN_EVT c) 3))

/-- A sounding begins with the first sequence of its first record, whose vectors cross from this clock on: DESIGN CHOICE, the spec gives
the generation path of a sounding no delay. notes/assumptions/34.md. -/
def soundBegin (c : Nat) (s : State) : State :=
  let s1 := (s.setBit (RUN_CD_MIN c) 15 false).setFld (RUN_SND_STAT c) 1 0 1
  soundDrive c ((s1.setSound c (some ⟨0, 0, s.time.up, []⟩)).touchdownBegins)

/-- RUN_SND_CTL.GO (R119). GO for a context that no casting defines is refused too: DESIGN CHOICE, the spec does not name it.
notes/assumptions/34.md. -/
def soundGo (c : Nat) (s : State) : State :=
  if c ≥ 64 then s
  else if (findCaravan s.casting c).isNone || s.ctxActive c || s.fld (RUN_SND_STAT c) 1 0 == 1 || !s.soundReady c then
    (s.wrN (RUN_SND_CODE c) 0x0E0B).refuse (RUN_SND_CTL c) 0x0E0B
  else soundBegin c s

/-- RUN_SND_CTL.ABORT (R121). No record fails, and FAIL_REC takes 0: DESIGN CHOICE. notes/assumptions/34.md. -/
def soundAbort (c : Nat) (s : State) : State :=
  if c < 64 ∧ s.fld (RUN_SND_STAT c) 1 0 = 1 then soundFail c 0x0E0A 0 s else s

/-- Every sequence of a sounding has produced a result (R121). -/
def soundEnds (c : Nat) (best : List (Nat × Nat)) (s0 : State) : State :=
  let s := s0.setSound c none
  let minimum := max 256 ((best.map fun e => e.1 + e.2).foldl max 0)
  let s1 := s.wrN (RUN_SND_RT c) ((best.map (·.1)).foldl max 0)
  if minimum > 2048 then soundFail c 0x0E09 ((best.findIdx? fun e => e.1 + e.2 > 2048).getD 0) s1
  else
    let s2 := ((s1.wrN (RUN_CD_MIN c) (0x8000 + minimum)).setFld (RUN_SND_STAT c) 1 0 2).evt (RUN_EVT c) 2
    soundLog c 0 0 minimum 0 (soundPark c s2)

/-- The sequence after the one under way, which gave the round trip `trip`; none after the last. -/
def Sounding.next (q : Sounding) (recs : List SoundRec) (trip : Nat) : Option Sounding :=
  recs[q.rec_]?.bind fun r =>
    let best := if q.rep = 0 then q.best ++ [(trip, r.margin)] else q.best.set q.rec_ (max trip (q.best.getD q.rec_ (0, 0)).1, r.margin)
    if q.rep + 1 < r.repeats then some ⟨q.rec_, q.rep + 1, q.since + 64 + trip, best⟩
    else some ⟨q.rec_ + 1, 0, q.since + 64 + trip, best⟩

/-- The next sequence of a sounding gives the result `trip`: the round trip of its first strobe that passes, unless none passes within
4,096 clocks of the first D1 vector (R120). -/
def soundResult (c : Nat) (s : State) (trip : Nat) : State :=
  match (s.ctx c).sound with
  | none => s
  | some q =>
    if trip > 4096 then soundFail c 0x0E08 q.rec_ s
    else match q.next (soundsOf s.casting c) trip with
    | none => s
    | some n =>
      if n.rec_ ≥ (soundsOf s.casting c).length then soundEnds c n.best s
      else soundDrive c ((soundPark c s).setSound c (some n))

/-- The clock in which the results `trips` of the next sequences are in: 64 vectors of D0 come before each first D1. -/
def soundDue (q : Sounding) (trips : List Nat) : Nat := q.since + (trips.map fun t => 64 + min t 4096).foldl (· + ·) 0

/-- The results of the next sequences of a sounding come, in order of records and repeats. -/
def soundDone (c : Nat) (trips : List Nat) (s : State) : State :=
  match (s.ctx c).sound with
  | none => s
  | some q => if c ≥ 64 then s else s.atDue (soundDue q trips) fun t => trips.foldl (soundResult c) t

/-- A sounding's strobe of record `r` never passes (R120): every earlier record has given its results, and 4,096 clocks have passed
since the first D1 vector of a sequence of `r` crossed. -/
def soundNoEcho (c r : Nat) (s : State) : State :=
  match (s.ctx c).sound with
  | none => s
  | some q => if c < 64 ∧ q.rec_ = r then s.atDue (q.since + 64 + 4096) (soundFail c 0x0E08 r) else s

/-- A caravan's sounding result stops being valid (R122). -/
def soundInvalid (c : Nat) (s : State) : State :=
  let s1 := s.setBit (RUN_CD_MIN c) 15 false
  if s.fld (RUN_SND_STAT c) 1 0 = 1 then s1 else s1.setFld (RUN_SND_STAT c) 1 0 0

/-- The SOUND plan of a caravan is replaced: no result is kept, and a sounding of the old plan ends (R73, R122). -/
def soundReplaced (c : Nat) (s : State) : State :=
  ((s.setBit (RUN_CD_MIN c) 15 false).setFld (RUN_SND_STAT c) 1 0 0).setSound c none

/-! The tick's part (R119, R135, R187, R188). -/

/-- The pins of every sounding show its sequence as of the clock of a tick. -/
def State.soundsDrive (s : State) : State := s.each (s.ctxs.map Prod.fst) fun t c => soundDrive c t

/-- Caravans that are due for it are sounded at a tick. A caravan whose sounding failed waits for RUN_SND_CTL.GO. -/
def State.autoSound (s : State) : State :=
  if !s.touch then s
  else s.each (s.casting.caravans.map (·.caravan)) fun t c =>
    if !t.ctxActive c && !t.bit (RUN_CD_MIN c) 15 && t.fld (RUN_SND_STAT c) 1 0 == 0 && t.soundReady c
        && !(soundsOf t.casting c).isEmpty then soundBegin c t else t

/-- A waiting group leaves its wait for context `d`: it generates from its checkpoint, in a bubble since the branch point (R131). -/
def waitDetach (h d : Nat) (w : WaitGroup) (s : State) : State :=
  let x := s.ctx h
  let s1 := waitEnds h w w.sites (s.putCtx h { x with waits := x.waits.erase w })
  detach h d w (some w.due) [⟨w.ckpt, none, [], s.nowHalf, .none, 3, w.index⟩] [] [] s1

/-- A wait has reached its limit. -/
def State.waitOver (s : State) (h : Nat) (w : WaitGroup) : Bool :=
  let m := s.fld (RUN_CFG h) 15 8
  m ≠ 0 && w.stages ≥ 64 * m

/-- The oldest waiting group of a caravan whose wait has reached its limit leaves the run. -/
def waitTimeout (h : Nat) (s : State) : State :=
  let x := s.ctx h
  match x.waits.find? (s.waitOver h) with
  | some w => waitEnd h 0x0E11 (s.putCtx h { x with waits := x.waits.erase w }) w
  | none => s

/-- A tick of a caravan's waiting groups: their time counts, waits end, and the oldest detach where contexts are free. -/
def waitsTick (h : Nat) (s : State) : State :=
  let x := s.ctx h
  if x.waits.isEmpty then s
  else
    let n := x.waits.length
    let s1 := s.putCtx h { x with waits := x.waits.map fun w => { w with stages := w.stages + 1 } }
    let s2 := s1.each (List.range n) fun t _ => waitTimeout h t
    s2.each (List.range n) fun t _ => match (t.ctx h).waits, t.freeContext h with
      | w :: _, some d => waitDetach h d w t
      | _, _ => t

/-- Sites whose enable has cleared leave their run (R188). -/
def State.disabledLeave (s : State) : State :=
  let s1 := s.each ((List.range 512).filter fun n => s.siteServed n && !s.enabled n) fun t n => siteLeave (t.ctxOfSite n) 0x0F02 t n
  s1.each (s1.casting.caravans.map (·.caravan)) fun t h => emptyEnd h t

/-- The enables that early aborts clear at the tick (R187). -/
def State.abortDisable (s : State) : State :=
  s.each ((s.sites.filter fun e => e.2.disableAt).map (·.1)) fun t n => (t.setSite n { t.site n with disableAt := false }).disableNow n

/-- Aborts whose conditions hold under the settings that take effect at a tick are decided then (R186). -/
def State.abortsJudged (s : State) : State :=
  s.each ((List.range 512).filter s.siteServed) fun t n => abortCheck n t

/-- Every caravan's waiting groups at a tick. -/
def State.allWaits (s : State) : State := s.each (s.casting.caravans.map (·.caravan)) fun t h => waitsTick h t

/-! The rows. -/

/-- SEQ_START (R110). -/
def execSeqStart (c : Nat) (s : State) : Host.Outcome State Fault Refusal := .next (s.whenReady fun s => seqStart c s)

/-- SEQ_STOP (R112). -/
def execSeqStop (c : Nat) (s : State) : Host.Outcome State Fault Refusal := .next (s.whenReady fun s => seqStop c s)

/-- SEQ_RESUME (R103). -/
def execSeqResume (c : Nat) (s : State) : Host.Outcome State Fault Refusal := .next (s.whenReady fun s => seqResume c s)

/-- SEQ_RESTART_LOOP (R103). -/
def execSeqRestartLoop (c : Nat) (s : State) : Host.Outcome State Fault Refusal := .next (s.whenReady fun s => seqRestart c s)

/-- INGOT_GENERATE (R101). -/
def execIngotGenerate (c p : Nat) (s : State) : Host.Outcome State Fault Refusal := .next (ingotGenerate c p s)

/-- NEXT (R79). -/
def execNextInstr (c p : Nat) (s : State) : Host.Outcome State Fault Refusal := .next (instrRow 0x01 c p s)

/-- JUMP (R79). -/
def execJump (c p : Nat) (s : State) : Host.Outcome State Fault Refusal := .next (instrRow 0x02 c p s)

/-- BRANCH (R79). -/
def execBranch (c p : Nat) (s : State) : Host.Outcome State Fault Refusal := .next (instrRow 0x03 c p s)

/-- CALL (R79). -/
def execCall (c p : Nat) (s : State) : Host.Outcome State Fault Refusal := .next (instrRow 0x04 c p s)

/-- RETURN (R79). -/
def execRet (c p : Nat) (s : State) : Host.Outcome State Fault Refusal := .next (instrRow 0x05 c p s)

/-- LOOP_SET (R79). -/
def execLoopSet (c p : Nat) (s : State) : Host.Outcome State Fault Refusal := .next (instrRow 0x06 c p s)

/-- LOOP_END (R79). -/
def execLoopEnd (c p : Nat) (s : State) : Host.Outcome State Fault Refusal := .next (instrRow 0x07 c p s)

/-- LOOP_BREAK (R79). -/
def execLoopBreak (c p : Nat) (s : State) : Host.Outcome State Fault Refusal := .next (instrRow 0x08 c p s)

/-- WAYPOINT (R79). -/
def execWaypoint (c p : Nat) (s : State) : Host.Outcome State Fault Refusal := .next (instrRow 0x09 c p s)

/-- HALT (R79). -/
def execHalt (c p : Nat) (s : State) : Host.Outcome State Fault Refusal := .next (instrRow 0x0A c p s)

/-- TRIGGER (R79). -/
def execTrigger (c p : Nat) (s : State) : Host.Outcome State Fault Refusal := .next (instrRow 0x0B c p s)

/-- STALL_RESUME (R103). -/
def execStallResume (c : Nat) (s : State) : Host.Outcome State Fault Refusal := .next (tryResume c s)

/-- PREFETCH_ARRIVAL (R101). -/
def execPrefetchArrival (c e k : Nat) (s : State) : Host.Outcome State Fault Refusal := .next (prefetchArrival c e k s)

/-- STREAM_ROW_FETCH (R105). -/
def execStreamRowFetch (c prod : Nat) (data : List Byte) (s : State) : Host.Outcome State Fault Refusal := .next (streamFetch c prod data s)

/-- SEQ_TABLE_ENTRY_WRITE (R91). -/
def execSeqTableEntryWrite (c v : Nat) (s : State) : Host.Outcome State Fault Refusal := .next (s.whenReady fun s => tableWrite c v s)

/-- SEQ_TABLE_SWAP (R91). -/
def execSeqTableSwap (c mask : Nat) (s : State) : Host.Outcome State Fault Refusal := .next (s.whenReady fun s => tableSwap c mask s)

/-- SOUND_GO (R119). -/
def execSoundGo (c : Nat) (s : State) : Host.Outcome State Fault Refusal := .next (s.whenReady fun s => soundGo c s)

/-- SOUND_ABORT (R121). -/
def execSoundAbort (c : Nat) (s : State) : Host.Outcome State Fault Refusal := .next (s.whenReady fun s => soundAbort c s)

/-- SOUND_DONE (R121). -/
def execSoundDone (c : Nat) (trips : List Nat) (s : State) : Host.Outcome State Fault Refusal := .next (soundDone c trips s)

/-- SOUND_NO_ECHO (R120). -/
def execSoundNoEcho (c r : Nat) (s : State) : Host.Outcome State Fault Refusal := .next (soundNoEcho c r s)

/-- POUR_LINE_CROSSING (R116). -/
def execPourLineCrossing (c : Nat) (s : State) : Host.Outcome State Fault Refusal := .next (pourLine c s)

/-- BRANCH_RESOLVED (R125). -/
def execBranchResolved (c : Nat) (s : State) : Host.Outcome State Fault Refusal :=
  .next (match s.ripeFork c with
    | some f => resolve c f s
    | none => s)

/-- WAIT_TIMEOUT (R135). -/
def execWaitTimeout (c : Nat) (s : State) : Host.Outcome State Fault Refusal := .next (waitTimeout c s)

/-- COMPARE_RESULT (R169). -/
def execCompareResult (c : Nat) (obs : List PinObs) (s : State) : Host.Outcome State Fault Refusal := .next (compareResult c obs s)

/-- EARLY_ABORT (R187). -/
def execEarlyAbort (n : Nat) (s : State) : Host.Outcome State Fault Refusal :=
  .next (leaveAtBoundary n 0x0F01 (fun t => (t.site n).abort.any fun a => a.2 < t.time.up) s)

/-- SITE_TRIPPED (R290). -/
def execSiteTripped (n : Nat) (s : State) : Host.Outcome State Fault Refusal :=
  .next (leaveAtBoundary n 0x1310 (fun t => (t.site n).tripped) s)

end Sys2Proof.Machine
end

