-- ==== Sys2Proof/Machine/Store.lean ====
section
/-!
DEFINITION. Machine/Store.lean: device memory as the host reaches it, the pattern store's write protection, copies into it and
into waveform memory, and casting out a DRAM stack (R97 to R99, R195, R321, R322, R330 to R333, R341).
notes/assumptions/35.md.
-/

namespace Sys2Proof.Machine

/-! Stacks and partitions (Table 12.2, R330). -/

/-- A stack's share of the device address space, and where its capture memory and its module region begin. -/
def stackSize : Nat := 2 ^ 34
def captureStart : Nat := 0x340000000
def regionStart : Nat := 0x3E0000000
/-- The run log and the ASY result area together. -/
def logAreaSize : Nat := 192 * 2 ^ 20

/-- The partition address that a device address of managed space holds. -/
def StoreRec.address (r : StoreRec) (dpa : Nat) : Option Nat :=
  let off := dpa % stackSize
  let base := r.base * 2 ^ 21
  match r.stackList.findIdx? (· == dpa / stackSize) with
  | some i =>
    if off < captureStart ∧ base ≤ off ∧ off < base + r.size * 2 ^ 21 then
      some (((off - base) / 4096 * r.stackList.length + i) * 4096 + off % 4096)
    else none
  | none => none

/-- The partition and partition address of a device address. -/
def partitionOf (k : Casting) (dpa : Nat) : Option (StoreRec × Nat) :=
  k.stores.findSome? fun r => (r.address dpa).map fun a => (r, a)

/-- Two byte ranges, each a start and a length, share a byte. -/
def overlaps (a b : Nat × Nat) : Bool := a.1 < b.1 + b.2 && b.1 < a.1 + a.2

/-- The directory entries that running caravans hold in pattern partition `p` (R97). -/
def State.heldEntries (s : State) (p : Nat) : List Nat :=
  (s.ctxs.flatMap fun e =>
    let x := e.2
    if (findCaravan s.casting (s.homeOf e.1)).any fun k => k.patPart == p then
      (x.program :: (x.present.map Prod.fst ++ x.rows.map (fun r => r.1 / 2 ^ 32) ++ x.caches.map Prod.snd
        ++ x.vecs.map (fun v => v.instr.segment) ++ x.paths.filterMap fun q => q.block.map fun b => b.instr.segment)).filter
        (s.ctxHolds e.1)
    else []).eraseDups

/-- The bytes of entry `e`: its directory entry and its data area. -/
def State.entryAreas (s : State) (r : StoreRec) (e : Nat) : List (Nat × Nat) := [(64 * e, 64), (s.dirEntry r e).dataArea]

/-- Bytes of a partition belong to an active entry (R98). -/
def State.bytesActive (s : State) (r : StoreRec) (area : Nat × Nat) : Bool :=
  (s.heldEntries r.part).any fun e => (s.entryAreas r e).any (overlaps area)

/-- A store dropped by the write protection (R98). -/
def State.dropStore (s : State) (part a : Nat) : State :=
  let s1 := if s.bit SEQ_WP_STAT 0 then s else (s.wrN SEQ_WP_PART part).setWide SEQ_WP_ADDR 3 a
  (s1.setBit SEQ_WP_STAT 0 true).inc SEQ_WP_CNT

/-! Host accesses to device memory (R333). -/

/-- A host store of the 64-byte block at a device address. -/
def memStoreBlock (dpa : Nat) (data : List Byte) (s : State) : State :=
  let a := dpa / 64 * 64
  if s.stackOut (a / stackSize) then s.evt HST_EVT 5
  else if a % stackSize ≥ captureStart then s
  else
    let keep := { s.memWrite a (padTo 64 data) with way := { s.way with poison := s.way.poison.erase a } }
    match partitionOf s.casting a with
    | some (r, p) => if r.kind == 1 && s.bytesActive r (p, 64) then s.dropStore r.part p else keep
    | none => keep

/-- What the host reads at a device address of a stack in service. -/
def State.hostBlock (s : State) (a : Nat) : List Byte :=
  if a % stackSize < regionStart then s.memRead a 64
  else
    let base := s.wide HST_LOG_BASE 3
    if base ≤ a ∧ a < base + logAreaSize then s.memRead a 64 else List.replicate 64 0#8

/-- A host load of the 64-byte block at a device address. -/
def memLoadBlock (dpa : Nat) (s : State) : State :=
  let a := dpa / 64 * 64
  if s.stackOut (a / stackSize) then { s.evt HST_EVT 5 with read := ⟨0, [], true⟩ }
  else if s.way.poison.contains a then { s with read := ⟨0, [], true⟩, way := { s.way with poison := s.way.poison.erase a } }
  else { s with read := ⟨0, s.hostBlock a, false⟩ }

/-! Copies (R97 to R99, R195, R341). -/

/-- Fields of SEG_LOAD and WAVE_LOAD in a command entry (Table 12.6). -/
def segLoadPart (e : List Byte) : Nat := leAt e 16 1
def segLoadEntry (e : List Byte) : Nat := leAt e 18 2
def segLoadHost (e : List Byte) : Nat := leAt e 24 8
def segLoadAddr (e : List Byte) : Nat := leAt e 32 8
def segLoadLength (e : List Byte) : Nat := leAt e 40 4
def waveLoadUnit (e : List Byte) : Nat := leAt e 16 1
def waveLoadSource (e : List Byte) : Nat := leAt e 17 1
def waveLoadAddr (e : List Byte) : Nat := leAt e 24 8
def waveLoadFirst (e : List Byte) : Nat := leAt e 32 4
def waveLoadCount (e : List Byte) : Nat := leAt e 36 4

/-- The first range lies wholly within the second. -/
def within (a b : Nat × Nat) : Bool := b.1 ≤ a.1 && a.1 + a.2 ≤ b.1 + b.2

/-- What refuses a SEG_LOAD at acceptance, in the order of R341. -/
def State.segLoadCode (s : State) (e : List Byte) : Option Nat :=
  let entry := segLoadEntry e
  let area := (segLoadAddr e, segLoadLength e)
  match findStore s.casting (segLoadPart e) with
  | none => some 0x1504
  | some r =>
    if r.kind ≠ 1 || segLoadHost e % 64 ≠ 0 || area.1 % 64 ≠ 0 || area.2 % 64 ≠ 0 || area.2 = 0 then some 0x1504
    else if 64 * entry + 64 > r.capacity || area.1 + area.2 > r.capacity then some 0x1504
    else if !(within area (64 * entry, 64)) && !(within area (s.dirEntry r entry).dataArea) then some 0x1504
    else if (s.heldEntries r.part).contains entry || s.bytesActive r area then some 0x0D20
    else if s.entryLocked r.part entry
        || s.loads.any (fun j => j.opcode == 0x0010 && segLoadPart j.entry == r.part
            && [(64 * segLoadEntry j.entry, 64), j.area].any (overlaps area)) then some 0x0D21
    else none

/-- Bytes go to a partition, from partition address `a`. -/
def State.partWrite (s : State) (r : StoreRec) (a : Nat) : List Byte → State
  | [] => s
  | b :: bs => State.partWrite { s with mem := tabSet (fun _ => 0#8) s.mem (r.device a) b } r (a + 1) bs

/-- A copy leaves the list of those in progress. -/
def State.loadGone (s : State) (tag : Nat) : State := { s with loads := s.loads.filter fun j => j.tag ≠ tag }

/-- The bytes that a copy of `n` bytes takes: from host memory as given, or from device memory. -/
def State.sourceBytes (s : State) (device : Bool) (addr n : Nat) (data : Option (List Byte)) : Option (List Byte) :=
  if device then some (s.memRead addr n) else data.map (padTo n)

/-- A SEG_LOAD ends: its last block is written, or a read of host memory has failed. -/
def segLoadDone (tag : Nat) (data : Option (List Byte)) (s : State) : State :=
  match s.loads.find? fun j => j.tag == tag && j.opcode == 0x0010 with
  | none => s
  | some j =>
    let s1 := s.loadGone tag
    match data, findStore s.casting (segLoadPart j.entry) with
    | some d, some r => (s1.partWrite r (segLoadAddr j.entry) (padTo (segLoadLength j.entry) d)).complete tag 0x0010 0 0 0 0
    | _, _ => s1.complete tag 0x0010 0x1508 0 0 0

/-- A WAVE_LOAD ends. -/
def waveLoadDone (tag : Nat) (data : Option (List Byte)) (s : State) : State :=
  match s.loads.find? fun j => j.tag == tag && j.opcode == 0x0011 with
  | none => s
  | some j =>
    let n := waveLoadCount j.entry * 64
    let s1 := s.loadGone tag
    match s.sourceBytes (waveLoadSource j.entry == 1) (waveLoadAddr j.entry) n data with
    | some d =>
      let origin := (if waveLoadSource j.entry = 1 then 0 else 2 ^ 36) + waveLoadAddr j.entry / 64 % 2 ^ 36
      (s1.waveWrite (waveLoadUnit j.entry) (waveLoadFirst j.entry) origin d).complete tag 0x0011 0 0 0 0
    | none => s1.complete tag 0x0011 0x1508 0 0 0

/-- A full apply ends the SEG_LOADs still in progress (R99). -/
def segLoadsCast (s : State) : State :=
  let gone := s.loads.filter fun j => j.opcode == 0x0010
  let s1 := { s with loads := s.loads.filter fun j => j.opcode ≠ 0x0010 }
  gone.foldl (fun t j => t.complete j.tag 0x0010 0x0D22 0 0 0) s1

/-! Casting out a stack (R321, R322). -/

/-- The lowest-numbered stack in service; the log and result areas lie in its module region (R332). -/
def State.logBases (s : State) : State :=
  match (List.range 4).find? fun q => !s.stackOut q with
  | some q => (s.setWide HST_LOG_BASE 3 (q * stackSize + regionStart)).setWide HST_ASY_BASE 3 (q * stackSize + regionStart + 2 ^ 26)
  | none => s

/-- CAL_STACK_STAT.OUT shows the stacks that are cast out. -/
def State.showStacks (s : State) : State := s.setFld CAL_STACK_STAT 11 8 s.nv.stacksOut

/-- The run of a context ends at its next ingot boundary; a halted path is at one. -/
def runKill (c code : Nat) (s : State) : State :=
  let x := s.ctx c
  if !s.ctxActive c then s
  else if x.paths.any fun p => p.need.isEmpty && p.halt ≠ .none then endRun c code s
  else s.setCtx c { x with kill := some (x.kill.getD code) }

/-- A merged lane ingot is lost at the pin stage: the pins receive nothing of the next ingot, and the run ends at the boundary before it
(R104, R378). -/
def ingotLost (c : Nat) (s : State) : State :=
  match s.nextVec c with
  | none => runKill c 0x1701 s
  | some v =>
    if !s.ctxActive c then s
    else
      let x := s.ctx c
      endRun c 0x1701 (settleTails c (s.setCtx c { x with code := none, vecs := x.vecs.filter fun w => w.pos < (v.pos + 63) / 64 * 64 }))

/-- Bit `q` of CAL_STACK becomes 1 at a tick. -/
def castOut (q : Nat) (s : State) : State :=
  let m : Word := BitVec.ofNat 16 (2 ^ q)
  if q ≥ 4 then s
  else if s.stackOut q then (s.forceBits CAL_STACK m m).setBit CAL_STACK_STAT (4 + q) false
  else if !((List.range 4).any fun r => r ≠ q && !s.stackOut r) then (s.forceBits CAL_STACK m 0).calRefuse CAL_STACK 0x1433
  else
    let s0 := { s.forceBits CAL_STACK m m with nv := { s.nv with stacksOut := s.nv.stacksOut + 2 ^ q } }
    let t0 := s0.showStacks
    let s1 := { t0 with mem := t0.mem.filter fun e => e.1 / stackSize ≠ q }
    let hit := (s.ctxs.map Prod.fst).filter fun c => (caravanStacks s.casting (s.homeOf c)).contains q
    let s2 := s1.each hit fun t c => runKill c 0x1430 t
    let s3 := s2.each ((List.range 4).map (4 * q + ·) ++ [16 + q]) fun t u => acqEndAs u 0x1430 t
    s3.logBases

/-- Bit `q` of CAL_STACK becomes 0 at a tick: the stack's self-test begins. -/
def stackRestore (q : Nat) (s : State) : State :=
  let m : Word := BitVec.ofNat 16 (2 ^ q)
  if q ≥ 4 ∨ !s.stackOut q then s else (s.forceBits CAL_STACK m 0).setBit CAL_STACK_STAT (4 + q) true

/-- CAL_STACK takes effect over `old`. -/
def stackCommit (old : Word) (s : State) : State :=
  let new := s.rd CAL_STACK
  s.each (List.range 4) fun t q =>
    if old.getLsbD q = new.getLsbD q then t else if new.getLsbD q then castOut q t else stackRestore q t

/-- The self-test of a stack ends. -/
def stackTested (q : Nat) (pass : Bool) (s : State) : State :=
  let m : Word := BitVec.ofNat 16 (2 ^ q)
  if q ≥ 4 ∨ !s.bit CAL_STACK_STAT (4 + q) then s
  else
    let s1 := s.setBit CAL_STACK_STAT (4 + q) false
    if pass then
      let s2 := { s1 with nv := { s1.nv with stacksOut := s1.nv.stacksOut - 2 ^ q } }
      s2.showStacks
    else (s1.forceBits CAL_STACK m m).calRefuse CAL_STACK 0x1422

/-! The rows. -/

/-- CXL_MEM_WRITE (R98, R333). -/
def execCxlMemWrite (dpa : Nat) (data : List Byte) (s : State) : Host.Outcome State Fault Refusal :=
  if dpa ≥ 4 * stackSize then .fault (.outsideDeviceMemory dpa) else .next (memStoreBlock dpa data s)

/-- CXL_MEM_READ (R333). -/
def execCxlMemRead (dpa : Nat) (s : State) : Host.Outcome State Fault Refusal :=
  if dpa ≥ 4 * stackSize then .fault (.outsideDeviceMemory dpa) else .next (memLoadBlock dpa s)

/-- SEG_LOAD_DONE (R99). -/
def execSegLoadDone (tag : Nat) (data : Option (List Byte)) (s : State) : Host.Outcome State Fault Refusal :=
  .next (segLoadDone tag data s)

/-- WAVE_LOAD_DONE (R195). -/
def execWaveLoadDone (tag : Nat) (data : Option (List Byte)) (s : State) : Host.Outcome State Fault Refusal :=
  .next (waveLoadDone tag data s)

/-- CASTOUT_SET (R321). -/
def execCastoutSet (q : Nat) (s : State) : Host.Outcome State Fault Refusal := .next (s.whenReady fun s => castOut q s)

/-- STACK_RESTORE (R322). -/
def execStackRestore (q : Nat) (s : State) : Host.Outcome State Fault Refusal := .next (s.whenReady fun s => stackRestore q s)

/-- STACK_SELFTEST_DONE (R322). -/
def execStackSelftestDone (q : Nat) (pass : Bool) (s : State) : Host.Outcome State Fault Refusal := .next (stackTested q pass s)

/-- STACK_FAULT (R322). -/
def execStackFault (q : Nat) (s : State) : Host.Outcome State Fault Refusal :=
  .next (if q < 4 then (s.setBit CAL_STACK_STAT q true).evt CALC_EVT 8 else s)

end Sys2Proof.Machine
end

