-- ==== Sys2Proof/Machine/Casting.lean ====
section
/-!
DEFINITION. Machine/Casting.lean: castings from their commands to their apply tick, and tile discovery (R55 to R73, R351, R352).
notes/assumptions/36.md.
-/

namespace Sys2Proof.Machine

/-! The tiles present (R58 to R62). -/

/-- The present-map record of a slot: presence, pad map CRC and identifier. -/
def State.presentRec (s : State) (k : Nat) : Nat × Nat × Nat :=
  let t := s.tile k
  if t.phase = 3 then (1, t.crc, t.id) else (0, 0, 0)

/-- The tile digest of the tiles present. -/
def State.tilesDigest (s : State) : List Byte :=
  sha512 ((List.range 32).flatMap fun k =>
    let r := s.presentRec k
    leBytes 1 k ++ leBytes 1 r.1 ++ leBytes 2 0 ++ leBytes 4 r.2.1 ++ leBytes 8 r.2.2)

/-- A slot differs from the applied TILE record. -/
def State.tileDiffers (s : State) (k : Nat) : Bool :=
  s.cast.applied.any fun c => (c.tiles.find? fun r => r.slot == k).any fun r => (r.present, r.crc, r.id) ≠ s.presentRec k

/-- CST_TILE_PRES, CST_TILE_DIFF and TILE_MISMATCH. -/
def State.showTiles (s : State) : State :=
  let s1 := s.each (List.range 32) fun t k =>
    (t.setBit (CST_TILE_PRES + 2 * (k / 16)) (k % 16) ((s.presentRec k).1 == 1)).setBit (CST_TILE_DIFF + 2 * (k / 16)) (k % 16)
      (s.tileDiffers k)
  s1.setBit CST_STAT 10 ((List.range 32).any s.tileDiffers)

/-- A tile was added or removed: the registers and the DIFF bits, the soundings over the slot (R122), and what a load or recast in
progress finds at its apply tick once its digests have been compared a first time (R59). -/
def State.tileChange (s : State) (slot : Nat) : State :=
  let k := s.casting
  let hit := (k.sounds.filter fun r => [r.drive, r.recv].any fun ch => (findPin k ch).any fun p => p.tile == slot).map (·.caravan)
  let s1 := s.each hit.eraseDups fun t c => soundInvalid c t
  let mark := fun (j : Option CastJob) => j.map fun x => if x.built.isSome || x.target.isSome then { x with disturbed := true } else x
  { (s1.showTiles.evt CST_EVT 4) with cast := { s1.cast with load := mark s1.cast.load, recast := mark s1.cast.recast } }

/-! Tile discovery (R351, R352). -/

/-- A slot is set FAULT with a code. -/
def tileFault (slot code : Nat) (s : State) : State :=
  (s.setTile slot { s.tile slot with phase := 4, joined := false, found := false, code := code }).evt HST_EVT 6

/-- A present line rises. -/
def tileRise (slot : Nat) (s : State) : State :=
  if slot ≥ 32 ∨ (s.tile slot).line then s
  else s.setTile slot { s.tile slot with line := true, phase := 1, since := s.time.up }

/-- The line has stayed asserted for 10 ms. -/
def tileDebounced (slot : Nat) (s : State) : State :=
  if (s.tile slot).phase ≠ 1 then s
  else s.atDue ((s.tile slot).since + 30000000) fun t => t.setTile slot { t.tile slot with phase := 2, since := t.time.up, joined := false }

/-- A tile of the slot's bus has joined and is being read. -/
def State.busServing (s : State) (slot : Nat) : Bool := s.tiles.any fun e => e.1 / 16 == slot / 16 && e.2.joined

/-- A tile joins. -/
def tileJoin (slot : Nat) (s : State) : State :=
  let x := s.tile slot
  if x.phase = 2 ∧ !x.found ∧ !s.busServing slot ∧ s.time.up ≤ x.since + 300000000 then s.setTile slot { x with joined := true } else s

/-- No join within 100 ms. -/
def tileNoJoin (slot : Nat) (s : State) : State :=
  let x := s.tile slot
  if x.phase = 2 ∧ !x.joined ∧ !x.found then s.atDue (x.since + 300000000) (tileFault slot 0x1510) else s

/-- The pad map of a descriptor: pads with the contacts that they join. -/
def padMap (desc : List Byte) : List (Nat × Nat) := (List.range (leAt desc 16 2)).map fun i => (leAt desc (24 + 4 * i) 2, leAt desc (26 + 4 * i) 2)

/-- MAGIC, FORMAT, PAD_COUNT and MAP_CRC of a descriptor check (Table 12.10). -/
def descOk (desc : List Byte) : Bool :=
  let n := leAt desc 16 2
  slice desc 0 4 == [0x5A#8, 0x56#8, 0x54#8, 0x4C#8] && leAt desc 4 2 == 1 && 1 ≤ n && n ≤ 1024 && 24 + 4 * n ≤ desc.length
    && (crc32c (slice desc 24 (4 * n))).toNat == leAt desc 20 4

/-- The descriptor of the tile that joined at `slot` has been read. -/
def tileRead (slot : Nat) (desc : List Byte) (s : State) : State :=
  let x := s.tile slot
  if x.phase ≠ 2 ∨ !x.joined then s
  else
    let d := byteAt desc 6 % 32
    let s1 := s.setTile slot { x with joined := false }
    let y := s1.tile d
    if !y.line || y.phase == 3 || y.found then tileFault slot 0x1511 s1
    else if !descOk desc then tileFault slot 0x1512 s1
    else s1.setTile d { y with phase := 2, found := true, id := leAt desc 8 8, crc := leAt desc 20 4, map := padMap desc }

/-- Tiles whose descriptor has checked become PRESENT at a tick. -/
def State.tilesFound (s : State) : State :=
  let l := (s.tiles.filter fun e => e.2.found).map Prod.fst
  s.each l fun t k => (t.setTile k { t.tile k with phase := 3, found := false, since := t.time.up }).tileChange k

/-- The sites that lose an enable when a tile goes (R61). -/
def tileSites (k : Casting) (slot : Nat) : List Nat :=
  let on := k.pins.filter fun p => p.tile == slot
  ((on.filter fun p => !p.common).map (·.owner) ++ (on.filter fun p => p.common).flatMap fun p => sitesOfCaravan k p.owner).eraseDups

/-- A present line falls. -/
def tileRemoved (slot : Nat) (s : State) : State :=
  let x := s.tile slot
  if !x.line then s
  else
    let gone := { Tile.init with code := x.code }
    if x.phase ≠ 3 then s.setTile slot gone
    else
      let s1 := ((s.setTile slot gone).tileChange slot).irqUrgent
      if s.cast.applied.isNone then s1
      else
        let hit := tileSites s.casting slot
        let listed := hit.filter fun n => s.enabled n || (s.shadowOf (CST_SITE_EN (n / 16))).getLsbD (n % 16)
        let s2 := (s1.each hit State.disableNow).refreshPins []
        (s2.refreshSlices.disabledLeave).logSites 0x0003 s.convoyTime (leBytes 1 slot ++ leBytes 7 0 ++ leBytes 8 x.id) listed

/-! The parameters of CAST_LOAD and CAST_RECAST (Table 12.6), in a command entry. -/

def castSource (e : List Byte) : Nat := leAt e 16 1
def castSlot (e : List Byte) : Nat := leAt e 17 1
def castDest (e : List Byte) : Nat := leAt e 18 1
def castAddr (e : List Byte) : Nat := leAt e 24 8
def castLength (e : List Byte) : Nat := leAt e 32 4

/-- A reserved byte or code of the parameters. -/
def castParamsBad (recast : Bool) (e : List Byte) : Bool :=
  !allZero (slice e 19 5) || !allZero (slice e 36 60) || castSource e > 2 || (castSource e == 2 && castSlot e > 3)
    || (castDest e ≠ 0xFF && (recast || castDest e > 3))

/-- The address rules of R341. -/
def castAddressBad (e : List Byte) : Bool :=
  castSource e ≠ 2 && (castAddr e % 64 ≠ 0 || castLength e % 64 ≠ 0 || castLength e == 0 || castLength e > 16777216)

/-- The content of a stored-casting slot. -/
def State.storedCasting (s : State) (slot : Nat) : Option (List Byte) := tabGet (fun _ => none) s.nv.castings slot

/-- The bytes of a job's source: `data` is what host memory gave. -/
def State.castData (s : State) (j : CastJob) (data : Option (List Byte)) : Option (List Byte) :=
  match j.source with
  | 0 => data
  | 1 => some (s.memRead j.addr j.len)
  | _ => s.storedCasting j.slot

/-- What the header checks and the cross-reference pass need of the module. -/
def State.hdrEnv (s : State) (recast : Bool) (len : Nat) : HdrEnv :=
  ⟨recast, len, s.tilesDigest, s.nv.requireSigned, s.nv.castKey⟩
def State.xrefEnv (s : State) : XrefEnv :=
  ⟨(s.tiles.filter fun e => e.2.phase == 3).map fun e => (e.1, e.2.map), s.nv.stacksOut⟩

/-! Refusals (R56). -/

/-- A refusal shows in CST_ERR and CST_EVT. -/
def State.castError (s : State) (recast : Bool) (e : CastErr) : State :=
  (((s.wrN CST_ERR_CODE e.code).wrN CST_ERR_SECT e.sect).setWide CST_ERR_REC 2 e.idx).evt CST_EVT (if recast then 3 else 1)

/-- CST_STAT when no load or recast is in progress any more. -/
def State.loadOver (s : State) : State :=
  { s.setFld CST_STAT 15 13 (if s.cast.applied.isSome then 2 else 0) with cast := { s.cast with load := none } }
def State.recastOver (s : State) : State :=
  { (s.setFld CST_STAT 12 11 0).setFld CST_STAT 5 0 0 with cast := { s.cast with recast := none } }

/-- A load in progress ends with a code. -/
def loadEnds (e : CastErr) (s : State) : State :=
  match s.cast.load with
  | some j => (s.loadOver.castError false e).complete j.tag 0x0001 e.code e.sect e.idx 0
  | none => s

/-- A recast in progress ends with a code; an application item not yet admitted goes with it. -/
def recastEnds (e : CastErr) (s : State) : State :=
  match s.cast.recast with
  | some j =>
    let s1 := { s with sched := { s.sched with waiting := s.sched.waiting.filter fun w => w.kind ≠ WorkKind.recast } }
    (s1.recastOver.castError true e).complete j.tag 0x0002 e.code e.sect e.idx 0
  | none => s

/-! A full load (R63 to R66). -/

/-- What refuses CAST_LOAD at acceptance with a casting code. -/
def State.loadCode (s : State) (e : List Byte) : Option Nat :=
  if ((List.range 64).any s.ctxActive) || s.cast.load.isSome || s.cast.recast.isSome then some 0x0C70
  else if castSource e == 2 && (s.storedCasting (castSlot e)).isNone then some 0x0C79
  else none

/-- An accepted CAST_LOAD. -/
def loadBegin (tag : Nat) (e : List Byte) (s : State) : State :=
  let len := if castSource e = 2 then ((s.storedCasting (castSlot e)).getD []).length else castLength e
  let j : CastJob := ⟨tag, castSource e, castSlot e, castDest e, castAddr e, len, none, 0, none, [], false⟩
  { s.setFld CST_STAT 15 13 1 with cast := { s.cast with load := some j } }

/-- The three passes over a full casting. -/
def State.judgeFull (s : State) (len : Nat) (f : List Byte) : Except CastErr Casting :=
  match headerCode (s.hdrEnv false len) f with
  | some c => .error ⟨c, 0, 0⟩
  | none =>
    match digestCode f with
    | some c => .error ⟨c, 0, 0⟩
    | none =>
      match parseCasting f with
      | .error e => .error e
      | .ok k => match xrefFull s.xrefEnv k with
        | some e => .error e
        | none => .ok k

/-- The checks of a load complete: it ends refused, or its tables are built. A read of host memory that failed ends it with
DMA_FAULT, here and in a recast, shown in CST_ERR and CST_EVT as a refusal is: DESIGN CHOICE, the spec states no code of Table 2.13 for
it. notes/assumptions/36.md. -/
def castChecked (data : Option (List Byte)) (s : State) : State :=
  match s.cast.load with
  | none => s
  | some j =>
    if j.phase ≠ 0 then s
    else if j.len < 256 then loadEnds ⟨0x0C05, 0, 0⟩ s
    else match s.castData j data with
      | none => loadEnds ⟨0x1508, 0, 0⟩ s
      | some f => match s.judgeFull j.len f with
        | .error e => loadEnds e s
        | .ok k => { s with cast := { s.cast with load := some { j with phase := 1, built := some k, file := f.take (256 + hdrBodyLen f) } } }

/-- The outriders at a full apply: calibrations of lanes with an outrider route end, held duties go back, and routed outriders
replace their pins (R48, R310, Table 11.3). -/
def State.outridersCast (s : State) (k : Casting) : State :=
  s.each (List.range 128) fun t lane =>
    let o := outriderOf lane
    let peer := 16 * lane + t.fld (PIN_STAT o) 3 0
    match k.routes.find? fun r => r.kind == 0 && r.unit == lane with
    | some r =>
      let units := (List.range 16).map (16 * lane + ·) ++ [o]
      let t1 := t.each units fun u x => if (u.calJob x).any fun j => j.phase ≥ 1 then channelEnd x 4 0x1415 u else u
      let t2 := if t1.outState o ≠ 0 ∧ peer ≠ r.channel then (t1.handback peer).setBit (CAL_STAT (calOfChannel peer)) 9 false else t1
      let t3 := if t2.outState o = 0 then t2.takeover r.channel else t2.setBit (CAL_STAT (calOfChannel r.channel)) 9 false
      t3.setFld (PIN_STAT o) 12 11 2
    | none =>
      if t.outState o = 2 ∨ (t.outState o = 1 ∧ t.bit (CAL_STAT (calOfChannel peer)) 9) then
        (t.handback peer).setBit (CAL_STAT (calOfChannel peer)) 9 false
      else t

/-- The casting identity in force (R68). -/
def State.setIdentity (s : State) (d : List Byte) : State :=
  { s.setWords (CST_DIGEST 0) ((List.range 32).map fun i => leAt d (2 * i) 2) with cast := { s.cast with identity := d } }

/-- The context of a caravan that a casting apply defines: nothing of a run is left but the results in `await`, and RUN_CD takes the
commit delay. -/
def caravanCast (await : List Await) (s : State) (r : CaravanRec) : State :=
  let x := s.ctx r.caravan
  let s1 := s.setCtx r.caravan { Ctx.init with await := await, tables := x.tables }
  s1.force (RUN_CD r.caravan) (withBits (s1.rd (RUN_CD r.caravan)) 11 0 (if r.delay = 0 then 512 else r.delay))

/-- A transaction begins (R436): one page for each 4 KiB. -/
def State.nvBegin (s : State) (kind : TxnKind) (bytes : Nat) : State :=
  State.showNv { s with nv := { s.nv with txns := s.nv.txns ++ [⟨kind, max 1 ((bytes + 4095) / 4096)⟩] } }

/-- The whole structure is replaced in one clock (R64). Every pin is in the safe state before an outrider's duty changes, so that only
assignments change (R162). -/
def applyFull (j : CastJob) (k : Casting) (s : State) : State :=
  let old := s.casting.pins.map (·.channel)
  let s1 := s.each (List.range 32) fun t i => t.force (CST_SITE_EN i) 0#16
  let s2 := (({ s1 with cast := { s1.cast with applied := some k } }).refreshPins old).outridersCast k
  let s3 := awgRoutesKept (acqRoutesKept s2.refreshSlices)
  let s4 := ((s3.setIdentity k.bodyDigest).wrN CST_GEN 0).setWide CST_ID 4 k.id
  let s5 := ((s4.setBit CST_STAT 9 k.signed).setBit CST_STAT 8 false).loadOver.showTiles
  let s6 := (s5.groupsCast.ceilings k).each (List.range 64) fun t c => soundReplaced c t
  let s7 := k.caravans.foldl (caravanCast []) s6
  let s8 := segLoadsCast (sharesFull k (s7.each (k.sites.map (·.site)) defineSite))
  let s9 := (s8.evt CST_EVT 0).complete j.tag 0x0001 0 0 0 0
  if j.dest < 4 ∧ s9.nvCode.isNone then s9.nvBegin (.casting j.dest j.file) j.file.length else s9

/-- The apply tick of a load whose tables are built: the tile digest is compared again (R59). -/
def castLoadApply (s : State) : State :=
  match s.cast.load with
  | none => s
  | some j =>
    match j.built with
    | none => s
    | some k => if j.disturbed || s.tilesDigest ≠ k.tileDigest then loadEnds ⟨0x0C0A, 0, 0⟩ s else applyFull j k s

/-! A recast (R69 to R73). -/

/-- What refuses CAST_RECAST at acceptance with a casting code. -/
def State.recastCode (s : State) (e : List Byte) : Option Nat :=
  if s.cast.applied.isNone then some 0x0C72
  else if s.cast.load.isSome || s.cast.recast.isSome then some 0x0C74
  else if castSource e == 2 && (s.storedCasting (castSlot e)).isNone then some 0x0C79
  else none

/-- The target caravan or a straggler of its sites runs, or a straggler occupies the target context. -/
def State.targetBusy (s : State) (t : Nat) : Bool :=
  (List.range 64).any fun c => s.ctxActive c && (c == t || ((s.ctx c).straggler && (s.ctx c).home == t))

/-- An accepted CAST_RECAST, whose header is judged before its body is read. -/
def recastBegin (tag : Nat) (e : List Byte) (header : Option (List Byte)) (s : State) : State :=
  let len := if castSource e = 2 then ((s.storedCasting (castSlot e)).getD []).length else castLength e
  let j : CastJob := ⟨tag, castSource e, castSlot e, 0xFF, castAddr e, len, none, 0, none, [], false⟩
  let s1 := { s.setFld CST_STAT 12 11 1 with cast := { s.cast with recast := some j } }
  if len < 256 then recastEnds ⟨0x0C05, 0, 0⟩ s1
  else match s1.castData j header with
    | none => recastEnds ⟨0x1508, 0, 0⟩ s1
    | some f =>
      match headerCode (s1.hdrEnv true len) f with
      | some c => recastEnds ⟨c, 0, 0⟩ s1
      | none =>
        let t := byteAt f 0x16
        if leAt f 0x20 8 ≠ s.casting.id ∨ slice f 0x68 64 ≠ s.casting.tileDigest then recastEnds ⟨0x0C72, 0, 0⟩ s1
        else if s1.targetBusy t then recastEnds ⟨0x0C74, 0, 0⟩ s1
        else { s1.setFld CST_STAT 5 0 t with cast := { s1.cast with recast := some { j with target := some t, file := f.take 256 } } }

/-- The body of a recast is judged. -/
def State.judgePartial (s : State) (f : List Byte) : Except CastErr Casting :=
  match digestCode f with
  | some c => .error ⟨c, 0, 0⟩
  | none =>
    match parseCasting f with
    | .error e => .error e
    | .ok k => match xrefPartial s.xrefEnv s.casting k with
      | some e => .error e
      | none => .ok k

/-- The preparation of a recast ends: it is ready, and its application item arrives. Its body is judged against the header that
`recastBegin` judged (R55). -/
def recastReady (data : Option (List Byte)) (s : State) : State :=
  match s.cast.recast with
  | none => s
  | some j =>
    if j.phase ≠ 0 ∨ j.target.isNone then s
    else match s.castData j data with
      | none => recastEnds ⟨0x1508, 0, 0⟩ s
      | some f => match s.judgePartial (j.file ++ f.drop 256) with
        | .error e => recastEnds e s
        | .ok k =>
          let s1 := { s.setFld CST_STAT 12 11 2 with cast := { s.cast with recast := some { j with phase := 1, built := some k } } }
          s1.arrive 4 k.target 1024 .recast

/-- The structure of the target caravan is replaced. The enables of its old and new sites clear in force and in shadow, writes of the
commit cut included: DESIGN CHOICE, R72 names no shadow. A sounding under way there ends without a result (R73).
notes/assumptions/36.md. -/
def applyRecast (j : CastJob) (k : Casting) (s : State) : State :=
  let a := s.casting
  let t := k.target
  let new := amend a k
  let old := (pinsOfCaravan a t).map (·.channel)
  let sites := (sitesOfCaravan a t ++ sitesOfCaravan new t).eraseDups
  let s1 := s.each sites State.disableNow
  let s2 := ({ s1 with cast := { s1.cast with applied := some new } }).refreshPins old
  let s3 := awgRoutesKept (acqRoutesKept s2.refreshSlices)
  let s4 := (s3.setIdentity (sha512 (s3.cast.identity ++ k.bodyDigest))).wrN CST_GEN (min 0xFFFF (s3.rdN CST_GEN + 1))
  let s5 := ((s4.setBit CST_STAT 8 true).recastOver).showTiles
  let s6 := soundReplaced t (s5.groupsCast.ceilings k)
  let s7 := k.caravans.foldl (fun t r => caravanCast (t.ctx r.caravan).await t r) s6
  let s8 := sharesRecast (sitesOfCaravan a t) (sitesOfCaravan new t) s7
  (s8.evt CST_EVT 2).complete j.tag 0x0002 0 0 0 0

/-- The tick of the application item (R72). -/
def recastTick (s : State) : State :=
  match s.cast.recast with
  | none => s
  | some j =>
    match j.built with
    | none => s
    | some k => if j.disturbed || s.tilesDigest ≠ k.tileDigest then recastEnds ⟨0x0C75, 0, 0⟩ s else applyRecast j k s

/-- A recast can still be cancelled: its application item is not admitted (R71). -/
def State.cancellable (s : State) : Bool :=
  s.cast.recast.any fun j => j.phase == 0 || s.sched.waiting.any fun w => w.kind == WorkKind.recast

/-- CAST_CANCEL begins. -/
def castCancel (tag : Nat) (s : State) : State :=
  if s.cancellable then (recastEnds ⟨0x0C76, 0, 0⟩ s).complete tag 0x0003 0 0 0 0 else s.complete tag 0x0003 0x0C7A 0 0 0

/-! Stored castings (R66, R436). -/

/-- The write of a stored casting completes once its last page is programmed. -/
def storeDone (s : State) : State :=
  match s.nv.txns with
  | ⟨.casting slot content, 0⟩ :: rest =>
    let s1 := { s with nv := { s.nv with txns := rest, castings := tabSet (fun _ => none) s.nv.castings slot (some content) } }
    s1.showNv.evt CST_EVT 6
  | _ => s

/-! The rows. -/

/-- CAST_LOAD_APPLY (R64). -/
def execCastLoadApply (s : State) : Host.Outcome State Fault Refusal := .next (castLoadApply s)

/-- CAST_CHECKS_COMPLETE (R65). -/
def execCastChecksComplete (data : Option (List Byte)) (s : State) : Host.Outcome State Fault Refusal := .next (castChecked data s)

/-- STORE_DONE (R66). -/
def execStoreDone (s : State) : Host.Outcome State Fault Refusal := .next (storeDone s)

/-- RECAST_READY (R71). -/
def execRecastReady (data : Option (List Byte)) (s : State) : Host.Outcome State Fault Refusal := .next (recastReady data s)

/-- TILE_PRESENT_RISE (R351). -/
def execTilePresentRise (slot : Nat) (s : State) : Host.Outcome State Fault Refusal := .next (tileRise slot s)

/-- TILE_DEBOUNCE_EXPIRY (R351). -/
def execTileDebounceExpiry (slot : Nat) (s : State) : Host.Outcome State Fault Refusal := .next (tileDebounced slot s)

/-- TILE_HOT_JOIN (R351). -/
def execTileHotJoin (slot : Nat) (s : State) : Host.Outcome State Fault Refusal := .next (tileJoin slot s)

/-- TILE_NO_JOIN (R351). -/
def execTileNoJoin (slot : Nat) (s : State) : Host.Outcome State Fault Refusal := .next (tileNoJoin slot s)

/-- TILE_DESCRIPTOR_READ (R351). -/
def execTileDescriptorRead (slot : Nat) (desc : List Byte) (s : State) : Host.Outcome State Fault Refusal := .next (tileRead slot desc s)

/-- TILE_REMOVED (R61). -/
def execTileRemoved (slot : Nat) (s : State) : Host.Outcome State Fault Refusal := .next (tileRemoved slot s)

end Sys2Proof.Machine
end

