-- ==== Sys2Proof/Machine/Convoy.lean ====
section
/-!
DEFINITION. Machine/Convoy.lean: the module in its convoy: ports, discovery, the master, convoy time, remote triggers, fail
broadcasts and rendezvous (R357 to R371). notes/assumptions/37.md.
-/

namespace Sys2Proof.Machine

/-! The way to the master (R364, R366). -/

/-- A port leads to the master that the module follows. -/
def State.leads (s : State) (west : Bool) : Bool :=
  s.portUp west && (s.port west).master == s.master && (s.port west).upHops < 255

/-- The upstream port: the one with fewer hops to the master, west on a tie. -/
def State.pickUpstream (s : State) : Option Bool :=
  if s.isMaster then none
  else match s.leads false, s.leads true with
    | true, true => some ((s.port true).upHops ≤ (s.port false).upHops)
    | true, false => some false
    | false, true => some true
    | false, false => none

/-- The hops from the module to its master, 255 with no way there. -/
def State.upHops (s : State) : Nat :=
  if s.isMaster then 0 else match s.cvy.upstream with
    | some w => min 255 ((s.port w).upHops + 1)
    | none => 255

/-- The upstream port is chosen anew. -/
def State.setUpstream (s : State) : State := { s with cvy := { s.cvy with upstream := s.pickUpstream } }

/-- HOLDOVER is entered or left as the ways to the master say. -/
def State.holdover (s : State) : State :=
  let way := s.isMaster || s.leads false || s.leads true
  let now := s.fld CVY_STAT 9 8
  if !s.seated then s
  else if !way ∧ now ≠ 2 then
    let s1 := { (s.setFld CVY_STAT 9 8 2).setBit CVY_STAT 10 false with cvy := { s.cvy with step := none } }
    (s1.evt CVY_EVT 7).convoyLog 5 0 0
  else if way ∧ now = 2 then (((s.setFld CVY_STAT 9 8 0).setUpstream).evt CVY_EVT 7).convoyLog 6 0 0
  else s

/-! Frames of the module's own (Table 13.2). -/

def State.beaconPayload (s : State) : List Byte :=
  leBytes 8 s.serial ++ leBytes 8 s.master ++ leBytes 1 s.position ++ leBytes 1 s.cvyState ++ leBytes 1 s.upHops ++ leBytes 5 0

/-- The serial of the neighbour at a port, 0 if none. -/
def State.neighbour (s : State) (west : Bool) : Nat := if s.portUp west then (s.port west).serial else 0

/-- The module's own HELLO. -/
def State.ownHello (s : State) : Hello := ⟨s.serial, s.neighbour true, s.neighbour false, s.position, s.cvyState, s.master⟩

def Hello.payload (h : Hello) : List Byte :=
  leBytes 8 h.serial ++ leBytes 8 h.west ++ leBytes 8 h.east ++ leBytes 1 h.position ++ leBytes 1 h.state ++ leBytes 6 0 ++ leBytes 8 h.master

/-! Beacons and ports (R357, R362, R363). -/

/-- The place of a value in an ascending list without repeats. -/
def rankOf (l : List Nat) (v : Nat) : Nat := (l.filter (· < v)).length

/-- The lowest positions that `used` leaves free. -/
def freePositions (used : List Nat) : List Nat := (List.range 64).filter fun p => !used.contains p

/-- A link joins the module's fragment to one whose master has the lower serial: it is to take a free position there and to follow
that master (R363). -/
def State.fragmentMerge (s : State) (west : Bool) : State :=
  let p := s.port west
  if s.cvyState ≠ 1 ∨ p.position ≥ 64 ∨ p.master ≥ s.master then s
  else
    let used := p.position :: (s.cvy.hellos.filter fun h => h.master == p.master && h.position < 64).map (·.position)
    let mine := sortBy (· ≤ ·) (s.serial :: s.cvy.members.map Prod.snd).eraseDups
    let pos := (freePositions used).getD (rankOf mine s.serial) 63
    let s1 := ((s.setWide CVY_MASTER 4 p.master).setBit CVY_STAT 11 false).setUpstream
    if pos = s.position then s1
    else { s1.setFld CVY_STAT 15 13 3 with cvy := { s1.cvy with reseat := some (pos, p.master) } }

/-- A BEACON arrives. Through it the modules of a fragment that do not touch the joining link learn of the merge (R363). -/
def onBeacon (west : Bool) (f : List Byte) (s : State) : State :=
  let p := s.port west
  let s1 := s.setPort west { p with got := true, serial := frameArg f 0 8, master := frameArg f 8 8, position := frameArg f 16 1
                                    upHops := frameArg f 18 1 }
  (if s1.portUp west then s1.fragmentMerge west else s1).holdover

/-- Four beacons in consecutive stages: the port is up. -/
def portUpNow (west : Bool) (s : State) : State :=
  let p := s.port west
  if s.portUp west ∨ p.run + p.got.toNat < 4 then s
  else
    let s1 := ((s.setPort west { p with missed := 0 }).setBit CVY_STAT (if west then 6 else 7) true).evt CVY_EVT 0
    let closes := s1.portUp true && s1.portUp false && (s.cvy.members.any fun m => m.2 == p.serial)
    let s2 := if closes then s1.setBit CVY_STAT 12 false else s1
    let s3 := (s2.fragmentMerge west).holdover
    s3.convoyLog 0 west.toNat 0

/-- A port goes down: a ring becomes a chain. -/
def portDownNow (west : Bool) (s : State) : State :=
  if !s.portUp west then s
  else
    let s1 := (s.setPort west { s.port west with run := 0, missed := 0, got := false, upHops := 255, heldBack := none, t1 := none, samples := [] })
    let s2 := ((s1.setBit CVY_STAT (if west then 6 else 7) false).setBit CVY_STAT 12 true).evt CVY_EVT 0
    let s3 := if s2.cvy.upstream = some west then { s2 with cvy := { s2.cvy with upstream := none } } else s2
    (s3.convoyLog 1 west.toNat 0).holdover

/-! Lanes and frames received (R356, R357, R358). -/

/-- A port's lanes are locked and aligned. -/
def State.lanesUp (s : State) (west : Bool) : Bool := lanesAligned (s.port west).lanes

/-- The lanes of a port have received what `seen` lists, lane 0 first. -/
def State.lanesSee (s : State) (west : Bool) (seen : List (List LaneSeen)) : State :=
  let p := s.port west
  s.setPort west { p with lanes := (p.lanes.zipIdx).map fun e => (seen.getD e.2 []).foldl LaneRx.see e.1 }

/-- A lane has lost its lock or alignment: the port goes down. -/
def lanesFollow (west : Bool) (s : State) : State := if s.lanesUp west then s else portDownNow west s

/-- The words of the four lanes bring a frame of type `type` to a port. A lane whose sync header is invalid loses its lock. -/
def State.onFrame (s : State) (west : Bool) (type : Nat) (lanes : List (List Nat)) (act : List Byte → State → State) : State :=
  if !s.lanesUp west then s
  else
    let s1 := match lineFrame (laneSkews (s.port west).lanes) lanes with
      | none => s
      | some f => if !frameOk f then s.frameBad west else if frameType f = type then act f s else s
    if lanes.all fun l => l.all headerOk then s1
    else lanesFollow west (s1.lanesSee west (lanes.map fun l => if l.all headerOk then [] else [.bad]))

/-! Discovery (R360, R361, R362). -/

/-- A HELLO is accepted: the set of them changes, or stays as it is. -/
def onHello (f : List Byte) (s : State) : State :=
  let h : Hello := ⟨frameArg f 0 8, frameArg f 8 8, frameArg f 16 8, frameArg f 24 1, frameArg f 25 1, frameArg f 32 8⟩
  if h.serial = s.serial ∨ s.cvy.hellos.contains h then s
  else { s with cvy := { s.cvy with hellos := h :: s.cvy.hellos.filter (fun x => x.serial ≠ h.serial), same := 0 } }

/-- Some module heard, or the module itself, is DISCOVERING. -/
def State.discovering (s : State) : Bool := s.cvyState == 0 || s.cvy.hellos.any fun h => h.state == 0

/-- The modules met on the way east from serial `v`, `v` first. -/
def eastward (l : List Hello) : Nat → Nat → List Nat
  | 0, _ => []
  | n + 1, v =>
    match l.find? fun h => h.serial == v with
    | some h => v :: eastward l n h.east
    | none => []

/-- What a set of HELLOs says: the master, whether they form a ring, and the positions with their serials. -/
def convoyOf (l : List Hello) : Nat × Bool × List (Nat × Nat) :=
  let serials := sortBy (· ≤ ·) (l.map (·.serial))
  let low := serials.headD 0
  let round := eastward l l.length low
  let ring := round.length == l.length && ((l.find? fun h => some h.serial == round.getLast?).any fun h => h.east == low) && l.length > 1
  let formed := l.filter fun h => h.state == 1 || h.state == 3
  if formed.isEmpty then
    let first := ((l.find? fun h => !(serials.contains h.west)).map (·.serial)).getD low
    let order := if ring then round else eastward l l.length first
    let kept := serials.take 64
    (low, ring, ((order.filter kept.contains).zipIdx).map fun e => (e.2, e.1))
  else
    let held := formed.map fun h => (h.position, h.serial)
    let new := serials.filter fun v => !held.any fun e => e.2 == v
    (((formed.map (·.master)).min?).getD low, ring, held ++ (freePositions (held.map Prod.fst)).zip new)

/-- The module computes its convoy from the set of HELLOs that has stayed the same; the result acts at its next tick. -/
def convoyFormed (s : State) : State :=
  if s.cvyState ≠ 0 ∨ s.cvy.same < 64 then s else { s with cvy := { s.cvy with forming := some (s.ownHello :: s.cvy.hellos) } }

/-- The tick after the computation from the set `l`: the module enters FORMED, or is EXCLUDED. -/
def formedFrom (l : List Hello) (s : State) : State :=
    let r := convoyOf l
    let s1 := (((s.setWide CVY_MASTER 4 r.1).setBit CVY_STAT 11 (r.1 == s.serial)).setBit CVY_STAT 12 (!r.2.1)).wrN CVY_SIZE (max 1 r.2.2.length)
    let s2 : State := { s1 with cvy := { s1.cvy with members := r.2.2 } }
    match r.2.2.find? fun e => e.2 == s.serial with
    | some e => ((((s2.setFld CVY_STAT 15 13 1).setFld CVY_STAT 5 0 e.1).setUpstream).evt CVY_EVT 1).convoyLog 2 0 0
    | none => s2.setFld CVY_STAT 15 13 2

/-- The master is lost, and the modules that still reach each other have the serials `reach`: they elect at their next tick. -/
def masterChange (reach : List Nat) (s : State) : State :=
  if !s.seated ∨ s.isMaster ∨ reach.contains s.master then s else { s with cvy := { s.cvy with electing := some reach } }

/-- The tick of an election among `reach` and the module itself: the lowest serial is the master's. -/
def elected (reach : List Nat) (s : State) : State :=
  let m := ((s.serial :: reach).min?).getD s.serial
  let s1 := ((s.setWide CVY_MASTER 4 m).setBit CVY_STAT 11 (m == s.serial)).evt CVY_EVT 2
  let s2 := if m = s.serial ∧ s.fld CVY_STAT 9 8 = 1 then
      { s1.setFld CVY_STAT 9 8 0 with cvy := { s1.cvy with step := none } } else s1
  (s2.setUpstream.convoyLog 3 0 0).holdover

/-- What the module has computed or elected acts at the tick. -/
def State.convoyActs (s : State) : State :=
  let s0 : State := { s with cvy := { s.cvy with forming := none, electing := none } }
  let s1 := match s.cvy.forming with
    | some l => if s0.cvyState = 0 then formedFrom l s0 else s0
    | none => s0
  match s.cvy.electing with
  | some l => elected l s1
  | none => s1

/-- A position that has been unreachable for 1,024 stages is freed. -/
def positionFreed (pos : Nat) (s : State) : State :=
  if pos = s.position ∨ !(s.cvy.members.any fun m => m.1 == pos) then s
  else
    let members := s.cvy.members.filter fun m => m.1 ≠ pos
    let s1 : State := { s with cvy := { s.cvy with members := members } }
    let lost := (s1.ctxs.filter fun e => e.2.rdv.any fun w => (s1.wide (CVY_RDV_PART w.entry) 4).testBit pos).map Prod.fst
    (s1.wrN CVY_SIZE (max 1 members.length)).each lost fun t c => endRun c 0x1603 (t.setCtx c { t.ctx c with rdv := none })

/-! Soundings of the links (R364). -/

/-- The module sounds a link: a SOUND_REQ departs, `frac` past the present clock. -/
def linkSounding (west : Bool) (frac : Nat) (s : State) : State :=
  if !s.portUp west ∨ (s.port west).t1.isSome then s
  else
    let t1 := s.convoyTime + frac % 65536
    (s.setPort west { s.port west with t1 := some t1 }).sendHop west 6 t1 []

/-- A SOUND_REQ has arrived, `frac` past the present clock; its echo departs `dep` later. -/
def onSoundReq (west : Bool) (frac dep : Nat) (f : List Byte) (s : State) : State :=
  let t2 := s.convoyTime + frac % 65536
  s.sendHop west 7 ((t2 + dep) % 2 ^ 64) (leBytes 8 (frameTime f) ++ leBytes 8 t2)

/-- Sixteen exchanges with the upstream neighbour give an offset: it is slewed, or a step waits. ±0.125 ps are 786 of the 32nd parts of
1/65,536 clock in which the sum counts. An offset that CVY_OFS cannot hold leaves a free value there (log entry 37). -/
def State.offsetFound (s : State) (samples : List Int) : State :=
  let mean := roundDiv samples.sum 32
  let r := s.free
  let s1 := if -32768 ≤ mean ∧ mean < 32768 then s.wrN CVY_OFS (unsigned 16 mean) else r.2.wrN CVY_OFS (r.1 % 65536)
  if mean.natAbs ≥ 65536 then
    { (s1.setFld CVY_STAT 9 8 1).setBit CVY_STAT 10 false with cvy := { s1.cvy with step := some (roundDiv mean 65536) } }
  else
    let s2 := if s.fld CVY_STAT 9 8 = 1 then s1.setFld CVY_STAT 9 8 0 else s1
    { s2.setBit CVY_STAT 10 (decide (samples.sum.natAbs ≤ 786)) with cvy := { s2.cvy with step := none } }

/-- A SOUND_ECHO has arrived, `frac` past the present clock. -/
def onSoundEcho (west : Bool) (frac : Nat) (f : List Byte) (s : State) : State :=
  let p := s.port west
  let t1 := frameArg f 0 8
  if p.t1 ≠ some t1 then s
  else
    let gone := signed 64 (frameArg f 8 8 + 2 ^ 64 - t1)
    let back := signed 64 (s.convoyTime + frac % 65536 + 2 ^ 64 - frameTime f)
    let samples := p.samples ++ [gone - back]
    let s1 := s.setPort west { p with t1 := none, samples := if samples.length ≥ 16 then [] else samples }
    if samples.length ≥ 16 ∧ s.seated ∧ !s.isMaster ∧ s.cvy.upstream = some west then s1.offsetFound samples else s1

/-- The module is idle, so that it can take a new position or a new time (R365). -/
def State.idle (s : State) : Bool :=
  !((List.range 64).any s.ctxActive) && !(s.tdcs.any fun e => [1, 2, 4].contains (s.tdcState e.1))
    && !(s.acqs.any fun e => 1 ≤ s.acqState e.1 && s.acqState e.1 ≤ 4) && !(s.wfss.any fun e => s.wfsState e.1 == 1)

/-- A module that is RESEAT_PENDING takes its position at a tick at which it is idle. -/
def State.reseatTick (s : State) : State :=
  match s.cvy.reseat with
  | some (pos, _) =>
    if s.cvyState == 3 && s.idle then
      { (s.setFld CVY_STAT 15 13 1).setFld CVY_STAT 5 0 pos with cvy := { s.cvy with
        reseat := none, members := (pos, s.serial) :: s.cvy.members.filter fun m => m.2 ≠ s.serial } }
    else s
  | none => s

/-! Triggers and fail broadcasts (R367, R368). -/

/-- Clocks from the present clock to a clock count of convoy time, negative for one that has passed. -/
def State.until (s : State) (c : Nat) : Int := signed 48 (c + clockSpan - s.time.clock.toNat)

/-- A TRIGGER frame is accepted. -/
def onTrigger (f : List Byte) (s : State) : State :=
  if !s.seated then s
  else
    let due := (frameTime f / 65536 + s.rdN CVY_TRIG_DLY) % clockSpan
    if s.until due < 0 then ((s.busRaise (frameArg f 0 1) none).inc CVY_TRIG_LATE).evt CVY_EVT 4
    else { s with cvy := { s.cvy with triggers := s.cvy.triggers ++ [⟨frameArg f 0 1, due⟩] } }

/-- The remote trigger that is due first is raised at its delivery time. -/
def triggerDelivery (s : State) : State :=
  match sortBy (fun a b => decide (s.until a.time ≤ s.until b.time)) s.cvy.triggers with
  | [] => s
  | g :: rest =>
    s.atDue (s.time.up + (s.until g.time).toNat) fun t => ({ t with cvy := { t.cvy with triggers := rest } }).busRaise g.event none

/-- A FAIL frame is accepted. -/
def onFail (f : List Byte) (s : State) : State :=
  let s1 := ((s.wrN CVY_FAIL_SRC (frameSrc f)).wrN CVY_FAIL_GRP (frameArg f 0 2)).wrN CVY_FAIL_CAUSE (frameArg f 2 1 * 256)
  let s2 := (s1.inc CVY_FAIL_CNT).evt CVY_EVT 5
  if s2.bit CVY_CFG 15 then s2.groupTrip (s2.fld CVY_CFG 8 0) 2 0 else s2

/-! Rendezvous (R369 to R371). -/

/-- A RENDEZVOUS frame is accepted; later occurrences are kept for up to four. -/
def onRendezvous (f : List Byte) (s : State) : State :=
  let label := frameArg f 0 4
  let a : Arrival := ⟨label, frameSrc f, frameArg f 6 2, frameTime f⟩
  let done := ((s.cvy.counts.filter fun e => e.2.1 == label).map (·.2.2)).max?.getD 0
  if a.occurrence ≥ done + 4 ∨ s.cvy.arrivals.contains a then s
  else { s with cvy := { s.cvy with arrivals := s.cvy.arrivals ++ [a] } }

/-- The first tick at or after a clock count, counted past the wrap of the clock where it lies beyond it. -/
def tickFrom (c : Nat) : Nat :=
  if c ≤ clockSpan then min clockSpan ((c + 3071) / 3072 * 3072) else clockSpan + (c - clockSpan + 3071) / 3072 * 3072

/-- The latest arrival at a rendezvous that every participant has reached. -/
def State.rdvLatest (s : State) (w : RdvWait) : Option Nat :=
  let here := s.cvy.arrivals.filter fun a => a.label == w.label && a.occurrence == w.occurrence
  let want := (List.range 64).filter (s.wide (CVY_RDV_PART w.entry) 4).testBit
  if want.all fun p => here.any fun a => a.src == p then (here.filter fun a => want.contains a.src).map (·.time) |>.max? else none

/-- A rendezvous is complete: the caravan resumes generation at T − D, or as soon as it can. -/
def rendezvousRelease (c : Nat) (s : State) : State :=
  let x := s.ctx c
  match x.rdv, x.paths.findIdx? fun p => p.need.isEmpty && p.halt ≠ .none with
  | some w, some n =>
    match s.rdvLatest w, x.paths[n]? with
    | some latest, some p =>
      if p.halt ≠ .rendezvous w.entry w.occurrence then s
      else
        let t := tickFrom (latest / 65536 + s.fld (CVY_RDV_TIME w.entry) 7 0 * 3072)
        let from_ := (s.time.up : Int) + s.until (t % clockSpan) - x.delay
        let now := max s.nowHalf p.time
        let late := 2 * from_ < now
        let p1 := { p with halt := .none, cause := 0, time := if late then now else (2 * from_).toNat }
        let s1 := s.setCtx c { x with rdv := none, paths := x.paths.set n p1 }
        let s2 : State := { s1 with cvy := { s1.cvy with
          arrivals := s1.cvy.arrivals.filter fun a => !(a.label == w.label && a.occurrence == w.occurrence) } }
        let s3 := if late then (s2.inc CVY_RDV_LATE).evt CVY_EVT 6 else s2
        s3.log 0x0022 (t % clockSpan * 65536) (leBytes 1 c ++ leBytes 1 w.entry ++ leBytes 2 w.occurrence ++ leBytes 4 w.label ++ leBytes 8 latest)
    | _, _ => s
  | _, _ => s

/-- A rendezvous does not complete within its TIMEOUT. -/
def rendezvousTimeout (c : Nat) (s : State) : State :=
  match (s.ctx c).rdv with
  | some w =>
    let n := s.fld (CVY_RDV_TIME w.entry) 15 8
    if n = 0 then s
    else s.atDue (w.since + n * 196608) fun t => endRun c 0x1602 (t.setCtx c { t.ctx c with rdv := none })
  | none => s

/-! The rows. -/

/-- PORT_UP (R357): the port comes up once its lanes, which have received `x.lanes`, are locked and aligned and its beacons have come. -/
def execPortUp (x : PortSeen) (s : State) : Host.Outcome State Fault Refusal :=
  .next (let s1 := s.lanesSee x.west x.lanes
    if s1.lanesUp x.west then portUpNow x.west s1 else portDownNow x.west s1)

/-- PORT_DOWN (R357): the lanes have received `x.lanes`; the port goes down where one of them loses its lock or alignment. -/
def execPortDown (x : PortSeen) (s : State) : Host.Outcome State Fault Refusal :=
  .next (lanesFollow x.west (s.lanesSee x.west x.lanes))

/-- BEACON (R357). -/
def execBeaconFrame (west : Bool) (lanes : List (List Nat)) (s : State) : Host.Outcome State Fault Refusal :=
  .next (s.onFrame west 1 lanes (onBeacon west))

/-- HELLO (R360). -/
def execHelloFrame (west : Bool) (lanes : List (List Nat)) (s : State) : Host.Outcome State Fault Refusal :=
  .next (s.onFrame west 2 lanes fun f t => t.acceptFrame west f (onHello f))

/-- TRIGGER_FRAME (R367). -/
def execTriggerFrame (west : Bool) (lanes : List (List Nat)) (s : State) : Host.Outcome State Fault Refusal :=
  .next (s.onFrame west 3 lanes fun f t => t.acceptFrame west f (onTrigger f))

/-- RENDEZVOUS (R370). -/
def execRendezvousFrame (west : Bool) (lanes : List (List Nat)) (s : State) : Host.Outcome State Fault Refusal :=
  .next (s.onFrame west 4 lanes fun f t => t.acceptFrame west f (onRendezvous f))

/-- FAIL (R368). -/
def execFailFrame (west : Bool) (lanes : List (List Nat)) (s : State) : Host.Outcome State Fault Refusal :=
  .next (s.onFrame west 5 lanes fun f t => t.acceptFrame west f (onFail f))

/-- SOUND_REQ (R364). -/
def execSoundReq (west : Bool) (lanes : List (List Nat)) (frac dep : Nat) (s : State) : Host.Outcome State Fault Refusal :=
  .next (s.onFrame west 6 lanes (onSoundReq west frac dep))

/-- SOUND_ECHO (R364). -/
def execSoundEcho (west : Bool) (lanes : List (List Nat)) (frac : Nat) (s : State) : Host.Outcome State Fault Refusal :=
  .next (s.onFrame west 7 lanes (onSoundEcho west frac))

/-- FRAME_DISCARD (R358). -/
def execFrameDiscard (west : Bool) (s : State) : Host.Outcome State Fault Refusal := .next (s.frameBad west)

/-- CONVOY_FORMED (R360). -/
def execConvoyFormed (s : State) : Host.Outcome State Fault Refusal := .next (convoyFormed s)

/-- MASTER_CHANGE (R361). -/
def execMasterChange (reach : List Nat) (s : State) : Host.Outcome State Fault Refusal := .next (masterChange reach s)

/-- POSITION_FREED (R362). -/
def execPositionFreed (pos : Nat) (s : State) : Host.Outcome State Fault Refusal := .next (positionFreed pos s)

/-- LINK_SOUNDING (R364). -/
def execLinkSounding (west : Bool) (frac : Nat) (s : State) : Host.Outcome State Fault Refusal := .next (linkSounding west frac s)

/-- REMOTE_TRIGGER_DELIVERY (R367). -/
def execRemoteTriggerDelivery (s : State) : Host.Outcome State Fault Refusal := .next (triggerDelivery s)

/-- RENDEZVOUS_RELEASE (R370). -/
def execRendezvousRelease (c : Nat) (s : State) : Host.Outcome State Fault Refusal := .next (rendezvousRelease c s)

/-- RENDEZVOUS_TIMEOUT (R371). -/
def execRendezvousTimeout (c : Nat) (s : State) : Host.Outcome State Fault Refusal := .next (rendezvousTimeout c s)

end Sys2Proof.Machine
end

