-- ==== Sys2Proof/Machine/Tolls.lean ====
section
/-!
DEFINITION. Machine/Tolls.lean: tolls, toll classes and counters, and the TOL registers (R393 to R396, R404).
notes/assumptions/39.md.
-/

namespace Sys2Proof.Machine

/-! A command entry (Table 12.3). -/

def entOp (e : List Byte) : Nat := leAt e 0 2
def entTag (e : List Byte) : Nat := leAt e 2 2
def entFlags (e : List Byte) : Nat := leAt e 4 2
def entFence (e : List Byte) : Bool := (entFlags e).testBit 0
def entTolled (e : List Byte) : Bool := (entFlags e).testBit 1
/-- `n` bytes of PARAMS from offset `o`. -/
def param (e : List Byte) (o n : Nat) : Nat := leAt e (16 + o) n
/-- PARAMS bytes `o` up to `o + n - 1` are zero. -/
def paramZero (e : List Byte) (o n : Nat) : Bool := allZero (slice e (16 + o) n)
def entSlot (e : List Byte) : Nat := leAt e 96 1
def entCount (e : List Byte) : Nat := leAt e 104 8
def entMac (e : List Byte) : List Byte := slice e 112 16

/-! The TOL registers show the gate's state (Table 14.12). -/

/-- The slots that hold a key. -/
def State.keySlots (s : State) : List Nat := (List.range 8).filter fun k => (s.toll k).key.isSome

/-- TOL_STAT and TOL_OWNER_CNT. -/
def State.showTrust (s : State) : State :=
  let v := s.nv.owner.isSome.toNat * 32768 + s.nv.ownerLock.toNat * 16384 + s.nv.requireSigned.toNat * 8192
    + s.nv.castKey.isSome.toNat * 4096 + (s.keySlots.map fun k => 2 ^ k).sum
  (s.wrN TOL_STAT v).setWide TOL_OWNER_CNT 4 s.nv.ownerCount

/-! Classes (Table 14.8). -/

/-- The class of a tolled register. -/
def tollClassOf (a : Nat) : Option Nat :=
  if (regAt a).any fun r => accMask .rwt r.1 ≠ 0 then
    some (if a < 0x5000 then 8 else if a < 0x6000 then 5 else if a < 0xC000 then 6 else 7)
  else none

/-- The classes of a tolled command; none for an untolled opcode. A REG_WRITE_T has those of its targets. -/
def tollClasses (e : List Byte) : Option (List Nat) :=
  match entOp e with
  | 0x0001 => some [0]
  | 0x0002 => some [0]
  | 0x0020 => some ((List.range (min 8 (param e 0 1))).filterMap fun i => tollClassOf (param e (8 + 8 * i) 4))
  | 0x0030 => some [4]
  | 0x0042 => some [3]
  | 0x0043 => some [3]
  | 0x0044 => some [3]
  | 0x0045 => some [2]
  | 0x0048 => some [1]
  | 0x0049 => some [1]
  | 0x004A => some [1]
  | _ => none

/-! The check (R394 to R396). -/

/-- The message that TOLL_MAC covers, and the MAC of a key over it. -/
def State.tollMessage (s : State) (e : List Byte) : List Byte :=
  leBytes 8 s.serial ++ leBytes 1 (entSlot e) ++ leBytes 8 (entCount e) ++ e.take 96
def State.tollMac (s : State) (key : List Byte) (e : List Byte) : List Byte := (hmacSha512 key (s.tollMessage e)).take 16

/-- The first failure of a toll in the order of R395; none where it passes. -/
def State.tollCode (s : State) (e : List Byte) (classes : List Nat) : Option Nat :=
  let k := entSlot e
  let x := s.toll k
  match x.key with
  | none => some 0x1710
  | some key =>
    if k > 7 then some 0x1710
    else if x.lockUntil.any fun d => s.time.up < d then some 0x1711
    else if classes.any fun c => !x.mask.testBit c then some 0x1712
    else if s.tollMac key e ≠ entMac e then some 0x1713
    else if entCount e ≤ x.count then some 0x1714
    else none

/-- The zero toll of class KEYS or LOCK passes while no slot holds a key. -/
def State.tollFree (s : State) (e : List Byte) (classes : List Nat) : Bool :=
  s.keySlots.isEmpty && classes.all (fun c => c == 2 || c == 3) && !classes.isEmpty
    && allZero (Sys2Proof.slice e 96 1) && allZero (Sys2Proof.slice e 104 24)

/-- A toll is refused: the registers, and the count of MAC failures in a row, the sixteenth of which locks the slot out for 1 s. -/
def State.tollRefuse (s : State) (k code : Nat) : State :=
  let s1 := ((s.inc TOL_FAIL_CNT).evt TOL_EVT 0).wrN TOL_CODE code
  let x := s1.toll k
  if code = 0x1713 then
    if x.fails + 1 ≥ 16 then (s1.setToll k { x with fails := 0, lockUntil := some (s.time.up + 3000000000) }).evt TOL_EVT 2
    else s1.setToll k { x with fails := x.fails + 1 }
  else if k < 8 then s1.setToll k { x with fails := 0 }
  else s1

/-- The toll of an entry is checked: its refusal, and the state with the counter written. No counter is written while no
transaction may begin (R437). -/
def State.tollCheck (s : State) (e : List Byte) : Option Nat × State :=
  match tollClasses e with
  | none => (none, s)
  | some classes =>
    if s.tollFree e classes then (s.nvCode, s)
    else match s.tollCode e classes with
      | some c => (some c, s.tollRefuse (entSlot e) c)
      | none => match s.nvCode with
        | some c => (some c, s)
        | none => (none, s.setToll (entSlot e) { s.toll (entSlot e) with count := entCount e, fails := 0 })

/-- TOLL_LOCKOUT_EXPIRY (R396). -/
def execTollLockoutExpiry (k : Nat) (s : State) : Host.Outcome State Fault Refusal :=
  .next (match (s.toll k).lockUntil with
    | some d => s.atDue d fun t => t.setToll k { t.toll k with lockUntil := none }
    | none => s)

end Sys2Proof.Machine
end

