-- ==== Sys2Proof/Machine/Ring.lean ====
section
/-!
DEFINITION. Machine/Ring.lean: the command and completion rings, interrupts and resets of the host attachment (R334 to R341, R348
to R350). notes/assumptions/42.md.
-/

namespace Sys2Proof.Machine

/-! Consumption (R334, R336, R337). -/

/-- The opcodes of Table 12.5. -/
def opcodes : List Nat :=
  [0x0001, 0x0002, 0x0003, 0x0010, 0x0011, 0x0020, 0x0030, 0x0040, 0x0041, 0x0042, 0x0043, 0x0044, 0x0045, 0x0046, 0x0047, 0x0048,
    0x0049, 0x004A, 0x0101, 0x0102, 0x0103, 0x0104, 0x0105, 0x0106, 0x0110, 0x0111, 0x0112, 0x0118, 0x0119, 0x011A, 0x011B] ++
  [0x0120, 0x0121, 0x0122, 0x0128, 0x0129, 0x012A, 0x0130, 0x0131, 0x0132, 0x0138, 0x0139, 0x013A, 0x013B, 0x0140, 0x0141, 0x0142,
    0x0143, 0x0144]

/-- Entries that the command ring holds. -/
def State.ringHeld (s : State) : Nat := (s.rdN HST_CMD_PROD + 65536 - s.rdN HST_CMD_CONS) % 65536

/-- The module reads its next entry, which is `e`. -/
def State.canConsume (s : State) (e : List Byte) : Bool :=
  s.bit HST_CTL 0 && (s.bit SYS_STAT 15 || s.start.phase == 3) && s.ringHeld ≠ 0 && s.host.waiting.length ≤ 4096 && !s.yardDown
    && (!entFence e || s.host.running.isEmpty)

/-- The index words at HST_IDX_ADDR. -/
def State.indexWords (s : State) : State :=
  s.hostWrite (s.wide HST_IDX_ADDR 4) (leBytes 2 (s.rdN HST_CPL_PROD) ++ leBytes 2 (s.rdN HST_CMD_CONS))

/-- An entry is consumed. -/
def State.takeEntry (s : State) : State := (s.wrN HST_CMD_CONS (s.rdN HST_CMD_CONS + 1)).indexWords

/-- Steps 1 to 3 of R336. -/
def State.entryCode (s : State) (e : List Byte) : Option Nat :=
  if !opcodes.contains (entOp e) then some 0x1501
  else if !allZero (Sys2Proof.slice e 6 10) || !allZero (Sys2Proof.slice e 97 7) || entFlags e ≥ 4
      || entTolled e ≠ (tollClasses e).isSome then some 0x1502
  else if s.host.inflight.contains (entTag e) then some 0x1503
  else none

/-- A completion waits for an entry that was refused. -/
def State.refuseEntry (s : State) (e : List Byte) (code : Nat) : State :=
  let c : Cpl := ⟨1, if code = 0x1503 then 1 else 0, entTag e, entOp e, code, 0, 0, 0, s.convoyTime, false⟩
  { s with host := { s.host with waiting := s.host.waiting ++ [c] } }.evt HST_EVT 2

/-- An accepted command's tag is in flight. -/
def State.acceptEntry (s : State) (e : List Byte) : State :=
  { s with host := { s.host with inflight := entTag e :: s.host.inflight, running := entTag e :: s.host.running } }

/-- In recovery FW_UPDATE alone is accepted (R415, R419); the code of the refusal is not stated. -/
def State.recoveryRefuses (s : State) (op : Nat) : Bool := s.start.phase == 3 && op ≠ 0x0048

/-- The head of the command ring, entry `e` of opcode `op`, is consumed. `own` are the opcode's own checks, `note` what a refusal by
them shows beside its completion, and `go` the command as it begins. -/
def ringCommand (op : Nat) (e : List Byte) (own : State → Option Nat) (note : Nat → State → State) (go : Nat → State → State)
    (s : State) : State :=
  if entOp e ≠ op || !s.canConsume e then s
  else
    let s1 := s.takeEntry
    match s1.entryCode e with
    | some c => s1.refuseEntry e c
    | none =>
      if s1.recoveryRefuses op then let r := s1.free; r.2.refuseEntry e (r.1 % 65536)
      else
        let r := s1.tollCheck e
        match r.1 with
        | some c => r.2.refuseEntry e c
        | none => match own r.2 with
          | some c => (note c r.2).refuseEntry e c
          | none => go (entTag e) (r.2.acceptEntry e)

/-- An entry whose opcode is not in Table 12.5. -/
def unknownEntry (e : List Byte) (s : State) : State :=
  if opcodes.contains (entOp e) || !s.canConsume e then s else s.takeEntry.refuseEntry e 0x1501

/-- The head of the ring fails its waybill check twice (Table 14.2); its tag, as far as known, is `tag`. -/
def ringHeadLost (tag : Nat) (s : State) : State :=
  let e := leBytes 2 0 ++ leBytes 2 tag
  if !s.canConsume e then s
  else
    let r := s.free
    let c : Cpl := ⟨1, 0, tag, r.1 % 65536, 0x1701, 0, 0, 0, s.convoyTime, false⟩
    let s1 := r.2.takeEntry
    { s1 with host := { s1.host with waiting := s1.host.waiting ++ [c] } }.evt HST_EVT 2

/-! Completions (R338 to R340). -/

/-- log2 of the entries of a ring. -/
def ringSize (v : Nat) : Nat := max 6 v

/-- A completion ring entry (Table 12.4). -/
def Cpl.bytes (c : Cpl) (afterLoss : Bool) : List Byte :=
  leBytes 1 c.kind ++ leBytes 1 (c.flags + 2 * afterLoss.toNat) ++ leBytes 2 c.tag ++ leBytes 2 c.opcode ++ leBytes 2 c.code
    ++ leBytes 4 c.d0 ++ leBytes 4 c.d1 ++ leBytes 4 c.d2 ++ leBytes 4 0 ++ leBytes 8 c.time

/-- MSI-X vector 0 is signalled. -/
def State.irqCompletions (s : State) : State := { s with host := { s.host with irq0 := s.host.irq0 + 1, unsignalled := 0 } }

/-- One more entry of the completion ring is unsignalled. -/
def State.moderate (s : State) : State :=
  let n := s.host.unsignalled + 1
  let s1 := { s with host := { s.host with unsignalled := n, firstUp := if n = 1 then s.time.up else s.host.firstUp } }
  if n ≥ max 1 (s.fld HST_IRQ_MOD 15 10) then s1.irqCompletions else s1

/-- The completion ring takes one more entry. -/
def State.cplRoom (s : State) : Bool :=
  s.bit HST_CTL 1 && (s.rdN HST_CPL_PROD + 65536 - s.rdN HST_CPL_CONS) % 65536 < 2 ^ ringSize (s.fld HST_CPL_SIZE 3 0)

/-- The oldest completion or notification is written. -/
def completionWrite (s : State) : State :=
  match s.host.waiting with
  | [] => s
  | c :: rest =>
    if !s.cplRoom then s
    else
      let at_ := s.wide HST_CPL_BASE 4 + 32 * (s.rdN HST_CPL_PROD % 2 ^ ringSize (s.fld HST_CPL_SIZE 3 0))
      let s1 := s.hostWrite at_ (c.bytes s.host.afterLoss)
      let s2 := { s1 with host := { s1.host with
        waiting := rest, afterLoss := false, inflight := if c.holds then s1.host.inflight.erase c.tag else s1.host.inflight } }
      ((s2.wrN HST_CPL_PROD (s2.rdN HST_CPL_PROD + 1)).indexWords).moderate

/-- The moderation interval has passed since the first unsignalled entry; 1 µs is 3,000 clocks. -/
def irqExpiry (s : State) : State :=
  if s.host.unsignalled = 0 then s
  else s.atDue (s.host.firstUp + 3000 * s.fld HST_IRQ_MOD 9 0) State.irqCompletions

/-! Resets and re-attach (R348 to R350). -/

/-- HST_RING_CTL.RESET. -/
def ringReset (s : State) : State :=
  if s.bit HST_CTL 0 || s.bit HST_CTL 1 then s.refuse HST_RING_CTL 0x1509
  else
    let n := s.host.waiting.length
    let gone := (s.host.waiting.filter fun c => c.holds).map (·.tag)
    let s1 := [HST_CMD_PROD, HST_CMD_CONS, HST_CPL_PROD, HST_CPL_CONS].foldl (fun t a => t.wrN a 0) s
    let s2 := { s1 with host := { s1.host with
      waiting := [], afterLoss := true, inflight := s1.host.inflight.filter fun t => !gone.contains t } }
    if n = 0 then s2 else (s2.incBy HST_CPL_LOST n).evt HST_EVT 4

/-- A HOST_LINK entry of the run log. -/
def State.linkLog (s : State) (up width speed cause : Nat) : State :=
  s.log 0x0020 s.convoyTime (leBytes 1 up ++ leBytes 1 width ++ leBytes 1 speed ++ leBytes 1 cause)

/-- The host attachment is reset: link down, hot reset, Function Level Reset or CXL Reset. -/
def attachmentReset (cause : Nat) (s : State) : State :=
  let s1 := (s.wr HST_CTL (s.rd HST_CTL &&& ~~~(3#16))).setFld HST_STAT 15 10 0
  (s1.evt HST_EVT 0).linkLog 0 0 0 (cause % 4)

/-- The link reaches L0. -/
def linkUp (width speed : Nat) (ide : Bool) (s : State) : State :=
  let s1 := ((((s.setBit HST_STAT 15 true).setFld HST_STAT 14 13 width).setFld HST_STAT 12 11 speed).setBit HST_STAT 10 ide).evt HST_EVT 1
  s1.linkLog 1 (width % 4) (speed % 4) 0

/-! The rows. -/

/-- UNKNOWN_OPCODE (R336). -/
def execUnknownOpcode (entry : List Byte) (s : State) : Host.Outcome State Fault Refusal := .next (unknownEntry (padTo 128 entry) s)

/-- COMPLETION_WRITE (R338). -/
def execCompletionWrite (s : State) : Host.Outcome State Fault Refusal := .next (completionWrite s)

/-- IRQ_MODERATION_EXPIRY (R340). -/
def execIrqModerationExpiry (s : State) : Host.Outcome State Fault Refusal := .next (irqExpiry s)

/-- RING_RESET (R350). -/
def execRingReset (s : State) : Host.Outcome State Fault Refusal := .next (ringReset s)

/-- HOST_ATTACHMENT_RESET (R348). -/
def execHostAttachmentReset (cause : Nat) (s : State) : Host.Outcome State Fault Refusal := .next (attachmentReset cause s)

/-- LINK_UP (R350). -/
def execLinkUp (width speed : Nat) (ide : Bool) (s : State) : Host.Outcome State Fault Refusal := .next (linkUp width speed ide s)

end Sys2Proof.Machine
end

