-- ==== Sys2Proof/Machine/Trust.lean ====
section
/-!
DEFINITION. Machine/Trust.lean: identity, attestation and the owner (R389 to R392). notes/assumptions/39.md.
-/

namespace Sys2Proof.Machine

/-! Authorization blocks (R391, Table 14.6). `k` is the key that must verify. -/

/-- A byte string holds `n` zeros from place `o`. -/
def zeroAt (l : List Byte) (o n : Nat) : Bool := allZero (Sys2Proof.slice l o n)

/-- A reserved byte or bit of a block's payload is nonzero (Table 14.7). -/
def payloadBad (op : Nat) (p : List Byte) : Bool :=
  match op with
  | 0x0040 => !zeroAt p 32 136
  | 0x0042 => leAt p 0 1 > 7 || !zeroAt p 1 7 || leAt p 8 2 ≥ 512 || !zeroAt p 10 6 || !zeroAt p 80 88
  | 0x0043 => leAt p 0 1 > 7 || !zeroAt p 1 167
  | 0x0044 => !zeroAt p 32 136
  | 0x0045 => leAt p 0 1 ≥ 4 || !zeroAt p 1 167
  | _ => !allZero p

def authPayload (b : List Byte) : List Byte := Sys2Proof.slice b 24 168
def authCounter (b : List Byte) : Nat := leAt b 16 8

/-- The refusal of a block that was read. -/
def State.authCode (s : State) (op : Nat) (b : List Byte) : Option Nat :=
  let key := if op = 0x0040 then (authPayload b).take 32 else s.nv.owner.getD []
  if b.take 4 ≠ [0x5A#8, 0x56#8, 0x41#8, 0x55#8] || leAt b 4 2 ≠ op || leAt b 8 8 ≠ s.serial || leAt b 6 2 ≠ 0
      || payloadBad op (authPayload b) || !edVerify key (b.take 192) (Sys2Proof.slice b 192 64) then some 0x1722
  else if op ≠ 0x0040 && authCounter b ≤ s.nv.ownerCount then some 0x1723
  else none

/-- The checks of a trust command that carries a block, after the toll. -/
def State.ownerCode (s : State) (op : Nat) (e : List Byte) (block : Option (List Byte)) : Option Nat :=
  if !paramZero e 8 72 then some 0x1502
  else if op ≠ 0x0040 && s.nv.owner.isNone then some 0x1720
  else if op = 0x0040 && s.nv.owner.isSome then some 0x1721
  else if op = 0x0041 && s.nv.ownerLock then some 0x1724
  else if op = 0x0042 && !s.bit HST_STAT 10 then some 0x1725
  else if op = 0x0045 && s.fw.isSome then some 0x1801
  else match block with
    | none => some 0x1508
    | some b => match s.authCode op (padTo 256 b) with
      | some c => some c
      | none => s.nvCode

/-- What a refusal shows in TOL_CODE. -/
def tollNote (c : Nat) (s : State) : State := if 0x1700 ≤ c ∧ c < 0x1740 then s.wrN TOL_CODE c else s

/-- What the gate's memory takes from an accepted block. -/
def ownerAction (op : Nat) (p : List Byte) (n : NvMem) : NvMem :=
  let k := leAt p 0 1
  let x := tabGet (fun _ => TollSlot.init) n.tolls k
  let put := fun v => { n with tolls := tabSet (fun _ => TollSlot.init) n.tolls k v }
  match op with
  | 0x0040 => { n with owner := some (p.take 32) }
  | 0x0041 => { n with owner := none, tolls := [], castKey := none, requireSigned := false, ownerLock := false }
  | 0x0042 => put { x with key := some (Sys2Proof.slice p 16 64), mask := leAt p 8 2, count := 0 }
  | 0x0043 => put { x with key := none, mask := 0, count := 0 }
  | 0x0044 => { n with castKey := if allZero (p.take 32) then none else some (p.take 32) }
  | 0x0045 => { n with requireSigned := (leAt p 0 1).testBit 0, ownerLock := (leAt p 0 1).testBit 1 }
  | _ => n

/-- An accepted trust command begins and completes. -/
def ownerDone (op : Nat) (block : Option (List Byte)) (tag : Nat) (s : State) : State :=
  let b := padTo 256 (block.getD [])
  let s1 := { s with nv := { ownerAction op (authPayload b) s.nv with ownerCount := authCounter b } }
  let s2 := if op = 0x0040 ∨ op = 0x0041 then s1.evt TOL_EVT 3 else s1
  s2.showTrust.complete tag op 0 0 0 0

/-- A trust command that carries a block. -/
def ownerCommand (op : Nat) (e : List Byte) (block : Option (List Byte)) (s : State) : State :=
  ringCommand op (padTo 128 e) (fun t => t.ownerCode op (padTo 128 e) block) tollNote (ownerDone op block) s

/-! Identity and attestation (R389, R390). -/

/-- A component of the image in a slot (R407). -/
def FwSlot.component (x : FwSlot) (i : Nat) : Nat × Nat := (leAt x.header (0x64 + 16 * i) 4, leAt x.header (0x68 + 16 * i) 4)
/-- The gate component and the yard bundle. -/
def FwSlot.gate (x : FwSlot) : List Byte := Sys2Proof.slice x.body (x.component 0).1 (x.component 0).2
def FwSlot.bundle (x : FwSlot) : List Byte :=
  Sys2Proof.slice x.body (x.component 1).1 ((x.component 4).1 + (x.component 4).2 - (x.component 1).1)

/-- The units of a module's calibration, as records number them. -/
def allUnits : List Nat := List.range 2472

/-- The calibration record in force, if it checks. -/
def State.recordInForce (s : State) : Option (List Byte) := s.nv.calRecord.filter s.recordOk

/-- Bytes 0 to 351 of an attestation report (Table 14.5). -/
def State.report (s : State) (nonce : List Byte) : List Byte :=
  let fi := fiRegs.any fun a => s.bit a 15
  let flags := s.nv.owner.isSome.toNat + 2 * s.nv.ownerLock.toNat + 4 * s.nv.requireSigned.toNat
    + 8 * ((List.range 8).any fun k => s.rd (TDC_FRZ k) ≠ 0).toNat + 16 * fi.toNat + 32 * s.cal.loaded.toNat
  let x := s.fwSlot s.nv.runningB
  let rec_ := s.recordInForce
  let crc := (rec_.map fun r => leAt r (32 + leAt r 28 4) 4).getD 0
  let time := (rec_.map fun r => leAt r 16 8).getD 0
  let uncal := ((List.range 2176).filter fun ch => s.bit (TDC_STAT ch) 11).length
  let drift := (allUnits.filter fun u => s.bit (CAL_STAT (calBlock u)) 11).length
  let never := (allUnits.filter fun u => s.wide (CAL_CNT (calBlock u)) 2 == 0).length
  [0x5A#8, 0x56#8, 0x41#8, 0x54#8] ++ leBytes 2 1 ++ leBytes 2 flags ++ leBytes 8 s.serial ++ leBytes 8 s.convoyTime ++ padTo 32 nonce
    ++ padTo 64 (sha512 x.gate) ++ padTo 64 (sha512 x.bundle) ++ leBytes 1 s.nv.runningB.toNat ++ leBytes 3 0 ++ leBytes 4 s.nv.floor
    ++ padTo 64 s.cast.identity ++ leBytes 2 (s.rdN CST_GEN) ++ leBytes 2 0 ++ leBytes 4 crc ++ leBytes 8 time ++ leBytes 2 uncal
    ++ leBytes 2 drift ++ leBytes 2 never ++ leBytes 2 0 ++ padTo 64 ((s.nv.owner.map sha512).getD []) ++ leBytes 8 0

/-- ATTEST runs. -/
def attestRun (e : List Byte) (tag : Nat) (s : State) : State :=
  let r := s.report (Sys2Proof.slice e 16 32)
  (s.hostWrite (param e 32 8) (r ++ padTo 64 (edSign Config.identityKey r))).complete tag 0x0046 0 0 0 0

/-- IDENTITY_READ runs. -/
def identityRun (e : List Byte) (tag : Nat) (s : State) : State :=
  let cert := fun (c : List Byte) => leBytes 4 c.length ++ c
  (s.hostWrite (param e 0 8) (cert Config.deviceCertificate ++ cert Config.authorityCertificate)).complete tag 0x0047 0 0 0 0

/-! The rows. -/

/-- OWNER_CLAIM (R391). -/
def execOwnerClaim (entry : List Byte) (block : Option (List Byte)) (s : State) : Host.Outcome State Fault Refusal :=
  .next (ownerCommand 0x0040 entry block s)

/-- OWNER_RELEASE (R391). -/
def execOwnerRelease (entry : List Byte) (block : Option (List Byte)) (s : State) : Host.Outcome State Fault Refusal :=
  .next (ownerCommand 0x0041 entry block s)

/-- KEY_SET (R391, R392). -/
def execKeySet (entry : List Byte) (block : Option (List Byte)) (s : State) : Host.Outcome State Fault Refusal :=
  .next (ownerCommand 0x0042 entry block s)

/-- KEY_ERASE (R391). -/
def execKeyErase (entry : List Byte) (block : Option (List Byte)) (s : State) : Host.Outcome State Fault Refusal :=
  .next (ownerCommand 0x0043 entry block s)

/-- CAST_KEY_SET (R391). -/
def execCastKeySet (entry : List Byte) (block : Option (List Byte)) (s : State) : Host.Outcome State Fault Refusal :=
  .next (ownerCommand 0x0044 entry block s)

/-- OWNER_POLICY (R391, R413). -/
def execOwnerPolicy (entry : List Byte) (block : Option (List Byte)) (s : State) : Host.Outcome State Fault Refusal :=
  .next (ownerCommand 0x0045 entry block s)

/-- ATTEST (R390). -/
def execAttest (entry : List Byte) (s : State) : Host.Outcome State Fault Refusal :=
  let e := padTo 128 entry
  .next (ringCommand 0x0046 e (fun _ => if paramZero e 40 40 then none else some 0x1502) tollNote (attestRun e) s)

/-- IDENTITY_READ (R389). -/
def execIdentityRead (entry : List Byte) (s : State) : Host.Outcome State Fault Refusal :=
  let e := padTo 128 entry
  .next (ringCommand 0x0047 e (fun _ => if paramZero e 8 72 then none else some 0x1502) tollNote (identityRun e) s)

end Sys2Proof.Machine
end

