-- ==== Sys2Proof/Machine/Firmware.lean ====
section
/-!
DEFINITION. Machine/Firmware.lean: firmware images, their update, trial and confirmation (R405 to R418).
notes/assumptions/40.md.
-/

namespace Sys2Proof.Machine

/-! The header (Tables 15.1 to 15.3). -/

def fwVersion (h : List Byte) : Nat := leAt h 0x0C 4
def fwRollback (h : List Byte) : Nat := leAt h 0x10 4
def fwSchema (h : List Byte) : Nat := leAt h 0x14 2
def fwKey (h : List Byte) : Nat := leAt h 0x16 1
def fwRevoke (h : List Byte) : Nat := leAt h 0x17 1
def fwBodyLen (h : List Byte) : Nat := leAt h 0x18 4

/-- A byte of a component entry. -/
def compField (h : List Byte) (i o n : Nat) : Nat := leAt h (0x60 + 16 * i + o) n

/-- The component entries follow R407 and no reserved field is nonzero. -/
def componentsOk (h : List Byte) : Bool :=
  leAt h 0x1C 1 == 5 && leAt h 0x1D 3 == 0 && allZero (slice h 0xB0 3856) && fwRevoke h < 16 &&
    ((List.range 5).all fun i =>
      let off := compField h i 4 4
      let len := compField h i 8 4
      compField h i 0 1 == i + 1 && compField h i 1 3 == 0 && compField h i 12 4 == 0 && off % 4096 == 0 && 1 ≤ len
        && off + len ≤ fwBodyLen h && (i == 0 || compField h (i - 1) 4 4 + compField h (i - 1) 8 4 ≤ off))

/-- Rows 8 to 16 of Table 15.3: the first that fails. `len` are the bytes available. -/
def headerFault (floor revoked len : Nat) (h : List Byte) : Option Nat :=
  if h.take 4 ≠ [0x5A#8, 0x56#8, 0x46#8, 0x57#8] then some 0x1810
  else if leAt h 4 2 ≠ 1 || leAt h 6 2 ≠ 0 then some 0x1811
  else if leAt h 8 4 ≠ 0x2048 then some 0x1812
  else if revoked.testBit (fwKey h) then some 0x1813
  else if fwKey h > 3 || !edVerify (Config.releaseKey (fwKey h)) (h.take 0xFC0) (slice h 0xFC0 64) then some 0x1814
  else if fwRollback h < floor then some 0x1815
  else if fwBodyLen h % 4096 ≠ 0 || fwBodyLen h > 67104768 || 4096 + fwBodyLen h > len then some 0x1816
  else if !componentsOk h then some 0x1817
  else if (fwRevoke h).testBit (fwKey h) then some 0x1818
  else none

/-! The watched conditions (R409, R412). -/

/-- The WARN limit: 95 °C less DERATE, as a code. -/
def State.warnLimit (s : State) : Int := 0x2F80 - 128 * (min 20 (s.fld THM_GOV 4 0) : Nat)

/-- Rows 3 to 7 of Table 15.3. -/
def State.fwCondition (s : State) : Option Nat :=
  if s.nv.ownerLock then some 0x1724
  else if s.touchdown then some 0x1802
  else if s.therm.vin < 4200 || s.bit THM_STAT 12 then some 0x1803
  else if (List.range 64).any s.ctxActive then some 0x1804
  else if (List.range 64).any fun n => signed 16 (s.rdN (THM_TEMP n)) > s.warnLimit then some 0x1805
  else none

/-- A watched condition that has arisen ends an update. -/
def State.fwWatch (s : State) : State := match s.fwCondition with
  | some c => s.fwAbort c
  | none => s

/-- The slot is the one running, as a trial. -/
def State.inTrial (s : State) : Bool := (s.fwSlot s.nv.runningB).state == 3

/-! FW_UPDATE (R409 to R411). -/

/-- The checks of FW_UPDATE at acceptance. -/
def State.fwUpdateCode (s : State) (e : List Byte) : Option Nat :=
  if !paramZero e 13 67 then some 0x1502
  else if param e 0 8 % 64 ≠ 0 || param e 8 4 < 4096 || param e 12 1 > 1 then some 0x1504
  else if s.fw.isSome then some 0x1801
  else if s.inTrial then some 0x1823
  else s.fwCondition

/-- A refusal of FW_UPDATE shows in the FWU block. -/
def fwNote (c : Nat) (s : State) : State := (s.wrN FWU_CODE c).evt FWU_EVT 1

/-- FW_UPDATE is accepted; in recovery it writes slot A. -/
def fwBegin (e : List Byte) (tag : Nat) (s : State) : State :=
  let j : FwJob := ⟨tag, 0x0048, param e 12 1, param e 0 8, param e 8 4, !s.bit SYS_STAT 13 && !s.nv.runningB, 1, []⟩
  ({ s with fw := some j }.setFld FWU_STAT 13 12 1).setFld FWU_STAT 11 4 0

/-- The header checks complete: `data` is the header as host memory gave it. -/
def fwHeaderChecked (data : Option (List Byte)) (s : State) : State :=
  match s.fw with
  | none => s
  | some j =>
    if j.phase ≠ 1 then s
    else match s.sourceBytes (j.source == 1) j.addr 4096 data with
      | none => s.fwEnd false 0x1508 0
      | some h => match headerFault s.nv.floor s.nv.revoked j.len h with
        | some c => s.fwEnd true c 0
        | none =>
          let s1 := { s.setFwSlot j.toB ⟨1, [], [], false⟩ with fw := some { j with phase := 2, header := h } }
          (s1.setFld FWU_STAT 13 12 2).showFw.showNv

/-- The copy of an image completes: `data` is the body as host memory gave it. -/
def fwWriteDone (data : Option (List Byte)) (s : State) : State :=
  match s.fw with
  | none => s
  | some j =>
    if j.phase ≠ 2 then s
    else
      let n := fwBodyLen j.header
      match s.sourceBytes (j.source == 1) (j.addr + 4096) n data with
      | none => s.fwEnd false 0x1508 0
      | some b =>
        if sha512 b ≠ slice j.header 0x20 64 then s.fwEnd false 0x1819 0
        else
          let s1 := { s.setFwSlot j.toB ⟨2, j.header, b, false⟩ with fw := none }
          let s2 := (s1.setFld FWU_STAT 13 12 0).setFld FWU_STAT 11 4 (min 255 (n / 2 ^ 20))
          ((s2.showFw.showNv.wrN FWU_CODE 0).evt FWU_EVT 0).complete j.tag 0x0048 0 (fwVersion j.header) (fwRollback j.header) 0

/-! FW_ACTIVATE and FW_CONFIRM (R417, R418). -/

/-- The checks of FW_ACTIVATE. -/
def State.activateCode (s : State) (e : List Byte) : Option Nat :=
  if !paramZero e 1 79 || param e 0 1 > 1 then some 0x1502
  else if s.fw.isSome then some 0x1801
  else match s.fwCondition with
    | some c => some c
    | none => if [2, 4, 5].contains (s.fwSlot (param e 0 1 == 1)).state then none else some 0x1821

/-- FW_ACTIVATE is accepted: it completes, and the start from its slot is to follow. -/
def activateRun (e : List Byte) (tag : Nat) (s : State) : State :=
  let b := param e 0 1 == 1
  let j : FwJob := ⟨tag, 0x0049, 0, 0, 0, b, 3, []⟩
  (({ s with fw := some j, start := { s.start with next := some b } }.setFld FWU_STAT 13 12 3).wrN FWU_CODE 0).complete tag 0x0049 0 0 0 0

/-- Slot states at a confirmation of slot `b` (R417, steps 3 and 4). -/
def confirmedState (floor revoked : Nat) (own : Bool) (x : FwSlot) : FwSlot :=
  if own then { x with state := 4, confirmed := true }
  else
    let v := if x.state = 4 then 5 else x.state
    { x with state := if v = 5 && (fwRollback x.header < floor || revoked.testBit (fwKey x.header)) then 7 else v }

/-- The trial under way is confirmed. -/
def fwConfirmNow (s : State) : State :=
  let b := s.nv.runningB
  let h := (s.fwSlot b).header
  let floor := max s.nv.floor (fwRollback h)
  let revoked := s.nv.revoked ||| fwRevoke h
  let s1 := { s with nv := { s.nv with
    floor := floor, revoked := revoked, oldSettings := none
    fwA := confirmedState floor revoked (b == false) s.nv.fwA, fwB := confirmedState floor revoked (b == true) s.nv.fwB } }
  s1.showFw.evt FWU_EVT 2

/-- The checks of FW_CONFIRM. -/
def State.confirmCode (s : State) (e : List Byte) : Option Nat :=
  if !paramZero e 0 80 then some 0x1502 else if s.inTrial then none else some 0x1820

/-! The rows. -/

/-- FW_UPDATE (R409). -/
def execFwUpdate (entry : List Byte) (s : State) : Host.Outcome State Fault Refusal :=
  let e := padTo 128 entry
  .next (ringCommand 0x0048 e (fun t => t.fwUpdateCode e) fwNote (fwBegin e) s)

/-- FW_HEADER_CHECKED (R410). -/
def execFwHeaderChecked (data : Option (List Byte)) (s : State) : Host.Outcome State Fault Refusal := .next (fwHeaderChecked data s)

/-- FW_WRITE_DONE (R411). -/
def execFwWriteDone (data : Option (List Byte)) (s : State) : Host.Outcome State Fault Refusal := .next (fwWriteDone data s)

/-- FW_ACTIVATE (R418). -/
def execFwActivate (entry : List Byte) (s : State) : Host.Outcome State Fault Refusal :=
  let e := padTo 128 entry
  .next (ringCommand 0x0049 e (fun t => t.activateCode e) (fun c t => t.wrN FWU_CODE c) (activateRun e) s)

/-- FW_CONFIRM (R417). -/
def execFwConfirm (entry : List Byte) (s : State) : Host.Outcome State Fault Refusal :=
  let e := padTo 128 entry
  .next (ringCommand 0x004A e (fun t => t.confirmCode e) (fun c t => t.wrN FWU_CODE c)
    (fun tag t => ((fwConfirmNow t).wrN FWU_CODE 0).complete tag 0x004A 0 0 0 0) s)

end Sys2Proof.Machine
end

