-- ==== Sys2Proof/Machine/Start.lean ====
section
/-!
DEFINITION. Machine/Start.lean: the start of the module, its trials and subsidiary controllers, and what stops it (R312, R415, R416,
R419, R420, R427, R435 to R437). notes/assumptions/41.md.
-/

namespace Sys2Proof.Machine

/-! What a reset leaves (R427, R436, R451). -/

/-- The module with every register and engine as reset leaves them, in start phase `phase`. Non-volatile memory, host memory, the
contact-engaged input, the power inputs and the commands waiting are not the module's to reset. -/
def State.cleared (s : State) (phase : Nat) (held : Bool) : State :=
  let r := (State.setWide { State.reset with regs := [] } SYS_SERIAL 4 s.serial).setWide CVY_MASTER 4 s.serial
  { r with
    pending := s.pending, nv := s.nv, opens := s.opens, touch := s.touch
    host := { State.reset.host with mem := s.host.mem }
    therm := { State.reset.therm with vin := s.therm.vin, pfInput := s.therm.pfInput }
    start := { State.reset.start with phase := phase, held := held } }

/-- A slot whose writing was cut short is empty, and a trial that was never confirmed is over (R412, R415). -/
def slotAtStart (x : FwSlot) : FwSlot :=
  if x.state = 1 then ⟨0, [], [], false⟩
  else if x.state = 3 then (if x.confirmed then { x with state := 5 } else ⟨0, [], [], false⟩)
  else x

/-- The journal rolls back every uncommitted transaction; failure counts and lockouts of toll slots do not last. -/
def NvMem.atStart (n : NvMem) : NvMem :=
  { n with
    txns := [], fwA := slotAtStart n.fwA, fwB := slotAtStart n.fwB, hardTrip := false
    tolls := n.tolls.map fun e => (e.1, { e.2 with fails := 0, lockUntil := none }) }

/-! ROM (R415). -/

def NvMem.slot (n : NvMem) (b : Bool) : FwSlot := if b then n.fwB else n.fwA
def NvMem.setSlot (n : NvMem) (b : Bool) (x : FwSlot) : NvMem := if b then { n with fwB := x } else { n with fwA := x }

/-- The check of a slot before it is started. The image as delivered passes all but rows 11 and 13. -/
def NvMem.romFault (n : NvMem) (x : FwSlot) : Option Nat :=
  if x.header = Config.factoryHeader ∧ x.body = Config.factoryBody then
    if n.revoked.testBit (fwKey x.header) then some 0x1813 else if fwRollback x.header < n.floor then some 0x1815 else none
  else match headerFault n.floor n.revoked (4096 + fwBodyLen x.header) x.header with
    | some c => some c
    | none => if x.body.length = fwBodyLen x.header ∧ sha512 x.body = slice x.header 0x20 64 then none else some 0x1819

/-- The slots to try, in order: the one that FW_ACTIVATE named, then PENDING, ACTIVE and STANDBY. -/
def NvMem.candidates (n : NvMem) (named : Option Bool) : List Bool :=
  (named.toList ++ [2, 4, 5].flatMap fun v => [false, true].filter fun b => (n.slot b).state == v).eraseDups

/-- ROM tries candidates in order. A PENDING slot, or the one that FW_ACTIVATE named, becomes TRIAL. -/
def NvMem.romTry (n : NvMem) (named : Option Bool) : List Bool → NvMem × Option Bool
  | [] => (n, none)
  | b :: bs =>
    let x := n.slot b
    match n.romFault x with
    | none =>
      let v := if x.state = 2 ∨ named = some b then 3 else x.state
      ({ n.setSlot b { x with state := v } with runningB := b }, some b)
    | some c => (n.setSlot b { x with state := if c = 0x1813 ∨ c = 0x1815 then 7 else 6 }).romTry named bs

/-! Settings (R420). -/

/-- The settings region in force at a start; SETTINGS_RESET tells that a new one was written. -/
def State.settingsLoad (s : State) : State :=
  let n := s.nv
  let schema := fwSchema (n.slot n.runningB).header
  if n.settings.schema = schema then s.force FWU_CFG (withBits 0#16 15 15 n.settings.autoConfirm.toNat)
  else match n.oldSettings with
    | some o =>
      if o.schema = schema then
        { s with nv := { n with settings := o, oldSettings := some n.settings } }.force FWU_CFG (withBits 0#16 15 15 o.autoConfirm.toNat)
      else ({ s with nv := { n with settings := ⟨schema, true⟩, oldSettings := some n.settings } }.force FWU_CFG 0x8000#16).evt FWU_EVT 4
    | none => ({ s with nv := { n with settings := ⟨schema, true⟩, oldSettings := some n.settings } }.force FWU_CFG 0x8000#16).evt FWU_EVT 4

/-! The start (R427). -/

/-- What the registers show of non-volatile memory (R321, R404, R423, R435). -/
def State.showStart (s : State) (hardTrip : Bool) : State :=
  let s1 := (s.force CAL_STACK (BitVec.ofNat 16 s.nv.stacksOut)).showStacks.logBases
  (s1.showFw.showTrust).setBit THM_STAT 11 hardTrip

/-- The module starts: ROM selects a slot, the journal is rolled back, and the settings and the calibration record are installed. -/
def bootNow (s : State) : State :=
  let seen := s.nv.hardTrip
  let n := s.nv.atStart
  let r := n.romTry s.start.next (n.candidates s.start.next)
  let c := { s.cleared 1 false with nv := r.1 }
  let s1 := { c with start := { c.start with rolledBack := s.start.rolledBack } }
  let s2 := if s.start.rolledBack then s1.wrN FWU_CODE 0x1822 else s1
  match r.2 with
  | some _ => ((s2.showStart seen).settingsLoad).recordLoad
  | none => ({ s2 with start := { s2.start with phase := 3 } }.showStart seen).setBit SYS_STAT 13 true

/-- The start condition holds. `hot` tells that a sensor which is not broken reads 110 °C or more: the start then waits, with the
outputs in their power-up states. -/
def moduleStart (hot : Bool) (s : State) : State :=
  if s.start.phase ≠ 0 ∧ s.start.next.isNone ∧ !s.start.rolledBack then s
  else if hot then { s.cleared 0 false with start := { s.start with phase := 0, held := false } }
  else bootNow s

/-- The reset input is asserted: every output takes its power-up state. -/
def resetAssert (s : State) : State := s.cleared 0 true

/-- Power is lost. -/
def powerLoss (s : State) : State :=
  let s1 := s.cleared 0 false
  { s1 with nv := { s1.nv with hardTrip := false } }

/-- A hard trip comparator has fired: the outputs are safe and the module is stopped until a reset or a power cycle. -/
def hardTrip (s : State) : State :=
  if s.start.phase = 0 then s
  else
    let s1 := s.cleared 4 false
    { s1 with nv := { s1.nv with hardTrip := true } }

/-! Trials (R416, R419). -/

/-- A trial fails before READY: the slot is FAILED and the module is to start again. -/
def trialFails (s : State) : State :=
  if s.inTrial ∧ s.start.phase = 1 then
    let s1 := (s.setFwSlot s.nv.runningB { s.fwSlot s.nv.runningB with state := 6 }).cleared 0 false
    { (s1.showFw).wrN FWU_CODE 0x1822 with start := { s1.start with rolledBack := true } }
  else s

/-- READY is not 1 within 1,500 ms of reset release. -/
def trialReadyTimeout (s : State) : State :=
  if s.inTrial ∧ s.start.phase = 1 then s.atDue (s.start.since + 4500000000) trialFails else s

/-- A component fails to load, or its controller does not report ready: 0 to 15 the drovers, 16 the convoy controller, 17 to 20 the
power controllers. -/
def controllerTimeout (ctl : Nat) (s : State) : State :=
  if s.start.phase ≠ 1 ∨ ctl > 20 then s
  else if s.inTrial then trialFails s
  else if ctl < 16 then
    let m : Word := BitVec.ofNat 16 (2 ^ ctl)
    let s1 := (s.forceBits CAL_ISO m m).setIsoStat ctl 3
    { s1 with cal := { s1.cal with coreFail := ctl :: s1.cal.coreFail } }
  else { s with start := { s.start with phase := 3 } }

/-- READY becomes 1. A trial with AUTO_CONFIRM is confirmed, and a start that followed a failed trial completes. -/
def moduleReady (s : State) : State :=
  if s.start.phase ≠ 1 then s
  else
    let s1 := { s.setBit SYS_STAT 15 true with start := { s.start with phase := 2, rolledBack := false } }
    let s2 := if s.start.rolledBack then s1.evt FWU_EVT 3 else s1
    if s2.inTrial && s2.bit FWU_CFG 15 && s2.nvCode.isNone then fwConfirmNow s2 else s2

/-- FWU_CFG takes effect: the setting is kept in the settings region. -/
def fwCfgCommit (s : State) : State :=
  if s.nvCode.isNone then { s with nv := { s.nv with settings := { s.nv.settings with autoConfirm := s.bit FWU_CFG 15 } } } else s

/-! Transactions (R436, R437). -/

/-- The page under way is programmed; under shutdown or power-fail nothing is left to program. -/
def nvPageDone (s : State) : State :=
  match s.nv.txns with
  | t :: rest => if t.pages = 0 then s else { s with nv := { s.nv with txns := { t with pages := t.pages - 1 } :: rest } }
  | [] => s

/-- The transaction whose last page is programmed commits. -/
def nvCommit (s : State) : State :=
  match s.nv.txns with
  | ⟨.calRecord content tag, 0⟩ :: rest =>
    (State.showNv { s with nv := { s.nv with txns := rest, calRecord := some content } }).complete tag 0x0030 0 0 0 0
  | ⟨.casting _ _, 0⟩ :: _ => storeDone s
  | _ => s

/-- A shutdown or the power-fail warning ends the transactions in progress with a code. -/
def State.nvEnd (s : State) (code : Nat) : State :=
  let writing := s.fw.any fun j => j.phase == 2
  if s.nv.txns.isEmpty && !writing then s
  else
    let s1 := (State.showNv { s with nv := { s.nv with txns := [] } }).evt THM_EVT 7
    s.nv.txns.foldl (fun t x => match x.kind with
      | .calRecord _ tag => t.complete tag 0x0030 code 0 0 0
      | .casting _ _ => t) s1

/-! Power-fail (R424, R425). -/

/-- The power-fail warning begins: the input falls below VPF, at most 33.5 V, or the power-fail input or PWR-E-1 says so. -/
def powerFail (vin : Nat) (pf : Bool) (s : State) : State :=
  let s0 := { s with therm := { s.therm with vin := vin, pfInput := pf } }
  if !pf ∧ vin ≥ 3350 then s
  else if s.bit THM_STAT 12 then s0
  else
    let s1 := (s0.setBit THM_STAT 12 true).evt THM_EVT 4
    let s2 :=
      if s1.bit THM_PF_CFG 15 then
        let t := s1.each (List.range 32) fun t i => t.force (CST_SITE_EN i) 0#16
        ((t.refreshPins []).refreshSlices).disabledLeave
      else s1
    (s2.nvEnd 0x1904).fwAbort 0x1803

/-- The warning ends: the input is above 35.0 V, and the input and PWR-E-1 are as they should be. -/
def powerFailEnd (vin : Nat) (s : State) : State :=
  if s.bit THM_STAT 12 ∧ vin > 3500 then { s.setBit THM_STAT 12 false with therm := { s.therm with vin := vin, pfInput := false } } else s

/-! Contact (R399, R465). -/

/-- The prober asserts contact: touchdown begins. -/
def contactOn (s : State) : State := if s.touch then s else State.touchdownBegins { s with touch := true }

/-- The prober releases contact: sounding results are no longer valid (R122). -/
def contactOff (s : State) : State := if s.touch then State.each { s with touch := false } (List.range 64) (fun t c => soundInvalid c t) else s

/-! The rows. -/

/-- MODULE_START (R427). -/
def execModuleStart (hot : Bool) (s : State) : Host.Outcome State Fault Refusal := .next (moduleStart hot s)

/-- RESET_ASSERT (R427). -/
def execResetAssert (s : State) : Host.Outcome State Fault Refusal := .next (resetAssert s)

/-- MODULE_READY (R427). -/
def execModuleReady (s : State) : Host.Outcome State Fault Refusal := .next (moduleReady s)

/-- POWER_LOSS (R437). -/
def execPowerLoss (s : State) : Host.Outcome State Fault Refusal := .next (powerLoss s)

/-- HARD_TRIP (R435). -/
def execHardTrip (s : State) : Host.Outcome State Fault Refusal := .next (hardTrip s)

/-- TRIAL_FAILED (R416). -/
def execTrialFailed (s : State) : Host.Outcome State Fault Refusal := .next (trialFails s)

/-- TRIAL_READY_TIMEOUT (R416). -/
def execTrialReadyTimeout (s : State) : Host.Outcome State Fault Refusal := .next (trialReadyTimeout s)

/-- CONTROLLER_LOAD_TIMEOUT (R419). -/
def execControllerLoadTimeout (ctl : Nat) (s : State) : Host.Outcome State Fault Refusal := .next (controllerTimeout ctl s)

/-- NV_PAGE_DONE (R436). -/
def execNvPageDone (s : State) : Host.Outcome State Fault Refusal := .next (nvPageDone s)

/-- NV_TRANSACTION_COMMIT (R436). -/
def execNvTransactionCommit (s : State) : Host.Outcome State Fault Refusal := .next (nvCommit s)

/-- POWER_FAIL_WARNING (R424). -/
def execPowerFailWarning (vin : Nat) (pf : Bool) (s : State) : Host.Outcome State Fault Refusal := .next (powerFail vin pf s)

/-- POWER_FAIL_END (R424). -/
def execPowerFailEnd (vin : Nat) (s : State) : Host.Outcome State Fault Refusal := .next (powerFailEnd vin s)

/-- CONTACT_ENGAGED_ASSERT (R465). -/
def execContactEngagedAssert (s : State) : Host.Outcome State Fault Refusal := .next (contactOn s)

/-- CONTACT_ENGAGED_DEASSERT (R465). -/
def execContactEngagedDeassert (s : State) : Host.Outcome State Fault Refusal := .next (contactOff s)

end Sys2Proof.Machine
end

