-- ==== Sys2Proof/Machine/Thermal.lean ====
section
/-!
DEFINITION. Machine/Thermal.lean: sensors, the thermal governor, enables, and a restart of the yard firmware (R75, R314, R323, R428
to R434). notes/assumptions/41.md.
-/

namespace Sys2Proof.Machine

/-! Zones (Table 16.4). -/

/-- The sensors that may stand in for sensor `n`. -/
def neighbours (n : Nat) : List Nat :=
  if n < 32 then [if n % 2 = 0 then n + 1 else n - 1]
  else if n < 36 then [n + 12]
  else if n < 40 then [n + 4]
  else if n < 44 then [n - 4]
  else if n < 48 then [n - 12]
  else if n < 56 then ((List.range 8).map (48 + ·)).filter (· ≠ n)
  else [if n % 2 = 0 then n + 1 else n - 1]

/-- The groups that the structure in force defines. -/
def groupsOf (k : Casting) : List Nat := (k.sites.map (·.group) ++ (k.powers.filter (·.byGroup)).map (·.owner)).eraseDups

/-- The zones of the units of a group: its pins, the outriders that hold their duty, and its slices. -/
def State.groupZones (s : State) (g : Nat) : List Nat :=
  (groupPins s.casting g).flatMap (fun ch => [zoneOf ch, zoneOf (s.holder ch)]) ++ (groupSlices s.casting g).map fun i => zoneOf (unitOfSlice i)

/-- Groups in the scope of a shutdown of zone `n`. -/
def State.zoneGroups (s : State) (n : Nat) : List Nat :=
  let gs := groupsOf s.casting
  if n ≥ 48 then gs
  else if 44 ≤ n then gs.filter fun g => (groupSlices s.casting g).any fun i => i / 64 == n - 44
  else if 32 ≤ n ∧ n < 36 then []
  else gs.filter fun g => (s.groupZones g).contains n

/-- Contexts in scope. -/
def State.zoneContexts (s : State) (n : Nat) : List Nat :=
  let on := (List.range 64).filter s.ctxActive
  if n ≥ 48 then on
  else if n < 32 then (if n % 2 = 0 then [] else on.filter fun c => (s.pinsDriven c).any fun p => p.channel / 128 == n / 2)
  else if n < 36 then on.filter fun c => (caravanStacks s.casting (s.homeOf c)).contains (n - 32)
  else []

/-- Digitizers in scope; a duty that a spare performs is in the scope of the spare (R316). -/
def zoneDigitizers (n : Nat) : List Nat :=
  if n ≥ 48 then List.range 20
  else if n < 32 then (if n % 2 = 0 then [] else [n / 2])
  else if n < 36 then (List.range 4).map (4 * (n - 32) + ·) ++ [16 + (n - 32)]
  else if 44 ≤ n then [16 + (n - 44)]
  else []

/-- Waveform sequencers in scope. -/
def zoneSequencers (n : Nat) : List Nat :=
  if n ≥ 48 then List.range 20
  else if n < 32 then (if n % 2 = 0 then [] else [n / 2])
  else if 44 ≤ n then [16 + (n - 44)]
  else []

/-! Enables (R75, R318, R433). -/

/-- A site cannot be enabled: the casting does not define it, one of its pins lies on a slot that differs or in an isolated cluster, or
one of its pins or slices lies in a zone in shutdown. -/
def State.enableRefused (s : State) (n : Nat) : Bool :=
  let k := s.casting
  let pins := pinsOfSite k n
  (findSite k n).isNone
    || pins.any (fun p => s.bit (CST_TILE_DIFF + 2 * (p.tile / 16)) (p.tile % 16))
    || pins.any (fun p => s.isolated (p.channel / 128))
    || pins.any (fun p => s.zoneLevel (zoneOf p.channel) == 3)
    || (k.powers.filter fun p => !p.byGroup && p.owner == n).any fun p => s.zoneLevel (zoneOf (unitOfSlice p.slice)) == 3

/-- CST_SITE_EN register `i` takes effect over `old`: each bit written as 1 is judged. -/
def enableCommit (i : Nat) (old : Word) (s : State) : State :=
  s.each (List.range 16) fun t b =>
    if (t.rd (CST_SITE_EN i)).getLsbD b && !old.getLsbD b && t.enableRefused (16 * i + b) then
      ((t.forceBits (CST_SITE_EN i) (BitVec.ofNat 16 (2 ^ b)) 0#16).evt CST_EVT 5).inc CST_ENREF_CNT
    else t

/-! The governor (R432). -/

/-- A zone enters shutdown: groups trip with cause THERMAL, and runs, acquisitions and sequences in scope end. -/
def shutdownZone (n : Nat) (s : State) : State :=
  let s1 := ((s.setFld (THM_SSTAT n) 15 14 3).evt THM_EVT 2).irqUrgent
  let s2 := s1.each (s1.zoneGroups n) fun t g => t.groupTrip g 3 0
  let s3 := s2.each (s2.zoneContexts n) fun t c => runKill c 0x1901 t
  let s4 := s3.each ((List.range 20).filter fun u => (zoneDigitizers n).contains (s.acqPhys u)) fun t u => acqEndAs u 0x1901 t
  s4.each ((List.range 20).filter fun u => (zoneSequencers n).contains (s.awgPhys u)) fun t u => wfsStopAt u 0 0x1901 t

/-- The level that a reading gives from the level before, with the 3 °C of hysteresis of Table 16.5. -/
def levelOf (warn throttle : Int) (cur : Nat) (v : Int) : Nat :=
  if v ≥ 0x3980 then 3
  else if v ≥ throttle ∨ (cur = 2 ∧ v ≥ throttle - 384) then 2
  else if v ≥ warn ∨ (cur ≥ 1 ∧ v ≥ warn - 384) then 1
  else 0

/-- The THROTTLE limit. -/
def State.throttleLimit (s : State) : Int := s.warnLimit + 1280

/-- A zone's level follows its reading; shutdown stays. -/
def zoneUpdate (n : Nat) (s : State) : State :=
  let cur := s.zoneLevel n
  if cur = 3 then s
  else
    let v := levelOf s.warnLimit s.throttleLimit cur (signed 16 (s.rdN (THM_TEMP n)))
    let s1 := if cur < 1 && 1 ≤ v then s.evt THM_EVT 0 else s
    let s2 := if cur < 2 && 2 ≤ v && s.bit THM_GOV 15 then s1.evt THM_EVT 1 else s1
    if v = 3 then shutdownZone n s2 else s2.setFld (THM_SSTAT n) 15 14 v

/-- THM_STAT.LEVEL and HOTTEST. -/
def State.showThermal (s : State) : State :=
  let temps := (List.range 64).map fun n => signed 16 (s.rdN (THM_TEMP n))
  let hot := temps.foldl max (-32768)
  let level := ((List.range 64).map s.zoneLevel).foldl max 0
  (s.setFld THM_STAT 15 14 level).setFld THM_STAT 5 0 (temps.findIdx (· == hot))

/-! Sensors (R430, R431). -/

def State.substituted (s : State) (n : Nat) : Bool := s.bit (THM_SSTAT n) 10

/-- Why a reading shows the sensor broken; `same` counts the identical samples, this one included. -/
def brokenCause (r : Reading) (same : Nat) : Option Nat :=
  if r.isOpen then some 0
  else if r.isShort then some 1
  else if signed 16 r.code < -5120 ∨ signed 16 r.code > 19200 then some 2
  else if same ≥ 64 then some 3
  else none

/-- BROKEN with its cause, and the reading of a broken sensor. -/
def showBroken (n cause : Nat) (s : State) : State :=
  (((s.setBit (THM_SSTAT n) 13 true).setFld (THM_SSTAT n) 12 11 cause).wrN (THM_TEMP n) 0x7FFF).evt THM_EVT 3

/-- What sensor `n` itself reads. A substituted sensor is not judged. -/
def sensorRead (n : Nat) (r : Reading) (s : State) : State :=
  let x := s.sensor n
  let same := if x.raw = r.code % 65536 then x.same + 1 else 1
  let y := { x with raw := r.code % 65536, same := same }
  if x.broken || s.substituted n then s.setSensor n y
  else match brokenCause r same with
    | some c => showBroken n c (s.setSensor n { y with broken := true, cause := c })
    | none => (s.setSensor n y).wrN (THM_TEMP n) y.raw

/-- A substitution ends: the sensor is as it was before it. -/
def subEnds (n : Nat) (s : State) : State :=
  let x := s.sensor n
  let s1 := s.setBit (THM_SSTAT n) 10 false
  if x.broken then showBroken n x.cause s1 else s1.wrN (THM_TEMP n) x.raw

/-- A substituted sensor reads as its neighbour, unless that is broken. -/
def sensorSub (n : Nat) (s : State) : State :=
  if !s.substituted n then s
  else
    let m := s.fld (THM_SUB n) 5 0
    if (s.sensor m).broken then subEnds n s else s.wr (THM_TEMP n) (s.rd (THM_TEMP m))

/-- THM_SUBn takes effect over `old`. -/
def subCommitThm (n : Nat) (old : Word) (s : State) : State :=
  let new := s.rd (THM_SUB n)
  if new = old then s
  else if !new.getLsbD 15 then (if s.substituted n then zoneUpdate n (subEnds n s) else s).showThermal
  else
    let m := bitsOf new 5 0
    if !(neighbours n).contains m || (s.sensor m).broken || s.substituted m then
      let s1 := if s.substituted n then zoneUpdate n (subEnds n s) else s
      (((s1.forceBits (THM_SUB n) 0x8000#16 0#16).wrN THM_CODE 0x1905).evt THM_EVT 6).showThermal
    else
      let s1 := (s.setBit (THM_SSTAT n) 10 true).setBit (THM_SSTAT n) 13 false
      (s1.wr (THM_TEMP n) (s1.rd (THM_TEMP m))).showThermal

/-- The drift advisory (R314). -/
def driftCheck (s : State) : State :=
  s.each (allUnits.filter fun x => s.wide (CAL_CNT (calBlock x)) 2 ≠ 0) fun t x =>
    let b := calBlock x
    let d := signed 16 (t.rdN (THM_TEMP (zoneOf x))) - signed 16 (t.rdN (CAL_TREF b))
    if !t.bit (CAL_STAT b) 11 && (t.rdN (THM_TEMP (zoneOf x)) == 0x7FFF || d ≥ 1024 || d ≤ -1024) then
      ((t.setBit (CAL_STAT b) 11 true).evt (CAL_EVT b) 2).evt CALC_EVT 3
    else t

/-- Sampling goes fast or slow: the next sample follows at 62 stages, then 63, from the last one, or at 1,000. -/
def State.pace (s : State) (fast : Bool) : State :=
  if s.bit THM_STAT 13 = fast then s
  else { s.setBit THM_STAT 13 fast with therm := { s.therm with wait := if fast then 61 else 999, alternate := fast } }

/-- A sample's results take effect at its tick (R426, R429 to R432, R437). -/
def sampleTick (readings : List Reading) (vin pin : Nat) (s : State) : State :=
  let s1 := ({ s with therm := { s.therm with vin := vin } }.wrN THM_VIN vin).wrN THM_PIN pin
  let s2 := s1.each (List.range 64) fun t n => sensorRead n (readings.getD n ⟨0, true, false⟩) t
  let s3 := s2.each (List.range 64) fun t n => sensorSub n t
  let s4 := (s3.each (List.range 64) fun t n => zoneUpdate n t).showThermal
  let fast := (List.range 64).any fun n => signed 16 (s4.rdN (THM_TEMP n)) ≥ s4.warnLimit - 1280
  let s5 := driftCheck (s4.pace fast)
  (if s5.anyShutdown then s5.nvEnd 0x1903 else s5).fwWatch

/-- THERMAL_SAMPLE: the interval has expired; a class 0 item carries what the sensors read. -/
def thermalSample (readings : List Reading) (vin pin : Nat) (s : State) : State :=
  if s.therm.wait ≠ 0 then s
  else
    let fast := s.bit THM_STAT 13
    let next := if !fast then 1000 else if s.therm.alternate then 63 else 62
    State.arrive { s with therm := { s.therm with wait := next, alternate := fast && !s.therm.alternate } } 0 0 (yardCost 0)
      (.sample readings vin pin)

/-! Resume and clear (R433, R434). -/

/-- A resume of sensor `n` at its item's tick. -/
def resumeTick (n : Nat) (s : State) : State :=
  if s.zoneLevel n ≠ 3 || signed 16 (s.rdN (THM_TEMP n)) ≥ 0x3700 || s.bit (THM_SSTAT n) 13 then s.wrN THM_CODE 0x1906
  else
    let v := levelOf s.warnLimit s.throttleLimit 0 (signed 16 (s.rdN (THM_TEMP n)))
    ((s.setFld (THM_SSTAT n) 15 14 v).evt THM_EVT 5).showThermal

/-- A clear of group `g` at its item's tick: refused while a zone in shutdown has the group in its scope. -/
def clearTick (g : Nat) (s : State) : State :=
  if s.groupTripped g && (List.range 64).any fun n => s.zoneLevel n == 3 && (s.zoneGroups n).contains g then
    ((s.wrN (MON_GRP_CODE g) 0x1308).evt (MON_GRP_EVT g) 2).log 0x0005 s.convoyTime
      (leBytes 2 g ++ leBytes 1 1 ++ leBytes 1 0 ++ leBytes 2 0x1308)
  else clearAtTick g s

/-! A restart of the yard (R323, Table 11.5). -/

/-- A profile command's item, with its entry. -/
def WorkItem.entry (w : WorkItem) : Option (List Byte) := match w.kind with
  | .profile e => some e
  | _ => none

/-- Every command accepted and not complete completes with YARD_RESTARTED. -/
def commandsEnd (s : State) : State :=
  let queued := s.sched.waiting.filterMap WorkItem.entry ++ (s.sched.running.map Prod.fst).filterMap WorkItem.entry
    ++ s.host.profiles.map (·.entry)
  let keep := fun (w : WorkItem) => w.entry.isNone
  let stores := s.nv.txns.filterMap fun t => match t.kind with
    | .calRecord _ tag => some tag
    | .casting _ _ => none
  let s1 := { s with
    sched := { s.sched with waiting := s.sched.waiting.filter keep, running := s.sched.running.filter fun w => keep w.1 }
    host := { s.host with profiles := [], tolled := [] }
    loads := []
    nv := { s.nv with txns := s.nv.txns.filter fun t => match t.kind with
      | .calRecord _ _ => false
      | .casting _ _ => true } }
  let s2 := queued.foldl (fun t e => t.complete (entTag e) (entOp e) 0x1438 0 0 0) s1.showNv
  let s3 := s.loads.foldl (fun t j => t.complete j.tag j.opcode 0x1438 0 0 0) s2
  let s4 := s.host.tolled.foldl (fun t e => t.complete e.1 0x0020 0x1438 0 0 0) s3
  s4.each stores fun t tag => t.complete tag 0x0030 0x1438 0 0 0

/-- The yard firmware fails. Before READY the trial under way fails with it. -/
def yardFails (s : State) : State :=
  if s.inTrial ∧ s.start.phase = 1 then trialFails s
  else
    let s1 := { s.setBit SYS_STAT 14 true with yardDown := true }
    let s2 := recastEnds ⟨0x0C75, 0, 0⟩ (loadEnds ⟨0x0C71, 0, 0⟩ s1)
    let s3 := commandsEnd ((calEndAll 0x1416 s2).fwEnd false 0x1438 0)
    let s4 := s3.each ((List.range 16).filter fun k => s3.isoStat k == 1) fun t k => isoResult k true t
    { s4.each (List.range 4) (fun t q => stackTested q false t) with cal := { s4.cal with lanes := [] } }

/-- The gate has restarted the yard. A stall whose RESUME came meanwhile goes on. -/
def yardBack (s : State) : State :=
  if s.yardDown then
    ({ s.setBit SYS_STAT 14 false with yardDown := false }.evt SYS_EVT 0).each (s.ctxs.map Prod.fst) fun t c => tryResume c t
  else s

/-! The rows. -/

/-- THERMAL_SAMPLE (R429). -/
def execThermalSample (readings : List Reading) (vin pin : Nat) (s : State) : Host.Outcome State Fault Refusal :=
  .next (thermalSample readings vin pin s)

/-- THM_RESUME (R434): a class 0 item. -/
def execThmResume (n : Nat) (s : State) : Host.Outcome State Fault Refusal :=
  .next (s.whenReady fun s => if n < 64 then s.arrive 0 0 (yardCost 0) (.resume n) else s)

/-- YARD_FAILURE (R323). -/
def execYardFailure (s : State) : Host.Outcome State Fault Refusal := .next (yardFails s)

/-- YARD_RESTARTED (R323). -/
def execYardRestarted (s : State) : Host.Outcome State Fault Refusal := .next (yardBack s)

end Sys2Proof.Machine
end

