-- ==== Sys2Proof/Machine/Operands.lean ====
section
/-!
DEFINITION. Machine/Operands.lean: the host's access to registers (Register Conventions and Map): widths and access errors, reads with
their latches and clears, the shadow view, and writes by access type with what an immediate register does at once.
-/

namespace Sys2Proof.Machine

/-! Windows (R452). -/

/-- The window index and the offset in it, of the windows at `base`. -/
def inWindow (base count stride a : Nat) : Option (Nat × Nat) :=
  if base ≤ a ∧ a < base + count * stride then some ((a - base) / stride, (a - base) % stride) else none

/-- Before READY only the SYS and HST blocks answer (R347, R415). -/
def State.answers (s : State) (a : Nat) : Bool := s.bit SYS_STAT 15 || a / 0x1000 == 0 || a / 0x1000 == 7

/-! Values computed at the read. -/

/-- Word `k` of a value, bits [15:0] first. -/
def wordAt (v k : Nat) : Word := BitVec.ofNat 16 (v / 65536 ^ k)

/-- HST_TILE_STAT to HST_TILE_CRC1: the slot that HST_TILE_SEL names (R351). -/
def State.tileWord (s : State) (a : Nat) : Word :=
  let t := s.tile (s.fld HST_TILE_SEL 4 0)
  if a = HST_TILE_STAT then BitVec.ofNat 16 (t.phase * 8192 + if t.phase = 3 then t.map.length else 0)
  else if a = HST_TILE_CODE then BitVec.ofNat 16 t.code
  else if a < HST_TILE_CRC then wordAt t.id ((a - HST_TILE_ID) / 2)
  else wordAt t.crc ((a - HST_TILE_CRC) / 2)

/-- WAY_FLOG_STAT to WAY_FLOG_T3: the entry that WAY_FLOG_SEL names, 0 the newest (R380). -/
def State.flogWord (s : State) (a : Nat) : Word :=
  match s.way.flog[s.fld WAY_FLOG_SEL 3 0]? with
  | none => 0
  | some e =>
    if a = WAY_FLOG_STAT then BitVec.ofNat 16 (e.hop * 4096 + e.result * 1024 + e.injected.toNat * 512 + 256 + e.kind)
    else if a < WAY_FLOG_T then wordAt e.origin ((a - WAY_FLOG_ADDR) / 2)
    else wordAt e.time ((a - WAY_FLOG_T) / 2)

/-- TOL_SLOT_MASK and TOL_SLOT_CNT: the key slot that TOL_SEL names (R403). -/
def State.tollWord (s : State) (a : Nat) : Word :=
  let k := s.toll (s.fld TOL_SEL 2 0)
  if a = TOL_SLOT_MASK then BitVec.ofNat 16 k.mask else wordAt k.count ((a - TOL_SLOT_CNT) / 2)

/-- SEQ_SQ_RES: whether the entry queried is active or locked, and how many caravans hold it (R97, R99). -/
def State.sqWord (s : State) : Word :=
  let p := s.fld SEQ_SQ_PART 5 0
  let e := s.rdN SEQ_SQ_NUM
  let n := (s.entryHolders p e).length
  BitVec.ofNat 16 ((if n = 0 then 0 else 1) + 2 * (s.entryLocked p e).toNat + 256 * n)

/-- The current value of the register at `a`. -/
def State.live (s : State) (a : Nat) : Word :=
  if SYS_STAGE ≤ a ∧ a < SYS_STAGE + 4 then wordAt s.time.stage.toNat ((a - SYS_STAGE) / 2)
  else if SYS_CTIME ≤ a ∧ a < SYS_CTIME + 8 then wordAt s.convoyTime ((a - SYS_CTIME) / 2)
  else if a = SYS_CTIME_EPOCH then s.time.epoch
  else if a = SYS_STAT then withBits (withBits (s.rd a) 12 12 s.hold.inForce.toNat) 11 11 s.anyPending.toNat
  else if a = HST_STAT then withBits (s.rd a) 9 9 (decide (s.host.waiting.length > 4096)).toNat
  else if a = HST_TAGS ∨ a = HST_TAGS + 2 then wordAt s.host.inflight.length ((a - HST_TAGS) / 2)
  else if HST_TILE_STAT ≤ a ∧ a < HST_TILE_CRC + 4 then s.tileWord a
  else if WAY_FLOG_STAT ≤ a ∧ a < WAY_FLOG_T + 8 then s.flogWord a
  else if TOL_SLOT_MASK ≤ a ∧ a < TOL_SLOT_CNT + 8 then s.tollWord a
  else if a = SEQ_SQ_RES then s.sqWord
  else s.rd a

/-- The value that a read of `a` returns, except for the bits that a fresh count keeps back: a latched register of a group, or the
current value (R448). -/
def State.shown (s : State) (a : Nat) : Word := (tabGet (fun _ => none) s.latch a).getD (s.live a)

/-! Reads (R444 to R448, R450). -/

/-- A read of NAME0 latches the other registers of its group; that of SYS_CTIME0 takes in the epoch (R29, R448). -/
def State.latchGroup (s : State) (a : Nat) : State :=
  match groupOf a with
  | none => s
  | some (base, len) =>
    if a ≠ base then s
    else
      let more := (List.range len).map fun i => base + 2 * i
      let all := if base = SYS_CTIME then more ++ [SYS_CTIME_EPOCH] else more
      { s with latch := all.foldl (fun t x => tabSet (fun _ => none) t x (if x = base then none else some (s.live x))) s.latch }

/-- What a read shows of an engine that runs on its own is as of the clock of the read: a digitizer (R236), a waveform sequencer (R206), a
TDC (R251), and whether a clamp limits a PMU (R155). -/
def settleAt (a : Nat) (s : State) : State :=
  match inWindow 0x250000 20 0x100 a with
  | some (u, _) => acqSettle u s
  | none => match inWindow 0x200000 20 0x2000 a with
  | some (u, _) => wfsSettle u s
  | none => match inWindow 0x1000000 2176 0x1000 a with
    | some (ch, o) => if a = PMU_STAT ch then s.clampSeen ch else if 0x200 ≤ o ∧ o < 0x300 then tdcSettle ch (s.time.up * 65536) s else s
    | none => s

/-- A status register of latched results latches the oldest result at its read (R191, R238, R260, R281, R386). -/
def latchAt (a : Nat) (s0 : State) : State :=
  let s := settleAt a s0
  match inWindow 0x180000 512 0x100 a with
  | some (n, _) => if a = ASY_RES_STAT n then asyLatch n s else s
  | none => match inWindow 0x250000 20 0x100 a with
    | some (u, _) => if a = ACQ_RES_STAT u then acqLatch u s else s
    | none => match inWindow 0x300000 256 0x100 a with
      | some (i, _) => if a = PMU_MEAS_STAT (measOfSlice i) then measLatch (measOfSlice i) s else s
      | none => match inWindow 0x10000 16 0x100 a with
        | some (u, _) => if a = CHK_RES_STAT u then chkLatch u s else s
        | none => match inWindow 0x1000000 2176 0x1000 a with
          | some (ch, _) =>
            if a = TDC_RES_STAT ch then tdcLatch ch s
            else if a = PMU_MEAS_STAT (measOfChannel ch) then measLatch (measOfChannel ch) s
            else s
          | none => s

/-- A read that moves a table index on: TDC_TDATA and LVL_TDATA (R264, R307). -/
def tableReadAt (a : Nat) (s : State) : Option (Nat × State) :=
  match inWindow 0x1000000 2176 0x1000 a with
  | some (ch, _) => if a = TDC_TDATA ch then some (tdcTableRead ch s) else if a = LVL_TDATA ch then some (lvlTableRead ch s) else none
  | none => none

/-- A counter after its read: what it counted in the clock of the read is not lost (R447). -/
def State.clearCount (s : State) (a : Nat) (mask : Word) : State :=
  s.wr a ((s.rd a &&& ~~~mask) ||| (tabGet (fun _ => 0) s.fresh a &&& mask))

/-- The registers that the MSI-X table and the pending bits take up. -/
def msixStart : Nat := 0x0FFF0000
/-- The shadow view. -/
def viewStart : Nat := 0x08000000

/-- A read of 16 bits at BAR0 offset `a`, its value first. -/
def readWord (a : Nat) (s : State) : Nat × State :=
  if msixStart ≤ a then let r := s.free; (r.1 % 65536, r.2)
  else if viewStart ≤ a then
    let x := a - viewStart
    (if !s.answers x then 0 else if isShadowed x then (s.shadowOf x).toNat else
      match regAt x with
      | none => 0
      | some (r, _) => match tableReadAt x s with
        | some e => e.1
        | none => ((latchAt x s).shown x &&& ~~~accMask .wo r).toNat, s)
  else match regAt a with
  | none => (0, s)
  | some (r, _) =>
    if !s.answers a then (0, s)
    else match tableReadAt a s with
    | some e => e
    | none =>
      let s1 := (latchAt a s).latchGroup a
      let rc := accMask .rc r
      if rc = 0 then ((s1.shown a &&& ~~~accMask .wo r).toNat, s1)
      else ((s1.rd a).toNat - (tabGet (fun _ => 0) s1.fresh a).toNat, s1.clearCount a rc)

/-- An access error (R442): cause 0 WIDTH, 1 ALIGN, 2 VIEW_WRITE. -/
def State.accessError (s : State) (a cause : Nat) : State :=
  let s1 := if s.bit SYS_EVT 2 then s else s.setWords SYS_ACC_ERR [a % 65536, a / 65536 % 4096 + 16384 * cause]
  (s1.inc SYS_ACC_CNT).evt SYS_EVT 2

/-- What a request is: the 16-bit or 32-bit accesses it acts as, or its error (R441, R442). -/
def accessCause (a width : Nat) : Option Nat :=
  if width ≠ 2 ∧ (width = 0 ∨ width % 4 ≠ 0) then some 0
  else if width = 2 ∧ a % 2 ≠ 0 ∨ width ≠ 2 ∧ a % 4 ≠ 0 then some 1
  else none

/-- `n` 16-bit reads in ascending order: the value they give together. -/
def readWords (a : Nat) : Nat → State → Nat × State
  | 0, s => (0, s)
  | n + 1, s =>
    let r := readWord a s
    let t := readWords (a + 2) n r.2
    (r.1 + 65536 * t.1, t.2)

/-- A host read of `width` bytes at BAR0 offset `a`. -/
def busRead (a width : Nat) (s : State) : State :=
  match accessCause a width with
  | some c => { s.accessError a c with read := ⟨0, [], false⟩ }
  | none => let r := readWords a (width / 2) s; { r.2 with read := ⟨r.1, [], false⟩ }

/-! Shadows (R17, R18, R446). -/

/-- What a shadow holds of a write in this clock: its value, without the pulses that belong to the stage before. -/
def State.shadowBase (s : State) (a : Nat) (pulses : Word) : Word :=
  match tabGet (fun _ => none) s.shadowNext a with
  | some w => w
  | none =>
    let w := (tabGet (fun _ => none) s.shadow a).getD (s.rd a)
    if s.inCut then w &&& ~~~pulses else w

/-- A write sets masked bits of a shadow, but those that a profile command wrote in this clock (R21); in the commit cut it belongs to
the next stage. A pulse stays pending. -/
def State.shadowWrite (s : State) (a : Nat) (mask pulses v : Word) : State :=
  let m := mask &&& ~~~tabGet (fun _ => 0) s.claimed a
  let w := ((s.shadowBase a pulses &&& ~~~m) ||| (v &&& m)) ||| (v &&& pulses)
  if s.inCut then { s with shadowNext := tabSet (fun _ => none) s.shadowNext a (some w) }
  else { s with shadow := tabSet (fun _ => none) s.shadow a (some w) }

/-- The same for a stage work item, whose writes belong to the stage that admitted it (R469) and win over a direct write of their
clock (R21). -/
def State.shadowItem (s : State) (a : Nat) (mask pulses v : Word) : State :=
  let w := (tabGet (fun _ => none) s.shadow a).getD (s.rd a)
  { s with
    shadow := tabSet (fun _ => none) s.shadow a (some (((w &&& ~~~mask) ||| (v &&& mask)) ||| (v &&& pulses)))
    claimed := tabSet (fun _ => 0) s.claimed a (tabGet (fun _ => 0) s.claimed a ||| mask) }

/-! Immediate registers. -/

/-- SYS_CTL.COMMIT_HOLD takes the value `v` (R22, R453). -/
def holdWrite (v : Bool) (s : State) : State :=
  let s1 := s.setBit SYS_CTL 0 v
  if v then { s1 with hold := ⟨true, 0, if s.hold.inForce then s.hold.ticks else 0⟩ }
  else if s.hold.inForce && s.hold.release == 0 then { s1 with hold := ⟨true, if s.inCut then 2 else 1, 0⟩ }
  else s1

/-- THM_CTL: a 1 in RESUME asks for a thermal resume of a sensor (R434). -/
def resumeRequest (n : Nat) (s : State) : State := s.arrive 0 0 (yardCost 0) (.resume n)

/-- What a write `v` of the immediate register at `a` does at once, beside the fields it sets. -/
def actAt (a : Nat) (v : Word) (s : State) : State :=
  let on := v.getLsbD 0
  if a = SYS_CTL then holdWrite on s
  else if a = HST_RING_CTL then (if on then ringReset s else s)
  else if a = THM_CTL then (if v.getLsbD 15 then resumeRequest (bitsOf v 5 0) s else s)
  else match inWindow 0x100000 64 0x1000 a with
  | some (c, _) =>
    if a = SEQ_TDATA c then s.wr a v
    else if a = SEQ_TDATA c + 2 then tableWrite c v.toNat s
    else if a = SEQ_TSWAP c then tableSwap c (v.toNat % 32) s
    else s
  | none => match inWindow 0x150000 64 0x100 a with
  | some (c, _) =>
    if a = RUN_SND_CTL c then
      let s1 := if on then soundGo c s else s
      if v.getLsbD 1 then soundAbort c s1 else s1
    else s
  | none => match inWindow 0x180000 512 0x100 a with
  | some (n, _) => if a = ASY_RES_ADV n ∧ on then asyAdv n s else s
  | none => match inWindow 0x250000 20 0x100 a with
  | some (u, _) => if a = ACQ_RES_ADV u ∧ on then acqAdv u s else s
  | none => match inWindow 0x300000 256 0x100 a with
  | some (i, _) => if a = PMU_MEAS_ADV (measOfSlice i) ∧ on then s.advResult (PMU_MEAS_STAT (measOfSlice i)) else s
  | none => match inWindow 0x10000 16 0x100 a with
  | some (u, _) =>
    if a = CHK_FEED u then chkFeed u [v.toNat % 256, v.toNat / 256] s
    else if a = CHK_FEED8 u then chkFeed u [v.toNat % 256] s
    else if a = CHK_RES_ADV u ∧ on then s.advResult (CHK_RES_STAT u)
    else s
  | none => match inWindow 0x1C0000 512 0x40 a with
  | some (g, _) =>
    if a = MON_GRP_CTL g then
      let s1 := if v.getLsbD 1 then s.groupTrip g 2 0 else s
      if on then groupClear g s1 else s1
    else s
  | none => match inWindow 0x200000 20 0x2000 a with
  | some (u, x) => if 0x1000 ≤ x then wfsTableWrite u ((x - 0x1000) / 2) v.toNat s else s
  | none => match inWindow 0x1000000 2176 0x1000 a with
  | some (ch, _) =>
    if a = TDC_RES_ADV ch ∧ on then s.advResult (TDC_RES_STAT ch)
    else if a = PMU_MEAS_ADV (measOfChannel ch) ∧ on then s.advResult (PMU_MEAS_STAT (measOfChannel ch))
    else if a = TDC_TDATA ch then tdcTableWrite ch v.toNat s
    else if a = TDC_TSWAP ch ∧ on then tdcTswap ch s
    else if a = LVL_TDATA ch then lvlTableWrite ch v.toNat s
    else if a = LVL_TSWAP ch ∧ on then lvlTswap ch s
    else s
  | none => s

/-- Registers whose bits a write sets only through what it does: SYS_CTL, the sequence tables, TDC_TDATA and LVL_TDATA. -/
def actsOnly (a : Nat) : Bool :=
  a == SYS_CTL || ((inWindow 0x200000 20 0x2000 a).any fun e => 0x1000 ≤ e.2)
    || (inWindow 0x1000000 2176 0x1000 a).any fun e => a == TDC_TDATA e.1 || a == LVL_TDATA e.1

/-- The other registers of a group, from `a` on, take their staged values (R449). -/
def State.applyStaged (s : State) (a : Nat) : Nat → State
  | 0 => s
  | n + 1 =>
    let s1 := match tabGet (fun _ => none) s.staged a with
      | some w => { s.wr a w with staged := tabSet (fun _ => none) s.staged a none }
      | none => s
    s1.applyStaged (a + 2) n

/-- Masked bits `mask` of the RW fields of the immediate register at `a`, whose fields `rw` are, take a value: those of a group are
staged, and NAME0 applies them with itself (R449). -/
def State.immediateWrite (s : State) (a : Nat) (rw mask v : Word) : State :=
  if rw = 0 || actsOnly a then s
  else match groupOf a with
  | none => s.wr a ((s.rd a &&& ~~~mask) ||| (v &&& mask))
  | some (base, len) =>
    if a = base then (s.wr a ((s.rd a &&& ~~~mask) ||| (v &&& mask))).applyStaged (a + 2) (len - 1)
    else
      let w := (tabGet (fun _ => none) s.staged a).getD (s.rd a)
      { s with staged := tabSet (fun _ => none) s.staged a (some ((w &&& ~~~mask) ||| (v &&& mask))) }

/-- A direct write to an RWT register (R398). -/
def directWrite (s : State) : State := (s.inc TOL_DIRECT_CNT).evt TOL_EVT 1

/-- A pulse register with an operand, CAL_RELEASE: a write whose GO is 0 requests nothing. -/
def State.releaseWrite (s : State) (v : Word) : State :=
  if v.getLsbD 15 then s.shadowWrite CAL_RELEASE (maskAt .wo CAL_RELEASE) 0 v else s

/-- A host write of 16 bits at BAR0 offset `a` outside the shadow view (R444 to R446, R449). -/
def writeWord (a : Nat) (v : Word) (s : State) : State :=
  match regAt a with
  | none => s
  | some (r, _) =>
    if !s.answers a then s
    else if accMask .rwt r ≠ 0 then directWrite s
    else
      let w1c := accMask .w1c r &&& ~~~tabGet (fun _ => 0) s.fresh a
      let s1 := if accMask .w1c r = 0 then s else s.wr a (s.rd a &&& ~~~(v &&& w1c))
      let rw := accMask .rw r
      let wo := accMask .wo r
      if r.shadowed then if a = CAL_RELEASE then s1.releaseWrite v else s1.shadowWrite a rw wo v
      else actAt a v (s1.immediateWrite a rw rw v)

/-- The registers at `a` and `a + 2` belong to one group of immediate RW registers. -/
def oneGroup (a : Nat) : Bool :=
  match groupOf a, groupOf (a + 2), regAt a with
  | some x, some y, some (r, _) => x == y && !r.shadowed && accMask .rw r != 0#16
  | _, _, _ => false

/-- A write of 32 bits: both registers in one clock. In a group of immediate RW registers the higher is staged before NAME0 applies
it. In the shadow view it is an access error (R442). -/
def writePair (a v : Nat) (s : State) : State :=
  let lo : Word := BitVec.ofNat 16 v
  let hi : Word := BitVec.ofNat 16 (v / 65536)
  if viewStart ≤ a ∧ a < msixStart then s.accessError a 2
  else if oneGroup a then writeWord a lo (writeWord (a + 2) hi s) else writeWord (a + 2) hi (writeWord a lo s)

/-- `n` 32-bit writes in ascending order. -/
def writePairs (a : Nat) : Nat → Nat → State → State
  | 0, _, s => s
  | n + 1, v, s => writePairs (a + 4) n (v / 2 ^ 32) (writePair a v s)

/-- A host write of `width` bytes at BAR0 offset `a`. -/
def busWrite (a width v : Nat) (s : State) : State :=
  match accessCause a width with
  | some c => s.accessError a c
  | none =>
    if width ≠ 2 then writePairs a (width / 4) v s
    else if viewStart ≤ a ∧ a < msixStart then s.accessError a 2
    else writeWord a (BitVec.ofNat 16 v) s

end Sys2Proof.Machine
end

