-- ==== Sys2Proof/Machine/Profile.lean ====
section
/-!
DEFINITION. Machine/Profile.lean: the profile commands (R342 to R344, Table 12.7): their checks, their writes when their stage work
item acts, and their completion; and the acting of stage work items (R469).
-/

namespace Sys2Proof.Machine

/-! Table 12.7. -/

/-- The registers that an opcode may write through windows of a kind, as window base, stride, first and last offset, and the bits
of their fields that it names. -/
def profileFields (op kind : Nat) : List (Nat × Nat × Nat × Nat × Nat) :=
  match op, kind with
  | 0x0101, 0 => [(0x1000, 0, 0x40, 0x7E, 0xFFFF)]
  | 0x0102, 2 => [(0x100000, 0x1000, 0, 0, 1)]
  | 0x0103, 2 => [(0x100000, 0x1000, 0, 0, 2)]
  | 0x0104, 2 => [(0x100000, 0x1000, 0x12, 0x16, 0xFFFF)]
  | 0x0105, 2 => [(0x150000, 0x100, 4, 4, 1)]
  | 0x0106, 2 => [(0x150000, 0x100, 0, 0, 0xFFFF), (0x150000, 0x100, 0x0C, 0x0C, 0xFFFF)]
  | 0x0110, 1 => [(0x1000000, 0x1000, 0x10, 0x1E, 0xFFFF)]
  | 0x0111, 1 => [(0x1000000, 0x1000, 0x800, 0xDFE, 0xFFFF)]
  | 0x0111, 2 => [(0x140000, 0x100, 0, 0x7E, 0xFFFF)]
  | 0x0112, 1 => [(0x1000000, 0x1000, 0x100, 0x106, 0xFFFF)]
  | 0x0118, 3 => [(0x180000, 0x100, 4, 6, 0xFFFF)]
  | 0x0119, 3 => [(0x180000, 0x100, 0, 0, 2)]
  | 0x011A, 3 => [(0x180000, 0x100, 0, 0, 1)]
  | 0x011B, 0 => [(0x3000, 0, 0, 0x24, 0xFFFF)]
  | 0x0120, 4 => [(0x200000, 0x2000, 0, 0, 1), (0x200000, 0x2000, 8, 8, 0xFFFF)]
  | 0x0121, 4 => [(0x200000, 0x2000, 0, 0, 2)]
  | 0x0122, 4 => [(0x200000, 0x2000, 0x0A, 0x0A, 0xFFFF), (0x200000, 0x2000, 0x10, 0x18, 0xFFFF), (0x240000, 0x100, 0, 2, 0xFFFF)]
  | 0x0128, 4 => [(0x250000, 0x100, 0, 0, 1)]
  | 0x0129, 4 => [(0x250000, 0x100, 0, 0, 2)]
  | 0x012A, 4 => [(0x250000, 0x100, 8, 0x3A, 0xFFFF)]
  | 0x0130, 1 => [(0x1000000, 0x1000, 0x202, 0x20E, 0xFFFF)]
  | 0x0131, 1 => [(0x1000000, 0x1000, 0x200, 0x200, 1)]
  | 0x0132, 1 => [(0x1000000, 0x1000, 0x200, 0x200, 2)]
  | 0x0138, 5 => [(0x300000, 0x100, 0, 8, 0xFFFF)]
  | 0x0139, 1 => [(0x1000000, 0x1000, 0x140, 0x142, 0xFFFF)]
  | 0x0139, 5 => [(0x300000, 0x100, 0x40, 0x42, 0xFFFF)]
  | 0x013A, 1 => [(0x1000000, 0x1000, 0x400, 0x408, 0xFFFF)]
  | 0x013A, 5 => [(0x300000, 0x100, 0x80, 0x88, 0xFFFF)]
  | 0x013B, 6 => [(0x1C0000, 0x40, 2, 2, 1)]
  | 0x0140, 0 => [(0x6000, 0, 0, 0, 1), (0x6000, 0, 2, 6, 0xFFFF)]
  | 0x0141, 0 => [(0x6000, 0, 0, 0, 2)]
  | 0x0142, 0 => [(0x6000, 0, 0x30, 0x3E, 0xFFFF)]
  | 0x0143, 0 => [(0x6000, 0, 0x20, 0x20, 0xFFFF)]
  | 0x0144, 0 => [(0x6000, 0, 0x40, 0x40, 0xFFFF)]
  | _, _ => []

/-- The last unit of a kind of window: for kind 4 the unit numbers 0 to 19. -/
def kindLast (kind : Nat) : Nat := [0, 2175, 63, 511, 19, 255, 511].getD kind 0

/-! The command entry (R342). -/

def profKind (e : List Byte) : Nat := param e 0 1
def profCount (e : List Byte) : Nat := param e 1 1
def profFirst (e : List Byte) : Nat := param e 4 2
def profLast (e : List Byte) : Nat := param e 6 2

/-- The COUNT writes, as OFFSET, MASK and VALUE. -/
def profWrites (e : List Byte) : List (Nat × Nat × Nat) :=
  (List.range (profCount e)).map fun i => (param e (8 + 6 * i) 2, param e (10 + 6 * i) 2, param e (12 + 6 * i) 2)

/-- The register that a write at window offset `off` reaches in unit 0, the stride of its windows, and the bits it may write. -/
def profTarget (e : List Byte) (off : Nat) : Option (Nat × Nat × Word) :=
  match (profileFields (entOp e) (profKind e)).find? fun f => f.2.2.1 ≤ off && off ≤ f.2.2.2.1 with
  | none => none
  | some (base, stride, _, _, cap) =>
    match regAt (base + off) with
    | none => none
    | some (r, _) => some (base + off, stride, (accMask .rw r ||| accMask .wo r) &&& BitVec.ofNat 16 cap)

/-- A MASK has a bit outside the fields of the opcode. -/
def maskBad (e : List Byte) (w : Nat × Nat × Nat) : Bool :=
  match profTarget e w.1 with
  | none => w.2.1 ≠ 0
  | some (_, _, m) => BitVec.ofNat 16 w.2.1 &&& ~~~m ≠ 0#16

/-- The cost of the item (R343). -/
def profCost (e : List Byte) : Nat := 32 + ((profLast e - profFirst e + 1) * profCount e + 15) / 16

/-- The opcode's own checks (R336, R343). -/
def profileCode (e : List Byte) : Option Nat :=
  if profCount e = 0 || profCount e > 12 || !paramZero e 2 2 || !paramZero e (8 + 6 * profCount e) (72 - 6 * profCount e) then some 0x1502
  else if (profileFields (entOp e) (profKind e)).isEmpty || profFirst e > profLast e || profLast e > kindLast (profKind e) then some 0x1506
  else if (profWrites e).any (maskBad e) then some 0x1505
  else if profCost e > 2304 then some 0x1507
  else none

/-! The writes (R342, R344). -/

/-- One masked write of the item, to the register at `a`. -/
def profileWrite (a : Nat) (mask v : Word) (s : State) : State :=
  match regAt a with
  | none => s
  | some (r, _) =>
    let rw := accMask .rw r
    let wo := accMask .wo r &&& mask
    if mask = 0 then s
    else if r.shadowed then s.shadowItem a (rw &&& mask) wo v
    else actAt a (v &&& mask) (s.immediateWrite a rw (rw &&& mask) v)

/-- The units that a profile command names. -/
def profUnits (e : List Byte) : List Nat := (List.range (profLast e - profFirst e + 1)).map (profFirst e + ·)

/-- All writes of a profile command, in the clock in which its item acts; the command then waits for its tick. -/
def profileActs (e : List Byte) (s : State) : State :=
  let s1 := s.each (profUnits e) fun t n =>
    (profWrites e).foldl (fun u w => match profTarget e w.1 with
      | some (a, stride, _) => profileWrite (a + stride * n) (BitVec.ofNat 16 w.2.1) (BitVec.ofNat 16 w.2.2) u
      | none => u) t
  { s1 with host := { s1.host with profiles := s1.host.profiles ++ [⟨e⟩] } }

/-- All of its writes reach immediate registers. -/
def profImmediate (e : List Byte) : Bool :=
  (profWrites e).all fun w => w.2.1 == 0 || (profTarget e w.1).any fun t => !isShadowed t.1

/-! Completion (R344). -/

/-- The code with which unit `n` refused a control bit that the command wrote: as 1, or at all in the commands of the calibration
block whose bits are settings. -/
def State.unitRefusal (s : State) (e : List Byte) (n : Nat) : Option Nat :=
  (profWrites e).findSome? fun w =>
    if w.2.1 &&& w.2.2 = 0 ∧ entOp e < 0x0142 then none
    else match profTarget e w.1 with
      | some (a, stride, _) => (s.refused.find? fun r => r.1 == a + stride * n).map (·.2)
      | none => none

/-- A profile command completes at the tick of its writes. -/
def profileDone (s : State) (p : OpenProfile) : State :=
  let no := (profUnits p.entry).filterMap fun n => (s.unitRefusal p.entry n).map fun c => (n, c)
  match no with
  | [] => s.complete (entTag p.entry) (entOp p.entry) 0 0 0 0
  | (n, c) :: _ => s.complete (entTag p.entry) (entOp p.entry) c no.length n 0

/-- At a tick the profile commands complete whose writes take effect; under a hold those with a shadowed write wait. -/
def State.profilesDone (s : State) (held : Bool) : State :=
  let stay := s.host.profiles.filter fun p => held && !profImmediate p.entry
  let go := s.host.profiles.filter fun p => !held || profImmediate p.entry
  let s1 := go.foldl profileDone s
  { s1 with host := { s1.host with profiles := stay }, refused := [] }

/-! The command (R336, R343). -/

/-- A profile command of opcode `op` at the head of the ring: accepted, it is one class 5 stage work item. -/
def profileCommand (op : Nat) (e : List Byte) (s : State) : State :=
  ringCommand op e (fun _ => profileCode e) (fun _ t => t) (fun tag t => t.arrive 5 tag (profCost e) (.profile e)) s

/-! Stage work items act (R469). -/

/-- The oldest running item acts: the writes of a profile command reach the shadows; what any other item does waits for its tick. Only
in the clock in which the item acts do its writes win over a direct write (R21). -/
def itemActs (s : State) : State :=
  match s.sched.running with
  | [] => s
  | (w, act) :: rest =>
    let s1 := { s with sched := { s.sched with running := rest, acted := s.sched.acted ++ [w] } }
    match w.kind with
    | .profile e => let s2 := profileActs e s1; if act = s.time.up then s2 else { s2 with claimed := s.claimed }
    | _ => s1

/-- The next item to act, in its clock. -/
def nextItemActs (s : State) : State :=
  match s.sched.running with
  | [] => s
  | (_, act) :: _ => s.atDue act itemActs

/-- Every admitted item acts before the tick that ends its stage. -/
def allItemsAct : Nat → State → State
  | 0, s => s
  | n + 1, s => match s.sched.running with
    | [] => s
    | _ :: _ => allItemsAct n (itemActs s)

/-- Of the admitted items, at most the `n` oldest, those whose clock has come act. -/
def dueItemsAct : Nat → State → State
  | 0, s => s
  | n + 1, s => match s.sched.running with
    | [] => s
    | (_, act) :: _ => if act ≤ s.time.up then dueItemsAct n (itemActs s) else s

/-- Every item whose clock has come acts before a host access of this clock (R21, R469). -/
def State.itemsDue (s : State) : State := dueItemsAct s.sched.running.length s

/-! The rows. -/

/-- REGISTER_WRITE (R444). -/
def execRegisterWrite (a width v : Nat) (s : State) : Host.Outcome State Fault Refusal := .next (busWrite a width v s.itemsDue)

/-- COUNTER_READ_CLEAR (R447): a 16-bit read of a register with a counter. -/
def execCounterReadClear (a : Nat) (s : State) : Host.Outcome State Fault Refusal :=
  .next (match regAt a with
    | some (r, _) => if accMask .rc r = 0 then s else busRead a 2 s.itemsDue
    | none => s)

/-- GROUP_READ_LATCH (R448): a read of `width` bytes. -/
def execGroupReadLatch (a width : Nat) (s : State) : Host.Outcome State Fault Refusal := .next (busRead a width s.itemsDue)

/-- CTIME_LATCH (R29). -/
def execCtimeLatch (s : State) : Host.Outcome State Fault Refusal := .next (busRead SYS_CTIME 2 s.itemsDue)

/-- DIRECT_WRITE (R398). -/
def execDirectWrite (a v : Nat) (s : State) : Host.Outcome State Fault Refusal :=
  .next (match regAt a with
    | some (r, _) => if accMask .rwt r = 0 then s else busWrite a 2 v s.itemsDue
    | none => s)

/-- COMMIT_HOLD_SET (R22). -/
def execCommitHoldSet (s : State) : Host.Outcome State Fault Refusal := .next (busWrite SYS_CTL 2 1 s.itemsDue)

/-- COMMIT_HOLD_RELEASE (R22). -/
def execCommitHoldRelease (s : State) : Host.Outcome State Fault Refusal := .next (busWrite SYS_CTL 2 0 s.itemsDue)

/-- WORK_ITEM_ACTS (R469). -/
def execWorkItemActs (s : State) : Host.Outcome State Fault Refusal := .next (nextItemActs s)

/-- SITE_ENABLE (R343). -/
def execSiteEnable (entry : List Byte) (s : State) : Host.Outcome State Fault Refusal := .next (profileCommand 0x0101 (padTo 128 entry) s)

/-- RUN_START (R343). -/
def execRunStart (entry : List Byte) (s : State) : Host.Outcome State Fault Refusal := .next (profileCommand 0x0102 (padTo 128 entry) s)

/-- RUN_STOP (R343). -/
def execRunStop (entry : List Byte) (s : State) : Host.Outcome State Fault Refusal := .next (profileCommand 0x0103 (padTo 128 entry) s)

/-- JUMP_REQUEST (R343). -/
def execJumpRequest (entry : List Byte) (s : State) : Host.Outcome State Fault Refusal := .next (profileCommand 0x0104 (padTo 128 entry) s)

/-- SOUND (R343). -/
def execSoundCmd (entry : List Byte) (s : State) : Host.Outcome State Fault Refusal := .next (profileCommand 0x0105 (padTo 128 entry) s)

/-- RUN_CONFIG (R343). -/
def execRunConfig (entry : List Byte) (s : State) : Host.Outcome State Fault Refusal := .next (profileCommand 0x0106 (padTo 128 entry) s)

/-- PIN_LEVELS (R343). -/
def execPinLevels (entry : List Byte) (s : State) : Host.Outcome State Fault Refusal := .next (profileCommand 0x0110 (padTo 128 entry) s)

/-- PIN_TIMING (R343). -/
def execPinTiming (entry : List Byte) (s : State) : Host.Outcome State Fault Refusal := .next (profileCommand 0x0111 (padTo 128 entry) s)

/-- PMU_SET (R343). -/
def execPmuSet (entry : List Byte) (s : State) : Host.Outcome State Fault Refusal := .next (profileCommand 0x0112 (padTo 128 entry) s)

/-- ASSAY_CONFIG (R343). -/
def execAssayConfig (entry : List Byte) (s : State) : Host.Outcome State Fault Refusal := .next (profileCommand 0x0118 (padTo 128 entry) s)

/-- ASSAY_FINALIZE (R343). -/
def execAssayFinalize (entry : List Byte) (s : State) : Host.Outcome State Fault Refusal := .next (profileCommand 0x0119 (padTo 128 entry) s)

/-- ASSAY_CLEAR (R343). -/
def execAssayClear (entry : List Byte) (s : State) : Host.Outcome State Fault Refusal := .next (profileCommand 0x011A (padTo 128 entry) s)

/-- ABORT_POLICY (R343). -/
def execAbortPolicy (entry : List Byte) (s : State) : Host.Outcome State Fault Refusal := .next (profileCommand 0x011B (padTo 128 entry) s)

/-- WAVE_START (R343). -/
def execWaveStart (entry : List Byte) (s : State) : Host.Outcome State Fault Refusal := .next (profileCommand 0x0120 (padTo 128 entry) s)

/-- WAVE_STOP (R343). -/
def execWaveStop (entry : List Byte) (s : State) : Host.Outcome State Fault Refusal := .next (profileCommand 0x0121 (padTo 128 entry) s)

/-- AWG_SET (R343). -/
def execAwgSet (entry : List Byte) (s : State) : Host.Outcome State Fault Refusal := .next (profileCommand 0x0122 (padTo 128 entry) s)

/-- ACQ_ARM (R343). -/
def execAcqArm (entry : List Byte) (s : State) : Host.Outcome State Fault Refusal := .next (profileCommand 0x0128 (padTo 128 entry) s)

/-- ACQ_STOP (R343). -/
def execAcqStop (entry : List Byte) (s : State) : Host.Outcome State Fault Refusal := .next (profileCommand 0x0129 (padTo 128 entry) s)

/-- ACQ_SET (R343). -/
def execAcqSet (entry : List Byte) (s : State) : Host.Outcome State Fault Refusal := .next (profileCommand 0x012A (padTo 128 entry) s)

/-- TDC_SET (R343). -/
def execTdcSet (entry : List Byte) (s : State) : Host.Outcome State Fault Refusal := .next (profileCommand 0x0130 (padTo 128 entry) s)

/-- TDC_ARM (R343). -/
def execTdcArm (entry : List Byte) (s : State) : Host.Outcome State Fault Refusal := .next (profileCommand 0x0131 (padTo 128 entry) s)

/-- TDC_DISARM (R343). -/
def execTdcDisarm (entry : List Byte) (s : State) : Host.Outcome State Fault Refusal := .next (profileCommand 0x0132 (padTo 128 entry) s)

/-- SLICE_SET (R343). -/
def execSliceSet (entry : List Byte) (s : State) : Host.Outcome State Fault Refusal := .next (profileCommand 0x0138 (padTo 128 entry) s)

/-- PMU_MEASURE (R343). -/
def execPmuMeasure (entry : List Byte) (s : State) : Host.Outcome State Fault Refusal := .next (profileCommand 0x0139 (padTo 128 entry) s)

/-- MONITOR_SET (R343). -/
def execMonitorSet (entry : List Byte) (s : State) : Host.Outcome State Fault Refusal := .next (profileCommand 0x013A (padTo 128 entry) s)

/-- TRIP_CLEAR (R343). -/
def execTripClear (entry : List Byte) (s : State) : Host.Outcome State Fault Refusal := .next (profileCommand 0x013B (padTo 128 entry) s)

/-- CALIBRATE (R343). -/
def execCalibrate (entry : List Byte) (s : State) : Host.Outcome State Fault Refusal := .next (profileCommand 0x0140 (padTo 128 entry) s)

/-- CAL_ABORT (R343). -/
def execCalAbort (entry : List Byte) (s : State) : Host.Outcome State Fault Refusal := .next (profileCommand 0x0141 (padTo 128 entry) s)

/-- SPARE_SET (R343). -/
def execSpareSet (entry : List Byte) (s : State) : Host.Outcome State Fault Refusal := .next (profileCommand 0x0142 (padTo 128 entry) s)

/-- CLUSTER_ISOLATE (R343). -/
def execClusterIsolate (entry : List Byte) (s : State) : Host.Outcome State Fault Refusal := .next (profileCommand 0x0143 (padTo 128 entry) s)

/-- STACK_CASTOUT (R343). -/
def execStackCastout (entry : List Byte) (s : State) : Host.Outcome State Fault Refusal := .next (profileCommand 0x0144 (padTo 128 entry) s)

end Sys2Proof.Machine
end

