-- ==== Sys2Proof/Machine/Commands.lean ====
section
/-!
DEFINITION. Machine/Commands.lean: the commands of the ring that are neither profile commands nor trust and firmware commands: casting
loads and recasts, copies, the calibration record and the tolled register write (Tables 12.5 and 12.6, R397).
-/

namespace Sys2Proof.Machine

/-! Castings (R63, R70, R71). -/

/-- A casting code that refuses a command at acceptance shows as R56 states. -/
def castNote (recast : Bool) (c : Nat) (s : State) : State := if 0x0C00 ≤ c ∧ c < 0x0D00 then s.castError recast ⟨c, 0, 0⟩ else s

/-- CAST_LOAD's own checks. -/
def castLoadCode (e : List Byte) (s : State) : Option Nat :=
  if castParamsBad false e then some 0x1502 else if castAddressBad e then some 0x1504 else s.loadCode e

/-- CAST_RECAST's own checks. -/
def castRecastCode (e : List Byte) (s : State) : Option Nat :=
  if castParamsBad true e then some 0x1502 else if castAddressBad e then some 0x1504 else s.recastCode e

/-! Copies (R195, R341). -/

/-- SEG_LOAD's own checks. -/
def segCode (e : List Byte) (s : State) : Option Nat :=
  if !paramZero e 1 1 || !paramZero e 4 4 || !paramZero e 22 2 || !paramZero e 28 52 then some 0x1502 else s.segLoadCode e

/-- WAVE_LOAD's own checks. -/
def waveLoadCode (e : List Byte) (s : State) : Option Nat :=
  if !paramZero e 2 6 || !paramZero e 24 56 || waveLoadUnit e > 19 || waveLoadSource e > 1 || waveLoadCount e = 0 then some 0x1502
  else if waveLoadAddr e % 64 ≠ 0 then some 0x1504
  else s.waveCode (waveLoadUnit e) (waveLoadFirst e) (waveLoadCount e)

/-- A copy begins. -/
def copyBegin (op : Nat) (e : List Byte) (tag : Nat) (s : State) : State :=
  let area := match findStore s.casting (segLoadPart e) with
    | some r => if op = 0x0010 then (s.dirEntry r (segLoadEntry e)).dataArea else (0, 0)
    | none => (0, 0)
  { s with loads := s.loads ++ [⟨tag, op, e, area⟩] }

/-! The calibration record (R311, R436). -/

def calStoreBegin (tag : Nat) (s : State) : State := s.nvBegin (.calRecord s.calRecord tag) s.calRecord.length

/-! The tolled register write (R397). -/

/-- The writes of a REG_WRITE_T, as OFFSET, MASK and VALUE. -/
def tolledWrites (e : List Byte) : List (Nat × Word × Word) :=
  (List.range (param e 0 1)).map fun i =>
    (param e (8 + 8 * i) 4, BitVec.ofNat 16 (param e (12 + 8 * i) 2), BitVec.ofNat 16 (param e (14 + 8 * i) 2))

/-- The masked bits of one target's shadow are set. -/
def tolledWrite (s : State) (w : Nat × Word × Word) : State :=
  match regAt w.1 with
  | some (r, _) => s.shadowWrite w.1 (w.2.1 &&& accMask .rwt r) 0 w.2.2
  | none => s

/-- An injection register is set, or altered while it is enabled (R399). -/
def State.injectionChange (s : State) (w : Nat × Word × Word) : Bool :=
  fiRegs.contains w.1 &&
    ((w.2.1 &&& w.2.2).getLsbD 15 || (s.bit w.1 15 && ((s.shadowOf w.1 ^^^ w.2.2) &&& w.2.1) ≠ 0))

/-- The refusal of the ceilings among the writes, judged in their order (R277). -/
def ceilingsCode (s : State) : List (Nat × Word × Word) → Option Nat
  | [] => none
  | w :: ws =>
    let t := tolledWrite s w
    if DPS_SCEIL 0 ≤ w.1 ∧ w.1 ≤ DPS_SCEIL 511 then
      match s.ceilCode ((w.1 - DPS_SCEIL 0) / 2) (t.shadowOf w.1).toNat with
      | some c => some c
      | none => ceilingsCode t ws
    else ceilingsCode t ws

/-- REG_WRITE_T's own checks. -/
def regWriteCode (e : List Byte) (s : State) : Option Nat :=
  let n := param e 0 1
  if n = 0 || n > 8 || !paramZero e 1 7 || !paramZero e (8 + 8 * n) (72 - 8 * n) then some 0x1502
  else if (tolledWrites e).any fun w => (tollClassOf w.1).isNone then some 0x1726
  else if s.touchdown && (tolledWrites e).any s.injectionChange then some 0x1738
  else ceilingsCode s (tolledWrites e)

/-- What a refusal shows beside its completion. -/
def regWriteNote (c : Nat) (s : State) : State :=
  if c = 0x1304 ∨ c = 0x1305 then (s.wrN DPS_CCODE c).evt DPS_CEVT 0 else tollNote c s

/-- The accepted writes, all in one clock; the command completes at their tick. -/
def regWriteBegin (e : List Byte) (tag : Nat) (s : State) : State :=
  let s1 := (tolledWrites e).foldl tolledWrite s
  { s1 with host := { s1.host with tolled := s1.host.tolled ++ [(tag, s.inCut)] } }

/-! The rows. -/

/-- CAST_LOAD (R63). -/
def execCastLoad (entry : List Byte) (s : State) : Host.Outcome State Fault Refusal :=
  .next (let e := padTo 128 entry; ringCommand 0x0001 e (castLoadCode e) (castNote false) (fun tag => loadBegin tag e) s)

/-- CAST_RECAST (R70). -/
def execCastRecast (entry : List Byte) (header : Option (List Byte)) (s : State) : Host.Outcome State Fault Refusal :=
  .next (let e := padTo 128 entry; ringCommand 0x0002 e (castRecastCode e) (castNote true) (fun tag => recastBegin tag e header) s)

/-- CAST_CANCEL (R71). -/
def execCastCancel (entry : List Byte) (s : State) : Host.Outcome State Fault Refusal :=
  .next (let e := padTo 128 entry
    ringCommand 0x0003 e (fun _ => if paramZero e 0 80 then none else some 0x1502) (fun _ t => t) castCancel s)

/-- SEG_LOAD (R341). -/
def execSegLoad (entry : List Byte) (s : State) : Host.Outcome State Fault Refusal :=
  .next (let e := padTo 128 entry; ringCommand 0x0010 e (segCode e) (fun _ t => t) (copyBegin 0x0010 e) s)

/-- WAVE_LOAD (R195). -/
def execWaveLoad (entry : List Byte) (s : State) : Host.Outcome State Fault Refusal :=
  .next (let e := padTo 128 entry; ringCommand 0x0011 e (waveLoadCode e) (fun _ t => t) (copyBegin 0x0011 e) s)

/-- CAL_STORE (R311). -/
def execCalStore (entry : List Byte) (s : State) : Host.Outcome State Fault Refusal :=
  .next (let e := padTo 128 entry
    ringCommand 0x0030 e (fun _ => if paramZero e 0 80 then none else some 0x1502) (fun _ t => t) calStoreBegin s)

/-- REG_WRITE_T (R397). -/
def execRegWriteT (entry : List Byte) (s : State) : Host.Outcome State Fault Refusal :=
  .next (let e := padTo 128 entry; ringCommand 0x0020 e (regWriteCode e) regWriteNote (regWriteBegin e) s)

end Sys2Proof.Machine
end

