-- ==== Sys2Proof/Machine/Waybill.lean ====
section
/-!
DEFINITION. Machine/Waybill.lean: the checks of a block on its journey, what a failed check does, and fault injection on blocks (R375
to R380, R399, R400).
-/

namespace Sys2Proof.Machine

/-- The hop at which the block of a kind is consumed (Table 14.2). -/
def lastHop (kind : Nat) : Nat := [1, 1, 7, 6, 1, 1, 2, 2, 2, 8].getD kind 0

/-- The hop at which a refetched block of a kind enters again: its refetch source. -/
def refetchHop (kind : Nat) : Nat := [3, 0, 7, 5, 0, 0, 3, 3, 3, 3].getD kind 0

/-- The fault log keeps its 16 newest entries. -/
def State.faultEntry (s : State) (e : FaultEntry) : State := { s with way := { s.way with flog := (e :: s.way.flog).take 16 } }

/-- The journey of a block, where one of its checks has failed or it is missing. -/
def State.journey (s : State) (kind origin owner : Nat) : Option Journey :=
  s.way.journeys.find? fun j => j.kind == kind && j.origin == origin && j.owner == owner

/-- The journeys without that of a block. -/
def State.journeyGone (s : State) (kind origin owner : Nat) : State :=
  { s with way := { s.way with journeys := s.way.journeys.filter fun j => !(j.kind == kind && j.origin == origin && j.owner == owner) } }

def State.setJourney (s : State) (j : Journey) : State :=
  let t := s.journeyGone j.kind j.origin j.owner
  { t with way := { t.way with journeys := t.way.journeys ++ [j] } }

/-- What Table 14.2 states for a second failure. -/
def journeyLost (kind origin owner : Nat) (s : State) : State :=
  match kind with
  | 0 => runKill owner 0x1701 s
  | 1 => runKill owner 0x1701 s
  | 2 => ingotLost owner s
  | 3 => if owner < 20 then wfsGranuleLost owner origin s else s
  | 4 => if s.cast.recast.any fun j => j.tag == owner then recastEnds ⟨0x1701, 0, 0⟩ s else loadEnds ⟨0x1701, 0, 0⟩ s
  | 5 => if s.fw.any fun j => j.tag == owner then s.fwEnd false 0x1701 0 else ringHeadLost owner s
  | 9 => { s with way := { s.way with poison := s.way.poison ++ [origin % 2 ^ 36 * 64] } }
  | _ => s

/-- A check fails at a hop (R378): the first failure of a journey has the block fetched again, the second ends the journey. -/
def checkFails (kind origin owner hop : Nat) (injected : Bool) (s : State) : State :=
  if (s.journey kind origin owner).any fun j => j.failed then
    let open_ := 6 ≤ kind && kind ≤ 8
    let s1 := ((s.inc WAY_REPEAT_CNT).evt WAY_EVT 1).faultEntry
      ⟨hop, if open_ then 2 else 1, injected, kind, origin, s.convoyTime⟩
    let s2 := if open_ then (s1.inc WAY_UNVER_CNT).evt WAY_EVT 2 else s1
    journeyLost kind origin owner (s2.journeyGone kind origin owner)
  else
    (((s.inc WAY_ERR_CNT).evt WAY_EVT 0).faultEntry ⟨hop, 0, injected, kind, origin, s.convoyTime⟩).setJourney ⟨kind, origin, owner, true, none⟩

/-- The injection register that selects transfers of a kind at a hop. -/
def fiReg (kind hop : Nat) : Option Nat :=
  if hop = 1 then some WAY_FI_FAB else if kind = 5 ∧ hop = 0 then some WAY_FI_CMD else none

/-- A transfer is altered: it counts, and ONE_SHOT clears EN in force and in shadow. -/
def State.altered (s : State) (a : Nat) : State :=
  let s1 := s.inc WAY_FI_CNT
  if s.bit a 7 then s1.forceBits a 0x8000#16 0#16 else s1

/-- A block reaches a hop. `ok` tells that its waybill agrees, `selected` that the hop's injection selects this transfer. -/
def blockHop (kind origin owner hop : Nat) (ok selected : Bool) (s : State) : State :=
  if kind > 9 ∨ hop > 8 ∨ (s.journey kind origin owner).any (fun j => j.missing.isSome) then s
  else
    let plain := fun (t : State) =>
      if !ok then checkFails kind origin owner hop false t
      else if hop = lastHop kind then t.journeyGone kind origin owner
      else t
    match fiReg kind hop with
    | none => plain s
    | some a =>
      if !selected || !s.bit a 15 then plain s
      else
        let s1 := s.altered a
        match s.fld a 14 13 with
        | 1 => checkFails kind origin owner hop true s1
        | 2 => plain s1
        | _ =>
          let failed := (s.journey kind origin owner).any fun j => j.failed
          s1.setJourney ⟨kind, origin, owner, failed, some (hop, s.time.up)⟩

/-- A refetched block arrives: it continues its journey, or it fails again. -/
def refetchArrival (kind origin owner : Nat) (ok : Bool) (s : State) : State :=
  if kind > 9 ∨ ok ∨ !(s.journey kind origin owner).any (fun j => j.failed && j.missing.isNone) then s
  else checkFails kind origin owner (refetchHop kind) false s

/-- A dropped block is found missing 256 clocks after it was due. -/
def dropFound (kind origin owner : Nat) (s : State) : State :=
  match s.journey kind origin owner with
  | some j => match j.missing with
    | some (hop, due) => s.atDue (due + 256) fun t =>
      checkFails kind origin owner hop true (if j.failed then t.setJourney { j with missing := none } else t.journeyGone kind origin owner)
    | none => s
  | none => s

/-! The rows. -/

/-- BLOCK_HOP (R377). -/
def execBlockHop (kind origin owner hop : Nat) (ok selected : Bool) (s : State) : Host.Outcome State Fault Refusal :=
  .next (blockHop kind origin owner hop ok selected s)

/-- REFETCH_ARRIVAL (R378). -/
def execRefetchArrival (kind origin owner : Nat) (ok : Bool) (s : State) : Host.Outcome State Fault Refusal :=
  .next (refetchArrival kind origin owner ok s)

/-- INJECTED_DROP_DETECT (R400). -/
def execInjectedDropDetect (kind origin owner : Nat) (s : State) : Host.Outcome State Fault Refusal := .next (dropFound kind origin owner s)

end Sys2Proof.Machine
end

