-- ==== Sys2Proof/Machine/Tap.lean ====
section
/-!
DEFINITION. Machine/Tap.lean: the test access port (R466), which acts only while the reset input is asserted.
-/

namespace Sys2Proof.Machine

/-- The identification code. -/
def State.idcode (s : State) : Nat := (s.fld SYS_HWVER 15 8 % 16) * 2 ^ 28 + 0x2048 * 2 ^ 12 + 0x2EA * 2 + 1

/-- The port takes an instruction while the reset input is asserted; at other times it stays in Test-Logic-Reset. -/
def State.tapTakes (s : State) (f : Tap → Tap) : State := if s.start.held then { s with tap := f s.tap } else s

/-- BYPASS: one bit, captured as 0, stands between TDI and TDO; the boundary register drives nothing. -/
def tapBypass (s : State) : State := s.tapTakes fun t => { t with instr := .bypass, bypass := false, driven := [] }

/-- SAMPLE/PRELOAD: the boundary register samples the contacts, and its update stage takes the bits shifted in. -/
def tapSample (pins shiftIn : List Bool) (s : State) : State :=
  s.tapTakes fun t => { t with instr := .samplePreload, boundary := pins, update := shiftIn, driven := [] }

/-- EXTEST: the contacts take the update stage, and the boundary register captures what stands on them. -/
def tapExtest (pins : List Bool) (s : State) : State :=
  s.tapTakes fun t => { t with instr := .extest, boundary := pins, driven := t.update }

/-- IDCODE: the identification register captures the code, which the host reads. -/
def tapIdcode (s : State) : State :=
  if s.start.held then { s with tap := { s.tap with instr := .idcode, idreg := s.idcode, driven := [] }, read := ⟨s.idcode, [], false⟩ }
  else s

/-! The rows. -/

/-- BYPASS (R466). -/
def execBypass (s : State) : Host.Outcome State Fault Refusal := .next (tapBypass s)

/-- SAMPLE_PRELOAD (R466). -/
def execSamplePreload (pins shiftIn : List Bool) (s : State) : Host.Outcome State Fault Refusal := .next (tapSample pins shiftIn s)

/-- EXTEST (R466). -/
def execExtest (pins : List Bool) (s : State) : Host.Outcome State Fault Refusal := .next (tapExtest pins s)

/-- IDCODE (R466). -/
def execIdcode (s : State) : Host.Outcome State Fault Refusal := .next (tapIdcode s)

end Sys2Proof.Machine
end

