-- ==== Sys2Proof/Machine/Stage.lean ====
section
/-!
DEFINITION. Machine/Stage.lean: the stage tick (R15 to R26, R30, R365): the copy of shadows and what each setting does as it takes
effect, the admission of stage work, and the ticks of admitted items; and the time that passes where no command waits.
notes/assumptions/44.md.
-/

namespace Sys2Proof.Machine

/-! The copy (R18, R22). -/

/-- A register that took effect at this tick, with its pulses. -/
abbrev Taken := Nat × Word

/-- One shadow reaches the register in force: its RW and RWT fields. -/
def copyShadow (s : State) (e : Nat × Option Word) : State :=
  match e.2 with
  | none => s
  | some w =>
    let m := maskAt .rw e.1 ||| maskAt .rwt e.1
    s.wr e.1 ((s.rd e.1 &&& ~~~m) ||| (w &&& m))

/-- The registers that a copy writes, in ascending order, with their pulses. -/
def State.taken (s : State) : List Taken := s.shadow.filterMap fun e => e.2.map fun w => (e.1, w &&& maskAt .wo e.1)

/-- The writes of the stage that ends take effect, and those of the commit cut belong to the stage that begins. -/
def State.copyShadows (s : State) : State := { s.shadow.foldl copyShadow s with shadow := s.shadowNext, shadowNext := [] }

/-- Under a hold the writes of the commit cut join those that wait. -/
def joinShadow (m : Tab (Option Word)) (e : Nat × Option Word) : Tab (Option Word) :=
  match e.2 with
  | none => m
  | some w =>
    let p := match tabGet (fun _ => none) m e.1 with
      | some v => v &&& maskAt .wo e.1
      | none => 0
    tabSet (fun _ => none) m e.1 (some (w ||| p))

def State.keepShadows (s : State) : State := { s with shadow := s.shadowNext.foldl joinShadow s.shadow, shadowNext := [] }

/-- No commit takes place at this tick: a hold is in force and its release does not belong to the stage that ends (R22). -/
def State.held (s : State) : Bool := s.hold.inForce && s.hold.release ≠ 1

/-- The hold at a tick. -/
def Hold.atTick (h : Hold) : Hold :=
  if !h.inForce then h
  else if h.release = 1 then ⟨false, 0, 0⟩
  else if h.release = 2 then ⟨true, 1, 0⟩
  else ⟨true, 0, h.ticks + 1⟩

/-! What a register does as it takes effect. `b` is the state before the copy. -/

/-- A measurement block. -/
def measHook (m : Nat) (e : Taken) (s : State) : State := if e.1 = PMU_MEAS_CTL m ∧ e.2.getLsbD 0 then measGo m s else s

/-- A monitor block. -/
def monHook (b : State) (u : Nat) (e : Taken) (s : State) : State :=
  let m := monBase u
  if e.1 = MON_CFG m then
    (if bitsOf (b.rd e.1) 15 12 = s.fld e.1 15 12 then s else s.monSchedule m).monRefresh u
  else s

/-- A pin channel's registers. Levels, modes and PMU settings of an outrider that holds a duty are kept and not applied (R163). -/
def channelHook (b : State) (ch : Nat) (e : Taken) (s : State) : State :=
  let a := e.1
  let own := s.ownApplied ch
  if (levelRegs ch).contains a then s.when own (·.levelCommit ch a)
  else if a = PIN_MODE ch then s.when own fun t => awgPinCheck ch (t.driveFollow ch)
  else if a = PMU_MODE ch then s.when own fun t => awgPinCheck ch (t.pmuModeCommit ch (b.rd a))
  else if a = PMU_FORCE ch then s.when own (·.settingEvent (monOfChannel ch))
  else if a = PMU_CLAMP_HI ch ∨ a = PMU_CLAMP_LO ch then s.when own fun t => (t.pmuUpdate ch).settingEvent (monOfChannel ch)
  else if a = TDC_CTL ch then
    let s1 := if e.2.getLsbD 0 then tdcArm ch s else s
    if e.2.getLsbD 1 then tdcDisarm ch s1 else s1
  else if a = TDC_CD_CTL ch then
    let s1 := if e.2.getLsbD 0 then cdGo ch s else s
    if e.2.getLsbD 1 then cdAbort ch s1 else s1
  else monHook b ch e (measHook (measOfChannel ch) e s)

/-- A power slice's registers. -/
def sliceHook (b : State) (i : Nat) (e : Taken) (s : State) : State :=
  let a := e.1
  if a = DPS_CTL i then dpsCtlCommit i s
  else if a = DPS_VSET i then dpsVsetCommit i s
  else if a = DPS_RAMP i then dpsRampCommit i s
  else if a = DPS_ILIM i then dpsIlimCommit i s
  else monHook b (2176 + i) e (measHook (measOfSlice i) e s)

/-- A digitizer's registers. -/
def acqHook (b : State) (u : Nat) (e : Taken) (s : State) : State :=
  let a := e.1
  if a = ACQ_CTL u then
    let s1 := if e.2.getLsbD 0 then acqArm u s else s
    let s2 := if e.2.getLsbD 1 then acqStop u s1 else s1
    if e.2.getLsbD 2 then acqForce u s2 else s2
  else if a = ACQ_IN u then acqInCommit u (b.rd a) s
  else if a = ACQ_OFFSET u ∨ a = ACQ_TRIG_LVL u ∨ a = ACQ_TRIG_HYST u then (if b.rd a = s.rd a then s else acqChanged u s)
  else if a = ACQ_SEGS u then acqCapacity u s
  else s

/-- A waveform sequencer's control register. -/
def wfsHook (u : Nat) (e : Taken) (s : State) : State :=
  if e.1 = WFS_CTL u then
    let s1 := if e.2.getLsbD 0 then wfsStart u s else s
    let s2 := if e.2.getLsbD 1 then wfsStop u s1 else s1
    if e.2.getLsbD 2 then wfsAdvance u s2 else s2
  else s

/-- A context's registers. -/
def seqHook (c : Nat) (e : Taken) (s : State) : State :=
  if e.1 = SEQ_CTL c then
    let s1 := if e.2.getLsbD 0 then seqStart c s else s
    let s2 := if e.2.getLsbD 1 then seqStop c s1 else s1
    let s3 := if e.2.getLsbD 2 then seqResume c s2 else s2
    if e.2.getLsbD 3 then seqRestart c s3 else s3
  else if e.1 = SEQ_JMODE c then jumpLatch c s
  else s

/-- The calibration block's registers. -/
def calHook (b : State) (e : Taken) (s : State) : State :=
  let a := e.1
  if a = CAL_REQ_CTL then
    let s1 := if e.2.getLsbD 0 then calGo s.cal.zeners s else s
    if e.2.getLsbD 1 then calAbort s1 else s1
  else if a = CAL_RELEASE then (if e.2.getLsbD 15 then calRelease (bitsOf e.2 11 0) s else s)
  else if a = CAL_STACK then stackCommit (b.rd a) s
  else if a = CAL_ISO then isoCommit (b.rd a) s
  else if CAL_SUB_ACQ 0 ≤ a ∧ a ≤ CAL_SUB_ACQ 3 then subCommit false ((a - CAL_SUB_ACQ 0) / 2) (b.rd a) s
  else if CAL_SUB_AWG 0 ≤ a ∧ a ≤ CAL_SUB_AWG 3 then subCommit true ((a - CAL_SUB_AWG 0) / 2) (b.rd a) s
  else s

/-- The register `e` took effect. The casting's enables and the AWG routes are judged apart. -/
def settingActs (b : State) (s : State) (e : Taken) : State :=
  let a := e.1
  if 0x6000 ≤ a ∧ a < 0x7000 then calHook b e s
  else if TDC_FRZ 0 ≤ a ∧ a ≤ TDC_FRZ 7 then tdcFreezeCommit ((a - TDC_FRZ 0) / 2) (b.rd a) s
  else if a = FWU_CFG then fwCfgCommit s
  else if THM_SUB 0 ≤ a ∧ a ≤ THM_SUB 63 then subCommitThm ((a - THM_SUB 0) / 2) (b.rd a) s
  else match inWindow 0x10000 16 0x100 a with
  | some (u, _) =>
    if a = CHK_CTL u then
      let s1 := if e.2.getLsbD 0 then chkArm u s else s
      if e.2.getLsbD 1 then chkDisarm u s1 else s1
    else s
  | none => match inWindow 0x100000 64 0x1000 a with
  | some (c, _) => seqHook c e s
  | none => match inWindow 0x180000 512 0x100 a with
  | some (n, _) =>
    if a = ASY_SITE_CTL n then
      let s1 := if e.2.getLsbD 1 then siteFinalize n s else s
      if e.2.getLsbD 0 then siteClear n s1 else s1
    else s
  | none => match inWindow 0x200000 20 0x2000 a with
  | some (u, _) => wfsHook u e s
  | none => match inWindow 0x250000 20 0x100 a with
  | some (u, _) => acqHook b u e s
  | none => match inWindow 0x300000 256 0x100 a with
  | some (i, _) => sliceHook b i e s
  | none => match inWindow 0x1000000 2176 0x1000 a with
  | some (ch, _) => channelHook b ch e s
  | none => s

/-- The enables (R74, R75): judged before anything else takes effect. -/
def enableActs (b : State) (s : State) (e : Taken) : State :=
  if CST_SITE_EN 0 ≤ e.1 ∧ e.1 ≤ CST_SITE_EN 31 then enableCommit ((e.1 - CST_SITE_EN 0) / 2) (b.rd e.1) s else s

/-- The AWG whose AWG_OUT took effect. -/
def awgOf (e : Taken) : Option Nat :=
  match inWindow 0x240000 20 0x100 e.1 with
  | some (u, 0) => some u
  | _ => none

/-- AWG routes: every one that another setting releases opens before any connects (R213). -/
def awgActs (b : State) (l : List Taken) (s : State) : State :=
  let us := l.filterMap awgOf
  let s1 := s.each us fun t u => awgRelease u t
  s1.each us fun t u => awgOutCommit u (b.rd (AWG_OUT u)) t

/-- The settings of the sequencers' oscillators that took effect (R201, R209). -/
def ncoActs (b : State) (l : List Taken) (s : State) : State :=
  s.each (List.range 20) fun t u =>
    if l.any fun e => e.1 == WFS_CFG u || e.1 == WFS_BIND u || (WFS_FTW u ≤ e.1 && e.1 ≤ WFS_NCO_AMP u) then wfsNcoCommit u (b.oscNow u) t else t

/-! Admission (R24 to R26). -/

/-- Lexicographic order. -/
def lexLe : List Nat → List Nat → Bool
  | [], _ => true
  | _ :: _, [] => false
  | x :: xs, y :: ys => x < y || (x == y && lexLe xs ys)

/-- The place of an item among those pending at a tick: class 0, then items deferred in 64 stages, then by class, deferred items
first. -/
def WorkItem.place (w : WorkItem) : List Nat :=
  let age := if w.deferrals = 0 then [1, w.arrival] else [0, w.firstDefer]
  if w.cls = 0 then [0, 0] ++ age else if w.deferrals ≥ 64 then [1, w.cls] ++ age else [2, w.cls] ++ age

/-- An item put behind those whose place is no later. -/
def placeItem (w : WorkItem) : List WorkItem → List WorkItem
  | [] => [w]
  | x :: xs => if lexLe x.place w.place then x :: placeItem w xs else w :: x :: xs

/-- The items in the order in which a tick takes them. -/
def sortItems : List WorkItem → List WorkItem
  | [] => []
  | w :: ws => placeItem w (sortItems ws)

/-- The budget of the stage under way. -/
def State.budget (s : State) : Nat :=
  if s.time.stepped then s.stageLen * 7 / 8 else if s.stageLen = 3072 then 2688 else 896

/-- What a tick finds when it considers a table swap: of a TDC under frozen-table mode or without an accepted shadow there is none to admit
(R265, R267). -/
def State.swapStands (s : State) (w : WorkItem) : Bool :=
  match w.kind with
  | .tdcSwap ch => !s.laneFrozen ch && s.fld (TDC_TSTAT ch) 15 14 == 2
  | .seqSwap c t => s.tableChecked c t
  | _ => true

/-- A swap that is not admitted: under frozen-table mode it is held, a shadow that the host has written since is withdrawn, and a pattern
generator's table whose CRC no longer matches is refused (R91). -/
def State.swapFalls (s : State) (w : WorkItem) : State :=
  match w.kind with
  | .tdcSwap ch => if s.fld (TDC_TSTAT ch) 15 14 = 2 then swapFrozen ch s else s.setBit (TDC_TSTAT ch) 13 false
  | .seqSwap c t => (s.setBit (SEQ_TSTAT c) t false).evt (SEQ_TSTAT c) 5
  | _ => s

/-- A tick considers one pending item. -/
def State.consider (s : State) (w : WorkItem) : State :=
  if !s.swapStands w then s.swapFalls w
  else if w.cls = 0 then s.admitItem w
  else if s.yardDown then { s with sched := { s.sched with waiting := s.sched.waiting ++ [w] } }
  else if w.cost ≤ s.sched.budget ∧ !s.sched.deferred.contains w.cls then s.admitItem w
  else s.deferItem w

/-- The admission of the items pending at a tick. -/
def State.admitPending (s : State) : State :=
  let l := sortItems s.sched.waiting
  l.foldl State.consider { s with sched := { s.sched with waiting := [], budget := s.budget, deferred := [] } }

/-! The ticks of items. -/

/-- A takeover or hand-back at its tick. -/
def dutyTick (s : State) (w : WorkItem) : State :=
  match w.kind with
  | .takeover ch => takeoverTick ch s
  | .handback x => handbackTick x s
  | _ => s

/-- What any other item that acted in the stage that ended does at its tick (R469). -/
def itemTick (s : State) (w : WorkItem) : State :=
  match w.kind with
  | .recast => recastTick s
  | .tdcSwap ch => tdcSwapTick ch s
  | .lvlSwap ch => lvlSwapIn ch s
  | .seqSwap c t => tableInstall c t s
  | .takeover _ => s
  | .handback _ => s
  | .clear g => clearTick g s
  | .resume n => resumeTick n s
  | .sample readings vin pin => sampleTick readings vin pin s
  | .profile _ => s
  | .schedule _ => s
  | .rearm _ => s

/-! The convoy at a tick (R357, R360, R363). -/

/-- A port at a tick: a beacon in the stage that ended, or one missed; four missed in a row bring the port down. -/
def portTick (west : Bool) (s : State) : State :=
  let p := s.port west
  let q := if p.got then { p with got := false, run := p.run + 1, missed := 0 } else { p with run := 0, missed := p.missed + 1 }
  let s1 := s.setPort west q
  if s1.portUp west && 4 ≤ q.missed then portDownNow west s1 else s1

/-- The frames of each stage: a BEACON on each port, and a HELLO while a module heard is DISCOVERING. -/
def convoyFrames (s : State) : State :=
  let s1 := (s.sendHop false 1 s.convoyTime s.beaconPayload).sendHop true 1 s.convoyTime s.beaconPayload
  if s1.discovering then s1.flood 2 s1.convoyTime s1.ownHello.payload else s1

/-- The convoy at a tick. -/
def convoyTick (s : State) : State :=
  let s1 := (portTick true (portTick false s)).convoyActs.setUpstream
  convoyFrames ({ s1 with cvy := { s1.cvy with same := s1.cvy.same + 1 } }.reseatTick)

/-! Time at a tick (R15, R30, R365). -/

/-- A pending step can be taken. -/
def State.stepsNow (s : State) : Bool := s.cvy.step.isSome && s.idle

/-- The step: the clock takes the adopted time and the epoch that of the master, which is a free value. -/
def timeStepped (s : State) : State :=
  match s.cvy.step with
  | none => s
  | some n =>
    let old := s.convoyTime
    let e := s.free
    let c := s.time.clock + BitVec.ofInt 48 n
    let s1 : State := { e.2 with
      time := { s.time with clock := c, began := c, stepped := true, epoch := BitVec.ofNat 16 e.1 }
      cvy := { s.cvy with step := none } }
    ((s1.setFld CVY_STAT 9 8 0).evt CVY_EVT 3).convoyLog 4 0 old

/-- The clock of the next tick comes: the stage counter counts, and the epoch at the wrap. -/
def stageBegins (s : State) : State :=
  let n := s.toTick
  let wraps := s.time.clock.toNat + n = clockSpan
  let s1 := s.advance n
  let s2 := { s1 with time := { s1.time with
    stage := s1.time.stage + 1, began := s1.time.clock, stepped := false, epoch := if wraps then s1.time.epoch + 1 else s1.time.epoch } }
  if s2.stepsNow then timeStepped s2 else s2

/-! The tick. -/

/-- SYS_CTL.COMMIT_HOLD has stood at 1 for 1,024 ticks: the module clears it (R23). -/
def holdTimeout (s : State) : State :=
  if s.bit SYS_CTL 0 && s.hold.ticks ≥ 1024 then { (s.setBit SYS_CTL 0 false).evt SYS_EVT 1 with hold := ⟨true, 1, 0⟩ } else s

/-- What comes about before the next tick: the timeout of a hold, and the acting of every admitted item. -/
def stageEnds (s : State) : State :=
  let s1 := holdTimeout s
  let s2 := allItemsAct s1.sched.running.length s1
  allItemsAct s2.sched.running.length s2

/-- Engines that run on their own are brought up to the clock of the tick, while the old settings still stand. -/
def enginesSettle (s : State) : State :=
  let s1 := s.each (s.wfss.map Prod.fst) fun t u => wfsSettle u t
  let s2 := s1.each (s.acqs.map Prod.fst) fun t u => acqSettle u t
  let s3 := s2.each (s.tdcs.map Prod.fst) fun t m => tdcSettle m (t.time.up * 65536) t
  s3.sliceTicks.gapsPark.soundsDrive

/-- What the settings of the list `l`, copied at this tick, do as they take effect; `b` is the state before the copy. Enables that a
trip or an early abort clears go with them (R187, R291). -/
def settingsAct (b : State) (l : List Taken) (s : State) : State :=
  let s1 := l.foldl (enableActs b) s
  let s2 := l.foldl (settingActs b) ((s1.tripDisable).abortDisable)
  awgActs b l (ncoActs b l s2)

/-- The tolled register writes that completed: those of the stage that ended, whose settings took effect. -/
def tolledDone (s : State) : State :=
  let go := s.host.tolled.filter fun e => !e.2
  let stay := (s.host.tolled.filter (·.2)).map fun e => (e.1, false)
  go.foldl (fun t e => t.complete e.1 0x0020 0 0 0 0) { s with host := { s.host with tolled := stay } }

/-- Under a hold every tolled register write waits for the release. -/
def tolledWait (s : State) : State := { s with host := { s.host with tolled := s.host.tolled.map fun e => (e.1, false) } }

/-- Power at a tick (R278): groups over their limit trip with cause POWER. -/
def powerTick (powers : List (Nat × Nat)) (s : State) : State :=
  let r := s.powerCheck powers
  r.2.foldl (fun t g => t.groupTrip g 1 0) r.1

/-- Changes of the channel that holds a duty apply before anything else of their tick, so that settings and safe-state transitions act on
the channel that holds it then (R162): hand-backs and holds of ended calibrations, takeover and hand-back items, copies and releases. -/
def dutiesMove (s : State) : State :=
  let s1 := s.calMoves
  ((s1.sched.acted.foldl dutyTick s1).subMoves).isoReleases

/-- Pins, slices and calibration follow the enables, trips and duties of this tick. -/
def outputsFollow (s : State) : State :=
  (((((s.calBeforePins).refreshPins []).refreshSlices).disabledLeave).abortsJudged).calTurns

/-- What the other items that acted do at their tick. -/
def itemTicks (s : State) : State := s.sched.acted.foldl itemTick { s with sched := { s.sched with acted := [] } }

/-- A stage tick, with the mean power of each slice over the stage that ends. Before the module starts and after a hard trip there is
none. -/
def stageTick (powers : List (Nat × Nat)) (s : State) : State :=
  if s.start.phase = 0 ∨ s.start.phase = 4 then s
  else
    let s1 := enginesSettle (stageBegins (stageEnds s))
    let s2 := { s1 with therm := { s1.therm with wait := s1.therm.wait - 1 } }.tilesFound
    let held := s2.held
    let s3 := { s2 with hold := s2.hold.atTick }
    let s4 := if held then s3.keepShadows else s3.copyShadows
    let s5 := settingsAct s3 (if held then [] else s3.taken) (dutiesMove s4).admitPending
    let s6 := itemTicks (outputsFollow (powerTick powers s5))
    let s7 := ((castLoadApply s6).autoSound).allWaits
    let s8 := if held then tolledWait s7 else tolledDone s7
    convoyTick ((s8.profilesDone held).fwWatch)

/-- The tick that follows is the wrap of the clock count. -/
def State.nextWraps (s : State) : Bool := s.time.clock.toNat + s.toTick == clockSpan

/-- The output power of the connected slices over a stage for which no command tells it: free values (R278). A slice that is off delivers
none. notes/assumptions/26.md. -/
def State.idlePowers (s : State) : List (Nat × Nat) × State :=
  (s.casting.powers.filter fun p => p.lead == p.slice && 2 ≤ s.sliceState p.slice).foldl
    (fun r p => (r.1 ++ [(p.slice, (r.2.free).1)], (r.2.free).2)) ([], s)

/-- One clock passes with no command: the tick, where the next clock is one. -/
def idleClock (s : State) : State :=
  if s.start.phase = 0 ∨ s.start.phase = 4 then s
  else if s.toTick = 1 then stageTick s.idlePowers.1 s.idlePowers.2
  else s.advance 1

/-! The rows. -/

/-- STAGE_TICK (R18). -/
def execStageTick (powers : List (Nat × Nat)) (s : State) : Host.Outcome State Fault Refusal := .next (stageTick powers s)

/-- CLOCK_WRAP (R30): the tick at which the clock count wraps. -/
def execClockWrap (powers : List (Nat × Nat)) (s : State) : Host.Outcome State Fault Refusal :=
  .next (if s.nextWraps then stageTick powers s else s)

/-- COMMIT_HOLD_TIMEOUT (R23). -/
def execCommitHoldTimeout (s : State) : Host.Outcome State Fault Refusal := .next (holdTimeout s)

/-- TIME_STEP (R365): the tick at which a pending step is taken. -/
def execTimeStep (s : State) : Host.Outcome State Fault Refusal :=
  .next (if s.stepsNow then stageTick s.idlePowers.1 s.idlePowers.2 else s)

end Sys2Proof.Machine
end

