-- ==== Sys2Proof/Machine/Dispatch.lean ====
section
/-!
DEFINITION. Machine/Dispatch.lean: one arm per command, each a direct call of its meaning.
-/

namespace Sys2Proof.Machine

def exec (i : Instr) (s : State) : Host.Outcome State Fault Refusal :=
  match i with
  | .stageTick powers => Sys2Proof.Machine.execStageTick powers s
  | .clockWrap powers => Sys2Proof.Machine.execClockWrap powers s
  | .commitHoldSet => Sys2Proof.Machine.execCommitHoldSet s
  | .commitHoldRelease => Sys2Proof.Machine.execCommitHoldRelease s
  | .commitHoldTimeout => Sys2Proof.Machine.execCommitHoldTimeout s
  | .workItemActs => Sys2Proof.Machine.execWorkItemActs s
  | .registerWrite a width v => Sys2Proof.Machine.execRegisterWrite a width v s
  | .counterReadClear a => Sys2Proof.Machine.execCounterReadClear a s
  | .groupReadLatch a width => Sys2Proof.Machine.execGroupReadLatch a width s
  | .ctimeLatch => Sys2Proof.Machine.execCtimeLatch s
  | .directWrite a v => Sys2Proof.Machine.execDirectWrite a v s
  | .castLoad entry => Sys2Proof.Machine.execCastLoad entry s
  | .castLoadApply => Sys2Proof.Machine.execCastLoadApply s
  | .storeDone => Sys2Proof.Machine.execStoreDone s
  | .castRecast entry header => Sys2Proof.Machine.execCastRecast entry header s
  | .recastReady data => Sys2Proof.Machine.execRecastReady data s
  | .castCancel entry => Sys2Proof.Machine.execCastCancel entry s
  | .tilePresentRise slot => Sys2Proof.Machine.execTilePresentRise slot s
  | .tileDebounceExpiry slot => Sys2Proof.Machine.execTileDebounceExpiry slot s
  | .tileHotJoin slot => Sys2Proof.Machine.execTileHotJoin slot s
  | .tileNoJoin slot => Sys2Proof.Machine.execTileNoJoin slot s
  | .tileDescriptorRead slot desc => Sys2Proof.Machine.execTileDescriptorRead slot desc s
  | .tileRemoved slot => Sys2Proof.Machine.execTileRemoved slot s
  | .seqStart c => Sys2Proof.Machine.execSeqStart c s
  | .seqStop c => Sys2Proof.Machine.execSeqStop c s
  | .seqResume c => Sys2Proof.Machine.execSeqResume c s
  | .seqRestartLoop c => Sys2Proof.Machine.execSeqRestartLoop c s
  | .ingotGenerate c p => Sys2Proof.Machine.execIngotGenerate c p s
  | .nextInstr c p => Sys2Proof.Machine.execNextInstr c p s
  | .jump c p => Sys2Proof.Machine.execJump c p s
  | .branch c p => Sys2Proof.Machine.execBranch c p s
  | .call c p => Sys2Proof.Machine.execCall c p s
  | .ret c p => Sys2Proof.Machine.execRet c p s
  | .loopSet c p => Sys2Proof.Machine.execLoopSet c p s
  | .loopEnd c p => Sys2Proof.Machine.execLoopEnd c p s
  | .loopBreak c p => Sys2Proof.Machine.execLoopBreak c p s
  | .waypoint c p => Sys2Proof.Machine.execWaypoint c p s
  | .halt c p => Sys2Proof.Machine.execHalt c p s
  | .trigger c p => Sys2Proof.Machine.execTrigger c p s
  | .stallResume c => Sys2Proof.Machine.execStallResume c s
  | .prefetchArrival c entry k => Sys2Proof.Machine.execPrefetchArrival c entry k s
  | .streamRowFetch c prod data => Sys2Proof.Machine.execStreamRowFetch c prod data s
  | .seqTableEntryWrite c v => Sys2Proof.Machine.execSeqTableEntryWrite c v s
  | .seqTableSwap c mask => Sys2Proof.Machine.execSeqTableSwap c mask s
  | .segLoad entry => Sys2Proof.Machine.execSegLoad entry s
  | .segLoadDone tag data => Sys2Proof.Machine.execSegLoadDone tag data s
  | .cxlMemWrite dpa data => Sys2Proof.Machine.execCxlMemWrite dpa data s
  | .cxlMemRead dpa => Sys2Proof.Machine.execCxlMemRead dpa s
  | .soundGo c => Sys2Proof.Machine.execSoundGo c s
  | .soundAbort c => Sys2Proof.Machine.execSoundAbort c s
  | .soundDone c trips => Sys2Proof.Machine.execSoundDone c trips s
  | .soundNoEcho c r => Sys2Proof.Machine.execSoundNoEcho c r s
  | .pourLineCrossing c => Sys2Proof.Machine.execPourLineCrossing c s
  | .branchResolved c => Sys2Proof.Machine.execBranchResolved c s
  | .waitTimeout c => Sys2Proof.Machine.execWaitTimeout c s
  | .compareResult c obs => Sys2Proof.Machine.execCompareResult c obs s
  | .logDrainWrite n => Sys2Proof.Machine.execLogDrainWrite n s
  | .memoryEventAnalysis n => Sys2Proof.Machine.execMemoryEventAnalysis n s
  | .earlyAbort n => Sys2Proof.Machine.execEarlyAbort n s
  | .finalize n => Sys2Proof.Machine.execFinalize n s
  | .sessionClear n => Sys2Proof.Machine.execSessionClear n s
  | .finalAnalysis n => Sys2Proof.Machine.execFinalAnalysis n s
  | .asyResStatRead n => Sys2Proof.Machine.execAsyResStatRead n s
  | .asyResAdv n => Sys2Proof.Machine.execAsyResAdv n s
  | .pmuRangingEnd ch => Sys2Proof.Machine.execPmuRangingEnd ch s
  | .padSwitchClosed ch => Sys2Proof.Machine.execPadSwitchClosed ch s
  | .padSwitchOpen ch => Sys2Proof.Machine.execPadSwitchOpen ch s
  | .takeoverSwitchOpen ch => Sys2Proof.Machine.execTakeoverSwitchOpen ch s
  | .handbackSwitchOpen ch => Sys2Proof.Machine.execHandbackSwitchOpen ch s
  | .waveLoad entry => Sys2Proof.Machine.execWaveLoad entry s
  | .waveLoadDone tag data => Sys2Proof.Machine.execWaveLoadDone tag data s
  | .wfsStart u => Sys2Proof.Machine.execWfsStart u s
  | .wfsStop u => Sys2Proof.Machine.execWfsStop u s
  | .wfsAdvance u => Sys2Proof.Machine.execWfsAdvance u s
  | .entryAdvance u => Sys2Proof.Machine.execEntryAdvance u s
  | .autoAdvance u => Sys2Proof.Machine.execAutoAdvance u s
  | .wfsTableWrite u k v => Sys2Proof.Machine.execWfsTableWrite u k v s
  | .awgMuteReclose u => Sys2Proof.Machine.execAwgMuteReclose u s
  | .acqCtlArm u => Sys2Proof.Machine.execAcqCtlArm u s
  | .acqCtlStop u => Sys2Proof.Machine.execAcqCtlStop u s
  | .acqForce u => Sys2Proof.Machine.execAcqForce u s
  | .acqTrigger u prev nv => Sys2Proof.Machine.execAcqTrigger u prev nv s
  | .autoTrigger u => Sys2Proof.Machine.execAutoTrigger u s
  | .segmentComplete u samples => Sys2Proof.Machine.execSegmentComplete u samples s
  | .streamBlockWrite u samples => Sys2Proof.Machine.execStreamBlockWrite u samples s
  | .streamOverrun u => Sys2Proof.Machine.execStreamOverrun u s
  | .acqOverrange x => Sys2Proof.Machine.execAcqOverrange x s
  | .acqRangingEnd u => Sys2Proof.Machine.execAcqRangingEnd u s
  | .acqResStatRead u => Sys2Proof.Machine.execAcqResStatRead u s
  | .acqResAdv u => Sys2Proof.Machine.execAcqResAdv u s
  | .tdcCtlArm ch => Sys2Proof.Machine.execTdcCtlArm ch s
  | .tdcCtlDisarm ch => Sys2Proof.Machine.execTdcCtlDisarm ch s
  | .tdcEdge ch source rising tap => Sys2Proof.Machine.execTdcEdge ch source rising tap s
  | .tdcTimeout ch => Sys2Proof.Machine.execTdcTimeout ch s
  | .cdGo ch => Sys2Proof.Machine.execCdGo ch s
  | .cdAbort ch => Sys2Proof.Machine.execCdAbort ch s
  | .cdDone ch hits => Sys2Proof.Machine.execCdDone ch hits s
  | .cdTooFew ch => Sys2Proof.Machine.execCdTooFew ch s
  | .tdcTableWrite ch v => Sys2Proof.Machine.execTdcTableWrite ch v s
  | .tdcTswap ch => Sys2Proof.Machine.execTdcTswap ch s
  | .tdcResStatRead ch => Sys2Proof.Machine.execTdcResStatRead ch s
  | .tdcResAdv ch => Sys2Proof.Machine.execTdcResAdv ch s
  | .dpsOn n => Sys2Proof.Machine.execDpsOn n s
  | .sliceDelayOnExpiry n => Sys2Proof.Machine.execSliceDelayOnExpiry n s
  | .atLevel n => Sys2Proof.Machine.execAtLevel n s
  | .sliceDelayOffExpiry n => Sys2Proof.Machine.execSliceDelayOffExpiry n s
  | .offDone n => Sys2Proof.Machine.execOffDone n s
  | .dischargeEnd n => Sys2Proof.Machine.execDischargeEnd n s
  | .pmuMeasGo ch => Sys2Proof.Machine.execPmuMeasGo ch s
  | .measComplete b codes clamp => Sys2Proof.Machine.execMeasComplete b codes clamp s
  | .pmuMeasStatRead b => Sys2Proof.Machine.execPmuMeasStatRead b s
  | .pmuMeasAdv b => Sys2Proof.Machine.execPmuMeasAdv b s
  | .dpsMeasGo n => Sys2Proof.Machine.execDpsMeasGo n s
  | .monitorTrip x => Sys2Proof.Machine.execMonitorTrip x s
  | .blankWindowClose b v => Sys2Proof.Machine.execBlankWindowClose b v s
  | .groupForce g => Sys2Proof.Machine.execGroupForce g s
  | .siteTripped n => Sys2Proof.Machine.execSiteTripped n s
  | .groupClear g => Sys2Proof.Machine.execGroupClear g s
  | .calReqGo zeners => Sys2Proof.Machine.execCalReqGo zeners s
  | .calReqAbort => Sys2Proof.Machine.execCalReqAbort s
  | .laneAdcCalDone lane => Sys2Proof.Machine.execLaneAdcCalDone lane s
  | .calStepDone ch trims => Sys2Proof.Machine.execCalStepDone ch trims s
  | .unitCalDone unit pass trims => Sys2Proof.Machine.execUnitCalDone unit pass trims s
  | .calRelease ch => Sys2Proof.Machine.execCalRelease ch s
  | .lvlTableWrite ch v => Sys2Proof.Machine.execLvlTableWrite ch v s
  | .lvlTswap ch => Sys2Proof.Machine.execLvlTswap ch s
  | .calStore entry => Sys2Proof.Machine.execCalStore entry s
  | .subEnable awg q => Sys2Proof.Machine.execSubEnable awg q s
  | .subDisable awg q => Sys2Proof.Machine.execSubDisable awg q s
  | .spareCopyDone awg q => Sys2Proof.Machine.execSpareCopyDone awg q s
  | .isoSet k => Sys2Proof.Machine.execIsoSet k s
  | .selftestDone k core failed => Sys2Proof.Machine.execSelftestDone k core failed s
  | .isoRelease k => Sys2Proof.Machine.execIsoRelease k s
  | .droverReloadDone k => Sys2Proof.Machine.execDroverReloadDone k s
  | .castoutSet q => Sys2Proof.Machine.execCastoutSet q s
  | .stackRestore q => Sys2Proof.Machine.execStackRestore q s
  | .stackSelftestDone q pass => Sys2Proof.Machine.execStackSelftestDone q pass s
  | .stackFault q => Sys2Proof.Machine.execStackFault q s
  | .yardFailure => Sys2Proof.Machine.execYardFailure s
  | .yardRestarted => Sys2Proof.Machine.execYardRestarted s
  | .completionWrite => Sys2Proof.Machine.execCompletionWrite s
  | .irqModerationExpiry => Sys2Proof.Machine.execIrqModerationExpiry s
  | .ringReset => Sys2Proof.Machine.execRingReset s
  | .hostAttachmentReset cause => Sys2Proof.Machine.execHostAttachmentReset cause s
  | .linkUp width speed ide => Sys2Proof.Machine.execLinkUp width speed ide s
  | .unknownOpcode entry => Sys2Proof.Machine.execUnknownOpcode entry s
  | .siteEnable entry => Sys2Proof.Machine.execSiteEnable entry s
  | .runStart entry => Sys2Proof.Machine.execRunStart entry s
  | .runStop entry => Sys2Proof.Machine.execRunStop entry s
  | .jumpRequest entry => Sys2Proof.Machine.execJumpRequest entry s
  | .soundCmd entry => Sys2Proof.Machine.execSoundCmd entry s
  | .runConfig entry => Sys2Proof.Machine.execRunConfig entry s
  | .pinLevels entry => Sys2Proof.Machine.execPinLevels entry s
  | .pinTiming entry => Sys2Proof.Machine.execPinTiming entry s
  | .pmuSet entry => Sys2Proof.Machine.execPmuSet entry s
  | .assayConfig entry => Sys2Proof.Machine.execAssayConfig entry s
  | .assayFinalize entry => Sys2Proof.Machine.execAssayFinalize entry s
  | .assayClear entry => Sys2Proof.Machine.execAssayClear entry s
  | .abortPolicy entry => Sys2Proof.Machine.execAbortPolicy entry s
  | .waveStart entry => Sys2Proof.Machine.execWaveStart entry s
  | .waveStop entry => Sys2Proof.Machine.execWaveStop entry s
  | .awgSet entry => Sys2Proof.Machine.execAwgSet entry s
  | .acqArm entry => Sys2Proof.Machine.execAcqArm entry s
  | .acqStop entry => Sys2Proof.Machine.execAcqStop entry s
  | .acqSet entry => Sys2Proof.Machine.execAcqSet entry s
  | .tdcSet entry => Sys2Proof.Machine.execTdcSet entry s
  | .tdcArm entry => Sys2Proof.Machine.execTdcArm entry s
  | .tdcDisarm entry => Sys2Proof.Machine.execTdcDisarm entry s
  | .sliceSet entry => Sys2Proof.Machine.execSliceSet entry s
  | .pmuMeasure entry => Sys2Proof.Machine.execPmuMeasure entry s
  | .monitorSet entry => Sys2Proof.Machine.execMonitorSet entry s
  | .tripClear entry => Sys2Proof.Machine.execTripClear entry s
  | .calibrate entry => Sys2Proof.Machine.execCalibrate entry s
  | .calAbort entry => Sys2Proof.Machine.execCalAbort entry s
  | .spareSet entry => Sys2Proof.Machine.execSpareSet entry s
  | .clusterIsolate entry => Sys2Proof.Machine.execClusterIsolate entry s
  | .stackCastout entry => Sys2Proof.Machine.execStackCastout entry s
  | .portUp x => Sys2Proof.Machine.execPortUp x s
  | .portDown x => Sys2Proof.Machine.execPortDown x s
  | .beaconFrame west lanes => Sys2Proof.Machine.execBeaconFrame west lanes s
  | .helloFrame west lanes => Sys2Proof.Machine.execHelloFrame west lanes s
  | .triggerFrame west lanes => Sys2Proof.Machine.execTriggerFrame west lanes s
  | .rendezvousFrame west lanes => Sys2Proof.Machine.execRendezvousFrame west lanes s
  | .failFrame west lanes => Sys2Proof.Machine.execFailFrame west lanes s
  | .soundReq west lanes frac dep => Sys2Proof.Machine.execSoundReq west lanes frac dep s
  | .soundEcho west lanes frac => Sys2Proof.Machine.execSoundEcho west lanes frac s
  | .frameDiscard west => Sys2Proof.Machine.execFrameDiscard west s
  | .convoyFormed => Sys2Proof.Machine.execConvoyFormed s
  | .masterChange reach => Sys2Proof.Machine.execMasterChange reach s
  | .positionFreed pos => Sys2Proof.Machine.execPositionFreed pos s
  | .linkSounding west frac => Sys2Proof.Machine.execLinkSounding west frac s
  | .timeStep => Sys2Proof.Machine.execTimeStep s
  | .remoteTriggerDelivery => Sys2Proof.Machine.execRemoteTriggerDelivery s
  | .rendezvousRelease c => Sys2Proof.Machine.execRendezvousRelease c s
  | .rendezvousTimeout c => Sys2Proof.Machine.execRendezvousTimeout c s
  | .blockHop kind origin owner hop ok selected => Sys2Proof.Machine.execBlockHop kind origin owner hop ok selected s
  | .refetchArrival kind origin owner ok => Sys2Proof.Machine.execRefetchArrival kind origin owner ok s
  | .injectedDropDetect kind origin owner => Sys2Proof.Machine.execInjectedDropDetect kind origin owner s
  | .chkArm u => Sys2Proof.Machine.execChkArm u s
  | .chkDisarm u => Sys2Proof.Machine.execChkDisarm u s
  | .chkFeed u v => Sys2Proof.Machine.execChkFeed u v s
  | .chkFeed8 u v => Sys2Proof.Machine.execChkFeed8 u v s
  | .chkResStatRead u => Sys2Proof.Machine.execChkResStatRead u s
  | .chkResAdv u => Sys2Proof.Machine.execChkResAdv u s
  | .tollLockoutExpiry k => Sys2Proof.Machine.execTollLockoutExpiry k s
  | .regWriteT entry => Sys2Proof.Machine.execRegWriteT entry s
  | .ownerClaim entry block => Sys2Proof.Machine.execOwnerClaim entry block s
  | .ownerRelease entry block => Sys2Proof.Machine.execOwnerRelease entry block s
  | .keySet entry block => Sys2Proof.Machine.execKeySet entry block s
  | .keyErase entry block => Sys2Proof.Machine.execKeyErase entry block s
  | .castKeySet entry block => Sys2Proof.Machine.execCastKeySet entry block s
  | .ownerPolicy entry block => Sys2Proof.Machine.execOwnerPolicy entry block s
  | .attest entry => Sys2Proof.Machine.execAttest entry s
  | .identityRead entry => Sys2Proof.Machine.execIdentityRead entry s
  | .fwUpdate entry => Sys2Proof.Machine.execFwUpdate entry s
  | .fwHeaderChecked data => Sys2Proof.Machine.execFwHeaderChecked data s
  | .fwWriteDone data => Sys2Proof.Machine.execFwWriteDone data s
  | .fwActivate entry => Sys2Proof.Machine.execFwActivate entry s
  | .fwConfirm entry => Sys2Proof.Machine.execFwConfirm entry s
  | .trialFailed => Sys2Proof.Machine.execTrialFailed s
  | .trialReadyTimeout => Sys2Proof.Machine.execTrialReadyTimeout s
  | .controllerLoadTimeout ctl => Sys2Proof.Machine.execControllerLoadTimeout ctl s
  | .powerFailWarning vin pf => Sys2Proof.Machine.execPowerFailWarning vin pf s
  | .powerFailEnd vin => Sys2Proof.Machine.execPowerFailEnd vin s
  | .moduleStart hot => Sys2Proof.Machine.execModuleStart hot s
  | .resetAssert => Sys2Proof.Machine.execResetAssert s
  | .moduleReady => Sys2Proof.Machine.execModuleReady s
  | .thermalSample readings vin pin => Sys2Proof.Machine.execThermalSample readings vin pin s
  | .thmResume n => Sys2Proof.Machine.execThmResume n s
  | .hardTrip => Sys2Proof.Machine.execHardTrip s
  | .nvPageDone => Sys2Proof.Machine.execNvPageDone s
  | .nvTransactionCommit => Sys2Proof.Machine.execNvTransactionCommit s
  | .contactEngagedAssert => Sys2Proof.Machine.execContactEngagedAssert s
  | .contactEngagedDeassert => Sys2Proof.Machine.execContactEngagedDeassert s
  | .bypass => Sys2Proof.Machine.execBypass s
  | .samplePreload pins shiftIn => Sys2Proof.Machine.execSamplePreload pins shiftIn s
  | .extest pins => Sys2Proof.Machine.execExtest pins s
  | .idcode => Sys2Proof.Machine.execIdcode s
  | .powerLoss => Sys2Proof.Machine.execPowerLoss s
  | .castChecksComplete data => Sys2Proof.Machine.execCastChecksComplete data s
  | .preFilled u => Sys2Proof.Machine.execPreFilled u s
  | .vsetRampEnd n => Sys2Proof.Machine.execVsetRampEnd n s
  | .monitorInside x => Sys2Proof.Machine.execMonitorInside x s
  | .blankedOutside x => Sys2Proof.Machine.execBlankedOutside x s
  | .currentLimitEngaged x => Sys2Proof.Machine.execCurrentLimitEngaged x s
  | .sampleSaturated u => Sys2Proof.Machine.execSampleSaturated u s
  | .outputStageLimit u => Sys2Proof.Machine.execOutputStageLimit u s
  | .tdcTdataRead ch => Sys2Proof.Machine.execTdcTdataRead ch s
  | .lvlTdataRead ch => Sys2Proof.Machine.execLvlTdataRead ch s

end Sys2Proof.Machine
end

