-- ==== Sys2Proof/WellFormed.lean ====
section
/-!
DEFINITION. WellFormed.lean: the commands whose operands name something that the module has: a context, a site, a channel, a unit, a
register, and whose lists have the length that the spec gives them. The machine meets an ill-formed command by its range checks.
-/

namespace Sys2Proof

open Sys2Proof.Machine

/-- The words of four lanes, of 66 bits each. -/
def laneWords (lanes : List (List Nat)) : Bool := lanes.length == 4 && lanes.all fun l => l.all fun w => decide (w < 2 ^ 66)

/-- A command is well formed. -/
def wellFormed : Instr → Bool
  | .stageTick powers => powers.all fun e => e.1 < 256
  | .clockWrap powers => powers.all fun e => e.1 < 256
  | .commitHoldSet => true
  | .commitHoldRelease => true
  | .commitHoldTimeout => true
  | .workItemActs => true
  | .registerWrite a width v => decide (a < 2 ^ 28 ∧ v < 256 ^ width)
  | .counterReadClear a => decide (a < 2 ^ 28)
  | .groupReadLatch a _ => decide (a < 2 ^ 28)
  | .ctimeLatch => true
  | .directWrite a v => decide (a < 2 ^ 28 ∧ v < 65536)
  | .castLoad entry => decide (entry.length = 128)
  | .castLoadApply => true
  | .storeDone => true
  | .castRecast entry _ => decide (entry.length = 128)
  | .recastReady _ => true
  | .castCancel entry => decide (entry.length = 128)
  | .tilePresentRise slot => decide (slot < 32)
  | .tileDebounceExpiry slot => decide (slot < 32)
  | .tileHotJoin slot => decide (slot < 32)
  | .tileNoJoin slot => decide (slot < 32)
  | .tileDescriptorRead slot _ => decide (slot < 32)
  | .tileRemoved slot => decide (slot < 32)
  | .seqStart c => decide (c < 64)
  | .seqStop c => decide (c < 64)
  | .seqResume c => decide (c < 64)
  | .seqRestartLoop c => decide (c < 64)
  | .ingotGenerate c _ => decide (c < 64)
  | .nextInstr c _ => decide (c < 64)
  | .jump c _ => decide (c < 64)
  | .branch c _ => decide (c < 64)
  | .call c _ => decide (c < 64)
  | .ret c _ => decide (c < 64)
  | .loopSet c _ => decide (c < 64)
  | .loopEnd c _ => decide (c < 64)
  | .loopBreak c _ => decide (c < 64)
  | .waypoint c _ => decide (c < 64)
  | .halt c _ => decide (c < 64)
  | .trigger c _ => decide (c < 64)
  | .stallResume c => decide (c < 64)
  | .prefetchArrival c entry _ => decide (c < 64 ∧ entry < 65536)
  | .streamRowFetch c _ _ => decide (c < 64)
  | .seqTableEntryWrite c v => decide (c < 64 ∧ v < 65536)
  | .seqTableSwap c mask => decide (c < 64 ∧ mask < 32)
  | .segLoad entry => decide (entry.length = 128)
  | .segLoadDone tag _ => decide (tag < 65536)
  | .cxlMemWrite dpa data => decide (dpa < 2 ^ 36 ∧ dpa % 64 = 0 ∧ data.length = 64)
  | .cxlMemRead dpa => decide (dpa < 2 ^ 36 ∧ dpa % 64 = 0)
  | .soundGo c => decide (c < 64)
  | .soundAbort c => decide (c < 64)
  | .soundDone c _ => decide (c < 64)
  | .soundNoEcho c _ => decide (c < 64)
  | .pourLineCrossing c => decide (c < 64)
  | .branchResolved c => decide (c < 64)
  | .waitTimeout c => decide (c < 64)
  | .compareResult c _ => decide (c < 64)
  | .logDrainWrite n => decide (n < 512)
  | .memoryEventAnalysis n => decide (n < 512)
  | .earlyAbort n => decide (n < 512)
  | .finalize n => decide (n < 512)
  | .sessionClear n => decide (n < 512)
  | .finalAnalysis n => decide (n < 512)
  | .asyResStatRead n => decide (n < 512)
  | .asyResAdv n => decide (n < 512)
  | .pmuRangingEnd ch => decide (ch < 2176)
  | .padSwitchClosed ch => decide (ch < 2176)
  | .padSwitchOpen ch => decide (ch < 2176)
  | .takeoverSwitchOpen ch => decide (ch < 2176)
  | .handbackSwitchOpen ch => decide (ch < 2176)
  | .waveLoad entry => decide (entry.length = 128)
  | .waveLoadDone tag _ => decide (tag < 65536)
  | .wfsStart u => decide (u < 20)
  | .wfsStop u => decide (u < 20)
  | .wfsAdvance u => decide (u < 20)
  | .entryAdvance u => decide (u < 20)
  | .autoAdvance u => decide (u < 20)
  | .wfsTableWrite u k v => decide (u < 20 ∧ k < 2048 ∧ v < 65536)
  | .awgMuteReclose u => decide (u < 20)
  | .acqCtlArm u => decide (u < 20)
  | .acqCtlStop u => decide (u < 20)
  | .acqForce u => decide (u < 20)
  | .acqTrigger u _ _ => decide (u < 20)
  | .autoTrigger u => decide (u < 20)
  | .segmentComplete u samples => decide (u < 20 ∧ (samples.all fun x => x < 65536))
  | .streamBlockWrite u samples => decide (u < 20 ∧ (samples.all fun x => x < 65536))
  | .streamOverrun u => decide (u < 20)
  | .acqOverrange x => decide (x.unit < 20)
  | .acqRangingEnd u => decide (u < 20)
  | .acqResStatRead u => decide (u < 20)
  | .acqResAdv u => decide (u < 20)
  | .tdcCtlArm ch => decide (ch < 2176)
  | .tdcCtlDisarm ch => decide (ch < 2176)
  | .tdcEdge ch source _ tap => decide (ch < 2176 ∧ source < 8 ∧ tap < 65536)
  | .tdcTimeout ch => decide (ch < 2176)
  | .cdGo ch => decide (ch < 2176)
  | .cdAbort ch => decide (ch < 2176)
  | .cdDone ch hits => decide (ch < 2176 ∧ hits.length = 256)
  | .cdTooFew ch => decide (ch < 2176)
  | .tdcTableWrite ch v => decide (ch < 2176 ∧ v < 65536)
  | .tdcTswap ch => decide (ch < 2176)
  | .tdcResStatRead ch => decide (ch < 2176)
  | .tdcResAdv ch => decide (ch < 2176)
  | .dpsOn i => decide (i < 256)
  | .sliceDelayOnExpiry i => decide (i < 256)
  | .atLevel i => decide (i < 256)
  | .sliceDelayOffExpiry i => decide (i < 256)
  | .offDone i => decide (i < 256)
  | .dischargeEnd i => decide (i < 256)
  | .pmuMeasGo ch => decide (ch < 2176)
  | .measComplete b codes _ => decide ((measUnit b).isSome ∧ (codes.all fun x => x < 65536))
  | .pmuMeasStatRead b => (measUnit b).isSome
  | .pmuMeasAdv b => (measUnit b).isSome
  | .dpsMeasGo i => decide (i < 256)
  | .monitorTrip x => (monUnit x.unit).isSome
  | .blankWindowClose b _ => (monUnit b).isSome
  | .groupForce g => decide (g < 512)
  | .siteTripped n => decide (n < 512)
  | .groupClear g => decide (g < 512)
  | .calReqGo zeners => decide (zeners.length = 4)
  | .calReqAbort => true
  | .laneAdcCalDone lane => decide (lane < 128)
  | .calStepDone ch _ => decide (ch < 2176)
  | .unitCalDone unit _ _ => decide (unit < 2472)
  | .calRelease ch => decide (ch < 2176)
  | .lvlTableWrite ch v => decide (ch < 2176 ∧ v < 65536)
  | .lvlTswap ch => decide (ch < 2176)
  | .calStore entry => decide (entry.length = 128)
  | .subEnable _ q => decide (q < 4)
  | .subDisable _ q => decide (q < 4)
  | .spareCopyDone _ q => decide (q < 4)
  | .isoSet k => decide (k < 16)
  | .selftestDone k _ _ => decide (k < 16)
  | .isoRelease k => decide (k < 16)
  | .droverReloadDone k => decide (k < 16)
  | .castoutSet q => decide (q < 4)
  | .stackRestore q => decide (q < 4)
  | .stackSelftestDone q _ => decide (q < 4)
  | .stackFault q => decide (q < 4)
  | .yardFailure => true
  | .yardRestarted => true
  | .completionWrite => true
  | .irqModerationExpiry => true
  | .ringReset => true
  | .hostAttachmentReset _ => true
  | .linkUp _ _ _ => true
  | .unknownOpcode entry => decide (entry.length = 128)
  | .siteEnable entry => decide (entry.length = 128)
  | .runStart entry => decide (entry.length = 128)
  | .runStop entry => decide (entry.length = 128)
  | .jumpRequest entry => decide (entry.length = 128)
  | .soundCmd entry => decide (entry.length = 128)
  | .runConfig entry => decide (entry.length = 128)
  | .pinLevels entry => decide (entry.length = 128)
  | .pinTiming entry => decide (entry.length = 128)
  | .pmuSet entry => decide (entry.length = 128)
  | .assayConfig entry => decide (entry.length = 128)
  | .assayFinalize entry => decide (entry.length = 128)
  | .assayClear entry => decide (entry.length = 128)
  | .abortPolicy entry => decide (entry.length = 128)
  | .waveStart entry => decide (entry.length = 128)
  | .waveStop entry => decide (entry.length = 128)
  | .awgSet entry => decide (entry.length = 128)
  | .acqArm entry => decide (entry.length = 128)
  | .acqStop entry => decide (entry.length = 128)
  | .acqSet entry => decide (entry.length = 128)
  | .tdcSet entry => decide (entry.length = 128)
  | .tdcArm entry => decide (entry.length = 128)
  | .tdcDisarm entry => decide (entry.length = 128)
  | .sliceSet entry => decide (entry.length = 128)
  | .pmuMeasure entry => decide (entry.length = 128)
  | .monitorSet entry => decide (entry.length = 128)
  | .tripClear entry => decide (entry.length = 128)
  | .calibrate entry => decide (entry.length = 128)
  | .calAbort entry => decide (entry.length = 128)
  | .spareSet entry => decide (entry.length = 128)
  | .clusterIsolate entry => decide (entry.length = 128)
  | .stackCastout entry => decide (entry.length = 128)
  | .portUp x => decide (x.lanes.length = 4)
  | .portDown x => decide (x.lanes.length = 4)
  | .beaconFrame _ l => laneWords l
  | .helloFrame _ l => laneWords l
  | .triggerFrame _ l => laneWords l
  | .rendezvousFrame _ l => laneWords l
  | .failFrame _ l => laneWords l
  | .soundReq _ l frac dep => laneWords l && decide (frac < 65536 ∧ dep < 2 ^ 64)
  | .soundEcho _ l frac => laneWords l && decide (frac < 65536)
  | .frameDiscard _ => true
  | .convoyFormed => true
  | .masterChange _ => true
  | .positionFreed pos => decide (pos < 64)
  | .linkSounding _ frac => decide (frac < 65536)
  | .timeStep => true
  | .remoteTriggerDelivery => true
  | .rendezvousRelease c => decide (c < 64)
  | .rendezvousTimeout c => decide (c < 64)
  | .blockHop kind origin _ hop _ _ => decide (kind < 10 ∧ origin < 2 ^ 40 ∧ hop ≤ 8)
  | .refetchArrival kind origin _ _ => decide (kind < 10 ∧ origin < 2 ^ 40)
  | .injectedDropDetect kind origin _ => decide (kind < 10 ∧ origin < 2 ^ 40)
  | .chkArm u => decide (u < 16)
  | .chkDisarm u => decide (u < 16)
  | .chkFeed u v => decide (u < 16 ∧ v < 65536)
  | .chkFeed8 u v => decide (u < 16 ∧ v < 256)
  | .chkResStatRead u => decide (u < 16)
  | .chkResAdv u => decide (u < 16)
  | .tollLockoutExpiry k => decide (k < 8)
  | .regWriteT entry => decide (entry.length = 128)
  | .ownerClaim entry block => decide (entry.length = 128 ∧ (block.all fun l => l.length = 256))
  | .ownerRelease entry block => decide (entry.length = 128 ∧ (block.all fun l => l.length = 256))
  | .keySet entry block => decide (entry.length = 128 ∧ (block.all fun l => l.length = 256))
  | .keyErase entry block => decide (entry.length = 128 ∧ (block.all fun l => l.length = 256))
  | .castKeySet entry block => decide (entry.length = 128 ∧ (block.all fun l => l.length = 256))
  | .ownerPolicy entry block => decide (entry.length = 128 ∧ (block.all fun l => l.length = 256))
  | .attest entry => decide (entry.length = 128)
  | .identityRead entry => decide (entry.length = 128)
  | .fwUpdate entry => decide (entry.length = 128)
  | .fwHeaderChecked _ => true
  | .fwWriteDone _ => true
  | .fwActivate entry => decide (entry.length = 128)
  | .fwConfirm entry => decide (entry.length = 128)
  | .trialFailed => true
  | .trialReadyTimeout => true
  | .controllerLoadTimeout ctl => decide (ctl ≤ 20)
  | .powerFailWarning _ _ => true
  | .powerFailEnd _ => true
  | .moduleStart _ => true
  | .resetAssert => true
  | .moduleReady => true
  | .thermalSample readings _ _ => decide (readings.length = 64)
  | .thmResume n => decide (n < 64)
  | .hardTrip => true
  | .nvPageDone => true
  | .nvTransactionCommit => true
  | .contactEngagedAssert => true
  | .contactEngagedDeassert => true
  | .bypass => true
  | .samplePreload _ _ => true
  | .extest _ => true
  | .idcode => true
  | .powerLoss => true
  | .castChecksComplete _ => true
  | .preFilled u => decide (u < 20)
  | .vsetRampEnd i => decide (i < 256)
  | .monitorInside x => (monUnit x.unit).isSome
  | .blankedOutside x => (monUnit x.unit).isSome
  | .currentLimitEngaged x => decide (x.unit < 256)
  | .sampleSaturated u => decide (u < 20)
  | .outputStageLimit u => decide (u < 20)
  | .tdcTdataRead ch => decide (ch < 2176)
  | .lvlTdataRead ch => decide (ch < 2176)

end Sys2Proof
end

