-- ==== Sys2Proof/Safety.lean ====
section
/-!
DEFINITION. Safety.lean: the terms in which claims about whole runs are made: the canonical form of the memories and of the register
file, what every command leaves alone, and a step that takes no command.
-/

namespace Sys2Proof.Machine

/-- Device memory is in its canonical form: addresses strictly rise and no entry is 0, which an unlisted address reads as. -/
def Memory.wf (m : Tab Byte) : Bool := tabWf (fun _ => 0#8) m

/-- Host memory, as far as the module has written it, is in its canonical form. -/
def HostMemory.wf (m : Tab (Option Byte)) : Bool := tabWf (fun _ => none) m

/-- The register file is in its canonical form: offsets strictly rise and no entry equals its register's reset value. -/
def Registers.wf (m : Tab Word) : Bool := tabWf resetOf m

/-- The invariant of the stored state: equal memories and equal register files are equal data. -/
def State.Canonical (s : State) : Prop := Registers.wf s.regs = true ∧ Memory.wf s.mem = true ∧ HostMemory.wf s.host.mem = true

/-- The stage that a time lies in: the stage count, the clock of its tick and the epoch. -/
abbrev StageOf := BitVec 32 × BitVec 48 × BitVec 16
def Time.stageOf (t : Time) : StageOf := (t.stage, t.began, t.epoch)

/-- What a change of state keeps, said of the state after it: the queue is `q`, the rollback floor is not below `floor`, no release key
of `revoked` is out of the revoked set, the stage is `stage` where one is named, and the stored state is canonical. -/
structure Kept (q : List Instr) (floor revoked : Nat) (stage : Option StageOf) (s : State) : Prop where
  pending : s.pending = q
  floor : floor ≤ s.nv.floor
  revoked : revoked ||| s.nv.revoked = s.nv.revoked
  stage : ∀ x, stage = some x → s.time.stageOf = x
  canonical : s.Canonical

/-- One byte of host memory, as far as the module has written it. -/
def State.hostByte (s : State) (a : Nat) : Option Byte := tabGet (fun _ => none) s.host.mem a

/-- The frame of a command: what it leaves as it was. Every register outside `l`, every shadow, every byte of device memory and of host
memory, non-volatile memory and the queue read after it as before. -/
structure Frame (l : List Nat) (s t : State) : Prop where
  regs : ∀ a, a ∉ l → t.rd a = s.rd a
  shadow : t.shadow = s.shadow ∧ t.shadowNext = s.shadowNext
  mem : ∀ a, t.memByte a = s.memByte a
  hostMem : ∀ a, t.hostByte a = s.hostByte a
  nv : t.nv = s.nv
  pending : t.pending = s.pending

/-- The registers that show a pad switch which has closed: whatever applies at a pin of the casting first finds it so (R158). -/
def State.padRegs (s : State) : List Nat := s.casting.pins.flatMap fun p => [PMU_STAT p.channel, MON_STAT (monBase p.channel)]

/-- Path `n` of context `c` is `p`, its block `b` of opcode `op` is over, the clock of the block's last vector has come, and no live path
of the context is held or has anything to report. -/
structure AtAction (s : State) (c n op : Nat) (p : Path) (b : Block) : Prop where
  running : s.fld (SEQ_STAT c) 2 0 = 2
  path : (s.ctx c).paths[n]? = some p
  block : p.block = some b
  isOver : b.finished = true
  op : b.instr.op = op
  jump : p.pos.jump = none
  quiet : ∀ q ∈ (s.ctx c).paths, q.halt = .none ∧ q.pos.notes = []
  due : (p.time - s.period (s.homeOf c) b.instr.tset) / 2 ≤ s.time.up

/-- Path `n` of context `c` becomes `q`, and no other path, context or register but RUN_STAT changes. -/
structure PathMoves (s t : State) (c n : Nat) (q : Path) : Prop where
  path : (t.ctx c).paths[n]? = some q
  others : ∀ m, m ≠ n → (t.ctx c).paths[m]? = (s.ctx c).paths[m]?
  contexts : ∀ d, d ≠ c → t.ctx d = s.ctx d
  frame : Frame [RUN_STAT c] s t

/-- A read `read` of the status register at `a` latches the oldest result of its queue into it and into the registers `regs`, and shows it;
`b` is the module at the read, once what the queue serves stands at the present clock. -/
structure QueueRead (read : Instr) (a : Nat) (regs : List Nat) (s b : State) : Prop where
  latches : ∀ it rest, (b.queue a).items = it :: rest → ∃ t, exec read s = .next t ∧ t.read.data = t.rdN a ∧ t.bit a 15 = true ∧
    ((b.queue a).seen = true → t.bit a 14 = true) ∧ (∀ x ∈ regs.zip it.2, t.rd x.1 = BitVec.ofNat 16 x.2) ∧
    t.queue a = { b.queue a with seen := true } ∧ (∀ c, c ≠ a → t.queue c = b.queue c) ∧ Frame (a :: regs) b t
  empty : (b.queue a).items = [] → ∃ t, exec read s = .next t ∧ t.read.data = t.rdN a ∧ t.results = b.results ∧ Frame (a :: regs) b t

/-- An advance `adv` of the queue whose status register is at `a` discards its oldest result; beside the queue it changes the registers
`more` alone. -/
structure QueueAdvance (adv : Instr) (a : Nat) (more : List Nat) (s : State) : Prop where
  discards : ∀ it rest, (s.queue a).items = it :: rest → ∃ t, exec adv s = .next t ∧
    t.queue a = { s.queue a with items := rest, last := it, seen := false } ∧ (∀ c, c ≠ a → t.queue c = s.queue c) ∧ Frame more s t
  empty : (s.queue a).items = [] → ∃ t, exec adv s = .next t ∧ t.results = s.results ∧ Frame more s t

/-- What a measurement request that is refused leaves: `code` in the code register of its block `b`, and nothing else changed. -/
structure MeasRefused (b code : Nat) (s t : State) : Prop where
  code : t.rdN (PMU_MEAS_CODE b) = code
  converters : t.adcs = s.adcs
  frame : Frame [PMU_MEAS_CODE b] s t

/-- What an accepted measurement request leaves: block `b` waits at the end of the queue of converter `k`. -/
structure MeasQueued (b k : Nat) (s t : State) : Prop where
  queue : (t.adc k).queue = (s.adc k).queue ++ [(b, s.time.up)]
  pending : t.bit (PMU_MEAS_STAT b) 10 = true
  converters : ∀ c, c ≠ k → t.adc c = s.adc c
  frame : Frame [PMU_MEAS_STAT b] s t

/-- Entry `e` of opcode `op` heads the command ring, the module consumes it, and it passes every check of R336 in turn, `own` being the
opcode's own: `r` is the module once it has accepted the entry. -/
structure Accepted (op : Nat) (e : List Byte) (own : State → Option Nat) (s r : State) : Prop where
  opcode : entOp e = op
  consumed : s.canConsume e = true
  header : s.takeEntry.entryCode e = none
  started : s.start.phase ≠ 3
  toll : (s.takeEntry.tollCheck e).1 = none
  own : own (s.takeEntry.tollCheck e).2 = none
  after : r = (s.takeEntry.tollCheck e).2.acceptEntry e

/-- A stage work item of this kind has arrived and has not acted. -/
def State.hasItem (s : State) (k : WorkKind) : Prop := (∃ w ∈ s.sched.waiting, w.kind = k) ∨ ∃ x ∈ s.sched.running, x.1.kind = k

/-- What a command that the ring refuses leaves: its completion with `code` waits, the entry is consumed with HST_EVT.CMD_REFUSED, and
nothing but the registers of `l` and host memory has changed. -/
structure RefusedWith (e : List Byte) (code : Nat) (l : List Nat) (s t : State) : Prop where
  completion : ∃ c : Cpl, t.host.waiting = s.host.waiting ++ [c] ∧ c.code = code ∧ c.tag = entTag e ∧ c.opcode = entOp e
  consumed : t.rdN HST_CMD_CONS = (s.rdN HST_CMD_CONS + 1) % 65536
  event : t.bit HST_EVT 2 = true
  regs : ∀ a, a ∉ HST_CMD_CONS :: HST_EVT :: l → t.rd a = s.rd a
  shadow : t.shadow = s.shadow ∧ t.shadowNext = s.shadowNext
  mem : ∀ a, t.memByte a = s.memByte a
  pending : t.pending = s.pending

/-- The profile command `i` of opcode `op` with ring entry `e`: accepted, it becomes one stage work item and its tag is in flight; an entry
that its own checks refuse completes with their code. -/
structure BecomesItem (i : Instr) (op : Nat) (e : List Byte) (s : State) : Prop where
  accepted : ∀ r, Accepted op e (fun _ => profileCode e) s r → ∃ t, exec i s = .next t ∧ t.hasItem (.profile e) ∧
    t.host.inflight = entTag e :: s.host.inflight ∧ t.host.running = entTag e :: s.host.running ∧ t.host.waiting = s.host.waiting
  refused : ∀ code, profileCode e = some code → entOp e = op → s.canConsume e = true → s.takeEntry.entryCode e = none → s.start.phase ≠ 3 →
    ∃ t, exec i s = .next t ∧ RefusedWith e code [] s t ∧ t.nv = s.nv

end Sys2Proof.Machine
end

