-- ==== Sys2Proof/Certificates/Slice0/Obligations.lean ====
section
/-!
DEFINITION. Certificates/Slice0/Obligations.lean: the statements for the provers. Each says in its docstring which rules of the spec it
formalises or rests on, and the log entries of notes/assumptions whose choices of the model it takes over.
-/

open Sys2Proof Sys2Proof.Machine

/-- O1. Access errors and accesses of reserved offsets have no effect but what the spec counts. `u` is the module once the stage work
items of the access's clock have acted. Derived from R442, R443, R347; the model's choices behind it are in log entry 43. -/
def Obligations.AccessesWithoutEffect : Prop :=
  (
  (∀ (a width v : Nat) (s u : State), s.itemsDue = u →
    (width ≠ 2 ∧ (width = 0 ∨ width % 4 ≠ 0)) ∨ (width = 2 ∧ a % 2 ≠ 0) ∨ (width ≠ 2 ∧ a % 4 ≠ 0) ∨
      ((width = 2 ∨ width = 4) ∧ 0x08000000 ≤ a ∧ a < 0x0FFF0000) →
    ∃ t, exec (.registerWrite a width v) s = .next t ∧ t.bit SYS_EVT 2 = true ∧
      t.rdN SYS_ACC_CNT = min 65535 (u.rdN SYS_ACC_CNT + 1) ∧
      (u.bit SYS_EVT 2 = false → t.rdN SYS_ACC_ERR = a % 65536 ∧ t.rdN SYS_ACC_ERR_1 % 4096 = a / 65536 % 4096) ∧
      (u.bit SYS_EVT 2 = true → t.rd SYS_ACC_ERR = u.rd SYS_ACC_ERR ∧ t.rd SYS_ACC_ERR_1 = u.rd SYS_ACC_ERR_1) ∧
      Frame [SYS_EVT, SYS_ACC_CNT, SYS_ACC_ERR, SYS_ACC_ERR_1] u t) ∧
  (∀ (a width : Nat) (s u : State), s.itemsDue = u →
    (width ≠ 2 ∧ (width = 0 ∨ width % 4 ≠ 0)) ∨ (width = 2 ∧ a % 2 ≠ 0) ∨ (width ≠ 2 ∧ a % 4 ≠ 0) →
    ∃ t, exec (.groupReadLatch a width) s = .next t ∧ t.read.data = 0 ∧ t.bit SYS_EVT 2 = true ∧
      t.rdN SYS_ACC_CNT = min 65535 (u.rdN SYS_ACC_CNT + 1) ∧
      Frame [SYS_EVT, SYS_ACC_CNT, SYS_ACC_ERR, SYS_ACC_ERR_1] u t)) ∧
  (
  ∀ (a v : Nat) (s u : State), s.itemsDue = u → a % 2 = 0 → a < 0x08000000 →
    (regAt a = none ∨ (u.bit SYS_STAT 15 = false ∧ a / 0x1000 ≠ 0 ∧ a / 0x1000 ≠ 7)) →
    exec (.registerWrite a 2 v) s = .next u ∧
    exec (.groupReadLatch a 2) s = .next { u with read := ⟨0, [], false⟩ }) ∧
  ∀ s : State, (∀ x ∈ s.sched.running, s.time.up < x.2) → s.itemsDue = s

/-- O2. A write to a shadowed register lands in its shadow, which the shadow view shows, and changes no register in force; bits that a
profile command wrote in the same clock keep its value. `u` is the module once the stage work items of the access's clock have acted.
Derived from R18, R19, R21, R450; the model's choices behind it are in log entry 43. -/
def Obligations.ShadowedWritesWait : Prop :=
  (
  ∀ (a i v : Nat) (r : RegDesc) (s u : State), s.itemsDue = u → u.bit SYS_STAT 15 = true → a % 2 = 0 → a < 0x08000000 → a ≠ CAL_RELEASE →
    regAt a = some (r, i) → r.shadowed = true → accMask .rwt r = 0#16 → accMask .w1c r = 0#16 →
    ∃ t w, exec (.registerWrite a 2 v) s = .next t ∧
      (∀ b, t.rd b = u.rd b) ∧
      (u.toTick ≤ 16 → tabGet (fun _ => none) t.shadowNext a = some w ∧ t.shadow = u.shadow) ∧
      (16 < u.toTick → tabGet (fun _ => none) t.shadow a = some w ∧ t.shadowNext = u.shadowNext) ∧
      (∀ k < 16, (accMask .rw r).getLsbD k = true → (accMask .wo r).getLsbD k = false →
        ((tabGet (fun _ => 0#16) u.claimed a).getLsbD k = false → w.getLsbD k = v.testBit k) ∧
        ((tabGet (fun _ => 0#16) u.claimed a).getLsbD k = true → 16 < u.toTick → tabGet (fun _ => none) u.shadowNext a = none →
          w.getLsbD k = ((tabGet (fun _ => none) u.shadow a).getD (u.rd a)).getLsbD k)) ∧
      (∀ k < 16, (accMask .wo r).getLsbD k = true → v.testBit k = true → w.getLsbD k = true) ∧
      (∀ b, b ≠ a → tabGet (fun _ => none) t.shadow b = tabGet (fun _ => none) u.shadow b ∧
        tabGet (fun _ => none) t.shadowNext b = tabGet (fun _ => none) u.shadowNext b) ∧
      (∀ x, t.memByte x = u.memByte x) ∧ (∀ x, t.hostByte x = u.hostByte x) ∧ t.nv = u.nv) ∧
  (
  ∀ (a : Nat) (s u : State), s.itemsDue = u → u.bit SYS_STAT 15 = true → a % 2 = 0 → a < 0x07FF0000 → isShadowed a = true →
    ∃ t, exec (.groupReadLatch (0x08000000 + a) 2) s = .next t ∧ t = { u with read := ⟨t.read.data, [], false⟩ } ∧
      (∀ w, tabGet (fun _ => none) u.shadowNext a = some w → t.read.data = w.toNat) ∧
      (tabGet (fun _ => none) u.shadowNext a = none → ∀ w, tabGet (fun _ => none) u.shadow a = some w → t.read.data = w.toNat) ∧
      (tabGet (fun _ => none) u.shadowNext a = none → tabGet (fun _ => none) u.shadow a = none → t.read.data = u.rdN a))

/-- O3. Event bits clear by writing 1 and counters by reading, but keep what arose in the clock of the access. `u` is the module once
the stage work items of the access's clock have acted. Derived from R445, R447; the model's choices behind it are in log entry 43. -/
def Obligations.EventsAndCountersClear : Prop :=
  (
  ∀ a ∈ [SYS_EVT, HST_EVT, CST_EVT, TOL_EVT, CVY_EVT], ∀ (v : Nat) (s u : State), s.itemsDue = u → u.bit SYS_STAT 15 = true →
    ∃ t, exec (.registerWrite a 2 v) s = .next t ∧
      (∀ k < 16, (maskAt .w1c a).getLsbD k = true → v.testBit k = true → (tabGet (fun _ => 0#16) u.fresh a).getLsbD k = false →
        t.bit a k = false) ∧
      (∀ k < 16, (tabGet (fun _ => 0#16) u.fresh a).getLsbD k = true → t.bit a k = u.bit a k) ∧
      (∀ k < 16, v.testBit k = false → t.bit a k = u.bit a k) ∧ Frame [a] u t) ∧
  (
  ∀ a ∈ [SYS_ACC_CNT, TOL_DIRECT_CNT, HST_LOG_LOST, WAY_ERR_CNT], ∀ (s u : State), s.itemsDue = u → u.bit SYS_STAT 15 = true →
    (tabGet (fun _ => 0#16) u.fresh a).toNat ≤ u.rdN a →
    ∃ t, exec (.counterReadClear a) s = .next t ∧ t.read.data + t.rdN a = u.rdN a ∧
      t.rd a = tabGet (fun _ => 0#16) u.fresh a ∧ Frame [a] u t)

/-- O4. A read of SYS_CTIME0 latches convoy time and the epoch, which later reads of the group return. `u` is the module once the
stage work items of the access's clock have acted. Formalises R29. -/
def Obligations.TimeLatch : Prop :=
  (∀ (s u : State), s.itemsDue = u → u.bit SYS_STAT 15 = true → ∃ t, exec .ctimeLatch s = .next t ∧ t.read.data = u.convoyTime % 65536 ∧
      (∀ k ∈ [1, 2, 3], tabGet (fun _ => none) t.latch (SYS_CTIME + 2 * k) = some (BitVec.ofNat 16 (u.convoyTime / 65536 ^ k))) ∧
      tabGet (fun _ => none) t.latch SYS_CTIME_EPOCH = some u.time.epoch ∧ Frame [] u t) ∧
  (∀ (s u : State), s.itemsDue = u → u.bit SYS_STAT 15 = true →
    ∃ t, exec (.groupReadLatch SYS_CTIME 4) s = .next t ∧ t.read.data = u.convoyTime % 2 ^ 32 ∧
      (∀ k ∈ [1, 2, 3], tabGet (fun _ => none) t.latch (SYS_CTIME + 2 * k) = some (BitVec.ofNat 16 (u.convoyTime / 65536 ^ k))) ∧
      tabGet (fun _ => none) t.latch SYS_CTIME_EPOCH = some u.time.epoch ∧ Frame [] u t) ∧
  (∀ (s u : State), s.itemsDue = u → u.bit SYS_STAT 15 = true →
    ∀ a ∈ [SYS_CTIME + 2, SYS_CTIME + 4, SYS_CTIME + 6, SYS_CTIME_EPOCH], ∀ w, tabGet (fun _ => none) u.latch a = some w →
    ∃ t, exec (.groupReadLatch a 2) s = .next t ∧ t.read.data = w.toNat ∧ t.latch = u.latch ∧ Frame [] u t)

/-- O5. A direct write to an RWT register has no effect but its count and its event. `u` is the module once the stage work items of the
access's clock have acted. Formalises R398. -/
def Obligations.DirectWriteToTolledRegister : Prop :=
  ∀ (a i v : Nat) (r : RegDesc) (s u : State), s.itemsDue = u → u.bit SYS_STAT 15 = true → a % 2 = 0 → a < 0x08000000 →
    regAt a = some (r, i) → accMask .rwt r ≠ 0#16 →
    let counted := fun t : State => t.rdN TOL_DIRECT_CNT = min 65535 (u.rdN TOL_DIRECT_CNT + 1) ∧ t.bit TOL_EVT 1 = true ∧
      Frame [TOL_DIRECT_CNT, TOL_EVT] u t
    (∃ t, exec (.directWrite a v) s = .next t ∧ counted t) ∧ (∃ t, exec (.registerWrite a 2 v) s = .next t ∧ counted t)

/-- O6. The commit hold is set, released and timed out. `u` is the module once the stage work items of the access's clock have acted.
Derived from R22, R23; the model's choices behind it are in log entry 43. -/
def Obligations.CommitHold : Prop :=
  (∀ (s u : State), s.itemsDue = u → ∃ t, exec .commitHoldSet s = .next t ∧ t.bit SYS_CTL 0 = true ∧ t.hold.inForce = true ∧ t.hold.release = 0 ∧
      Frame [SYS_CTL] u t) ∧
  (∀ (s u : State), s.itemsDue = u → ∃ t, exec .commitHoldRelease s = .next t ∧ t.bit SYS_CTL 0 = false ∧
      (u.hold.inForce = true → u.hold.release = 0 → t.hold.inForce = true ∧ t.hold.release = if u.toTick ≤ 16 then 2 else 1) ∧
      (u.hold.inForce = false → t.hold = u.hold) ∧ Frame [SYS_CTL] u t) ∧
  (∀ (s : State), s.bit SYS_CTL 0 = true → 1024 ≤ s.hold.ticks → ∃ t, exec .commitHoldTimeout s = .next t ∧
      t.bit SYS_CTL 0 = false ∧ t.bit SYS_EVT 1 = true ∧ t.hold = ⟨true, 1, 0⟩ ∧ Frame [SYS_CTL, SYS_EVT] s t) ∧
  (∀ (s : State), (s.bit SYS_CTL 0 = false ∨ s.hold.ticks < 1024) → exec .commitHoldTimeout s = .next s)

/-- O7. Every tick counts one stage, and the wrap of the clock and a step of time are ticks. Derived from R15, R16, R18; the model's
choices behind it are in log entry 44. -/
def Obligations.StageTickCounts : Prop :=
  (∀ (powers : List (Nat × Nat)) (s : State), s.Canonical → s.start.phase ≠ 0 → s.start.phase ≠ 4 →
    (∃ t, exec (.stageTick powers) s = .next t ∧ t.time.stage = s.time.stage + 1 ∧ t.pending = s.pending ∧ t.Canonical) ∧
    (s.nextWraps = true → ∃ t, exec (.clockWrap powers) s = .next t ∧ t.time.stage = s.time.stage + 1 ∧ t.pending = s.pending ∧ t.Canonical) ∧
    (s.stepsNow = true → ∃ t, exec .timeStep s = .next t ∧ t.time.stage = s.time.stage + 1 ∧ t.pending = s.pending ∧ t.Canonical)) ∧
  (∀ (powers : List (Nat × Nat)) (s : State), (s.start.phase = 0 ∨ s.start.phase = 4 → exec (.stageTick powers) s = .next s) ∧
    (s.nextWraps = false → exec (.clockWrap powers) s = .next s) ∧ (s.stepsNow = false → exec .timeStep s = .next s))

/-- O8. A stage begins at the next multiple of 3,072 or at the wrap, and the copy of a tick gives the shadowed writes their effect.
Formalises R15, R30, R18. -/
def Obligations.TicksBeginStagesAndCopyShadows : Prop :=
  (
  ∀ (s : State), s.cvy.step = none →
    (stageBegins s).time.clock = (stageBegins s).time.began ∧ (stageBegins s).time.began.toNat % 3072 = 0 ∧
    (∀ n, 0 < n → n < s.toTick → (s.time.clock.toNat + n) % 3072 ≠ 0 ∧ s.time.clock.toNat + n < 2 ^ 48) ∧
    s.time.clock + BitVec.ofNat 48 s.toTick = (stageBegins s).time.clock ∧
    (stageBegins s).time.stage = s.time.stage + 1 ∧
    (stageBegins s).time.epoch = (if (stageBegins s).time.clock = 0#48 then s.time.epoch + 1 else s.time.epoch)) ∧
  (
  ∀ (s : State), tabWf (fun _ => none) s.shadow = true →
    (∀ a w, tabGet (fun _ => none) s.shadow a = some w →
      s.copyShadows.rd a = ((s.rd a &&& ~~~(maskAt .rw a ||| maskAt .rwt a)) ||| (w &&& (maskAt .rw a ||| maskAt .rwt a)))) ∧
    (∀ a, tabGet (fun _ => none) s.shadow a = none → s.copyShadows.rd a = s.rd a) ∧
    s.copyShadows.shadow = s.shadowNext ∧ s.copyShadows.shadowNext = [] ∧
    (∀ x, s.copyShadows.memByte x = s.memByte x) ∧ s.copyShadows.nv = s.nv)

/-- O9. No command but a tick, a start, a reset and what cuts the power moves the stage counter. Derived from R15, R16, R30; the model's
choices behind it are in log entry 44. -/
def Obligations.StageCounterMovesOnlyAtTicks : Prop :=
  ∀ (c : Instr) (s t : State), s.Canonical → exec c s = .next t →
    (∀ p, c ≠ .stageTick p) → (∀ p, c ≠ .clockWrap p) → c ≠ .timeStep → (∀ h, c ≠ .moduleStart h) → c ≠ .resetAssert → c ≠ .powerLoss →
    c ≠ .hardTrip → c ≠ .trialFailed → c ≠ .trialReadyTimeout → (∀ k, c ≠ .controllerLoadTimeout k) → c ≠ .yardFailure →
    t.time.stageOf = s.time.stageOf

/-- O10. Every step keeps the memories and the register file canonical. Derived from Table 12.2, R451; the model's choices behind it are
in log entry 44. -/
def Obligations.EveryStepKeepsTheStateCanonical : Prop :=
  ∀ (s t : State), s.Canonical → step s = .next t → t.Canonical

/-- O11. The state after reset is canonical and its queue is empty. Derived from R451; the model's choices behind it are in log entry 44.
-/
def Obligations.ResetIsCanonical : Prop :=
  State.reset.Canonical ∧ State.reset.pending = []

/-- O12. A step runs the command at the front of the queue on the state with the rest of it. Derived from the commands the block takes;
the model's choices behind it are in log entry 44. -/
def Obligations.StepRunsTheFrontCommand : Prop :=
  ∀ (c : Instr) (rest : List Instr) (s : State), step { s with pending := c :: rest } = exec c { s with pending := rest }

/-- O13. With no command waiting one clock passes. Derived from R15, R27; the model's choices behind it are in log entry 44. -/
def Obligations.IdleStepIsOneClock : Prop :=
  ∀ (s : State), s.pending = [] →
    (s.start.phase = 0 ∨ s.start.phase = 4 → step s = .next s) ∧
    (s.start.phase ≠ 0 → s.start.phase ≠ 4 → s.toTick ≠ 1 → ∃ t, step s = .next t ∧ t.time.clock = s.time.clock + 1 ∧
      t.time.stageOf = s.time.stageOf ∧ Frame [] s t) ∧
    (s.start.phase ≠ 0 → s.start.phase ≠ 4 → s.toTick = 1 → step s = exec (.stageTick s.idlePowers.1) s.idlePowers.2)

/-- O14. No command touches the queue of waiting commands, the rollback floor never falls and a revoked key stays revoked; every command
completes but an access outside device memory. Derived from R414, R408, Table 12.2; the model's choices behind it are in log entry 44. -/
def Obligations.CommandsKeepTheQueue : Prop :=
  (∀ (c : Instr) (s t : State), s.Canonical → exec c s = .next t →
    t.pending = s.pending ∧ s.nv.floor ≤ t.nv.floor ∧ (∀ k, s.nv.revoked.testBit k = true → t.nv.revoked.testBit k = true) ∧ t.Canonical) ∧
  (∀ (c : Instr) (s : State), s.Canonical → (∀ dpa data, c = .cxlMemWrite dpa data → dpa < 4 * stackSize) →
    (∀ dpa, c = .cxlMemRead dpa → dpa < 4 * stackSize) →
    ∃ t, exec c s = .next t ∧ t.pending = s.pending ∧ s.nv.floor ≤ t.nv.floor ∧ t.Canonical)

/-- O15. Start, stop, resume and restart of a run. Derived from R110, R111, R103, R112, R81; the model's choices behind it are log entries
32, 33 and 7. -/
def Obligations.RunsStartStopAndResume : Prop :=
  (
  ∀ (c : Nat) (s : State), c < 64 → s.bit SYS_STAT 15 = true →
    (s.startCode c = none → ∃ t, exec (.seqStart c) s = .next t ∧ t.fld (SEQ_STAT c) 2 0 = 2 ∧
      ((s.ctx c).vecs = [] → (s.ctx c).code = none → (t.ctx c).program = s.rdN (SEQ_PROG c) ∧
        (t.ctx c).sites = sortBy (· ≤ ·) ((sitesOfCaravan s.casting c).filter s.enabled) ∧
        (t.ctx c).delay = s.commitDelay c ∧ (t.ctx c).paths.map (fun p => (p.pos.pc, p.block)) = [(s.wide (SEQ_ENTRY c) 2, none)])) ∧
    (∀ code, s.startCode c = some code → ∃ t, exec (.seqStart c) s = .next t ∧ t.rd (SEQ_CODE c) = BitVec.ofNat 16 code ∧
      t.bit (SEQ_EVT c) 0 = true ∧ (∀ d, t.ctx d = s.ctx d) ∧ Frame [SEQ_CODE c, SEQ_EVT c] s t) ∧
    (findCaravan s.casting c = none → s.startCode c = some 0x0D01)) ∧
  (
  (∀ (c : Nat) (s : State), c < 64 → s.bit SYS_STAT 15 = true → s.fld (SEQ_STAT c) 2 0 ≠ 3 →
    (∃ t, exec (.seqResume c) s = .next t ∧ t.rdN (SEQ_CODE c) = 0x0D05 ∧ (∀ d, t.ctx d = s.ctx d) ∧ Frame [SEQ_CODE c] s t) ∧
    (s.yardDown = false → ∃ t, exec (.seqRestartLoop c) s = .next t ∧ t.rdN (SEQ_CODE c) = 0x0D05 ∧ (∀ d, t.ctx d = s.ctx d) ∧
      Frame [SEQ_CODE c] s t)) ∧
  (∀ (c : Nat) (s : State), s.yardDown = true → exec (.seqRestartLoop c) s = .next s ∧ exec (.stallResume c) s = .next s) ∧
  (∀ (c n : Nat) (p : Path) (s : State), c < 64 → s.bit SYS_STAT 15 = true → s.yardDown = false → s.fld (SEQ_STAT c) 2 0 = 3 →
    ((s.ctx c).paths.zipIdx.find? fun e => e.1.need.isEmpty) = some (p, n) →
    (p.pos.innermost = none → ∃ t, exec (.seqRestartLoop c) s = .next t ∧ t.rdN (SEQ_CODE c) = 0x0D06 ∧ Frame [SEQ_CODE c] s t) ∧
    (∀ k, p.pos.innermost = some k → ∃ t q, exec (.seqRestartLoop c) s = .next t ∧ t.fld (SEQ_STAT c) 2 0 = 2 ∧
      (t.ctx c).paths[n]? = some q ∧ q.block = none ∧ q.halt = .none ∧ q.pos.pc = (p.pos.loopAt k).head ∧
      q.pos.stack = p.pos.stack.drop (p.pos.stack.length - (p.pos.loopAt k).depth) ∧
      (k < p.pos.loops.length → (q.pos.loopAt k).count = (p.pos.loopAt k).loaded)) ∧
    (∀ b, p.block = some b → s.ingotCause c b = none →
      (∃ t, exec (.seqResume c) s = .next t ∧ t.fld (SEQ_STAT c) 2 0 = 2) ∧
      ((s.ctx c).resume = true → ∃ t, exec (.stallResume c) s = .next t ∧ t.fld (SEQ_STAT c) 2 0 = 2)) ∧
    ((s.ctx c).resume = false → exec (.stallResume c) s = .next s)) ∧
  (∀ (c : Nat) (s : State), c < 64 → s.bit SYS_STAT 15 = true →
    (s.ctxActive c = false → s.stragglersOf c = [] → exec (.seqStop c) s = .next s) ∧
    (s.ctxActive c = true → (findCaravan s.casting c).isSome = true → (s.ctx c).waits = [] → s.stragglersOf c = [] →
      (s.ctx c).straggler = false → (∀ p ∈ (s.ctx c).paths, p.need = [] → p.halt = .none) →
      ∃ t, exec (.seqStop c) s = .next t ∧ (∀ d, d ≠ c → t.ctx d = s.ctx d) ∧ Frame [RUN_STAT c] s t ∧
        (t.ctx c).paths = (s.ctx c).paths.map fun p => { p with pos := { p.pos with stop := some (s.genPoint c p.need p.pos.vec) } })))

/-- O16. The control action of every instruction of the sequencer, and the end of a run by HALT. Derived from R79, R80, R81, R112; the
model's choices behind it are log entries 32, 33 and 7. -/
def Obligations.ControlActions : Prop :=
  (
  ∀ (c n : Nat) (p : Path) (b : Block) (s : State),
    (AtAction s c n 0x01 p b → ∃ t, exec (.nextInstr c n) s = .next t ∧ PathMoves s t c n { p with pos := { p.pos with pc := b.index + 1 }, block := none }) ∧
    (AtAction s c n 0x0B p b → ∃ t, exec (.trigger c n) s = .next t ∧ PathMoves s t c n { p with pos := { p.pos with pc := b.index + 1 }, block := none }) ∧
    (AtAction s c n 0x02 p b → ∃ t, exec (.jump c n) s = .next t ∧ PathMoves s t c n { p with pos := { p.pos with pc := b.instr.arg }, block := none }) ∧
    (AtAction s c n 0x03 p b → b.instr.cond = 6 → ∃ t, exec (.branch c n) s = .next t ∧
      PathMoves s t c n { p with pos := { p.pos with pc := if s.bit (SEQ_HFLAG (s.homeOf c)) 0 then b.instr.arg else b.index + 1 }, block := none }) ∧
    (AtAction s c n 0x04 p b → ∃ t, exec (.call c n) s = .next t ∧
      PathMoves s t c n { p with pos := { p.pos with pc := b.instr.arg, stack := (b.index + 1) :: p.pos.stack }, block := none }) ∧
    (∀ r l, AtAction s c n 0x05 p b → p.pos.stack = r :: l → ∃ t, exec (.ret c n) s = .next t ∧
      PathMoves s t c n { p with pos := { p.pos with pc := r, stack := l }, block := none }) ∧
    (AtAction s c n 0x06 p b → b.instr.loop < p.pos.loops.length → ∃ t q, exec (.loopSet c n) s = .next t ∧ PathMoves s t c n q ∧ q.block = none ∧
      q.pos.pc = b.index + 1 ∧ (q.pos.loopAt b.instr.loop).active = true ∧ (q.pos.loopAt b.instr.loop).count = b.instr.arg ∧
      (q.pos.loopAt b.instr.loop).head = b.index + 1 ∧ ∀ k, k ≠ b.instr.loop → q.pos.loopAt k = p.pos.loopAt k) ∧
    (AtAction s c n 0x07 p b → b.instr.loop < p.pos.loops.length → ∃ t q, exec (.loopEnd c n) s = .next t ∧ PathMoves s t c n q ∧ q.block = none ∧
      (q.pos.loopAt b.instr.loop).count = (p.pos.loopAt b.instr.loop).count - 1 ∧
      ((p.pos.loopAt b.instr.loop).count - 1 = 0 → q.pos.pc = b.index + 1 ∧ (q.pos.loopAt b.instr.loop).active = false) ∧
      ((p.pos.loopAt b.instr.loop).count - 1 ≠ 0 → q.pos.pc = b.instr.arg ∧
        (q.pos.loopAt b.instr.loop).active = (p.pos.loopAt b.instr.loop).active)) ∧
    (AtAction s c n 0x08 p b → b.instr.cond = 6 → b.instr.loop < p.pos.loops.length → ∃ t q, exec (.loopBreak c n) s = .next t ∧ PathMoves s t c n q ∧
      q.block = none ∧ q.pos.pc = (if s.bit (SEQ_HFLAG (s.homeOf c)) 0 then b.instr.arg else b.index + 1) ∧
      (s.bit (SEQ_HFLAG (s.homeOf c)) 0 = true → (q.pos.loopAt b.instr.loop).active = false) ∧
      (s.bit (SEQ_HFLAG (s.homeOf c)) 0 = false → q.pos.loops = p.pos.loops)) ∧
    (AtAction s c n 0x09 p b → ∃ t q, exec (.waypoint c n) s = .next t ∧ PathMoves s t c n q ∧ q.block = none ∧ q.pos.pc = b.index + 1 ∧
      (s.rdvEntry c b.instr.arg = none → q.halt = .none) ∧
      (∀ r, s.rdvEntry c b.instr.arg = some r → q.halt = .rendezvous r (tabGet (fun _ => 0) p.pos.rdv r)))) ∧
  (
  ∀ (c : Nat) (p : Path) (b : Block) (s : State), c < 64 → AtAction s c 0 0x0A p b → (s.ctx c).paths = [p] → p.need = [] →
    (s.ctx c).stall = none → (s.ctx c).code = none →
    ((s.ctx c).vecs ≠ [] → (∀ v ∈ (s.ctx c).vecs, v.need = []) → ∃ t, exec (.halt c 0) s = .next t ∧ (t.ctx c).paths = [] ∧
      (t.ctx c).vecs = (s.ctx c).vecs ∧ (t.ctx c).code = some 0x0D10 ∧ (∀ d, d ≠ c → t.ctx d = s.ctx d) ∧ Frame [RUN_STAT c] s t) ∧
    ((s.ctx c).vecs = [] → (s.ctx c).sites = [] → (s.ctx c).straggler = false → (s.ctx c).waits = [] → (s.ctx c).rejoins = [] →
      s.bit (SEQ_JSTAT c) 0 = false → ∃ t, exec (.halt c 0) s = .next t ∧ t.fld (SEQ_STAT c) 2 0 = 4 ∧ t.rdN (SEQ_CODE c) = 0x0D10 ∧
      t.bit (SEQ_EVT c) 1 = true ∧ (t.ctx c).paths = [] ∧ Frame ([SEQ_STAT c, SEQ_CODE c, SEQ_EVT c, RUN_STAT c] ++ s.padRegs) s t))

/-- O17. An unresolved compare-based branch forks its path and then predicts; it resolves for the whole context. Derived from R125, R126,
R128; the model's choices behind it are log entries 32, 33, 34 and 7. -/
def Obligations.BranchesForkAndResolve : Prop :=
  (
  ∀ (c n op : Nat) (p : Path) (b : Block) (s : State), AtAction s c n op p b → (op = 0x03 ∨ op = 0x08) → b.instr.cond ≤ 5 →
    (p.need ≠ [] ∨ s.outstanding c (p.pos.vec - 1) = true) → (s.ctx c).forks.length < 8 →
    let i := if op = 0x03 then Instr.branch c n else Instr.loopBreak c n
    let depth := (p.need.filter fun e => (s.ctx c).forks.any fun f => f.id == e.1 && !f.predicted).length
    ∃ t, exec i s = .next t ∧ (t.ctx c).forks.length = (s.ctx c).forks.length + 1 ∧ (∀ d, d ≠ c → t.ctx d = s.ctx d) ∧
      (depth < 2 → (t.ctx c).paths.length = (s.ctx c).paths.length + 1 ∧
        ((t.ctx c).paths[n]?.map fun q => q.pos.pc) = some (b.index + 1) ∧
        ((t.ctx c).paths[(s.ctx c).paths.length]?.map fun q => q.pos.pc) = some b.instr.arg ∧
        t.rdN (RUN_FORK_CNT c) = min 65535 (s.rdN (RUN_FORK_CNT c) + 1) ∧ Frame [RUN_STAT c, RUN_FORK_CNT c] s t) ∧
      (2 ≤ depth → (t.ctx c).paths.length = (s.ctx c).paths.length ∧
        ((t.ctx c).paths[n]?.map fun q => q.pos.pc) = some (if s.guess c b.index b.cfg then b.instr.arg else b.index + 1) ∧
        t.rdN (RUN_PRED_CNT c) = min 65535 (s.rdN (RUN_PRED_CNT c) + 1) ∧ Frame [RUN_STAT c, RUN_PRED_CNT c] s t)) ∧
  (
  (∀ (c : Nat) (f : Fork) (s : State), s.ripeFork c = some f → (s.ctx c).straggler = false → (s.ctx c).code = none →
    (findCaravan s.casting c).isSome = true → f.ckpt.notes = [] → (∀ p ∈ (s.ctx c).paths, p.halt = .none ∧ p.pos.notes = []) →
    let o := s.outcome c f.ckpt.clr f.last f.diverge f.instr
    ∃ t, exec (.branchResolved c) s = .next t ∧ tabGet (fun _ => none) (t.ctx c).outcomes f.index = some o.1 ∧
      (∀ g ∈ (t.ctx c).forks, g.id ≠ f.id) ∧ (∀ n ∈ o.2, n ∉ (t.ctx c).sites)) ∧
  (∀ (c : Nat) (f : Fork) (s : State), s.ripeFork c = some f → (s.outcome c f.ckpt.clr f.last f.diverge f.instr).2 = [] →
    f.ckpt.notes = [] → (∀ p ∈ (s.ctx c).paths, p.halt = .none ∧ p.pos.notes = []) →
    let o := (s.outcome c f.ckpt.clr f.last f.diverge f.instr).1
    ∃ t, exec (.branchResolved c) s = .next t ∧ tabGet (fun _ => none) (t.ctx c).outcomes f.index = some o ∧
      (∀ g ∈ (t.ctx c).forks, g.id ≠ f.id) ∧ (t.ctx c).vecs.length = ((s.ctx c).vecs.filter fun v => !v.need.contains (f.id, !o)).length ∧
      (∀ v ∈ (t.ctx c).vecs, ∀ x ∈ v.need, x.1 ≠ f.id) ∧ (∀ d, d ≠ c → t.ctx d = s.ctx d) ∧
      Frame [RUN_STAT c, RUN_MISS_CNT c, RUN_SQUASH_CNT c] s t) ∧
  (∀ (c : Nat) (s : State), s.ripeFork c = none → exec (.branchResolved c) s = .next s))

/-- O18. Instructions and rows arrive from memory, and an ingot period generates 64 vectors. Derived from R79, R101, R99, R105; the
model's choices behind it are log entries 32, 33 and 7. -/
def Obligations.PatternDataArrivesAndIsGenerated : Prop :=
  (
  ∀ (c n : Nat) (p : Path) (b : Block) (s : State), s.fld (SEQ_STAT c) 2 0 = 2 → (s.ctx c).paths[n]? = some p → p.block = some b →
    b.finished = false → p.time / 2 ≤ s.time.up → (s.ctx c).kill = none → p.pos.stop = none → p.pos.jump = none →
    ((s.ctx c).straggler = true ∨ s.anySite c = true) → (b.instr.stored = true → b.row + b.done < (s.segEntry (s.homeOf c) b.instr.segment).length) →
    s.ingotCause c b = none → (∀ q ∈ (s.ctx c).paths, q.halt = .none ∧ q.pos.notes = []) →
    ∃ t q b', exec (.ingotGenerate c n) s = .next t ∧ (t.ctx c).vecs.length = (s.ctx c).vecs.length + 64 ∧
      (t.ctx c).paths[n]? = some q ∧ q.pos.vec = p.pos.vec + 64 ∧ q.block = some b' ∧ b'.done = b.done + 1 ∧
      (∀ d, d ≠ c → d ≠ s.homeOf c → t.ctx d = s.ctx d) ∧ Frame [RUN_STAT c] s t) ∧
  (
  (∀ (c k : Nat) (s : State), s.ctxActive c = true → (s.ctx c).resume = false →
    (s.segEntry (s.homeOf c) (s.ctx c).program).kind = 5 → k < (s.segEntry (s.homeOf c) (s.ctx c).program).length →
    s.entryLocked (s.partOf (s.homeOf c)) (s.ctx c).program = false → k ∉ (s.ctx c).instrs →
    ∃ t, exec (.prefetchArrival c (s.ctx c).program k) s = .next t ∧ (t.ctx c).instrs = (s.ctx c).instrs ++ [k] ∧
      (t.ctx c).present = (s.ctx c).present ∧ (∀ d, d ≠ c → t.ctx d = s.ctx d) ∧ Frame [] s t) ∧
  (∀ (c e k : Nat) (s : State), s.ctxActive c = true → (s.ctx c).resume = false → e ≠ (s.ctx c).program →
    s.segValid (s.homeOf c) (s.segEntry (s.homeOf c) e) = true → (s.segEntry (s.homeOf c) e).isStream = false →
    k < (s.segEntry (s.homeOf c) e).length → s.entryLocked (s.partOf (s.homeOf c)) e = false →
    (s.ctx c).present.length < s.prefetchDepth (s.homeOf c) * max 1 (s.ctx c).paths.length →
    ∃ t, exec (.prefetchArrival c e k) s = .next t ∧ (t.ctx c).present = (s.ctx c).present ++ [(e, k)] ∧
      (t.ctx c).instrs = (s.ctx c).instrs ∧ (∀ d, d ≠ c → t.ctx d = s.ctx d) ∧ Frame [] s t) ∧
  (∀ (c e prod : Nat) (data : List Byte) (s : State), s.ctxActive c = true →
    (∀ k ∈ s.homeOf c :: s.stragglersOf (s.homeOf c), (s.ctx k).resume = false) → s.streamEntry c = some e →
    s.segValid (s.homeOf c) (s.segEntry (s.homeOf c) e) = true → s.entryLocked (s.partOf (s.homeOf c)) e = false → s.bit HST_STAT 15 = true →
    tabGet (fun _ => 0) (s.ctx c).fetched e < prod → tabGet (fun _ => 0) (s.ctx c).fetched e < (s.segEntry (s.homeOf c) e).length →
    data.length = (s.segEntry (s.homeOf c) e).rowBytes → (s.ctx c).rows.length < s.prefetchDepth (s.homeOf c) →
    let n := tabGet (fun _ => 0) (s.ctx c).fetched e
    let a := (s.segEntry (s.homeOf c) e).consAddr
    ∃ t, exec (.streamRowFetch c prod data) s = .next t ∧ tabGet (fun _ => []) (t.ctx c).rows (rowKey e n) = data ∧
      tabGet (fun _ => 0) (t.ctx c).fetched e = n + 1 ∧ (∀ i, (h : i < 8) → t.hostByte (a + i) = (leBytes 8 (n + 1))[i]?) ∧
      (∀ x, x < a ∨ a + 8 ≤ x → t.hostByte x = s.hostByte x) ∧ (∀ r, t.rd r = s.rd r) ∧ (∀ x, t.memByte x = s.memByte x) ∧
      t.shadow = s.shadow ∧ t.shadowNext = s.shadowNext ∧ t.nv = s.nv ∧
      (∀ d, d ≠ s.homeOf c → d ∉ s.stragglersOf (s.homeOf c) → t.ctx d = s.ctx d)))

/-- O19. Table entries load one by one into the shadow table, and a swap is taken only with the expected CRC. Derived from R91; the
model's choices behind it are log entries 32, 33 and 7. -/
def Obligations.SequenceTables : Prop :=
  (∀ (c v : Nat) (s : State), c < 64 → s.bit SYS_STAT 15 = true →
    (s.fld (SEQ_TSEL c) 15 12 ≤ 4 → s.fld (SEQ_TSEL c) 11 0 < tableSize (s.fld (SEQ_TSEL c) 15 12) →
      ∃ t, exec (.seqTableEntryWrite c v) s = .next t ∧
        (t.ctx c).tables.shadow = tableStore (s.ctx c).tables.shadow (s.fld (SEQ_TSEL c) 15 12) (s.fld (SEQ_TSEL c) 11 0)
          (if s.fld (SEQ_TSEL c) 15 12 = 4 then v % 65536 else s.rdN (SEQ_TDATA c) + 65536 * (v % 65536)) ∧
        (t.ctx c).tables.active = (s.ctx c).tables.active ∧ t.fld (SEQ_TSEL c) 11 0 = (s.fld (SEQ_TSEL c) 11 0 + 1) % 4096 ∧
        t.fld (SEQ_TSEL c) 15 12 = s.fld (SEQ_TSEL c) 15 12 ∧ (∀ d, d ≠ c → t.ctx d = s.ctx d) ∧ Frame [SEQ_TSEL c] s t) ∧
    (4 < s.fld (SEQ_TSEL c) 15 12 ∨ tableSize (s.fld (SEQ_TSEL c) 15 12) ≤ s.fld (SEQ_TSEL c) 11 0 →
      exec (.seqTableEntryWrite c v) s = .next s)) ∧
  (∀ (c k : Nat) (s : State), c < 64 → k < 5 → s.bit SYS_STAT 15 = true →
    (tableCrc (s.ctx c).tables.shadow k ≠ s.wide (SEQ_TCRC c) 2 → ∃ t, exec (.seqTableSwap c (2 ^ k)) s = .next t ∧
      t.bit (SEQ_TSTAT c) 5 = true ∧ (∀ d, t.ctx d = s.ctx d) ∧ t.sched = s.sched ∧ Frame [SEQ_TSTAT c] s t) ∧
    (tableCrc (s.ctx c).tables.shadow k = s.wide (SEQ_TCRC c) 2 → ∃ t w, exec (.seqTableSwap c (2 ^ k)) s = .next t ∧
      (w ∈ t.sched.waiting ∨ ∃ act, (w, act) ∈ t.sched.running) ∧ w.kind = .seqSwap c k ∧ w.cls = 2 ∧ w.origin = c ∧
      (t.ctx c).tables.active = (s.ctx c).tables.active ∧ (t.ctx c).tables.shadow = (s.ctx c).tables.shadow ∧
      (∀ d, d ≠ c → t.ctx d = s.ctx d)))

/-- O20. The next vector crosses the pour line in its clock or is discarded; compare results belong to the oldest vector of their context
that waits for them and are processed in the order of the crossings. Derived from R116, R117, R114, R169, R124, R130; the model's choices
behind it are log entries 31, 34 and 7. -/
def Obligations.VectorsCrossAndAreCompared : Prop :=
  (
  (∀ (c : Nat) (v : Vec) (s : State), s.nextVec c = some v → v.need = [] → s.crossClock c v ≤ s.time.up →
    ((s.ctx c).straggler = false ∨
      (v.pos % 64 ≠ 0 ∧ v.instr.op ≠ 0x09 ∧ (s.ctx c).sites ≠ [] ∧ (s.ctx c).tails = [] ∧ (s.ctx c).code = none)) →
    ∃ t, exec (.pourLineCrossing c) s = .next t ∧ (t.ctx c).vecs = (s.ctx c).vecs.erase v ∧ (t.ctx c).expect = some (v.gen + v.slots) ∧
      (t.ctx c).crossed = s.time.up ∧ (t.ctx c).lastIndex = v.index ∧ t.nv = s.nv ∧ t.pending = s.pending) ∧
  (∀ (c : Nat) (v u : Vec) (rest : List Await) (s : State), c < 64 → s.nextVec c = some v → v.need = [] → s.crossClock c v ≤ s.time.up →
    v.pos % 64 ≠ 0 → v.first = false → v.last = false → (s.ctx c).expect.getD v.gen = v.gen →
    (s.ctx (s.homeOf c)).await = .vec u none :: rest → u.strobes ≠ [] → (s.ctx c).tails = [] → (s.ctx c).code = none →
    ((s.ctx c).straggler = false ∨ (s.ctx c).sites ≠ []) → v.loops.length ≤ 16 → v.index < 2 ^ 32 →
    ∃ t, exec (.pourLineCrossing c) s = .next t ∧ (t.ctx c).vecs = (s.ctx c).vecs.erase v ∧ t.wide (SEQ_PC c) 2 = v.index ∧
      (t.ctx (s.homeOf c)).await.length = (s.ctx (s.homeOf c)).await.length + 1 ∧ (t.ctx c).expect = some (v.gen + v.slots) ∧
      (t.ctx c).crossed = s.time.up ∧ (∀ a, t.memByte a = s.memByte a) ∧ t.nv = s.nv ∧ t.pending = s.pending) ∧
  (∀ (c : Nat) (v : Vec) (e : Nat × Bool) (l : List (Nat × Bool)) (s : State), s.nextVec c = some v → v.need = e :: l →
    s.crossClock c v ≤ s.time.up →
    ∃ t, exec (.pourLineCrossing c) s = .next t ∧
      (∀ w ∈ (t.ctx c).vecs, ∀ x ∈ w.need, x.1 ≠ e.1) ∧ (∀ p ∈ (t.ctx c).paths, ∀ x ∈ p.need, x.1 ≠ e.1) ∧
      (∀ f ∈ (t.ctx c).forks, f.id = e.1 → f.late = true) ∧ (∀ d, d ≠ c → t.ctx d = s.ctx d) ∧ Frame (RUN_STAT c :: s.padRegs) s t)) ∧
  (
  (∀ (c h : Nat) (v : Vec) (obs : List PinObs) (rest : List Await) (s : State), s.awaitHome c = some h →
    (s.ctx h).await = .vec v none :: rest → v.stream.1 = c → v.strobes ≠ [] →
    ∃ t k, exec (.compareResult c obs) s = .next t ∧ (t.ctx h).await = rest.drop k ∧ t.nv = s.nv ∧ t.pending = s.pending) ∧
  (∀ (c h : Nat) (u : Vec) (obs : List PinObs) (rest : List Await) (s : State), s.awaitHome c = some h →
    (s.ctx h).await = .vec u none :: rest → u.stream.1 ≠ c → u.strobes ≠ [] →
    ∃ t, exec (.compareResult c obs) s = .next t ∧ (t.ctx h).await = .vec u none :: putObs c obs rest ∧
      (∀ d, d ≠ h → t.ctx d = s.ctx d) ∧ Frame [] s t) ∧
  (∀ (c h : Nat) (v : Vec) (obs : List PinObs) (s : State), s.awaitHome c = some h → (s.ctx h).await = [.vec v none] → v.stream.1 = c →
    v.strobes ≠ [] → v.instr.isMatch = false →
    ∃ t, exec (.compareResult c obs) s = .next t ∧ (t.ctx h).await = [] ∧ (∀ d, d ≠ h → t.ctx d = s.ctx d) ∧ t.nv = s.nv ∧
      t.pending = s.pending ∧ (v.applied = [] → Frame [] s t)) ∧
  (∀ (c h n : Nat) (v : Vec) (obs : List PinObs) (s : State), s.awaitHome c = some h → (s.ctx h).await = [.vec v none] → v.stream.1 = c →
    v.strobes ≠ [] → v.instr.isMatch = true → v.applied = [] → n ∈ (v.fails obs).map Strobe.site → s.siteServed n = true →
    (s.ctx (s.ctxOfSite n)).waits = [] → v.stream ∈ (s.ctx (s.ctxOfSite n)).lineage →
    ∃ t, exec (.compareResult c obs) s = .next t ∧
      (n, v.pos + 2 * (s.ctx (s.ctxOfSite n)).delay) ∈ (t.ctx (s.ctxOfSite n)).results ∧ Frame [] s t) ∧
  (∀ (c : Nat) (obs : List PinObs) (s : State), s.awaitHome c = none → exec (.compareResult c obs) s = .next s))

/-- O21. Early aborts, tripped groups and waits that are over take a site out of its run. Derived from R187, R290, R135; the model's
choices behind it are log entries 31, 34 and 7. -/
def Obligations.SitesLeaveTheirRun : Prop :=
  (∀ (n : Nat) (v : Vec) (s : State),
    let c := s.boundaryCtx n
    let h := s.homeOf c
    let held := ∃ u rest, (s.ctx h).await = .vec u none :: rest ∧ u.strobes ≠ []
    n < 512 → c < 64 → h < 64 → s.siteServed n = true → s.nextVec c = some v → v.need = [] → v.pos % 64 = 0 → s.crossClock c v ≤ s.time.up →
    (held ∨ (s.ctx h).await = []) →
    (((s.site n).abort.any fun a => a.2 < s.time.up) = true → ∃ t, exec (.earlyAbort n) s = .next t ∧
      t.fld (RUN_SITE_STAT n) 2 0 = 5 ∧ t.rdN (RUN_SITE_CODE n) = 0x0F01 ∧ t.bit ASY_EVT 1 = true ∧
      (held → (∀ w ∈ (s.ctx h).waits, n ∉ w.sites) → ∀ a, t.memByte a = s.memByte a)) ∧
    ((s.site n).tripped = true → ∃ t, exec (.siteTripped n) s = .next t ∧
      t.fld (RUN_SITE_STAT n) 2 0 = 5 ∧ t.rdN (RUN_SITE_CODE n) = 0x1310 ∧
      (held → (∀ w ∈ (s.ctx h).waits, n ∉ w.sites) → ∀ a, t.memByte a = s.memByte a))) ∧
  (∀ (h : Nat) (w : WaitGroup) (s : State), h < 64 → (s.ctx h).waits.find? (s.waitOver h) = some w → (∀ n ∈ w.sites, n < 512) →
    (∀ g ∈ (s.ctx h).waits.erase w, ∀ n ∈ w.sites, n ∉ g.sites) → (s.ctx h).straggler = false →
    ((∃ u rest, (s.ctx h).await = .vec u none :: rest ∧ u.strobes ≠ []) ∨ (s.ctx h).await = []) →
    ∃ t, exec (.waitTimeout h) s = .next t ∧ ∀ n ∈ w.sites, t.fld (RUN_SITE_STAT n) 2 0 = 5 ∧ t.rdN (RUN_SITE_CODE n) = 0x0E11 ∧
      t.rdN (RUN_SITE_WAIT n) = min 65535 w.stages) ∧
  (∀ (h : Nat) (s : State), (s.ctx h).waits.find? (s.waitOver h) = none → exec (.waitTimeout h) s = .next s)

/-- O22. A sounding begins, is refused, fails, goes on from sequence to sequence or gives the minimum commit delay. Derived from R119,
R120, R121; the model's choices behind it are log entries 34 and 7. -/
def Obligations.Soundings : Prop :=
  (∀ (c : Nat) (s : State), c < 64 → s.bit SYS_STAT 15 = true →
    ((findCaravan s.casting c = none ∨ s.ctxActive c = true ∨ s.fld (RUN_SND_STAT c) 1 0 = 1 ∨ s.soundReady c = false) →
      ∃ t, exec (.soundGo c) s = .next t ∧ t.rdN (RUN_SND_CODE c) = 0x0E0B ∧ Frame [RUN_SND_CODE c] s t) ∧
    (findCaravan s.casting c ≠ none → s.ctxActive c = false → s.fld (RUN_SND_STAT c) 1 0 ≠ 1 → s.soundReady c = true →
      ∃ t, exec (.soundGo c) s = .next t ∧ t.bit (RUN_CD_MIN c) 15 = false ∧ t.fld (RUN_SND_STAT c) 1 0 = 1 ∧
        (t.ctx c).sound = some ⟨0, 0, s.time.up, []⟩) ∧
    (s.fld (RUN_SND_STAT c) 1 0 ≠ 1 → exec (.soundAbort c) s = .next s) ∧
    (s.fld (RUN_SND_STAT c) 1 0 = 1 → ∃ t, exec (.soundAbort c) s = .next t ∧ t.rdN (RUN_SND_CODE c) = 0x0E0A ∧
      t.fld (RUN_SND_STAT c) 1 0 = 3 ∧ t.bit (RUN_CD_MIN c) 15 = false ∧ t.bit (RUN_EVT c) 3 = true ∧ (t.ctx c).sound = none)) ∧
  (∀ (c r : Nat) (trips : List Nat) (s : State), (s.ctx c).sound = none →
    exec (.soundNoEcho c r) s = .next s ∧ exec (.soundDone c trips) s = .next s) ∧
  (∀ (c r : Nat) (q : Sounding) (s : State), c < 64 → (s.ctx c).sound = some q → (q.rec_ ≠ r → exec (.soundNoEcho c r) s = .next s) ∧
    (q.rec_ = r → r < 256 → q.since + 64 + 4096 ≤ s.time.up →
      ∃ t, exec (.soundNoEcho c r) s = .next t ∧ t.rdN (RUN_SND_CODE c) = 0x0E08 ∧ t.fld (RUN_SND_STAT c) 1 0 = 3 ∧
        t.fld (RUN_SND_STAT c) 15 8 = r ∧ t.bit (RUN_CD_MIN c) 15 = false ∧ t.bit (RUN_EVT c) 3 = true ∧ (t.ctx c).sound = none)) ∧
  (∀ (c x : Nat) (q : Sounding) (s : State), c < 64 → (s.ctx c).sound = some q → q.since + 64 + min x 4096 ≤ s.time.up →
    (4096 < x → ∃ t, exec (.soundDone c [x]) s = .next t ∧ t.rdN (RUN_SND_CODE c) = 0x0E08 ∧ t.fld (RUN_SND_STAT c) 1 0 = 3 ∧
      t.bit (RUN_CD_MIN c) 15 = false ∧ t.bit (RUN_EVT c) 3 = true ∧ (t.ctx c).sound = none) ∧
    (∀ n, x ≤ 4096 → q.next (soundsOf s.casting c) x = some n → n.rec_ < (soundsOf s.casting c).length →
      ∃ t, exec (.soundDone c [x]) s = .next t ∧ (t.ctx c).sound = some n ∧ (∀ d, d ≠ c → t.ctx d = s.ctx d) ∧ Frame s.padRegs s t) ∧
    (∀ n, x ≤ 4096 → q.next (soundsOf s.casting c) x = some n → (soundsOf s.casting c).length ≤ n.rec_ →
      let need := max 256 ((n.best.map fun e => e.1 + e.2).foldl max 0)
      (need ≤ 2048 → ∃ t, exec (.soundDone c [x]) s = .next t ∧ t.rdN (RUN_CD_MIN c) = 0x8000 + need ∧ t.fld (RUN_SND_STAT c) 1 0 = 2 ∧
        t.bit (RUN_EVT c) 2 = true ∧ (t.ctx c).sound = none) ∧
      (2048 < need → ∃ t, exec (.soundDone c [x]) s = .next t ∧ t.rdN (RUN_SND_CODE c) = 0x0E09 ∧ t.fld (RUN_SND_STAT c) 1 0 = 3 ∧
        t.bit (RUN_CD_MIN c) 15 = false ∧ t.bit (RUN_EVT c) 3 = true ∧ (t.ctx c).sound = none))) ∧
  (∀ (c x : Nat) (l : List Nat) (q : Sounding) (s : State), c < 64 → (s.ctx c).sound = some q → soundDue q (l ++ [x]) ≤ s.time.up →
    ∃ t, exec (.soundDone c l) s = .next t ∧ exec (.soundDone c [x]) t = exec (.soundDone c (l ++ [x])) s)

/-- O23. The analysis of a memory event leaves every fail recorded or covered by an assigned repair. Derived from R180, R181, R182; the
model's choices behind it are log entries 31 and 7. -/
def Obligations.AnalysisLosesNoFail : Prop :=
  (∀ (n : Nat) (e : MemEvent) (rest : List MemEvent) (g : RepairRec) (s : State), (s.site n).fifo = e :: rest → s.geometry n = some g →
    ((s.site n).session.cells.length + (s.site n).session.repairs.length < 8184 ∨ (e.bank, e.row, e.col) ∈ (s.site n).session.cells) →
    ∃ t, exec (.memoryEventAnalysis n) s = .next t ∧
      (∀ c, (c = (e.bank, e.row, e.col) ∨ c ∈ (s.site n).session.cells) →
        c ∈ (t.site n).session.cells ∨ (t.site n).session.covered g c = true) ∧
      (∀ p ∈ (s.site n).session.repairs, p ∈ (t.site n).session.repairs) ∧
      ((t.site n).fifo = rest ∨ (t.site n).fifo = [] ∧ (t.site n).session.flag 2 = true) ∧
      (∀ a, t.memByte a = s.memByte a) ∧ t.nv = s.nv ∧ (∀ m, m ≠ n → t.site m = s.site m)) ∧
  (∀ (n : Nat) (s : State), (s.site n).fifo = [] → exec (.memoryEventAnalysis n) s = .next s)

/-- O24. The repairs of a final search cover every cell of the session. Derived from R183; the model's choices behind it are log entries
31 and 7. -/
def Obligations.FinalSearchCoversEveryCell : Prop :=
  ∀ (g : RepairRec) (cells : List (Nat × Nat × Nat)) (repairs l : List Repair), finalCover g cells repairs = some l →
    (∀ c ∈ cells, g.regionOf c.1 c.2.1 < g.regions → ((repairs ++ l).any fun p => p.covers g c) = true) ∧
    (∀ r < g.regions, ∀ k : Bool, (l.filter fun p => p.region == r && p.isCol == k).length ≤ spareLeft g repairs r k)

/-- O25. FINALIZE and SESSION_CLEAR, and what result blocks and fail records store. Derived from R184, R185, R176, R183, R190; the model's
choices behind it are log entries 31 and 7. -/
def Obligations.SessionsCloseAndReachMemory : Prop :=
  (
  ∀ (n : Nat) (s : State), n < 512 → s.bit SYS_STAT 15 = true →
    (s.siteServed n = true → ∀ i ∈ [Instr.finalize n, Instr.sessionClear n], ∃ t, exec i s = .next t ∧ t.bit ASY_EVT 5 = true ∧
      t.site n = s.site n ∧ Frame [ASY_EVT] s t) ∧
    (s.siteServed n = false →
      (∃ t, exec (.finalize n) s = .next t ∧ (t.site n).session = Session.empty ∧ (t.site n).fifo = []) ∧
      (∃ t, exec (.sessionClear n) s = .next t ∧ (t.site n).session = Session.empty ∧ (t.site n).fifo = [] ∧ (∀ m, m ≠ n → t.site m = s.site m) ∧
        Frame [ASY_SITE_STAT n, ASY_FAILVEC n, ASY_FAILVEC n + 2, ASY_FAILVEC n + 4] s t) ∧
      ((s.site n).finalizing = none → ∃ t, exec (.finalize n) s = .next t ∧ (t.site n).session = Session.empty ∧ (t.site n).fifo = [] ∧
        ((t.site n).finalizing.isSome = true ∧ (t.queue (ASY_RES_STAT n)).items = (s.queue (ASY_RES_STAT n)).items ∨
          (t.site n).finalizing = none ∧ t.bit ASY_EVT 0 = true ∧ ((s.queue (ASY_RES_STAT n)).items.length < 4 →
            (t.queue (ASY_RES_STAT n)).items.length = (s.queue (ASY_RES_STAT n)).items.length + 1))))) ∧
  (
  (∀ (n : Nat) (r : List Byte) (rest : List (List Byte)) (p : StoreRec) (s : State), (s.site n).queue = r :: rest →
    failStore s.casting n = some p →
    let a := p.device (s.wide (ASY_LOG_BASE n) 3 + 32 * (s.wide (ASY_LOG_WR n) 2 % max 1 (s.wide (ASY_LOG_CAP n) 2)))
    ∃ t, exec (.logDrainWrite n) s = .next t ∧ (∀ i, i < r.length → some (t.memByte (a + i)) = r[i]?) ∧
      (∀ x, x < a ∨ a + r.length ≤ x → t.memByte x = s.memByte x) ∧ (t.site n).queue = rest ∧
      t.wide (ASY_LOG_WR n) 2 = (s.wide (ASY_LOG_WR n) 2 + 1) % 2 ^ 32 ∧ (∀ x, t.hostByte x = s.hostByte x) ∧ t.nv = s.nv ∧
      (∀ b, b ∉ [ASY_SITE_STAT n, ASY_FAILVEC n, ASY_FAILVEC n + 2, ASY_FAILVEC n + 4, ASY_LOG_WR n, ASY_LOG_WR n + 2] → t.rd b = s.rd b)) ∧
  (∀ (n : Nat) (s : State), ((s.site n).queue = [] ∨ failStore s.casting n = none) → exec (.logDrainWrite n) s = .next s) ∧
  (∀ (n : Nat) (x : Closing) (s : State), n < 512 → (s.site n).finalizing = some x → (s.queue (ASY_RES_STAT n)).items.length < 4 →
    ∃ t it, exec (.finalAnalysis n) s = .next t ∧ (t.site n).finalizing = none ∧ t.bit ASY_EVT 0 = true ∧
      (t.queue (ASY_RES_STAT n)).items = (s.queue (ASY_RES_STAT n)).items ++ [it] ∧
      (let a := s.wide HST_ASY_BASE 3 + (4 * n + it.1 / 16 % 4) * 65536
       ∀ x, x < a ∨ a + 64 + 8 * it.2.getD 5 0 ≤ x → t.memByte x = s.memByte x)) ∧
  (∀ (n : Nat) (x : Closing) (s : State), n < 512 → (s.site n).finalizing = some x → 4 ≤ (s.queue (ASY_RES_STAT n)).items.length →
    ∃ t it, exec (.finalAnalysis n) s = .next t ∧ (t.site n).finalizing = none ∧ t.bit ASY_EVT 0 = true ∧ t.bit ASY_EVT 4 = true ∧
      (t.queue (ASY_RES_STAT n)).items = (s.queue (ASY_RES_STAT n)).items.dropLast ++ [it]) ∧
  (∀ (n : Nat) (s : State), (s.site n).finalizing = none → exec (.finalAnalysis n) s = .next s))

/-- O26. Starting, stopping and advancing a waveform sequencer, and its advance from entry to entry. Derived from R202, R205, R206, R198,
R204; the model's choices behind it are log entries 23 and 7. -/
def Obligations.WaveformSequencersRunAndAdvance : Prop :=
  (
  ∀ (u : Nat) (s : State), u < 20 → s.bit SYS_STAT 15 = true →
    (s.wfsState u = 1 → s.wfsStartCode u = some 0x1003) ∧
    (s.awgServes u = true → exec (.wfsStart u) s = .next s) ∧
    (∀ code, s.awgServes u = false → s.wfsStartCode u = some code → ∃ t, exec (.wfsStart u) s = .next t ∧ t.rd (WFS_CODE u) = BitVec.ofNat 16 code ∧
      t.bit (WFS_EVT u) 0 = true ∧ (∀ v, t.wfs v = s.wfs v) ∧ Frame [WFS_CODE u, WFS_EVT u] s t) ∧
    (s.awgServes u = false → s.wfsStartCode u = none → ∃ t, exec (.wfsStart u) s = .next t ∧ t.wfsState u = 1 ∧ t.fld (WFS_STAT u) 7 0 = s.fld (WFS_START_ENT u) 7 0 ∧
      (t.wfs u).at_ = s.time.up + 64 ∧ (t.wfs u).next = none ∧ (t.wfs u).stopAt = none ∧ (∀ v, v ≠ u → t.wfs v = s.wfs v)) ∧
    (s.wfsState u ≠ 1 → exec (.wfsStop u) s = .next s) ∧
    (s.wfsState u = 1 → (s.wfs u).stopAt = none → 0 < (s.wfs u).hold → ∃ t b, exec (.wfsStop u) s = .next t ∧ (t.wfs u).stopAt = some (b, 0x1011) ∧
      s.time.up + 64 ≤ b ∧ (s.granuleClocks u ∣ (b - (s.wfs u).at_)) ∧ (∀ v, v ≠ u → t.wfs v = s.wfs v) ∧ Frame [] s t) ∧
    ((s.wfs u).next = none → (s.wfs u).stopAt = none →
      (s.wfsListens u [3] = false → ∃ t, exec (.wfsAdvance u) s = .next t ∧ t.rdN (WFS_IGN_CNT u) = min 65535 (s.rdN (WFS_IGN_CNT u) + 1) ∧
        t.bit (WFS_EVT u) 4 = true ∧ (∀ v, t.wfs v = s.wfs v) ∧ Frame [WFS_IGN_CNT u, WFS_EVT u] s t) ∧
      (s.wfsListens u [3] = true → 0 < s.repClocks u → ∃ t b, exec (.wfsAdvance u) s = .next t ∧ (t.wfs u).next = some (b, s.time.up) ∧ s.time.up + 64 ≤ b ∧
        (s.repClocks u ∣ (b - (s.wfs u).at_)) ∧ (∀ v, v ≠ u → t.wfs v = s.wfs v) ∧ Frame [WFS_DEF_CNT u, WFS_EVT u] s t))) ∧
  (
  ∀ (u : Nat) (s : State), u < 20 → s.wfsState u = 1 → (s.wfs u).stopAt = none →
    (∀ b d, (s.wfs u).next = some (b, d) → b ≤ s.time.up →
      ((s.wfsEntry u).isEnd = false → ∃ t, exec (.entryAdvance u) s = .next t ∧ t.fld (WFS_STAT u) 7 0 = (s.wfsEntry u).next ∧
        t.bit (WFS_EVT u) 2 = true ∧ (t.wfs u).at_ = b ∧ (t.wfs u).next = none ∧ t.wfsState u = 1 ∧
        Frame [WFS_STAT u, WFS_EVT u, WFS_ADV_T u, WFS_ADV_T u + 2, WFS_ADV_T u + 4, WFS_ADV_T u + 6] s t) ∧
      ((s.wfsEntry u).isEnd = true → ∃ t, exec (.entryAdvance u) s = .next t ∧ t.wfsState u = 2 ∧ t.rdN (WFS_CODE u) = 0x1010 ∧
        t.bit (WFS_EVT u) 1 = true ∧ Frame [WFS_STAT u, WFS_EVT u, WFS_CODE u] s t)) ∧
    ((s.wfs u).next = none → exec (.entryAdvance u) s = .next s) ∧
    ((s.wfsEntry u).adv = 0 → (s.wfsEntry u).forever = false →
      (s.wfs u).at_ + ((s.wfsEntry u).plays + 1) * s.repClocks u ≤ s.time.up →
      ((s.wfsEntry u).isEnd = false → ∃ t, exec (.autoAdvance u) s = .next t ∧ t.fld (WFS_STAT u) 7 0 = (s.wfsEntry u).next ∧
        t.bit (WFS_EVT u) 2 = true ∧ (t.wfs u).at_ = (s.wfs u).at_ + ((s.wfsEntry u).plays + 1) * s.repClocks u ∧ t.wfsState u = 1) ∧
      ((s.wfsEntry u).isEnd = true → ∃ t, exec (.autoAdvance u) s = .next t ∧ t.wfsState u = 2 ∧ t.rdN (WFS_CODE u) = 0x1010 ∧
        t.bit (WFS_EVT u) 1 = true)) ∧
    ((s.wfsEntry u).adv ≠ 0 → exec (.autoAdvance u) s = .next s))

/-- O27. Sequence table writes, samples that saturate, and the output stage and mute switch of an AWG. Derived from R199, R210, R211,
R214, R316; the model's choices behind it are log entries 23 and 7. -/
def Obligations.WaveformTablesAndOutputs : Prop :=
  ∀ (u : Nat) (s : State), u < 20 →
    (∀ k v, k < 2048 → s.bit SYS_STAT 15 = true →
      (s.wfsState u = 1 → ∃ t, exec (.wfsTableWrite u k v) s = .next t ∧ t.bit (WFS_EVT u) 6 = true ∧ Frame [WFS_EVT u] s t) ∧
      (s.wfsState u ≠ 1 → u < 16 → s.bit (CAL_SUB_AWG (u / 4)) 14 = true → s.fld (CAL_SUB_AWG (u / 4)) 1 0 = u % 4 →
        ∃ t, exec (.wfsTableWrite u k v) s = .next t ∧ t.rdN CALC_CODE = 0x142A ∧ Frame [CALC_CODE] s t) ∧
      (s.wfsState u ≠ 1 → (16 ≤ u ∨ s.bit (CAL_SUB_AWG (u / 4)) 14 = false ∨ s.fld (CAL_SUB_AWG (u / 4)) 1 0 ≠ u % 4) →
        ∃ t, exec (.wfsTableWrite u k v) s = .next t ∧ t.rd (WFS_SEQ u k) = BitVec.ofNat 16 v &&& maskAt .rw (WFS_SEQ u k) ∧ Frame [WFS_SEQ u k] s t)) ∧
    (s.sampleDue u s.time.up = true → s.formedAt u s.time.up = s.time.up → (s.oscAt u s.time.up).src = 3 → (s.sumSample u s.time.up < -32768 ∨ 32767 < s.sumSample u s.time.up) →
      ∃ t, exec (.sampleSaturated u) s = .next t ∧ t.rdN (WFS_SAT_CNT u) = min 65535 (s.rdN (WFS_SAT_CNT u) + 1) ∧
        t.bit (WFS_EVT u) 5 = true ∧ Frame [WFS_SAT_CNT u, WFS_EVT u] s t) ∧
    (-32768 ≤ s.sumSample u s.time.up → s.sumSample u s.time.up ≤ 32767 → exec (.sampleSaturated u) s = .next s) ∧
    ((s.awgVolts u s.time.up < 0 ∨ 56000 * 32768 < s.awgVolts u s.time.up) → ∃ t, exec (.outputStageLimit u) s = .next t ∧
      t.bit (AWG_STAT u) 4 = true ∧ t.bit (AWG_EVT u) 4 = true ∧ Frame [AWG_STAT u, AWG_EVT u] s t) ∧
    (0 ≤ s.awgVolts u s.time.up → s.awgVolts u s.time.up ≤ 56000 * 32768 → ∃ t, exec (.outputStageLimit u) s = .next t ∧
      t.bit (AWG_STAT u) 4 = false ∧ Frame [AWG_STAT u] s t) ∧
    (∀ d, (s.awg u).ranging = some d → d ≤ s.time.up → ∃ t, exec (.awgMuteReclose u) s = .next t ∧ (t.awg u).ranging = none ∧
      t.bit (AWG_STAT u) 2 = false ∧
      t.bit (AWG_STAT u) 0 = (s.bit (AWG_STAT u) 0 || (s.bit (AWG_OUT u) 15 && !s.awgServes u && !s.bit (AWG_STAT u) 3)) ∧
      (s.calJob (unitOfAwg (s.awgPhys u)) = none → Frame [AWG_STAT u] s t)) ∧
    ((s.awg u).ranging = none → exec (.awgMuteReclose u) s = .next s)

/-- O28. Arming, stopping and forcing a digitizer. `r` is the module once the digitizer stands at the present clock. Derived from R226,
R229, R230, R233, R234, R236, R316; the model's choices behind it are log entries 24, 30 and 7. -/
def Obligations.AcquisitionArmsStopsAndForces : Prop :=
  ∀ (u : Nat) (s r : State), u < 20 → s.bit SYS_STAT 15 = true → acqSettle u s = r →
    (s.segOpen u = true ∨ s.acqState u = 4 → s.acqArmCode u = some 0x1103) ∧
    (s.acqServes u = true → exec (.acqCtlArm u) s = .next s) ∧
    (∀ code, s.acqServes u = false → s.acqArmCode u = some code → ∃ t, exec (.acqCtlArm u) s = .next t ∧ t.rd (ACQ_CODE u) = BitVec.ofNat 16 code ∧
      t.bit (ACQ_EVT u) 0 = true ∧ (∀ v, t.acq v = s.acq v) ∧ Frame [ACQ_CODE u, ACQ_EVT u] s t) ∧
    (s.acqServes u = false → s.acqArmCode u = none → ∃ t, exec (.acqCtlArm u) s = .next t ∧ t.acqState u = (if s.acqPre u = 0 then 2 else 1) ∧
      (t.queue (ACQ_RES_STAT u)).items = [] ∧ (t.acq u).segs = s.rdN (ACQ_SEGS u) + 1 ∧ (t.acq u).pre = s.acqPre u ∧
      (t.acq u).post = s.acqPost u ∧ (t.acq u).decim = s.rdN (ACQ_DECIM u) + 1 ∧ (t.acq u).stream = s.bit (ACQ_MODE u) 15 ∧
      (t.acq u).seg = 0 ∧ (t.acq u).trig = none ∧ (t.acq u).first = s.sampleNow ∧ ∀ v, v ≠ u → t.acq v = s.acq v) ∧
    (r.acqState u = 1 ∨ r.acqState u = 2 ∨ r.acqState u = 4 → ∃ t, exec (.acqCtlStop u) s = .next t ∧ t.acqState u = 5 ∧
      t.rdN (ACQ_CODE u) = 0x1111 ∧ t.bit (ACQ_EVT u) 2 = true ∧ (∀ v, t.acq v = r.acq v) ∧ Frame [ACQ_STAT u, ACQ_CODE u, ACQ_EVT u] r t) ∧
    (r.acqState u = 3 → (r.acq u).trig.isSome = true → ∃ t, exec (.acqCtlStop u) s = .next t ∧ t.acqState u = 5 ∧
      t.rdN (ACQ_CODE u) = 0x1111 ∧ t.bit (ACQ_EVT u) 1 = true ∧ t.bit (ACQ_EVT u) 2 = true ∧
      (t.queue (ACQ_RES_STAT u)).items.length = (r.queue (ACQ_RES_STAT u)).items.length + 1) ∧
    (r.acqState u = 0 ∨ r.acqState u = 5 → exec (.acqCtlStop u) s = .next r) ∧
    (s.time.up < s.sampleNow → ∃ t, exec (.acqForce u) s = .next t ∧
      (t.acq u).found = (r.acq u).found ++ [⟨4, s.sampleNow, s.timeOf s.sampleNow, 0⟩] ∧ (∀ v, v ≠ u → t.acq v = r.acq v) ∧ Frame [] r t) ∧
    (s.sampleNow = s.time.up →
      (r.acqState u = 2 → ∃ t trig, exec (.acqForce u) s = .next t ∧ t.acqState u = 3 ∧ (t.acq u).trig = some trig ∧ trig.sources = 4 ∧
        trig.assigned = s.sampleNow ∧ (∀ v, v ≠ u → t.acq v = r.acq v) ∧ Frame [ACQ_STAT u] r t) ∧
      (∀ a, r.acqState u = 3 → (r.acq u).trig = some a → a.assigned = s.sampleNow → ∃ t trig, exec (.acqForce u) s = .next t ∧
        (t.acq u).trig = some trig ∧ trig.sources = a.sources ||| 4 ∧ (∀ v, v ≠ u → t.acq v = r.acq v) ∧ Frame [] r t) ∧
      (r.acqState u ≠ 2 → (r.acqState u = 3 → ∀ a, (r.acq u).trig = some a → a.assigned ≠ s.sampleNow) → ∃ t, exec (.acqForce u) s = .next t ∧
        t.rdN (ACQ_IGN_CNT u) = min 65535 (r.rdN (ACQ_IGN_CNT u) + 1) ∧ t.bit (ACQ_EVT u) 3 = true ∧ t.acqState u = r.acqState u ∧
        Frame [ACQ_IGN_CNT u, ACQ_EVT u] r t))

/-- O29. The trigger state, the edge trigger, the AUTO trigger and the PRE samples. `r` is the module once the digitizer stands at the
present clock, and `v` the sample. Derived from R221, R225, R226, R228, R229, R234; the model's choices behind it are log entries 24 and 7.
-/
def Obligations.TriggersStartTheirSegment : Prop :=
  ∀ (u : Nat) (s r : State), u < 20 → acqSettle u s = r →
    (∀ prev nv v, r.acqCode u nv = v →
      (r.trigUpper u ≤ v → ∃ t, exec (.acqTrigger u prev nv) s = .next t ∧ t.fld (ACQ_STAT u) 12 11 = 2) ∧
      (v < r.trigLower u → v < r.trigUpper u → ∃ t, exec (.acqTrigger u prev nv) s = .next t ∧ t.fld (ACQ_STAT u) 12 11 = 1) ∧
      (r.trigLower u ≤ v → v < r.trigUpper u →
        ∃ t, exec (.acqTrigger u prev nv) s = .next t ∧ t.fld (ACQ_STAT u) 12 11 = r.fld (ACQ_STAT u) 12 11 ∧ (∀ w, t.acq w = r.acq w) ∧
          Frame [ACQ_STAT u] r t) ∧
      (r.acqState u = 2 → s.sampleNow = s.time.up → r.bit (ACQ_TRIG u) 0 = true →
        ((r.fld (ACQ_STAT u) 12 11 = 1 ∧ r.trigUpper u ≤ v ∧ r.fld (ACQ_TRIG u) 14 13 ≠ 1) ∨
          (r.fld (ACQ_STAT u) 12 11 = 2 ∧ v < r.trigLower u ∧ v < r.trigUpper u ∧ (r.fld (ACQ_TRIG u) 14 13 = 1 ∨ r.fld (ACQ_TRIG u) 14 13 = 2))) →
        ∃ t trig, exec (.acqTrigger u prev nv) s = .next t ∧ t.acqState u = 3 ∧ (t.acq u).trig = some trig ∧ trig.sources = 1 ∧
          trig.assigned = s.sampleNow ∧ (∀ w, w ≠ u → t.acq w = r.acq w) ∧ Frame [ACQ_STAT u] r t)) ∧
    (∀ d, r.nthSample (r.acq u).waitAt (512 * max 1 (r.rdN (ACQ_AUTO u))) = d → r.bit (ACQ_TRIG u) 15 = true → d ≤ s.time.up →
      (r.acqState u = 2 → ∃ t trig, exec (.autoTrigger u) s = .next t ∧ t.acqState u = 3 ∧ (t.acq u).trig = some trig ∧ trig.sources = 8 ∧
        trig.assigned = d ∧ (∀ v, v ≠ u → t.acq v = r.acq v) ∧ Frame [ACQ_STAT u] r t) ∧
      (∀ a, r.acqState u = 3 → (r.acq u).trig = some a → a.assigned = d → ∃ t trig, exec (.autoTrigger u) s = .next t ∧
        (t.acq u).trig = some trig ∧ trig.sources = a.sources ||| 8 ∧ (∀ v, v ≠ u → t.acq v = r.acq v) ∧ Frame [] r t)) ∧
    ((r.acqState u ≠ 2 ∧ r.acqState u ≠ 3) ∨ r.bit (ACQ_TRIG u) 15 = false → exec (.autoTrigger u) s = .next r) ∧
    (s.acqState u = 1 → (s.acq u).found = [] →
      ((s.acq u).waitAt ≤ s.time.up → ∃ t, exec (.preFilled u) s = .next t ∧ t.acqState u = 2 ∧ (∀ v, t.acq v = s.acq v) ∧
        Frame [ACQ_STAT u] s t) ∧
      (s.time.up < (s.acq u).waitAt → (s.acq u).waitAt - s.time.up < s.toTick → ∃ t, exec (.preFilled u) s = .next t ∧ t.acqState u = 2 ∧
        t.time.up = (s.acq u).waitAt ∧ (∀ v, t.acq v = s.acq v) ∧ Frame [ACQ_STAT u] s t)) ∧
    (r.acqState u ≠ 1 → exec (.preFilled u) s = .next r)

/-- O30. A complete segment, the end of a sequence, the stream ring and its overrun, over-range and the range interval. `r` is the module
once the digitizer stands at the present clock. Derived from R221, R222, R234, R235, R236, R237, R239, R240; the model's choices behind it
are log entries 24 and 7. -/
def Obligations.SegmentsReachTheirSlot : Prop :=
  ∀ (u : Nat) (s r : State), u < 20 → acqSettle u s = r →
    (∀ trig samples, r.acqState u = 3 → (r.acq u).trig = some trig → r.nthSample trig.kept (((r.acq u).post - 1) * (r.acq u).decim) ≤ r.time.up →
      ∃ t, exec (.segmentComplete u samples) s = .next t ∧
        (t.queue (ACQ_RES_STAT u)).items.length = (r.queue (ACQ_RES_STAT u)).items.length + 1 ∧ t.bit (ACQ_EVT u) 1 = true ∧
        ((r.acq u).stream = true ∨ (r.acq u).segs ≤ (r.acq u).seg + 1 → t.acqState u = 5 ∧ t.rdN (ACQ_CODE u) = 0x1110 ∧ t.bit (ACQ_EVT u) 2 = true) ∧
        ((r.acq u).stream = false → (r.acq u).seg + 1 < (r.acq u).segs → t.acqState u = 4 ∧ (t.acq u).seg = (r.acq u).seg + 1) ∧
        ((r.acq u).stream = true ∨ (r.acq u).segs ≤ (r.acq u).seg + 1 → (r.acq u).stream = true ∨ 0 < (r.acq u).pre + (r.acq u).post →
          (t.memRead (unitBase (r.acqPhys u) + (r.acq u).seg * slotSamples (r.acq u).segs * 2) 4 = [0x5A#8, 0x56#8, 0x53#8, 0x47#8]) ∧
          ∀ a, (a < unitBase (r.acqPhys u) + (r.acq u).seg * slotSamples (r.acq u).segs * 2 ∨
              unitBase (r.acqPhys u) + (r.acq u).seg * slotSamples (r.acq u).segs * 2 + 64 + 2 * (if (r.acq u).stream then 0 else (r.acq u).pre + (r.acq u).post) ≤ a) →
            t.memByte a = r.memByte a)) ∧
    (r.acqState u ≠ 3 → ∀ samples, exec (.segmentComplete u samples) s = .next r) ∧
    (∀ trig, s.acqState u = 3 → (s.acq u).trig = some trig → (s.acq u).stream = true →
      s.nthSample (s.acq u).first ((s.earliestKept u trig + 32 * s.wide (ACQ_STRM_PROD u) 3 + 2 ^ 28 - 1) * (s.acq u).decim) ≤ s.time.up →
      ∃ t, exec (.streamOverrun u) s = .next t ∧ t.acqState u = 5 ∧ t.rdN (ACQ_CODE u) = 0x1112 ∧ t.bit (ACQ_EVT u) 6 = true ∧ t.bit (ACQ_EVT u) 2 = true) ∧
    (∀ trig samples, (s.acq u).trig = some trig → (s.acq u).stream = true → 0 < s.wide (ACQ_STRM_BLK u) 2 →
      (s.wide (ACQ_STRM_BLK u) 2 ≤ s.wide (ACQ_STRM_PROD u) 3 - s.wide (ACQ_STRM_CONS u) 3 → exec (.streamBlockWrite u samples) s = .next s) ∧
      (s.wide (ACQ_STRM_PROD u) 3 - s.wide (ACQ_STRM_CONS u) 3 < s.wide (ACQ_STRM_BLK u) 2 →
        32 * s.wide (ACQ_STRM_PROD u) 3 + 32 ≤ s.streamTaken u trig → samples.length = 32 →
        ∃ t, exec (.streamBlockWrite u samples) s = .next t ∧ t.wide (ACQ_STRM_PROD u) 3 = (s.wide (ACQ_STRM_PROD u) 3 + 1) % 2 ^ 48 ∧
          (∀ k, k < 64 → t.hostByte (s.wide (ACQ_STRM_ADDR u) 4 + 64 * (s.wide (ACQ_STRM_PROD u) 3 % s.wide (ACQ_STRM_BLK u) 2) + k) =
            some (if (s.acq u).shut then 0 else (samples.flatMap (leBytes 2)).getD k 0)) ∧
          (∀ a, (a < s.wide (ACQ_STRM_ADDR u) 4 + 64 * (s.wide (ACQ_STRM_PROD u) 3 % s.wide (ACQ_STRM_BLK u) 2) ∨
              s.wide (ACQ_STRM_ADDR u) 4 + 64 * (s.wide (ACQ_STRM_PROD u) 3 % s.wide (ACQ_STRM_BLK u) 2) + 64 ≤ a) → t.hostByte a = s.hostByte a) ∧
          t.mem = s.mem ∧ ∀ a, a ∉ [ACQ_STRM_PROD u, ACQ_STRM_PROD u + 2, ACQ_STRM_PROD u + 4] → t.rd a = s.rd a)) ∧
    (∀ nv, (r.acqResult u nv < -32768 ∨ 32767 < r.acqResult u nv → ∃ t, exec (.acqOverrange ⟨u, nv⟩) s = .next t ∧
        t.rdN (ACQ_OVR_CNT u) = min 65535 (r.rdN (ACQ_OVR_CNT u) + 1) ∧ t.bit (ACQ_EVT u) 4 = true ∧
        (r.segOpen u = true → (t.acq u).flags = (r.acq u).flags ||| 1) ∧ Frame [ACQ_OVR_CNT u, ACQ_EVT u] r t) ∧
      (-32768 ≤ r.acqResult u nv → r.acqResult u nv ≤ 32767 → exec (.acqOverrange ⟨u, nv⟩) s = .next r)) ∧
    (∀ d, (s.acq u).ranging = some d → d ≤ s.time.up → ∃ t, exec (.acqRangingEnd u) s = .next t ∧ (t.acq u).ranging = none ∧
      t.bit (ACQ_STAT u) 9 = false ∧ Frame [ACQ_STAT u] r t) ∧
    ((s.acq u).ranging = none → exec (.acqRangingEnd u) s = .next s)

/-- O31. Reading a result status register latches the oldest result; an advance discards it. Derived from R191, R238, R260, R281, R386;
the model's choices behind it are log entries 24, 25 and 7. -/
def Obligations.ResultQueuesLatchAndAdvance : Prop :=
  ∀ (n : Nat) (s : State), s.bit SYS_STAT 15 = true →
    (n < 512 → QueueRead (.asyResStatRead n) (ASY_RES_STAT n) (asyRegs n) s s ∧
      QueueAdvance (.asyResAdv n) (ASY_RES_STAT n) [ASY_READY (n / 16)] s) ∧
    (n < 20 → QueueRead (.acqResStatRead n) (ACQ_RES_STAT n) [ACQ_RES_SEQ n, ACQ_RES_SEG n, ACQ_RES_FLAGS n] s (acqSettle n s) ∧
      QueueAdvance (.acqResAdv n) (ACQ_RES_STAT n) [ACQ_RES_QUEUED n] s) ∧
    (n < 2176 →
      QueueRead (.tdcResStatRead n) (TDC_RES_STAT n)
        ([TDC_RES_SEQ n, TDC_RES_FLAGS n] ++ (List.range 4).map (TDC_RES_START n) ++ (List.range 4).map (TDC_RES_STOP n) ++
          (List.range 4).map (TDC_RES_INT n) ++ [TDC_RES_LEG n 0, TDC_RES_LEG n 1]) s (tdcSettle n (s.time.up * 65536) s) ∧
      QueueAdvance (.tdcResAdv n) (TDC_RES_STAT n) [] s) ∧
    ((measUnit n).isSome = true →
      QueueRead (.pmuMeasStatRead n) (PMU_MEAS_STAT n) ([PMU_MEAS_SEQ n, PMU_MEAS_AVG n, PMU_MEAS_MIN n, PMU_MEAS_MAX n, PMU_MEAS_FLAGS n] ++
        (List.range 4).map fun i => PMU_MEAS_T n + 2 * i) s s ∧
      QueueAdvance (.pmuMeasAdv n) (PMU_MEAS_STAT n) [] s) ∧
    (n < 16 → QueueRead (.chkResStatRead n) (CHK_RES_STAT n) ([CHK_RES_SEQ n, CHK_RES_ALIVE n, CHK_RES_FLAGS n] ++
        (List.range 4).map (CHK_RES_CALC n) ++ (List.range 4).map (CHK_RES_RECV n) ++ (List.range 4).map (CHK_RES_T n)) s s ∧
      QueueAdvance (.chkResAdv n) (CHK_RES_STAT n) [] s)

/-- O32. Arming, disarming and the timeout of a time measurement; `r` is the module once the synthetic edges before the present clock
have come. Derived from R249, R250, R255, R257, R258; the model's choices behind it are log entries 25 and 7. -/
def Obligations.TimeMeasurementsArmAndEnd : Prop :=
  ∀ (ch : Nat) (s : State), ch < 2176 →
    (s.tdcState ch = 1 ∨ s.tdcState ch = 2 → s.tdcArmCode ch = some 0x1201) ∧ (s.tdcState ch = 4 → s.tdcArmCode ch = some 0x1202) ∧
    (s.tdcState ch = 0 ∨ s.tdcState ch = 3 →
      (tdcMode (s.rd (TDC_MODE ch)) = 0 → s.tdcArmCode ch = some 0x1203) ∧
      (tdcMode (s.rd (TDC_MODE ch)) ≠ 0 → selSource (s.rd (TDC_START ch)) ≥ 5 → s.tdcArmCode ch = some 0x1204) ∧
      (tdcMode (s.rd (TDC_MODE ch)) ≠ 0 → selSource (s.rd (TDC_START ch)) < 5 → selSource (s.rd (TDC_STOP ch)) < 5 →
        (16 < s.fld (TDC_STOP ch) 4 0 → s.tdcArmCode ch = some 0x1205) ∧
        (s.fld (TDC_STOP ch) 4 0 ≤ 16 → ∀ p, s.tdcPeer ch = some p → s.tdcState (laneChannel (laneOf ch) p) ≠ 0 → s.tdcArmCode ch = some 0x1206))) ∧
    (s.bit SYS_STAT 15 = true →
      (∀ code, s.tdcArmCode ch = some code → ∃ t, exec (.tdcCtlArm ch) s = .next t ∧ t.rd (TDC_CODE ch) = BitVec.ofNat 16 code ∧
        t.bit (TDC_EVT ch) 0 = true ∧ (∀ c, t.tdc c = s.tdc c) ∧ Frame [TDC_CODE ch, TDC_EVT ch] s t) ∧
      (s.tdcArmCode ch = none →
        let b := if s.tdcState ch = 3 then cdAbort ch s else s
        (s.tdcPeer ch = none → ∃ t, exec (.tdcCtlArm ch) s = .next t ∧ t.tdcState ch = 1 ∧ (t.tdc ch).s = none ∧ (t.tdc ch).e = none ∧
          (t.tdc ch).mode = s.rd (TDC_MODE ch) ∧ (t.tdc ch).start = s.rd (TDC_START ch) ∧ (t.tdc ch).stop = s.rd (TDC_STOP ch) ∧
          (t.tdc ch).evsrc = s.rd (TDC_EVSRC ch) ∧ (t.tdc ch).frozen = s.laneFrozen ch ∧
          (t.tdc ch).tmo = s.wide (TDC_TMO ch 0) 3 + 1 ∧ (t.tdc ch).since = s.time.up ∧ (∀ c, c ≠ ch → t.tdc c = s.tdc c) ∧ Frame [TDC_STAT ch] b t) ∧
        (∀ p, s.tdcPeer ch = some p → ∃ t, exec (.tdcCtlArm ch) s = .next t ∧ t.tdcState ch = 1 ∧ t.tdcState (laneChannel (laneOf ch) p) = 4 ∧
          (t.tdc (laneChannel (laneOf ch) p)).lentTo = some ch ∧ (t.tdc ch).peer = some (laneChannel (laneOf ch) p) ∧
          (t.tdc ch).tmo = s.wide (TDC_TMO ch 0) 3 + 1 ∧ (t.tdc ch).since = s.time.up ∧
          (∀ c, c ≠ ch → c ≠ laneChannel (laneOf ch) p → t.tdc c = s.tdc c) ∧
          Frame [TDC_STAT ch, TDC_STAT (laneChannel (laneOf ch) p)] b t)) ∧
      (s.tdcState ch = 1 ∨ s.tdcState ch = 2 →
        ((s.tdc ch).peer = none → ∃ t, exec (.tdcCtlDisarm ch) s = .next t ∧ t.tdcState ch = 0 ∧ (∀ c, c ≠ ch → t.tdc c = s.tdc c) ∧ Frame [TDC_STAT ch] s t) ∧
        (∀ p, p < 2176 → p ≠ ch → (s.tdc ch).peer = some p → ∃ t, exec (.tdcCtlDisarm ch) s = .next t ∧ t.tdcState ch = 0 ∧ t.tdcState p = 0 ∧
          (t.tdc p).lentTo = none ∧ Frame [TDC_STAT ch, TDC_STAT p] s t)) ∧
      (s.tdcState ch ≠ 1 → s.tdcState ch ≠ 2 → exec (.tdcCtlDisarm ch) s = .next s)) ∧
    (let r := tdcSettle ch (s.time.up * 65536) s
    s.tdcState ch = 1 ∨ s.tdcState ch = 2 → (s.tdc ch).since + (s.tdc ch).tmo ≤ s.time.up →
      r.tdcState ch = 1 ∨ r.tdcState ch = 2 → (r.tdc ch).peer = none → (r.tdc ch).since + (r.tdc ch).tmo ≤ r.time.up →
      ∃ t, exec (.tdcTimeout ch) s = .next t ∧ t.bit (TDC_EVT ch) 2 = true ∧ t.tdcState ch = ((r.tdc ch).mode.getLsbD 13).toNat ∧
        ((r.tdc ch).mode.getLsbD 13 = true → (t.tdc ch).since = r.time.up + 1 ∧ (t.tdc ch).s = none ∧ (t.tdc ch).e = none) ∧
        ((r.queue (TDC_RES_STAT ch)).items.length < 16 → t.bit (TDC_EVT ch) 1 = true ∧
          (t.queue (TDC_RES_STAT ch)).items.length = (r.queue (TDC_RES_STAT ch)).items.length + 1 ∧ t.rd (TDC_DROP ch) = r.rd (TDC_DROP ch)) ∧
        (16 ≤ (r.queue (TDC_RES_STAT ch)).items.length → t.rdN (TDC_DROP ch) = min 65535 (r.rdN (TDC_DROP ch) + 1) ∧
          t.bit (TDC_EVT ch) 3 = true ∧ (t.queue (TDC_RES_STAT ch)).gap = true ∧ (t.queue (TDC_RES_STAT ch)).items = (r.queue (TDC_RES_STAT ch)).items) ∧
        (∀ c, c ≠ ch → t.tdc c = r.tdc c) ∧ Frame [TDC_STAT ch, TDC_EVT ch, TDC_DROP ch] r t) ∧
    (s.tdcState ch ≠ 1 → s.tdcState ch ≠ 2 → exec (.tdcTimeout ch) s = .next s)

/-- O33. An edge starts, completes or misses a time measurement, and dead time discards it; of a start and a stop in one clock and tap the
start is captured. DRIVE and STROBE edges come at the instants that their vectors gave them. `r` is the module once the synthetic edges
before the present clock have come. Derived from R247, R249, R251, R252, R254, R257, R258; the model's choices behind it are log entries
25 and 7. -/
def Obligations.EdgesMakeMeasurements : Prop :=
  (∀ (ch ph source tap : Nat) (rising : Bool) (s : State), ch < 2176 → ph < 2176 → source ≤ 1 →
    (s.dutyOf ph = some ch ∨ (s.dutyOf ph = none ∧ ch = ph ∧ 2048 ≤ ph ∧ s.ownApplied ph = true)) →
    (2048 ≤ ph → (s.tdc ph).lentTo = none) →
    let e : Edge := ⟨source, rising, s.time.up, tap⟩
    ((s.tdc ch).lentTo = none → (s.tdc ch).peer = none →
      let r := tdcSettle ch (s.time.up * 65536) s
      (r.tdcState ch = 1 ∨ r.tdcState ch = 2) → (r.tdc ch).since ≤ s.time.up → (r.tdc ch).peer = none →
      let x := r.stampOf ch ph e
      let dead := (r.tdc ph).last.any fun l => l.when_ ≤ x.when_ && x.when_ - l.when_ ≤ 6 * 65536
      let completed := fun (t : State) => t.tdcState ch = ((r.tdc ch).mode.getLsbD 13).toNat ∧
        ((r.queue (TDC_RES_STAT ch)).items.length < 16 → t.bit (TDC_EVT ch) 1 = true ∧
          (t.queue (TDC_RES_STAT ch)).items.length = (r.queue (TDC_RES_STAT ch)).items.length + 1) ∧
        Frame [TDC_STAT ch, TDC_EVT ch, TDC_DROP ch] r t
      let interval := tdcMode (r.tdc ch).mode = 1 ∧ (r.tdc ch).mode.getLsbD 12 = false
      ((r.tdc ch).s = none → selMatches (r.tdc ch).start source rising = true →
        (r.stopBefore ch ph e = none →
          (dead = true → ∃ t, exec (.tdcEdge ph source rising tap) s = .next t ∧ t.rdN (TDC_LOST ch) = min 65535 (r.rdN (TDC_LOST ch) + 1) ∧
            (t.tdc ch).lost = true ∧ (t.tdc ch).s = none ∧ Frame [TDC_LOST ch] r t) ∧
          (dead = false → interval →
            ∃ t, exec (.tdcEdge ph source rising tap) s = .next t ∧ t.tdcState ch = 2 ∧ (t.tdc ch).s = some x ∧ Frame [TDC_STAT ch] r t) ∧
          (dead = false → tdcMode (r.tdc ch).mode = 2 → ∃ t, exec (.tdcEdge ph source rising tap) s = .next t ∧ completed t)) ∧
        (∀ l, r.stopBefore ch ph e = some l → interval → ∃ t, exec (.tdcEdge ph source rising tap) s = .next t ∧ t.tdcState ch = 2 ∧
          (t.tdc ch).s = some x ∧ (t.tdc ch).e = none ∧ (t.tdc ch).lost = true ∧ t.rdN (TDC_LOST ch) = min 65535 (r.rdN (TDC_LOST ch) + 1) ∧
          t.rd (TDC_EARLY_STOP ch) = BitVec.ofNat 16 l.count ∧ Frame [TDC_STAT ch, TDC_LOST ch, TDC_EARLY_STOP ch] r t)) ∧
      ((r.tdc ch).s = none → (r.tdc ch).e = none → interval → selMatches (r.tdc ch).start source rising = false →
        selMatches (r.tdc ch).stop source rising = true → dead = false →
        ∃ t, exec (.tdcEdge ph source rising tap) s = .next t ∧ t.rdN (TDC_EARLY_STOP ch) = min 65535 (r.rdN (TDC_EARLY_STOP ch) + 1) ∧
          (t.tdc ch).early = true ∧ (t.tdc ch).s = none ∧ (t.tdc ch).e = none ∧ Frame [TDC_EARLY_STOP ch] r t) ∧
      (∀ a, (r.tdc ch).s = some a → (r.tdc ch).e = none → interval →
        selMatches (r.tdc ch).stop source rising = true → dead = false →
        (a.when_ ≤ x.when_ → ∃ t, exec (.tdcEdge ph source rising tap) s = .next t ∧ completed t) ∧
        (x.when_ < a.when_ → ∃ t, exec (.tdcEdge ph source rising tap) s = .next t ∧
          t.rdN (TDC_EARLY_STOP ch) = min 65535 (r.rdN (TDC_EARLY_STOP ch) + 1) ∧ (t.tdc ch).early = true ∧ (t.tdc ch).s = some a ∧
          Frame [TDC_EARLY_STOP ch] r t))) ∧
    (∀ m, m < 2176 → m ≠ ch → s.dutyOf ph = some ch → (s.tdc ch).lentTo = some m →
      let r := tdcSettle m (s.time.up * 65536) s
      (r.tdcState m = 1 ∨ r.tdcState m = 2) → (r.tdc m).since ≤ s.time.up → (r.tdc m).peer = some ch →
      ∀ a, (r.tdc m).s = some a → (r.tdc m).e = none → tdcMode (r.tdc m).mode = 1 → (r.tdc m).mode.getLsbD 12 = false →
        (r.tdc m).mode.getLsbD 13 = false →
        selMatches (r.tdc m).stop source rising = true → a.when_ ≤ (r.stampOf m ph e).when_ →
        ((r.tdc ph).last.any fun l => l.when_ ≤ (r.stampOf m ph e).when_ && (r.stampOf m ph e).when_ - l.when_ ≤ 6 * 65536) = false →
        ∃ t, exec (.tdcEdge ph source rising tap) s = .next t ∧ t.tdcState m = 0 ∧ t.tdcState ch = 0 ∧ (t.tdc ch).lentTo = none ∧
          Frame [TDC_STAT m, TDC_STAT ch, TDC_EVT m, TDC_DROP m] r t)) ∧
  (∀ (d ph source tap w : Nat) (rising up : Bool) (s : State), d < 2176 → source = 2 ∨ source = 3 →
    (s.dutyOf ph = some d → (s.chan d).synth = [(source, up, w)] → (source = 3 ∨ up = rising) → w / 65536 ≤ s.time.up →
      (s.tdc d).lentTo = none → (s.tdc d).peer = none → s.tdcState d = 1 → (s.tdc d).since ≤ w / 65536 → (s.tdc d).s = none →
      tdcMode (s.tdc d).mode = 1 → (s.tdc d).mode.getLsbD 12 = false → selMatches (s.tdc d).start source up = true →
      ∃ t, exec (.tdcEdge ph source rising tap) s = .next t ∧ t.tdcState d = 2 ∧
        (t.tdc d).s = some (s.stampOf d (s.holder d) ⟨source, up, w / 65536, w % 65536⟩) ∧ (t.chan d).synth = [] ∧ Frame [TDC_STAT d] s t)) ∧
  (∀ (ph source tap : Nat) (rising : Bool) (s : State), 4 ≤ source → exec (.tdcEdge ph source rising tap) s = .next s)

/-- O34. Code-density collections, linearity tables and their swaps. Derived from R262, R263, R264, R265, R267, R269; the model's choices
behind it are log entries 25, 30 and 7. -/
def Obligations.LinearityTablesAreCollectedAndSwapped : Prop :=
  ∀ (ch : Nat) (s : State), ch < 2176 →
    (s.bit SYS_STAT 15 = true →
      (s.tdcState ch ≠ 0 → ∃ t, exec (.cdGo ch) s = .next t ∧ t.rdN (TDC_CODE ch) = 0x1210 ∧ (∀ c, t.tdc c = s.tdc c) ∧ Frame [TDC_CODE ch] s t) ∧
      (s.tdcState ch = 0 → ∃ t, exec (.cdGo ch) s = .next t ∧ t.tdcState ch = 3 ∧ t.fld (TDC_TSTAT ch) 15 14 = 1 ∧
        (t.tdc ch).collect = some s.time.up ∧ Frame [TDC_STAT ch, TDC_TSTAT ch] s t) ∧
      ((s.tdc ch).collect.isSome = true → ∃ t, exec (.cdAbort ch) s = .next t ∧ (t.tdc ch).collect = none ∧ t.rdN (TDC_CODE ch) = 0x1215 ∧
        t.bit (TDC_EVT ch) 6 = true ∧ (s.tdcState ch = 3 → t.tdcState ch = 0) ∧ Frame [TDC_STAT ch, TDC_TSTAT ch, TDC_CODE ch, TDC_EVT ch] s t) ∧
      ((s.tdc ch).collect = none → exec (.cdAbort ch) s = .next s) ∧
      (∀ v, ∃ t, exec (.tdcTableWrite ch v) s = .next t ∧ t.tdcShadow ch (s.fld (TDC_TSEL ch) 7 0) = v % 65536 ∧
        (∀ k, k ≠ s.fld (TDC_TSEL ch) 7 0 → t.tdcShadow ch k = s.tdcShadow ch k) ∧ t.fld (TDC_TSTAT ch) 15 14 = 0 ∧
        t.fld (TDC_TSEL ch) 7 0 = (s.fld (TDC_TSEL ch) 7 0 + 1) % 256 ∧ Frame [TDC_TSTAT ch, TDC_TSEL ch] s t) ∧
      (let entries := (List.range 256).map (s.tdcShadow ch)
      let swaps := ∃ t, exec (.tdcTswap ch) s = .next t ∧ t.hasItem (.tdcSwap ch) ∧ t.tdcs = s.tdcs
      (s.fld (TDC_TSTAT ch) 15 14 = 0 →
        ((crc32c (entries.flatMap (leBytes 2))).toNat ≠ s.wide (TDC_TCRC ch) 2 →
          ∃ t, exec (.tdcTswap ch) s = .next t ∧ t.fld (TDC_TSTAT ch) 15 14 = 3 ∧ t.rdN (TDC_CODE ch) = 0x1214 ∧ t.bit (TDC_EVT ch) 5 = true ∧
            (∀ c, t.tdc c = s.tdc c) ∧ Frame [TDC_TSTAT ch, TDC_CODE ch, TDC_EVT ch] s t) ∧
        ((crc32c (entries.flatMap (leBytes 2))).toNat = s.wide (TDC_TCRC ch) 2 →
          (increasing entries = false → ∃ t, exec (.tdcTswap ch) s = .next t ∧ t.fld (TDC_TSTAT ch) 15 14 = 3 ∧ t.rdN (TDC_CODE ch) = 0x1213 ∧
            t.bit (TDC_EVT ch) 5 = true ∧ (∀ c, t.tdc c = s.tdc c) ∧ Frame [TDC_TSTAT ch, TDC_CODE ch, TDC_EVT ch] s t) ∧
          (increasing entries = true → s.laneFrozen ch = false → s.bit (TDC_TSTAT ch) 13 = false → swaps))) ∧
      (s.fld (TDC_TSTAT ch) 15 14 = 2 →
        (s.laneFrozen ch = true → ∃ t, exec (.tdcTswap ch) s = .next t ∧ (t.tdc ch).held = true ∧ t.bit (TDC_TSTAT ch) 13 = true ∧
          t.rdN (TDC_CODE ch) = 0x1216 ∧ t.bit (TDC_EVT ch) 8 = true ∧ t.sched = s.sched ∧ Frame [TDC_TSTAT ch, TDC_CODE ch, TDC_EVT ch] s t) ∧
        (s.laneFrozen ch = false → s.bit (TDC_TSTAT ch) 13 = false → swaps) ∧
        (s.laneFrozen ch = false → s.bit (TDC_TSTAT ch) 13 = true → exec (.tdcTswap ch) s = .next s)) ∧
      (s.fld (TDC_TSTAT ch) 15 14 = 1 ∨ s.fld (TDC_TSTAT ch) 15 14 = 3 → exec (.tdcTswap ch) s = .next s)) ∧
      (∃ t, exec (.tdcTdataRead ch) s = .next t ∧
        t.read.data = (if s.bit (TDC_TSEL ch) 15 then s.tdcShadow ch (s.fld (TDC_TSEL ch) 7 0) else s.tdcEntry ch (s.fld (TDC_TSEL ch) 7 0)) ∧
        t.fld (TDC_TSEL ch) 7 0 = (s.fld (TDC_TSEL ch) 7 0 + 1) % 256 ∧ t.tdcs = s.tdcs ∧ Frame [TDC_TSEL ch] s t)) ∧
    (∀ hits : List Nat, (s.tdc ch).collect.isSome = true → hits.length = 256 → hits.foldl (· + ·) 0 = s.cdHits ch →
      (s.calJob ch).any (·.collects) = false → (s.calJob ch).any (·.tdcOnly) = false →
      (s.bit (TDC_CD_CFG ch) 15 = false → ∃ t, exec (.cdDone ch hits) s = .next t ∧ (t.tdc ch).collect = none ∧
        (∀ k, k < 256 → t.tdcShadow ch k = (densityTable (s.cdHits ch) 0 hits).getD k 0) ∧
        (densityCode (s.cdHits ch) hits = none → t.fld (TDC_TSTAT ch) 15 14 = 2 ∧ t.bit (TDC_EVT ch) 4 = true) ∧
        (∀ code, densityCode (s.cdHits ch) hits = some code → t.fld (TDC_TSTAT ch) 15 14 = 3 ∧ t.rd (TDC_CODE ch) = BitVec.ofNat 16 code ∧ t.bit (TDC_EVT ch) 5 = true) ∧
        Frame [TDC_STAT ch, TDC_TSTAT ch, TDC_CODE ch, TDC_EVT ch] s t) ∧
      (s.bit (TDC_CD_CFG ch) 15 = true → densityCode (s.cdHits ch) hits = none → s.laneFrozen ch = false → s.bit (TDC_TSTAT ch) 13 = false →
        ∃ t, exec (.cdDone ch hits) s = .next t ∧ (t.tdc ch).collect = none ∧ t.hasItem (.tdcSwap ch))) ∧
    (∀ d, (s.tdc ch).collect = some d → d + 2 ^ 30 ≤ s.time.up → ∃ t, exec (.cdTooFew ch) s = .next t ∧ (t.tdc ch).collect = none ∧
      t.rdN (TDC_CODE ch) = 0x1211 ∧ t.fld (TDC_TSTAT ch) 15 14 = 0 ∧ Frame [TDC_STAT ch, TDC_TSTAT ch, TDC_CODE ch] s t)

/-- O35. Pad switches close and open, and with them the termination and the active load; PMU ranging ends; outriders take over and hand
back. Derived from R147, R154, R156, R158, R159, R161, R305; the model's choices behind it are log entries 13, 20, 21, 29, 30 and 7. -/
def Obligations.PadSwitchesAndDuties : Prop :=
  ∀ (ch : Nat) (s : State), ch < 2048 →
    let o := outriderOf (laneOf ch)
    ((s.chan (s.holder ch)).switch = .closing → (s.chan (s.holder ch)).due ≤ s.time.up → ∃ t, exec (.padSwitchClosed ch) s = .next t ∧
      let park := ((findPin s.casting ch).map (·.park)).getD 2
      let open_ := s.bit (PIN_STAT ch) 15 = false ∧ s.bit (PIN_STAT ch) 14 = false ∧ s.pmuForces ch = false ∧ (s.driveInert ch = true ∨ 1 < park)
      (t.chan (s.holder ch)).switch = .closed ∧ t.bit (PMU_STAT ch) 3 = (s.pmuMode ch ≠ 0 && !s.bit (PIN_STAT ch) 15) ∧
      (∀ c ∈ s.driving ch, (t.chan c).symbol = park ∧ (t.chan c).driverOn = (!s.driveInert ch && park ≤ 1) ∧
        (s.driveInert ch = false → park ≤ 1 → (t.chan c).driveHigh = (park == 1))) ∧
      (t.terminates ch = true ↔ open_ ∧ s.bit (PIN_MODE ch) 13 = true) ∧
      (t.loadActs ch = true ↔ open_ ∧ s.bit (PIN_MODE ch) 13 = false ∧ s.bit (PIN_MODE ch) 12 = true ∧ loadEligible park = true) ∧
      (∀ c, c ∉ s.driving ch → t.chan c = s.chan c) ∧ Frame [PMU_STAT ch, MON_STAT (monOfChannel ch)] s t) ∧
    ((s.chan (s.holder ch)).switch ≠ .closing → exec (.padSwitchClosed ch) s = .next s) ∧
    (∀ h ∈ [ch, o], (s.chan h).switch = .opening → (s.chan h).due ≤ s.time.up → ∃ t, exec (.padSwitchOpen ch) s = .next t ∧
      (t.chan h).switch = .opened ∧ (∀ c, c ≠ ch → c ≠ o → t.chan c = s.chan c) ∧ Frame [] s t) ∧
    ((s.chan ch).switch ≠ .opening → (s.chan o).switch ≠ .opening → exec (.padSwitchOpen ch) s = .next s) ∧
    (∀ d, (s.chan ch).ranging = some d → d ≤ s.time.up → ∃ t, exec (.pmuRangingEnd ch) s = .next t ∧ (t.chan ch).ranging = none ∧
      t.bit (PMU_STAT ch) 2 = false ∧ (∀ c, c ≠ ch → t.chan c = s.chan c) ∧ Frame [PMU_STAT ch] s t) ∧
    ((s.chan ch).ranging = none → exec (.pmuRangingEnd ch) s = .next s) ∧
    (∀ d, (s.chan ch).overlap = some d → d ≤ s.time.up → ∃ t, exec (.takeoverSwitchOpen ch) s = .next t ∧ (t.chan ch).switch = .opened ∧
      (t.chan ch).overlap = none ∧ (t.chan ch).driverOn = false ∧ t.bit (PIN_STAT ch) 13 = true ∧ t.bit (PIN_EVT ch) 6 = true ∧
      (∀ c, c ≠ ch → t.chan c = s.chan c) ∧
      (∀ j, s.calJob ch = some j → j.phase = 2 → ∃ k, t.calJob ch = some k ∧ k.phase = 3 ∧ k.step = j.step) ∧
      ((∀ j, s.calJob ch = some j → j.phase ≠ 2) → t.tdcs = s.tdcs ∧ Frame [PIN_STAT ch, PIN_EVT ch] s t) ∧
      Frame [PIN_STAT ch, PIN_EVT ch, TDC_STAT ch, TDC_TSTAT ch, TDC_CODE ch] s t) ∧
    ((s.chan ch).overlap = none → exec (.takeoverSwitchOpen ch) s = .next s) ∧
    (∀ d, (s.chan o).overlap = some d → s.fld (PIN_STAT o) 3 0 = ch % 16 → d ≤ s.time.up →
      ∃ t, exec (.handbackSwitchOpen ch) s = .next t ∧ (t.chan o).switch = .opened ∧ (t.chan o).driverOn = false ∧
        t.outState o = 0 ∧ t.bit (PIN_EVT ch) 7 = true ∧
        (t.chan o).dacs = (((levelRegs o).map s.rdN).take 6).map voltActed ++ (((levelRegs o).map s.rdN).drop 6).map curActed ∧
        (∀ c, c ≠ o → t.chan c = s.chan c) ∧ Frame [PIN_STAT o, PIN_EVT ch] s t) ∧
    ((s.chan o).overlap = none → exec (.handbackSwitchOpen ch) s = .next s)

/-- O36. The power sequence of a slice and of its gang, and its current limit. Derived from R271, R272, R273, R275, R276, R309; the
model's choices behind it are log entries 20, 21, 26, 29 and 7. -/
def Obligations.SlicesFollowTheirSequence : Prop :=
  ∀ (i : Nat) (s : State), i < 256 → s.leaderOf i = i → (∀ k ∈ s.gang i, k < 256) →
    let regs := DPS_CTL i :: DPS_EVT i :: MON_STAT (monOfSlice i) :: (s.gang i).map DPS_STAT
    (s.bit SYS_STAT 15 = true →
      (s.sliceLive i = false → ∃ t, exec (.dpsOn i) s = .next t ∧ t.bit (DPS_CTL i) 0 = false ∧ t.rdN (DPS_CODE i) = 0x1303 ∧
        t.bit (DPS_EVT i) 0 = true ∧ (∀ k, t.slice k = s.slice k) ∧ ∀ r, r ∉ [DPS_CTL i, DPS_CODE i, DPS_EVT i, MON_STAT (monOfSlice i)] → t.rd r = s.rd r) ∧
      (s.sliceLive i = true →
        (s.sliceState i = 0 → ∃ t, exec (.dpsOn i) s = .next t ∧ (∀ k ∈ s.gang i, t.sliceState k = 1) ∧
          (t.slice i).ticks = s.fld (DPS_SEQ i) 15 8 ∧ t.bit (DPS_CTL i) 0 = true ∧
          (∀ k ∈ s.gang i, ∀ j, s.calJob (unitOfSlice k) = some j → j.phase ≠ 0 →
            t.calJob (unitOfSlice k) = none ∧ t.fld (CAL_STAT (calOfSlice k)) 15 13 = 4) ∧
          ((∀ k ∈ s.gang i, s.calJob (unitOfSlice k) = none) → Frame regs s t)) ∧
        (s.sliceState i = 4 → ∃ t, exec (.dpsOn i) s = .next t ∧ (∀ k ∈ s.gang i, t.sliceState k = 3) ∧ Frame regs s t) ∧
        (s.sliceState i = 5 → ∃ t, exec (.dpsOn i) s = .next t ∧ (∀ k ∈ s.gang i, t.sliceState k = 2) ∧ (t.slice i).target = s.vsetActed i ∧
          (t.slice i).out = (s.slice i).outAt s.time.up ∧ Frame regs s t))) ∧
    (s.sliceState i = 1 → (s.slice i).ticks = 0 → ∃ t, exec (.sliceDelayOnExpiry i) s = .next t ∧ (∀ k ∈ s.gang i, t.sliceState k = 2) ∧
      (t.slice i).target = s.vsetActed i ∧ (t.slice i).out = 8000 ∧ (t.slice i).since = s.time.up ∧ Frame regs s t) ∧
    (s.sliceState i = 2 → (s.slice i).doneAt ≤ s.time.up →
      (s.bit (DPS_CTL i) 0 = true → ∃ t, exec (.atLevel i) s = .next t ∧ (∀ k ∈ s.gang i, t.sliceState k = 3) ∧ t.bit (DPS_EVT i) 3 = true ∧ Frame regs s t) ∧
      (s.bit (DPS_CTL i) 0 = false → ∃ t, exec (.atLevel i) s = .next t ∧ (∀ k ∈ s.gang i, t.sliceState k = 4) ∧
        (t.slice i).ticks = (s.slice i).offDelay.getD (s.fld (DPS_SEQ i) 7 0) ∧ t.bit (DPS_EVT i) 3 = true ∧ Frame regs s t)) ∧
    (s.sliceState i = 4 → (s.slice i).ticks = 0 → ∃ t, exec (.sliceDelayOffExpiry i) s = .next t ∧ (∀ k ∈ s.gang i, t.sliceState k = 5) ∧
      (t.slice i).target = 8000 ∧ Frame regs s t) ∧
    (s.sliceState i = 5 → (s.slice i).since + rampClocks (s.slice i).slew ((s.slice i).out - 8399) ≤ s.time.up →
      ∃ t, exec (.offDone i) s = .next t ∧ (∀ k ∈ s.gang i, t.sliceState k = 0) ∧ t.bit (DPS_EVT i) 4 = true ∧ Frame regs s t) ∧
    (s.sliceState i = 3 ∨ s.sliceState i = 4 → (s.slice i).out ≠ (s.slice i).target → (s.slice i).doneAt ≤ s.time.up →
      ∃ t, exec (.vsetRampEnd i) s = .next t ∧ (t.slice i).out = (s.slice i).target ∧ (∀ k, k ≠ i → t.slice k = s.slice k) ∧ Frame regs s t) ∧
    (0x8000 ≤ s.rdN (DPS_ILIM i) → s.limitActed i = 0) ∧
    (∀ demand, 2 ≤ s.sliceState i → ∃ t, exec (.currentLimitEngaged ⟨i, demand⟩) s = .next t ∧
      (s.rdN (DPS_ILIM i) < 0x8000 → t.bit (DPS_STAT i) 12 = decide (s.rdN (DPS_ILIM i) * (s.gang i).length < demand)) ∧
      (t.bit (DPS_STAT i) 12 = true → s.bit (DPS_STAT i) 12 = false → t.bit (DPS_EVT i) 1 = true) ∧
      Frame [DPS_STAT i, DPS_EVT i] s t) ∧
    (s.sliceState i = 0 → ∃ t, exec (.dischargeEnd i) s = .next t ∧ (t.slice i).discharging = false ∧ (∀ k, k ≠ i → t.slice k = s.slice k) ∧ Frame [] s t)

/-- O37. Measurement requests of PMUs and slices, and their results. Derived from R279, R280, R281, R282; the model's choices behind it
are log entries 20, 21, 26, 29 and 7. -/
def Obligations.MeasurementsQueueAndComplete : Prop :=
  (∀ (n : Nat) (s : State), s.bit SYS_STAT 15 = true → n < 2176 →
    let b := measOfChannel n
    let k := converterOf (false, n)
    ((s.adc k).queue.any (·.1 == b) = true → ∃ t, exec (.pmuMeasGo n) s = .next t ∧ MeasRefused b 0x1301 s t) ∧
    ((s.adc k).queue.any (·.1 == b) = false → s.bit (PMU_STAT n) 3 = false → ∃ t, exec (.pmuMeasGo n) s = .next t ∧ MeasRefused b 0x1302 s t) ∧
    ((s.adc k).queue.any (·.1 == b) = false → s.bit (PMU_STAT n) 3 = true → ∃ t, exec (.pmuMeasGo n) s = .next t ∧ MeasQueued b k s t)) ∧
  (∀ (n : Nat) (s : State), s.bit SYS_STAT 15 = true → n < 256 → s.leaderOf n = n →
    let b := measOfSlice n
    let k := converterOf (true, n)
    ((s.adc k).queue.any (·.1 == b) = true → ∃ t, exec (.dpsMeasGo n) s = .next t ∧ MeasRefused b 0x1301 s t) ∧
    ((s.adc k).queue.any (·.1 == b) = false → s.sliceLive n = false → ∃ t, exec (.dpsMeasGo n) s = .next t ∧ MeasRefused b 0x1302 s t) ∧
    ((s.adc k).queue.any (·.1 == b) = false → s.sliceLive n = true → ∃ t, exec (.dpsMeasGo n) s = .next t ∧ MeasQueued b k s t)) ∧
  (∀ (i : Nat) (s : State), s.bit SYS_STAT 15 = true → i < 256 → s.leaderOf i ≠ i → exec (.dpsMeasGo i) s = .next s) ∧
  (∀ (b n acc : Nat) (sl : Bool) (rest : List (Nat × Nat)) (codes : List Nat) (clamp : Bool) (s : State), measUnit b = some (sl, n) →
    (s.adc (converterOf (sl, n))).queue = (b, acc) :: rest → codes.length = 2 ^ s.fld (PMU_MEAS_CFG b) 15 13 →
    (sl = false → s.cal.lanes.contains (laneOf n) = false) →
    let start := max (acc + 3000 * s.fld (PMU_MEAS_CFG b) 10 3) (s.adc (converterOf (sl, n))).free
    start + 3000 * 2 ^ s.fld (PMU_MEAS_CFG b) 15 13 ≤ s.time.up →
    let vals := codes.map fun c => if s.measVolts sl n b then ((c % 65536 : Nat) : Int) else signed 16 c
    let q := s.queue (PMU_MEAS_STAT b)
    ∃ t, exec (.measComplete b codes clamp) s = .next t ∧ (t.adc (converterOf (sl, n))).queue = rest.filter (fun x => x.1 ≠ b) ∧
      (q.items.length < 4 → t.bit (PMU_MEAS_STAT b) 15 = true ∧ ∃ it, (t.queue (PMU_MEAS_STAT b)).items = q.items ++ [it] ∧
        it.2.take 4 = [q.seq, unsigned 16 (roundDiv (vals.foldl (· + ·) 0) codes.length),
          unsigned 16 (vals.foldl min (vals.headD 0)), unsigned 16 (vals.foldl max (vals.headD 0))] ∧
        it.2.drop 5 = words64 (s.timeOf start) ∧ ∃ f, it.2[4]? = some f ∧
          f.testBit 4 = (if sl then s.bit (DPS_STAT n) 12 || decide (start < (s.slice n).clampedTill) else clamp) ∧
          f.testBit 6 = (if sl then s.bit (DPS_STAT n) 11 || decide (start < (s.slice n).trippedTill)
            else s.bit (PIN_STAT n) 14 || decide (start < (s.chan n).trippedTill))) ∧
      (4 ≤ q.items.length → t.rdN (PMU_MEAS_DROP b) = min 65535 (s.rdN (PMU_MEAS_DROP b) + 1) ∧ (t.queue (PMU_MEAS_STAT b)).gap = true ∧
        (t.queue (PMU_MEAS_STAT b)).items = q.items) ∧
      Frame [PMU_STAT n, PMU_MEAS_STAT b, PMU_MEAS_DROP b] s t)

/-- O38. Monitor decisions, blanking windows, and the trip of a group and its recovery. Derived from R283, R284, R286, R287, R288, R289,
R291, R292, R154, R160; the model's choices behind it are log entries 20, 21, 26, 29 and 7. -/
def Obligations.MonitorsTripTheirGroups : Prop :=
  (∀ (b u v : Nat) (s : State), monUnit b = some u → s.monActive u = true →
    let trips := [MON_STAT b, MON_TRIP_CNT b, MON_EVT b, MON_TRIP_T b, MON_TRIP_T b + 2, MON_TRIP_T b + 4, MON_TRIP_T b + 6]
    let tripped := fun (t : State) => t.fld (MON_STAT b) 15 14 = 2 ∧ (t.mon b).tripped = true ∧
      t.rdN (MON_TRIP_CNT b) = min 65535 (s.rdN (MON_TRIP_CNT b) + 1) ∧ t.bit (MON_EVT b) 0 = true ∧ t.wide (MON_TRIP_T b) 4 = s.convoyTime ∧
      Frame trips s t
    (s.monOutside u v = false → exec (.monitorTrip ⟨b, v⟩) s = .next s ∧ exec (.blankedOutside ⟨b, v⟩) s = .next s ∧
      (s.canDecide u = true → ∃ t, exec (.monitorInside ⟨b, v⟩) s = .next t ∧ t.fld (MON_STAT b) 15 14 = 1 ∧ (t.mon b).tripped = false ∧
        Frame [MON_STAT b] s t)) ∧
    (s.monOutside u v = true → exec (.monitorInside ⟨b, v⟩) s = .next s) ∧
    (s.canDecide u = false → exec (.monitorTrip ⟨b, v⟩) s = .next s ∧ exec (.blankedOutside ⟨b, v⟩) s = .next s ∧ exec (.monitorInside ⟨b, v⟩) s = .next s) ∧
    (s.bit (MON_STAT b) 13 = true → s.canDecide u = true → s.monOutside u v = true →
      ((s.mon b).seen = true → ∃ t, exec (.blankedOutside ⟨b, v⟩) s = .next t ∧ t.fld (MON_STAT b) 15 14 = 2 ∧ Frame [MON_STAT b] s t) ∧
      ((s.mon b).seen = false → ∃ t, exec (.blankedOutside ⟨b, v⟩) s = .next t ∧ t.fld (MON_STAT b) 15 14 = 2 ∧ (t.mon b).seen = true ∧
        t.rdN (MON_BLANKED_CNT b) = min 65535 (s.rdN (MON_BLANKED_CNT b) + 1) ∧ t.bit (MON_EVT b) 1 = true ∧
        Frame [MON_STAT b, MON_BLANKED_CNT b, MON_EVT b] s t)) ∧
    (s.bit (MON_STAT b) 13 = true → (s.mon b).until_ ≤ s.time.up →
      (s.monOutside u v = false → ∃ t, exec (.blankWindowClose b v) s = .next t ∧ t.bit (MON_STAT b) 13 = false ∧ Frame [MON_STAT b] s t) ∧
      (s.monOutside u v = true → s.canDecide u = true → monGroups s.casting u = [] → ∃ t, exec (.blankWindowClose b v) s = .next t ∧
        t.bit (MON_STAT b) 13 = false ∧ tripped t)) ∧
    (s.bit (MON_STAT b) 13 = false → exec (.blankWindowClose b v) s = .next s) ∧
    (s.bit (MON_STAT b) 13 = false → (s.mon b).tripped = true → exec (.monitorTrip ⟨b, v⟩) s = .next s) ∧
    (s.bit (MON_STAT b) 13 = false → (s.mon b).tripped = false → s.canDecide u = true → s.monOutside u v = true →
      (monGroups s.casting u = [] → ∃ t, exec (.monitorTrip ⟨b, v⟩) s = .next t ∧ tripped t) ∧
      ((∀ p ∈ s.casting.powers, p.slice < 256) → ∃ t, exec (.monitorTrip ⟨b, v⟩) s = .next t ∧
        ∀ g ∈ monGroups s.casting u, g < 512 → t.groupTripped g = true))) ∧
  (∀ (u v : Nat) (s : State), s.rdN (MON_HI (monBase u)) < s.rdN (MON_LO (monBase u)) → s.monVolts u = true → s.monOutside u v = true) ∧
  (∀ (g : Nat) (s : State), g < 512 → s.bit SYS_STAT 15 = true →
    (s.groupTripped g = false → (∀ p ∈ s.casting.powers, p.slice < 256) → (∀ p ∈ s.casting.pins, p.channel < 2176) →
      (s.clearedNow g = none → ∃ t, exec (.groupForce g) s = .next t ∧ t.groupTripped g = true ∧ (t.fld (MON_GRP_STAT g) 11 8).testBit 2 = true ∧
        t.wide (MON_GRP_T g) 4 = s.convoyTime ∧ t.bit (MON_GRP_EVT g) 0 = true ∧ t.host.irq2 = s.host.irq2 + 1 ∧
        ((groupRule s.casting g).1 ≠ 2 → ∀ ch ∈ groupPins s.casting g, t.bit (PIN_STAT ch) 14 = true ∧ t.terminates ch = false ∧
          t.loadActs ch = false ∧ t.pmuForces ch = false) ∧
        ((groupRule s.casting g).1 ≠ 1 → ∀ i ∈ groupSlices s.casting g, t.bit (DPS_STAT i) 11 = true)) ∧
      (∀ x, s.clearedNow g = some x → ∃ t, exec (.groupForce g) s = .next t ∧ t.groupTripped g = true ∧ t.rdN (MON_GRP_CODE g) = 0x1308 ∧
        t.bit (MON_GRP_EVT g) 2 = true ∧ t.rdN (MON_GRP_CNT g) = min 65535 (s.rdN (MON_GRP_CNT g) + 1))) ∧
    (s.groupTripped g = true → s.wide (MON_GRP_T g) 4 ≠ s.convoyTime → ∃ t, exec (.groupForce g) s = .next t ∧
      t.rdN (MON_GRP_CNT g) = min 65535 (s.rdN (MON_GRP_CNT g) + 1) ∧ (t.fld (MON_GRP_STAT g) 11 8).testBit 2 = true ∧
      Frame [MON_GRP_STAT g, MON_GRP_CNT g] s t) ∧
    ∃ t w, exec (.groupClear g) s = .next t ∧ w.kind = .clear g ∧ w.cls = 0 ∧ (w ∈ t.sched.waiting ∨ ∃ act, (w, act) ∈ t.sched.running) ∧ Frame [] s t)

/-- O39. A calibration request is judged, its units take their turns and end with an outcome. Derived from R300, R301, R302, R303, R305,
R306, R309, R263; the model's choices behind it are log entries 30, 41 and 7. -/
def Obligations.CalibrationRequestsAndSteps : Prop :=
  (∀ (zeners : List Nat) (s : State), s.bit SYS_STAT 15 = true →
    (s.cal.active = true → ∃ t, exec (.calReqGo zeners) s = .next t ∧ t.rdN CALC_CODE = 0x1401 ∧ t.bit CALC_EVT 1 = true ∧ t.cal.jobs = s.cal.jobs ∧
      Frame [CALC_CODE, CALC_EVT] s t) ∧
    (s.cal.active = false → s.rdN CAL_REQ_LAST < s.rdN CAL_REQ_FIRST → ∃ t, exec (.calReqGo zeners) s = .next t ∧ t.rdN CALC_CODE = 0x1402 ∧
      t.bit CALC_EVT 1 = true ∧ t.cal.jobs = s.cal.jobs ∧ Frame [CALC_CODE, CALC_EVT] s t) ∧
    (s.cal.active = false → s.fld CAL_REQ_SCOPE 15 13 = 0 → s.bit CAL_REQ_SCOPE 0 = true → s.rdN CAL_REQ_FIRST ≤ s.rdN CAL_REQ_LAST →
      s.rdN CAL_REQ_LAST < 2176 → (suspects zeners).length < 2 → (∀ k, s.isolated k = false) →
      ∃ t, exec (.calReqGo zeners) s = .next t ∧ t.cal.active = true ∧
        t.cal.jobs.map (fun j => (j.unit, j.phase, j.step)) =
          (List.range (s.rdN CAL_REQ_LAST + 1 - s.rdN CAL_REQ_FIRST)).map (fun i => (s.rdN CAL_REQ_FIRST + i, 0, 1)) ∧
        t.rdN CAL_PROG_TOTAL = s.rdN CAL_REQ_LAST + 1 - s.rdN CAL_REQ_FIRST ∧ t.rdN CAL_PROG_DONE = 0 ∧
        (∀ q, q < 4 → t.cal.refs[q]? = some (if (suspects zeners).contains q then (q + 1) % 4 else q)) ∧
        Frame [CAL_REF_STAT, CALC_EVT, CAL_PROG_DONE, CAL_PROG_TOTAL] s t) ∧
    (s.cal.active = false → s.fld CAL_REQ_SCOPE 15 13 = 0 → s.rdN CAL_REQ_FIRST ≤ s.rdN CAL_REQ_LAST → s.rdN CAL_REQ_LAST < 2176 →
      2 ≤ (suspects zeners).length → ∃ t, exec (.calReqGo zeners) s = .next t ∧ t.rdN CALC_CODE = 0x1403 ∧ t.bit CALC_EVT 1 = true ∧
        t.bit CALC_EVT 4 = true ∧ t.cal.jobs = s.cal.jobs ∧ Frame [CAL_REF_STAT, CALC_CODE, CALC_EVT] s t)) ∧
  (∀ s : State, s.bit SYS_STAT 15 = true → ∃ t, exec .calReqAbort s = .next t ∧ t.cal.jobs = [] ∧ t.cal.lanes = [] ∧
    ∀ j, s.cal.jobs = [j] → j.unit < 2472 → t.cal.active = false ∧ t.bit CALC_EVT 0 = true ∧
      t.fld (CAL_STAT (calBlock j.unit)) 15 13 = (if j.phase = 0 then 3 else 4)) ∧
  (∀ (lane : Nat) (s : State), s.cal.lanes.contains lane = true → (s.adc lane).free ≤ s.time.up →
    ∃ t, exec (.laneAdcCalDone lane) s = .next t ∧ t.cal.lanes = s.cal.lanes.erase lane ∧ Frame [] s t) ∧
  (∀ (ch : Nat) (trims : List Nat) (j : CalJob) (s : State), ch < 2176 → s.calJob ch = some j → j.phase = 3 → j.tdcOnly = false →
    (j.step < 7 → trims.length = (stepEntries j.step).length → ∃ t k, exec (.calStepDone ch trims) s = .next t ∧ t.calJob ch = some k ∧
      k.step = j.step + 1 ∧ k.trims = j.trims ++ trims.map (· % 65536) ∧ Frame [] s t) ∧
    (7 ≤ j.step →
      let judged := [CAL_STAT (calOfChannel ch), CAL_CODE (calOfChannel ch), CAL_EVT (calOfChannel ch), CAL_PROG_DONE, CALC_EVT]
      let failed := fun (t : State) => t.fld (CAL_STAT (calOfChannel ch)) 15 13 = 2 ∧ t.rdN (CAL_CODE (calOfChannel ch)) = 0x1412 ∧
        t.calJob ch = none
      (j.collects = false ∨ (s.tdc ch).collect = none → ∃ t, exec (.calStepDone ch trims) s = .next t ∧ failed t ∧ Frame judged s t) ∧
      (j.collects = true → (s.tdc ch).collect.isSome = true → trims.length = 256 → trims.foldl (· + ·) 0 = s.cdHits ch →
        (lvlTableOk j.found = true → densityCode (s.cdHits ch) trims = none → ∃ t, exec (.calStepDone ch trims) s = .next t ∧
          t.hasItem (.handback ch) ∧ t.fld (TDC_TSTAT ch) 15 14 = 2 ∧ t.bit (TDC_EVT ch) 4 = true ∧ (t.tdc ch).collect = none) ∧
        (lvlTableOk j.found = false ∨ (densityCode (s.cdHits ch) trims).isSome = true → ∃ t, exec (.calStepDone ch trims) s = .next t ∧ failed t ∧
          (∀ code, densityCode (s.cdHits ch) trims = some code → t.fld (TDC_TSTAT ch) 15 14 = 3 ∧ t.rd (TDC_CODE ch) = BitVec.ofNat 16 code ∧
            t.bit (TDC_EVT ch) 5 = true) ∧
          Frame (judged ++ [TDC_STAT ch, TDC_TSTAT ch, TDC_CODE ch, TDC_EVT ch]) s t)))) ∧
  (∀ (x : Nat) (trims : List Byte) (j : CalJob) (s : State), 2176 ≤ x → x < 2472 → s.calJob x = some j → j.phase = 3 →
    (∃ t w, exec (.unitCalDone x true trims) s = .next t ∧ w.kind = .handback x ∧ (w ∈ t.sched.waiting ∨ ∃ act, (w, act) ∈ t.sched.running)) ∧
    (∃ t, exec (.unitCalDone x false trims) s = .next t ∧ t.fld (CAL_STAT (calBlock x)) 15 13 = 2 ∧ t.rdN (CAL_CODE (calBlock x)) = 0x1412 ∧
      t.calJob x = none ∧ Frame [CAL_STAT (calBlock x), CAL_CODE (calBlock x), CAL_EVT (calBlock x), CAL_PROG_DONE, CALC_EVT] s t))

/-- O40. Quadrant spares take and give back duties; trim tables are written and swapped; held duties go back. Derived from R307, R310,
R325, R315, R316, R317; the model's choices behind it are log entries 30, 41 and 7. -/
def Obligations.SparesAndHeldDutiesMove : Prop :=
  (
  ∀ (ch : Nat) (s : State), ch < 2176 → s.bit SYS_STAT 15 = true →
    (∀ v, ∃ t, exec (.lvlTableWrite ch v) s = .next t ∧ tabGet (fun _ => 0) (t.lvlShadow ch) (s.fld (LVL_TSEL ch) 5 0) = v % 65536 ∧
      (∀ k, k ≠ s.fld (LVL_TSEL ch) 5 0 → tabGet (fun _ => 0) (t.lvlShadow ch) k = tabGet (fun _ => 0) (s.lvlShadow ch) k) ∧
      t.fld (LVL_TSEL ch) 5 0 = (s.fld (LVL_TSEL ch) 5 0 + 1) % 64 ∧ Frame [LVL_TSEL ch] s t) ∧
    ((lvlTableOk (tabGet (fun _ => 0) (s.lvlShadow ch)) = false ∨
        (crc32c (((List.range 64).map (tabGet (fun _ => 0) (s.lvlShadow ch))).flatMap (leBytes 2))).toNat ≠ s.wide (LVL_TCRC ch) 2) →
      ∃ t, exec (.lvlTswap ch) s = .next t ∧ t.rdN (CAL_CODE (calOfChannel ch)) = 0x1417 ∧ t.bit (LVL_TSTAT ch) 14 = true ∧ t.cal = s.cal ∧
        Frame [CAL_CODE (calOfChannel ch), LVL_TSTAT ch] s t) ∧
    (lvlTableOk (tabGet (fun _ => 0) (s.lvlShadow ch)) = true →
      (crc32c (((List.range 64).map (tabGet (fun _ => 0) (s.lvlShadow ch))).flatMap (leBytes 2))).toNat = s.wide (LVL_TCRC ch) 2 →
      s.bit (LVL_TSTAT ch) 15 = false → ∃ t w, exec (.lvlTswap ch) s = .next t ∧ w.kind = .lvlSwap ch ∧
        (w ∈ t.sched.waiting ∨ ∃ act, (w, act) ∈ t.sched.running) ∧ t.cal = s.cal) ∧
    (∃ t, exec (.lvlTdataRead ch) s = .next t ∧ t.cal = s.cal ∧
      t.read.data = (if s.bit (LVL_TSEL ch) 15 then tabGet (fun _ => 0) (s.lvlShadow ch) (s.fld (LVL_TSEL ch) 5 0) else s.lvlEntry ch (s.fld (LVL_TSEL ch) 5 0)) ∧
      t.fld (LVL_TSEL ch) 5 0 = (s.fld (LVL_TSEL ch) 5 0 + 1) % 64 ∧ Frame [LVL_TSEL ch] s t) ∧
    (ch < 2048 → s.bit (CAL_STAT (calOfChannel ch)) 9 = true → ∃ t, exec (.calRelease ch) s = .next t ∧ t.bit (CAL_STAT (calOfChannel ch)) 9 = false ∧
      t.bit (PIN_STAT ch) 13 = false ∧
      Frame [CAL_STAT (calOfChannel ch), PIN_STAT ch, PIN_STAT (outriderOf (laneOf ch)), PIN_EVT ch, PMU_STAT ch, MON_STAT (monOfChannel ch)] s t) ∧
    (s.bit (CAL_STAT (calOfChannel ch)) 9 = false → exec (.calRelease ch) s = .next s)) ∧
  (
  ∀ (awg : Bool) (q : Nat) (s : State), q < 4 → s.bit SYS_STAT 15 = true →
    let a := subReg awg q
    let u := 4 * q + s.fld a 1 0
    let keeps := fun (t : State) => (∀ r, r ∉ [a, CALC_CODE] → t.rd r = s.rd r) ∧ t.mem = s.mem ∧ t.nv = s.nv
    (s.bit a 15 = false →
      (s.bit a 13 = true ∨ s.bit a 14 = true ∨ s.subIdle awg (16 + q) = false → ∃ t, exec (.subEnable awg q) s = .next t ∧ t.bit a 15 = false ∧
        t.rdN CALC_CODE = 0x1428 ∧ keeps t) ∧
      (s.bit a 13 = false → s.bit a 14 = false → s.subIdle awg (16 + q) = true →
        (s.subIdle awg u = false → ∃ t, exec (.subEnable awg q) s = .next t ∧ t.bit a 15 = false ∧ t.rdN CALC_CODE = 0x1429 ∧ keeps t) ∧
        (s.subIdle awg u = true → ∃ t, exec (.subEnable awg q) s = .next t ∧ t.bit a 15 = true ∧ t.bit a 13 = !awg ∧ t.bit a 14 = awg ∧
          t.rd CALC_CODE = s.rd CALC_CODE ∧ keeps t))) ∧
    (s.bit a 15 = true →
      (s.bit a 13 = false → ∃ t, exec (.subDisable awg q) s = .next t ∧ t.bit a 15 = false ∧ t.bit a 14 = false ∧ keeps t) ∧
      (s.bit a 13 = true → s.subIdle awg u = false → ∃ t, exec (.subDisable awg q) s = .next t ∧ t.bit a 15 = true ∧ t.bit a 13 = true ∧
        t.rdN CALC_CODE = 0x1428 ∧ keeps t) ∧
      (s.bit a 13 = true → s.subIdle awg u = true → ∃ t, exec (.subDisable awg q) s = .next t ∧ t.bit a 15 = false ∧ t.bit a 13 = awg ∧
        (awg = true → t.bit a 14 = true ∧ keeps t) ∧ t.mem = s.mem ∧ t.nv = s.nv ∧
        ∀ r, r ∉ [a, CALC_CODE, ACQ_STAT (16 + q), ACQ_EVT (16 + q)] → t.rd r = s.rd r)) ∧
    (s.bit (CAL_SUB_AWG q) 14 = true → s.cal.copied.contains q = false →
      ∃ t, exec (.spareCopyDone true q) s = .next t ∧ t.cal.copied = s.cal.copied ++ [q] ∧ Frame [] s t))

/-- O41. Isolation, self-test and release of a cluster; casting out and restoring a stack; the yard fails and restarts. Derived from R318,
R319, R320, R321, R322, R323; the model's choices behind it are log entries 30, 41 and 7. -/
def Obligations.ClustersAndStacksLeaveService : Prop :=
  (∀ (k : Nat) (s : State), k < 16 →
    (s.bit SYS_STAT 15 = true →
      (s.bit CAL_ISO k = false → s.clusterBusy k = true → ∃ t, exec (.isoSet k) s = .next t ∧ t.bit CAL_ISO k = false ∧ t.rdN CALC_CODE = 0x1420 ∧
        ∀ r, r ∉ [CAL_ISO, CALC_CODE] → t.rd r = s.rd r) ∧
      (s.bit CAL_ISO k = false → s.clusterBusy k = false → ∃ t, exec (.isoSet k) s = .next t ∧ t.bit CAL_ISO k = true ∧ t.isoStat k = 1 ∧ t.mem = s.mem) ∧
      (s.bit CAL_ISO k = true → s.cal.coreFail.contains k = true → ∃ t, exec (.isoRelease k) s = .next t ∧ t.bit CAL_ISO k = true ∧
        t.rdN CALC_CODE = 0x1422 ∧ ∀ r, r ∉ [CAL_ISO, CALC_CODE] → t.rd r = s.rd r) ∧
      (s.bit CAL_ISO k = true → s.cal.coreFail.contains k = false → ∃ t, exec (.isoRelease k) s = .next t ∧ t.bit CAL_ISO k = false ∧
        t.cal.reloading = s.cal.reloading ++ [k] ∧ ∀ r, r ∉ [CAL_ISO, CALC_EVT, CAL_ISO_STAT + 2 * (k / 8)] → t.rd r = s.rd r)) ∧
    (∀ core failed, s.isoStat k = 1 → ∃ t, exec (.selftestDone k core failed) s = .next t ∧
      t.isoStat k = (if core || ((clusterUnits 0x1F k).filter fun x => !(x == unitOfAcq k && s.acqPhys k ≠ k) &&
        !(x == unitOfAwg k && s.awgPhys k ≠ k)).any failed.contains then 3 else 2) ∧ t.bit CALC_EVT 7 = true ∧
      Frame (CALC_EVT :: (CAL_ISO_STAT + 2 * (k / 8)) :: (clusterUnits 0x1F k).map fun x => CAL_STAT (calBlock x)) s t) ∧
    (s.cal.reloading.contains k = true → ∃ t, exec (.droverReloadDone k) s = .next t ∧ t.cal.reloading = s.cal.reloading.erase k ∧
      t.cal.reloaded = s.cal.reloaded ++ [k] ∧ Frame [] s t)) ∧
  (∀ (q : Nat) (s : State), q < 4 →
    (s.bit SYS_STAT 15 = true → s.stackOut q = false →
      ((∀ r, r < 4 → r ≠ q → s.stackOut r = true) → ∃ t, exec (.castoutSet q) s = .next t ∧ t.bit CAL_STACK q = false ∧ t.rdN CALC_CODE = 0x1433 ∧
        t.mem = s.mem ∧ t.nv = s.nv ∧ ∀ r, r ∉ [CAL_STACK, CALC_CODE] → t.rd r = s.rd r) ∧
      ((∃ r, r < 4 ∧ r ≠ q ∧ s.stackOut r = false) → (∀ u, u < 20 → s.acqState u = 0) → (∀ e ∈ s.ctxs, s.ctxActive e.1 = false) →
        ∃ t, exec (.castoutSet q) s = .next t ∧ t.bit CAL_STACK q = true ∧ t.nv.stacksOut = s.nv.stacksOut + 2 ^ q ∧
          (∀ a, a / 2 ^ 34 = q → t.memByte a = 0) ∧ ∀ a, a / 2 ^ 34 ≠ q → t.memByte a = s.memByte a)) ∧
    (s.bit SYS_STAT 15 = true → s.stackOut q = true → ∃ t, exec (.stackRestore q) s = .next t ∧ t.bit CAL_STACK q = false ∧
      t.bit CAL_STACK_STAT (4 + q) = true ∧ t.mem = s.mem ∧ t.nv = s.nv ∧ ∀ r, r ∉ [CAL_STACK, CAL_STACK_STAT] → t.rd r = s.rd r) ∧
    (s.bit CAL_STACK_STAT (4 + q) = true →
      (∃ t, exec (.stackSelftestDone q true) s = .next t ∧ t.nv.stacksOut = s.nv.stacksOut - 2 ^ q ∧ t.bit CAL_STACK_STAT (4 + q) = false ∧
        t.mem = s.mem ∧ ∀ r, r ≠ CAL_STACK_STAT → t.rd r = s.rd r) ∧
      ∃ t, exec (.stackSelftestDone q false) s = .next t ∧ t.nv = s.nv ∧ t.bit CAL_STACK_STAT (4 + q) = false ∧ t.bit CAL_STACK q = true ∧
        t.rdN CALC_CODE = 0x1422 ∧ t.mem = s.mem ∧ ∀ r, r ∉ [CAL_STACK, CAL_STACK_STAT, CALC_CODE] → t.rd r = s.rd r) ∧
    ∃ t, exec (.stackFault q) s = .next t ∧ t.bit CAL_STACK_STAT q = true ∧ t.bit CALC_EVT 8 = true ∧ Frame [CAL_STACK_STAT, CALC_EVT] s t) ∧
  (∀ s : State, s.start.phase = 2 → ∃ t, exec .yardFailure s = .next t ∧ t.bit SYS_STAT 14 = true ∧ t.yardDown = true ∧ t.cal.jobs = [] ∧
    t.cast.load = none ∧ t.cast.recast = none) ∧
  (∀ s : State, s.yardDown = true → ∃ t, exec .yardRestarted s = .next t ∧ t.bit SYS_STAT 14 = false ∧ t.yardDown = false ∧ t.bit SYS_EVT 0 = true ∧
    ((∀ c, (s.ctx c).resume = false) → Frame [SYS_STAT, SYS_EVT] s t))

/-- O42. Every ring command consumes its entry once, and a malformed entry is refused before anything else. Derived from R334, R336, R337;
the model's choices behind it are log entries 42, 44 and 7. -/
def Obligations.RingEntriesAreJudgedInOrder : Prop :=
  ∀ (entry : List Byte) (b : Option (List Byte)) (s : State),
    let e := padTo 128 entry
    (∀ x ∈ ([(Instr.castLoad entry, 0x0001), (Instr.castCancel entry, 0x0003), (Instr.segLoad entry, 0x0010), (Instr.waveLoad entry, 0x0011),
      (Instr.regWriteT entry, 0x0020), (Instr.calStore entry, 0x0030), (Instr.attest entry, 0x0046), (Instr.identityRead entry, 0x0047),
      (Instr.fwUpdate entry, 0x0048), (Instr.fwActivate entry, 0x0049), (Instr.fwConfirm entry, 0x004A),
      (Instr.castRecast entry b, 0x0002), (Instr.ownerClaim entry b, 0x0040), (Instr.ownerRelease entry b, 0x0041), (Instr.keySet entry b, 0x0042),
      (Instr.keyErase entry b, 0x0043), (Instr.castKeySet entry b, 0x0044), (Instr.ownerPolicy entry b, 0x0045),
      (Instr.siteEnable entry, 0x0101), (Instr.runStart entry, 0x0102), (Instr.runStop entry, 0x0103), (Instr.jumpRequest entry, 0x0104),
      (Instr.soundCmd entry, 0x0105), (Instr.runConfig entry, 0x0106), (Instr.pinLevels entry, 0x0110), (Instr.pinTiming entry, 0x0111),
      (Instr.pmuSet entry, 0x0112), (Instr.assayConfig entry, 0x0118), (Instr.assayFinalize entry, 0x0119),
      (Instr.assayClear entry, 0x011A), (Instr.abortPolicy entry, 0x011B), (Instr.waveStart entry, 0x0120), (Instr.waveStop entry, 0x0121),
      (Instr.awgSet entry, 0x0122), (Instr.acqArm entry, 0x0128), (Instr.acqStop entry, 0x0129), (Instr.acqSet entry, 0x012A),
      (Instr.tdcSet entry, 0x0130), (Instr.tdcArm entry, 0x0131), (Instr.tdcDisarm entry, 0x0132), (Instr.sliceSet entry, 0x0138),
      (Instr.pmuMeasure entry, 0x0139), (Instr.monitorSet entry, 0x013A), (Instr.tripClear entry, 0x013B), (Instr.calibrate entry, 0x0140),
      (Instr.calAbort entry, 0x0141), (Instr.spareSet entry, 0x0142), (Instr.clusterIsolate entry, 0x0143),
      (Instr.stackCastout entry, 0x0144)] : List (Instr × Nat)),
      (entOp e ≠ x.2 ∨ s.canConsume e = false → exec x.1 s = .next s) ∧
      (entOp e = x.2 → s.canConsume e = true → ∀ code, s.takeEntry.entryCode e = some code →
        ∃ t, exec x.1 s = .next t ∧ RefusedWith e code [] s t ∧ t.nv = s.nv)) ∧
    (opcodes.contains (entOp e) = true ∨ s.canConsume e = false → exec (.unknownOpcode entry) s = .next s) ∧
    (opcodes.contains (entOp e) = false → s.canConsume e = true →
      ∃ t, exec (.unknownOpcode entry) s = .next t ∧ RefusedWith e 0x1501 [] s t ∧ t.nv = s.nv)

/-- O43. A profile command is one stage work item or is refused, and the item writes the shadows of its units. Derived from R336, R342,
R343, R24, R469, R344, R21; the model's choices behind it are log entries 42, 44 and 7. -/
def Obligations.ProfileCommandsAct : Prop :=
  (
  ∀ (entry : List Byte) (s : State),
    let e := padTo 128 entry
    BecomesItem (.siteEnable entry) 0x0101 e s ∧ BecomesItem (.runStart entry) 0x0102 e s ∧
    BecomesItem (.runStop entry) 0x0103 e s ∧ BecomesItem (.jumpRequest entry) 0x0104 e s ∧
    BecomesItem (.soundCmd entry) 0x0105 e s ∧ BecomesItem (.runConfig entry) 0x0106 e s ∧
    BecomesItem (.pinLevels entry) 0x0110 e s ∧ BecomesItem (.pinTiming entry) 0x0111 e s ∧
    BecomesItem (.pmuSet entry) 0x0112 e s ∧ BecomesItem (.assayConfig entry) 0x0118 e s ∧
    BecomesItem (.assayFinalize entry) 0x0119 e s ∧ BecomesItem (.assayClear entry) 0x011A e s ∧
    BecomesItem (.abortPolicy entry) 0x011B e s ∧ BecomesItem (.waveStart entry) 0x0120 e s ∧
    BecomesItem (.waveStop entry) 0x0121 e s ∧ BecomesItem (.awgSet entry) 0x0122 e s ∧
    BecomesItem (.acqArm entry) 0x0128 e s ∧ BecomesItem (.acqStop entry) 0x0129 e s ∧
    BecomesItem (.acqSet entry) 0x012A e s ∧ BecomesItem (.tdcSet entry) 0x0130 e s ∧
    BecomesItem (.tdcArm entry) 0x0131 e s ∧ BecomesItem (.tdcDisarm entry) 0x0132 e s ∧
    BecomesItem (.sliceSet entry) 0x0138 e s ∧ BecomesItem (.pmuMeasure entry) 0x0139 e s ∧
    BecomesItem (.monitorSet entry) 0x013A e s ∧ BecomesItem (.tripClear entry) 0x013B e s ∧
    BecomesItem (.calibrate entry) 0x0140 e s ∧ BecomesItem (.calAbort entry) 0x0141 e s ∧
    BecomesItem (.spareSet entry) 0x0142 e s ∧ BecomesItem (.clusterIsolate entry) 0x0143 e s ∧
    BecomesItem (.stackCastout entry) 0x0144 e s) ∧
  (
  (∀ s : State, s.sched.running = [] → exec .workItemActs s = .next s) ∧
  (∀ (w : WorkItem) (act : Nat) (rest : List (WorkItem × Nat)) (s : State), s.sched.running = (w, act) :: rest → act ≤ s.time.up →
    ((∀ e, w.kind ≠ .profile e) → ∃ t, exec .workItemActs s = .next t ∧ t.sched.running = rest ∧ t.sched.acted = s.sched.acted ++ [w] ∧ Frame [] s t) ∧
    (∀ (e : List Byte) (off mask v a stride : Nat) (m : Word) (r : RegDesc) (k : Nat), w.kind = .profile e → profFirst e = profLast e →
      profWrites e = [(off, mask, v)] → profTarget e off = some (a, stride, m) → regAt (a + stride * profFirst e) = some (r, k) →
      r.shadowed = true → BitVec.ofNat 16 mask ≠ (0 : Word) →
      let A := a + stride * profFirst e
      let set := accMask .rw r &&& BitVec.ofNat 16 mask
      let pulse := accMask .wo r &&& BitVec.ofNat 16 mask
      let old := (tabGet (fun _ => none) s.shadow A).getD (s.rd A)
      ∃ t, exec .workItemActs s = .next t ∧ t.sched.running = rest ∧ t.host.profiles = s.host.profiles ++ [⟨e⟩] ∧
        tabGet (fun _ => none) t.shadow A =
          some (((old &&& ~~~set) ||| (BitVec.ofNat 16 v &&& set)) ||| (BitVec.ofNat 16 v &&& pulse)) ∧
        (act = s.time.up → tabGet (fun _ => 0#16) t.claimed A &&& set = set) ∧
        (∀ x, x ≠ A → tabGet (fun _ => none) t.shadow x = tabGet (fun _ => none) s.shadow x) ∧ t.shadowNext = s.shadowNext ∧
        t.regs = s.regs ∧ t.mem = s.mem ∧ t.nv = s.nv)))

/-- O44. Completions reach their ring, interrupts are moderated, rings reset and the link comes and goes. Derived from R338, R340, R348,
R350; the model's choices behind it are log entries 42, 44 and 7. -/
def Obligations.CompletionsAndLink : Prop :=
  (∀ s : State, s.host.waiting = [] ∨ s.cplRoom = false → exec .completionWrite s = .next s) ∧
  (∀ (c : Cpl) (rest : List Cpl) (s : State), s.host.waiting = c :: rest → s.cplRoom = true →
    let at_ := s.wide HST_CPL_BASE 4 + 32 * (s.rdN HST_CPL_PROD % 2 ^ ringSize (s.fld HST_CPL_SIZE 3 0))
    ∃ t, exec .completionWrite s = .next t ∧ t.host.waiting = rest ∧ t.rdN HST_CPL_PROD = (s.rdN HST_CPL_PROD + 1) % 65536 ∧
      (s.wide HST_IDX_ADDR 4 + 4 ≤ at_ ∨ at_ + 32 ≤ s.wide HST_IDX_ADDR 4 →
        ∀ i, i < 32 → t.hostByte (at_ + i) = (c.bytes s.host.afterLoss)[i]?) ∧
      (∀ a, ¬ (at_ ≤ a ∧ a < at_ + 32) → ¬ (s.wide HST_IDX_ADDR 4 ≤ a ∧ a < s.wide HST_IDX_ADDR 4 + 4) → t.hostByte a = s.hostByte a) ∧
      t.mem = s.mem ∧ t.nv = s.nv ∧ ∀ r, r ≠ HST_CPL_PROD → t.rd r = s.rd r) ∧
  (∀ s : State, (s.host.unsignalled = 0 → exec .irqModerationExpiry s = .next s) ∧
    (s.host.unsignalled ≠ 0 → s.host.firstUp + 3000 * s.fld HST_IRQ_MOD 9 0 ≤ s.time.up → ∃ t, exec .irqModerationExpiry s = .next t ∧
      t.host.irq0 = s.host.irq0 + 1 ∧ t.host.unsignalled = 0 ∧ Frame [] s t)) ∧
  (∀ s : State, (s.bit HST_CTL 0 = true ∨ s.bit HST_CTL 1 = true → exec .ringReset s = .next (s.refuse HST_RING_CTL 0x1509)) ∧
    (s.bit HST_CTL 0 = false → s.bit HST_CTL 1 = false → ∃ t, exec .ringReset s = .next t ∧ t.host.waiting = [] ∧ t.host.afterLoss = true ∧
      (∀ a ∈ [HST_CMD_PROD, HST_CMD_CONS, HST_CPL_PROD, HST_CPL_CONS], t.rd a = 0) ∧
      (0 < s.host.waiting.length → t.rdN HST_CPL_LOST = min 65535 (s.rdN HST_CPL_LOST + s.host.waiting.length) ∧ t.bit HST_EVT 4 = true) ∧
      Frame [HST_CMD_PROD, HST_CMD_CONS, HST_CPL_PROD, HST_CPL_CONS, HST_CPL_LOST, HST_EVT] s t)) ∧
  (∀ (cause : Nat) (s : State), ∃ t, exec (.hostAttachmentReset cause) s = .next t ∧ t.bit HST_CTL 0 = false ∧ t.bit HST_CTL 1 = false ∧
    t.fld HST_STAT 15 10 = 0 ∧ t.bit HST_EVT 0 = true ∧
    ∀ r, r ∉ [HST_CTL, HST_STAT, HST_EVT, HST_LOG_WR, HST_LOG_WR + 2, HST_LOG_LOST] → t.rd r = s.rd r) ∧
  (∀ (width speed : Nat) (ide : Bool) (s : State), ∃ t, exec (.linkUp width speed ide) s = .next t ∧ t.bit HST_STAT 15 = true ∧
    t.fld HST_STAT 14 13 = width % 4 ∧ t.fld HST_STAT 12 11 = speed % 4 ∧ t.bit HST_STAT 10 = ide ∧ t.bit HST_EVT 1 = true ∧
    ∀ r, r ∉ [HST_STAT, HST_EVT, HST_LOG_WR, HST_LOG_WR + 2, HST_LOG_LOST] → t.rd r = s.rd r)

/-- O45. Host loads and stores of device memory, its protected parts, and addresses that do not exist. Derived from R98, R321, R331, R333,
R378; the model's choices behind it are log entries 6, 12, 35, 36 and 7. -/
def Obligations.HostAccessesToDeviceMemory : Prop :=
  ∀ (dpa : Nat) (s : State),
    (2 ^ 36 ≤ dpa → exec (.cxlMemRead dpa) s = .fault (.outsideDeviceMemory dpa) ∧ ∀ d, exec (.cxlMemWrite dpa d) s = .fault (.outsideDeviceMemory dpa)) ∧
    (dpa < 2 ^ 36 →
      let a := dpa / 64 * 64
      (s.stackOut (a / stackSize) = true →
        (∀ d, ∃ t, exec (.cxlMemWrite dpa d) s = .next t ∧ t.bit HST_EVT 5 = true ∧ Frame [HST_EVT] s t) ∧
        ∃ t, exec (.cxlMemRead dpa) s = .next t ∧ t.read.poison = true ∧ t.bit HST_EVT 5 = true ∧ Frame [HST_EVT] s t) ∧
      (s.stackOut (a / stackSize) = false →
        (∀ d, (captureStart ≤ a % stackSize → exec (.cxlMemWrite dpa d) s = .next s) ∧
          (a % stackSize < captureStart →
            ((∀ r p, partitionOf s.casting a = some (r, p) → r.kind = 1 → s.bytesActive r (p, 64) = false) →
              ∃ t, exec (.cxlMemWrite dpa d) s = .next t ∧ t.memRead a 64 = padTo 64 d ∧
                (∀ x, x < a ∨ a + 64 ≤ x → t.memByte x = s.memByte x) ∧ t.regs = s.regs ∧ t.shadow = s.shadow ∧ t.host = s.host ∧ t.nv = s.nv) ∧
            (∀ r p, partitionOf s.casting a = some (r, p) → r.kind = 1 → s.bytesActive r (p, 64) = true →
              ∃ t, exec (.cxlMemWrite dpa d) s = .next t ∧ t.bit SEQ_WP_STAT 0 = true ∧ t.rdN SEQ_WP_CNT = min 65535 (s.rdN SEQ_WP_CNT + 1) ∧
                Frame [SEQ_WP_STAT, SEQ_WP_CNT, SEQ_WP_PART, SEQ_WP_ADDR, SEQ_WP_ADDR + 2, SEQ_WP_ADDR + 4] s t))) ∧
        (s.way.poison.contains a = true → ∃ t, exec (.cxlMemRead dpa) s = .next t ∧ t.read.poison = true ∧ t.way.poison = s.way.poison.erase a ∧ Frame [] s t) ∧
        (s.way.poison.contains a = false → a % stackSize < regionStart →
          ∃ t, exec (.cxlMemRead dpa) s = .next t ∧ t.read.poison = false ∧ t.read.block = s.memRead a 64 ∧ Frame [] s t)))

/-- O46. Ring commands that copy or store begin, and their ends deliver the bytes and their completion. Derived from R99, R195, R311,
R341, R397; the model's choices behind it are log entries 6, 12, 35, 36 and 7. -/
def Obligations.CopiesBeginAndEnd : Prop :=
  (∀ (entry : List Byte) (s r : State), let e := padTo 128 entry
    (Accepted 0x0010 e (segCode e) s r → ∃ t area, exec (.segLoad entry) s = .next t ∧ t.loads = s.loads ++ [⟨entTag e, 0x0010, e, area⟩] ∧
      (∀ p, findStore s.casting (segLoadPart e) = some p → area = (s.dirEntry p (segLoadEntry e)).dataArea) ∧ t.mem = s.mem ∧
      t.host.inflight = entTag e :: s.host.inflight ∧ ∀ a, a ≠ HST_CMD_CONS → t.rd a = s.rd a) ∧
    (Accepted 0x0011 e (waveLoadCode e) s r → ∃ t, exec (.waveLoad entry) s = .next t ∧ t.loads = s.loads ++ [⟨entTag e, 0x0011, e, (0, 0)⟩] ∧ t.wfss = s.wfss ∧
      t.host.inflight = entTag e :: s.host.inflight ∧ ∀ a, a ≠ HST_CMD_CONS → t.rd a = s.rd a) ∧
    (Accepted 0x0030 e (fun _ => if paramZero e 0 80 then none else some 0x1502) s r → ∃ t n, exec (.calStore entry) s = .next t ∧
      t.nv.txns = s.nv.txns ++ [⟨.calRecord r.calRecord (entTag e), n⟩] ∧ 0 < n ∧ t.bit THM_STAT 10 = true) ∧
    (∀ a mask v d k, Accepted 0x0020 e (regWriteCode e) s r → tolledWrites e = [(a, mask, v)] → regAt a = some (d, k) → s.inCut = false →
      tabGet (fun _ => none) s.shadowNext a = none → tabGet (fun _ => 0#16) s.claimed a = 0#16 →
      ∃ t, exec (.regWriteT entry) s = .next t ∧ t.host.tolled = s.host.tolled ++ [(entTag e, false)] ∧
        t.shadowOf a = ((s.shadowOf a &&& ~~~(mask &&& accMask .rwt d)) ||| (v &&& (mask &&& accMask .rwt d))))) ∧
  (∀ (tag : Nat) (j : LoadJob) (data : List Byte) (p : StoreRec) (s : State),
    (s.loads.find? fun j => j.tag == tag && j.opcode == 0x0010) = some j → findStore s.casting (segLoadPart j.entry) = some p →
    (∀ x y, x < segLoadLength j.entry → y < segLoadLength j.entry → p.device (segLoadAddr j.entry + x) = p.device (segLoadAddr j.entry + y) → x = y) →
    ∃ t c, exec (.segLoadDone tag (some data)) s = .next t ∧ t.host.waiting = s.host.waiting ++ [c] ∧ c.code = 0 ∧ c.tag = tag ∧ c.opcode = 0x0010 ∧
      t.loads = s.loads.filter (fun j => j.tag ≠ tag) ∧
      (∀ x, x < segLoadLength j.entry → some (t.memByte (p.device (segLoadAddr j.entry + x))) = (padTo (segLoadLength j.entry) data)[x]?) ∧
      (∀ a, (∀ x, x < segLoadLength j.entry → a ≠ p.device (segLoadAddr j.entry + x)) → t.memByte a = s.memByte a) ∧ t.regs = s.regs ∧ t.nv = s.nv) ∧
  (∀ (tag : Nat) (j : LoadJob) (s : State), (s.loads.find? fun j => j.tag == tag && j.opcode == 0x0010) = some j →
    ∃ t c, exec (.segLoadDone tag none) s = .next t ∧ t.host.waiting = s.host.waiting ++ [c] ∧ c.code = 0x1508 ∧ c.tag = tag ∧ Frame [] s t) ∧
  (∀ (tag : Nat) (j : LoadJob) (data : List Byte) (s : State), (s.loads.find? fun j => j.tag == tag && j.opcode == 0x0011) = some j →
    waveLoadSource j.entry = 0 → ∃ t c, exec (.waveLoadDone tag (some data)) s = .next t ∧ t.host.waiting = s.host.waiting ++ [c] ∧ c.code = 0 ∧ c.tag = tag ∧
      (t.wfs (waveLoadUnit j.entry)).mem =
        memStore (s.wfs (waveLoadUnit j.entry)).mem (64 * waveLoadFirst j.entry) (padTo (64 * waveLoadCount j.entry) data) ∧
      (∀ u, u ≠ waveLoadUnit j.entry → t.wfs u = s.wfs u) ∧ Frame [] s t) ∧
  (∀ (tag : Nat) (data : Option (List Byte)) (s : State), ((∀ j ∈ s.loads, j.tag ≠ tag) →
    exec (.segLoadDone tag data) s = .next s ∧ exec (.waveLoadDone tag data) s = .next s))

/-- O47. A casting command begins, its checks end it or build its tables, and its apply tick replaces the structure whole. Derived from
R55, R56, R59, R63, R64, R65, R66, R70, R71; the model's choices behind it are log entries 6, 12, 35, 36 and 7. -/
def Obligations.CastingsAreJudgedAndApplied : Prop :=
  (∀ (entry : List Byte) (s r : State), let e := padTo 128 entry
    (Accepted 0x0001 e (castLoadCode e) s r → ∃ t j, exec (.castLoad entry) s = .next t ∧ t.cast.load = some j ∧ j.tag = entTag e ∧ j.phase = 0 ∧
      j.built = none ∧ t.cast.applied = s.cast.applied ∧ t.fld CST_STAT 15 13 = 1 ∧ t.mem = s.mem) ∧
    (∀ h, Accepted 0x0002 e (castRecastCode e) s r → castSource e = 0 → 256 ≤ castLength e → h.isSome = true →
      ∃ t, exec (.castRecast entry h) s = .next t ∧ t.cast.applied = s.cast.applied ∧ t.mem = s.mem ∧
        ((∃ j, t.cast.recast = some j ∧ j.tag = entTag e ∧ j.phase = 0 ∧ t.fld CST_STAT 12 11 = 1) ∨
          (t.cast.recast = none ∧ t.bit CST_EVT 3 = true ∧ ∃ c, t.host.waiting = s.host.waiting ++ [c] ∧ c.tag = entTag e ∧ c.code ≠ 0))) ∧
    (∀ f, Accepted 0x0002 e (castRecastCode e) s r → castSource e = 0 → headerCode (r.hdrEnv true (castLength e)) f = none →
      leAt f 0x20 8 = r.casting.id → Sys2Proof.slice f 0x68 64 = r.casting.tileDigest → r.targetBusy (byteAt f 0x16) = false →
      ∃ t j, exec (.castRecast entry (some f)) s = .next t ∧ t.cast.recast = some j ∧ j.tag = entTag e ∧ j.phase = 0 ∧ j.target = some (byteAt f 0x16) ∧
        j.file = f.take 256 ∧ t.fld CST_STAT 12 11 = 1 ∧ t.fld CST_STAT 5 0 = byteAt f 0x16 ∧ t.cast.applied = s.cast.applied ∧ t.mem = s.mem) ∧
    (Accepted 0x0003 e (fun _ => if paramZero e 0 80 then none else some 0x1502) s r →
      (s.cancellable = false → ∃ t c, exec (.castCancel entry) s = .next t ∧ t.host.waiting = s.host.waiting ++ [c] ∧ c.code = 0x0C7A ∧ c.tag = entTag e ∧
        t.cast = s.cast) ∧
      (∀ j, s.cancellable = true → s.cast.recast = some j → ∃ t c d, exec (.castCancel entry) s = .next t ∧ t.cast.recast = none ∧
        t.host.waiting = s.host.waiting ++ [c, d] ∧ c.code = 0x0C76 ∧ c.tag = j.tag ∧ d.code = 0 ∧ d.tag = entTag e))) ∧
  (∀ (data : Option (List Byte)) (s : State), (s.cast.load = none → exec (.castChecksComplete data) s = .next s ∧ exec .castLoadApply s = .next s) ∧
    (∀ j f, s.cast.load = some j → j.phase = 0 → 256 ≤ j.len → s.castData j data = some f →
      (∀ e, s.judgeFull j.len f = .error e → ∃ t c, exec (.castChecksComplete data) s = .next t ∧ t.cast.load = none ∧ t.cast.applied = s.cast.applied ∧
        t.rd CST_ERR_CODE = BitVec.ofNat 16 e.code ∧ t.bit CST_EVT 1 = true ∧ t.host.waiting = s.host.waiting ++ [c] ∧ c.code = e.code ∧ c.tag = j.tag ∧
        Frame [CST_STAT, CST_ERR_CODE, CST_ERR_SECT, CST_ERR_REC, CST_ERR_REC + 2, CST_EVT] s t) ∧
      (∀ k, s.judgeFull j.len f = .ok k → ∃ t i, exec (.castChecksComplete data) s = .next t ∧ t.cast.load = some i ∧ i.built = some k ∧ i.tag = j.tag ∧
        Frame [] s t)) ∧
    (∀ j k, s.cast.load = some j → j.built = some k →
      (j.disturbed = true ∨ s.tilesDigest ≠ k.tileDigest → ∃ t c, exec .castLoadApply s = .next t ∧ t.cast.load = none ∧ t.cast.applied = s.cast.applied ∧
        t.host.waiting = s.host.waiting ++ [c] ∧ c.code = 0x0C0A ∧ c.tag = j.tag) ∧
      (j.disturbed = false → s.tilesDigest = k.tileDigest → ∃ t, exec .castLoadApply s = .next t ∧ t.cast.load = none ∧ t.cast.applied = some k ∧
        t.cast.identity = k.bodyDigest ∧ (∀ n, n < 512 → t.enabled n = false) ∧ t.bit CST_EVT 0 = true))) ∧
  (∀ (data : Option (List Byte)) (s : State), (s.cast.recast = none → exec (.recastReady data) s = .next s) ∧
    (∀ j f, s.cast.recast = some j → j.phase = 0 → j.target.isSome = true → s.castData j data = some f →
      (∀ e, s.judgePartial (j.file ++ f.drop 256) = .error e → ∃ t c, exec (.recastReady data) s = .next t ∧ t.cast.recast = none ∧ t.bit CST_EVT 3 = true ∧
        t.host.waiting = s.host.waiting ++ [c] ∧ c.code = e.code ∧ c.tag = j.tag ∧
        Frame [CST_STAT, CST_ERR_CODE, CST_ERR_SECT, CST_ERR_REC, CST_ERR_REC + 2, CST_EVT] s t) ∧
      (∀ k, s.judgePartial (j.file ++ f.drop 256) = .ok k → ∃ t i, exec (.recastReady data) s = .next t ∧ t.cast.recast = some i ∧ i.built = some k ∧ t.hasItem .recast ∧
        t.cast.applied = s.cast.applied))) ∧
  (∀ (slot : Nat) (content : List Byte) (rest : List Txn) (s : State), s.nv.txns = ⟨.casting slot content, 0⟩ :: rest →
    ∃ t, exec .storeDone s = .next t ∧ tabGet (fun _ => none) t.nv.castings slot = some content ∧ t.nv.txns = rest ∧ t.bit CST_EVT 6 = true ∧
      (∀ n, n ≠ slot → tabGet (fun _ => none) t.nv.castings n = tabGet (fun _ => none) s.nv.castings n) ∧ ∀ a, a ∉ [CST_EVT, THM_STAT] → t.rd a = s.rd a)

/-- O48. The discovery of a tile, its faults and its removal. Derived from R61, R351, R352; the model's choices behind it are log entries
6, 12, 35, 36 and 7. -/
def Obligations.TilesComeAndGo : Prop :=
  ∀ (k : Nat) (s : State), k < 32 →
    ((s.tile k).line = true → exec (.tilePresentRise k) s = .next s) ∧
    ((s.tile k).line = false → ∃ t, exec (.tilePresentRise k) s = .next t ∧ (t.tile k).line = true ∧ (t.tile k).phase = 1 ∧
      (t.tile k).since = s.time.up ∧ (∀ n, n ≠ k → t.tile n = s.tile n) ∧ Frame [] s t) ∧
    ((s.tile k).phase ≠ 1 → exec (.tileDebounceExpiry k) s = .next s) ∧
    ((s.tile k).phase = 1 → (s.tile k).since + 30000000 ≤ s.time.up → ∃ t, exec (.tileDebounceExpiry k) s = .next t ∧ (t.tile k).phase = 2 ∧
      (∀ n, n ≠ k → t.tile n = s.tile n) ∧ Frame [] s t) ∧
    ((s.tile k).phase = 2 → (s.tile k).found = false → s.busServing k = false → s.time.up ≤ (s.tile k).since + 300000000 →
      ∃ t, exec (.tileHotJoin k) s = .next t ∧ (t.tile k).joined = true ∧ (∀ n, n ≠ k → t.tile n = s.tile n) ∧ Frame [] s t) ∧
    (s.busServing k = true → exec (.tileHotJoin k) s = .next s) ∧
    ((s.tile k).phase = 2 → (s.tile k).joined = false → (s.tile k).found = false → (s.tile k).since + 300000000 ≤ s.time.up →
      ∃ t, exec (.tileNoJoin k) s = .next t ∧ (t.tile k).phase = 4 ∧ (t.tile k).code = 0x1510 ∧ t.bit HST_EVT 6 = true ∧
        (∀ n, n ≠ k → t.tile n = s.tile n) ∧ Frame [HST_EVT] s t) ∧
    (∀ desc, (s.tile k).phase = 2 → (s.tile k).joined = true → byteAt desc 6 % 32 = k →
      ((s.tile k).line = false ∨ (s.tile k).found = true → ∃ t, exec (.tileDescriptorRead k desc) s = .next t ∧ (t.tile k).phase = 4 ∧
        (t.tile k).code = 0x1511 ∧ t.bit HST_EVT 6 = true ∧ (∀ n, n ≠ k → t.tile n = s.tile n) ∧ Frame [HST_EVT] s t) ∧
      ((s.tile k).line = true → (s.tile k).found = false →
        (descOk desc = false → ∃ t, exec (.tileDescriptorRead k desc) s = .next t ∧ (t.tile k).phase = 4 ∧ (t.tile k).code = 0x1512 ∧
          t.bit HST_EVT 6 = true ∧ (∀ n, n ≠ k → t.tile n = s.tile n) ∧ Frame [HST_EVT] s t) ∧
        (descOk desc = true → ∃ t, exec (.tileDescriptorRead k desc) s = .next t ∧ (t.tile k).found = true ∧ (t.tile k).id = leAt desc 8 8 ∧
          (t.tile k).crc = leAt desc 20 4 ∧ (t.tile k).map = padMap desc ∧ (∀ n, n ≠ k → t.tile n = s.tile n) ∧ Frame [] s t))) ∧
    ((s.tile k).line = false → exec (.tileRemoved k) s = .next s) ∧
    ((s.tile k).line = true → (s.tile k).phase ≠ 3 → ∃ t, exec (.tileRemoved k) s = .next t ∧ (t.tile k).line = false ∧ (t.tile k).phase = 0 ∧
      (∀ n, n ≠ k → t.tile n = s.tile n) ∧ Frame [] s t) ∧
    ((s.tile k).line = true → (s.tile k).phase = 3 → s.cast.applied = none → ∃ t, exec (.tileRemoved k) s = .next t ∧ (t.tile k).line = false ∧
      (t.tile k).phase = 0 ∧ t.host.irq2 = s.host.irq2 + 1 ∧ t.bit CST_EVT 4 = true ∧ (∀ n, n ≠ k → t.tile n = s.tile n) ∧
      Frame [CST_EVT, CST_STAT, CST_TILE_PRES, CST_TILE_PRES + 2, CST_TILE_DIFF, CST_TILE_DIFF + 2] s t)

/-- O49. A toll is refused at its first failing check, counted, and the sixteenth wrong MAC in a row locks its slot out. Derived from
R394, R395, R396; the model's choices behind it are log entries 39, 40 and 7. -/
def Obligations.TollsAreCheckedInOrder : Prop :=
  (∀ (e : List Byte) (classes : List Nat) (s : State), tollClasses e = some classes → s.tollFree e classes = false →
    let k := entSlot e
    let x := s.toll k
    (x.key = none → s.tollCode e classes = some 0x1710) ∧
    (∀ key, x.key = some key → k ≤ 7 →
      ((∃ d, x.lockUntil = some d ∧ s.time.up < d) → s.tollCode e classes = some 0x1711) ∧
      ((∀ d, x.lockUntil = some d → d ≤ s.time.up) → (classes.any fun c => !x.mask.testBit c) = true → s.tollCode e classes = some 0x1712) ∧
      ((∀ d, x.lockUntil = some d → d ≤ s.time.up) → (classes.any fun c => !x.mask.testBit c) = false →
        (s.tollMac key e ≠ entMac e → s.tollCode e classes = some 0x1713) ∧
        (s.tollMac key e = entMac e → entCount e ≤ x.count → s.tollCode e classes = some 0x1714) ∧
        (s.tollMac key e = entMac e → x.count < entCount e → s.nvCode = none → (s.tollCheck e).1 = none ∧
          (s.tollCheck e).2.toll k = { x with count := entCount e, fails := 0 } ∧ (∀ n, n ≠ k → (s.tollCheck e).2.toll n = s.toll n) ∧
          (s.tollCheck e).2.regs = s.regs ∧ (s.tollCheck e).2.mem = s.mem))) ∧
    (∀ code, s.tollCode e classes = some code → (s.tollCheck e).1 = some code ∧ (s.tollCheck e).2.rd TOL_CODE = BitVec.ofNat 16 code ∧
      (s.tollCheck e).2.rdN TOL_FAIL_CNT = min 65535 (s.rdN TOL_FAIL_CNT + 1) ∧ (s.tollCheck e).2.bit TOL_EVT 0 = true ∧
      (∀ a, a ∉ [TOL_CODE, TOL_FAIL_CNT, TOL_EVT] → (s.tollCheck e).2.rd a = s.rd a) ∧
      (code = 0x1713 → x.fails + 1 < 16 → (s.tollCheck e).2.toll k = { x with fails := x.fails + 1 }) ∧
      (code = 0x1713 → 16 ≤ x.fails + 1 → (s.tollCheck e).2.toll k = { x with fails := 0, lockUntil := some (s.time.up + 3000000000) } ∧
        (s.tollCheck e).2.bit TOL_EVT 2 = true))) ∧
  (∀ (k : Nat) (s : State), ((s.toll k).lockUntil = none → exec (.tollLockoutExpiry k) s = .next s) ∧
    ∀ d, (s.toll k).lockUntil = some d → d ≤ s.time.up → ∃ t, exec (.tollLockoutExpiry k) s = .next t ∧ (t.toll k).lockUntil = none ∧
      (∀ n, n ≠ k → t.toll n = s.toll n) ∧ t.regs = s.regs ∧ t.mem = s.mem)

/-- O50. The trust commands and what the gate keeps of their blocks; attestation and identity. Derived from R389, R390, R391, R392; the
model's choices behind it are log entries 39, 40 and 7. -/
def Obligations.OwnerCommandsChangeTheGate : Prop :=
  ∀ (entry : List Byte) (b : List Byte) (s r : State),
    let e := padTo 128 entry
    let p := authPayload (padTo 256 b)
    let k := leAt p 0 1
    let ended := fun (op : Nat) (t : State) => t.nv.ownerCount = authCounter (padTo 256 b) ∧
      ∃ c, t.host.waiting = s.host.waiting ++ [c] ∧ c.code = 0 ∧ c.tag = entTag e ∧ c.opcode = op
    (Accepted 0x0040 e (fun t => t.ownerCode 0x0040 e (some b)) s r → ∃ t, exec (.ownerClaim entry (some b)) s = .next t ∧
      t.nv.owner = some (p.take 32) ∧ t.bit TOL_EVT 3 = true ∧ t.bit TOL_STAT 15 = true ∧ ended 0x0040 t) ∧
    (Accepted 0x0041 e (fun t => t.ownerCode 0x0041 e (some b)) s r → ∃ t, exec (.ownerRelease entry (some b)) s = .next t ∧
      t.nv.owner = none ∧ t.nv.tolls = [] ∧ t.nv.castKey = none ∧ t.nv.requireSigned = false ∧ t.nv.ownerLock = false ∧
      t.bit TOL_STAT 15 = false ∧ ended 0x0041 t) ∧
    (Accepted 0x0042 e (fun t => t.ownerCode 0x0042 e (some b)) s r → ∃ t, exec (.keySet entry (some b)) s = .next t ∧
      (t.toll k).key = some (Sys2Proof.slice p 16 64) ∧ (t.toll k).mask = leAt p 8 2 ∧ (t.toll k).count = 0 ∧ t.nv.owner = s.nv.owner ∧ ended 0x0042 t) ∧
    (Accepted 0x0043 e (fun t => t.ownerCode 0x0043 e (some b)) s r → ∃ t, exec (.keyErase entry (some b)) s = .next t ∧
      (t.toll k).key = none ∧ (t.toll k).mask = 0 ∧ (t.toll k).count = 0 ∧ t.nv.owner = s.nv.owner ∧ ended 0x0043 t) ∧
    (Accepted 0x0044 e (fun t => t.ownerCode 0x0044 e (some b)) s r → ∃ t, exec (.castKeySet entry (some b)) s = .next t ∧
      t.nv.castKey = (if allZero (p.take 32) then none else some (p.take 32)) ∧ t.nv.owner = s.nv.owner ∧ ended 0x0044 t) ∧
    (Accepted 0x0045 e (fun t => t.ownerCode 0x0045 e (some b)) s r → ∃ t, exec (.ownerPolicy entry (some b)) s = .next t ∧
      t.nv.requireSigned = k.testBit 0 ∧ t.nv.ownerLock = k.testBit 1 ∧ t.nv.owner = s.nv.owner ∧ ended 0x0045 t) ∧
    (Accepted 0x0046 e (fun _ => if paramZero e 40 40 then none else some 0x1502) s r → ∃ t c, exec (.attest entry) s = .next t ∧
      t.host.mem = hostStore r.host.mem (param e 32 8)
        (r.report (Sys2Proof.slice e 16 32) ++ padTo 64 (edSign Config.identityKey (r.report (Sys2Proof.slice e 16 32)))) ∧
      t.host.waiting = s.host.waiting ++ [c] ∧ c.code = 0 ∧ c.tag = entTag e ∧ t.nv = s.nv ∧ ∀ a, a ≠ HST_CMD_CONS → t.rd a = s.rd a) ∧
    (Accepted 0x0047 e (fun _ => if paramZero e 8 72 then none else some 0x1502) s r → ∃ t c, exec (.identityRead entry) s = .next t ∧
      t.host.mem = hostStore r.host.mem (param e 0 8) (leBytes 4 Config.deviceCertificate.length ++ Config.deviceCertificate ++
        (leBytes 4 Config.authorityCertificate.length ++ Config.authorityCertificate)) ∧
      t.host.waiting = s.host.waiting ++ [c] ∧ c.code = 0 ∧ c.tag = entTag e ∧ t.nv = s.nv ∧ ∀ a, a ≠ HST_CMD_CONS → t.rd a = s.rd a)

/-- O51. Firmware updates, activation, confirmation, and the failure of a trial. Derived from R409, R410, R411, R416, R417, R418, R419;
the model's choices behind it are log entries 39, 40 and 7. -/
def Obligations.FirmwareIsUpdatedTriedAndConfirmed : Prop :=
  (∀ (entry : List Byte) (s r : State), let e := padTo 128 entry
    (Accepted 0x0048 e (fun t => t.fwUpdateCode e) s r → ∃ t j, exec (.fwUpdate entry) s = .next t ∧ t.fw = some j ∧ j.tag = entTag e ∧ j.phase = 1 ∧
      j.toB = (!s.bit SYS_STAT 13 && !s.nv.runningB) ∧ t.fld FWU_STAT 13 12 = 1 ∧ t.nv.fwA = s.nv.fwA ∧ t.nv.fwB = s.nv.fwB) ∧
    (Accepted 0x0049 e (fun t => t.activateCode e) s r → ∃ t c, exec (.fwActivate entry) s = .next t ∧ t.start.next = some (param e 0 1 == 1) ∧
      t.fld FWU_STAT 13 12 = 3 ∧ t.host.waiting = s.host.waiting ++ [c] ∧ c.code = 0 ∧ c.tag = entTag e) ∧
    (Accepted 0x004A e (fun t => t.confirmCode e) s r → ∃ t c, exec (.fwConfirm entry) s = .next t ∧ (t.fwSlot s.nv.runningB).state = 4 ∧
      (t.fwSlot s.nv.runningB).confirmed = true ∧ t.nv.floor = max s.nv.floor (fwRollback (s.fwSlot s.nv.runningB).header) ∧
      t.nv.revoked = (s.nv.revoked ||| fwRevoke (s.fwSlot s.nv.runningB).header) ∧ t.bit FWU_EVT 2 = true ∧
      t.host.waiting = s.host.waiting ++ [c] ∧ c.code = 0 ∧ c.tag = entTag e)) ∧
  (∀ (data : Option (List Byte)) (s : State), (s.fw = none → exec (.fwHeaderChecked data) s = .next s ∧ exec (.fwWriteDone data) s = .next s) ∧
    (∀ j h, s.fw = some j → j.opcode = 0x0048 → j.phase = 1 → s.sourceBytes (j.source == 1) j.addr 4096 data = some h →
      (∀ c, headerFault s.nv.floor s.nv.revoked j.len h = some c → ∃ t d, exec (.fwHeaderChecked data) s = .next t ∧ t.fw = none ∧
        t.nv.fwA = s.nv.fwA ∧ t.nv.fwB = s.nv.fwB ∧ t.rd FWU_CODE = BitVec.ofNat 16 c ∧ t.bit FWU_EVT 1 = true ∧
        t.host.waiting = s.host.waiting ++ [d] ∧ d.code = c ∧ d.tag = j.tag) ∧
      (headerFault s.nv.floor s.nv.revoked j.len h = none → ∃ t i, exec (.fwHeaderChecked data) s = .next t ∧ t.fw = some i ∧ i.phase = 2 ∧ i.header = h ∧
        (t.fwSlot j.toB).state = 1 ∧ t.fwSlot (!j.toB) = s.fwSlot (!j.toB) ∧ t.fld FWU_STAT 13 12 = 2)) ∧
    (∀ j b, s.fw = some j → j.opcode = 0x0048 → j.phase = 2 → s.sourceBytes (j.source == 1) (j.addr + 4096) (fwBodyLen j.header) data = some b →
      (sha512 b = Sys2Proof.slice j.header 0x20 64 → ∃ t d, exec (.fwWriteDone data) s = .next t ∧ t.fw = none ∧ (t.fwSlot j.toB).state = 2 ∧
        (t.fwSlot j.toB).header = j.header ∧ (t.fwSlot j.toB).body = b ∧ t.fwSlot (!j.toB) = s.fwSlot (!j.toB) ∧ t.bit FWU_EVT 0 = true ∧
        t.host.waiting = s.host.waiting ++ [d] ∧ d.code = 0 ∧ d.tag = j.tag) ∧
      (sha512 b ≠ Sys2Proof.slice j.header 0x20 64 → ∃ t d, exec (.fwWriteDone data) s = .next t ∧ t.fw = none ∧ (t.fwSlot j.toB).state = 0 ∧
        t.rdN FWU_CODE = 0x1819 ∧ t.host.waiting = s.host.waiting ++ [d] ∧ d.code = 0x1819 ∧ d.tag = j.tag))) ∧
  (∀ s : State, (s.inTrial = false ∨ s.start.phase ≠ 1 → exec .trialFailed s = .next s) ∧
    (s.inTrial = true → s.start.phase = 1 →
      let ended := fun t : State => (t.fwSlot s.nv.runningB).state = 6 ∧ t.fwSlot (!s.nv.runningB) = s.fwSlot (!s.nv.runningB) ∧ t.start.phase = 0 ∧
        t.start.rolledBack = true ∧ t.rdN FWU_CODE = 0x1822 ∧ t.bit SYS_STAT 15 = false
      (∃ t, exec .trialFailed s = .next t ∧ ended t) ∧
      (s.start.since + 4500000000 ≤ s.time.up → ∃ t, exec .trialReadyTimeout s = .next t ∧ ended t) ∧
      (∀ c, c ≤ 20 → ∃ t, exec (.controllerLoadTimeout c) s = .next t ∧ ended t)))

/-- O52. A frame of the convoy is discarded when bad, acted on when new, and forwarded once, while the lanes of its port are locked and
aligned. Derived from R356, R357, R358, R359, R360, R364, R367, R368, R370; the model's choices behind it are log entries 28, 37 and 7. -/
def Obligations.FramesAreCheckedAndForwarded : Prop :=
  ∀ (west : Bool) (lanes : List (List Nat)) (s : State),
    let up := if west then 6 else 7
    let err := if west then CVY_CRC_ERR_W else CVY_CRC_ERR_E
    let rows := [(Instr.beaconFrame west lanes, 1), (Instr.helloFrame west lanes, 2), (Instr.triggerFrame west lanes, 3),
      (Instr.rendezvousFrame west lanes, 4), (Instr.failFrame west lanes, 5), (Instr.soundReq west lanes 0 0, 6), (Instr.soundEcho west lanes 0, 7)]
    (∃ t, exec (.frameDiscard west) s = .next t ∧ t.rdN err = min 65535 (s.rdN err + 1) ∧ t.cvy = s.cvy ∧ Frame [err] s t) ∧
    (s.lanesUp west = false → ∀ x ∈ rows, exec x.1 s = .next s) ∧
    (s.lanesUp west = true → lineFrame (laneSkews (s.port west).lanes) lanes = none → (∃ l ∈ lanes.take 4, l.all headerOk = false) →
      ∀ x ∈ rows, ∃ t, exec x.1 s = .next t ∧ t.lanesUp west = false ∧ t.bit CVY_STAT up = false ∧
        (s.bit CVY_STAT up = true → t.bit CVY_STAT 12 = true ∧ t.bit CVY_EVT 0 = true)) ∧
    (∀ f, s.lanesUp west = true → lineFrame (laneSkews (s.port west).lanes) lanes = some f → (lanes.all fun l => l.all headerOk) = true →
      let fresh := s.cvy.pairs.contains (frameSrc f, frameSeq f) = false ∧ (s.seated && frameSrc f == s.position) = false ∧ frameHops f = 0
      (frameOk f = false → ∀ x ∈ rows, ∃ t, exec x.1 s = .next t ∧ t.rdN err = min 65535 (s.rdN err + 1) ∧ t.cvy = s.cvy ∧ Frame [err] s t) ∧
      (frameOk f = true → ∀ x ∈ rows, frameType f ≠ x.2 → exec x.1 s = .next s) ∧
      (frameOk f = true → (s.cvy.pairs.contains (frameSrc f, frameSeq f) = true ∨ (s.seated && frameSrc f == s.position) = true) →
        ∀ x ∈ rows, 2 ≤ x.2 → x.2 ≤ 5 → exec x.1 s = .next s) ∧
      (frameOk f = true →
        (frameType f = 1 → ∃ t, exec (.beaconFrame west lanes) s = .next t ∧ (t.port west).got = true ∧ (t.port west).serial = frameArg f 0 8 ∧
          (t.port west).master = frameArg f 8 8 ∧ (t.port west).upHops = frameArg f 18 1 ∧ t.port (!west) = s.port (!west)) ∧
        (frameType f = 2 → fresh → frameArg f 0 8 ≠ s.serial → ∃ t, exec (.helloFrame west lanes) s = .next t ∧
          (t.cvy.hellos.any fun h => h.serial == frameArg f 0 8 && h.master == frameArg f 32 8 && h.position == frameArg f 24 1) = true ∧
          t.cvy.pairs.contains (frameSrc f, frameSeq f) = true ∧ Frame [] s t) ∧
        (frameType f = 3 → fresh → s.seated = true → 0 ≤ s.until ((frameTime f / 65536 + s.rdN CVY_TRIG_DLY) % clockSpan) →
          ∃ t, exec (.triggerFrame west lanes) s = .next t ∧
            t.cvy.triggers = s.cvy.triggers ++ [⟨frameArg f 0 1, (frameTime f / 65536 + s.rdN CVY_TRIG_DLY) % clockSpan⟩] ∧ Frame [] s t) ∧
        (frameType f = 4 → fresh → s.cvy.counts = [] → frameArg f 6 2 < 4 → ∃ t, exec (.rendezvousFrame west lanes) s = .next t ∧
          t.cvy.arrivals.contains ⟨frameArg f 0 4, frameSrc f, frameArg f 6 2, frameTime f⟩ = true ∧ Frame [] s t) ∧
        (frameType f = 5 → fresh → s.bit CVY_CFG 15 = false → ∃ t, exec (.failFrame west lanes) s = .next t ∧
          t.rd CVY_FAIL_SRC = BitVec.ofNat 16 (frameSrc f) ∧
          t.rd CVY_FAIL_GRP = BitVec.ofNat 16 (frameArg f 0 2) ∧ t.rdN CVY_FAIL_CNT = min 65535 (s.rdN CVY_FAIL_CNT + 1) ∧ t.bit CVY_EVT 5 = true ∧
          Frame [CVY_FAIL_SRC, CVY_FAIL_GRP, CVY_FAIL_CAUSE, CVY_FAIL_CNT, CVY_EVT] s t) ∧
        (∀ frac dep, frameType f = 6 → s.bit (if west then CVY_FI_CFG_W else CVY_FI_CFG_E) 15 = false → (s.port west).heldBack = none →
          ∃ t g, exec (.soundReq west lanes frac dep) s = .next t ∧ t.cvy.sent = s.cvy.sent ++ [(west, g)] ∧ frameType g = 7 ∧
            frameArg g 0 8 = frameTime f ∧ frameArg g 8 8 = s.convoyTime + frac % 65536 ∧ Frame [] s t) ∧
        (∀ frac, frameType f = 7 → (s.port west).t1 ≠ some (frameArg f 0 8) → exec (.soundEcho west lanes frac) s = .next s) ∧
        (∀ frac, frameType f = 7 → (s.port west).t1 = some (frameArg f 0 8) → (s.port west).samples.length < 15 →
          ∃ t, exec (.soundEcho west lanes frac) s = .next t ∧ (t.port west).t1 = none ∧ (t.port west).samples.length = (s.port west).samples.length + 1 ∧
            t.port (!west) = s.port (!west) ∧ Frame [] s t)))

/-- O53. Ports go up and down with their lanes, the convoy forms, elects its master and frees positions; links are sounded. `r` is the
module once a port's lanes have received `seen`. Derived from R356, R357, R360, R361, R362, R364; the model's choices behind it are log
entries 28, 37 and 7. -/
def Obligations.TheConvoyFormsAndChanges : Prop :=
  (∀ (west : Bool) (seen : List (List LaneSeen)) (s r : State), s.lanesSee west seen = r →
    let up := if west then 6 else 7
    let down := fun t : State => t.bit CVY_STAT up = false ∧ t.bit CVY_STAT 12 = true ∧ t.bit CVY_EVT 0 = true ∧ (t.port west).run = 0 ∧
      t.port (!west) = s.port (!west)
    (r.lanesUp west = true → s.bit CVY_STAT up = true ∨ (s.port west).run + (s.port west).got.toNat < 4 → exec (.portUp ⟨west, seen⟩) s = .next r) ∧
    (r.lanesUp west = true → s.bit CVY_STAT up = false → 4 ≤ (s.port west).run + (s.port west).got.toNat → s.cvyState ≠ 1 →
      ∃ t, exec (.portUp ⟨west, seen⟩) s = .next t ∧ t.bit CVY_STAT up = true ∧ t.bit CVY_EVT 0 = true ∧ (t.port west).missed = 0 ∧
        (t.port west).lanes = (r.port west).lanes) ∧
    (r.lanesUp west = true → exec (.portDown ⟨west, seen⟩) s = .next r) ∧
    (r.lanesUp west = false → s.bit CVY_STAT up = false → exec (.portUp ⟨west, seen⟩) s = .next r ∧ exec (.portDown ⟨west, seen⟩) s = .next r) ∧
    (r.lanesUp west = false → s.bit CVY_STAT up = true →
      (∃ t, exec (.portDown ⟨west, seen⟩) s = .next t ∧ down t) ∧ ∃ t, exec (.portUp ⟨west, seen⟩) s = .next t ∧ down t)) ∧
  (∀ (west : Bool) (s : State), let up := if west then 6 else 7
    (∀ frac, s.bit CVY_STAT up = false ∨ (s.port west).t1.isSome = true → exec (.linkSounding west frac) s = .next s) ∧
    (∀ frac, s.bit CVY_STAT up = true → (s.port west).t1 = none → s.bit (if west then CVY_FI_CFG_W else CVY_FI_CFG_E) 15 = false →
      (s.port west).heldBack = none → ∃ t g, exec (.linkSounding west frac) s = .next t ∧ (t.port west).t1 = some (s.convoyTime + frac % 65536) ∧
        t.cvy.sent = s.cvy.sent ++ [(west, g)] ∧ frameType g = 6 ∧ frameTime g = s.convoyTime + frac % 65536 ∧ Frame [] s t)) ∧
  (∀ s : State, (s.cvyState ≠ 0 ∨ s.cvy.same < 64 → exec .convoyFormed s = .next s) ∧
    (s.cvyState = 0 → 64 ≤ s.cvy.same → ∃ t, exec .convoyFormed s = .next t ∧ t.cvy.forming = some (s.ownHello :: s.cvy.hellos) ∧ Frame [] s t)) ∧
  (∀ (l : List Hello) (s : State), s.cvy.forming = some l → s.cvy.electing = none → s.cvyState = 0 →
    let r := convoyOf l
    let t := s.convoyActs
    t.cvy.forming = none ∧ t.master = r.1 % 2 ^ 64 ∧
    (∀ e, (r.2.2.find? fun e => e.2 == s.serial) = some e → t.cvyState = 1 ∧ t.fld CVY_STAT 5 0 = e.1 % 64 ∧
      t.isMaster = (r.1 == s.serial) ∧ t.cvy.members = r.2.2 ∧ t.bit CVY_EVT 1 = true) ∧
    ((r.2.2.find? fun e => e.2 == s.serial) = none → t.cvyState = 2)) ∧
  (∀ (reach : List Nat) (s : State), (s.seated = false ∨ s.isMaster = true ∨ s.master ∈ reach → exec (.masterChange reach) s = .next s) ∧
    (s.seated = true → s.isMaster = false → s.master ∉ reach → ∃ t, exec (.masterChange reach) s = .next t ∧ t.cvy.electing = some reach ∧
      Frame [] s t) ∧
    (s.cvy.forming = none → s.cvy.electing = some reach → ∃ m, (s.serial :: reach).min? = some m ∧ s.convoyActs.master = m % 2 ^ 64 ∧
      s.convoyActs.isMaster = (m == s.serial) ∧ s.convoyActs.bit CVY_EVT 2 = true)) ∧
  (∀ (pos : Nat) (s : State), (pos = s.position ∨ (∀ m ∈ s.cvy.members, m.1 ≠ pos) → exec (.positionFreed pos) s = .next s) ∧
    (pos ≠ s.position → (∃ m ∈ s.cvy.members, m.1 = pos) → (∀ e ∈ s.ctxs, e.2.rdv = none) → ∃ t, exec (.positionFreed pos) s = .next t ∧
      t.cvy.members = s.cvy.members.filter (fun m => m.1 ≠ pos) ∧ t.rdN CVY_SIZE = max 1 (s.cvy.members.filter fun m => m.1 ≠ pos).length % 65536 ∧
      Frame [CVY_SIZE] s t))

/-- O54. Remote triggers are delivered in order of time; a rendezvous releases its caravan or times out. Derived from R367, R369, R370,
R371; the model's choices behind it are log entries 28, 37 and 7. -/
def Obligations.RemoteEventsAndRendezvous : Prop :=
  (∀ s : State, (s.cvy.triggers = [] → exec .remoteTriggerDelivery s = .next s) ∧
    (∀ g, s.cvy.triggers = [g] → s.until g.time ≤ 0 → ∃ t, exec .remoteTriggerDelivery s = .next t ∧ t.cvy.triggers = [] ∧
      t = State.busRaise { s with cvy := { s.cvy with triggers := [] } } g.event none)) ∧
  (∀ (c : Nat) (s : State), c < 64 →
    ((s.ctx c).rdv = none → exec (.rendezvousRelease c) s = .next s ∧ exec (.rendezvousTimeout c) s = .next s) ∧
    (∀ w, (s.ctx c).rdv = some w →
      (s.rdvLatest w = none → exec (.rendezvousRelease c) s = .next s) ∧
      (∀ n p latest, ((s.ctx c).paths.findIdx? fun p => p.need.isEmpty && p.halt ≠ .none) = some n → (s.ctx c).paths[n]? = some p →
        s.rdvLatest w = some latest → p.halt = .rendezvous w.entry w.occurrence →
        ∃ t q, exec (.rendezvousRelease c) s = .next t ∧ (t.ctx c).rdv = none ∧ (t.ctx c).paths[n]? = some q ∧ q.halt = .none ∧ q.pos = p.pos ∧
          (∀ m, m ≠ n → (t.ctx c).paths[m]? = (s.ctx c).paths[m]?) ∧ (∀ d, d ≠ c → t.ctx d = s.ctx d) ∧
          (∀ a ∈ t.cvy.arrivals, ¬ (a.label = w.label ∧ a.occurrence = w.occurrence)) ∧
          ∀ r, r ∉ [CVY_RDV_LATE, CVY_EVT, HST_LOG_WR, HST_LOG_WR + 2, HST_LOG_LOST, HST_EVT] → t.rd r = s.rd r) ∧
      (s.fld (CVY_RDV_TIME w.entry) 15 8 = 0 → exec (.rendezvousTimeout c) s = .next s) ∧
      (0 < s.fld (CVY_RDV_TIME w.entry) 15 8 → w.since + s.fld (CVY_RDV_TIME w.entry) 15 8 * 196608 ≤ s.time.up →
        ∃ t, exec (.rendezvousTimeout c) s = .next t ∧ t = endRun c 0x1602 (s.setCtx c { s.ctx c with rdv := none }))))

/-- O55. Arming, disarming and feeding a check unit, and the judgement of a frame. Derived from R381, R382, R383, R384, R386, R387; the
model's choices behind it are log entries 27, 38 and 7. -/
def Obligations.CheckUnitsJudgeTheirFrames : Prop :=
  ∀ (u : Nat) (s : State), u < 16 → s.bit SYS_STAT 15 = true →
    ((s.chk u).armed = true → s.chkArmCode u = some 0x1730) ∧
    (∀ code, s.chkArmCode u = some code → ∃ t, exec (.chkArm u) s = .next t ∧ t.rd (CHK_CODE u) = BitVec.ofNat 16 code ∧ t.bit (CHK_EVT u) 5 = true ∧
      (∀ v, t.chk v = s.chk v) ∧ Frame [CHK_CODE u, CHK_EVT u] s t) ∧
    (s.chkArmCode u = none → ∃ t, exec (.chkArm u) s = .next t ∧ t.chk u = ⟨true, !s.bit (CHK_START u) 15, false, [], none⟩ ∧
      (t.queue (CHK_RES_STAT u)).items = [] ∧ t.fld (CHK_STAT u) 15 14 = (if s.bit (CHK_START u) 15 then 1 else 2) ∧ (∀ v, v ≠ u → t.chk v = s.chk v) ∧ Frame [CHK_STAT u] s t) ∧
    ((s.chk u).armed = false → exec (.chkDisarm u) s = .next s) ∧
    ((s.chk u).armed = true → ∃ t, exec (.chkDisarm u) s = .next t ∧ (t.chk u).armed = false ∧ t.fld (CHK_STAT u) 15 14 = 0 ∧
      (∀ v, v ≠ u → t.chk v = s.chk v) ∧ ((s.chk u).inFrame = false → t.queue (CHK_RES_STAT u) = s.queue (CHK_RES_STAT u) ∧ Frame [CHK_STAT u] s t) ∧
      ((s.chk u).inFrame = true → t.rdN (CHK_FRAME_CNT u) = min 65535 (s.rdN (CHK_FRAME_CNT u) + 1) ∧
        t.rdN (CHK_FAIL_CNT u) = min 65535 (s.rdN (CHK_FAIL_CNT u) + 1) ∧ t.bit (CHK_EVT u) 1 = true)) ∧
    (∀ v, s.chkSrc u ≠ 2 → exec (.chkFeed8 u v) s = .next s ∧ exec (.chkFeed u v) s = .next s) ∧
    (∀ v, ∃ t1 t, exec (.chkFeed u v) s = .next t ∧ exec (.chkFeed8 u v) s = .next t1 ∧ exec (.chkFeed8 u (v / 256)) t1 = .next t) ∧
    (∀ v, s.chkSrc u = 2 → (s.chk u).armed = true → (s.chk u).inFrame = true ∨ (s.chk u).started = true →
      let all := (s.chk u).bits ++ byteBits (v % 256)
      (all.length < s.chkData u + s.chkWidth u → ∃ t, exec (.chkFeed8 u v) s = .next t ∧ (t.chk u).bits = all ∧ (t.chk u).inFrame = true ∧
        t.queue (CHK_RES_STAT u) = s.queue (CHK_RES_STAT u) ∧ (∀ n, n ≠ u → t.chk n = s.chk n) ∧ Frame [CHK_STAT u] s t) ∧
      (all.length = s.chkData u + s.chkWidth u → s.bit (CHK_ALIVE u) 15 = false →
        let order := entering (s.bit (CHK_CFG u) 9) all
        let want := crcCalc (s.chkWidth u) (s.wide (CHK_POLY u) 4) (s.wide (CHK_INIT u) 4) (s.wide (CHK_XOR u) 4) (s.bit (CHK_CFG u) 8)
          (order.take (s.chkData u))
        let got := received (s.bit (CHK_CFG u) 7) (order.drop (s.chkData u))
        ∃ t, exec (.chkFeed8 u v) s = .next t ∧ (t.chk u).inFrame = false ∧ (t.chk u).bits = [] ∧
          t.rdN (CHK_FRAME_CNT u) = min 65535 (s.rdN (CHK_FRAME_CNT u) + 1) ∧
          (got = want → t.rd (CHK_FAIL_CNT u) = s.rd (CHK_FAIL_CNT u)) ∧
          (got ≠ want → t.rdN (CHK_FAIL_CNT u) = min 65535 (s.rdN (CHK_FAIL_CNT u) + 1) ∧ t.bit (CHK_EVT u) 1 = true) ∧
          ((s.queue (CHK_RES_STAT u)).items.length < 16 → t.bit (CHK_EVT u) 0 = true ∧ ∃ it,
            (t.queue (CHK_RES_STAT u)).items = (s.queue (CHK_RES_STAT u)).items ++ [it] ∧ (it.2.getD 2 0).testBit 0 = (got == want)) ∧
          (16 ≤ (s.queue (CHK_RES_STAT u)).items.length → (t.queue (CHK_RES_STAT u)).items = (s.queue (CHK_RES_STAT u)).items ∧
            t.rdN (CHK_DROP_CNT u) = min 65535 (s.rdN (CHK_DROP_CNT u) + 1)) ∧
          (∀ n, n ≠ u → t.chk n = s.chk n) ∧ Frame [CHK_STAT u, CHK_EVT u, CHK_FRAME_CNT u, CHK_FAIL_CNT u, CHK_DROP_CNT u] s t))

/-- O56. A failed waybill check fetches the block again once; a second failure ends its journey. Derived from R377, R378, R380, R400; the
model's choices behind it are log entries 27, 38 and 7. -/
def Obligations.JourneysAreFetchedAgainOnce : Prop :=
  ∀ (kind origin owner : Nat) (s : State), kind ≤ 9 →
    let failed := (s.journey kind origin owner).any fun j => j.failed
    let lost := (s.journey kind origin owner).any fun j => j.missing.isSome
    let first := fun (t : State) (hop : Nat) (inj : Bool) => t.rdN WAY_ERR_CNT = min 65535 (s.rdN WAY_ERR_CNT + 1) ∧ t.bit WAY_EVT 0 = true ∧
      t.way.flog.head? = some ⟨hop, 0, inj, kind, origin, t.convoyTime⟩ ∧ t.journey kind origin owner = some ⟨kind, origin, owner, true, none⟩
    let second := fun (t : State) => t.rdN WAY_REPEAT_CNT = min 65535 (s.rdN WAY_REPEAT_CNT + 1) ∧ t.bit WAY_EVT 1 = true ∧
      t.journey kind origin owner = none ∧
      (6 ≤ kind → kind ≤ 8 → t.rdN WAY_UNVER_CNT = min 65535 (s.rdN WAY_UNVER_CNT + 1) ∧ t.bit WAY_EVT 2 = true) ∧
      (kind = 9 → t.way.poison = s.way.poison ++ [origin % 2 ^ 36 * 64]) ∧ Frame [WAY_REPEAT_CNT, WAY_UNVER_CNT, WAY_EVT] s t
    (∀ hop ok selected, hop ≤ 8 → lost = false → fiReg kind hop = none →
      (ok = true → hop ≠ lastHop kind → exec (.blockHop kind origin owner hop ok selected) s = .next s) ∧
      (ok = true → hop = lastHop kind → ∃ t, exec (.blockHop kind origin owner hop ok selected) s = .next t ∧ t.journey kind origin owner = none ∧ Frame [] s t) ∧
      (ok = false → failed = false → ∃ t, exec (.blockHop kind origin owner hop ok selected) s = .next t ∧ first t hop false ∧
        Frame [WAY_ERR_CNT, WAY_EVT] s t) ∧
      (ok = false → failed = true → 6 ≤ kind → ∃ t, exec (.blockHop kind origin owner hop ok selected) s = .next t ∧ second t)) ∧
    (∀ ok, lost = false → s.bit WAY_FI_FAB 15 = true → s.fld WAY_FI_FAB 14 13 = 1 → s.bit WAY_FI_FAB 7 = false → failed = false →
      ∃ t, exec (.blockHop kind origin owner 1 ok true) s = .next t ∧ first t 1 true ∧ t.rdN WAY_FI_CNT = min 65535 (s.rdN WAY_FI_CNT + 1) ∧
        Frame [WAY_FI_CNT, WAY_ERR_CNT, WAY_EVT] s t) ∧
    ((failed = false → ∀ ok, exec (.refetchArrival kind origin owner ok) s = .next s) ∧ exec (.refetchArrival kind origin owner true) s = .next s) ∧
    (failed = true → lost = false → 6 ≤ kind → ∃ t, exec (.refetchArrival kind origin owner false) s = .next t ∧ second t) ∧
    (lost = false → exec (.injectedDropDetect kind origin owner) s = .next s) ∧
    (∀ j hop due, s.journey kind origin owner = some j → j.missing = some (hop, due) → j.failed = false → due + 256 ≤ s.time.up →
      ∃ t, exec (.injectedDropDetect kind origin owner) s = .next t ∧ first t hop true ∧ Frame [WAY_ERR_CNT, WAY_EVT] s t)

/-- O57. The start of the module, its READY, and what a reset, a loss of power and a hard trip leave. Derived from R427, R435, R436, R415,
R419; the model's choices behind it are log entries 41 and 7. -/
def Obligations.TheModuleStartsAndStops : Prop :=
  (∀ s : State,
    let cleared := fun (t : State) => (∀ a, a ∉ [SYS_SERIAL, SYS_SERIAL + 2, SYS_SERIAL + 4, SYS_SERIAL + 6, CVY_MASTER, CVY_MASTER + 2, CVY_MASTER + 4,
        CVY_MASTER + 6] → t.rd a = resetOf a) ∧ t.serial = s.serial ∧ t.bit SYS_STAT 15 = false ∧ t.pending = s.pending
    (∃ t, exec .resetAssert s = .next t ∧ cleared t ∧ t.start.phase = 0 ∧ t.start.held = true ∧ t.nv = s.nv) ∧
    (∃ t, exec .powerLoss s = .next t ∧ cleared t ∧ t.start.phase = 0 ∧ t.start.held = false ∧ t.nv = { s.nv with hardTrip := false }) ∧
    (s.start.phase ≠ 0 → ∃ t, exec .hardTrip s = .next t ∧ cleared t ∧ t.start.phase = 4 ∧ t.nv = { s.nv with hardTrip := true }) ∧
    (s.start.phase = 0 → exec .hardTrip s = .next s)) ∧
  (∀ s : State,
    let n := s.nv.atStart
    (s.start.phase ≠ 0 → s.start.next = none → s.start.rolledBack = false → ∀ hot, exec (.moduleStart hot) s = .next s) ∧
    (s.start.phase = 0 → (∃ t, exec (.moduleStart true) s = .next t ∧ t.start.phase = 0 ∧ t.nv = s.nv) ∧
      (∀ b, (n.romTry s.start.next (n.candidates s.start.next)).2 = some b → ∃ t, exec (.moduleStart false) s = .next t ∧ t.start.phase = 1 ∧
        t.nv.runningB = b ∧ t.nv.txns = [] ∧ t.nv.hardTrip = false ∧ t.bit THM_STAT 11 = s.nv.hardTrip ∧ t.bit SYS_STAT 15 = false) ∧
      ((n.romTry s.start.next (n.candidates s.start.next)).2 = none → ∃ t, exec (.moduleStart false) s = .next t ∧ t.start.phase = 3 ∧
        t.bit SYS_STAT 13 = true ∧ t.nv.txns = [] ∧ t.bit THM_STAT 11 = s.nv.hardTrip))) ∧
  (∀ s : State, (s.start.phase ≠ 1 → exec .moduleReady s = .next s) ∧
    (s.start.phase = 1 → ∃ t, exec .moduleReady s = .next t ∧ t.bit SYS_STAT 15 = true ∧ t.start.phase = 2 ∧
      (s.start.rolledBack = true → t.bit FWU_EVT 3 = true) ∧ (s.inTrial = false → Frame [SYS_STAT, FWU_EVT] s t))) ∧
  (∀ (ctl : Nat) (s : State), (s.start.phase ≠ 1 ∨ 20 < ctl → exec (.controllerLoadTimeout ctl) s = .next s) ∧
    (s.start.phase = 1 → s.inTrial = false → ctl < 16 → ∃ t, exec (.controllerLoadTimeout ctl) s = .next t ∧ t.bit CAL_ISO ctl = true ∧ t.isoStat ctl = 3 ∧
      t.cal.coreFail = ctl :: s.cal.coreFail ∧ t.start = s.start ∧ ∀ a, a ∉ [CAL_ISO, CAL_ISO_STAT + 2 * (ctl / 8)] → t.rd a = s.rd a) ∧
    (s.start.phase = 1 → s.inTrial = false → 16 ≤ ctl → ctl ≤ 20 → ∃ t, exec (.controllerLoadTimeout ctl) s = .next t ∧ t.start.phase = 3 ∧ Frame [] s t))

/-- O58. Transactions commit whole, the power-fail warning begins and ends, and the prober asserts and releases contact. Derived from
R436, R424, R425, R399, R465, R122; the model's choices behind it are log entries 41 and 7. -/
def Obligations.TransactionsPowerFailAndContact : Prop :=
  (∀ (x : Txn) (rest : List Txn) (s : State), s.nv.txns = x :: rest →
    (0 < x.pages → (∃ t, exec .nvPageDone s = .next t ∧ t.nv = { s.nv with txns := { x with pages := x.pages - 1 } :: rest } ∧ t.regs = s.regs ∧ t.mem = s.mem) ∧
      exec .nvTransactionCommit s = .next s) ∧
    (x.pages = 0 → exec .nvPageDone s = .next s) ∧
    (∀ content tag, x = ⟨.calRecord content tag, 0⟩ → ∃ t c, exec .nvTransactionCommit s = .next t ∧ t.nv = { s.nv with txns := rest, calRecord := some content } ∧
      t.host.waiting = s.host.waiting ++ [c] ∧ c.code = 0 ∧ c.tag = tag ∧ c.opcode = 0x0030 ∧ t.mem = s.mem ∧ ∀ a, a ≠ THM_STAT → t.rd a = s.rd a)) ∧
  (∀ s : State, s.nv.txns = [] → exec .nvPageDone s = .next s ∧ exec .nvTransactionCommit s = .next s) ∧
  (∀ (vin : Nat) (pf : Bool) (s : State), (pf = false → 3350 ≤ vin → exec (.powerFailWarning vin pf) s = .next s) ∧
    (s.bit THM_STAT 12 = true → pf = true ∨ vin < 3350 →
      exec (.powerFailWarning vin pf) s = .next { s with therm := { s.therm with vin := vin, pfInput := pf } }) ∧
    (s.bit THM_STAT 12 = false → pf = true ∨ vin < 3350 → ∃ t, exec (.powerFailWarning vin pf) s = .next t ∧ t.bit THM_STAT 12 = true ∧
      t.bit THM_EVT 4 = true ∧ (s.bit THM_PF_CFG 15 = true → ∀ n, n < 512 → t.enabled n = false) ∧
      (s.bit THM_PF_CFG 15 = false → s.fw = none → s.nv.txns = [] → t.therm.vin = vin ∧ t.therm.pfInput = pf ∧ Frame [THM_STAT, THM_EVT] s t))) ∧
  (∀ (vin : Nat) (s : State), (s.bit THM_STAT 12 = false ∨ vin ≤ 3500 → exec (.powerFailEnd vin) s = .next s) ∧
    (s.bit THM_STAT 12 = true → 3500 < vin → ∃ t, exec (.powerFailEnd vin) s = .next t ∧ t.bit THM_STAT 12 = false ∧ t.therm.vin = vin ∧ Frame [THM_STAT] s t)) ∧
  (∀ s : State, (s.touch = true → exec .contactEngagedAssert s = .next s) ∧ (s.touch = false → exec .contactEngagedDeassert s = .next s) ∧
    (s.touch = false → ∃ t, exec .contactEngagedAssert s = .next t ∧ t.touch = true ∧ (∀ a ∈ fiRegs, t.bit a 15 = false) ∧
      (fiRegs.any (fun a => s.bit a 15) = true → t.bit WAY_EVT 3 = true) ∧
      (s.fw = none → ∀ a, a ∉ WAY_EVT :: fiRegs → t.rd a = s.rd a)) ∧
    (s.touch = true → ∃ t, exec .contactEngagedDeassert s = .next t ∧ t.touch = false ∧ (∀ c, c < 64 → t.bit (RUN_CD_MIN c) 15 = false) ∧ t.mem = s.mem ∧
      t.nv = s.nv))

/-- O59. Thermal samples and resumes are class 0 items, zone levels follow their readings, and the test port answers in reset. Derived
from R429, R432, R434, R466; the model's choices behind it are log entries 41 and 7. -/
def Obligations.ThermalSamplesAndTheTestPort : Prop :=
  (∀ (readings : List Reading) (vin pin : Nat) (s : State), (s.therm.wait ≠ 0 → exec (.thermalSample readings vin pin) s = .next s) ∧
    (s.therm.wait = 0 → ∃ t, exec (.thermalSample readings vin pin) s = .next t ∧ t.hasItem (.sample readings vin pin) ∧
      t.therm.wait = (if s.bit THM_STAT 13 then (if s.therm.alternate then 63 else 62) else 1000) ∧
      (s.bit THM_STAT 13 = true → t.therm.alternate = !s.therm.alternate) ∧ Frame [] s t)) ∧
  (∀ (n : Nat) (s : State), s.bit SYS_STAT 15 = true → n < 64 → ∃ t, exec (.thmResume n) s = .next t ∧ t.hasItem (.resume n) ∧ Frame [] s t) ∧
  (∀ (n : Nat) (s : State), n < 64 → (s.zoneLevel n = 3 → zoneUpdate n s = s) ∧
    (s.zoneLevel n ≠ 3 → signed 16 (s.rdN (THM_TEMP n)) < 0x3980 →
      (zoneUpdate n s).zoneLevel n = levelOf s.warnLimit s.throttleLimit (s.zoneLevel n) (signed 16 (s.rdN (THM_TEMP n))) ∧
      (s.zoneLevel n = 0 → s.warnLimit ≤ signed 16 (s.rdN (THM_TEMP n)) → (zoneUpdate n s).bit THM_EVT 0 = true) ∧
      (∀ m, m < 64 → m ≠ n → (zoneUpdate n s).zoneLevel m = s.zoneLevel m) ∧ Frame [THM_SSTAT n, THM_EVT] s (zoneUpdate n s))) ∧
  (∀ (pins shiftIn : List Bool) (s : State),
    (s.start.held = false → exec .bypass s = .next s ∧ exec (.samplePreload pins shiftIn) s = .next s ∧ exec (.extest pins) s = .next s ∧ exec .idcode s = .next s) ∧
    (s.start.held = true →
      (∃ t, exec .bypass s = .next t ∧ t.tap.instr = .bypass ∧ t.tap.bypass = false ∧ t.tap.driven = [] ∧ Frame [] s t) ∧
      (∃ t, exec (.samplePreload pins shiftIn) s = .next t ∧ t.tap.instr = .samplePreload ∧ t.tap.boundary = pins ∧ t.tap.update = shiftIn ∧ t.tap.driven = [] ∧
        Frame [] s t) ∧
      (∃ t, exec (.extest pins) s = .next t ∧ t.tap.instr = .extest ∧ t.tap.boundary = pins ∧ t.tap.driven = s.tap.update ∧ Frame [] s t) ∧
      ∃ t, exec .idcode s = .next t ∧ t.tap.instr = .idcode ∧ t.read.data = (s.fld SYS_HWVER 15 8 % 16) * 2 ^ 28 + 0x2048 * 2 ^ 12 + 0x2EA * 2 + 1 ∧
        t.tap.idreg = t.read.data ∧ Frame [] s t))

/-- O60. The lane coding: the blocks of a frame carry its bytes, a lane's descrambler undoes its scrambler, and a lane locks, keeps its
lock and loses it. Derived from R355, R356; the model's choices behind it are log entry 28. -/
def Obligations.LanesCarryFramesAndLock : Prop :=
  (∀ f : List Byte, frameFound (frameBlocks f) = some (padTo (7 + 8 * ((f.length - 7 + 7) / 8)) f)) ∧
  (∀ reg before d : Nat, reg < 2 ^ 58 → before < 2 ^ 64 → d < 2 ^ 64 → (∀ j, j < 58 → reg.testBit j = before.testBit (63 - j)) →
    let r := scramble reg d
    descramble before r.2 = d ∧ r.1 < 2 ^ 58 ∧ r.2 < 2 ^ 64 ∧ ∀ j, j < 58 → r.1.testBit j = r.2.testBit (63 - j)) ∧
  (∀ (l : LaneRx) (n slot : Nat), (l.see .bad).locked = false ∧
    (63 ≤ l.run → l.since = some 16383 → (l.see (.align slot)).locked = true) ∧
    (l.since ≠ some 16383 → (l.see (.align slot)).locked = false) ∧
    (l.locked = true → (∀ k, l.since = some k → k + n < 16384) → (l.see (.valid n)).locked = true) ∧
    (∀ k, l.since = some k → 16384 ≤ k + n → (l.see (.valid n)).locked = false)) ∧
  (∀ (a b : LaneRx) (l : List LaneRx), a ∈ l → b ∈ l → lanesAligned l = true → a.locked = true ∧ a.slot ≤ b.slot + 64)
end

