-- ==== Sys2Proof/Laws/State.lean ====
section
/-!
SUPPORT. Laws/State.lean: what each named update of the state leaves as it was, field by field. A later proof cites these and unfolds no
record update.
-/

namespace Sys2Proof.Machine

variable (s : State)

/-! `State.wr` -/

@[simp] theorem State.wr_pending (a : Nat) (w : Word) : (s.wr a w).pending = s.pending := rfl
@[simp] theorem State.wr_shadow (a : Nat) (w : Word) : (s.wr a w).shadow = s.shadow := rfl
@[simp] theorem State.wr_shadowNext (a : Nat) (w : Word) : (s.wr a w).shadowNext = s.shadowNext := rfl
@[simp] theorem State.wr_latch (a : Nat) (w : Word) : (s.wr a w).latch = s.latch := rfl
@[simp] theorem State.wr_staged (a : Nat) (w : Word) : (s.wr a w).staged = s.staged := rfl
@[simp] theorem State.wr_fresh (a : Nat) (w : Word) : (s.wr a w).fresh = s.fresh := rfl
@[simp] theorem State.wr_claimed (a : Nat) (w : Word) : (s.wr a w).claimed = s.claimed := rfl
@[simp] theorem State.wr_refused (a : Nat) (w : Word) : (s.wr a w).refused = s.refused := rfl
@[simp] theorem State.wr_read (a : Nat) (w : Word) : (s.wr a w).read = s.read := rfl
@[simp] theorem State.wr_time (a : Nat) (w : Word) : (s.wr a w).time = s.time := rfl
@[simp] theorem State.wr_hold (a : Nat) (w : Word) : (s.wr a w).hold = s.hold := rfl
@[simp] theorem State.wr_sched (a : Nat) (w : Word) : (s.wr a w).sched = s.sched := rfl
@[simp] theorem State.wr_host (a : Nat) (w : Word) : (s.wr a w).host = s.host := rfl
@[simp] theorem State.wr_results (a : Nat) (w : Word) : (s.wr a w).results = s.results := rfl
@[simp] theorem State.wr_mem (a : Nat) (w : Word) : (s.wr a w).mem = s.mem := rfl
@[simp] theorem State.wr_cast (a : Nat) (w : Word) : (s.wr a w).cast = s.cast := rfl
@[simp] theorem State.wr_tiles (a : Nat) (w : Word) : (s.wr a w).tiles = s.tiles := rfl
@[simp] theorem State.wr_ctxs (a : Nat) (w : Word) : (s.wr a w).ctxs = s.ctxs := rfl
@[simp] theorem State.wr_sites (a : Nat) (w : Word) : (s.wr a w).sites = s.sites := rfl
@[simp] theorem State.wr_chans (a : Nat) (w : Word) : (s.wr a w).chans = s.chans := rfl
@[simp] theorem State.wr_wfss (a : Nat) (w : Word) : (s.wr a w).wfss = s.wfss := rfl
@[simp] theorem State.wr_awgs (a : Nat) (w : Word) : (s.wr a w).awgs = s.awgs := rfl
@[simp] theorem State.wr_acqs (a : Nat) (w : Word) : (s.wr a w).acqs = s.acqs := rfl
@[simp] theorem State.wr_tdcs (a : Nat) (w : Word) : (s.wr a w).tdcs = s.tdcs := rfl
@[simp] theorem State.wr_slices (a : Nat) (w : Word) : (s.wr a w).slices = s.slices := rfl
@[simp] theorem State.wr_adcs (a : Nat) (w : Word) : (s.wr a w).adcs = s.adcs := rfl
@[simp] theorem State.wr_mons (a : Nat) (w : Word) : (s.wr a w).mons = s.mons := rfl
@[simp] theorem State.wr_trips (a : Nat) (w : Word) : (s.wr a w).trips = s.trips := rfl
@[simp] theorem State.wr_cal (a : Nat) (w : Word) : (s.wr a w).cal = s.cal := rfl
@[simp] theorem State.wr_nv (a : Nat) (w : Word) : (s.wr a w).nv = s.nv := rfl
@[simp] theorem State.wr_loads (a : Nat) (w : Word) : (s.wr a w).loads = s.loads := rfl
@[simp] theorem State.wr_fw (a : Nat) (w : Word) : (s.wr a w).fw = s.fw := rfl
@[simp] theorem State.wr_start (a : Nat) (w : Word) : (s.wr a w).start = s.start := rfl
@[simp] theorem State.wr_way (a : Nat) (w : Word) : (s.wr a w).way = s.way := rfl
@[simp] theorem State.wr_chks (a : Nat) (w : Word) : (s.wr a w).chks = s.chks := rfl
@[simp] theorem State.wr_therm (a : Nat) (w : Word) : (s.wr a w).therm = s.therm := rfl
@[simp] theorem State.wr_cvy (a : Nat) (w : Word) : (s.wr a w).cvy = s.cvy := rfl
@[simp] theorem State.wr_tap (a : Nat) (w : Word) : (s.wr a w).tap = s.tap := rfl
@[simp] theorem State.wr_touch (a : Nat) (w : Word) : (s.wr a w).touch = s.touch := rfl
@[simp] theorem State.wr_yardDown (a : Nat) (w : Word) : (s.wr a w).yardDown = s.yardDown := rfl
@[simp] theorem State.wr_opens (a : Nat) (w : Word) : (s.wr a w).opens = s.opens := rfl

/-! `State.memWrite` -/

@[simp] theorem State.memWrite_pending (a : Nat) (l : List Byte) : (s.memWrite a l).pending = s.pending := rfl
@[simp] theorem State.memWrite_regs (a : Nat) (l : List Byte) : (s.memWrite a l).regs = s.regs := rfl
@[simp] theorem State.memWrite_shadow (a : Nat) (l : List Byte) : (s.memWrite a l).shadow = s.shadow := rfl
@[simp] theorem State.memWrite_shadowNext (a : Nat) (l : List Byte) : (s.memWrite a l).shadowNext = s.shadowNext := rfl
@[simp] theorem State.memWrite_latch (a : Nat) (l : List Byte) : (s.memWrite a l).latch = s.latch := rfl
@[simp] theorem State.memWrite_staged (a : Nat) (l : List Byte) : (s.memWrite a l).staged = s.staged := rfl
@[simp] theorem State.memWrite_fresh (a : Nat) (l : List Byte) : (s.memWrite a l).fresh = s.fresh := rfl
@[simp] theorem State.memWrite_claimed (a : Nat) (l : List Byte) : (s.memWrite a l).claimed = s.claimed := rfl
@[simp] theorem State.memWrite_refused (a : Nat) (l : List Byte) : (s.memWrite a l).refused = s.refused := rfl
@[simp] theorem State.memWrite_read (a : Nat) (l : List Byte) : (s.memWrite a l).read = s.read := rfl
@[simp] theorem State.memWrite_time (a : Nat) (l : List Byte) : (s.memWrite a l).time = s.time := rfl
@[simp] theorem State.memWrite_hold (a : Nat) (l : List Byte) : (s.memWrite a l).hold = s.hold := rfl
@[simp] theorem State.memWrite_sched (a : Nat) (l : List Byte) : (s.memWrite a l).sched = s.sched := rfl
@[simp] theorem State.memWrite_host (a : Nat) (l : List Byte) : (s.memWrite a l).host = s.host := rfl
@[simp] theorem State.memWrite_results (a : Nat) (l : List Byte) : (s.memWrite a l).results = s.results := rfl
@[simp] theorem State.memWrite_cast (a : Nat) (l : List Byte) : (s.memWrite a l).cast = s.cast := rfl
@[simp] theorem State.memWrite_tiles (a : Nat) (l : List Byte) : (s.memWrite a l).tiles = s.tiles := rfl
@[simp] theorem State.memWrite_ctxs (a : Nat) (l : List Byte) : (s.memWrite a l).ctxs = s.ctxs := rfl
@[simp] theorem State.memWrite_sites (a : Nat) (l : List Byte) : (s.memWrite a l).sites = s.sites := rfl
@[simp] theorem State.memWrite_chans (a : Nat) (l : List Byte) : (s.memWrite a l).chans = s.chans := rfl
@[simp] theorem State.memWrite_wfss (a : Nat) (l : List Byte) : (s.memWrite a l).wfss = s.wfss := rfl
@[simp] theorem State.memWrite_awgs (a : Nat) (l : List Byte) : (s.memWrite a l).awgs = s.awgs := rfl
@[simp] theorem State.memWrite_acqs (a : Nat) (l : List Byte) : (s.memWrite a l).acqs = s.acqs := rfl
@[simp] theorem State.memWrite_tdcs (a : Nat) (l : List Byte) : (s.memWrite a l).tdcs = s.tdcs := rfl
@[simp] theorem State.memWrite_slices (a : Nat) (l : List Byte) : (s.memWrite a l).slices = s.slices := rfl
@[simp] theorem State.memWrite_adcs (a : Nat) (l : List Byte) : (s.memWrite a l).adcs = s.adcs := rfl
@[simp] theorem State.memWrite_mons (a : Nat) (l : List Byte) : (s.memWrite a l).mons = s.mons := rfl
@[simp] theorem State.memWrite_trips (a : Nat) (l : List Byte) : (s.memWrite a l).trips = s.trips := rfl
@[simp] theorem State.memWrite_cal (a : Nat) (l : List Byte) : (s.memWrite a l).cal = s.cal := rfl
@[simp] theorem State.memWrite_nv (a : Nat) (l : List Byte) : (s.memWrite a l).nv = s.nv := rfl
@[simp] theorem State.memWrite_loads (a : Nat) (l : List Byte) : (s.memWrite a l).loads = s.loads := rfl
@[simp] theorem State.memWrite_fw (a : Nat) (l : List Byte) : (s.memWrite a l).fw = s.fw := rfl
@[simp] theorem State.memWrite_start (a : Nat) (l : List Byte) : (s.memWrite a l).start = s.start := rfl
@[simp] theorem State.memWrite_way (a : Nat) (l : List Byte) : (s.memWrite a l).way = s.way := rfl
@[simp] theorem State.memWrite_chks (a : Nat) (l : List Byte) : (s.memWrite a l).chks = s.chks := rfl
@[simp] theorem State.memWrite_therm (a : Nat) (l : List Byte) : (s.memWrite a l).therm = s.therm := rfl
@[simp] theorem State.memWrite_cvy (a : Nat) (l : List Byte) : (s.memWrite a l).cvy = s.cvy := rfl
@[simp] theorem State.memWrite_tap (a : Nat) (l : List Byte) : (s.memWrite a l).tap = s.tap := rfl
@[simp] theorem State.memWrite_touch (a : Nat) (l : List Byte) : (s.memWrite a l).touch = s.touch := rfl
@[simp] theorem State.memWrite_yardDown (a : Nat) (l : List Byte) : (s.memWrite a l).yardDown = s.yardDown := rfl
@[simp] theorem State.memWrite_opens (a : Nat) (l : List Byte) : (s.memWrite a l).opens = s.opens := rfl

/-! `State.hostWrite` -/

@[simp] theorem State.hostWrite_pending (a : Nat) (l : List Byte) : (s.hostWrite a l).pending = s.pending := rfl
@[simp] theorem State.hostWrite_regs (a : Nat) (l : List Byte) : (s.hostWrite a l).regs = s.regs := rfl
@[simp] theorem State.hostWrite_shadow (a : Nat) (l : List Byte) : (s.hostWrite a l).shadow = s.shadow := rfl
@[simp] theorem State.hostWrite_shadowNext (a : Nat) (l : List Byte) : (s.hostWrite a l).shadowNext = s.shadowNext := rfl
@[simp] theorem State.hostWrite_latch (a : Nat) (l : List Byte) : (s.hostWrite a l).latch = s.latch := rfl
@[simp] theorem State.hostWrite_staged (a : Nat) (l : List Byte) : (s.hostWrite a l).staged = s.staged := rfl
@[simp] theorem State.hostWrite_fresh (a : Nat) (l : List Byte) : (s.hostWrite a l).fresh = s.fresh := rfl
@[simp] theorem State.hostWrite_claimed (a : Nat) (l : List Byte) : (s.hostWrite a l).claimed = s.claimed := rfl
@[simp] theorem State.hostWrite_refused (a : Nat) (l : List Byte) : (s.hostWrite a l).refused = s.refused := rfl
@[simp] theorem State.hostWrite_read (a : Nat) (l : List Byte) : (s.hostWrite a l).read = s.read := rfl
@[simp] theorem State.hostWrite_time (a : Nat) (l : List Byte) : (s.hostWrite a l).time = s.time := rfl
@[simp] theorem State.hostWrite_hold (a : Nat) (l : List Byte) : (s.hostWrite a l).hold = s.hold := rfl
@[simp] theorem State.hostWrite_sched (a : Nat) (l : List Byte) : (s.hostWrite a l).sched = s.sched := rfl
@[simp] theorem State.hostWrite_results (a : Nat) (l : List Byte) : (s.hostWrite a l).results = s.results := rfl
@[simp] theorem State.hostWrite_mem (a : Nat) (l : List Byte) : (s.hostWrite a l).mem = s.mem := rfl
@[simp] theorem State.hostWrite_cast (a : Nat) (l : List Byte) : (s.hostWrite a l).cast = s.cast := rfl
@[simp] theorem State.hostWrite_tiles (a : Nat) (l : List Byte) : (s.hostWrite a l).tiles = s.tiles := rfl
@[simp] theorem State.hostWrite_ctxs (a : Nat) (l : List Byte) : (s.hostWrite a l).ctxs = s.ctxs := rfl
@[simp] theorem State.hostWrite_sites (a : Nat) (l : List Byte) : (s.hostWrite a l).sites = s.sites := rfl
@[simp] theorem State.hostWrite_chans (a : Nat) (l : List Byte) : (s.hostWrite a l).chans = s.chans := rfl
@[simp] theorem State.hostWrite_wfss (a : Nat) (l : List Byte) : (s.hostWrite a l).wfss = s.wfss := rfl
@[simp] theorem State.hostWrite_awgs (a : Nat) (l : List Byte) : (s.hostWrite a l).awgs = s.awgs := rfl
@[simp] theorem State.hostWrite_acqs (a : Nat) (l : List Byte) : (s.hostWrite a l).acqs = s.acqs := rfl
@[simp] theorem State.hostWrite_tdcs (a : Nat) (l : List Byte) : (s.hostWrite a l).tdcs = s.tdcs := rfl
@[simp] theorem State.hostWrite_slices (a : Nat) (l : List Byte) : (s.hostWrite a l).slices = s.slices := rfl
@[simp] theorem State.hostWrite_adcs (a : Nat) (l : List Byte) : (s.hostWrite a l).adcs = s.adcs := rfl
@[simp] theorem State.hostWrite_mons (a : Nat) (l : List Byte) : (s.hostWrite a l).mons = s.mons := rfl
@[simp] theorem State.hostWrite_trips (a : Nat) (l : List Byte) : (s.hostWrite a l).trips = s.trips := rfl
@[simp] theorem State.hostWrite_cal (a : Nat) (l : List Byte) : (s.hostWrite a l).cal = s.cal := rfl
@[simp] theorem State.hostWrite_nv (a : Nat) (l : List Byte) : (s.hostWrite a l).nv = s.nv := rfl
@[simp] theorem State.hostWrite_loads (a : Nat) (l : List Byte) : (s.hostWrite a l).loads = s.loads := rfl
@[simp] theorem State.hostWrite_fw (a : Nat) (l : List Byte) : (s.hostWrite a l).fw = s.fw := rfl
@[simp] theorem State.hostWrite_start (a : Nat) (l : List Byte) : (s.hostWrite a l).start = s.start := rfl
@[simp] theorem State.hostWrite_way (a : Nat) (l : List Byte) : (s.hostWrite a l).way = s.way := rfl
@[simp] theorem State.hostWrite_chks (a : Nat) (l : List Byte) : (s.hostWrite a l).chks = s.chks := rfl
@[simp] theorem State.hostWrite_therm (a : Nat) (l : List Byte) : (s.hostWrite a l).therm = s.therm := rfl
@[simp] theorem State.hostWrite_cvy (a : Nat) (l : List Byte) : (s.hostWrite a l).cvy = s.cvy := rfl
@[simp] theorem State.hostWrite_tap (a : Nat) (l : List Byte) : (s.hostWrite a l).tap = s.tap := rfl
@[simp] theorem State.hostWrite_touch (a : Nat) (l : List Byte) : (s.hostWrite a l).touch = s.touch := rfl
@[simp] theorem State.hostWrite_yardDown (a : Nat) (l : List Byte) : (s.hostWrite a l).yardDown = s.yardDown := rfl
@[simp] theorem State.hostWrite_opens (a : Nat) (l : List Byte) : (s.hostWrite a l).opens = s.opens := rfl

/-! `State.setQueue` -/

@[simp] theorem State.setQueue_pending (a : Nat) (q : ResQueue) : (s.setQueue a q).pending = s.pending := rfl
@[simp] theorem State.setQueue_regs (a : Nat) (q : ResQueue) : (s.setQueue a q).regs = s.regs := rfl
@[simp] theorem State.setQueue_shadow (a : Nat) (q : ResQueue) : (s.setQueue a q).shadow = s.shadow := rfl
@[simp] theorem State.setQueue_shadowNext (a : Nat) (q : ResQueue) : (s.setQueue a q).shadowNext = s.shadowNext := rfl
@[simp] theorem State.setQueue_latch (a : Nat) (q : ResQueue) : (s.setQueue a q).latch = s.latch := rfl
@[simp] theorem State.setQueue_staged (a : Nat) (q : ResQueue) : (s.setQueue a q).staged = s.staged := rfl
@[simp] theorem State.setQueue_fresh (a : Nat) (q : ResQueue) : (s.setQueue a q).fresh = s.fresh := rfl
@[simp] theorem State.setQueue_claimed (a : Nat) (q : ResQueue) : (s.setQueue a q).claimed = s.claimed := rfl
@[simp] theorem State.setQueue_refused (a : Nat) (q : ResQueue) : (s.setQueue a q).refused = s.refused := rfl
@[simp] theorem State.setQueue_read (a : Nat) (q : ResQueue) : (s.setQueue a q).read = s.read := rfl
@[simp] theorem State.setQueue_time (a : Nat) (q : ResQueue) : (s.setQueue a q).time = s.time := rfl
@[simp] theorem State.setQueue_hold (a : Nat) (q : ResQueue) : (s.setQueue a q).hold = s.hold := rfl
@[simp] theorem State.setQueue_sched (a : Nat) (q : ResQueue) : (s.setQueue a q).sched = s.sched := rfl
@[simp] theorem State.setQueue_host (a : Nat) (q : ResQueue) : (s.setQueue a q).host = s.host := rfl
@[simp] theorem State.setQueue_mem (a : Nat) (q : ResQueue) : (s.setQueue a q).mem = s.mem := rfl
@[simp] theorem State.setQueue_cast (a : Nat) (q : ResQueue) : (s.setQueue a q).cast = s.cast := rfl
@[simp] theorem State.setQueue_tiles (a : Nat) (q : ResQueue) : (s.setQueue a q).tiles = s.tiles := rfl
@[simp] theorem State.setQueue_ctxs (a : Nat) (q : ResQueue) : (s.setQueue a q).ctxs = s.ctxs := rfl
@[simp] theorem State.setQueue_sites (a : Nat) (q : ResQueue) : (s.setQueue a q).sites = s.sites := rfl
@[simp] theorem State.setQueue_chans (a : Nat) (q : ResQueue) : (s.setQueue a q).chans = s.chans := rfl
@[simp] theorem State.setQueue_wfss (a : Nat) (q : ResQueue) : (s.setQueue a q).wfss = s.wfss := rfl
@[simp] theorem State.setQueue_awgs (a : Nat) (q : ResQueue) : (s.setQueue a q).awgs = s.awgs := rfl
@[simp] theorem State.setQueue_acqs (a : Nat) (q : ResQueue) : (s.setQueue a q).acqs = s.acqs := rfl
@[simp] theorem State.setQueue_tdcs (a : Nat) (q : ResQueue) : (s.setQueue a q).tdcs = s.tdcs := rfl
@[simp] theorem State.setQueue_slices (a : Nat) (q : ResQueue) : (s.setQueue a q).slices = s.slices := rfl
@[simp] theorem State.setQueue_adcs (a : Nat) (q : ResQueue) : (s.setQueue a q).adcs = s.adcs := rfl
@[simp] theorem State.setQueue_mons (a : Nat) (q : ResQueue) : (s.setQueue a q).mons = s.mons := rfl
@[simp] theorem State.setQueue_trips (a : Nat) (q : ResQueue) : (s.setQueue a q).trips = s.trips := rfl
@[simp] theorem State.setQueue_cal (a : Nat) (q : ResQueue) : (s.setQueue a q).cal = s.cal := rfl
@[simp] theorem State.setQueue_nv (a : Nat) (q : ResQueue) : (s.setQueue a q).nv = s.nv := rfl
@[simp] theorem State.setQueue_loads (a : Nat) (q : ResQueue) : (s.setQueue a q).loads = s.loads := rfl
@[simp] theorem State.setQueue_fw (a : Nat) (q : ResQueue) : (s.setQueue a q).fw = s.fw := rfl
@[simp] theorem State.setQueue_start (a : Nat) (q : ResQueue) : (s.setQueue a q).start = s.start := rfl
@[simp] theorem State.setQueue_way (a : Nat) (q : ResQueue) : (s.setQueue a q).way = s.way := rfl
@[simp] theorem State.setQueue_chks (a : Nat) (q : ResQueue) : (s.setQueue a q).chks = s.chks := rfl
@[simp] theorem State.setQueue_therm (a : Nat) (q : ResQueue) : (s.setQueue a q).therm = s.therm := rfl
@[simp] theorem State.setQueue_cvy (a : Nat) (q : ResQueue) : (s.setQueue a q).cvy = s.cvy := rfl
@[simp] theorem State.setQueue_tap (a : Nat) (q : ResQueue) : (s.setQueue a q).tap = s.tap := rfl
@[simp] theorem State.setQueue_touch (a : Nat) (q : ResQueue) : (s.setQueue a q).touch = s.touch := rfl
@[simp] theorem State.setQueue_yardDown (a : Nat) (q : ResQueue) : (s.setQueue a q).yardDown = s.yardDown := rfl
@[simp] theorem State.setQueue_opens (a : Nat) (q : ResQueue) : (s.setQueue a q).opens = s.opens := rfl

/-! `State.irqUrgent` -/

@[simp] theorem State.irqUrgent_pending : (s.irqUrgent).pending = s.pending := rfl
@[simp] theorem State.irqUrgent_regs : (s.irqUrgent).regs = s.regs := rfl
@[simp] theorem State.irqUrgent_shadow : (s.irqUrgent).shadow = s.shadow := rfl
@[simp] theorem State.irqUrgent_shadowNext : (s.irqUrgent).shadowNext = s.shadowNext := rfl
@[simp] theorem State.irqUrgent_latch : (s.irqUrgent).latch = s.latch := rfl
@[simp] theorem State.irqUrgent_staged : (s.irqUrgent).staged = s.staged := rfl
@[simp] theorem State.irqUrgent_fresh : (s.irqUrgent).fresh = s.fresh := rfl
@[simp] theorem State.irqUrgent_claimed : (s.irqUrgent).claimed = s.claimed := rfl
@[simp] theorem State.irqUrgent_refused : (s.irqUrgent).refused = s.refused := rfl
@[simp] theorem State.irqUrgent_read : (s.irqUrgent).read = s.read := rfl
@[simp] theorem State.irqUrgent_time : (s.irqUrgent).time = s.time := rfl
@[simp] theorem State.irqUrgent_hold : (s.irqUrgent).hold = s.hold := rfl
@[simp] theorem State.irqUrgent_sched : (s.irqUrgent).sched = s.sched := rfl
@[simp] theorem State.irqUrgent_results : (s.irqUrgent).results = s.results := rfl
@[simp] theorem State.irqUrgent_mem : (s.irqUrgent).mem = s.mem := rfl
@[simp] theorem State.irqUrgent_cast : (s.irqUrgent).cast = s.cast := rfl
@[simp] theorem State.irqUrgent_tiles : (s.irqUrgent).tiles = s.tiles := rfl
@[simp] theorem State.irqUrgent_ctxs : (s.irqUrgent).ctxs = s.ctxs := rfl
@[simp] theorem State.irqUrgent_sites : (s.irqUrgent).sites = s.sites := rfl
@[simp] theorem State.irqUrgent_chans : (s.irqUrgent).chans = s.chans := rfl
@[simp] theorem State.irqUrgent_wfss : (s.irqUrgent).wfss = s.wfss := rfl
@[simp] theorem State.irqUrgent_awgs : (s.irqUrgent).awgs = s.awgs := rfl
@[simp] theorem State.irqUrgent_acqs : (s.irqUrgent).acqs = s.acqs := rfl
@[simp] theorem State.irqUrgent_tdcs : (s.irqUrgent).tdcs = s.tdcs := rfl
@[simp] theorem State.irqUrgent_slices : (s.irqUrgent).slices = s.slices := rfl
@[simp] theorem State.irqUrgent_adcs : (s.irqUrgent).adcs = s.adcs := rfl
@[simp] theorem State.irqUrgent_mons : (s.irqUrgent).mons = s.mons := rfl
@[simp] theorem State.irqUrgent_trips : (s.irqUrgent).trips = s.trips := rfl
@[simp] theorem State.irqUrgent_cal : (s.irqUrgent).cal = s.cal := rfl
@[simp] theorem State.irqUrgent_nv : (s.irqUrgent).nv = s.nv := rfl
@[simp] theorem State.irqUrgent_loads : (s.irqUrgent).loads = s.loads := rfl
@[simp] theorem State.irqUrgent_fw : (s.irqUrgent).fw = s.fw := rfl
@[simp] theorem State.irqUrgent_start : (s.irqUrgent).start = s.start := rfl
@[simp] theorem State.irqUrgent_way : (s.irqUrgent).way = s.way := rfl
@[simp] theorem State.irqUrgent_chks : (s.irqUrgent).chks = s.chks := rfl
@[simp] theorem State.irqUrgent_therm : (s.irqUrgent).therm = s.therm := rfl
@[simp] theorem State.irqUrgent_cvy : (s.irqUrgent).cvy = s.cvy := rfl
@[simp] theorem State.irqUrgent_tap : (s.irqUrgent).tap = s.tap := rfl
@[simp] theorem State.irqUrgent_touch : (s.irqUrgent).touch = s.touch := rfl
@[simp] theorem State.irqUrgent_yardDown : (s.irqUrgent).yardDown = s.yardDown := rfl
@[simp] theorem State.irqUrgent_opens : (s.irqUrgent).opens = s.opens := rfl

/-! `State.refuse` -/

@[simp] theorem State.refuse_pending (a c : Nat) : (s.refuse a c).pending = s.pending := rfl
@[simp] theorem State.refuse_regs (a c : Nat) : (s.refuse a c).regs = s.regs := rfl
@[simp] theorem State.refuse_shadow (a c : Nat) : (s.refuse a c).shadow = s.shadow := rfl
@[simp] theorem State.refuse_shadowNext (a c : Nat) : (s.refuse a c).shadowNext = s.shadowNext := rfl
@[simp] theorem State.refuse_latch (a c : Nat) : (s.refuse a c).latch = s.latch := rfl
@[simp] theorem State.refuse_staged (a c : Nat) : (s.refuse a c).staged = s.staged := rfl
@[simp] theorem State.refuse_fresh (a c : Nat) : (s.refuse a c).fresh = s.fresh := rfl
@[simp] theorem State.refuse_claimed (a c : Nat) : (s.refuse a c).claimed = s.claimed := rfl
@[simp] theorem State.refuse_read (a c : Nat) : (s.refuse a c).read = s.read := rfl
@[simp] theorem State.refuse_time (a c : Nat) : (s.refuse a c).time = s.time := rfl
@[simp] theorem State.refuse_hold (a c : Nat) : (s.refuse a c).hold = s.hold := rfl
@[simp] theorem State.refuse_sched (a c : Nat) : (s.refuse a c).sched = s.sched := rfl
@[simp] theorem State.refuse_host (a c : Nat) : (s.refuse a c).host = s.host := rfl
@[simp] theorem State.refuse_results (a c : Nat) : (s.refuse a c).results = s.results := rfl
@[simp] theorem State.refuse_mem (a c : Nat) : (s.refuse a c).mem = s.mem := rfl
@[simp] theorem State.refuse_cast (a c : Nat) : (s.refuse a c).cast = s.cast := rfl
@[simp] theorem State.refuse_tiles (a c : Nat) : (s.refuse a c).tiles = s.tiles := rfl
@[simp] theorem State.refuse_ctxs (a c : Nat) : (s.refuse a c).ctxs = s.ctxs := rfl
@[simp] theorem State.refuse_sites (a c : Nat) : (s.refuse a c).sites = s.sites := rfl
@[simp] theorem State.refuse_chans (a c : Nat) : (s.refuse a c).chans = s.chans := rfl
@[simp] theorem State.refuse_wfss (a c : Nat) : (s.refuse a c).wfss = s.wfss := rfl
@[simp] theorem State.refuse_awgs (a c : Nat) : (s.refuse a c).awgs = s.awgs := rfl
@[simp] theorem State.refuse_acqs (a c : Nat) : (s.refuse a c).acqs = s.acqs := rfl
@[simp] theorem State.refuse_tdcs (a c : Nat) : (s.refuse a c).tdcs = s.tdcs := rfl
@[simp] theorem State.refuse_slices (a c : Nat) : (s.refuse a c).slices = s.slices := rfl
@[simp] theorem State.refuse_adcs (a c : Nat) : (s.refuse a c).adcs = s.adcs := rfl
@[simp] theorem State.refuse_mons (a c : Nat) : (s.refuse a c).mons = s.mons := rfl
@[simp] theorem State.refuse_trips (a c : Nat) : (s.refuse a c).trips = s.trips := rfl
@[simp] theorem State.refuse_cal (a c : Nat) : (s.refuse a c).cal = s.cal := rfl
@[simp] theorem State.refuse_nv (a c : Nat) : (s.refuse a c).nv = s.nv := rfl
@[simp] theorem State.refuse_loads (a c : Nat) : (s.refuse a c).loads = s.loads := rfl
@[simp] theorem State.refuse_fw (a c : Nat) : (s.refuse a c).fw = s.fw := rfl
@[simp] theorem State.refuse_start (a c : Nat) : (s.refuse a c).start = s.start := rfl
@[simp] theorem State.refuse_way (a c : Nat) : (s.refuse a c).way = s.way := rfl
@[simp] theorem State.refuse_chks (a c : Nat) : (s.refuse a c).chks = s.chks := rfl
@[simp] theorem State.refuse_therm (a c : Nat) : (s.refuse a c).therm = s.therm := rfl
@[simp] theorem State.refuse_cvy (a c : Nat) : (s.refuse a c).cvy = s.cvy := rfl
@[simp] theorem State.refuse_tap (a c : Nat) : (s.refuse a c).tap = s.tap := rfl
@[simp] theorem State.refuse_touch (a c : Nat) : (s.refuse a c).touch = s.touch := rfl
@[simp] theorem State.refuse_yardDown (a c : Nat) : (s.refuse a c).yardDown = s.yardDown := rfl
@[simp] theorem State.refuse_opens (a c : Nat) : (s.refuse a c).opens = s.opens := rfl

/-! `State.setWfs` -/

@[simp] theorem State.setWfs_pending (u : Nat) (x : Wfs) : (s.setWfs u x).pending = s.pending := rfl
@[simp] theorem State.setWfs_regs (u : Nat) (x : Wfs) : (s.setWfs u x).regs = s.regs := rfl
@[simp] theorem State.setWfs_shadow (u : Nat) (x : Wfs) : (s.setWfs u x).shadow = s.shadow := rfl
@[simp] theorem State.setWfs_shadowNext (u : Nat) (x : Wfs) : (s.setWfs u x).shadowNext = s.shadowNext := rfl
@[simp] theorem State.setWfs_latch (u : Nat) (x : Wfs) : (s.setWfs u x).latch = s.latch := rfl
@[simp] theorem State.setWfs_staged (u : Nat) (x : Wfs) : (s.setWfs u x).staged = s.staged := rfl
@[simp] theorem State.setWfs_fresh (u : Nat) (x : Wfs) : (s.setWfs u x).fresh = s.fresh := rfl
@[simp] theorem State.setWfs_claimed (u : Nat) (x : Wfs) : (s.setWfs u x).claimed = s.claimed := rfl
@[simp] theorem State.setWfs_refused (u : Nat) (x : Wfs) : (s.setWfs u x).refused = s.refused := rfl
@[simp] theorem State.setWfs_read (u : Nat) (x : Wfs) : (s.setWfs u x).read = s.read := rfl
@[simp] theorem State.setWfs_time (u : Nat) (x : Wfs) : (s.setWfs u x).time = s.time := rfl
@[simp] theorem State.setWfs_hold (u : Nat) (x : Wfs) : (s.setWfs u x).hold = s.hold := rfl
@[simp] theorem State.setWfs_sched (u : Nat) (x : Wfs) : (s.setWfs u x).sched = s.sched := rfl
@[simp] theorem State.setWfs_host (u : Nat) (x : Wfs) : (s.setWfs u x).host = s.host := rfl
@[simp] theorem State.setWfs_results (u : Nat) (x : Wfs) : (s.setWfs u x).results = s.results := rfl
@[simp] theorem State.setWfs_mem (u : Nat) (x : Wfs) : (s.setWfs u x).mem = s.mem := rfl
@[simp] theorem State.setWfs_cast (u : Nat) (x : Wfs) : (s.setWfs u x).cast = s.cast := rfl
@[simp] theorem State.setWfs_tiles (u : Nat) (x : Wfs) : (s.setWfs u x).tiles = s.tiles := rfl
@[simp] theorem State.setWfs_ctxs (u : Nat) (x : Wfs) : (s.setWfs u x).ctxs = s.ctxs := rfl
@[simp] theorem State.setWfs_sites (u : Nat) (x : Wfs) : (s.setWfs u x).sites = s.sites := rfl
@[simp] theorem State.setWfs_chans (u : Nat) (x : Wfs) : (s.setWfs u x).chans = s.chans := rfl
@[simp] theorem State.setWfs_awgs (u : Nat) (x : Wfs) : (s.setWfs u x).awgs = s.awgs := rfl
@[simp] theorem State.setWfs_acqs (u : Nat) (x : Wfs) : (s.setWfs u x).acqs = s.acqs := rfl
@[simp] theorem State.setWfs_tdcs (u : Nat) (x : Wfs) : (s.setWfs u x).tdcs = s.tdcs := rfl
@[simp] theorem State.setWfs_slices (u : Nat) (x : Wfs) : (s.setWfs u x).slices = s.slices := rfl
@[simp] theorem State.setWfs_adcs (u : Nat) (x : Wfs) : (s.setWfs u x).adcs = s.adcs := rfl
@[simp] theorem State.setWfs_mons (u : Nat) (x : Wfs) : (s.setWfs u x).mons = s.mons := rfl
@[simp] theorem State.setWfs_trips (u : Nat) (x : Wfs) : (s.setWfs u x).trips = s.trips := rfl
@[simp] theorem State.setWfs_cal (u : Nat) (x : Wfs) : (s.setWfs u x).cal = s.cal := rfl
@[simp] theorem State.setWfs_nv (u : Nat) (x : Wfs) : (s.setWfs u x).nv = s.nv := rfl
@[simp] theorem State.setWfs_loads (u : Nat) (x : Wfs) : (s.setWfs u x).loads = s.loads := rfl
@[simp] theorem State.setWfs_fw (u : Nat) (x : Wfs) : (s.setWfs u x).fw = s.fw := rfl
@[simp] theorem State.setWfs_start (u : Nat) (x : Wfs) : (s.setWfs u x).start = s.start := rfl
@[simp] theorem State.setWfs_way (u : Nat) (x : Wfs) : (s.setWfs u x).way = s.way := rfl
@[simp] theorem State.setWfs_chks (u : Nat) (x : Wfs) : (s.setWfs u x).chks = s.chks := rfl
@[simp] theorem State.setWfs_therm (u : Nat) (x : Wfs) : (s.setWfs u x).therm = s.therm := rfl
@[simp] theorem State.setWfs_cvy (u : Nat) (x : Wfs) : (s.setWfs u x).cvy = s.cvy := rfl
@[simp] theorem State.setWfs_tap (u : Nat) (x : Wfs) : (s.setWfs u x).tap = s.tap := rfl
@[simp] theorem State.setWfs_touch (u : Nat) (x : Wfs) : (s.setWfs u x).touch = s.touch := rfl
@[simp] theorem State.setWfs_yardDown (u : Nat) (x : Wfs) : (s.setWfs u x).yardDown = s.yardDown := rfl
@[simp] theorem State.setWfs_opens (u : Nat) (x : Wfs) : (s.setWfs u x).opens = s.opens := rfl

/-! `State.setAwg` -/

@[simp] theorem State.setAwg_pending (u : Nat) (x : Awg) : (s.setAwg u x).pending = s.pending := rfl
@[simp] theorem State.setAwg_regs (u : Nat) (x : Awg) : (s.setAwg u x).regs = s.regs := rfl
@[simp] theorem State.setAwg_shadow (u : Nat) (x : Awg) : (s.setAwg u x).shadow = s.shadow := rfl
@[simp] theorem State.setAwg_shadowNext (u : Nat) (x : Awg) : (s.setAwg u x).shadowNext = s.shadowNext := rfl
@[simp] theorem State.setAwg_latch (u : Nat) (x : Awg) : (s.setAwg u x).latch = s.latch := rfl
@[simp] theorem State.setAwg_staged (u : Nat) (x : Awg) : (s.setAwg u x).staged = s.staged := rfl
@[simp] theorem State.setAwg_fresh (u : Nat) (x : Awg) : (s.setAwg u x).fresh = s.fresh := rfl
@[simp] theorem State.setAwg_claimed (u : Nat) (x : Awg) : (s.setAwg u x).claimed = s.claimed := rfl
@[simp] theorem State.setAwg_refused (u : Nat) (x : Awg) : (s.setAwg u x).refused = s.refused := rfl
@[simp] theorem State.setAwg_read (u : Nat) (x : Awg) : (s.setAwg u x).read = s.read := rfl
@[simp] theorem State.setAwg_time (u : Nat) (x : Awg) : (s.setAwg u x).time = s.time := rfl
@[simp] theorem State.setAwg_hold (u : Nat) (x : Awg) : (s.setAwg u x).hold = s.hold := rfl
@[simp] theorem State.setAwg_sched (u : Nat) (x : Awg) : (s.setAwg u x).sched = s.sched := rfl
@[simp] theorem State.setAwg_host (u : Nat) (x : Awg) : (s.setAwg u x).host = s.host := rfl
@[simp] theorem State.setAwg_results (u : Nat) (x : Awg) : (s.setAwg u x).results = s.results := rfl
@[simp] theorem State.setAwg_mem (u : Nat) (x : Awg) : (s.setAwg u x).mem = s.mem := rfl
@[simp] theorem State.setAwg_cast (u : Nat) (x : Awg) : (s.setAwg u x).cast = s.cast := rfl
@[simp] theorem State.setAwg_tiles (u : Nat) (x : Awg) : (s.setAwg u x).tiles = s.tiles := rfl
@[simp] theorem State.setAwg_ctxs (u : Nat) (x : Awg) : (s.setAwg u x).ctxs = s.ctxs := rfl
@[simp] theorem State.setAwg_sites (u : Nat) (x : Awg) : (s.setAwg u x).sites = s.sites := rfl
@[simp] theorem State.setAwg_chans (u : Nat) (x : Awg) : (s.setAwg u x).chans = s.chans := rfl
@[simp] theorem State.setAwg_wfss (u : Nat) (x : Awg) : (s.setAwg u x).wfss = s.wfss := rfl
@[simp] theorem State.setAwg_acqs (u : Nat) (x : Awg) : (s.setAwg u x).acqs = s.acqs := rfl
@[simp] theorem State.setAwg_tdcs (u : Nat) (x : Awg) : (s.setAwg u x).tdcs = s.tdcs := rfl
@[simp] theorem State.setAwg_slices (u : Nat) (x : Awg) : (s.setAwg u x).slices = s.slices := rfl
@[simp] theorem State.setAwg_adcs (u : Nat) (x : Awg) : (s.setAwg u x).adcs = s.adcs := rfl
@[simp] theorem State.setAwg_mons (u : Nat) (x : Awg) : (s.setAwg u x).mons = s.mons := rfl
@[simp] theorem State.setAwg_trips (u : Nat) (x : Awg) : (s.setAwg u x).trips = s.trips := rfl
@[simp] theorem State.setAwg_cal (u : Nat) (x : Awg) : (s.setAwg u x).cal = s.cal := rfl
@[simp] theorem State.setAwg_nv (u : Nat) (x : Awg) : (s.setAwg u x).nv = s.nv := rfl
@[simp] theorem State.setAwg_loads (u : Nat) (x : Awg) : (s.setAwg u x).loads = s.loads := rfl
@[simp] theorem State.setAwg_fw (u : Nat) (x : Awg) : (s.setAwg u x).fw = s.fw := rfl
@[simp] theorem State.setAwg_start (u : Nat) (x : Awg) : (s.setAwg u x).start = s.start := rfl
@[simp] theorem State.setAwg_way (u : Nat) (x : Awg) : (s.setAwg u x).way = s.way := rfl
@[simp] theorem State.setAwg_chks (u : Nat) (x : Awg) : (s.setAwg u x).chks = s.chks := rfl
@[simp] theorem State.setAwg_therm (u : Nat) (x : Awg) : (s.setAwg u x).therm = s.therm := rfl
@[simp] theorem State.setAwg_cvy (u : Nat) (x : Awg) : (s.setAwg u x).cvy = s.cvy := rfl
@[simp] theorem State.setAwg_tap (u : Nat) (x : Awg) : (s.setAwg u x).tap = s.tap := rfl
@[simp] theorem State.setAwg_touch (u : Nat) (x : Awg) : (s.setAwg u x).touch = s.touch := rfl
@[simp] theorem State.setAwg_yardDown (u : Nat) (x : Awg) : (s.setAwg u x).yardDown = s.yardDown := rfl
@[simp] theorem State.setAwg_opens (u : Nat) (x : Awg) : (s.setAwg u x).opens = s.opens := rfl

/-! `State.setAcq` -/

@[simp] theorem State.setAcq_pending (u : Nat) (x : Acq) : (s.setAcq u x).pending = s.pending := rfl
@[simp] theorem State.setAcq_regs (u : Nat) (x : Acq) : (s.setAcq u x).regs = s.regs := rfl
@[simp] theorem State.setAcq_shadow (u : Nat) (x : Acq) : (s.setAcq u x).shadow = s.shadow := rfl
@[simp] theorem State.setAcq_shadowNext (u : Nat) (x : Acq) : (s.setAcq u x).shadowNext = s.shadowNext := rfl
@[simp] theorem State.setAcq_latch (u : Nat) (x : Acq) : (s.setAcq u x).latch = s.latch := rfl
@[simp] theorem State.setAcq_staged (u : Nat) (x : Acq) : (s.setAcq u x).staged = s.staged := rfl
@[simp] theorem State.setAcq_fresh (u : Nat) (x : Acq) : (s.setAcq u x).fresh = s.fresh := rfl
@[simp] theorem State.setAcq_claimed (u : Nat) (x : Acq) : (s.setAcq u x).claimed = s.claimed := rfl
@[simp] theorem State.setAcq_refused (u : Nat) (x : Acq) : (s.setAcq u x).refused = s.refused := rfl
@[simp] theorem State.setAcq_read (u : Nat) (x : Acq) : (s.setAcq u x).read = s.read := rfl
@[simp] theorem State.setAcq_time (u : Nat) (x : Acq) : (s.setAcq u x).time = s.time := rfl
@[simp] theorem State.setAcq_hold (u : Nat) (x : Acq) : (s.setAcq u x).hold = s.hold := rfl
@[simp] theorem State.setAcq_sched (u : Nat) (x : Acq) : (s.setAcq u x).sched = s.sched := rfl
@[simp] theorem State.setAcq_host (u : Nat) (x : Acq) : (s.setAcq u x).host = s.host := rfl
@[simp] theorem State.setAcq_results (u : Nat) (x : Acq) : (s.setAcq u x).results = s.results := rfl
@[simp] theorem State.setAcq_mem (u : Nat) (x : Acq) : (s.setAcq u x).mem = s.mem := rfl
@[simp] theorem State.setAcq_cast (u : Nat) (x : Acq) : (s.setAcq u x).cast = s.cast := rfl
@[simp] theorem State.setAcq_tiles (u : Nat) (x : Acq) : (s.setAcq u x).tiles = s.tiles := rfl
@[simp] theorem State.setAcq_ctxs (u : Nat) (x : Acq) : (s.setAcq u x).ctxs = s.ctxs := rfl
@[simp] theorem State.setAcq_sites (u : Nat) (x : Acq) : (s.setAcq u x).sites = s.sites := rfl
@[simp] theorem State.setAcq_chans (u : Nat) (x : Acq) : (s.setAcq u x).chans = s.chans := rfl
@[simp] theorem State.setAcq_wfss (u : Nat) (x : Acq) : (s.setAcq u x).wfss = s.wfss := rfl
@[simp] theorem State.setAcq_awgs (u : Nat) (x : Acq) : (s.setAcq u x).awgs = s.awgs := rfl
@[simp] theorem State.setAcq_tdcs (u : Nat) (x : Acq) : (s.setAcq u x).tdcs = s.tdcs := rfl
@[simp] theorem State.setAcq_slices (u : Nat) (x : Acq) : (s.setAcq u x).slices = s.slices := rfl
@[simp] theorem State.setAcq_adcs (u : Nat) (x : Acq) : (s.setAcq u x).adcs = s.adcs := rfl
@[simp] theorem State.setAcq_mons (u : Nat) (x : Acq) : (s.setAcq u x).mons = s.mons := rfl
@[simp] theorem State.setAcq_trips (u : Nat) (x : Acq) : (s.setAcq u x).trips = s.trips := rfl
@[simp] theorem State.setAcq_cal (u : Nat) (x : Acq) : (s.setAcq u x).cal = s.cal := rfl
@[simp] theorem State.setAcq_nv (u : Nat) (x : Acq) : (s.setAcq u x).nv = s.nv := rfl
@[simp] theorem State.setAcq_loads (u : Nat) (x : Acq) : (s.setAcq u x).loads = s.loads := rfl
@[simp] theorem State.setAcq_fw (u : Nat) (x : Acq) : (s.setAcq u x).fw = s.fw := rfl
@[simp] theorem State.setAcq_start (u : Nat) (x : Acq) : (s.setAcq u x).start = s.start := rfl
@[simp] theorem State.setAcq_way (u : Nat) (x : Acq) : (s.setAcq u x).way = s.way := rfl
@[simp] theorem State.setAcq_chks (u : Nat) (x : Acq) : (s.setAcq u x).chks = s.chks := rfl
@[simp] theorem State.setAcq_therm (u : Nat) (x : Acq) : (s.setAcq u x).therm = s.therm := rfl
@[simp] theorem State.setAcq_cvy (u : Nat) (x : Acq) : (s.setAcq u x).cvy = s.cvy := rfl
@[simp] theorem State.setAcq_tap (u : Nat) (x : Acq) : (s.setAcq u x).tap = s.tap := rfl
@[simp] theorem State.setAcq_touch (u : Nat) (x : Acq) : (s.setAcq u x).touch = s.touch := rfl
@[simp] theorem State.setAcq_yardDown (u : Nat) (x : Acq) : (s.setAcq u x).yardDown = s.yardDown := rfl
@[simp] theorem State.setAcq_opens (u : Nat) (x : Acq) : (s.setAcq u x).opens = s.opens := rfl

/-! `State.setTdc` -/

@[simp] theorem State.setTdc_pending (u : Nat) (x : Tdc) : (s.setTdc u x).pending = s.pending := rfl
@[simp] theorem State.setTdc_regs (u : Nat) (x : Tdc) : (s.setTdc u x).regs = s.regs := rfl
@[simp] theorem State.setTdc_shadow (u : Nat) (x : Tdc) : (s.setTdc u x).shadow = s.shadow := rfl
@[simp] theorem State.setTdc_shadowNext (u : Nat) (x : Tdc) : (s.setTdc u x).shadowNext = s.shadowNext := rfl
@[simp] theorem State.setTdc_latch (u : Nat) (x : Tdc) : (s.setTdc u x).latch = s.latch := rfl
@[simp] theorem State.setTdc_staged (u : Nat) (x : Tdc) : (s.setTdc u x).staged = s.staged := rfl
@[simp] theorem State.setTdc_fresh (u : Nat) (x : Tdc) : (s.setTdc u x).fresh = s.fresh := rfl
@[simp] theorem State.setTdc_claimed (u : Nat) (x : Tdc) : (s.setTdc u x).claimed = s.claimed := rfl
@[simp] theorem State.setTdc_refused (u : Nat) (x : Tdc) : (s.setTdc u x).refused = s.refused := rfl
@[simp] theorem State.setTdc_read (u : Nat) (x : Tdc) : (s.setTdc u x).read = s.read := rfl
@[simp] theorem State.setTdc_time (u : Nat) (x : Tdc) : (s.setTdc u x).time = s.time := rfl
@[simp] theorem State.setTdc_hold (u : Nat) (x : Tdc) : (s.setTdc u x).hold = s.hold := rfl
@[simp] theorem State.setTdc_sched (u : Nat) (x : Tdc) : (s.setTdc u x).sched = s.sched := rfl
@[simp] theorem State.setTdc_host (u : Nat) (x : Tdc) : (s.setTdc u x).host = s.host := rfl
@[simp] theorem State.setTdc_results (u : Nat) (x : Tdc) : (s.setTdc u x).results = s.results := rfl
@[simp] theorem State.setTdc_mem (u : Nat) (x : Tdc) : (s.setTdc u x).mem = s.mem := rfl
@[simp] theorem State.setTdc_cast (u : Nat) (x : Tdc) : (s.setTdc u x).cast = s.cast := rfl
@[simp] theorem State.setTdc_tiles (u : Nat) (x : Tdc) : (s.setTdc u x).tiles = s.tiles := rfl
@[simp] theorem State.setTdc_ctxs (u : Nat) (x : Tdc) : (s.setTdc u x).ctxs = s.ctxs := rfl
@[simp] theorem State.setTdc_sites (u : Nat) (x : Tdc) : (s.setTdc u x).sites = s.sites := rfl
@[simp] theorem State.setTdc_chans (u : Nat) (x : Tdc) : (s.setTdc u x).chans = s.chans := rfl
@[simp] theorem State.setTdc_wfss (u : Nat) (x : Tdc) : (s.setTdc u x).wfss = s.wfss := rfl
@[simp] theorem State.setTdc_awgs (u : Nat) (x : Tdc) : (s.setTdc u x).awgs = s.awgs := rfl
@[simp] theorem State.setTdc_acqs (u : Nat) (x : Tdc) : (s.setTdc u x).acqs = s.acqs := rfl
@[simp] theorem State.setTdc_slices (u : Nat) (x : Tdc) : (s.setTdc u x).slices = s.slices := rfl
@[simp] theorem State.setTdc_adcs (u : Nat) (x : Tdc) : (s.setTdc u x).adcs = s.adcs := rfl
@[simp] theorem State.setTdc_mons (u : Nat) (x : Tdc) : (s.setTdc u x).mons = s.mons := rfl
@[simp] theorem State.setTdc_trips (u : Nat) (x : Tdc) : (s.setTdc u x).trips = s.trips := rfl
@[simp] theorem State.setTdc_cal (u : Nat) (x : Tdc) : (s.setTdc u x).cal = s.cal := rfl
@[simp] theorem State.setTdc_nv (u : Nat) (x : Tdc) : (s.setTdc u x).nv = s.nv := rfl
@[simp] theorem State.setTdc_loads (u : Nat) (x : Tdc) : (s.setTdc u x).loads = s.loads := rfl
@[simp] theorem State.setTdc_fw (u : Nat) (x : Tdc) : (s.setTdc u x).fw = s.fw := rfl
@[simp] theorem State.setTdc_start (u : Nat) (x : Tdc) : (s.setTdc u x).start = s.start := rfl
@[simp] theorem State.setTdc_way (u : Nat) (x : Tdc) : (s.setTdc u x).way = s.way := rfl
@[simp] theorem State.setTdc_chks (u : Nat) (x : Tdc) : (s.setTdc u x).chks = s.chks := rfl
@[simp] theorem State.setTdc_therm (u : Nat) (x : Tdc) : (s.setTdc u x).therm = s.therm := rfl
@[simp] theorem State.setTdc_cvy (u : Nat) (x : Tdc) : (s.setTdc u x).cvy = s.cvy := rfl
@[simp] theorem State.setTdc_tap (u : Nat) (x : Tdc) : (s.setTdc u x).tap = s.tap := rfl
@[simp] theorem State.setTdc_touch (u : Nat) (x : Tdc) : (s.setTdc u x).touch = s.touch := rfl
@[simp] theorem State.setTdc_yardDown (u : Nat) (x : Tdc) : (s.setTdc u x).yardDown = s.yardDown := rfl
@[simp] theorem State.setTdc_opens (u : Nat) (x : Tdc) : (s.setTdc u x).opens = s.opens := rfl

/-! `State.setSlice` -/

@[simp] theorem State.setSlice_pending (u : Nat) (x : Slice) : (s.setSlice u x).pending = s.pending := rfl
@[simp] theorem State.setSlice_regs (u : Nat) (x : Slice) : (s.setSlice u x).regs = s.regs := rfl
@[simp] theorem State.setSlice_shadow (u : Nat) (x : Slice) : (s.setSlice u x).shadow = s.shadow := rfl
@[simp] theorem State.setSlice_shadowNext (u : Nat) (x : Slice) : (s.setSlice u x).shadowNext = s.shadowNext := rfl
@[simp] theorem State.setSlice_latch (u : Nat) (x : Slice) : (s.setSlice u x).latch = s.latch := rfl
@[simp] theorem State.setSlice_staged (u : Nat) (x : Slice) : (s.setSlice u x).staged = s.staged := rfl
@[simp] theorem State.setSlice_fresh (u : Nat) (x : Slice) : (s.setSlice u x).fresh = s.fresh := rfl
@[simp] theorem State.setSlice_claimed (u : Nat) (x : Slice) : (s.setSlice u x).claimed = s.claimed := rfl
@[simp] theorem State.setSlice_refused (u : Nat) (x : Slice) : (s.setSlice u x).refused = s.refused := rfl
@[simp] theorem State.setSlice_read (u : Nat) (x : Slice) : (s.setSlice u x).read = s.read := rfl
@[simp] theorem State.setSlice_time (u : Nat) (x : Slice) : (s.setSlice u x).time = s.time := rfl
@[simp] theorem State.setSlice_hold (u : Nat) (x : Slice) : (s.setSlice u x).hold = s.hold := rfl
@[simp] theorem State.setSlice_sched (u : Nat) (x : Slice) : (s.setSlice u x).sched = s.sched := rfl
@[simp] theorem State.setSlice_host (u : Nat) (x : Slice) : (s.setSlice u x).host = s.host := rfl
@[simp] theorem State.setSlice_results (u : Nat) (x : Slice) : (s.setSlice u x).results = s.results := rfl
@[simp] theorem State.setSlice_mem (u : Nat) (x : Slice) : (s.setSlice u x).mem = s.mem := rfl
@[simp] theorem State.setSlice_cast (u : Nat) (x : Slice) : (s.setSlice u x).cast = s.cast := rfl
@[simp] theorem State.setSlice_tiles (u : Nat) (x : Slice) : (s.setSlice u x).tiles = s.tiles := rfl
@[simp] theorem State.setSlice_ctxs (u : Nat) (x : Slice) : (s.setSlice u x).ctxs = s.ctxs := rfl
@[simp] theorem State.setSlice_sites (u : Nat) (x : Slice) : (s.setSlice u x).sites = s.sites := rfl
@[simp] theorem State.setSlice_chans (u : Nat) (x : Slice) : (s.setSlice u x).chans = s.chans := rfl
@[simp] theorem State.setSlice_wfss (u : Nat) (x : Slice) : (s.setSlice u x).wfss = s.wfss := rfl
@[simp] theorem State.setSlice_awgs (u : Nat) (x : Slice) : (s.setSlice u x).awgs = s.awgs := rfl
@[simp] theorem State.setSlice_acqs (u : Nat) (x : Slice) : (s.setSlice u x).acqs = s.acqs := rfl
@[simp] theorem State.setSlice_tdcs (u : Nat) (x : Slice) : (s.setSlice u x).tdcs = s.tdcs := rfl
@[simp] theorem State.setSlice_adcs (u : Nat) (x : Slice) : (s.setSlice u x).adcs = s.adcs := rfl
@[simp] theorem State.setSlice_mons (u : Nat) (x : Slice) : (s.setSlice u x).mons = s.mons := rfl
@[simp] theorem State.setSlice_trips (u : Nat) (x : Slice) : (s.setSlice u x).trips = s.trips := rfl
@[simp] theorem State.setSlice_cal (u : Nat) (x : Slice) : (s.setSlice u x).cal = s.cal := rfl
@[simp] theorem State.setSlice_nv (u : Nat) (x : Slice) : (s.setSlice u x).nv = s.nv := rfl
@[simp] theorem State.setSlice_loads (u : Nat) (x : Slice) : (s.setSlice u x).loads = s.loads := rfl
@[simp] theorem State.setSlice_fw (u : Nat) (x : Slice) : (s.setSlice u x).fw = s.fw := rfl
@[simp] theorem State.setSlice_start (u : Nat) (x : Slice) : (s.setSlice u x).start = s.start := rfl
@[simp] theorem State.setSlice_way (u : Nat) (x : Slice) : (s.setSlice u x).way = s.way := rfl
@[simp] theorem State.setSlice_chks (u : Nat) (x : Slice) : (s.setSlice u x).chks = s.chks := rfl
@[simp] theorem State.setSlice_therm (u : Nat) (x : Slice) : (s.setSlice u x).therm = s.therm := rfl
@[simp] theorem State.setSlice_cvy (u : Nat) (x : Slice) : (s.setSlice u x).cvy = s.cvy := rfl
@[simp] theorem State.setSlice_tap (u : Nat) (x : Slice) : (s.setSlice u x).tap = s.tap := rfl
@[simp] theorem State.setSlice_touch (u : Nat) (x : Slice) : (s.setSlice u x).touch = s.touch := rfl
@[simp] theorem State.setSlice_yardDown (u : Nat) (x : Slice) : (s.setSlice u x).yardDown = s.yardDown := rfl
@[simp] theorem State.setSlice_opens (u : Nat) (x : Slice) : (s.setSlice u x).opens = s.opens := rfl

/-! `State.setAdc` -/

@[simp] theorem State.setAdc_pending (u : Nat) (x : Adc) : (s.setAdc u x).pending = s.pending := rfl
@[simp] theorem State.setAdc_regs (u : Nat) (x : Adc) : (s.setAdc u x).regs = s.regs := rfl
@[simp] theorem State.setAdc_shadow (u : Nat) (x : Adc) : (s.setAdc u x).shadow = s.shadow := rfl
@[simp] theorem State.setAdc_shadowNext (u : Nat) (x : Adc) : (s.setAdc u x).shadowNext = s.shadowNext := rfl
@[simp] theorem State.setAdc_latch (u : Nat) (x : Adc) : (s.setAdc u x).latch = s.latch := rfl
@[simp] theorem State.setAdc_staged (u : Nat) (x : Adc) : (s.setAdc u x).staged = s.staged := rfl
@[simp] theorem State.setAdc_fresh (u : Nat) (x : Adc) : (s.setAdc u x).fresh = s.fresh := rfl
@[simp] theorem State.setAdc_claimed (u : Nat) (x : Adc) : (s.setAdc u x).claimed = s.claimed := rfl
@[simp] theorem State.setAdc_refused (u : Nat) (x : Adc) : (s.setAdc u x).refused = s.refused := rfl
@[simp] theorem State.setAdc_read (u : Nat) (x : Adc) : (s.setAdc u x).read = s.read := rfl
@[simp] theorem State.setAdc_time (u : Nat) (x : Adc) : (s.setAdc u x).time = s.time := rfl
@[simp] theorem State.setAdc_hold (u : Nat) (x : Adc) : (s.setAdc u x).hold = s.hold := rfl
@[simp] theorem State.setAdc_sched (u : Nat) (x : Adc) : (s.setAdc u x).sched = s.sched := rfl
@[simp] theorem State.setAdc_host (u : Nat) (x : Adc) : (s.setAdc u x).host = s.host := rfl
@[simp] theorem State.setAdc_results (u : Nat) (x : Adc) : (s.setAdc u x).results = s.results := rfl
@[simp] theorem State.setAdc_mem (u : Nat) (x : Adc) : (s.setAdc u x).mem = s.mem := rfl
@[simp] theorem State.setAdc_cast (u : Nat) (x : Adc) : (s.setAdc u x).cast = s.cast := rfl
@[simp] theorem State.setAdc_tiles (u : Nat) (x : Adc) : (s.setAdc u x).tiles = s.tiles := rfl
@[simp] theorem State.setAdc_ctxs (u : Nat) (x : Adc) : (s.setAdc u x).ctxs = s.ctxs := rfl
@[simp] theorem State.setAdc_sites (u : Nat) (x : Adc) : (s.setAdc u x).sites = s.sites := rfl
@[simp] theorem State.setAdc_chans (u : Nat) (x : Adc) : (s.setAdc u x).chans = s.chans := rfl
@[simp] theorem State.setAdc_wfss (u : Nat) (x : Adc) : (s.setAdc u x).wfss = s.wfss := rfl
@[simp] theorem State.setAdc_awgs (u : Nat) (x : Adc) : (s.setAdc u x).awgs = s.awgs := rfl
@[simp] theorem State.setAdc_acqs (u : Nat) (x : Adc) : (s.setAdc u x).acqs = s.acqs := rfl
@[simp] theorem State.setAdc_tdcs (u : Nat) (x : Adc) : (s.setAdc u x).tdcs = s.tdcs := rfl
@[simp] theorem State.setAdc_slices (u : Nat) (x : Adc) : (s.setAdc u x).slices = s.slices := rfl
@[simp] theorem State.setAdc_mons (u : Nat) (x : Adc) : (s.setAdc u x).mons = s.mons := rfl
@[simp] theorem State.setAdc_trips (u : Nat) (x : Adc) : (s.setAdc u x).trips = s.trips := rfl
@[simp] theorem State.setAdc_cal (u : Nat) (x : Adc) : (s.setAdc u x).cal = s.cal := rfl
@[simp] theorem State.setAdc_nv (u : Nat) (x : Adc) : (s.setAdc u x).nv = s.nv := rfl
@[simp] theorem State.setAdc_loads (u : Nat) (x : Adc) : (s.setAdc u x).loads = s.loads := rfl
@[simp] theorem State.setAdc_fw (u : Nat) (x : Adc) : (s.setAdc u x).fw = s.fw := rfl
@[simp] theorem State.setAdc_start (u : Nat) (x : Adc) : (s.setAdc u x).start = s.start := rfl
@[simp] theorem State.setAdc_way (u : Nat) (x : Adc) : (s.setAdc u x).way = s.way := rfl
@[simp] theorem State.setAdc_chks (u : Nat) (x : Adc) : (s.setAdc u x).chks = s.chks := rfl
@[simp] theorem State.setAdc_therm (u : Nat) (x : Adc) : (s.setAdc u x).therm = s.therm := rfl
@[simp] theorem State.setAdc_cvy (u : Nat) (x : Adc) : (s.setAdc u x).cvy = s.cvy := rfl
@[simp] theorem State.setAdc_tap (u : Nat) (x : Adc) : (s.setAdc u x).tap = s.tap := rfl
@[simp] theorem State.setAdc_touch (u : Nat) (x : Adc) : (s.setAdc u x).touch = s.touch := rfl
@[simp] theorem State.setAdc_yardDown (u : Nat) (x : Adc) : (s.setAdc u x).yardDown = s.yardDown := rfl
@[simp] theorem State.setAdc_opens (u : Nat) (x : Adc) : (s.setAdc u x).opens = s.opens := rfl

/-! `State.setMon` -/

@[simp] theorem State.setMon_pending (u : Nat) (x : Monitor) : (s.setMon u x).pending = s.pending := rfl
@[simp] theorem State.setMon_regs (u : Nat) (x : Monitor) : (s.setMon u x).regs = s.regs := rfl
@[simp] theorem State.setMon_shadow (u : Nat) (x : Monitor) : (s.setMon u x).shadow = s.shadow := rfl
@[simp] theorem State.setMon_shadowNext (u : Nat) (x : Monitor) : (s.setMon u x).shadowNext = s.shadowNext := rfl
@[simp] theorem State.setMon_latch (u : Nat) (x : Monitor) : (s.setMon u x).latch = s.latch := rfl
@[simp] theorem State.setMon_staged (u : Nat) (x : Monitor) : (s.setMon u x).staged = s.staged := rfl
@[simp] theorem State.setMon_fresh (u : Nat) (x : Monitor) : (s.setMon u x).fresh = s.fresh := rfl
@[simp] theorem State.setMon_claimed (u : Nat) (x : Monitor) : (s.setMon u x).claimed = s.claimed := rfl
@[simp] theorem State.setMon_refused (u : Nat) (x : Monitor) : (s.setMon u x).refused = s.refused := rfl
@[simp] theorem State.setMon_read (u : Nat) (x : Monitor) : (s.setMon u x).read = s.read := rfl
@[simp] theorem State.setMon_time (u : Nat) (x : Monitor) : (s.setMon u x).time = s.time := rfl
@[simp] theorem State.setMon_hold (u : Nat) (x : Monitor) : (s.setMon u x).hold = s.hold := rfl
@[simp] theorem State.setMon_sched (u : Nat) (x : Monitor) : (s.setMon u x).sched = s.sched := rfl
@[simp] theorem State.setMon_host (u : Nat) (x : Monitor) : (s.setMon u x).host = s.host := rfl
@[simp] theorem State.setMon_results (u : Nat) (x : Monitor) : (s.setMon u x).results = s.results := rfl
@[simp] theorem State.setMon_mem (u : Nat) (x : Monitor) : (s.setMon u x).mem = s.mem := rfl
@[simp] theorem State.setMon_cast (u : Nat) (x : Monitor) : (s.setMon u x).cast = s.cast := rfl
@[simp] theorem State.setMon_tiles (u : Nat) (x : Monitor) : (s.setMon u x).tiles = s.tiles := rfl
@[simp] theorem State.setMon_ctxs (u : Nat) (x : Monitor) : (s.setMon u x).ctxs = s.ctxs := rfl
@[simp] theorem State.setMon_sites (u : Nat) (x : Monitor) : (s.setMon u x).sites = s.sites := rfl
@[simp] theorem State.setMon_chans (u : Nat) (x : Monitor) : (s.setMon u x).chans = s.chans := rfl
@[simp] theorem State.setMon_wfss (u : Nat) (x : Monitor) : (s.setMon u x).wfss = s.wfss := rfl
@[simp] theorem State.setMon_awgs (u : Nat) (x : Monitor) : (s.setMon u x).awgs = s.awgs := rfl
@[simp] theorem State.setMon_acqs (u : Nat) (x : Monitor) : (s.setMon u x).acqs = s.acqs := rfl
@[simp] theorem State.setMon_tdcs (u : Nat) (x : Monitor) : (s.setMon u x).tdcs = s.tdcs := rfl
@[simp] theorem State.setMon_slices (u : Nat) (x : Monitor) : (s.setMon u x).slices = s.slices := rfl
@[simp] theorem State.setMon_adcs (u : Nat) (x : Monitor) : (s.setMon u x).adcs = s.adcs := rfl
@[simp] theorem State.setMon_trips (u : Nat) (x : Monitor) : (s.setMon u x).trips = s.trips := rfl
@[simp] theorem State.setMon_cal (u : Nat) (x : Monitor) : (s.setMon u x).cal = s.cal := rfl
@[simp] theorem State.setMon_nv (u : Nat) (x : Monitor) : (s.setMon u x).nv = s.nv := rfl
@[simp] theorem State.setMon_loads (u : Nat) (x : Monitor) : (s.setMon u x).loads = s.loads := rfl
@[simp] theorem State.setMon_fw (u : Nat) (x : Monitor) : (s.setMon u x).fw = s.fw := rfl
@[simp] theorem State.setMon_start (u : Nat) (x : Monitor) : (s.setMon u x).start = s.start := rfl
@[simp] theorem State.setMon_way (u : Nat) (x : Monitor) : (s.setMon u x).way = s.way := rfl
@[simp] theorem State.setMon_chks (u : Nat) (x : Monitor) : (s.setMon u x).chks = s.chks := rfl
@[simp] theorem State.setMon_therm (u : Nat) (x : Monitor) : (s.setMon u x).therm = s.therm := rfl
@[simp] theorem State.setMon_cvy (u : Nat) (x : Monitor) : (s.setMon u x).cvy = s.cvy := rfl
@[simp] theorem State.setMon_tap (u : Nat) (x : Monitor) : (s.setMon u x).tap = s.tap := rfl
@[simp] theorem State.setMon_touch (u : Nat) (x : Monitor) : (s.setMon u x).touch = s.touch := rfl
@[simp] theorem State.setMon_yardDown (u : Nat) (x : Monitor) : (s.setMon u x).yardDown = s.yardDown := rfl
@[simp] theorem State.setMon_opens (u : Nat) (x : Monitor) : (s.setMon u x).opens = s.opens := rfl

/-! `State.setCtx` -/

@[simp] theorem State.setCtx_pending (u : Nat) (x : Ctx) : (s.setCtx u x).pending = s.pending := rfl
@[simp] theorem State.setCtx_regs (u : Nat) (x : Ctx) : (s.setCtx u x).regs = s.regs := rfl
@[simp] theorem State.setCtx_shadow (u : Nat) (x : Ctx) : (s.setCtx u x).shadow = s.shadow := rfl
@[simp] theorem State.setCtx_shadowNext (u : Nat) (x : Ctx) : (s.setCtx u x).shadowNext = s.shadowNext := rfl
@[simp] theorem State.setCtx_latch (u : Nat) (x : Ctx) : (s.setCtx u x).latch = s.latch := rfl
@[simp] theorem State.setCtx_staged (u : Nat) (x : Ctx) : (s.setCtx u x).staged = s.staged := rfl
@[simp] theorem State.setCtx_fresh (u : Nat) (x : Ctx) : (s.setCtx u x).fresh = s.fresh := rfl
@[simp] theorem State.setCtx_claimed (u : Nat) (x : Ctx) : (s.setCtx u x).claimed = s.claimed := rfl
@[simp] theorem State.setCtx_refused (u : Nat) (x : Ctx) : (s.setCtx u x).refused = s.refused := rfl
@[simp] theorem State.setCtx_read (u : Nat) (x : Ctx) : (s.setCtx u x).read = s.read := rfl
@[simp] theorem State.setCtx_time (u : Nat) (x : Ctx) : (s.setCtx u x).time = s.time := rfl
@[simp] theorem State.setCtx_hold (u : Nat) (x : Ctx) : (s.setCtx u x).hold = s.hold := rfl
@[simp] theorem State.setCtx_sched (u : Nat) (x : Ctx) : (s.setCtx u x).sched = s.sched := rfl
@[simp] theorem State.setCtx_host (u : Nat) (x : Ctx) : (s.setCtx u x).host = s.host := rfl
@[simp] theorem State.setCtx_results (u : Nat) (x : Ctx) : (s.setCtx u x).results = s.results := rfl
@[simp] theorem State.setCtx_mem (u : Nat) (x : Ctx) : (s.setCtx u x).mem = s.mem := rfl
@[simp] theorem State.setCtx_cast (u : Nat) (x : Ctx) : (s.setCtx u x).cast = s.cast := rfl
@[simp] theorem State.setCtx_tiles (u : Nat) (x : Ctx) : (s.setCtx u x).tiles = s.tiles := rfl
@[simp] theorem State.setCtx_sites (u : Nat) (x : Ctx) : (s.setCtx u x).sites = s.sites := rfl
@[simp] theorem State.setCtx_chans (u : Nat) (x : Ctx) : (s.setCtx u x).chans = s.chans := rfl
@[simp] theorem State.setCtx_wfss (u : Nat) (x : Ctx) : (s.setCtx u x).wfss = s.wfss := rfl
@[simp] theorem State.setCtx_awgs (u : Nat) (x : Ctx) : (s.setCtx u x).awgs = s.awgs := rfl
@[simp] theorem State.setCtx_acqs (u : Nat) (x : Ctx) : (s.setCtx u x).acqs = s.acqs := rfl
@[simp] theorem State.setCtx_tdcs (u : Nat) (x : Ctx) : (s.setCtx u x).tdcs = s.tdcs := rfl
@[simp] theorem State.setCtx_slices (u : Nat) (x : Ctx) : (s.setCtx u x).slices = s.slices := rfl
@[simp] theorem State.setCtx_adcs (u : Nat) (x : Ctx) : (s.setCtx u x).adcs = s.adcs := rfl
@[simp] theorem State.setCtx_mons (u : Nat) (x : Ctx) : (s.setCtx u x).mons = s.mons := rfl
@[simp] theorem State.setCtx_trips (u : Nat) (x : Ctx) : (s.setCtx u x).trips = s.trips := rfl
@[simp] theorem State.setCtx_cal (u : Nat) (x : Ctx) : (s.setCtx u x).cal = s.cal := rfl
@[simp] theorem State.setCtx_nv (u : Nat) (x : Ctx) : (s.setCtx u x).nv = s.nv := rfl
@[simp] theorem State.setCtx_loads (u : Nat) (x : Ctx) : (s.setCtx u x).loads = s.loads := rfl
@[simp] theorem State.setCtx_fw (u : Nat) (x : Ctx) : (s.setCtx u x).fw = s.fw := rfl
@[simp] theorem State.setCtx_start (u : Nat) (x : Ctx) : (s.setCtx u x).start = s.start := rfl
@[simp] theorem State.setCtx_way (u : Nat) (x : Ctx) : (s.setCtx u x).way = s.way := rfl
@[simp] theorem State.setCtx_chks (u : Nat) (x : Ctx) : (s.setCtx u x).chks = s.chks := rfl
@[simp] theorem State.setCtx_therm (u : Nat) (x : Ctx) : (s.setCtx u x).therm = s.therm := rfl
@[simp] theorem State.setCtx_cvy (u : Nat) (x : Ctx) : (s.setCtx u x).cvy = s.cvy := rfl
@[simp] theorem State.setCtx_tap (u : Nat) (x : Ctx) : (s.setCtx u x).tap = s.tap := rfl
@[simp] theorem State.setCtx_touch (u : Nat) (x : Ctx) : (s.setCtx u x).touch = s.touch := rfl
@[simp] theorem State.setCtx_yardDown (u : Nat) (x : Ctx) : (s.setCtx u x).yardDown = s.yardDown := rfl
@[simp] theorem State.setCtx_opens (u : Nat) (x : Ctx) : (s.setCtx u x).opens = s.opens := rfl

/-! `State.setSite` -/

@[simp] theorem State.setSite_pending (u : Nat) (x : Site) : (s.setSite u x).pending = s.pending := rfl
@[simp] theorem State.setSite_regs (u : Nat) (x : Site) : (s.setSite u x).regs = s.regs := rfl
@[simp] theorem State.setSite_shadow (u : Nat) (x : Site) : (s.setSite u x).shadow = s.shadow := rfl
@[simp] theorem State.setSite_shadowNext (u : Nat) (x : Site) : (s.setSite u x).shadowNext = s.shadowNext := rfl
@[simp] theorem State.setSite_latch (u : Nat) (x : Site) : (s.setSite u x).latch = s.latch := rfl
@[simp] theorem State.setSite_staged (u : Nat) (x : Site) : (s.setSite u x).staged = s.staged := rfl
@[simp] theorem State.setSite_fresh (u : Nat) (x : Site) : (s.setSite u x).fresh = s.fresh := rfl
@[simp] theorem State.setSite_claimed (u : Nat) (x : Site) : (s.setSite u x).claimed = s.claimed := rfl
@[simp] theorem State.setSite_refused (u : Nat) (x : Site) : (s.setSite u x).refused = s.refused := rfl
@[simp] theorem State.setSite_read (u : Nat) (x : Site) : (s.setSite u x).read = s.read := rfl
@[simp] theorem State.setSite_time (u : Nat) (x : Site) : (s.setSite u x).time = s.time := rfl
@[simp] theorem State.setSite_hold (u : Nat) (x : Site) : (s.setSite u x).hold = s.hold := rfl
@[simp] theorem State.setSite_sched (u : Nat) (x : Site) : (s.setSite u x).sched = s.sched := rfl
@[simp] theorem State.setSite_host (u : Nat) (x : Site) : (s.setSite u x).host = s.host := rfl
@[simp] theorem State.setSite_results (u : Nat) (x : Site) : (s.setSite u x).results = s.results := rfl
@[simp] theorem State.setSite_mem (u : Nat) (x : Site) : (s.setSite u x).mem = s.mem := rfl
@[simp] theorem State.setSite_cast (u : Nat) (x : Site) : (s.setSite u x).cast = s.cast := rfl
@[simp] theorem State.setSite_tiles (u : Nat) (x : Site) : (s.setSite u x).tiles = s.tiles := rfl
@[simp] theorem State.setSite_ctxs (u : Nat) (x : Site) : (s.setSite u x).ctxs = s.ctxs := rfl
@[simp] theorem State.setSite_chans (u : Nat) (x : Site) : (s.setSite u x).chans = s.chans := rfl
@[simp] theorem State.setSite_wfss (u : Nat) (x : Site) : (s.setSite u x).wfss = s.wfss := rfl
@[simp] theorem State.setSite_awgs (u : Nat) (x : Site) : (s.setSite u x).awgs = s.awgs := rfl
@[simp] theorem State.setSite_acqs (u : Nat) (x : Site) : (s.setSite u x).acqs = s.acqs := rfl
@[simp] theorem State.setSite_tdcs (u : Nat) (x : Site) : (s.setSite u x).tdcs = s.tdcs := rfl
@[simp] theorem State.setSite_slices (u : Nat) (x : Site) : (s.setSite u x).slices = s.slices := rfl
@[simp] theorem State.setSite_adcs (u : Nat) (x : Site) : (s.setSite u x).adcs = s.adcs := rfl
@[simp] theorem State.setSite_mons (u : Nat) (x : Site) : (s.setSite u x).mons = s.mons := rfl
@[simp] theorem State.setSite_trips (u : Nat) (x : Site) : (s.setSite u x).trips = s.trips := rfl
@[simp] theorem State.setSite_cal (u : Nat) (x : Site) : (s.setSite u x).cal = s.cal := rfl
@[simp] theorem State.setSite_nv (u : Nat) (x : Site) : (s.setSite u x).nv = s.nv := rfl
@[simp] theorem State.setSite_loads (u : Nat) (x : Site) : (s.setSite u x).loads = s.loads := rfl
@[simp] theorem State.setSite_fw (u : Nat) (x : Site) : (s.setSite u x).fw = s.fw := rfl
@[simp] theorem State.setSite_start (u : Nat) (x : Site) : (s.setSite u x).start = s.start := rfl
@[simp] theorem State.setSite_way (u : Nat) (x : Site) : (s.setSite u x).way = s.way := rfl
@[simp] theorem State.setSite_chks (u : Nat) (x : Site) : (s.setSite u x).chks = s.chks := rfl
@[simp] theorem State.setSite_therm (u : Nat) (x : Site) : (s.setSite u x).therm = s.therm := rfl
@[simp] theorem State.setSite_cvy (u : Nat) (x : Site) : (s.setSite u x).cvy = s.cvy := rfl
@[simp] theorem State.setSite_tap (u : Nat) (x : Site) : (s.setSite u x).tap = s.tap := rfl
@[simp] theorem State.setSite_touch (u : Nat) (x : Site) : (s.setSite u x).touch = s.touch := rfl
@[simp] theorem State.setSite_yardDown (u : Nat) (x : Site) : (s.setSite u x).yardDown = s.yardDown := rfl
@[simp] theorem State.setSite_opens (u : Nat) (x : Site) : (s.setSite u x).opens = s.opens := rfl

/-! `State.setChan` -/

@[simp] theorem State.setChan_pending (u : Nat) (x : Chan) : (s.setChan u x).pending = s.pending := rfl
@[simp] theorem State.setChan_regs (u : Nat) (x : Chan) : (s.setChan u x).regs = s.regs := rfl
@[simp] theorem State.setChan_shadow (u : Nat) (x : Chan) : (s.setChan u x).shadow = s.shadow := rfl
@[simp] theorem State.setChan_shadowNext (u : Nat) (x : Chan) : (s.setChan u x).shadowNext = s.shadowNext := rfl
@[simp] theorem State.setChan_latch (u : Nat) (x : Chan) : (s.setChan u x).latch = s.latch := rfl
@[simp] theorem State.setChan_staged (u : Nat) (x : Chan) : (s.setChan u x).staged = s.staged := rfl
@[simp] theorem State.setChan_fresh (u : Nat) (x : Chan) : (s.setChan u x).fresh = s.fresh := rfl
@[simp] theorem State.setChan_claimed (u : Nat) (x : Chan) : (s.setChan u x).claimed = s.claimed := rfl
@[simp] theorem State.setChan_refused (u : Nat) (x : Chan) : (s.setChan u x).refused = s.refused := rfl
@[simp] theorem State.setChan_read (u : Nat) (x : Chan) : (s.setChan u x).read = s.read := rfl
@[simp] theorem State.setChan_time (u : Nat) (x : Chan) : (s.setChan u x).time = s.time := rfl
@[simp] theorem State.setChan_hold (u : Nat) (x : Chan) : (s.setChan u x).hold = s.hold := rfl
@[simp] theorem State.setChan_sched (u : Nat) (x : Chan) : (s.setChan u x).sched = s.sched := rfl
@[simp] theorem State.setChan_host (u : Nat) (x : Chan) : (s.setChan u x).host = s.host := rfl
@[simp] theorem State.setChan_results (u : Nat) (x : Chan) : (s.setChan u x).results = s.results := rfl
@[simp] theorem State.setChan_mem (u : Nat) (x : Chan) : (s.setChan u x).mem = s.mem := rfl
@[simp] theorem State.setChan_cast (u : Nat) (x : Chan) : (s.setChan u x).cast = s.cast := rfl
@[simp] theorem State.setChan_tiles (u : Nat) (x : Chan) : (s.setChan u x).tiles = s.tiles := rfl
@[simp] theorem State.setChan_ctxs (u : Nat) (x : Chan) : (s.setChan u x).ctxs = s.ctxs := rfl
@[simp] theorem State.setChan_sites (u : Nat) (x : Chan) : (s.setChan u x).sites = s.sites := rfl
@[simp] theorem State.setChan_wfss (u : Nat) (x : Chan) : (s.setChan u x).wfss = s.wfss := rfl
@[simp] theorem State.setChan_awgs (u : Nat) (x : Chan) : (s.setChan u x).awgs = s.awgs := rfl
@[simp] theorem State.setChan_acqs (u : Nat) (x : Chan) : (s.setChan u x).acqs = s.acqs := rfl
@[simp] theorem State.setChan_tdcs (u : Nat) (x : Chan) : (s.setChan u x).tdcs = s.tdcs := rfl
@[simp] theorem State.setChan_slices (u : Nat) (x : Chan) : (s.setChan u x).slices = s.slices := rfl
@[simp] theorem State.setChan_adcs (u : Nat) (x : Chan) : (s.setChan u x).adcs = s.adcs := rfl
@[simp] theorem State.setChan_mons (u : Nat) (x : Chan) : (s.setChan u x).mons = s.mons := rfl
@[simp] theorem State.setChan_trips (u : Nat) (x : Chan) : (s.setChan u x).trips = s.trips := rfl
@[simp] theorem State.setChan_cal (u : Nat) (x : Chan) : (s.setChan u x).cal = s.cal := rfl
@[simp] theorem State.setChan_nv (u : Nat) (x : Chan) : (s.setChan u x).nv = s.nv := rfl
@[simp] theorem State.setChan_loads (u : Nat) (x : Chan) : (s.setChan u x).loads = s.loads := rfl
@[simp] theorem State.setChan_fw (u : Nat) (x : Chan) : (s.setChan u x).fw = s.fw := rfl
@[simp] theorem State.setChan_start (u : Nat) (x : Chan) : (s.setChan u x).start = s.start := rfl
@[simp] theorem State.setChan_way (u : Nat) (x : Chan) : (s.setChan u x).way = s.way := rfl
@[simp] theorem State.setChan_chks (u : Nat) (x : Chan) : (s.setChan u x).chks = s.chks := rfl
@[simp] theorem State.setChan_therm (u : Nat) (x : Chan) : (s.setChan u x).therm = s.therm := rfl
@[simp] theorem State.setChan_cvy (u : Nat) (x : Chan) : (s.setChan u x).cvy = s.cvy := rfl
@[simp] theorem State.setChan_tap (u : Nat) (x : Chan) : (s.setChan u x).tap = s.tap := rfl
@[simp] theorem State.setChan_touch (u : Nat) (x : Chan) : (s.setChan u x).touch = s.touch := rfl
@[simp] theorem State.setChan_yardDown (u : Nat) (x : Chan) : (s.setChan u x).yardDown = s.yardDown := rfl
@[simp] theorem State.setChan_opens (u : Nat) (x : Chan) : (s.setChan u x).opens = s.opens := rfl

/-! `State.setTile` -/

@[simp] theorem State.setTile_pending (u : Nat) (x : Tile) : (s.setTile u x).pending = s.pending := rfl
@[simp] theorem State.setTile_regs (u : Nat) (x : Tile) : (s.setTile u x).regs = s.regs := rfl
@[simp] theorem State.setTile_shadow (u : Nat) (x : Tile) : (s.setTile u x).shadow = s.shadow := rfl
@[simp] theorem State.setTile_shadowNext (u : Nat) (x : Tile) : (s.setTile u x).shadowNext = s.shadowNext := rfl
@[simp] theorem State.setTile_latch (u : Nat) (x : Tile) : (s.setTile u x).latch = s.latch := rfl
@[simp] theorem State.setTile_staged (u : Nat) (x : Tile) : (s.setTile u x).staged = s.staged := rfl
@[simp] theorem State.setTile_fresh (u : Nat) (x : Tile) : (s.setTile u x).fresh = s.fresh := rfl
@[simp] theorem State.setTile_claimed (u : Nat) (x : Tile) : (s.setTile u x).claimed = s.claimed := rfl
@[simp] theorem State.setTile_refused (u : Nat) (x : Tile) : (s.setTile u x).refused = s.refused := rfl
@[simp] theorem State.setTile_read (u : Nat) (x : Tile) : (s.setTile u x).read = s.read := rfl
@[simp] theorem State.setTile_time (u : Nat) (x : Tile) : (s.setTile u x).time = s.time := rfl
@[simp] theorem State.setTile_hold (u : Nat) (x : Tile) : (s.setTile u x).hold = s.hold := rfl
@[simp] theorem State.setTile_sched (u : Nat) (x : Tile) : (s.setTile u x).sched = s.sched := rfl
@[simp] theorem State.setTile_host (u : Nat) (x : Tile) : (s.setTile u x).host = s.host := rfl
@[simp] theorem State.setTile_results (u : Nat) (x : Tile) : (s.setTile u x).results = s.results := rfl
@[simp] theorem State.setTile_mem (u : Nat) (x : Tile) : (s.setTile u x).mem = s.mem := rfl
@[simp] theorem State.setTile_cast (u : Nat) (x : Tile) : (s.setTile u x).cast = s.cast := rfl
@[simp] theorem State.setTile_ctxs (u : Nat) (x : Tile) : (s.setTile u x).ctxs = s.ctxs := rfl
@[simp] theorem State.setTile_sites (u : Nat) (x : Tile) : (s.setTile u x).sites = s.sites := rfl
@[simp] theorem State.setTile_chans (u : Nat) (x : Tile) : (s.setTile u x).chans = s.chans := rfl
@[simp] theorem State.setTile_wfss (u : Nat) (x : Tile) : (s.setTile u x).wfss = s.wfss := rfl
@[simp] theorem State.setTile_awgs (u : Nat) (x : Tile) : (s.setTile u x).awgs = s.awgs := rfl
@[simp] theorem State.setTile_acqs (u : Nat) (x : Tile) : (s.setTile u x).acqs = s.acqs := rfl
@[simp] theorem State.setTile_tdcs (u : Nat) (x : Tile) : (s.setTile u x).tdcs = s.tdcs := rfl
@[simp] theorem State.setTile_slices (u : Nat) (x : Tile) : (s.setTile u x).slices = s.slices := rfl
@[simp] theorem State.setTile_adcs (u : Nat) (x : Tile) : (s.setTile u x).adcs = s.adcs := rfl
@[simp] theorem State.setTile_mons (u : Nat) (x : Tile) : (s.setTile u x).mons = s.mons := rfl
@[simp] theorem State.setTile_trips (u : Nat) (x : Tile) : (s.setTile u x).trips = s.trips := rfl
@[simp] theorem State.setTile_cal (u : Nat) (x : Tile) : (s.setTile u x).cal = s.cal := rfl
@[simp] theorem State.setTile_nv (u : Nat) (x : Tile) : (s.setTile u x).nv = s.nv := rfl
@[simp] theorem State.setTile_loads (u : Nat) (x : Tile) : (s.setTile u x).loads = s.loads := rfl
@[simp] theorem State.setTile_fw (u : Nat) (x : Tile) : (s.setTile u x).fw = s.fw := rfl
@[simp] theorem State.setTile_start (u : Nat) (x : Tile) : (s.setTile u x).start = s.start := rfl
@[simp] theorem State.setTile_way (u : Nat) (x : Tile) : (s.setTile u x).way = s.way := rfl
@[simp] theorem State.setTile_chks (u : Nat) (x : Tile) : (s.setTile u x).chks = s.chks := rfl
@[simp] theorem State.setTile_therm (u : Nat) (x : Tile) : (s.setTile u x).therm = s.therm := rfl
@[simp] theorem State.setTile_cvy (u : Nat) (x : Tile) : (s.setTile u x).cvy = s.cvy := rfl
@[simp] theorem State.setTile_tap (u : Nat) (x : Tile) : (s.setTile u x).tap = s.tap := rfl
@[simp] theorem State.setTile_touch (u : Nat) (x : Tile) : (s.setTile u x).touch = s.touch := rfl
@[simp] theorem State.setTile_yardDown (u : Nat) (x : Tile) : (s.setTile u x).yardDown = s.yardDown := rfl
@[simp] theorem State.setTile_opens (u : Nat) (x : Tile) : (s.setTile u x).opens = s.opens := rfl

/-! `State.setChk` -/

@[simp] theorem State.setChk_pending (u : Nat) (x : ChkUnit) : (s.setChk u x).pending = s.pending := rfl
@[simp] theorem State.setChk_regs (u : Nat) (x : ChkUnit) : (s.setChk u x).regs = s.regs := rfl
@[simp] theorem State.setChk_shadow (u : Nat) (x : ChkUnit) : (s.setChk u x).shadow = s.shadow := rfl
@[simp] theorem State.setChk_shadowNext (u : Nat) (x : ChkUnit) : (s.setChk u x).shadowNext = s.shadowNext := rfl
@[simp] theorem State.setChk_latch (u : Nat) (x : ChkUnit) : (s.setChk u x).latch = s.latch := rfl
@[simp] theorem State.setChk_staged (u : Nat) (x : ChkUnit) : (s.setChk u x).staged = s.staged := rfl
@[simp] theorem State.setChk_fresh (u : Nat) (x : ChkUnit) : (s.setChk u x).fresh = s.fresh := rfl
@[simp] theorem State.setChk_claimed (u : Nat) (x : ChkUnit) : (s.setChk u x).claimed = s.claimed := rfl
@[simp] theorem State.setChk_refused (u : Nat) (x : ChkUnit) : (s.setChk u x).refused = s.refused := rfl
@[simp] theorem State.setChk_read (u : Nat) (x : ChkUnit) : (s.setChk u x).read = s.read := rfl
@[simp] theorem State.setChk_time (u : Nat) (x : ChkUnit) : (s.setChk u x).time = s.time := rfl
@[simp] theorem State.setChk_hold (u : Nat) (x : ChkUnit) : (s.setChk u x).hold = s.hold := rfl
@[simp] theorem State.setChk_sched (u : Nat) (x : ChkUnit) : (s.setChk u x).sched = s.sched := rfl
@[simp] theorem State.setChk_host (u : Nat) (x : ChkUnit) : (s.setChk u x).host = s.host := rfl
@[simp] theorem State.setChk_results (u : Nat) (x : ChkUnit) : (s.setChk u x).results = s.results := rfl
@[simp] theorem State.setChk_mem (u : Nat) (x : ChkUnit) : (s.setChk u x).mem = s.mem := rfl
@[simp] theorem State.setChk_cast (u : Nat) (x : ChkUnit) : (s.setChk u x).cast = s.cast := rfl
@[simp] theorem State.setChk_tiles (u : Nat) (x : ChkUnit) : (s.setChk u x).tiles = s.tiles := rfl
@[simp] theorem State.setChk_ctxs (u : Nat) (x : ChkUnit) : (s.setChk u x).ctxs = s.ctxs := rfl
@[simp] theorem State.setChk_sites (u : Nat) (x : ChkUnit) : (s.setChk u x).sites = s.sites := rfl
@[simp] theorem State.setChk_chans (u : Nat) (x : ChkUnit) : (s.setChk u x).chans = s.chans := rfl
@[simp] theorem State.setChk_wfss (u : Nat) (x : ChkUnit) : (s.setChk u x).wfss = s.wfss := rfl
@[simp] theorem State.setChk_awgs (u : Nat) (x : ChkUnit) : (s.setChk u x).awgs = s.awgs := rfl
@[simp] theorem State.setChk_acqs (u : Nat) (x : ChkUnit) : (s.setChk u x).acqs = s.acqs := rfl
@[simp] theorem State.setChk_tdcs (u : Nat) (x : ChkUnit) : (s.setChk u x).tdcs = s.tdcs := rfl
@[simp] theorem State.setChk_slices (u : Nat) (x : ChkUnit) : (s.setChk u x).slices = s.slices := rfl
@[simp] theorem State.setChk_adcs (u : Nat) (x : ChkUnit) : (s.setChk u x).adcs = s.adcs := rfl
@[simp] theorem State.setChk_mons (u : Nat) (x : ChkUnit) : (s.setChk u x).mons = s.mons := rfl
@[simp] theorem State.setChk_trips (u : Nat) (x : ChkUnit) : (s.setChk u x).trips = s.trips := rfl
@[simp] theorem State.setChk_cal (u : Nat) (x : ChkUnit) : (s.setChk u x).cal = s.cal := rfl
@[simp] theorem State.setChk_nv (u : Nat) (x : ChkUnit) : (s.setChk u x).nv = s.nv := rfl
@[simp] theorem State.setChk_loads (u : Nat) (x : ChkUnit) : (s.setChk u x).loads = s.loads := rfl
@[simp] theorem State.setChk_fw (u : Nat) (x : ChkUnit) : (s.setChk u x).fw = s.fw := rfl
@[simp] theorem State.setChk_start (u : Nat) (x : ChkUnit) : (s.setChk u x).start = s.start := rfl
@[simp] theorem State.setChk_way (u : Nat) (x : ChkUnit) : (s.setChk u x).way = s.way := rfl
@[simp] theorem State.setChk_therm (u : Nat) (x : ChkUnit) : (s.setChk u x).therm = s.therm := rfl
@[simp] theorem State.setChk_cvy (u : Nat) (x : ChkUnit) : (s.setChk u x).cvy = s.cvy := rfl
@[simp] theorem State.setChk_tap (u : Nat) (x : ChkUnit) : (s.setChk u x).tap = s.tap := rfl
@[simp] theorem State.setChk_touch (u : Nat) (x : ChkUnit) : (s.setChk u x).touch = s.touch := rfl
@[simp] theorem State.setChk_yardDown (u : Nat) (x : ChkUnit) : (s.setChk u x).yardDown = s.yardDown := rfl
@[simp] theorem State.setChk_opens (u : Nat) (x : ChkUnit) : (s.setChk u x).opens = s.opens := rfl

/-! `State.setToll` -/

@[simp] theorem State.setToll_pending (u : Nat) (x : TollSlot) : (s.setToll u x).pending = s.pending := rfl
@[simp] theorem State.setToll_regs (u : Nat) (x : TollSlot) : (s.setToll u x).regs = s.regs := rfl
@[simp] theorem State.setToll_shadow (u : Nat) (x : TollSlot) : (s.setToll u x).shadow = s.shadow := rfl
@[simp] theorem State.setToll_shadowNext (u : Nat) (x : TollSlot) : (s.setToll u x).shadowNext = s.shadowNext := rfl
@[simp] theorem State.setToll_latch (u : Nat) (x : TollSlot) : (s.setToll u x).latch = s.latch := rfl
@[simp] theorem State.setToll_staged (u : Nat) (x : TollSlot) : (s.setToll u x).staged = s.staged := rfl
@[simp] theorem State.setToll_fresh (u : Nat) (x : TollSlot) : (s.setToll u x).fresh = s.fresh := rfl
@[simp] theorem State.setToll_claimed (u : Nat) (x : TollSlot) : (s.setToll u x).claimed = s.claimed := rfl
@[simp] theorem State.setToll_refused (u : Nat) (x : TollSlot) : (s.setToll u x).refused = s.refused := rfl
@[simp] theorem State.setToll_read (u : Nat) (x : TollSlot) : (s.setToll u x).read = s.read := rfl
@[simp] theorem State.setToll_time (u : Nat) (x : TollSlot) : (s.setToll u x).time = s.time := rfl
@[simp] theorem State.setToll_hold (u : Nat) (x : TollSlot) : (s.setToll u x).hold = s.hold := rfl
@[simp] theorem State.setToll_sched (u : Nat) (x : TollSlot) : (s.setToll u x).sched = s.sched := rfl
@[simp] theorem State.setToll_host (u : Nat) (x : TollSlot) : (s.setToll u x).host = s.host := rfl
@[simp] theorem State.setToll_results (u : Nat) (x : TollSlot) : (s.setToll u x).results = s.results := rfl
@[simp] theorem State.setToll_mem (u : Nat) (x : TollSlot) : (s.setToll u x).mem = s.mem := rfl
@[simp] theorem State.setToll_cast (u : Nat) (x : TollSlot) : (s.setToll u x).cast = s.cast := rfl
@[simp] theorem State.setToll_tiles (u : Nat) (x : TollSlot) : (s.setToll u x).tiles = s.tiles := rfl
@[simp] theorem State.setToll_ctxs (u : Nat) (x : TollSlot) : (s.setToll u x).ctxs = s.ctxs := rfl
@[simp] theorem State.setToll_sites (u : Nat) (x : TollSlot) : (s.setToll u x).sites = s.sites := rfl
@[simp] theorem State.setToll_chans (u : Nat) (x : TollSlot) : (s.setToll u x).chans = s.chans := rfl
@[simp] theorem State.setToll_wfss (u : Nat) (x : TollSlot) : (s.setToll u x).wfss = s.wfss := rfl
@[simp] theorem State.setToll_awgs (u : Nat) (x : TollSlot) : (s.setToll u x).awgs = s.awgs := rfl
@[simp] theorem State.setToll_acqs (u : Nat) (x : TollSlot) : (s.setToll u x).acqs = s.acqs := rfl
@[simp] theorem State.setToll_tdcs (u : Nat) (x : TollSlot) : (s.setToll u x).tdcs = s.tdcs := rfl
@[simp] theorem State.setToll_slices (u : Nat) (x : TollSlot) : (s.setToll u x).slices = s.slices := rfl
@[simp] theorem State.setToll_adcs (u : Nat) (x : TollSlot) : (s.setToll u x).adcs = s.adcs := rfl
@[simp] theorem State.setToll_mons (u : Nat) (x : TollSlot) : (s.setToll u x).mons = s.mons := rfl
@[simp] theorem State.setToll_trips (u : Nat) (x : TollSlot) : (s.setToll u x).trips = s.trips := rfl
@[simp] theorem State.setToll_cal (u : Nat) (x : TollSlot) : (s.setToll u x).cal = s.cal := rfl
@[simp] theorem State.setToll_loads (u : Nat) (x : TollSlot) : (s.setToll u x).loads = s.loads := rfl
@[simp] theorem State.setToll_fw (u : Nat) (x : TollSlot) : (s.setToll u x).fw = s.fw := rfl
@[simp] theorem State.setToll_start (u : Nat) (x : TollSlot) : (s.setToll u x).start = s.start := rfl
@[simp] theorem State.setToll_way (u : Nat) (x : TollSlot) : (s.setToll u x).way = s.way := rfl
@[simp] theorem State.setToll_chks (u : Nat) (x : TollSlot) : (s.setToll u x).chks = s.chks := rfl
@[simp] theorem State.setToll_therm (u : Nat) (x : TollSlot) : (s.setToll u x).therm = s.therm := rfl
@[simp] theorem State.setToll_cvy (u : Nat) (x : TollSlot) : (s.setToll u x).cvy = s.cvy := rfl
@[simp] theorem State.setToll_tap (u : Nat) (x : TollSlot) : (s.setToll u x).tap = s.tap := rfl
@[simp] theorem State.setToll_touch (u : Nat) (x : TollSlot) : (s.setToll u x).touch = s.touch := rfl
@[simp] theorem State.setToll_yardDown (u : Nat) (x : TollSlot) : (s.setToll u x).yardDown = s.yardDown := rfl
@[simp] theorem State.setToll_opens (u : Nat) (x : TollSlot) : (s.setToll u x).opens = s.opens := rfl

/-! `State.setSensor` -/

@[simp] theorem State.setSensor_pending (u : Nat) (x : Sensor) : (s.setSensor u x).pending = s.pending := rfl
@[simp] theorem State.setSensor_regs (u : Nat) (x : Sensor) : (s.setSensor u x).regs = s.regs := rfl
@[simp] theorem State.setSensor_shadow (u : Nat) (x : Sensor) : (s.setSensor u x).shadow = s.shadow := rfl
@[simp] theorem State.setSensor_shadowNext (u : Nat) (x : Sensor) : (s.setSensor u x).shadowNext = s.shadowNext := rfl
@[simp] theorem State.setSensor_latch (u : Nat) (x : Sensor) : (s.setSensor u x).latch = s.latch := rfl
@[simp] theorem State.setSensor_staged (u : Nat) (x : Sensor) : (s.setSensor u x).staged = s.staged := rfl
@[simp] theorem State.setSensor_fresh (u : Nat) (x : Sensor) : (s.setSensor u x).fresh = s.fresh := rfl
@[simp] theorem State.setSensor_claimed (u : Nat) (x : Sensor) : (s.setSensor u x).claimed = s.claimed := rfl
@[simp] theorem State.setSensor_refused (u : Nat) (x : Sensor) : (s.setSensor u x).refused = s.refused := rfl
@[simp] theorem State.setSensor_read (u : Nat) (x : Sensor) : (s.setSensor u x).read = s.read := rfl
@[simp] theorem State.setSensor_time (u : Nat) (x : Sensor) : (s.setSensor u x).time = s.time := rfl
@[simp] theorem State.setSensor_hold (u : Nat) (x : Sensor) : (s.setSensor u x).hold = s.hold := rfl
@[simp] theorem State.setSensor_sched (u : Nat) (x : Sensor) : (s.setSensor u x).sched = s.sched := rfl
@[simp] theorem State.setSensor_host (u : Nat) (x : Sensor) : (s.setSensor u x).host = s.host := rfl
@[simp] theorem State.setSensor_results (u : Nat) (x : Sensor) : (s.setSensor u x).results = s.results := rfl
@[simp] theorem State.setSensor_mem (u : Nat) (x : Sensor) : (s.setSensor u x).mem = s.mem := rfl
@[simp] theorem State.setSensor_cast (u : Nat) (x : Sensor) : (s.setSensor u x).cast = s.cast := rfl
@[simp] theorem State.setSensor_tiles (u : Nat) (x : Sensor) : (s.setSensor u x).tiles = s.tiles := rfl
@[simp] theorem State.setSensor_ctxs (u : Nat) (x : Sensor) : (s.setSensor u x).ctxs = s.ctxs := rfl
@[simp] theorem State.setSensor_sites (u : Nat) (x : Sensor) : (s.setSensor u x).sites = s.sites := rfl
@[simp] theorem State.setSensor_chans (u : Nat) (x : Sensor) : (s.setSensor u x).chans = s.chans := rfl
@[simp] theorem State.setSensor_wfss (u : Nat) (x : Sensor) : (s.setSensor u x).wfss = s.wfss := rfl
@[simp] theorem State.setSensor_awgs (u : Nat) (x : Sensor) : (s.setSensor u x).awgs = s.awgs := rfl
@[simp] theorem State.setSensor_acqs (u : Nat) (x : Sensor) : (s.setSensor u x).acqs = s.acqs := rfl
@[simp] theorem State.setSensor_tdcs (u : Nat) (x : Sensor) : (s.setSensor u x).tdcs = s.tdcs := rfl
@[simp] theorem State.setSensor_slices (u : Nat) (x : Sensor) : (s.setSensor u x).slices = s.slices := rfl
@[simp] theorem State.setSensor_adcs (u : Nat) (x : Sensor) : (s.setSensor u x).adcs = s.adcs := rfl
@[simp] theorem State.setSensor_mons (u : Nat) (x : Sensor) : (s.setSensor u x).mons = s.mons := rfl
@[simp] theorem State.setSensor_trips (u : Nat) (x : Sensor) : (s.setSensor u x).trips = s.trips := rfl
@[simp] theorem State.setSensor_cal (u : Nat) (x : Sensor) : (s.setSensor u x).cal = s.cal := rfl
@[simp] theorem State.setSensor_nv (u : Nat) (x : Sensor) : (s.setSensor u x).nv = s.nv := rfl
@[simp] theorem State.setSensor_loads (u : Nat) (x : Sensor) : (s.setSensor u x).loads = s.loads := rfl
@[simp] theorem State.setSensor_fw (u : Nat) (x : Sensor) : (s.setSensor u x).fw = s.fw := rfl
@[simp] theorem State.setSensor_start (u : Nat) (x : Sensor) : (s.setSensor u x).start = s.start := rfl
@[simp] theorem State.setSensor_way (u : Nat) (x : Sensor) : (s.setSensor u x).way = s.way := rfl
@[simp] theorem State.setSensor_chks (u : Nat) (x : Sensor) : (s.setSensor u x).chks = s.chks := rfl
@[simp] theorem State.setSensor_cvy (u : Nat) (x : Sensor) : (s.setSensor u x).cvy = s.cvy := rfl
@[simp] theorem State.setSensor_tap (u : Nat) (x : Sensor) : (s.setSensor u x).tap = s.tap := rfl
@[simp] theorem State.setSensor_touch (u : Nat) (x : Sensor) : (s.setSensor u x).touch = s.touch := rfl
@[simp] theorem State.setSensor_yardDown (u : Nat) (x : Sensor) : (s.setSensor u x).yardDown = s.yardDown := rfl
@[simp] theorem State.setSensor_opens (u : Nat) (x : Sensor) : (s.setSensor u x).opens = s.opens := rfl

/-! `State.evt` -/

@[simp] theorem State.evt_pending (a b : Nat) : (s.evt a b).pending = s.pending := rfl
@[simp] theorem State.evt_shadow (a b : Nat) : (s.evt a b).shadow = s.shadow := rfl
@[simp] theorem State.evt_shadowNext (a b : Nat) : (s.evt a b).shadowNext = s.shadowNext := rfl
@[simp] theorem State.evt_latch (a b : Nat) : (s.evt a b).latch = s.latch := rfl
@[simp] theorem State.evt_staged (a b : Nat) : (s.evt a b).staged = s.staged := rfl
@[simp] theorem State.evt_claimed (a b : Nat) : (s.evt a b).claimed = s.claimed := rfl
@[simp] theorem State.evt_refused (a b : Nat) : (s.evt a b).refused = s.refused := rfl
@[simp] theorem State.evt_read (a b : Nat) : (s.evt a b).read = s.read := rfl
@[simp] theorem State.evt_time (a b : Nat) : (s.evt a b).time = s.time := rfl
@[simp] theorem State.evt_hold (a b : Nat) : (s.evt a b).hold = s.hold := rfl
@[simp] theorem State.evt_sched (a b : Nat) : (s.evt a b).sched = s.sched := rfl
@[simp] theorem State.evt_results (a b : Nat) : (s.evt a b).results = s.results := rfl
@[simp] theorem State.evt_mem (a b : Nat) : (s.evt a b).mem = s.mem := rfl
@[simp] theorem State.evt_cast (a b : Nat) : (s.evt a b).cast = s.cast := rfl
@[simp] theorem State.evt_tiles (a b : Nat) : (s.evt a b).tiles = s.tiles := rfl
@[simp] theorem State.evt_ctxs (a b : Nat) : (s.evt a b).ctxs = s.ctxs := rfl
@[simp] theorem State.evt_sites (a b : Nat) : (s.evt a b).sites = s.sites := rfl
@[simp] theorem State.evt_chans (a b : Nat) : (s.evt a b).chans = s.chans := rfl
@[simp] theorem State.evt_wfss (a b : Nat) : (s.evt a b).wfss = s.wfss := rfl
@[simp] theorem State.evt_awgs (a b : Nat) : (s.evt a b).awgs = s.awgs := rfl
@[simp] theorem State.evt_acqs (a b : Nat) : (s.evt a b).acqs = s.acqs := rfl
@[simp] theorem State.evt_tdcs (a b : Nat) : (s.evt a b).tdcs = s.tdcs := rfl
@[simp] theorem State.evt_slices (a b : Nat) : (s.evt a b).slices = s.slices := rfl
@[simp] theorem State.evt_adcs (a b : Nat) : (s.evt a b).adcs = s.adcs := rfl
@[simp] theorem State.evt_mons (a b : Nat) : (s.evt a b).mons = s.mons := rfl
@[simp] theorem State.evt_trips (a b : Nat) : (s.evt a b).trips = s.trips := rfl
@[simp] theorem State.evt_cal (a b : Nat) : (s.evt a b).cal = s.cal := rfl
@[simp] theorem State.evt_nv (a b : Nat) : (s.evt a b).nv = s.nv := rfl
@[simp] theorem State.evt_loads (a b : Nat) : (s.evt a b).loads = s.loads := rfl
@[simp] theorem State.evt_fw (a b : Nat) : (s.evt a b).fw = s.fw := rfl
@[simp] theorem State.evt_start (a b : Nat) : (s.evt a b).start = s.start := rfl
@[simp] theorem State.evt_way (a b : Nat) : (s.evt a b).way = s.way := rfl
@[simp] theorem State.evt_chks (a b : Nat) : (s.evt a b).chks = s.chks := rfl
@[simp] theorem State.evt_therm (a b : Nat) : (s.evt a b).therm = s.therm := rfl
@[simp] theorem State.evt_cvy (a b : Nat) : (s.evt a b).cvy = s.cvy := rfl
@[simp] theorem State.evt_tap (a b : Nat) : (s.evt a b).tap = s.tap := rfl
@[simp] theorem State.evt_touch (a b : Nat) : (s.evt a b).touch = s.touch := rfl
@[simp] theorem State.evt_yardDown (a b : Nat) : (s.evt a b).yardDown = s.yardDown := rfl
@[simp] theorem State.evt_opens (a b : Nat) : (s.evt a b).opens = s.opens := rfl

/-! `State.incBy` -/

@[simp] theorem State.incBy_pending (a n : Nat) : (s.incBy a n).pending = s.pending := rfl
@[simp] theorem State.incBy_shadow (a n : Nat) : (s.incBy a n).shadow = s.shadow := rfl
@[simp] theorem State.incBy_shadowNext (a n : Nat) : (s.incBy a n).shadowNext = s.shadowNext := rfl
@[simp] theorem State.incBy_latch (a n : Nat) : (s.incBy a n).latch = s.latch := rfl
@[simp] theorem State.incBy_staged (a n : Nat) : (s.incBy a n).staged = s.staged := rfl
@[simp] theorem State.incBy_claimed (a n : Nat) : (s.incBy a n).claimed = s.claimed := rfl
@[simp] theorem State.incBy_refused (a n : Nat) : (s.incBy a n).refused = s.refused := rfl
@[simp] theorem State.incBy_read (a n : Nat) : (s.incBy a n).read = s.read := rfl
@[simp] theorem State.incBy_time (a n : Nat) : (s.incBy a n).time = s.time := rfl
@[simp] theorem State.incBy_hold (a n : Nat) : (s.incBy a n).hold = s.hold := rfl
@[simp] theorem State.incBy_sched (a n : Nat) : (s.incBy a n).sched = s.sched := rfl
@[simp] theorem State.incBy_host (a n : Nat) : (s.incBy a n).host = s.host := rfl
@[simp] theorem State.incBy_results (a n : Nat) : (s.incBy a n).results = s.results := rfl
@[simp] theorem State.incBy_mem (a n : Nat) : (s.incBy a n).mem = s.mem := rfl
@[simp] theorem State.incBy_cast (a n : Nat) : (s.incBy a n).cast = s.cast := rfl
@[simp] theorem State.incBy_tiles (a n : Nat) : (s.incBy a n).tiles = s.tiles := rfl
@[simp] theorem State.incBy_ctxs (a n : Nat) : (s.incBy a n).ctxs = s.ctxs := rfl
@[simp] theorem State.incBy_sites (a n : Nat) : (s.incBy a n).sites = s.sites := rfl
@[simp] theorem State.incBy_chans (a n : Nat) : (s.incBy a n).chans = s.chans := rfl
@[simp] theorem State.incBy_wfss (a n : Nat) : (s.incBy a n).wfss = s.wfss := rfl
@[simp] theorem State.incBy_awgs (a n : Nat) : (s.incBy a n).awgs = s.awgs := rfl
@[simp] theorem State.incBy_acqs (a n : Nat) : (s.incBy a n).acqs = s.acqs := rfl
@[simp] theorem State.incBy_tdcs (a n : Nat) : (s.incBy a n).tdcs = s.tdcs := rfl
@[simp] theorem State.incBy_slices (a n : Nat) : (s.incBy a n).slices = s.slices := rfl
@[simp] theorem State.incBy_adcs (a n : Nat) : (s.incBy a n).adcs = s.adcs := rfl
@[simp] theorem State.incBy_mons (a n : Nat) : (s.incBy a n).mons = s.mons := rfl
@[simp] theorem State.incBy_trips (a n : Nat) : (s.incBy a n).trips = s.trips := rfl
@[simp] theorem State.incBy_cal (a n : Nat) : (s.incBy a n).cal = s.cal := rfl
@[simp] theorem State.incBy_nv (a n : Nat) : (s.incBy a n).nv = s.nv := rfl
@[simp] theorem State.incBy_loads (a n : Nat) : (s.incBy a n).loads = s.loads := rfl
@[simp] theorem State.incBy_fw (a n : Nat) : (s.incBy a n).fw = s.fw := rfl
@[simp] theorem State.incBy_start (a n : Nat) : (s.incBy a n).start = s.start := rfl
@[simp] theorem State.incBy_way (a n : Nat) : (s.incBy a n).way = s.way := rfl
@[simp] theorem State.incBy_chks (a n : Nat) : (s.incBy a n).chks = s.chks := rfl
@[simp] theorem State.incBy_therm (a n : Nat) : (s.incBy a n).therm = s.therm := rfl
@[simp] theorem State.incBy_cvy (a n : Nat) : (s.incBy a n).cvy = s.cvy := rfl
@[simp] theorem State.incBy_tap (a n : Nat) : (s.incBy a n).tap = s.tap := rfl
@[simp] theorem State.incBy_touch (a n : Nat) : (s.incBy a n).touch = s.touch := rfl
@[simp] theorem State.incBy_yardDown (a n : Nat) : (s.incBy a n).yardDown = s.yardDown := rfl
@[simp] theorem State.incBy_opens (a n : Nat) : (s.incBy a n).opens = s.opens := rfl

end Sys2Proof.Machine
end

