-- ==== Sys2Proof/Laws/Tables.lean ====
section
/-!
SUPPORT. Laws/Tables.lean: sparse tables keep their canonical form and read back what was written.
-/

namespace Sys2Proof.Machine

variable {α : Type}

/-- Every key of a table lies above `k`. -/
def tabAbove (k : Nat) (m : Tab α) : Prop := ∀ e ∈ m, k < e.1

theorem tabWf_cons [DecidableEq α] {d : Nat → α} {a : Nat} {v : α} {t : Tab α} :
    tabWf d ((a, v) :: t) = true ↔ v ≠ d a ∧ tabAbove a t ∧ tabWf d t = true := by
  simp [tabWf, tabAbove, and_assoc]

theorem tabErase_above {k a : Nat} {m : Tab α} (h : tabAbove k m) : tabAbove k (tabErase m a) := by
  induction m with
  | nil => exact h
  | cons e t ih =>
    obtain ⟨b, v⟩ := e
    have ht : tabAbove k t := fun x hx => h x (List.mem_cons_of_mem _ hx)
    have hb : k < b := h (b, v) (List.mem_cons_self)
    simp only [tabErase]
    split
    · exact ih ht
    · intro x hx
      rcases List.mem_cons.1 hx with rfl | hx
      · exact hb
      · exact ih ht x hx

theorem tabErase_wf [DecidableEq α] {d : Nat → α} {a : Nat} {m : Tab α} (h : tabWf d m = true) : tabWf d (tabErase m a) = true := by
  induction m with
  | nil => exact h
  | cons e t ih =>
    obtain ⟨b, v⟩ := e
    obtain ⟨hv, hb, ht⟩ := tabWf_cons.1 h
    simp only [tabErase]
    split
    · exact ih ht
    · exact tabWf_cons.2 ⟨hv, tabErase_above hb, ih ht⟩

theorem tabErase_ne {a : Nat} {m : Tab α} : ∀ e ∈ tabErase m a, e.1 ≠ a := by
  induction m with
  | nil => intro e he; cases he
  | cons e t ih =>
    obtain ⟨b, v⟩ := e
    simp only [tabErase]
    split
    · exact ih
    · rename_i hab
      intro x hx
      rcases List.mem_cons.1 hx with rfl | hx
      · exact fun h => hab h.symm
      · exact ih x hx

theorem tabInsert_above {k a : Nat} {v : α} {m : Tab α} (ha : k < a) (h : tabAbove k m) : tabAbove k (tabInsert m a v) := by
  induction m with
  | nil => intro x hx; rcases List.mem_cons.1 hx with rfl | hx; exacts [ha, (nomatch hx)]
  | cons e t ih =>
    obtain ⟨b, w⟩ := e
    have ht : tabAbove k t := fun x hx => h x (List.mem_cons_of_mem _ hx)
    have hb : k < b := h (b, w) List.mem_cons_self
    simp only [tabInsert]
    split <;> intro x hx <;> rcases List.mem_cons.1 hx with rfl | hx
    · exact ha
    · exact h x hx
    · exact hb
    · exact ih ht x hx

theorem tabInsert_wf [DecidableEq α] {d : Nat → α} {a : Nat} {v : α} {m : Tab α} (hv : v ≠ d a) (hn : ∀ e ∈ m, e.1 ≠ a)
    (h : tabWf d m = true) : tabWf d (tabInsert m a v) = true := by
  induction m with
  | nil => exact tabWf_cons.2 ⟨hv, (fun x hx => nomatch hx), rfl⟩
  | cons e t ih =>
    obtain ⟨b, w⟩ := e
    obtain ⟨hw, hb, ht⟩ := tabWf_cons.1 h
    simp only [tabInsert]
    split
    · rename_i hab
      refine tabWf_cons.2 ⟨hv, ?_, h⟩
      intro x hx
      rcases List.mem_cons.1 hx with rfl | hx
      · exact hab
      · exact Nat.lt_trans hab (hb x hx)
    · rename_i hab
      have hne : b ≠ a := hn (b, w) List.mem_cons_self
      exact tabWf_cons.2 ⟨hw, tabInsert_above (by omega) hb, ih (fun x hx => hn x (List.mem_cons_of_mem _ hx)) ht⟩

/-- Setting an entry keeps the canonical form. -/
theorem tabSet_wf [DecidableEq α] {d : Nat → α} {a : Nat} {v : α} {m : Tab α} (h : tabWf d m = true) : tabWf d (tabSet d m a v) = true := by
  unfold tabSet
  split
  · exact tabErase_wf h
  · rename_i hv
    exact tabInsert_wf hv tabErase_ne (tabErase_wf h)

theorem tabFilter_wf [DecidableEq α] {d : Nat → α} {p : Nat × α → Bool} {m : Tab α} (h : tabWf d m = true) :
    tabWf d (m.filter p) = true := by
  induction m with
  | nil => exact h
  | cons e t ih =>
    obtain ⟨b, v⟩ := e
    obtain ⟨hv, hb, ht⟩ := tabWf_cons.1 h
    simp only [List.filter_cons]
    split
    · exact tabWf_cons.2 ⟨hv, (fun x hx => hb x (List.mem_filter.1 hx).1), ih ht⟩
    · exact ih ht

theorem tabLookup_erase_self {a : Nat} {m : Tab α} : tabLookup (tabErase m a) a = none := by
  induction m with
  | nil => rfl
  | cons e t ih =>
    obtain ⟨b, v⟩ := e
    simp only [tabErase]
    split
    · exact ih
    · rename_i hab
      simp only [tabLookup, hab, if_false, ih]

theorem tabLookup_erase_ne {a k : Nat} {m : Tab α} (h : k ≠ a) : tabLookup (tabErase m a) k = tabLookup m k := by
  induction m with
  | nil => rfl
  | cons e t ih =>
    obtain ⟨b, v⟩ := e
    simp only [tabErase]
    split
    · rename_i hab
      subst hab
      simp only [tabLookup, h, if_false, ih]
    · simp only [tabLookup, ih]

theorem tabLookup_insert_self {a : Nat} {v : α} {m : Tab α} (hn : ∀ e ∈ m, e.1 ≠ a) : tabLookup (tabInsert m a v) a = some v := by
  induction m with
  | nil => simp [tabInsert, tabLookup]
  | cons e t ih =>
    obtain ⟨b, w⟩ := e
    have hne : a ≠ b := (hn (b, w) List.mem_cons_self).symm
    simp only [tabInsert]
    split
    · simp [tabLookup]
    · simp only [tabLookup, hne, if_false]
      exact ih fun x hx => hn x (List.mem_cons_of_mem _ hx)

theorem tabLookup_insert_ne {a k : Nat} {v : α} {m : Tab α} (h : k ≠ a) : tabLookup (tabInsert m a v) k = tabLookup m k := by
  induction m with
  | nil => simp [tabInsert, tabLookup, h]
  | cons e t ih =>
    obtain ⟨b, w⟩ := e
    simp only [tabInsert]
    split
    · simp only [tabLookup, h, if_false]
    · simp only [tabLookup, ih]

/-- A read after a write of the same key gives the value written. -/
@[simp] theorem tabGet_set_self [DecidableEq α] {d : Nat → α} {m : Tab α} {a : Nat} {v : α} : tabGet d (tabSet d m a v) a = v := by
  unfold tabGet tabSet
  split
  · rename_i hv
    rw [tabLookup_erase_self, hv]; rfl
  · rw [tabLookup_insert_self tabErase_ne]; rfl

/-- A write leaves every other key alone. -/
theorem tabGet_set_ne [DecidableEq α] {d : Nat → α} {m : Tab α} {a k : Nat} {v : α} (h : k ≠ a) :
    tabGet d (tabSet d m a v) k = tabGet d m k := by
  unfold tabGet tabSet
  split
  · rw [tabLookup_erase_ne h]
  · rw [tabLookup_insert_ne h, tabLookup_erase_ne h]

/-- A key at or below the head of a canonical table is listed nowhere after it. -/
theorem tabWf_head_lt [DecidableEq α] {d : Nat → α} {a k : Nat} {v : α} {t : Tab α} (h : tabWf d ((a, v) :: t) = true) (hk : k ≤ a) :
    tabLookup t k = none := by
  have hb := (tabWf_cons.1 h).2.1
  clear h
  induction t with
  | nil => rfl
  | cons e t ih =>
    obtain ⟨b, w⟩ := e
    have : a < b := hb (b, w) List.mem_cons_self
    have hne : k ≠ b := by omega
    simp only [tabLookup, hne, if_false]
    exact ih fun x hx => hb x (List.mem_cons_of_mem _ hx)

/-! Memory (Table 12.2). -/

/-- Storing bytes keeps device memory canonical. -/
theorem memStore_wf {m : Tab Byte} {a : Nat} {l : List Byte} (h : Memory.wf m = true) : Memory.wf (memStore m a l) = true := by
  induction l generalizing m a with
  | nil => exact h
  | cons b bs ih => exact ih (tabSet_wf h)

/-- Losing part of device memory keeps it canonical. -/
theorem memFilter_wf {m : Tab Byte} {p : Nat × Byte → Bool} (h : Memory.wf m = true) : Memory.wf (m.filter p) = true := tabFilter_wf h

/-- The module's writes keep host memory canonical. -/
theorem hostStore_wf {m : Tab (Option Byte)} {a : Nat} {l : List Byte} (h : HostMemory.wf m = true) : HostMemory.wf (hostStore m a l) = true := by
  induction l generalizing m a with
  | nil => exact h
  | cons b bs ih => exact ih (tabSet_wf h)

/-- A store leaves every byte outside it alone. -/
theorem memStore_outside {m : Tab Byte} {a k : Nat} {l : List Byte} (h : k < a ∨ a + l.length ≤ k) :
    tabGet (fun _ => 0#8) (memStore m a l) k = tabGet (fun _ => 0#8) m k := by
  induction l generalizing m a with
  | nil => rfl
  | cons b bs ih =>
    simp only [List.length_cons] at h
    rw [memStore, ih (by omega), tabGet_set_ne (by omega)]

/-! The CRC. -/

theorem crcFold_eq {c : BitVec 32} {l : List Byte} : crcFold c l = l.foldl crcByte c := by
  induction l generalizing c with
  | nil => rfl
  | cons b bs ih =>
    simp only [crcFold, List.foldl_cons]
    split
    · rename_i h; subst h; exact ih
    · exact ih

/-! Sorting. -/

theorem mem_insertBy {le : α → α → Bool} {x y : α} {l : List α} : y ∈ insertBy le x l ↔ y = x ∨ y ∈ l := by
  induction l with
  | nil => simp [insertBy]
  | cons z zs ih =>
    simp only [insertBy]
    split
    · simp
    · simp [ih]; tauto

/-- Sorting keeps the elements. -/
@[simp] theorem mem_sortBy {le : α → α → Bool} {y : α} {l : List α} : y ∈ sortBy le l ↔ y ∈ l := by
  induction l with
  | nil => simp [sortBy]
  | cons z zs ih => simp [sortBy, mem_insertBy, ih]

theorem length_insertBy {le : α → α → Bool} {x : α} {l : List α} : (insertBy le x l).length = l.length + 1 := by
  induction l with
  | nil => rfl
  | cons z zs ih =>
    simp only [insertBy]
    split
    · rfl
    · simp [ih]

/-- Sorting keeps the number of elements. -/
@[simp] theorem length_sortBy {le : α → α → Bool} {l : List α} : (sortBy le l).length = l.length := by
  induction l with
  | nil => rfl
  | cons z zs ih => simp [sortBy, length_insertBy, ih]

end Sys2Proof.Machine
end

