-- ==== Sys2Proof/Laws/Regs.lean ====
section
/-!
SUPPORT. Laws/Regs.lean: what a read of a register, of a byte or of a unit's record gives after each named update, and what an entry of
the run log, an event and a completion leave alone.
-/

namespace Sys2Proof.Machine

/-! Fields of a word. -/

theorem getLsbD_withBits (w : Word) (hi lo v i : Nat) (hl : lo ≤ hi) (hh : hi < 16) :
    (withBits w hi lo v).getLsbD i = if lo ≤ i ∧ i ≤ hi then v.testBit (i - lo) else w.getLsbD i := by
  have hm : ∀ i, ((2 ^ (hi - lo + 1) - 1) * 2 ^ lo).testBit i = decide (lo ≤ i ∧ i ≤ hi) := by
    intro i
    rw [Nat.testBit_mul_two_pow, Nat.testBit_two_pow_sub_one]
    by_cases h1 : lo ≤ i <;> by_cases h2 : i ≤ hi <;> simp [h1, h2] <;> omega
  unfold withBits
  simp only [BitVec.getLsbD_or, BitVec.getLsbD_and, BitVec.getLsbD_not, BitVec.getLsbD_ofNat, hm, Nat.testBit_mul_two_pow]
  by_cases h1 : lo ≤ i <;> by_cases h2 : i ≤ hi <;> by_cases h3 : i < 16 <;> simp [h1, h2, h3]
  all_goals first | omega | exact BitVec.getLsbD_of_ge _ _ (by omega)

/-- A field holds what was put into it. -/
theorem bitsOf_withBits (w : Word) (hi lo v : Nat) (hl : lo ≤ hi) (hh : hi < 16) :
    bitsOf (withBits w hi lo v) hi lo = v % 2 ^ (hi - lo + 1) := by
  apply Nat.eq_of_testBit_eq
  intro i
  unfold bitsOf
  rw [Nat.testBit_mod_two_pow, Nat.testBit_mod_two_pow, Nat.testBit_shiftRight, BitVec.testBit_toNat, getLsbD_withBits w hi lo v _ hl hh]
  by_cases h : i < hi - lo + 1
  · simp [h]; omega
  · simp [h]

/-! Registers. -/

theorem State.rd_wr (s : State) (a b : Nat) (w : Word) : (s.wr a w).rd b = if b = a then w else s.rd b := by
  unfold State.wr State.rd
  split
  · rename_i h; subst h; exact tabGet_set_self
  · rename_i h; exact tabGet_set_ne h

@[simp] theorem State.rd_wr_self (s : State) (a : Nat) (w : Word) : (s.wr a w).rd a = w := by simp [State.rd_wr]
theorem State.rd_wr_ne (s : State) {a b : Nat} (w : Word) (h : b ≠ a) : (s.wr a w).rd b = s.rd b := by simp [State.rd_wr, h]

/-- A read of a register depends on the register file alone. -/
theorem State.rd_congr {s t : State} (h : s.regs = t.regs) (a : Nat) : s.rd a = t.rd a := by unfold State.rd; rw [h]

theorem State.rd_setFld (s : State) (a hi lo v b : Nat) :
    (s.setFld a hi lo v).rd b = if b = a then withBits (s.rd a) hi lo v else s.rd b := by unfold State.setFld; rw [State.rd_wr]

theorem State.fld_setFld (s : State) (a hi lo v : Nat) (hl : lo ≤ hi) (hh : hi < 16) :
    (s.setFld a hi lo v).fld a hi lo = v % 2 ^ (hi - lo + 1) := by
  unfold State.fld; rw [State.rd_setFld, if_pos rfl, bitsOf_withBits _ _ _ _ hl hh]

theorem State.bit_setBit (s : State) (a b c d : Nat) (v : Bool) (h : b < 16) :
    (s.setBit a b v).bit c d = if c = a ∧ d = b then v else s.bit c d := by
  unfold State.bit State.setBit
  rw [State.rd_setFld]
  by_cases hc : c = a
  · subst hc
    rw [if_pos rfl, getLsbD_withBits _ _ _ _ _ (Nat.le_refl b) h]
    by_cases hd : d = b
    · subst hd; cases v <;> simp
    · have : ¬ (b ≤ d ∧ d ≤ b) := by omega
      simp [hd, this]
  · simp [hc]

theorem State.rd_evt (s : State) (a b c : Nat) :
    (s.evt a b).rd c = if c = a then s.rd a ||| BitVec.ofNat 16 (2 ^ b) else s.rd c :=
  (State.rd_congr (t := s.wr a (s.rd a ||| BitVec.ofNat 16 (2 ^ b))) rfl c).trans (State.rd_wr ..)

theorem State.bit_evt_self (s : State) (a b : Nat) (h : b < 16) : (s.evt a b).bit a b = true := by
  unfold State.bit
  rw [State.rd_evt, if_pos rfl, BitVec.getLsbD_or, BitVec.getLsbD_ofNat]
  simp [h]

theorem State.rd_incBy (s : State) (a n c : Nat) :
    (s.incBy a n).rd c = if c = a then BitVec.ofNat 16 (min 0xFFFF (s.rdN a + n)) else s.rd c :=
  (State.rd_congr (t := s.wr a (BitVec.ofNat 16 (min 0xFFFF (s.rdN a + n)))) rfl c).trans (State.rd_wr ..)

theorem State.rd_inc (s : State) (a c : Nat) :
    (s.inc a).rd c = if c = a then BitVec.ofNat 16 (min 0xFFFF (s.rdN a + 1)) else s.rd c := State.rd_incBy s a 1 c

@[simp] theorem State.rd_memWrite (s : State) (a : Nat) (l : List Byte) (c : Nat) : (s.memWrite a l).rd c = s.rd c := rfl
@[simp] theorem State.rd_hostWrite (s : State) (a : Nat) (l : List Byte) (c : Nat) : (s.hostWrite a l).rd c = s.rd c := rfl
@[simp] theorem State.rd_refuse (s : State) (a k c : Nat) : (s.refuse a k).rd c = s.rd c := rfl
@[simp] theorem State.rd_irqUrgent (s : State) (c : Nat) : s.irqUrgent.rd c = s.rd c := rfl
@[simp] theorem State.rd_complete (s : State) (tag op code d0 d1 d2 c : Nat) : (s.complete tag op code d0 d1 d2).rd c = s.rd c := rfl

theorem State.rd_setWide_two (s : State) (a v c : Nat) :
    (s.setWide a 2 v).rd c = if c = a + 2 then BitVec.ofNat 16 (v / 65536) else if c = a then BitVec.ofNat 16 v else s.rd c := by
  simp only [State.setWide, State.wrN, State.rd_wr]

/-! Memory. -/

/-- A store leaves every byte outside it alone. -/
theorem State.memByte_memWrite_outside (s : State) {a k : Nat} {l : List Byte} (h : k < a ∨ a + l.length ≤ k) :
    (s.memWrite a l).memByte k = s.memByte k := memStore_outside h

theorem memStore_inside {m : Tab Byte} {a i : Nat} {l : List Byte} (h : i < l.length) :
    tabGet (fun _ => 0#8) (memStore m a l) (a + i) = l[i] := by
  induction l generalizing m a i with
  | nil => exact absurd h (by simp)
  | cons b bs ih =>
    rw [memStore]
    cases i with
    | zero => rw [memStore_outside (by omega)]; exact tabGet_set_self
    | succ i =>
      have := ih (m := tabSet (fun _ => 0#8) m a b) (a := a + 1) (i := i) (by simpa using h)
      simpa [Nat.add_assoc, Nat.add_comm 1 i] using this

/-- A store puts its bytes in order. -/
theorem State.memByte_memWrite_inside (s : State) {a i : Nat} {l : List Byte} (h : i < l.length) :
    (s.memWrite a l).memByte (a + i) = l[i] := memStore_inside h

/-! Records of units. -/

@[simp] theorem State.wfs_setWfs_self (s : State) (u : Nat) (x : Wfs) : (s.setWfs u x).wfs u = x := tabGet_set_self
theorem State.wfs_setWfs_ne (s : State) {u v : Nat} (x : Wfs) (h : v ≠ u) : (s.setWfs u x).wfs v = s.wfs v := tabGet_set_ne h
@[simp] theorem State.rd_setWfs (s : State) (u : Nat) (x : Wfs) (c : Nat) : (s.setWfs u x).rd c = s.rd c := rfl
@[simp] theorem State.awg_setAwg_self (s : State) (u : Nat) (x : Awg) : (s.setAwg u x).awg u = x := tabGet_set_self
theorem State.awg_setAwg_ne (s : State) {u v : Nat} (x : Awg) (h : v ≠ u) : (s.setAwg u x).awg v = s.awg v := tabGet_set_ne h
@[simp] theorem State.rd_setAwg (s : State) (u : Nat) (x : Awg) (c : Nat) : (s.setAwg u x).rd c = s.rd c := rfl
@[simp] theorem State.acq_setAcq_self (s : State) (u : Nat) (x : Acq) : (s.setAcq u x).acq u = x := tabGet_set_self
theorem State.acq_setAcq_ne (s : State) {u v : Nat} (x : Acq) (h : v ≠ u) : (s.setAcq u x).acq v = s.acq v := tabGet_set_ne h
@[simp] theorem State.rd_setAcq (s : State) (u : Nat) (x : Acq) (c : Nat) : (s.setAcq u x).rd c = s.rd c := rfl
@[simp] theorem State.tdc_setTdc_self (s : State) (u : Nat) (x : Tdc) : (s.setTdc u x).tdc u = x := tabGet_set_self
theorem State.tdc_setTdc_ne (s : State) {u v : Nat} (x : Tdc) (h : v ≠ u) : (s.setTdc u x).tdc v = s.tdc v := tabGet_set_ne h
@[simp] theorem State.rd_setTdc (s : State) (u : Nat) (x : Tdc) (c : Nat) : (s.setTdc u x).rd c = s.rd c := rfl
@[simp] theorem State.slice_setSlice_self (s : State) (u : Nat) (x : Slice) : (s.setSlice u x).slice u = x := tabGet_set_self
theorem State.slice_setSlice_ne (s : State) {u v : Nat} (x : Slice) (h : v ≠ u) : (s.setSlice u x).slice v = s.slice v := tabGet_set_ne h
@[simp] theorem State.rd_setSlice (s : State) (u : Nat) (x : Slice) (c : Nat) : (s.setSlice u x).rd c = s.rd c := rfl
@[simp] theorem State.adc_setAdc_self (s : State) (u : Nat) (x : Adc) : (s.setAdc u x).adc u = x := tabGet_set_self
theorem State.adc_setAdc_ne (s : State) {u v : Nat} (x : Adc) (h : v ≠ u) : (s.setAdc u x).adc v = s.adc v := tabGet_set_ne h
@[simp] theorem State.rd_setAdc (s : State) (u : Nat) (x : Adc) (c : Nat) : (s.setAdc u x).rd c = s.rd c := rfl
@[simp] theorem State.mon_setMon_self (s : State) (u : Nat) (x : Monitor) : (s.setMon u x).mon u = x := tabGet_set_self
theorem State.mon_setMon_ne (s : State) {u v : Nat} (x : Monitor) (h : v ≠ u) : (s.setMon u x).mon v = s.mon v := tabGet_set_ne h
@[simp] theorem State.rd_setMon (s : State) (u : Nat) (x : Monitor) (c : Nat) : (s.setMon u x).rd c = s.rd c := rfl
@[simp] theorem State.ctx_setCtx_self (s : State) (u : Nat) (x : Ctx) : (s.setCtx u x).ctx u = x := tabGet_set_self
theorem State.ctx_setCtx_ne (s : State) {u v : Nat} (x : Ctx) (h : v ≠ u) : (s.setCtx u x).ctx v = s.ctx v := tabGet_set_ne h
@[simp] theorem State.rd_setCtx (s : State) (u : Nat) (x : Ctx) (c : Nat) : (s.setCtx u x).rd c = s.rd c := rfl
@[simp] theorem State.site_setSite_self (s : State) (u : Nat) (x : Site) : (s.setSite u x).site u = x := tabGet_set_self
theorem State.site_setSite_ne (s : State) {u v : Nat} (x : Site) (h : v ≠ u) : (s.setSite u x).site v = s.site v := tabGet_set_ne h
@[simp] theorem State.rd_setSite (s : State) (u : Nat) (x : Site) (c : Nat) : (s.setSite u x).rd c = s.rd c := rfl
@[simp] theorem State.chan_setChan_self (s : State) (u : Nat) (x : Chan) : (s.setChan u x).chan u = x := tabGet_set_self
theorem State.chan_setChan_ne (s : State) {u v : Nat} (x : Chan) (h : v ≠ u) : (s.setChan u x).chan v = s.chan v := tabGet_set_ne h
@[simp] theorem State.rd_setChan (s : State) (u : Nat) (x : Chan) (c : Nat) : (s.setChan u x).rd c = s.rd c := rfl
@[simp] theorem State.tile_setTile_self (s : State) (u : Nat) (x : Tile) : (s.setTile u x).tile u = x := tabGet_set_self
theorem State.tile_setTile_ne (s : State) {u v : Nat} (x : Tile) (h : v ≠ u) : (s.setTile u x).tile v = s.tile v := tabGet_set_ne h
@[simp] theorem State.rd_setTile (s : State) (u : Nat) (x : Tile) (c : Nat) : (s.setTile u x).rd c = s.rd c := rfl
@[simp] theorem State.chk_setChk_self (s : State) (u : Nat) (x : ChkUnit) : (s.setChk u x).chk u = x := tabGet_set_self
theorem State.chk_setChk_ne (s : State) {u v : Nat} (x : ChkUnit) (h : v ≠ u) : (s.setChk u x).chk v = s.chk v := tabGet_set_ne h
@[simp] theorem State.rd_setChk (s : State) (u : Nat) (x : ChkUnit) (c : Nat) : (s.setChk u x).rd c = s.rd c := rfl
@[simp] theorem State.toll_setToll_self (s : State) (u : Nat) (x : TollSlot) : (s.setToll u x).toll u = x := tabGet_set_self
theorem State.toll_setToll_ne (s : State) {u v : Nat} (x : TollSlot) (h : v ≠ u) : (s.setToll u x).toll v = s.toll v := tabGet_set_ne h
@[simp] theorem State.rd_setToll (s : State) (u : Nat) (x : TollSlot) (c : Nat) : (s.setToll u x).rd c = s.rd c := rfl
@[simp] theorem State.sensor_setSensor_self (s : State) (u : Nat) (x : Sensor) : (s.setSensor u x).sensor u = x := tabGet_set_self
theorem State.sensor_setSensor_ne (s : State) {u v : Nat} (x : Sensor) (h : v ≠ u) : (s.setSensor u x).sensor v = s.sensor v := tabGet_set_ne h
@[simp] theorem State.rd_setSensor (s : State) (u : Nat) (x : Sensor) (c : Nat) : (s.setSensor u x).rd c = s.rd c := rfl
@[simp] theorem State.queue_setQueue_self (s : State) (u : Nat) (x : ResQueue) : (s.setQueue u x).queue u = x := tabGet_set_self
theorem State.queue_setQueue_ne (s : State) {u v : Nat} (x : ResQueue) (h : v ≠ u) : (s.setQueue u x).queue v = s.queue v := tabGet_set_ne h
@[simp] theorem State.rd_setQueue (s : State) (u : Nat) (x : ResQueue) (c : Nat) : (s.setQueue u x).rd c = s.rd c := rfl
@[simp] theorem State.wfs_wr (s : State) (a : Nat) (w : Word) (u : Nat) : (s.wr a w).wfs u = s.wfs u := rfl
@[simp] theorem State.wfs_evt (s : State) (a b u : Nat) : (s.evt a b).wfs u = s.wfs u := rfl
@[simp] theorem State.wfs_incBy (s : State) (a n u : Nat) : (s.incBy a n).wfs u = s.wfs u := rfl
@[simp] theorem State.awg_wr (s : State) (a : Nat) (w : Word) (u : Nat) : (s.wr a w).awg u = s.awg u := rfl
@[simp] theorem State.awg_evt (s : State) (a b u : Nat) : (s.evt a b).awg u = s.awg u := rfl
@[simp] theorem State.awg_incBy (s : State) (a n u : Nat) : (s.incBy a n).awg u = s.awg u := rfl
@[simp] theorem State.acq_wr (s : State) (a : Nat) (w : Word) (u : Nat) : (s.wr a w).acq u = s.acq u := rfl
@[simp] theorem State.acq_evt (s : State) (a b u : Nat) : (s.evt a b).acq u = s.acq u := rfl
@[simp] theorem State.acq_incBy (s : State) (a n u : Nat) : (s.incBy a n).acq u = s.acq u := rfl
@[simp] theorem State.tdc_wr (s : State) (a : Nat) (w : Word) (u : Nat) : (s.wr a w).tdc u = s.tdc u := rfl
@[simp] theorem State.tdc_evt (s : State) (a b u : Nat) : (s.evt a b).tdc u = s.tdc u := rfl
@[simp] theorem State.tdc_incBy (s : State) (a n u : Nat) : (s.incBy a n).tdc u = s.tdc u := rfl
@[simp] theorem State.slice_wr (s : State) (a : Nat) (w : Word) (u : Nat) : (s.wr a w).slice u = s.slice u := rfl
@[simp] theorem State.slice_evt (s : State) (a b u : Nat) : (s.evt a b).slice u = s.slice u := rfl
@[simp] theorem State.slice_incBy (s : State) (a n u : Nat) : (s.incBy a n).slice u = s.slice u := rfl
@[simp] theorem State.adc_wr (s : State) (a : Nat) (w : Word) (u : Nat) : (s.wr a w).adc u = s.adc u := rfl
@[simp] theorem State.adc_evt (s : State) (a b u : Nat) : (s.evt a b).adc u = s.adc u := rfl
@[simp] theorem State.adc_incBy (s : State) (a n u : Nat) : (s.incBy a n).adc u = s.adc u := rfl
@[simp] theorem State.mon_wr (s : State) (a : Nat) (w : Word) (u : Nat) : (s.wr a w).mon u = s.mon u := rfl
@[simp] theorem State.mon_evt (s : State) (a b u : Nat) : (s.evt a b).mon u = s.mon u := rfl
@[simp] theorem State.mon_incBy (s : State) (a n u : Nat) : (s.incBy a n).mon u = s.mon u := rfl
@[simp] theorem State.ctx_wr (s : State) (a : Nat) (w : Word) (u : Nat) : (s.wr a w).ctx u = s.ctx u := rfl
@[simp] theorem State.ctx_evt (s : State) (a b u : Nat) : (s.evt a b).ctx u = s.ctx u := rfl
@[simp] theorem State.ctx_incBy (s : State) (a n u : Nat) : (s.incBy a n).ctx u = s.ctx u := rfl
@[simp] theorem State.site_wr (s : State) (a : Nat) (w : Word) (u : Nat) : (s.wr a w).site u = s.site u := rfl
@[simp] theorem State.site_evt (s : State) (a b u : Nat) : (s.evt a b).site u = s.site u := rfl
@[simp] theorem State.site_incBy (s : State) (a n u : Nat) : (s.incBy a n).site u = s.site u := rfl
@[simp] theorem State.chan_wr (s : State) (a : Nat) (w : Word) (u : Nat) : (s.wr a w).chan u = s.chan u := rfl
@[simp] theorem State.chan_evt (s : State) (a b u : Nat) : (s.evt a b).chan u = s.chan u := rfl
@[simp] theorem State.chan_incBy (s : State) (a n u : Nat) : (s.incBy a n).chan u = s.chan u := rfl
@[simp] theorem State.tile_wr (s : State) (a : Nat) (w : Word) (u : Nat) : (s.wr a w).tile u = s.tile u := rfl
@[simp] theorem State.tile_evt (s : State) (a b u : Nat) : (s.evt a b).tile u = s.tile u := rfl
@[simp] theorem State.tile_incBy (s : State) (a n u : Nat) : (s.incBy a n).tile u = s.tile u := rfl
@[simp] theorem State.chk_wr (s : State) (a : Nat) (w : Word) (u : Nat) : (s.wr a w).chk u = s.chk u := rfl
@[simp] theorem State.chk_evt (s : State) (a b u : Nat) : (s.evt a b).chk u = s.chk u := rfl
@[simp] theorem State.chk_incBy (s : State) (a n u : Nat) : (s.incBy a n).chk u = s.chk u := rfl
@[simp] theorem State.toll_wr (s : State) (a : Nat) (w : Word) (u : Nat) : (s.wr a w).toll u = s.toll u := rfl
@[simp] theorem State.toll_evt (s : State) (a b u : Nat) : (s.evt a b).toll u = s.toll u := rfl
@[simp] theorem State.toll_incBy (s : State) (a n u : Nat) : (s.incBy a n).toll u = s.toll u := rfl
@[simp] theorem State.sensor_wr (s : State) (a : Nat) (w : Word) (u : Nat) : (s.wr a w).sensor u = s.sensor u := rfl
@[simp] theorem State.sensor_evt (s : State) (a b u : Nat) : (s.evt a b).sensor u = s.sensor u := rfl
@[simp] theorem State.sensor_incBy (s : State) (a n u : Nat) : (s.incBy a n).sensor u = s.sensor u := rfl
@[simp] theorem State.queue_wr (s : State) (a : Nat) (w : Word) (u : Nat) : (s.wr a w).queue u = s.queue u := rfl
@[simp] theorem State.queue_evt (s : State) (a b u : Nat) : (s.evt a b).queue u = s.queue u := rfl
@[simp] theorem State.queue_incBy (s : State) (a n u : Nat) : (s.incBy a n).queue u = s.queue u := rfl

/-! The run log. -/

/-- The registers that an entry of the run log moves. -/
def logRegs : List Nat := [HST_LOG_WR, HST_LOG_WR + 2, HST_LOG_LOST, HST_EVT]

theorem ite_of {α : Type} {p : Prop} [Decidable p] {x y : α} {Q : α → Prop} (hx : Q x) (hy : Q y) : Q (if p then x else y) := by
  by_cases h : p
  · rw [if_pos h]; exact hx
  · rw [if_neg h]; exact hy

/-- An entry of the run log stores bytes, moves HST_LOG_WR, and where it overwrites counts the loss. -/
theorem State.logEntry_shape (s : State) (type flags time : Nat) (p : List Byte) {Q : State → Prop}
    (h1 : ∀ a l w, Q ((s.memWrite a l).setWide HST_LOG_WR 2 w))
    (h2 : ∀ a l w, Q ((((s.memWrite a l).setWide HST_LOG_WR 2 w).inc HST_LOG_LOST).evt HST_EVT 3)) :
    Q (s.logEntry type flags time p) := ite_of (h2 _ _ _) (h1 _ _ _)

theorem State.rd_logEntry (s : State) (type flags time : Nat) (p : List Byte) {c : Nat} (h : c ∉ logRegs) :
    (s.logEntry type flags time p).rd c = s.rd c := by
  simp only [logRegs, List.mem_cons, List.not_mem_nil, or_false, not_or] at h
  refine State.logEntry_shape (Q := fun t => t.rd c = s.rd c) s _ _ _ _ ?_ ?_ <;> intro a l w <;>
    simp [State.rd_evt, State.rd_inc, State.rd_setWide_two, h]

theorem State.rd_log (s : State) (type time : Nat) (p : List Byte) {c : Nat} (h : c ∉ logRegs) :
    (s.log type time p).rd c = s.rd c := State.rd_logEntry s type 0 time p h

@[simp] theorem State.logEntry_pending (s : State) (type flags time : Nat) (p : List Byte) : (s.logEntry type flags time p).pending = s.pending :=
  State.logEntry_shape (Q := fun t => t.pending = s.pending) s _ _ _ _ (fun _ _ _ => rfl) (fun _ _ _ => rfl)
@[simp] theorem State.logEntry_shadow (s : State) (type flags time : Nat) (p : List Byte) : (s.logEntry type flags time p).shadow = s.shadow :=
  State.logEntry_shape (Q := fun t => t.shadow = s.shadow) s _ _ _ _ (fun _ _ _ => rfl) (fun _ _ _ => rfl)
@[simp] theorem State.logEntry_shadowNext (s : State) (type flags time : Nat) (p : List Byte) : (s.logEntry type flags time p).shadowNext = s.shadowNext :=
  State.logEntry_shape (Q := fun t => t.shadowNext = s.shadowNext) s _ _ _ _ (fun _ _ _ => rfl) (fun _ _ _ => rfl)
@[simp] theorem State.logEntry_latch (s : State) (type flags time : Nat) (p : List Byte) : (s.logEntry type flags time p).latch = s.latch :=
  State.logEntry_shape (Q := fun t => t.latch = s.latch) s _ _ _ _ (fun _ _ _ => rfl) (fun _ _ _ => rfl)
@[simp] theorem State.logEntry_staged (s : State) (type flags time : Nat) (p : List Byte) : (s.logEntry type flags time p).staged = s.staged :=
  State.logEntry_shape (Q := fun t => t.staged = s.staged) s _ _ _ _ (fun _ _ _ => rfl) (fun _ _ _ => rfl)
@[simp] theorem State.logEntry_claimed (s : State) (type flags time : Nat) (p : List Byte) : (s.logEntry type flags time p).claimed = s.claimed :=
  State.logEntry_shape (Q := fun t => t.claimed = s.claimed) s _ _ _ _ (fun _ _ _ => rfl) (fun _ _ _ => rfl)
@[simp] theorem State.logEntry_refused (s : State) (type flags time : Nat) (p : List Byte) : (s.logEntry type flags time p).refused = s.refused :=
  State.logEntry_shape (Q := fun t => t.refused = s.refused) s _ _ _ _ (fun _ _ _ => rfl) (fun _ _ _ => rfl)
@[simp] theorem State.logEntry_read (s : State) (type flags time : Nat) (p : List Byte) : (s.logEntry type flags time p).read = s.read :=
  State.logEntry_shape (Q := fun t => t.read = s.read) s _ _ _ _ (fun _ _ _ => rfl) (fun _ _ _ => rfl)
@[simp] theorem State.logEntry_time (s : State) (type flags time : Nat) (p : List Byte) : (s.logEntry type flags time p).time = s.time :=
  State.logEntry_shape (Q := fun t => t.time = s.time) s _ _ _ _ (fun _ _ _ => rfl) (fun _ _ _ => rfl)
@[simp] theorem State.logEntry_hold (s : State) (type flags time : Nat) (p : List Byte) : (s.logEntry type flags time p).hold = s.hold :=
  State.logEntry_shape (Q := fun t => t.hold = s.hold) s _ _ _ _ (fun _ _ _ => rfl) (fun _ _ _ => rfl)
@[simp] theorem State.logEntry_sched (s : State) (type flags time : Nat) (p : List Byte) : (s.logEntry type flags time p).sched = s.sched :=
  State.logEntry_shape (Q := fun t => t.sched = s.sched) s _ _ _ _ (fun _ _ _ => rfl) (fun _ _ _ => rfl)
@[simp] theorem State.logEntry_results (s : State) (type flags time : Nat) (p : List Byte) : (s.logEntry type flags time p).results = s.results :=
  State.logEntry_shape (Q := fun t => t.results = s.results) s _ _ _ _ (fun _ _ _ => rfl) (fun _ _ _ => rfl)
@[simp] theorem State.logEntry_cast (s : State) (type flags time : Nat) (p : List Byte) : (s.logEntry type flags time p).cast = s.cast :=
  State.logEntry_shape (Q := fun t => t.cast = s.cast) s _ _ _ _ (fun _ _ _ => rfl) (fun _ _ _ => rfl)
@[simp] theorem State.logEntry_tiles (s : State) (type flags time : Nat) (p : List Byte) : (s.logEntry type flags time p).tiles = s.tiles :=
  State.logEntry_shape (Q := fun t => t.tiles = s.tiles) s _ _ _ _ (fun _ _ _ => rfl) (fun _ _ _ => rfl)
@[simp] theorem State.logEntry_ctxs (s : State) (type flags time : Nat) (p : List Byte) : (s.logEntry type flags time p).ctxs = s.ctxs :=
  State.logEntry_shape (Q := fun t => t.ctxs = s.ctxs) s _ _ _ _ (fun _ _ _ => rfl) (fun _ _ _ => rfl)
@[simp] theorem State.logEntry_sites (s : State) (type flags time : Nat) (p : List Byte) : (s.logEntry type flags time p).sites = s.sites :=
  State.logEntry_shape (Q := fun t => t.sites = s.sites) s _ _ _ _ (fun _ _ _ => rfl) (fun _ _ _ => rfl)
@[simp] theorem State.logEntry_chans (s : State) (type flags time : Nat) (p : List Byte) : (s.logEntry type flags time p).chans = s.chans :=
  State.logEntry_shape (Q := fun t => t.chans = s.chans) s _ _ _ _ (fun _ _ _ => rfl) (fun _ _ _ => rfl)
@[simp] theorem State.logEntry_wfss (s : State) (type flags time : Nat) (p : List Byte) : (s.logEntry type flags time p).wfss = s.wfss :=
  State.logEntry_shape (Q := fun t => t.wfss = s.wfss) s _ _ _ _ (fun _ _ _ => rfl) (fun _ _ _ => rfl)
@[simp] theorem State.logEntry_awgs (s : State) (type flags time : Nat) (p : List Byte) : (s.logEntry type flags time p).awgs = s.awgs :=
  State.logEntry_shape (Q := fun t => t.awgs = s.awgs) s _ _ _ _ (fun _ _ _ => rfl) (fun _ _ _ => rfl)
@[simp] theorem State.logEntry_acqs (s : State) (type flags time : Nat) (p : List Byte) : (s.logEntry type flags time p).acqs = s.acqs :=
  State.logEntry_shape (Q := fun t => t.acqs = s.acqs) s _ _ _ _ (fun _ _ _ => rfl) (fun _ _ _ => rfl)
@[simp] theorem State.logEntry_tdcs (s : State) (type flags time : Nat) (p : List Byte) : (s.logEntry type flags time p).tdcs = s.tdcs :=
  State.logEntry_shape (Q := fun t => t.tdcs = s.tdcs) s _ _ _ _ (fun _ _ _ => rfl) (fun _ _ _ => rfl)
@[simp] theorem State.logEntry_slices (s : State) (type flags time : Nat) (p : List Byte) : (s.logEntry type flags time p).slices = s.slices :=
  State.logEntry_shape (Q := fun t => t.slices = s.slices) s _ _ _ _ (fun _ _ _ => rfl) (fun _ _ _ => rfl)
@[simp] theorem State.logEntry_adcs (s : State) (type flags time : Nat) (p : List Byte) : (s.logEntry type flags time p).adcs = s.adcs :=
  State.logEntry_shape (Q := fun t => t.adcs = s.adcs) s _ _ _ _ (fun _ _ _ => rfl) (fun _ _ _ => rfl)
@[simp] theorem State.logEntry_mons (s : State) (type flags time : Nat) (p : List Byte) : (s.logEntry type flags time p).mons = s.mons :=
  State.logEntry_shape (Q := fun t => t.mons = s.mons) s _ _ _ _ (fun _ _ _ => rfl) (fun _ _ _ => rfl)
@[simp] theorem State.logEntry_trips (s : State) (type flags time : Nat) (p : List Byte) : (s.logEntry type flags time p).trips = s.trips :=
  State.logEntry_shape (Q := fun t => t.trips = s.trips) s _ _ _ _ (fun _ _ _ => rfl) (fun _ _ _ => rfl)
@[simp] theorem State.logEntry_cal (s : State) (type flags time : Nat) (p : List Byte) : (s.logEntry type flags time p).cal = s.cal :=
  State.logEntry_shape (Q := fun t => t.cal = s.cal) s _ _ _ _ (fun _ _ _ => rfl) (fun _ _ _ => rfl)
@[simp] theorem State.logEntry_nv (s : State) (type flags time : Nat) (p : List Byte) : (s.logEntry type flags time p).nv = s.nv :=
  State.logEntry_shape (Q := fun t => t.nv = s.nv) s _ _ _ _ (fun _ _ _ => rfl) (fun _ _ _ => rfl)
@[simp] theorem State.logEntry_loads (s : State) (type flags time : Nat) (p : List Byte) : (s.logEntry type flags time p).loads = s.loads :=
  State.logEntry_shape (Q := fun t => t.loads = s.loads) s _ _ _ _ (fun _ _ _ => rfl) (fun _ _ _ => rfl)
@[simp] theorem State.logEntry_fw (s : State) (type flags time : Nat) (p : List Byte) : (s.logEntry type flags time p).fw = s.fw :=
  State.logEntry_shape (Q := fun t => t.fw = s.fw) s _ _ _ _ (fun _ _ _ => rfl) (fun _ _ _ => rfl)
@[simp] theorem State.logEntry_start (s : State) (type flags time : Nat) (p : List Byte) : (s.logEntry type flags time p).start = s.start :=
  State.logEntry_shape (Q := fun t => t.start = s.start) s _ _ _ _ (fun _ _ _ => rfl) (fun _ _ _ => rfl)
@[simp] theorem State.logEntry_way (s : State) (type flags time : Nat) (p : List Byte) : (s.logEntry type flags time p).way = s.way :=
  State.logEntry_shape (Q := fun t => t.way = s.way) s _ _ _ _ (fun _ _ _ => rfl) (fun _ _ _ => rfl)
@[simp] theorem State.logEntry_chks (s : State) (type flags time : Nat) (p : List Byte) : (s.logEntry type flags time p).chks = s.chks :=
  State.logEntry_shape (Q := fun t => t.chks = s.chks) s _ _ _ _ (fun _ _ _ => rfl) (fun _ _ _ => rfl)
@[simp] theorem State.logEntry_therm (s : State) (type flags time : Nat) (p : List Byte) : (s.logEntry type flags time p).therm = s.therm :=
  State.logEntry_shape (Q := fun t => t.therm = s.therm) s _ _ _ _ (fun _ _ _ => rfl) (fun _ _ _ => rfl)
@[simp] theorem State.logEntry_cvy (s : State) (type flags time : Nat) (p : List Byte) : (s.logEntry type flags time p).cvy = s.cvy :=
  State.logEntry_shape (Q := fun t => t.cvy = s.cvy) s _ _ _ _ (fun _ _ _ => rfl) (fun _ _ _ => rfl)
@[simp] theorem State.logEntry_tap (s : State) (type flags time : Nat) (p : List Byte) : (s.logEntry type flags time p).tap = s.tap :=
  State.logEntry_shape (Q := fun t => t.tap = s.tap) s _ _ _ _ (fun _ _ _ => rfl) (fun _ _ _ => rfl)
@[simp] theorem State.logEntry_touch (s : State) (type flags time : Nat) (p : List Byte) : (s.logEntry type flags time p).touch = s.touch :=
  State.logEntry_shape (Q := fun t => t.touch = s.touch) s _ _ _ _ (fun _ _ _ => rfl) (fun _ _ _ => rfl)
@[simp] theorem State.logEntry_yardDown (s : State) (type flags time : Nat) (p : List Byte) : (s.logEntry type flags time p).yardDown = s.yardDown :=
  State.logEntry_shape (Q := fun t => t.yardDown = s.yardDown) s _ _ _ _ (fun _ _ _ => rfl) (fun _ _ _ => rfl)
@[simp] theorem State.logEntry_opens (s : State) (type flags time : Nat) (p : List Byte) : (s.logEntry type flags time p).opens = s.opens :=
  State.logEntry_shape (Q := fun t => t.opens = s.opens) s _ _ _ _ (fun _ _ _ => rfl) (fun _ _ _ => rfl)
@[simp] theorem State.log_pending (s : State) (type time : Nat) (p : List Byte) : (s.log type time p).pending = s.pending := State.logEntry_pending ..
@[simp] theorem State.log_shadow (s : State) (type time : Nat) (p : List Byte) : (s.log type time p).shadow = s.shadow := State.logEntry_shadow ..
@[simp] theorem State.log_shadowNext (s : State) (type time : Nat) (p : List Byte) : (s.log type time p).shadowNext = s.shadowNext := State.logEntry_shadowNext ..
@[simp] theorem State.log_latch (s : State) (type time : Nat) (p : List Byte) : (s.log type time p).latch = s.latch := State.logEntry_latch ..
@[simp] theorem State.log_staged (s : State) (type time : Nat) (p : List Byte) : (s.log type time p).staged = s.staged := State.logEntry_staged ..
@[simp] theorem State.log_claimed (s : State) (type time : Nat) (p : List Byte) : (s.log type time p).claimed = s.claimed := State.logEntry_claimed ..
@[simp] theorem State.log_refused (s : State) (type time : Nat) (p : List Byte) : (s.log type time p).refused = s.refused := State.logEntry_refused ..
@[simp] theorem State.log_read (s : State) (type time : Nat) (p : List Byte) : (s.log type time p).read = s.read := State.logEntry_read ..
@[simp] theorem State.log_time (s : State) (type time : Nat) (p : List Byte) : (s.log type time p).time = s.time := State.logEntry_time ..
@[simp] theorem State.log_hold (s : State) (type time : Nat) (p : List Byte) : (s.log type time p).hold = s.hold := State.logEntry_hold ..
@[simp] theorem State.log_sched (s : State) (type time : Nat) (p : List Byte) : (s.log type time p).sched = s.sched := State.logEntry_sched ..
@[simp] theorem State.log_results (s : State) (type time : Nat) (p : List Byte) : (s.log type time p).results = s.results := State.logEntry_results ..
@[simp] theorem State.log_cast (s : State) (type time : Nat) (p : List Byte) : (s.log type time p).cast = s.cast := State.logEntry_cast ..
@[simp] theorem State.log_tiles (s : State) (type time : Nat) (p : List Byte) : (s.log type time p).tiles = s.tiles := State.logEntry_tiles ..
@[simp] theorem State.log_ctxs (s : State) (type time : Nat) (p : List Byte) : (s.log type time p).ctxs = s.ctxs := State.logEntry_ctxs ..
@[simp] theorem State.log_sites (s : State) (type time : Nat) (p : List Byte) : (s.log type time p).sites = s.sites := State.logEntry_sites ..
@[simp] theorem State.log_chans (s : State) (type time : Nat) (p : List Byte) : (s.log type time p).chans = s.chans := State.logEntry_chans ..
@[simp] theorem State.log_wfss (s : State) (type time : Nat) (p : List Byte) : (s.log type time p).wfss = s.wfss := State.logEntry_wfss ..
@[simp] theorem State.log_awgs (s : State) (type time : Nat) (p : List Byte) : (s.log type time p).awgs = s.awgs := State.logEntry_awgs ..
@[simp] theorem State.log_acqs (s : State) (type time : Nat) (p : List Byte) : (s.log type time p).acqs = s.acqs := State.logEntry_acqs ..
@[simp] theorem State.log_tdcs (s : State) (type time : Nat) (p : List Byte) : (s.log type time p).tdcs = s.tdcs := State.logEntry_tdcs ..
@[simp] theorem State.log_slices (s : State) (type time : Nat) (p : List Byte) : (s.log type time p).slices = s.slices := State.logEntry_slices ..
@[simp] theorem State.log_adcs (s : State) (type time : Nat) (p : List Byte) : (s.log type time p).adcs = s.adcs := State.logEntry_adcs ..
@[simp] theorem State.log_mons (s : State) (type time : Nat) (p : List Byte) : (s.log type time p).mons = s.mons := State.logEntry_mons ..
@[simp] theorem State.log_trips (s : State) (type time : Nat) (p : List Byte) : (s.log type time p).trips = s.trips := State.logEntry_trips ..
@[simp] theorem State.log_cal (s : State) (type time : Nat) (p : List Byte) : (s.log type time p).cal = s.cal := State.logEntry_cal ..
@[simp] theorem State.log_nv (s : State) (type time : Nat) (p : List Byte) : (s.log type time p).nv = s.nv := State.logEntry_nv ..
@[simp] theorem State.log_loads (s : State) (type time : Nat) (p : List Byte) : (s.log type time p).loads = s.loads := State.logEntry_loads ..
@[simp] theorem State.log_fw (s : State) (type time : Nat) (p : List Byte) : (s.log type time p).fw = s.fw := State.logEntry_fw ..
@[simp] theorem State.log_start (s : State) (type time : Nat) (p : List Byte) : (s.log type time p).start = s.start := State.logEntry_start ..
@[simp] theorem State.log_way (s : State) (type time : Nat) (p : List Byte) : (s.log type time p).way = s.way := State.logEntry_way ..
@[simp] theorem State.log_chks (s : State) (type time : Nat) (p : List Byte) : (s.log type time p).chks = s.chks := State.logEntry_chks ..
@[simp] theorem State.log_therm (s : State) (type time : Nat) (p : List Byte) : (s.log type time p).therm = s.therm := State.logEntry_therm ..
@[simp] theorem State.log_cvy (s : State) (type time : Nat) (p : List Byte) : (s.log type time p).cvy = s.cvy := State.logEntry_cvy ..
@[simp] theorem State.log_tap (s : State) (type time : Nat) (p : List Byte) : (s.log type time p).tap = s.tap := State.logEntry_tap ..
@[simp] theorem State.log_touch (s : State) (type time : Nat) (p : List Byte) : (s.log type time p).touch = s.touch := State.logEntry_touch ..
@[simp] theorem State.log_yardDown (s : State) (type time : Nat) (p : List Byte) : (s.log type time p).yardDown = s.yardDown := State.logEntry_yardDown ..
@[simp] theorem State.log_opens (s : State) (type time : Nat) (p : List Byte) : (s.log type time p).opens = s.opens := State.logEntry_opens ..

end Sys2Proof.Machine
end

