-- ==== Sys2Proof/Laws/Frames.lean ====
section
/-!
SUPPORT. Laws/Frames.lean: what each named update adds to a frame (`Frame`), so that the frame of a command follows its meaning step by
step.
-/

namespace Sys2Proof.Machine

variable {l : List Nat} {s t : State}

theorem Frame.refl : Frame l s s := ⟨fun _ _ => rfl, ⟨rfl, rfl⟩, fun _ => rfl, fun _ => rfl, rfl, rfl⟩

theorem Frame.trans {u : State} (h : Frame l s t) (g : Frame l t u) : Frame l s u :=
  ⟨fun a ha => (g.regs a ha).trans (h.regs a ha), ⟨g.shadow.1.trans h.shadow.1, g.shadow.2.trans h.shadow.2⟩,
    fun a => (g.mem a).trans (h.mem a), fun a => (g.hostMem a).trans (h.hostMem a), g.nv.trans h.nv, g.pending.trans h.pending⟩

theorem Frame.mono {k : List Nat} (h : Frame l s t) (hk : ∀ a ∈ l, a ∈ k) : Frame k s t :=
  ⟨fun a ha => h.regs a fun x => ha (hk a x), h.shadow, h.mem, h.hostMem, h.nv, h.pending⟩

/-- An update of what no frame speaks of. -/
theorem Frame.upd {u : State} (h : Frame l s t) (hr : u.regs = t.regs) (hs : u.shadow = t.shadow) (hx : u.shadowNext = t.shadowNext)
    (hm : u.mem = t.mem) (hh : u.host.mem = t.host.mem) (hn : u.nv = t.nv) (hp : u.pending = t.pending) : Frame l s u :=
  ⟨fun a ha => (State.rd_congr hr a).trans (h.regs a ha), ⟨hs.trans h.shadow.1, hx.trans h.shadow.2⟩,
    fun a => (by unfold State.memByte; rw [hm] : u.memByte a = t.memByte a).trans (h.mem a),
    fun a => (by unfold State.hostByte; rw [hh] : u.hostByte a = t.hostByte a).trans (h.hostMem a), hn.trans h.nv, hp.trans h.pending⟩

theorem Frame.wr (h : Frame l s t) {a : Nat} {w : Word} (ha : a ∈ l) : Frame l s (t.wr a w) :=
  ⟨fun b hb => (State.rd_wr_ne t w fun e => hb (by rw [e]; exact ha)).trans (h.regs b hb), h.shadow, h.mem, h.hostMem, h.nv, h.pending⟩

theorem Frame.wrN (h : Frame l s t) {a v : Nat} (ha : a ∈ l) : Frame l s (t.wrN a v) := h.wr ha
theorem Frame.setFld (h : Frame l s t) {a hi lo v : Nat} (ha : a ∈ l) : Frame l s (t.setFld a hi lo v) := h.wr ha
theorem Frame.setBit (h : Frame l s t) {a b : Nat} {v : Bool} (ha : a ∈ l) : Frame l s (t.setBit a b v) := h.wr ha

theorem Frame.setWords (h : Frame l s t) {a : Nat} {ws : List Nat} (ha : ∀ i < ws.length, a + 2 * i ∈ l) : Frame l s (t.setWords a ws) := by
  induction ws generalizing t a with
  | nil => exact h
  | cons v ws ih =>
    refine ih (h.wrN (a := a) (v := v) (by simpa using ha 0 (by simp))) fun i hi => ?_
    have := ha (i + 1) (by simpa using hi)
    rwa [Nat.mul_add, Nat.mul_one, Nat.add_comm (2 * i) 2, ← Nat.add_assoc] at this

theorem Frame.setWide (h : Frame l s t) {a n v : Nat} (ha : ∀ i < n, a + 2 * i ∈ l) : Frame l s (t.setWide a n v) := by
  induction n generalizing t a v with
  | zero => exact h
  | succ n ih =>
    refine ih (h.wrN (a := a) (v := v) (by simpa using ha 0 (by simp))) fun i hi => ?_
    have := ha (i + 1) (by omega)
    rwa [Nat.mul_add, Nat.mul_one, Nat.add_comm (2 * i) 2, ← Nat.add_assoc] at this

theorem Frame.evt (h : Frame l s t) {a b : Nat} (ha : a ∈ l) : Frame l s (t.evt a b) :=
  (h.wr (w := t.rd a ||| BitVec.ofNat 16 (2 ^ b)) ha).upd rfl rfl rfl rfl
    (by unfold State.evt; dsimp only; split <;> rfl) rfl rfl

theorem Frame.incBy (h : Frame l s t) {a n : Nat} (ha : a ∈ l) : Frame l s (t.incBy a n) :=
  (h.wr (w := BitVec.ofNat 16 (min 0xFFFF (t.rdN a + n))) ha).upd rfl rfl rfl rfl rfl rfl rfl
theorem Frame.inc (h : Frame l s t) {a : Nat} (ha : a ∈ l) : Frame l s (t.inc a) := h.incBy ha

theorem Frame.refuse (h : Frame l s t) {a c : Nat} : Frame l s (t.refuse a c) := h.upd rfl rfl rfl rfl rfl rfl rfl
theorem Frame.irqUrgent (h : Frame l s t) : Frame l s t.irqUrgent := h.upd rfl rfl rfl rfl rfl rfl rfl
theorem Frame.free (h : Frame l s t) : Frame l s t.free.2 := h.upd rfl rfl rfl rfl rfl rfl rfl
theorem Frame.complete (h : Frame l s t) {tag op code d0 d1 d2 : Nat} : Frame l s (t.complete tag op code d0 d1 d2) :=
  h.upd rfl rfl rfl rfl rfl rfl rfl
theorem Frame.pushResult (h : Frame l s t) {a st : Nat} {ws : List Nat} : Frame l s (t.pushResult a st ws) := h.upd rfl rfl rfl rfl rfl rfl rfl
theorem Frame.dropResult (h : Frame l s t) {a : Nat} : Frame l s (t.dropResult a) := h.upd rfl rfl rfl rfl rfl rfl rfl

theorem Frame.advResult (h : Frame l s t) {a : Nat} : Frame l s (t.advResult a) := by
  unfold State.advResult
  dsimp only
  split
  · exact h
  · exact h.upd rfl rfl rfl rfl rfl rfl rfl

theorem Frame.ite {p : Prop} [Decidable p] {u v : State} (hu : Frame l s u) (hv : Frame l s v) : Frame l s (if p then u else v) :=
  ite_of hu hv

theorem Frame.advance (h : Frame l s t) {n : Nat} : Frame l s (t.advance n) := by
  unfold State.advance
  exact .ite h (h.upd rfl rfl rfl rfl rfl rfl rfl)

theorem Frame.atDue (h : Frame l s t) {d : Nat} {f : State → State} (hf : ∀ u, Frame l s u → Frame l s (f u)) : Frame l s (t.atDue d f) := by
  unfold State.atDue
  exact .ite (hf _ h) (.ite (hf _ h.advance) h)

theorem Frame.whenReady (h : Frame l s t) {f : State → State} (hf : Frame l s (f t)) : Frame l s (t.whenReady f) := by
  unfold State.whenReady
  exact .ite hf h

theorem Frame.each (h : Frame l s t) {ks : List Nat} {f : State → Nat → State} (hf : ∀ u k, Frame l s u → Frame l s (f u k)) :
    Frame l s (t.each ks f) := by
  unfold State.each
  induction ks generalizing t with
  | nil => exact h
  | cons k ks ih => exact ih (hf t k h)

theorem Frame.foldl (h : Frame l s t) {β : Type} {ks : List β} {f : State → β → State} (hf : ∀ u k, Frame l s u → Frame l s (f u k)) :
    Frame l s (ks.foldl f t) := by
  induction ks generalizing t with
  | nil => exact h
  | cons k ks ih => exact ih (hf t k h)

theorem Frame.setWfs (h : Frame l s t) {u : Nat} {x : Wfs} : Frame l s (t.setWfs u x) := h.upd rfl rfl rfl rfl rfl rfl rfl
theorem Frame.setAwg (h : Frame l s t) {u : Nat} {x : Awg} : Frame l s (t.setAwg u x) := h.upd rfl rfl rfl rfl rfl rfl rfl
theorem Frame.setAcq (h : Frame l s t) {u : Nat} {x : Acq} : Frame l s (t.setAcq u x) := h.upd rfl rfl rfl rfl rfl rfl rfl
theorem Frame.setTdc (h : Frame l s t) {u : Nat} {x : Tdc} : Frame l s (t.setTdc u x) := h.upd rfl rfl rfl rfl rfl rfl rfl
theorem Frame.setSlice (h : Frame l s t) {u : Nat} {x : Slice} : Frame l s (t.setSlice u x) := h.upd rfl rfl rfl rfl rfl rfl rfl
theorem Frame.setAdc (h : Frame l s t) {u : Nat} {x : Adc} : Frame l s (t.setAdc u x) := h.upd rfl rfl rfl rfl rfl rfl rfl
theorem Frame.setMon (h : Frame l s t) {u : Nat} {x : Monitor} : Frame l s (t.setMon u x) := h.upd rfl rfl rfl rfl rfl rfl rfl
theorem Frame.setCtx (h : Frame l s t) {u : Nat} {x : Ctx} : Frame l s (t.setCtx u x) := h.upd rfl rfl rfl rfl rfl rfl rfl
theorem Frame.setSite (h : Frame l s t) {u : Nat} {x : Site} : Frame l s (t.setSite u x) := h.upd rfl rfl rfl rfl rfl rfl rfl
theorem Frame.setChan (h : Frame l s t) {u : Nat} {x : Chan} : Frame l s (t.setChan u x) := h.upd rfl rfl rfl rfl rfl rfl rfl
theorem Frame.setTile (h : Frame l s t) {u : Nat} {x : Tile} : Frame l s (t.setTile u x) := h.upd rfl rfl rfl rfl rfl rfl rfl
theorem Frame.setChk (h : Frame l s t) {u : Nat} {x : ChkUnit} : Frame l s (t.setChk u x) := h.upd rfl rfl rfl rfl rfl rfl rfl
theorem Frame.setSensor (h : Frame l s t) {u : Nat} {x : Sensor} : Frame l s (t.setSensor u x) := h.upd rfl rfl rfl rfl rfl rfl rfl
theorem Frame.setQueue (h : Frame l s t) {u : Nat} {x : ResQueue} : Frame l s (t.setQueue u x) := h.upd rfl rfl rfl rfl rfl rfl rfl

end Sys2Proof.Machine
end

