-- ==== Sys2Proof/Laws/Keep/Ops.lean ====
section
/-!
SUPPORT. Laws/Keep/Ops.lean: the operations of Machine/Ops.lean keep the queue, the rollback floor, the revoked keys, the stage and
the canonical form of the stored state (`Kept`).
-/

set_option linter.unusedTactic false
set_option linter.unreachableTactic false
set_option linter.unusedVariables false

namespace Sys2Proof.Machine

variable {ql : List Instr} {flo rvk : Nat} {stg : Option StageOf} {s : State}

/-- What `Kept` asks of the parts of a state. -/
def KeptParts (ql : List Instr) (flo rvk : Nat) (stg : Option StageOf) (pending : List Instr) (regs : Tab Word) (mem : Tab Byte) (nv : NvMem)
    (hm : Tab (Option Byte)) (time : Time) : Prop :=
  pending = ql ∧ flo ≤ nv.floor ∧ rvk ||| nv.revoked = nv.revoked ∧ (∀ x, stg = some x → time.stageOf = x) ∧
    (Registers.wf regs = true ∧ Memory.wf mem = true ∧ HostMemory.wf hm = true)

/-- A state written out keeps what its parts do. -/
theorem kept_mk {pending regs shadow shadowNext latch staged fresh claimed refused read time hold sched host results mem cast tiles ctxs sites
      chans wfss awgs acqs tdcs slices adcs mons trips cal nv loads fw start way chks therm cvy tap touch yardDown opens} :
    Kept ql flo rvk stg ⟨pending, regs, shadow, shadowNext, latch, staged, fresh, claimed, refused, read, time, hold, sched, host, results, mem,
      cast, tiles, ctxs, sites, chans, wfss, awgs, acqs, tdcs, slices, adcs, mons, trips, cal, nv, loads, fw, start, way, chks, therm,
      cvy, tap, touch, yardDown, opens⟩ = KeptParts ql flo rvk stg pending regs mem nv host.mem time :=
  propext ⟨fun h => ⟨h.1, h.2, h.3, h.4, h.5⟩, fun h => ⟨h.1, h.2.1, h.2.2.1, h.2.2.2.1, h.2.2.2.2⟩⟩

/-- An update of the other fields. -/
theorem KeptParts.of {t : State} {nv : NvMem} {hm : Tab (Option Byte)} {tm : Time} (h : Kept ql flo rvk stg t) (hf : nv.floor = t.nv.floor)
    (hr : nv.revoked = t.nv.revoked) (hh : hm = t.host.mem) (ht : tm.stageOf = t.time.stageOf) :
    KeptParts ql flo rvk stg t.pending t.regs t.mem nv hm tm :=
  ⟨h.1, hf ▸ h.2, by rw [hr]; exact h.3, by rw [ht]; exact h.4, by rw [hh]; exact h.5⟩

/-- An update that moves to another stage. -/
theorem KeptParts.ofNone {t : State} {nv : NvMem} {hm : Tab (Option Byte)} {tm : Time} (h : Kept ql flo rvk none t) (hf : nv.floor = t.nv.floor)
    (hr : nv.revoked = t.nv.revoked) (hh : hm = t.host.mem) :
    KeptParts ql flo rvk none t.pending t.regs t.mem nv hm tm :=
  ⟨h.1, hf ▸ h.2, by rw [hr]; exact h.3, fun x hx => (nomatch hx), by rw [hh]; exact h.5⟩

/-- An update of device memory. -/
theorem KeptParts.ofMem {t : State} {nv : NvMem} {hm : Tab (Option Byte)} {m : Tab Byte} {tm : Time} (h : Kept ql flo rvk stg t)
    (hf : nv.floor = t.nv.floor) (hr : nv.revoked = t.nv.revoked) (hh : hm = t.host.mem) (ht : tm.stageOf = t.time.stageOf)
    (hw : Memory.wf t.mem = true → Memory.wf m = true) : KeptParts ql flo rvk stg t.pending t.regs m nv hm tm :=
  ⟨h.1, hf ▸ h.2, by rw [hr]; exact h.3, by rw [ht]; exact h.4, by rw [hh]; exact ⟨h.5.1, hw h.5.2.1, h.5.2.2⟩⟩

/-- The same for a state written as an update. -/
theorem kept_upd {t u : State} (h : Kept ql flo rvk stg t) (hp : u.pending = t.pending) (hg : u.regs = t.regs) (hm : u.mem = t.mem)
    (hf : u.nv.floor = t.nv.floor) (hr : u.nv.revoked = t.nv.revoked) (hh : u.host.mem = t.host.mem)
    (ht : u.time.stageOf = t.time.stageOf) : Kept ql flo rvk stg u :=
  ⟨hp ▸ h.1, hf ▸ h.2, by rw [hr]; exact h.3, by rw [ht]; exact h.4, by unfold State.Canonical; rw [hg, hm, hh]; exact h.5⟩

/-- What keeps the stage keeps the rest also where no stage is named. -/
theorem Kept.anyStage (h : Kept ql flo rvk stg s) : Kept ql flo rvk none s := ⟨h.1, h.2, h.3, fun x hx => (nomatch hx), h.5⟩

theorem each_kept {l : List Nat} {f : State → Nat → State} (h : Kept ql flo rvk stg s)
    (hf : ∀ t n, Kept ql flo rvk stg t → Kept ql flo rvk stg (f t n)) : Kept ql flo rvk stg (s.each l f) := by
  unfold State.each
  induction l generalizing s with
  | nil => exact h
  | cons n l ih => exact ih (hf s n h)

theorem foldl_kept {β : Type} {l : List β} {f : State → β → State} (h : Kept ql flo rvk stg s)
    (hf : ∀ t n, Kept ql flo rvk stg t → Kept ql flo rvk stg (f t n)) : Kept ql flo rvk stg (l.foldl f s) := by
  induction l generalizing s with
  | nil => exact h
  | cons n l ih => exact ih (hf s n h)

theorem kept_ite {c : Prop} [Decidable c] {a b : State} (ha : Kept ql flo rvk stg a) (hb : Kept ql flo rvk stg b) : Kept ql flo rvk stg (if c then a else b) := by
  split <;> assumption

theorem foldl_fst_kept {β γ : Type} {l : List γ} {f : State × β → γ → State × β} {p : State × β} (h : Kept ql flo rvk stg p.1)
    (hf : ∀ r x, Kept ql flo rvk stg r.1 → Kept ql flo rvk stg (f r x).1) : Kept ql flo rvk stg (l.foldl f p).1 := by
  induction l generalizing p with
  | nil => exact h
  | cons n l ih => exact ih (hf p n h)

theorem State.wr_kept {a : Nat} {w : Word} (h : Kept ql flo rvk stg s) : Kept ql flo rvk stg (s.wr a w) :=
  ⟨h.1, h.2, h.3, h.4, tabSet_wf h.5.1, h.5.2⟩

theorem State.wrN_kept {a v : Nat} (hk : Kept ql flo rvk stg s) : Kept ql flo rvk stg (State.wrN s a v) := by
  unfold State.wrN
  try dsimp only
  repeat' first
    | with_reducible assumption
    | with_reducible apply State.wr_kept

theorem State.setFld_kept {a hi lo v : Nat} (hk : Kept ql flo rvk stg s) : Kept ql flo rvk stg (State.setFld s a hi lo v) := by
  unfold State.setFld
  try dsimp only
  repeat' first
    | with_reducible assumption
    | with_reducible apply State.wr_kept

theorem State.setBit_kept {a b : Nat} {v : Bool} (hk : Kept ql flo rvk stg s) : Kept ql flo rvk stg (State.setBit s a b v) := by
  unfold State.setBit
  try dsimp only
  repeat' first
    | with_reducible assumption
    | with_reducible apply State.setFld_kept

theorem State.setWide_kept {a n v : Nat} (h : Kept ql flo rvk stg s) : Kept ql flo rvk stg (s.setWide a n v) := by
  induction n generalizing s a v with
  | zero => exact h
  | succ n ih => exact ih (State.wrN_kept h)

theorem State.setWords_kept {a : Nat} {l : List Nat} (h : Kept ql flo rvk stg s) : Kept ql flo rvk stg (s.setWords a l) := by
  induction l generalizing s a with
  | nil => exact h
  | cons v l ih => exact ih (State.wrN_kept h)

theorem State.forceBits_kept {a : Nat} {mask v : Word} (h : Kept ql flo rvk stg s) : Kept ql flo rvk stg (s.forceBits a mask v) :=
  kept_upd (t := s.wr a ((s.rd a &&& ~~~mask) ||| (v &&& mask))) (State.wr_kept h) rfl rfl rfl rfl rfl rfl rfl

theorem State.force_kept {a : Nat} {w : Word} (hk : Kept ql flo rvk stg s) : Kept ql flo rvk stg (State.force s a w) := by
  unfold State.force
  try dsimp only
  repeat' first
    | with_reducible assumption
    | with_reducible apply State.forceBits_kept

theorem State.advance_kept {n : Nat} (hk : Kept ql flo rvk stg s) : Kept ql flo rvk stg (State.advance s n) := by
  unfold State.advance
  try dsimp only
  repeat' first
    | with_reducible assumption
    | with_reducible apply kept_ite
    | split
    | (show _ = _; rfl)
    | (simp only [kept_mk]; with_reducible refine KeptParts.of ?_ ?_ ?_ ?_ ?_)

theorem State.atDue_kept {d : Nat} {f : State → State} (h : Kept ql flo rvk stg s) (hf : ∀ t, Kept ql flo rvk stg t → Kept ql flo rvk stg (f t)) :
    Kept ql flo rvk stg (s.atDue d f) := by
  unfold State.atDue
  split
  · exact hf _ h
  · split
    · exact hf _ (State.advance_kept h)
    · exact h

theorem State.evt_kept {a b : Nat} (hk : Kept ql flo rvk stg s) : Kept ql flo rvk stg (State.evt s a b) := by
  unfold State.evt
  try dsimp only
  repeat' first
    | with_reducible assumption
    | with_reducible apply State.wr_kept
    | with_reducible apply kept_ite
    | split
    | (show _ = _; rfl)
    | (simp only [kept_mk]; with_reducible refine KeptParts.of ?_ ?_ ?_ ?_ ?_)

theorem State.incBy_kept {a n : Nat} (hk : Kept ql flo rvk stg s) : Kept ql flo rvk stg (State.incBy s a n) := by
  unfold State.incBy
  try dsimp only
  repeat' first
    | with_reducible assumption
    | with_reducible apply State.wrN_kept
    | (show _ = _; rfl)
    | (simp only [kept_mk]; with_reducible refine KeptParts.of ?_ ?_ ?_ ?_ ?_)

theorem State.inc_kept {a : Nat} (hk : Kept ql flo rvk stg s) : Kept ql flo rvk stg (State.inc s a) := by
  unfold State.inc
  try dsimp only
  repeat' first
    | with_reducible assumption
    | with_reducible apply State.incBy_kept

theorem State.addWide_kept {a n : Nat} (hk : Kept ql flo rvk stg s) : Kept ql flo rvk stg (State.addWide s a n) := by
  unfold State.addWide
  try dsimp only
  repeat' first
    | with_reducible assumption
    | with_reducible apply State.setWide_kept

theorem State.irqUrgent_kept  (hk : Kept ql flo rvk stg s) : Kept ql flo rvk stg (State.irqUrgent s) := by
  unfold State.irqUrgent
  try dsimp only
  repeat' first
    | with_reducible assumption
    | (show _ = _; rfl)
    | (simp only [kept_mk]; with_reducible refine KeptParts.of ?_ ?_ ?_ ?_ ?_)

theorem State.refuse_kept {a code : Nat} (hk : Kept ql flo rvk stg s) : Kept ql flo rvk stg (State.refuse s a code) := by
  unfold State.refuse
  try dsimp only
  repeat' first
    | with_reducible assumption
    | (show _ = _; rfl)
    | (simp only [kept_mk]; with_reducible refine KeptParts.of ?_ ?_ ?_ ?_ ?_)

theorem State.free_kept (h : Kept ql flo rvk stg s) : Kept ql flo rvk stg s.free.2 := kept_upd h rfl rfl rfl rfl rfl rfl rfl

theorem State.memWrite_kept {a : Nat} {l : List Byte} (h : Kept ql flo rvk stg s) : Kept ql flo rvk stg (s.memWrite a l) :=
  ⟨h.1, h.2, h.3, h.4, h.5.1, memStore_wf h.5.2.1, h.5.2.2⟩

theorem State.hostWrite_kept {a : Nat} {l : List Byte} (h : Kept ql flo rvk stg s) : Kept ql flo rvk stg (s.hostWrite a l) :=
  ⟨h.1, h.2, h.3, h.4, h.5.1, h.5.2.1, hostStore_wf h.5.2.2⟩

theorem State.logEntry_kept {type flags time : Nat} {payload : List Byte} (hk : Kept ql flo rvk stg s) : Kept ql flo rvk stg (State.logEntry s type flags time payload) := by
  unfold State.logEntry
  try dsimp only
  repeat' first
    | with_reducible assumption
    | with_reducible apply State.setWide_kept
    | with_reducible apply State.evt_kept
    | with_reducible apply State.inc_kept
    | with_reducible apply State.memWrite_kept
    | with_reducible apply kept_ite
    | split
    | (show _ = _; rfl)
    | (simp only [kept_mk]; with_reducible refine KeptParts.of ?_ ?_ ?_ ?_ ?_)

theorem State.patchLog_kept {wc o : Nat} {bytes : List Byte} (hk : Kept ql flo rvk stg s) : Kept ql flo rvk stg (State.patchLog s wc o bytes) := by
  unfold State.patchLog
  try dsimp only
  repeat' first
    | with_reducible assumption
    | with_reducible apply State.memWrite_kept

theorem State.log_kept {type time : Nat} {payload : List Byte} (hk : Kept ql flo rvk stg s) : Kept ql flo rvk stg (State.log s type time payload) := by
  unfold State.log
  try dsimp only
  repeat' first
    | with_reducible assumption
    | with_reducible apply State.logEntry_kept

theorem State.logSites_kept {type time : Nat} {fixed : List Byte} {sites : List Nat} (hk : Kept ql flo rvk stg s) : Kept ql flo rvk stg (State.logSites s type time fixed sites) := by
  unfold State.logSites
  try dsimp only
  repeat' first
    | with_reducible assumption
    | with_reducible apply State.logEntry_kept
    | (show _ = _; rfl)
    | (simp only [kept_mk]; with_reducible refine KeptParts.of ?_ ?_ ?_ ?_ ?_)

theorem State.complete_kept {tag opcode code d0 d1 d2 : Nat} (hk : Kept ql flo rvk stg s) : Kept ql flo rvk stg (State.complete s tag opcode code d0 d1 d2) := by
  unfold State.complete
  try dsimp only
  repeat' first
    | with_reducible assumption
    | (show _ = _; rfl)
    | (simp only [kept_mk]; with_reducible refine KeptParts.of ?_ ?_ ?_ ?_ ?_)

theorem State.setWfs_kept {u : Nat} {x : Wfs} (hk : Kept ql flo rvk stg s) : Kept ql flo rvk stg (State.setWfs s u x) := by
  unfold State.setWfs
  try dsimp only
  repeat' first
    | with_reducible assumption
    | (show _ = _; rfl)
    | (simp only [kept_mk]; with_reducible refine KeptParts.of ?_ ?_ ?_ ?_ ?_)

theorem State.setAwg_kept {u : Nat} {x : Awg} (hk : Kept ql flo rvk stg s) : Kept ql flo rvk stg (State.setAwg s u x) := by
  unfold State.setAwg
  try dsimp only
  repeat' first
    | with_reducible assumption
    | (show _ = _; rfl)
    | (simp only [kept_mk]; with_reducible refine KeptParts.of ?_ ?_ ?_ ?_ ?_)

theorem State.setAcq_kept {u : Nat} {x : Acq} (hk : Kept ql flo rvk stg s) : Kept ql flo rvk stg (State.setAcq s u x) := by
  unfold State.setAcq
  try dsimp only
  repeat' first
    | with_reducible assumption
    | (show _ = _; rfl)
    | (simp only [kept_mk]; with_reducible refine KeptParts.of ?_ ?_ ?_ ?_ ?_)

theorem State.setTdc_kept {ch : Nat} {x : Tdc} (hk : Kept ql flo rvk stg s) : Kept ql flo rvk stg (State.setTdc s ch x) := by
  unfold State.setTdc
  try dsimp only
  repeat' first
    | with_reducible assumption
    | (show _ = _; rfl)
    | (simp only [kept_mk]; with_reducible refine KeptParts.of ?_ ?_ ?_ ?_ ?_)

theorem State.setSlice_kept {i : Nat} {x : Slice} (hk : Kept ql flo rvk stg s) : Kept ql flo rvk stg (State.setSlice s i x) := by
  unfold State.setSlice
  try dsimp only
  repeat' first
    | with_reducible assumption
    | (show _ = _; rfl)
    | (simp only [kept_mk]; with_reducible refine KeptParts.of ?_ ?_ ?_ ?_ ?_)

theorem State.setAdc_kept {k : Nat} {x : Adc} (hk : Kept ql flo rvk stg s) : Kept ql flo rvk stg (State.setAdc s k x) := by
  unfold State.setAdc
  try dsimp only
  repeat' first
    | with_reducible assumption
    | (show _ = _; rfl)
    | (simp only [kept_mk]; with_reducible refine KeptParts.of ?_ ?_ ?_ ?_ ?_)

theorem State.setMon_kept {b : Nat} {x : Monitor} (hk : Kept ql flo rvk stg s) : Kept ql flo rvk stg (State.setMon s b x) := by
  unfold State.setMon
  try dsimp only
  repeat' first
    | with_reducible assumption
    | (show _ = _; rfl)
    | (simp only [kept_mk]; with_reducible refine KeptParts.of ?_ ?_ ?_ ?_ ?_)

theorem State.setCtx_kept {c : Nat} {x : Ctx} (hk : Kept ql flo rvk stg s) : Kept ql flo rvk stg (State.setCtx s c x) := by
  unfold State.setCtx
  try dsimp only
  repeat' first
    | with_reducible assumption
    | (show _ = _; rfl)
    | (simp only [kept_mk]; with_reducible refine KeptParts.of ?_ ?_ ?_ ?_ ?_)

theorem State.setSite_kept {n : Nat} {x : Site} (hk : Kept ql flo rvk stg s) : Kept ql flo rvk stg (State.setSite s n x) := by
  unfold State.setSite
  try dsimp only
  repeat' first
    | with_reducible assumption
    | (show _ = _; rfl)
    | (simp only [kept_mk]; with_reducible refine KeptParts.of ?_ ?_ ?_ ?_ ?_)

theorem State.setChan_kept {ch : Nat} {x : Chan} (hk : Kept ql flo rvk stg s) : Kept ql flo rvk stg (State.setChan s ch x) := by
  unfold State.setChan
  try dsimp only
  repeat' first
    | with_reducible assumption
    | (show _ = _; rfl)
    | (simp only [kept_mk]; with_reducible refine KeptParts.of ?_ ?_ ?_ ?_ ?_)

theorem State.setTile_kept {k : Nat} {x : Tile} (hk : Kept ql flo rvk stg s) : Kept ql flo rvk stg (State.setTile s k x) := by
  unfold State.setTile
  try dsimp only
  repeat' first
    | with_reducible assumption
    | (show _ = _; rfl)
    | (simp only [kept_mk]; with_reducible refine KeptParts.of ?_ ?_ ?_ ?_ ?_)

theorem State.setChk_kept {u : Nat} {x : ChkUnit} (hk : Kept ql flo rvk stg s) : Kept ql flo rvk stg (State.setChk s u x) := by
  unfold State.setChk
  try dsimp only
  repeat' first
    | with_reducible assumption
    | (show _ = _; rfl)
    | (simp only [kept_mk]; with_reducible refine KeptParts.of ?_ ?_ ?_ ?_ ?_)

theorem State.setToll_kept {k : Nat} {x : TollSlot} (hk : Kept ql flo rvk stg s) : Kept ql flo rvk stg (State.setToll s k x) := by
  unfold State.setToll
  try dsimp only
  repeat' first
    | with_reducible assumption
    | (show _ = _; rfl)
    | (simp only [kept_mk]; with_reducible refine KeptParts.of ?_ ?_ ?_ ?_ ?_)

theorem State.setSensor_kept {k : Nat} {x : Sensor} (hk : Kept ql flo rvk stg s) : Kept ql flo rvk stg (State.setSensor s k x) := by
  unfold State.setSensor
  try dsimp only
  repeat' first
    | with_reducible assumption
    | (show _ = _; rfl)
    | (simp only [kept_mk]; with_reducible refine KeptParts.of ?_ ?_ ?_ ?_ ?_)

theorem State.tableReady_kept {c t : Nat} (hk : Kept ql flo rvk stg s) : Kept ql flo rvk stg (State.tableReady s c t) := by
  unfold State.tableReady
  try dsimp only
  repeat' first
    | with_reducible assumption
    | with_reducible apply State.setCtx_kept
    | (show _ = _; rfl)
    | (simp only [kept_mk]; with_reducible refine KeptParts.of ?_ ?_ ?_ ?_ ?_)

theorem State.admitNote_kept {k : WorkKind} (h : Kept ql flo rvk stg s) : Kept ql flo rvk stg (s.admitNote k) := by
  unfold State.admitNote
  split <;> first | assumption | exact State.tableReady_kept (State.setFld_kept h) | exact State.setFld_kept h | exact State.wr_kept h

theorem State.admitItem_kept {w : WorkItem} (hk : Kept ql flo rvk stg s) : Kept ql flo rvk stg (State.admitItem s w) := by
  unfold State.admitItem
  try dsimp only
  repeat' first
    | with_reducible assumption
    | with_reducible apply State.admitNote_kept
    | (show _ = _; rfl)
    | (simp only [kept_mk]; with_reducible refine KeptParts.of ?_ ?_ ?_ ?_ ?_)

theorem State.deferItem_kept {w : WorkItem} (hk : Kept ql flo rvk stg s) : Kept ql flo rvk stg (State.deferItem s w) := by
  unfold State.deferItem
  try dsimp only
  repeat' first
    | with_reducible assumption
    | with_reducible apply State.evt_kept
    | with_reducible apply State.inc_kept
    | with_reducible apply State.log_kept
    | with_reducible apply kept_ite
    | split
    | (show _ = _; rfl)
    | (simp only [kept_mk]; with_reducible refine KeptParts.of ?_ ?_ ?_ ?_ ?_)

theorem State.arrive_kept {cls origin cost : Nat} {kind : WorkKind} (hk : Kept ql flo rvk stg s) : Kept ql flo rvk stg (State.arrive s cls origin cost kind) := by
  unfold State.arrive
  try dsimp only
  repeat' first
    | with_reducible assumption
    | with_reducible apply State.admitItem_kept
    | with_reducible apply State.deferItem_kept
    | with_reducible apply kept_ite
    | split
    | (show _ = _; rfl)
    | (simp only [kept_mk]; with_reducible refine KeptParts.of ?_ ?_ ?_ ?_ ?_)

theorem State.setQueue_kept {a : Nat} {q : ResQueue} (hk : Kept ql flo rvk stg s) : Kept ql flo rvk stg (State.setQueue s a q) := by
  unfold State.setQueue
  try dsimp only
  repeat' first
    | with_reducible assumption
    | (show _ = _; rfl)
    | (simp only [kept_mk]; with_reducible refine KeptParts.of ?_ ?_ ?_ ?_ ?_)

theorem State.latchResult_kept {a : Nat} {regs : List Nat} {live : Nat} (hk : Kept ql flo rvk stg s) : Kept ql flo rvk stg (State.latchResult s a regs live) := by
  unfold State.latchResult
  try dsimp only
  repeat' first
    | with_reducible assumption
    | with_reducible apply State.wrN_kept
    | with_reducible apply State.setQueue_kept
    | with_reducible refine foldl_kept ?_ (fun _ _ _ => ?_)
    | with_reducible apply kept_ite
    | split
    | (show _ = _; rfl)
    | (simp only [kept_mk]; with_reducible refine KeptParts.of ?_ ?_ ?_ ?_ ?_)

theorem State.pushResult_kept {a st : Nat} {words : List Nat} (hk : Kept ql flo rvk stg s) : Kept ql flo rvk stg (State.pushResult s a st words) := by
  unfold State.pushResult
  try dsimp only
  repeat' first
    | with_reducible assumption
    | with_reducible apply State.setQueue_kept
    | (show _ = _; rfl)
    | (simp only [kept_mk]; with_reducible refine KeptParts.of ?_ ?_ ?_ ?_ ?_)

theorem State.dropResult_kept {a : Nat} (hk : Kept ql flo rvk stg s) : Kept ql flo rvk stg (State.dropResult s a) := by
  unfold State.dropResult
  try dsimp only
  repeat' first
    | with_reducible assumption
    | with_reducible apply State.setQueue_kept
    | (show _ = _; rfl)
    | (simp only [kept_mk]; with_reducible refine KeptParts.of ?_ ?_ ?_ ?_ ?_)

theorem State.advResult_kept {a : Nat} (hk : Kept ql flo rvk stg s) : Kept ql flo rvk stg (State.advResult s a) := by
  unfold State.advResult
  try dsimp only
  repeat' first
    | with_reducible assumption
    | with_reducible apply State.setQueue_kept
    | split
    | (show _ = _; rfl)
    | (simp only [kept_mk]; with_reducible refine KeptParts.of ?_ ?_ ?_ ?_ ?_)

theorem State.free16_kept {n : Nat} (h : Kept ql flo rvk stg s) : Kept ql flo rvk stg (s.free16 n).2 := kept_upd h rfl rfl rfl rfl rfl rfl rfl

theorem State.when_kept {b : Bool} {f : State → State} (h : Kept ql flo rvk stg s) (hf : ∀ t, Kept ql flo rvk stg t → Kept ql flo rvk stg (f t)) :
    Kept ql flo rvk stg (s.when b f) := by
  unfold State.when
  split
  · exact hf _ h
  · exact h

theorem State.whenReady_kept {f : State → State} (h : Kept ql flo rvk stg s) (hf : ∀ t, Kept ql flo rvk stg t → Kept ql flo rvk stg (f t)) :
    Kept ql flo rvk stg (s.whenReady f) := by
  unfold State.whenReady
  split
  · exact hf _ h
  · exact h

theorem State.readReady_kept {f : State → State} (h : Kept ql flo rvk stg s) (hf : ∀ t, Kept ql flo rvk stg t → Kept ql flo rvk stg (f t)) :
    Kept ql flo rvk stg (s.readReady f) := by
  unfold State.readReady
  split
  · exact hf _ h
  · exact kept_upd h rfl rfl rfl rfl rfl rfl rfl

end Sys2Proof.Machine
end

