-- ==== Sys2Proof/Laws/Keep/Monitors.lean ====
section
/-!
SUPPORT. Laws/Keep/Monitors.lean: the operations of Machine/Monitors.lean keep the queue, the rollback floor, the revoked keys, the stage and
the canonical form of the stored state (`Kept`).
-/

set_option linter.unusedTactic false
set_option linter.unreachableTactic false
set_option linter.unusedVariables false

namespace Sys2Proof.Machine

variable {ql : List Instr} {flo rvk : Nat} {stg : Option StageOf} {s : State}

theorem State.timerEvent_kept {b : Nat} (hk : Kept ql flo rvk stg s) : Kept ql flo rvk stg (State.timerEvent s b) := by
  unfold State.timerEvent
  try dsimp only
  repeat' first
    | with_reducible assumption
    | with_reducible apply State.setBit_kept
    | with_reducible apply State.setMon_kept
    | with_reducible apply kept_ite
    | split
    | (show _ = _; rfl)
    | (simp only [kept_mk]; with_reducible refine KeptParts.of ?_ ?_ ?_ ?_ ?_)

theorem State.settingEvent_kept {b : Nat} (hk : Kept ql flo rvk stg s) : Kept ql flo rvk stg (State.settingEvent s b) := by
  unfold State.settingEvent
  try dsimp only
  repeat' first
    | with_reducible assumption
    | with_reducible apply State.timerEvent_kept
    | with_reducible apply kept_ite
    | split

theorem State.monRefresh_kept {u : Nat} (hk : Kept ql flo rvk stg s) : Kept ql flo rvk stg (State.monRefresh s u) := by
  unfold State.monRefresh
  try dsimp only
  repeat' first
    | with_reducible assumption
    | with_reducible apply State.setFld_kept
    | with_reducible apply State.setMon_kept
    | with_reducible apply State.settingEvent_kept
    | with_reducible apply kept_ite
    | split
    | (show _ = _; rfl)
    | (simp only [kept_mk]; with_reducible refine KeptParts.of ?_ ?_ ?_ ?_ ?_)

theorem State.monEvent_kept {code : Nat} {caravan : Option Nat} (hk : Kept ql flo rvk stg s) : Kept ql flo rvk stg (State.monEvent s code caravan) := by
  unfold State.monEvent
  try dsimp only
  repeat' first
    | with_reducible assumption
    | with_reducible apply State.timerEvent_kept
    | with_reducible refine each_kept ?_ (fun _ _ _ => ?_)
    | with_reducible apply kept_ite
    | split
    | (show _ = _; rfl)
    | (simp only [kept_mk]; with_reducible refine KeptParts.of ?_ ?_ ?_ ?_ ?_)

theorem monitorInsideAt_kept {b v : Nat} (hk : Kept ql flo rvk stg s) : Kept ql flo rvk stg (monitorInsideAt s b v) := by
  unfold monitorInsideAt
  try dsimp only
  repeat' first
    | with_reducible assumption
    | with_reducible apply State.setFld_kept
    | with_reducible apply State.setMon_kept
    | with_reducible apply kept_ite
    | split
    | (show _ = _; rfl)
    | (simp only [kept_mk]; with_reducible refine KeptParts.of ?_ ?_ ?_ ?_ ?_)

theorem blankedOutsideAt_kept {b v : Nat} (hk : Kept ql flo rvk stg s) : Kept ql flo rvk stg (blankedOutsideAt s b v) := by
  unfold blankedOutsideAt
  try dsimp only
  repeat' first
    | with_reducible assumption
    | with_reducible apply State.setFld_kept
    | with_reducible apply State.evt_kept
    | with_reducible apply State.inc_kept
    | with_reducible apply State.setMon_kept
    | with_reducible apply kept_ite
    | split
    | (show _ = _; rfl)
    | (simp only [kept_mk]; with_reducible refine KeptParts.of ?_ ?_ ?_ ?_ ?_)

theorem State.monSchedule_kept {b : Nat} (hk : Kept ql flo rvk stg s) : Kept ql flo rvk stg (State.monSchedule s b) := by
  unfold State.monSchedule
  try dsimp only
  repeat' first
    | with_reducible assumption
    | with_reducible apply State.setBit_kept
    | with_reducible apply State.arrive_kept

end Sys2Proof.Machine
end

