-- ==== Sys2Proof/Laws/Keep/Pins.lean ====
section
/-!
SUPPORT. Laws/Keep/Pins.lean: the operations of Machine/Pins.lean keep the queue, the rollback floor, the revoked keys, the stage and
the canonical form of the stored state (`Kept`).
-/

set_option linter.unusedTactic false
set_option linter.unreachableTactic false
set_option linter.unusedVariables false

namespace Sys2Proof.Machine

variable {ql : List Instr} {flo rvk : Nat} {stg : Option StageOf} {s : State}

theorem State.disableNow_kept {n : Nat} (hk : Kept ql flo rvk stg s) : Kept ql flo rvk stg (State.disableNow s n) := by
  unfold State.disableNow
  try dsimp only
  repeat' first
    | with_reducible assumption
    | with_reducible apply State.forceBits_kept

theorem State.drivers_kept {ch : Nat} {f : Chan → Chan} (hk : Kept ql flo rvk stg s) : Kept ql flo rvk stg (State.drivers s ch f) := by
  unfold State.drivers
  try dsimp only
  repeat' first
    | with_reducible assumption
    | with_reducible apply State.setChan_kept
    | with_reducible refine each_kept ?_ (fun _ _ _ => ?_)

theorem State.loadLevels_kept {ch : Nat} (hk : Kept ql flo rvk stg s) : Kept ql flo rvk stg (State.loadLevels s ch) := by
  unfold State.loadLevels
  try dsimp only
  repeat' first
    | with_reducible assumption
    | with_reducible apply State.drivers_kept
    | (show _ = _; rfl)
    | (simp only [kept_mk]; with_reducible refine KeptParts.of ?_ ?_ ?_ ?_ ?_)

theorem State.levelCommit_kept {ch a : Nat} (hk : Kept ql flo rvk stg s) : Kept ql flo rvk stg (State.levelCommit s ch a) := by
  unfold State.levelCommit
  try dsimp only
  repeat' first
    | with_reducible assumption
    | with_reducible apply State.evt_kept
    | with_reducible refine State.when_kept ?_ (fun _ _ => ?_)
    | with_reducible apply State.loadLevels_kept
    | with_reducible apply kept_ite
    | split
    | (show _ = _; rfl)
    | (simp only [kept_mk]; with_reducible refine KeptParts.of ?_ ?_ ?_ ?_ ?_)

theorem State.edgeRange_kept {ch t slots : Nat} (hk : Kept ql flo rvk stg s) : Kept ql flo rvk stg (State.edgeRange s ch t slots) := by
  unfold State.edgeRange
  try dsimp only
  repeat' first
    | with_reducible assumption
    | with_reducible apply State.wrN_kept
    | with_reducible apply State.evt_kept
    | with_reducible refine each_kept ?_ (fun _ _ _ => ?_)
    | with_reducible apply kept_ite
    | split

theorem State.holdSymbol_kept {ch sym : Nat} (hk : Kept ql flo rvk stg s) : Kept ql flo rvk stg (State.holdSymbol s ch sym) := by
  unfold State.holdSymbol
  try dsimp only
  repeat' first
    | with_reducible assumption
    | with_reducible apply State.drivers_kept

theorem State.driveFollow_kept {ch : Nat} (hk : Kept ql flo rvk stg s) : Kept ql flo rvk stg (State.driveFollow s ch) := by
  unfold State.driveFollow
  try dsimp only
  repeat' first
    | with_reducible assumption
    | with_reducible apply State.holdSymbol_kept
    | with_reducible apply kept_ite
    | split
    | (show _ = _; rfl)
    | (simp only [kept_mk]; with_reducible refine KeptParts.of ?_ ?_ ?_ ?_ ?_)

theorem State.pmuUpdate_kept {ch : Nat} (hk : Kept ql flo rvk stg s) : Kept ql flo rvk stg (State.pmuUpdate s ch) := by
  unfold State.pmuUpdate
  try dsimp only
  repeat' first
    | with_reducible assumption
    | with_reducible apply State.setBit_kept
    | with_reducible apply State.monRefresh_kept
    | with_reducible apply kept_ite
    | split
    | (show _ = _; rfl)
    | (simp only [kept_mk]; with_reducible refine KeptParts.of ?_ ?_ ?_ ?_ ?_)

theorem State.clampSeen_kept {ch : Nat} (hk : Kept ql flo rvk stg s) : Kept ql flo rvk stg (State.clampSeen ch s) := by
  unfold State.clampSeen
  try dsimp only
  repeat' first
    | with_reducible assumption
    | with_reducible apply State.setBit_kept
    | with_reducible apply State.free_kept
    | with_reducible apply kept_ite
    | split
    | (show _ = _; rfl)
    | (simp only [kept_mk]; with_reducible refine KeptParts.of ?_ ?_ ?_ ?_ ?_)

theorem State.pmuRanging_kept {ch : Nat} (hk : Kept ql flo rvk stg s) : Kept ql flo rvk stg (State.pmuRanging s ch) := by
  unfold State.pmuRanging
  try dsimp only
  repeat' first
    | with_reducible assumption
    | with_reducible apply State.setBit_kept
    | with_reducible apply State.setChan_kept
    | (show _ = _; rfl)
    | (simp only [kept_mk]; with_reducible refine KeptParts.of ?_ ?_ ?_ ?_ ?_)

theorem State.pmuModeCommit_kept {ch : Nat} {old : Word} (hk : Kept ql flo rvk stg s) : Kept ql flo rvk stg (State.pmuModeCommit s ch old) := by
  unfold State.pmuModeCommit
  try dsimp only
  repeat' first
    | with_reducible assumption
    | with_reducible apply State.settingEvent_kept
    | with_reducible apply State.driveFollow_kept
    | with_reducible apply State.pmuUpdate_kept
    | with_reducible apply State.pmuRanging_kept
    | with_reducible apply kept_ite
    | split
    | (show _ = _; rfl)
    | (simp only [kept_mk]; with_reducible refine KeptParts.of ?_ ?_ ?_ ?_ ?_)

theorem State.leaveSafe_kept {ch : Nat} (hk : Kept ql flo rvk stg s) : Kept ql flo rvk stg (State.leaveSafe s ch) := by
  unfold State.leaveSafe
  try dsimp only
  repeat' first
    | with_reducible assumption
    | with_reducible apply State.setBit_kept
    | with_reducible apply State.evt_kept
    | with_reducible apply State.setChan_kept
    | (show _ = _; rfl)
    | (simp only [kept_mk]; with_reducible refine KeptParts.of ?_ ?_ ?_ ?_ ?_)

theorem State.enterSafe_kept {ch : Nat} (hk : Kept ql flo rvk stg s) : Kept ql flo rvk stg (State.enterSafe s ch) := by
  unfold State.enterSafe
  try dsimp only
  repeat' first
    | with_reducible assumption
    | with_reducible apply State.setBit_kept
    | with_reducible apply State.evt_kept
    | with_reducible apply State.setChan_kept
    | with_reducible apply State.drivers_kept
    | with_reducible apply State.pmuUpdate_kept
    | (show _ = _; rfl)
    | (simp only [kept_mk]; with_reducible refine KeptParts.of ?_ ?_ ?_ ?_ ?_)

theorem State.padClosed_kept {ch : Nat} (hk : Kept ql flo rvk stg s) : Kept ql flo rvk stg (State.padClosed s ch) := by
  unfold State.padClosed
  try dsimp only
  repeat' first
    | with_reducible assumption
    | with_reducible apply State.setChan_kept
    | with_reducible apply State.holdSymbol_kept
    | with_reducible apply State.pmuUpdate_kept
    | (show _ = _; rfl)
    | (simp only [kept_mk]; with_reducible refine KeptParts.of ?_ ?_ ?_ ?_ ?_)

theorem State.padSettle_kept {ch : Nat} (hk : Kept ql flo rvk stg s) : Kept ql flo rvk stg (State.padSettle s ch) := by
  unfold State.padSettle
  try dsimp only
  repeat' first
    | with_reducible assumption
    | with_reducible apply State.padClosed_kept
    | with_reducible apply kept_ite
    | split

theorem State.putSynth_kept {ch t slots sym : Nat} {half : Bool} (hk : Kept ql flo rvk stg s) : Kept ql flo rvk stg (State.putSynth s ch t slots sym half) := by
  unfold State.putSynth
  try dsimp only
  repeat' first
    | with_reducible assumption
    | with_reducible apply State.setChan_kept
    | with_reducible apply kept_ite
    | split
    | (show _ = _; rfl)
    | (simp only [kept_mk]; with_reducible refine KeptParts.of ?_ ?_ ?_ ?_ ?_)

theorem State.applyVector_kept {ch role t slots : Nat} {half : Bool} {sym : Nat} (hk : Kept ql flo rvk stg s) : Kept ql flo rvk stg (State.applyVector s ch role t slots half sym) := by
  unfold State.applyVector
  try dsimp only
  repeat' first
    | with_reducible assumption
    | with_reducible apply State.evt_kept
    | with_reducible apply State.inc_kept
    | with_reducible apply State.drivers_kept
    | with_reducible apply State.edgeRange_kept
    | with_reducible apply State.padSettle_kept
    | with_reducible apply State.putSynth_kept
    | with_reducible apply kept_ite
    | split
    | (show _ = _; rfl)
    | (simp only [kept_mk]; with_reducible refine KeptParts.of ?_ ?_ ?_ ?_ ?_)

theorem State.applyPark_kept {ch park : Nat} (hk : Kept ql flo rvk stg s) : Kept ql flo rvk stg (State.applyPark s ch park) := by
  unfold State.applyPark
  try dsimp only
  repeat' first
    | with_reducible assumption
    | with_reducible apply State.holdSymbol_kept
    | with_reducible apply State.padSettle_kept
    | with_reducible apply kept_ite
    | split
    | (show _ = _; rfl)
    | (simp only [kept_mk]; with_reducible refine KeptParts.of ?_ ?_ ?_ ?_ ?_)

theorem State.refreshPins_kept {names : List Nat} (hk : Kept ql flo rvk stg s) : Kept ql flo rvk stg (State.refreshPins s names) := by
  unfold State.refreshPins
  try dsimp only
  repeat' first
    | with_reducible assumption
    | with_reducible apply State.leaveSafe_kept
    | with_reducible apply State.enterSafe_kept
    | with_reducible refine each_kept ?_ (fun _ _ _ => ?_)
    | with_reducible refine foldl_kept ?_ (fun _ _ _ => ?_)
    | with_reducible apply kept_ite
    | split
    | (show _ = _; rfl)
    | (simp only [kept_mk]; with_reducible refine KeptParts.of ?_ ?_ ?_ ?_ ?_)

theorem State.driverOff_kept {ch : Nat} (hk : Kept ql flo rvk stg s) : Kept ql flo rvk stg (State.driverOff s ch) := by
  unfold State.driverOff
  try dsimp only
  repeat' first
    | with_reducible assumption
    | with_reducible apply State.setBit_kept
    | with_reducible apply State.drivers_kept
    | with_reducible apply State.pmuUpdate_kept
    | (show _ = _; rfl)
    | (simp only [kept_mk]; with_reducible refine KeptParts.of ?_ ?_ ?_ ?_ ?_)

theorem State.driverTrip_kept {ch : Nat} (hk : Kept ql flo rvk stg s) : Kept ql flo rvk stg (State.driverTrip s ch) := by
  unfold State.driverTrip
  try dsimp only
  repeat' first
    | with_reducible assumption
    | with_reducible apply State.evt_kept
    | with_reducible apply State.driverOff_kept

theorem State.driverClear_kept {ch : Nat} (hk : Kept ql flo rvk stg s) : Kept ql flo rvk stg (State.driverClear s ch) := by
  unfold State.driverClear
  try dsimp only
  repeat' first
    | with_reducible assumption
    | with_reducible apply State.setBit_kept
    | with_reducible apply State.setChan_kept
    | with_reducible apply State.driveFollow_kept
    | with_reducible apply State.pmuUpdate_kept
    | with_reducible apply kept_ite
    | split
    | (show _ = _; rfl)
    | (simp only [kept_mk]; with_reducible refine KeptParts.of ?_ ?_ ?_ ?_ ?_)

theorem State.takeover_kept {s0 : State} {ch : Nat} (hk : Kept ql flo rvk stg s0) : Kept ql flo rvk stg (State.takeover s0 ch) := by
  unfold State.takeover
  try dsimp only
  repeat' first
    | with_reducible assumption
    | with_reducible apply State.setFld_kept
    | with_reducible apply State.setBit_kept
    | with_reducible apply State.evt_kept
    | with_reducible apply State.setChan_kept
    | with_reducible apply State.loadLevels_kept
    | with_reducible apply State.padSettle_kept
    | with_reducible apply kept_ite
    | split
    | (show _ = _; rfl)
    | (simp only [kept_mk]; with_reducible refine KeptParts.of ?_ ?_ ?_ ?_ ?_)

theorem State.handback_kept {s0 : State} {ch : Nat} (hk : Kept ql flo rvk stg s0) : Kept ql flo rvk stg (State.handback s0 ch) := by
  unfold State.handback
  try dsimp only
  repeat' first
    | with_reducible assumption
    | with_reducible apply State.setFld_kept
    | with_reducible apply State.setBit_kept
    | with_reducible apply State.evt_kept
    | with_reducible apply State.setChan_kept
    | with_reducible apply State.loadLevels_kept
    | with_reducible apply State.padSettle_kept
    | with_reducible apply kept_ite
    | split
    | (show _ = _; rfl)
    | (simp only [kept_mk]; with_reducible refine KeptParts.of ?_ ?_ ?_ ?_ ?_)

theorem State.padOpened_kept {h : Nat} (hk : Kept ql flo rvk stg s) : Kept ql flo rvk stg (State.padOpened s h) := by
  unfold State.padOpened
  try dsimp only
  repeat' first
    | with_reducible assumption
    | with_reducible apply State.setChan_kept
    | with_reducible apply kept_ite
    | split
    | (show _ = _; rfl)
    | (simp only [kept_mk]; with_reducible refine KeptParts.of ?_ ?_ ?_ ?_ ?_)

theorem State.takeoverOpen_kept {ch : Nat} (hk : Kept ql flo rvk stg s) : Kept ql flo rvk stg (State.takeoverOpen s ch) := by
  unfold State.takeoverOpen
  try dsimp only
  repeat' first
    | with_reducible assumption
    | with_reducible apply State.setBit_kept
    | with_reducible apply State.evt_kept
    | with_reducible apply State.setChan_kept
    | (show _ = _; rfl)
    | (simp only [kept_mk]; with_reducible refine KeptParts.of ?_ ?_ ?_ ?_ ?_)

theorem State.handbackOpen_kept {ch : Nat} (hk : Kept ql flo rvk stg s) : Kept ql flo rvk stg (State.handbackOpen s ch) := by
  unfold State.handbackOpen
  try dsimp only
  repeat' first
    | with_reducible assumption
    | with_reducible apply State.setFld_kept
    | with_reducible apply State.evt_kept
    | with_reducible apply State.setChan_kept
    | with_reducible apply State.loadLevels_kept
    | (show _ = _; rfl)
    | (simp only [kept_mk]; with_reducible refine KeptParts.of ?_ ?_ ?_ ?_ ?_)

end Sys2Proof.Machine
end

