-- ==== Sys2Proof/Laws/Keep/Service.lean ====
section
/-!
SUPPORT. Laws/Keep/Service.lean: the operations of Machine/Service.lean keep the queue, the rollback floor, the revoked keys, the stage and
the canonical form of the stored state (`Kept`).
-/

set_option linter.unusedTactic false
set_option linter.unreachableTactic false
set_option linter.unusedVariables false

namespace Sys2Proof.Machine

variable {ql : List Instr} {flo rvk : Nat} {stg : Option StageOf} {s : State}

theorem State.setCalJob_kept {j : CalJob} (hk : Kept ql flo rvk stg s) : Kept ql flo rvk stg (State.setCalJob s j) := by
  unfold State.setCalJob
  try dsimp only
  repeat' first
    | with_reducible assumption
    | with_reducible apply kept_ite
    | split
    | (show _ = _; rfl)
    | (simp only [kept_mk]; with_reducible refine KeptParts.of ?_ ?_ ?_ ?_ ?_)

theorem State.calEnd_kept {x outcome code : Nat} (hk : Kept ql flo rvk stg s) : Kept ql flo rvk stg (State.calEnd s x outcome code) := by
  unfold State.calEnd
  try dsimp only
  repeat' first
    | with_reducible assumption
    | with_reducible apply State.wrN_kept
    | with_reducible apply State.setFld_kept
    | with_reducible apply State.setBit_kept
    | with_reducible apply State.evt_kept
    | with_reducible apply kept_ite
    | split
    | (show _ = _; rfl)
    | (simp only [kept_mk]; with_reducible refine KeptParts.of ?_ ?_ ?_ ?_ ?_)

theorem State.calPreempt_kept {x : Nat} (hk : Kept ql flo rvk stg s) : Kept ql flo rvk stg (State.calPreempt s x) := by
  unfold State.calPreempt
  try dsimp only
  repeat' first
    | with_reducible assumption
    | with_reducible apply State.calEnd_kept
    | with_reducible apply kept_ite
    | split
    | (show _ = _; rfl)
    | (simp only [kept_mk]; with_reducible refine KeptParts.of ?_ ?_ ?_ ?_ ?_)

theorem State.calInstalled_kept {x : Nat} (hk : Kept ql flo rvk stg s) : Kept ql flo rvk stg (State.calInstalled s x) := by
  unfold State.calInstalled
  try dsimp only
  repeat' first
    | with_reducible assumption
    | with_reducible apply State.wrN_kept
    | with_reducible apply State.setBit_kept
    | with_reducible apply State.setWide_kept
    | (show _ = _; rfl)
    | (simp only [kept_mk]; with_reducible refine KeptParts.of ?_ ?_ ?_ ?_ ?_)

theorem State.calRefuse_kept {a code : Nat} (hk : Kept ql flo rvk stg s) : Kept ql flo rvk stg (State.calRefuse s a code) := by
  unfold State.calRefuse
  try dsimp only
  repeat' first
    | with_reducible assumption
    | with_reducible apply State.wrN_kept
    | with_reducible apply State.refuse_kept

theorem State.fiStop_kept  (hk : Kept ql flo rvk stg s) : Kept ql flo rvk stg (State.fiStop s) := by
  unfold State.fiStop
  try dsimp only
  repeat' first
    | with_reducible assumption
    | with_reducible apply State.forceBits_kept
    | with_reducible apply State.evt_kept
    | with_reducible refine foldl_kept ?_ (fun _ _ _ => ?_)
    | with_reducible apply kept_ite
    | split

theorem State.setFwSlot_kept {b : Bool} {x : FwSlot} (hk : Kept ql flo rvk stg s) : Kept ql flo rvk stg (State.setFwSlot s b x) := by
  unfold State.setFwSlot
  try dsimp only
  repeat' first
    | with_reducible assumption
    | with_reducible apply kept_ite
    | split
    | (show _ = _; rfl)
    | (simp only [kept_mk]; with_reducible refine KeptParts.of ?_ ?_ ?_ ?_ ?_)

theorem State.showFwSlot_kept {a : Nat} {x : FwSlot} (hk : Kept ql flo rvk stg s) : Kept ql flo rvk stg (State.showFwSlot s a x) := by
  unfold State.showFwSlot
  try dsimp only
  repeat' first
    | with_reducible assumption
    | with_reducible apply State.wrN_kept
    | with_reducible apply State.setWide_kept
    | with_reducible apply kept_ite
    | split
    | (show _ = _; rfl)
    | (simp only [kept_mk]; with_reducible refine KeptParts.of ?_ ?_ ?_ ?_ ?_)

theorem State.showFw_kept  (hk : Kept ql flo rvk stg s) : Kept ql flo rvk stg (State.showFw s) := by
  unfold State.showFw
  try dsimp only
  repeat' first
    | with_reducible assumption
    | with_reducible apply State.setFld_kept
    | with_reducible apply State.setBit_kept
    | with_reducible apply State.setWide_kept
    | with_reducible apply State.showFwSlot_kept
    | (show _ = _; rfl)
    | (simp only [kept_mk]; with_reducible refine KeptParts.of ?_ ?_ ?_ ?_ ?_)

theorem State.showNv_kept  (hk : Kept ql flo rvk stg s) : Kept ql flo rvk stg (State.showNv s) := by
  unfold State.showNv
  try dsimp only
  repeat' first
    | with_reducible assumption
    | with_reducible apply State.setBit_kept

theorem State.fwEnd_kept {header : Bool} {code d0 : Nat} (hk : Kept ql flo rvk stg s) : Kept ql flo rvk stg (State.fwEnd s header code d0) := by
  unfold State.fwEnd
  try dsimp only
  repeat' first
    | with_reducible assumption
    | with_reducible apply State.wrN_kept
    | with_reducible apply State.setFld_kept
    | with_reducible apply State.evt_kept
    | with_reducible apply State.complete_kept
    | with_reducible apply State.setFwSlot_kept
    | with_reducible apply State.showFw_kept
    | with_reducible apply State.showNv_kept
    | with_reducible apply kept_ite
    | split
    | (show _ = _; rfl)
    | (simp only [kept_mk]; with_reducible refine KeptParts.of ?_ ?_ ?_ ?_ ?_)

theorem State.fwAbort_kept {condition : Nat} (hk : Kept ql flo rvk stg s) : Kept ql flo rvk stg (State.fwAbort s condition) := by
  unfold State.fwAbort
  try dsimp only
  repeat' first
    | with_reducible assumption
    | with_reducible apply State.fwEnd_kept

theorem State.touchdownBegins_kept  (hk : Kept ql flo rvk stg s) : Kept ql flo rvk stg (State.touchdownBegins s) := by
  unfold State.touchdownBegins
  try dsimp only
  repeat' first
    | with_reducible assumption
    | with_reducible apply State.fiStop_kept
    | with_reducible apply State.fwAbort_kept

end Sys2Proof.Machine
end

