-- ==== Sys2Proof/Laws/Keep/Wave.lean ====
section
/-!
SUPPORT. Laws/Keep/Wave.lean: the operations of Machine/Wave.lean keep the queue, the rollback floor, the revoked keys, the stage and
the canonical form of the stored state (`Kept`).
-/

set_option linter.unusedTactic false
set_option linter.unreachableTactic false
set_option linter.unusedVariables false

namespace Sys2Proof.Machine

variable {ql : List Instr} {flo rvk : Nat} {stg : Option StageOf} {s : State}

theorem wfsStart_kept {u : Nat} (hk : Kept ql flo rvk stg s) : Kept ql flo rvk stg (wfsStart u s) := by
  unfold wfsStart
  try dsimp only
  repeat' first
    | with_reducible assumption
    | with_reducible apply State.wrN_kept
    | with_reducible apply State.evt_kept
    | with_reducible apply State.refuse_kept
    | with_reducible apply State.setWfs_kept
    | with_reducible apply State.calPreempt_kept
    | with_reducible apply kept_ite
    | split
    | (show _ = _; rfl)
    | (simp only [kept_mk]; with_reducible refine KeptParts.of ?_ ?_ ?_ ?_ ?_)

theorem wfsEnd_kept {u code : Nat} (hk : Kept ql flo rvk stg s) : Kept ql flo rvk stg (wfsEnd u code s) := by
  unfold wfsEnd
  try dsimp only
  repeat' first
    | with_reducible assumption
    | with_reducible apply State.wrN_kept
    | with_reducible apply State.setFld_kept
    | with_reducible apply State.evt_kept
    | with_reducible apply State.setWfs_kept
    | (show _ = _; rfl)
    | (simp only [kept_mk]; with_reducible refine KeptParts.of ?_ ?_ ?_ ?_ ?_)

theorem wfsStopAt_kept {u lead code : Nat} (hk : Kept ql flo rvk stg s) : Kept ql flo rvk stg (wfsStopAt u lead code s) := by
  unfold wfsStopAt
  try dsimp only
  repeat' first
    | with_reducible assumption
    | with_reducible apply State.setWfs_kept
    | with_reducible apply kept_ite
    | split
    | (show _ = _; rfl)
    | (simp only [kept_mk]; with_reducible refine KeptParts.of ?_ ?_ ?_ ?_ ?_)

theorem wfsStop_kept {u : Nat} (hk : Kept ql flo rvk stg s) : Kept ql flo rvk stg (wfsStop u s) := by
  unfold wfsStop
  try dsimp only
  repeat' first
    | with_reducible assumption
    | with_reducible apply wfsStopAt_kept
    | with_reducible apply kept_ite
    | split

theorem wfsAdvanceAt_kept {u b : Nat} (hk : Kept ql flo rvk stg s) : Kept ql flo rvk stg (wfsAdvanceAt u b s) := by
  unfold wfsAdvanceAt
  try dsimp only
  repeat' first
    | with_reducible assumption
    | with_reducible apply State.setFld_kept
    | with_reducible apply State.setWide_kept
    | with_reducible apply State.evt_kept
    | with_reducible apply State.setWfs_kept
    | with_reducible apply wfsEnd_kept
    | with_reducible apply kept_ite
    | split
    | (show _ = _; rfl)
    | (simp only [kept_mk]; with_reducible refine KeptParts.of ?_ ?_ ?_ ?_ ?_)

theorem wfsSettle_kept {u : Nat} (hk : Kept ql flo rvk stg s) : Kept ql flo rvk stg (wfsSettle u s) := by
  unfold wfsSettle
  try dsimp only
  repeat' first
    | with_reducible assumption
    | with_reducible apply wfsEnd_kept
    | with_reducible apply wfsAdvanceAt_kept
    | with_reducible apply kept_ite
    | split
    | (show _ = _; rfl)
    | (simp only [kept_mk]; with_reducible refine KeptParts.of ?_ ?_ ?_ ?_ ?_)

theorem wfsIgnore_kept {u : Nat} (hk : Kept ql flo rvk stg s) : Kept ql flo rvk stg (wfsIgnore u s) := by
  unfold wfsIgnore
  try dsimp only
  repeat' first
    | with_reducible assumption
    | with_reducible apply State.evt_kept
    | with_reducible apply State.inc_kept

theorem wfsHear_kept {u : Nat} (hk : Kept ql flo rvk stg s) : Kept ql flo rvk stg (wfsHear u s) := by
  unfold wfsHear
  try dsimp only
  repeat' first
    | with_reducible assumption
    | with_reducible apply State.evt_kept
    | with_reducible apply State.inc_kept
    | with_reducible apply State.setWfs_kept
    | with_reducible apply wfsIgnore_kept
    | with_reducible apply kept_ite
    | split
    | (show _ = _; rfl)
    | (simp only [kept_mk]; with_reducible refine KeptParts.of ?_ ?_ ?_ ?_ ?_)

theorem wfsAdvance_kept {u : Nat} (hk : Kept ql flo rvk stg s) : Kept ql flo rvk stg (wfsAdvance u s) := by
  unfold wfsAdvance
  try dsimp only
  repeat' first
    | with_reducible assumption
    | with_reducible apply wfsSettle_kept
    | with_reducible apply wfsIgnore_kept
    | with_reducible apply wfsHear_kept
    | with_reducible apply kept_ite
    | split
    | (show _ = _; rfl)
    | (simp only [kept_mk]; with_reducible refine KeptParts.of ?_ ?_ ?_ ?_ ?_)

theorem wfsEvent_kept {code : Nat} {caravan : Option Nat} (hk : Kept ql flo rvk stg s) : Kept ql flo rvk stg (wfsEvent code caravan s) := by
  unfold wfsEvent
  try dsimp only
  repeat' first
    | with_reducible assumption
    | with_reducible apply wfsSettle_kept
    | with_reducible apply wfsIgnore_kept
    | with_reducible apply wfsHear_kept
    | with_reducible refine each_kept ?_ (fun _ _ _ => ?_)
    | with_reducible apply kept_ite
    | split
    | (show _ = _; rfl)
    | (simp only [kept_mk]; with_reducible refine KeptParts.of ?_ ?_ ?_ ?_ ?_)

theorem wfsNcoCommit_kept {u : Nat} {old : OscSet} (hk : Kept ql flo rvk stg s) : Kept ql flo rvk stg (wfsNcoCommit u old s) := by
  unfold wfsNcoCommit
  try dsimp only
  repeat' first
    | with_reducible assumption
    | with_reducible apply State.setWfs_kept
    | with_reducible apply kept_ite
    | split
    | (show _ = _; rfl)
    | (simp only [kept_mk]; with_reducible refine KeptParts.of ?_ ?_ ?_ ?_ ?_)

theorem wfsTableWrite_kept {u k v : Nat} (hk : Kept ql flo rvk stg s) : Kept ql flo rvk stg (wfsTableWrite u k v s) := by
  unfold wfsTableWrite
  try dsimp only
  repeat' first
    | with_reducible assumption
    | with_reducible apply State.wr_kept
    | with_reducible apply State.wrN_kept
    | with_reducible apply State.evt_kept
    | with_reducible apply kept_ite
    | split

theorem State.waveWrite_kept {u g origin : Nat} {data : List Byte} (hk : Kept ql flo rvk stg s) : Kept ql flo rvk stg (State.waveWrite s u g origin data) := by
  unfold State.waveWrite
  try dsimp only
  repeat' first
    | with_reducible assumption
    | with_reducible apply State.setWfs_kept
    | with_reducible refine foldl_kept ?_ (fun _ _ _ => ?_)
    | (show _ = _; rfl)
    | (simp only [kept_mk]; with_reducible refine KeptParts.of ?_ ?_ ?_ ?_ ?_)

theorem awgOpen_kept {u : Nat} (hk : Kept ql flo rvk stg s) : Kept ql flo rvk stg (awgOpen u s) := by
  unfold awgOpen
  try dsimp only
  repeat' first
    | with_reducible assumption
    | with_reducible apply State.setBit_kept
    | with_reducible apply State.setAwg_kept
    | (show _ = _; rfl)
    | (simp only [kept_mk]; with_reducible refine KeptParts.of ?_ ?_ ?_ ?_ ?_)

theorem awgConnect_kept {u : Nat} (hk : Kept ql flo rvk stg s) : Kept ql flo rvk stg (awgConnect u s) := by
  unfold awgConnect
  try dsimp only
  repeat' first
    | with_reducible assumption
    | with_reducible apply State.setBit_kept
    | with_reducible apply State.evt_kept
    | with_reducible apply State.setAwg_kept
    | with_reducible apply awgOpen_kept
    | with_reducible apply kept_ite
    | split
    | (show _ = _; rfl)
    | (simp only [kept_mk]; with_reducible refine KeptParts.of ?_ ?_ ?_ ?_ ?_)

theorem awgRelease_kept {u : Nat} (hk : Kept ql flo rvk stg s) : Kept ql flo rvk stg (awgRelease u s) := by
  unfold awgRelease
  try dsimp only
  repeat' first
    | with_reducible assumption
    | with_reducible apply awgOpen_kept
    | with_reducible apply kept_ite
    | split

theorem awgClose_kept {u : Nat} (hk : Kept ql flo rvk stg s) : Kept ql flo rvk stg (awgClose u s) := by
  unfold awgClose
  try dsimp only
  repeat' first
    | with_reducible assumption
    | with_reducible apply State.setBit_kept
    | with_reducible apply State.calPreempt_kept

theorem awgOutCommit_kept {u : Nat} {old : Word} (hk : Kept ql flo rvk stg s) : Kept ql flo rvk stg (awgOutCommit u old s) := by
  unfold awgOutCommit
  try dsimp only
  repeat' first
    | with_reducible assumption
    | with_reducible apply State.setBit_kept
    | with_reducible apply State.setAwg_kept
    | with_reducible apply awgConnect_kept
    | with_reducible apply awgClose_kept
    | with_reducible apply kept_ite
    | split
    | (show _ = _; rfl)
    | (simp only [kept_mk]; with_reducible refine KeptParts.of ?_ ?_ ?_ ?_ ?_)

theorem awgReclose_kept {u : Nat} (hk : Kept ql flo rvk stg s) : Kept ql flo rvk stg (awgReclose u s) := by
  unfold awgReclose
  try dsimp only
  repeat' first
    | with_reducible assumption
    | with_reducible apply State.setBit_kept
    | with_reducible apply State.setAwg_kept
    | with_reducible apply awgClose_kept
    | with_reducible apply kept_ite
    | split
    | (show _ = _; rfl)
    | (simp only [kept_mk]; with_reducible refine KeptParts.of ?_ ?_ ?_ ?_ ?_)

theorem awgPinCheck_kept {ch : Nat} (hk : Kept ql flo rvk stg s) : Kept ql flo rvk stg (awgPinCheck ch s) := by
  unfold awgPinCheck
  try dsimp only
  repeat' first
    | with_reducible assumption
    | with_reducible apply State.evt_kept
    | with_reducible apply awgOpen_kept
    | with_reducible refine each_kept ?_ (fun _ _ _ => ?_)
    | with_reducible apply kept_ite
    | split

theorem awgTrip_kept {chs : List Nat} (hk : Kept ql flo rvk stg s) : Kept ql flo rvk stg (awgTrip chs s) := by
  unfold awgTrip
  try dsimp only
  repeat' first
    | with_reducible assumption
    | with_reducible apply State.setBit_kept
    | with_reducible apply State.evt_kept
    | with_reducible apply State.setAwg_kept
    | with_reducible refine each_kept ?_ (fun _ _ _ => ?_)
    | with_reducible apply kept_ite
    | split
    | (show _ = _; rfl)
    | (simp only [kept_mk]; with_reducible refine KeptParts.of ?_ ?_ ?_ ?_ ?_)

theorem awgRoutesKept_kept  (hk : Kept ql flo rvk stg s) : Kept ql flo rvk stg (awgRoutesKept s) := by
  unfold awgRoutesKept
  try dsimp only
  repeat' first
    | with_reducible assumption
    | with_reducible apply awgOpen_kept
    | with_reducible refine each_kept ?_ (fun _ _ _ => ?_)
    | with_reducible apply kept_ite
    | split

theorem wfsGranuleLost_kept {u origin : Nat} (hk : Kept ql flo rvk stg s) : Kept ql flo rvk stg (wfsGranuleLost u origin s) := by
  unfold wfsGranuleLost
  try dsimp only
  repeat' first
    | with_reducible assumption
    | with_reducible apply State.setWfs_kept
    | with_reducible apply kept_ite
    | split
    | (show _ = _; rfl)
    | (simp only [kept_mk]; with_reducible refine KeptParts.of ?_ ?_ ?_ ?_ ?_)

end Sys2Proof.Machine
end

