-- ==== Sys2Proof/Laws/Keep/Acquire.lean ====
section
/-!
SUPPORT. Laws/Keep/Acquire.lean: the operations of Machine/Acquire.lean keep the queue, the rollback floor, the revoked keys, the stage and
the canonical form of the stored state (`Kept`).
-/

set_option linter.unusedTactic false
set_option linter.unreachableTactic false
set_option linter.unusedVariables false

namespace Sys2Proof.Machine

variable {ql : List Instr} {flo rvk : Nat} {stg : Option StageOf} {s : State}

theorem ringStore_wf {m : Tab Byte} {base size p : Nat} {l : List Nat} (h : Memory.wf m = true) : Memory.wf (ringStore m base size p l) = true := by
  induction l generalizing m p with
  | nil => exact h
  | cons v l ih => exact ih (memStore_wf h)

theorem State.setAcqState_kept {u v : Nat} (hk : Kept ql flo rvk stg s) : Kept ql flo rvk stg (State.setAcqState s u v) := by
  unfold State.setAcqState
  try dsimp only
  repeat' first
    | with_reducible assumption
    | with_reducible apply State.setFld_kept

theorem State.segFlag_kept {u b : Nat} (hk : Kept ql flo rvk stg s) : Kept ql flo rvk stg (State.segFlag s u b) := by
  unfold State.segFlag
  try dsimp only
  repeat' first
    | with_reducible assumption
    | with_reducible apply State.setAcq_kept
    | with_reducible apply kept_ite
    | split
    | (show _ = _; rfl)
    | (simp only [kept_mk]; with_reducible refine KeptParts.of ?_ ?_ ?_ ?_ ?_)

theorem beginSegment_kept {u at_ : Nat} (hk : Kept ql flo rvk stg s) : Kept ql flo rvk stg (beginSegment u at_ s) := by
  unfold beginSegment
  try dsimp only
  repeat' first
    | with_reducible assumption
    | with_reducible apply State.setAcq_kept
    | with_reducible apply State.setAcqState_kept
    | with_reducible apply kept_ite
    | split
    | (show _ = _; rfl)
    | (simp only [kept_mk]; with_reducible refine KeptParts.of ?_ ?_ ?_ ?_ ?_)

theorem acqArm_kept {u : Nat} (hk : Kept ql flo rvk stg s) : Kept ql flo rvk stg (acqArm u s) := by
  unfold acqArm
  try dsimp only
  repeat' first
    | with_reducible assumption
    | with_reducible apply State.wrN_kept
    | with_reducible apply State.setWide_kept
    | with_reducible apply State.evt_kept
    | with_reducible apply State.refuse_kept
    | with_reducible apply State.setAcq_kept
    | with_reducible apply State.setQueue_kept
    | with_reducible apply State.calPreempt_kept
    | with_reducible apply beginSegment_kept
    | with_reducible apply kept_ite
    | split
    | (show _ = _; rfl)
    | (simp only [kept_mk]; with_reducible refine KeptParts.of ?_ ?_ ?_ ?_ ?_)

theorem acqIgnore_kept {u : Nat} (hk : Kept ql flo rvk stg s) : Kept ql flo rvk stg (acqIgnore u s) := by
  unfold acqIgnore
  try dsimp only
  repeat' first
    | with_reducible assumption
    | with_reducible apply State.evt_kept
    | with_reducible apply State.inc_kept
    | with_reducible apply State.segFlag_kept

theorem acqJudge_kept {u : Nat} {f : Found} (hk : Kept ql flo rvk stg s) : Kept ql flo rvk stg (acqJudge u f s) := by
  unfold acqJudge
  try dsimp only
  repeat' first
    | with_reducible assumption
    | with_reducible apply State.setAcq_kept
    | with_reducible apply State.setAcqState_kept
    | with_reducible apply acqIgnore_kept
    | with_reducible apply kept_ite
    | split
    | (show _ = _; rfl)
    | (simp only [kept_mk]; with_reducible refine KeptParts.of ?_ ?_ ?_ ?_ ?_)

theorem acqRearmed_kept {u till : Nat} (hk : Kept ql flo rvk stg s) : Kept ql flo rvk stg (acqRearmed u till s) := by
  unfold acqRearmed
  try dsimp only
  repeat' first
    | with_reducible assumption
    | with_reducible apply beginSegment_kept
    | with_reducible apply kept_ite
    | split

theorem acqFilled_kept {u till : Nat} (hk : Kept ql flo rvk stg s) : Kept ql flo rvk stg (acqFilled u till s) := by
  unfold acqFilled
  try dsimp only
  repeat' first
    | with_reducible assumption
    | with_reducible apply State.setAcqState_kept
    | with_reducible apply kept_ite
    | split

theorem acqJudgeAt_kept {u : Nat} {f : Found} (hk : Kept ql flo rvk stg s) : Kept ql flo rvk stg (acqJudgeAt u s f) := by
  unfold acqJudgeAt
  try dsimp only
  repeat' first
    | with_reducible assumption
    | with_reducible apply acqJudge_kept
    | with_reducible apply acqRearmed_kept
    | with_reducible apply acqFilled_kept

theorem acqSettle_kept {u : Nat} (hk : Kept ql flo rvk stg s) : Kept ql flo rvk stg (acqSettle u s) := by
  unfold acqSettle
  try dsimp only
  repeat' first
    | with_reducible assumption
    | with_reducible apply State.setAcq_kept
    | with_reducible apply acqRearmed_kept
    | with_reducible apply acqFilled_kept
    | with_reducible apply acqJudgeAt_kept
    | with_reducible refine foldl_kept ?_ (fun _ _ _ => ?_)
    | with_reducible apply kept_ite
    | split
    | (show _ = _; rfl)
    | (simp only [kept_mk]; with_reducible refine KeptParts.of ?_ ?_ ?_ ?_ ?_)

theorem acqRecognise_kept {u mask at_ time event : Nat} (hk : Kept ql flo rvk stg s) : Kept ql flo rvk stg (acqRecognise u mask at_ time event s) := by
  unfold acqRecognise
  try dsimp only
  repeat' first
    | with_reducible assumption
    | with_reducible apply State.setAcq_kept
    | with_reducible apply acqJudge_kept
    | with_reducible apply acqSettle_kept
    | with_reducible apply kept_ite
    | split
    | (show _ = _; rfl)
    | (simp only [kept_mk]; with_reducible refine KeptParts.of ?_ ?_ ?_ ?_ ?_)

theorem acqSample_kept {u : Nat} {prev nv : Int} (hk : Kept ql flo rvk stg s) : Kept ql flo rvk stg (acqSample u prev nv s) := by
  unfold acqSample
  try dsimp only
  repeat' first
    | with_reducible assumption
    | with_reducible apply State.setFld_kept
    | with_reducible apply acqSettle_kept
    | with_reducible apply acqRecognise_kept
    | with_reducible apply kept_ite
    | split
    | (show _ = _; rfl)
    | (simp only [kept_mk]; with_reducible refine KeptParts.of ?_ ?_ ?_ ?_ ?_)

theorem acqEvent_kept {code : Nat} {caravan : Option Nat} (hk : Kept ql flo rvk stg s) : Kept ql flo rvk stg (acqEvent code caravan s) := by
  unfold acqEvent
  try dsimp only
  repeat' first
    | with_reducible assumption
    | with_reducible apply acqRecognise_kept
    | with_reducible refine each_kept ?_ (fun _ _ _ => ?_)
    | with_reducible apply kept_ite
    | split
    | (show _ = _; rfl)
    | (simp only [kept_mk]; with_reducible refine KeptParts.of ?_ ?_ ?_ ?_ ?_)

theorem acqForce_kept {u : Nat} (hk : Kept ql flo rvk stg s) : Kept ql flo rvk stg (acqForce u s) := by
  unfold acqForce
  try dsimp only
  repeat' first
    | with_reducible assumption
    | with_reducible apply acqRecognise_kept
    | with_reducible apply kept_ite
    | split

theorem State.segSamples_kept {u n : Nat} {samples : List Nat} (h : Kept ql flo rvk stg s) : Kept ql flo rvk stg (s.segSamples u n samples).2 := by
  unfold State.segSamples
  split
  · exact h
  · exact State.free16_kept h

theorem finishSegment_kept {u written : Nat} {samples : List Nat} {t : Trig} (hk : Kept ql flo rvk stg s) : Kept ql flo rvk stg (finishSegment u written samples t s) := by
  unfold finishSegment
  try dsimp only
  repeat' first
    | with_reducible assumption
    | with_reducible apply State.wrN_kept
    | with_reducible apply State.evt_kept
    | with_reducible apply State.memWrite_kept
    | with_reducible apply State.setAcq_kept
    | with_reducible apply State.pushResult_kept
    | with_reducible apply State.segFlag_kept
    | with_reducible apply State.segSamples_kept
    | with_reducible apply kept_ite
    | split
    | (show _ = _; rfl)
    | (simp only [kept_mk]; with_reducible refine KeptParts.of ?_ ?_ ?_ ?_ ?_)
    | (simp only [kept_mk]; with_reducible refine KeptParts.ofMem ?_ ?_ ?_ ?_ ?_ (fun hw => ringStore_wf hw))

theorem acqDone_kept {u code : Nat} (hk : Kept ql flo rvk stg s) : Kept ql flo rvk stg (acqDone u code s) := by
  unfold acqDone
  try dsimp only
  repeat' first
    | with_reducible assumption
    | with_reducible apply State.wrN_kept
    | with_reducible apply State.evt_kept
    | with_reducible apply State.setAcqState_kept

theorem acqEndAs_kept {u code : Nat} (hk : Kept ql flo rvk stg s) : Kept ql flo rvk stg (acqEndAs u code s) := by
  unfold acqEndAs
  try dsimp only
  repeat' first
    | with_reducible assumption
    | with_reducible apply State.segFlag_kept
    | with_reducible apply acqSettle_kept
    | with_reducible apply finishSegment_kept
    | with_reducible apply acqDone_kept
    | with_reducible apply kept_ite
    | split
    | (show _ = _; rfl)
    | (simp only [kept_mk]; with_reducible refine KeptParts.of ?_ ?_ ?_ ?_ ?_)

theorem acqStop_kept {u : Nat} (hk : Kept ql flo rvk stg s) : Kept ql flo rvk stg (acqStop u s) := by
  unfold acqStop
  try dsimp only
  repeat' first
    | with_reducible assumption
    | with_reducible apply acqEndAs_kept
    | with_reducible apply kept_ite
    | split

theorem segmentDone_kept {u : Nat} {samples : List Nat} {t : Trig} (hk : Kept ql flo rvk stg s) : Kept ql flo rvk stg (segmentDone u samples t s) := by
  unfold segmentDone
  try dsimp only
  repeat' first
    | with_reducible assumption
    | with_reducible apply State.free_kept
    | with_reducible apply State.setAcq_kept
    | with_reducible apply State.arrive_kept
    | with_reducible apply State.setAcqState_kept
    | with_reducible apply finishSegment_kept
    | with_reducible apply acqDone_kept
    | with_reducible apply kept_ite
    | split
    | (show _ = _; rfl)
    | (simp only [kept_mk]; with_reducible refine KeptParts.of ?_ ?_ ?_ ?_ ?_)

theorem trigRefresh_kept {u : Nat} (hk : Kept ql flo rvk stg s) : Kept ql flo rvk stg (trigRefresh u s) := by
  unfold trigRefresh
  try dsimp only
  repeat' first
    | with_reducible assumption
    | with_reducible apply State.setAcq_kept
    | with_reducible apply kept_ite
    | split
    | (show _ = _; rfl)
    | (simp only [kept_mk]; with_reducible refine KeptParts.of ?_ ?_ ?_ ?_ ?_)

theorem acqChanged_kept {u : Nat} (hk : Kept ql flo rvk stg s) : Kept ql flo rvk stg (acqChanged u s) := by
  unfold acqChanged
  try dsimp only
  repeat' first
    | with_reducible assumption
    | with_reducible apply State.setFld_kept
    | with_reducible apply State.segFlag_kept
    | with_reducible apply acqSettle_kept
    | with_reducible apply trigRefresh_kept

theorem acqInCommit_kept {u : Nat} {old : Word} (hk : Kept ql flo rvk stg s) : Kept ql flo rvk stg (acqInCommit u old s) := by
  unfold acqInCommit
  try dsimp only
  repeat' first
    | with_reducible assumption
    | with_reducible apply State.setBit_kept
    | with_reducible apply State.evt_kept
    | with_reducible apply State.setAcq_kept
    | with_reducible apply State.segFlag_kept
    | with_reducible apply acqChanged_kept
    | with_reducible apply kept_ite
    | split
    | (show _ = _; rfl)
    | (simp only [kept_mk]; with_reducible refine KeptParts.of ?_ ?_ ?_ ?_ ?_)

theorem acqRoutesKept_kept  (hk : Kept ql flo rvk stg s) : Kept ql flo rvk stg (acqRoutesKept s) := by
  unfold acqRoutesKept
  try dsimp only
  repeat' first
    | with_reducible assumption
    | with_reducible apply State.setBit_kept
    | with_reducible apply State.setAcq_kept
    | with_reducible refine each_kept ?_ (fun _ _ _ => ?_)
    | with_reducible apply kept_ite
    | split
    | (show _ = _; rfl)
    | (simp only [kept_mk]; with_reducible refine KeptParts.of ?_ ?_ ?_ ?_ ?_)

theorem acqCapacity_kept {u : Nat} (hk : Kept ql flo rvk stg s) : Kept ql flo rvk stg (acqCapacity u s) := by
  unfold acqCapacity
  try dsimp only
  repeat' first
    | with_reducible assumption
    | with_reducible apply State.setWide_kept

theorem streamBlock_kept {u : Nat} {samples : List Nat} (hk : Kept ql flo rvk stg s) : Kept ql flo rvk stg (streamBlock u samples s) := by
  unfold streamBlock
  try dsimp only
  repeat' first
    | with_reducible assumption
    | with_reducible apply State.setWide_kept
    | with_reducible apply State.hostWrite_kept
    | with_reducible apply State.segSamples_kept
    | with_reducible apply kept_ite
    | split
    | (show _ = _; rfl)
    | (simp only [kept_mk]; with_reducible refine KeptParts.of ?_ ?_ ?_ ?_ ?_)

theorem acqLatch_kept {u : Nat} (hk : Kept ql flo rvk stg s) : Kept ql flo rvk stg (acqLatch u s) := by
  unfold acqLatch
  try dsimp only
  repeat' first
    | with_reducible assumption
    | with_reducible apply State.latchResult_kept

theorem acqAdv_kept {u : Nat} (hk : Kept ql flo rvk stg s) : Kept ql flo rvk stg (acqAdv u s) := by
  unfold acqAdv
  try dsimp only
  repeat' first
    | with_reducible assumption
    | with_reducible apply State.wrN_kept
    | with_reducible apply State.advResult_kept
    | (show _ = _; rfl)
    | (simp only [kept_mk]; with_reducible refine KeptParts.of ?_ ?_ ?_ ?_ ?_)

end Sys2Proof.Machine
end

