-- ==== Sys2Proof/Laws/Keep/TimeMeas.lean ====
section
/-!
SUPPORT. Laws/Keep/TimeMeas.lean: the operations of Machine/TimeMeas.lean keep the queue, the rollback floor, the revoked keys, the stage and
the canonical form of the stored state (`Kept`).
-/

set_option linter.unusedTactic false
set_option linter.unreachableTactic false
set_option linter.unusedVariables false

namespace Sys2Proof.Machine

variable {ql : List Instr} {flo rvk : Nat} {stg : Option StageOf} {s : State}

theorem State.setTdcState_kept {ch v : Nat} (hk : Kept ql flo rvk stg s) : Kept ql flo rvk stg (State.setTdcState s ch v) := by
  unfold State.setTdcState
  try dsimp only
  repeat' first
    | with_reducible assumption
    | with_reducible apply State.setFld_kept

theorem cdEnd_kept {ch code : Nat} (hk : Kept ql flo rvk stg s) : Kept ql flo rvk stg (cdEnd ch code s) := by
  unfold cdEnd
  try dsimp only
  repeat' first
    | with_reducible assumption
    | with_reducible apply State.wrN_kept
    | with_reducible apply State.setFld_kept
    | with_reducible apply State.setTdc_kept
    | with_reducible apply State.setTdcState_kept
    | with_reducible apply kept_ite
    | split
    | (show _ = _; rfl)
    | (simp only [kept_mk]; with_reducible refine KeptParts.of ?_ ?_ ?_ ?_ ?_)

theorem cdAbort_kept {ch : Nat} (hk : Kept ql flo rvk stg s) : Kept ql flo rvk stg (cdAbort ch s) := by
  unfold cdAbort
  try dsimp only
  repeat' first
    | with_reducible assumption
    | with_reducible apply State.evt_kept
    | with_reducible apply cdEnd_kept
    | with_reducible apply kept_ite
    | split

theorem cdBegin_kept {ch : Nat} (hk : Kept ql flo rvk stg s) : Kept ql flo rvk stg (cdBegin ch s) := by
  unfold cdBegin
  try dsimp only
  repeat' first
    | with_reducible assumption
    | with_reducible apply State.setFld_kept
    | with_reducible apply State.setTdc_kept
    | (show _ = _; rfl)
    | (simp only [kept_mk]; with_reducible refine KeptParts.of ?_ ?_ ?_ ?_ ?_)

theorem cdGo_kept {ch : Nat} (hk : Kept ql flo rvk stg s) : Kept ql flo rvk stg (cdGo ch s) := by
  unfold cdGo
  try dsimp only
  repeat' first
    | with_reducible assumption
    | with_reducible apply State.wrN_kept
    | with_reducible apply State.refuse_kept
    | with_reducible apply State.setTdcState_kept
    | with_reducible apply cdBegin_kept
    | with_reducible apply kept_ite
    | split

theorem tdcSwapIn_kept {ch : Nat} (hk : Kept ql flo rvk stg s) : Kept ql flo rvk stg (tdcSwapIn ch s) := by
  unfold tdcSwapIn
  try dsimp only
  repeat' first
    | with_reducible assumption
    | with_reducible apply State.wrN_kept
    | with_reducible apply State.setFld_kept
    | with_reducible apply State.setBit_kept
    | with_reducible apply State.evt_kept
    | with_reducible apply State.setTdc_kept
    | with_reducible apply kept_ite
    | split
    | (show _ = _; rfl)
    | (simp only [kept_mk]; with_reducible refine KeptParts.of ?_ ?_ ?_ ?_ ?_)

theorem swapFrozen_kept {ch : Nat} (hk : Kept ql flo rvk stg s) : Kept ql flo rvk stg (swapFrozen ch s) := by
  unfold swapFrozen
  try dsimp only
  repeat' first
    | with_reducible assumption
    | with_reducible apply State.wrN_kept
    | with_reducible apply State.setBit_kept
    | with_reducible apply State.evt_kept
    | with_reducible apply State.setTdc_kept
    | (show _ = _; rfl)
    | (simp only [kept_mk]; with_reducible refine KeptParts.of ?_ ?_ ?_ ?_ ?_)

theorem tdcSwapRequest_kept {ch : Nat} (hk : Kept ql flo rvk stg s) : Kept ql flo rvk stg (tdcSwapRequest ch s) := by
  unfold tdcSwapRequest
  try dsimp only
  repeat' first
    | with_reducible assumption
    | with_reducible apply State.setBit_kept
    | with_reducible apply State.arrive_kept
    | with_reducible apply swapFrozen_kept
    | with_reducible apply kept_ite
    | split

theorem tdcReject_kept {ch code : Nat} (hk : Kept ql flo rvk stg s) : Kept ql flo rvk stg (tdcReject ch code s) := by
  unfold tdcReject
  try dsimp only
  repeat' first
    | with_reducible assumption
    | with_reducible apply State.wrN_kept
    | with_reducible apply State.setFld_kept
    | with_reducible apply State.evt_kept

theorem cdComplete_kept {ch : Nat} {hits : List Nat} (hk : Kept ql flo rvk stg s) : Kept ql flo rvk stg (cdComplete ch hits s) := by
  unfold cdComplete
  try dsimp only
  repeat' first
    | with_reducible assumption
    | with_reducible apply State.setFld_kept
    | with_reducible apply State.evt_kept
    | with_reducible apply State.setTdc_kept
    | with_reducible apply State.setTdcState_kept
    | with_reducible apply tdcReject_kept
    | with_reducible refine foldl_kept ?_ (fun _ _ _ => ?_)
    | with_reducible apply kept_ite
    | split
    | (show _ = _; rfl)
    | (simp only [kept_mk]; with_reducible refine KeptParts.of ?_ ?_ ?_ ?_ ?_)

theorem tdcTswap_kept {ch : Nat} (hk : Kept ql flo rvk stg s) : Kept ql flo rvk stg (tdcTswap ch s) := by
  unfold tdcTswap
  try dsimp only
  repeat' first
    | with_reducible assumption
    | with_reducible apply State.setFld_kept
    | with_reducible apply tdcSwapRequest_kept
    | with_reducible apply tdcReject_kept
    | with_reducible apply kept_ite
    | split
    | (show _ = _; rfl)
    | (simp only [kept_mk]; with_reducible refine KeptParts.of ?_ ?_ ?_ ?_ ?_)

theorem tdcTableWrite_kept {ch v : Nat} (hk : Kept ql flo rvk stg s) : Kept ql flo rvk stg (tdcTableWrite ch v s) := by
  unfold tdcTableWrite
  try dsimp only
  repeat' first
    | with_reducible assumption
    | with_reducible apply State.setFld_kept
    | with_reducible apply State.setTdc_kept
    | with_reducible apply kept_ite
    | split
    | (show _ = _; rfl)
    | (simp only [kept_mk]; with_reducible refine KeptParts.of ?_ ?_ ?_ ?_ ?_)

theorem tdcTableRead_kept {ch : Nat} (h : Kept ql flo rvk stg s) : Kept ql flo rvk stg (tdcTableRead ch s).2 := State.setFld_kept h

theorem tdcRestart_kept {ch since : Nat} (hk : Kept ql flo rvk stg s) : Kept ql flo rvk stg (tdcRestart ch since s) := by
  unfold tdcRestart
  try dsimp only
  repeat' first
    | with_reducible assumption
    | with_reducible apply State.setTdc_kept
    | with_reducible apply State.setTdcState_kept
    | (show _ = _; rfl)
    | (simp only [kept_mk]; with_reducible refine KeptParts.of ?_ ?_ ?_ ?_ ?_)

theorem tdcArm_kept {ch : Nat} (hk : Kept ql flo rvk stg s) : Kept ql flo rvk stg (tdcArm ch s) := by
  unfold tdcArm
  try dsimp only
  repeat' first
    | with_reducible assumption
    | with_reducible apply State.wrN_kept
    | with_reducible apply State.evt_kept
    | with_reducible apply State.refuse_kept
    | with_reducible apply State.setTdc_kept
    | with_reducible apply State.setTdcState_kept
    | with_reducible apply cdAbort_kept
    | with_reducible apply tdcRestart_kept
    | with_reducible apply kept_ite
    | split
    | (show _ = _; rfl)
    | (simp only [kept_mk]; with_reducible refine KeptParts.of ?_ ?_ ?_ ?_ ?_)

theorem tdcIdle_kept {ch : Nat} (hk : Kept ql flo rvk stg s) : Kept ql flo rvk stg (tdcIdle ch s) := by
  unfold tdcIdle
  try dsimp only
  repeat' first
    | with_reducible assumption
    | with_reducible apply State.setTdc_kept
    | with_reducible apply State.setTdcState_kept
    | split
    | (show _ = _; rfl)
    | (simp only [kept_mk]; with_reducible refine KeptParts.of ?_ ?_ ?_ ?_ ?_)

theorem tdcDisarm_kept {ch : Nat} (hk : Kept ql flo rvk stg s) : Kept ql flo rvk stg (tdcDisarm ch s) := by
  unfold tdcDisarm
  try dsimp only
  repeat' first
    | with_reducible assumption
    | with_reducible apply tdcIdle_kept
    | with_reducible apply kept_ite
    | split

theorem tdcResult_kept {ch : Nat} {timeout : Bool} (hk : Kept ql flo rvk stg s) : Kept ql flo rvk stg (tdcResult ch timeout s) := by
  unfold tdcResult
  try dsimp only
  repeat' first
    | with_reducible assumption
    | with_reducible apply State.evt_kept
    | with_reducible apply State.inc_kept
    | with_reducible apply State.pushResult_kept
    | with_reducible apply State.dropResult_kept
    | with_reducible apply tdcRestart_kept
    | with_reducible apply tdcIdle_kept
    | with_reducible apply kept_ite
    | split
    | (show _ = _; rfl)
    | (simp only [kept_mk]; with_reducible refine KeptParts.of ?_ ?_ ?_ ?_ ?_)

theorem deadTime_kept {m ph : Nat} {e : Edge} {w : Int} {stop : Bool} (hk : Kept ql flo rvk stg s) : Kept ql flo rvk stg (deadTime m ph e w stop s) := by
  unfold deadTime
  try dsimp only
  repeat' first
    | with_reducible assumption
    | with_reducible apply State.setTdc_kept
    | with_reducible apply kept_ite
    | split
    | (show _ = _; rfl)
    | (simp only [kept_mk]; with_reducible refine KeptParts.of ?_ ?_ ?_ ?_ ?_)

theorem earlyStop_kept {m : Nat} (hk : Kept ql flo rvk stg s) : Kept ql flo rvk stg (earlyStop m s) := by
  unfold earlyStop
  try dsimp only
  repeat' first
    | with_reducible assumption
    | with_reducible apply State.inc_kept
    | with_reducible apply State.setTdc_kept
    | (show _ = _; rfl)
    | (simp only [kept_mk]; with_reducible refine KeptParts.of ?_ ?_ ?_ ?_ ?_)

theorem edgeLost_kept {m : Nat} (hk : Kept ql flo rvk stg s) : Kept ql flo rvk stg (edgeLost m s) := by
  unfold edgeLost
  try dsimp only
  repeat' first
    | with_reducible assumption
    | with_reducible apply State.inc_kept
    | with_reducible apply State.setTdc_kept
    | (show _ = _; rfl)
    | (simp only [kept_mk]; with_reducible refine KeptParts.of ?_ ?_ ?_ ?_ ?_)

theorem stopDisplaced_kept {m : Nat} {l : Capture} (hk : Kept ql flo rvk stg s) : Kept ql flo rvk stg (stopDisplaced m l s) := by
  unfold stopDisplaced
  try dsimp only
  repeat' first
    | with_reducible assumption
    | with_reducible apply State.wrN_kept
    | with_reducible apply State.setTdc_kept
    | with_reducible apply edgeLost_kept
    | (show _ = _; rfl)
    | (simp only [kept_mk]; with_reducible refine KeptParts.of ?_ ?_ ?_ ?_ ?_)

theorem startTaken_kept {m : Nat} {x : Stamp} (hk : Kept ql flo rvk stg s) : Kept ql flo rvk stg (startTaken m x s) := by
  unfold startTaken
  try dsimp only
  repeat' first
    | with_reducible assumption
    | with_reducible apply State.setTdc_kept
    | with_reducible apply State.setTdcState_kept
    | with_reducible apply tdcResult_kept
    | with_reducible apply kept_ite
    | split
    | (show _ = _; rfl)
    | (simp only [kept_mk]; with_reducible refine KeptParts.of ?_ ?_ ?_ ?_ ?_)

theorem stopTaken_kept {m : Nat} {x : Stamp} (hk : Kept ql flo rvk stg s) : Kept ql flo rvk stg (stopTaken m x s) := by
  unfold stopTaken
  try dsimp only
  repeat' first
    | with_reducible assumption
    | with_reducible apply State.setTdc_kept
    | with_reducible apply tdcResult_kept
    | with_reducible apply earlyStop_kept
    | with_reducible apply kept_ite
    | split
    | (show _ = _; rfl)
    | (simp only [kept_mk]; with_reducible refine KeptParts.of ?_ ?_ ?_ ?_ ?_)

theorem tdcEdgeFor_kept {m ph : Nat} {e : Edge} {isStart isStop : Bool} (hk : Kept ql flo rvk stg s) : Kept ql flo rvk stg (tdcEdgeFor m ph e isStart isStop s) := by
  unfold tdcEdgeFor
  try dsimp only
  repeat' first
    | with_reducible assumption
    | with_reducible apply deadTime_kept
    | with_reducible apply edgeLost_kept
    | with_reducible apply stopDisplaced_kept
    | with_reducible apply startTaken_kept
    | with_reducible apply stopTaken_kept
    | with_reducible apply kept_ite
    | split
    | (show _ = _; rfl)
    | (simp only [kept_mk]; with_reducible refine KeptParts.of ?_ ?_ ?_ ?_ ?_)

theorem tdcSettle_kept {m till : Nat} (hk : Kept ql flo rvk stg s) : Kept ql flo rvk stg (tdcSettle m till s) := by
  unfold tdcSettle
  try dsimp only
  repeat' first
    | with_reducible assumption
    | with_reducible apply State.setChan_kept
    | with_reducible apply tdcEdgeFor_kept
    | with_reducible refine foldl_kept ?_ (fun _ _ _ => ?_)
    | with_reducible apply kept_ite
    | split
    | (show _ = _; rfl)
    | (simp only [kept_mk]; with_reducible refine KeptParts.of ?_ ?_ ?_ ?_ ?_)

theorem tdcEdge_kept {ch : Nat} {e : Edge} (hk : Kept ql flo rvk stg s) : Kept ql flo rvk stg (tdcEdge ch e s) := by
  unfold tdcEdge
  try dsimp only
  repeat' first
    | with_reducible assumption
    | with_reducible apply tdcEdgeFor_kept
    | with_reducible apply tdcSettle_kept
    | with_reducible refine each_kept ?_ (fun _ _ _ => ?_)
    | with_reducible apply kept_ite
    | split
    | (show _ = _; rfl)
    | (simp only [kept_mk]; with_reducible refine KeptParts.of ?_ ?_ ?_ ?_ ?_)

theorem tdcSynth_kept {ch source : Nat} {rising : Bool} (hk : Kept ql flo rvk stg s) : Kept ql flo rvk stg (tdcSynth ch source rising s) := by
  unfold tdcSynth
  try dsimp only
  repeat' first
    | with_reducible assumption
    | with_reducible refine State.atDue_kept ?_ (fun _ _ => ?_)
    | with_reducible apply tdcSettle_kept
    | split
    | (show _ = _; rfl)
    | (simp only [kept_mk]; with_reducible refine KeptParts.of ?_ ?_ ?_ ?_ ?_)

theorem tdcEvent_kept {code : Nat} {caravan : Option Nat} (hk : Kept ql flo rvk stg s) : Kept ql flo rvk stg (tdcEvent code caravan s) := by
  unfold tdcEvent
  try dsimp only
  repeat' first
    | with_reducible assumption
    | with_reducible apply tdcEdgeFor_kept
    | with_reducible apply tdcSettle_kept
    | with_reducible refine each_kept ?_ (fun _ _ _ => ?_)
    | with_reducible apply kept_ite
    | split
    | (show _ = _; rfl)
    | (simp only [kept_mk]; with_reducible refine KeptParts.of ?_ ?_ ?_ ?_ ?_)

theorem tdcFreezeCommit_kept {k : Nat} {old : Word} (hk : Kept ql flo rvk stg s) : Kept ql flo rvk stg (tdcFreezeCommit k old s) := by
  unfold tdcFreezeCommit
  try dsimp only
  repeat' first
    | with_reducible assumption
    | with_reducible apply State.setBit_kept
    | with_reducible apply State.setTdc_kept
    | with_reducible apply tdcSwapRequest_kept
    | with_reducible refine each_kept ?_ (fun _ _ _ => ?_)
    | with_reducible apply kept_ite
    | split
    | (show _ = _; rfl)
    | (simp only [kept_mk]; with_reducible refine KeptParts.of ?_ ?_ ?_ ?_ ?_)

theorem tdcExpire_kept {ch : Nat} (hk : Kept ql flo rvk stg s) : Kept ql flo rvk stg (tdcExpire ch s) := by
  unfold tdcExpire
  try dsimp only
  repeat' first
    | with_reducible assumption
    | with_reducible apply tdcResult_kept
    | with_reducible apply tdcSettle_kept
    | with_reducible apply kept_ite
    | split
    | (show _ = _; rfl)
    | (simp only [kept_mk]; with_reducible refine KeptParts.of ?_ ?_ ?_ ?_ ?_)

theorem tdcLatch_kept {ch : Nat} (hk : Kept ql flo rvk stg s) : Kept ql flo rvk stg (tdcLatch ch s) := by
  unfold tdcLatch
  try dsimp only
  repeat' first
    | with_reducible assumption
    | with_reducible apply State.latchResult_kept

end Sys2Proof.Machine
end

