-- ==== Sys2Proof/Laws/Keep/Check.lean ====
section
/-!
SUPPORT. Laws/Keep/Check.lean: the operations of Machine/Check.lean keep the queue, the rollback floor, the revoked keys, the stage and
the canonical form of the stored state (`Kept`).
-/

set_option linter.unusedTactic false
set_option linter.unreachableTactic false
set_option linter.unusedVariables false

namespace Sys2Proof.Machine

variable {ql : List Instr} {flo rvk : Nat} {stg : Option StageOf} {s : State}

theorem chkShow_kept {u : Nat} (hk : Kept ql flo rvk stg s) : Kept ql flo rvk stg (chkShow u s) := by
  unfold chkShow
  try dsimp only
  repeat' first
    | with_reducible assumption
    | with_reducible apply State.setFld_kept
    | with_reducible apply State.setBit_kept
    | with_reducible apply kept_ite
    | split
    | (show _ = _; rfl)
    | (simp only [kept_mk]; with_reducible refine KeptParts.of ?_ ?_ ?_ ?_ ?_)

theorem chkAlive_kept {u value : Nat} {isMatch : Bool} (h : Kept ql flo rvk stg s) : Kept ql flo rvk stg (chkAlive u value isMatch s).2 := by
  unfold chkAlive
  dsimp only
  repeat' first
    | with_reducible assumption
    | with_reducible apply State.evt_kept
    | with_reducible apply State.inc_kept
    | with_reducible apply State.setChk_kept
    | split

theorem chkFrameEnd_kept {u : Nat} {whole : Bool} (hk : Kept ql flo rvk stg s) : Kept ql flo rvk stg (chkFrameEnd u whole s) := by
  unfold chkFrameEnd
  try dsimp only
  repeat' first
    | with_reducible assumption
    | with_reducible apply State.evt_kept
    | with_reducible apply State.inc_kept
    | with_reducible apply State.free_kept
    | with_reducible apply State.setChk_kept
    | with_reducible apply State.pushResult_kept
    | with_reducible apply State.dropResult_kept
    | with_reducible refine State.when_kept ?_ (fun _ _ => ?_)
    | with_reducible apply chkShow_kept
    | with_reducible apply chkAlive_kept
    | with_reducible apply kept_ite
    | split
    | (show _ = _; rfl)
    | (simp only [kept_mk]; with_reducible refine KeptParts.of ?_ ?_ ?_ ?_ ?_)

theorem chkBit_kept {u : Nat} {b : Bool} (hk : Kept ql flo rvk stg s) : Kept ql flo rvk stg (chkBit u s b) := by
  unfold chkBit
  try dsimp only
  repeat' first
    | with_reducible assumption
    | with_reducible apply State.setChk_kept
    | with_reducible apply chkShow_kept
    | with_reducible apply chkFrameEnd_kept
    | with_reducible apply kept_ite
    | split
    | (show _ = _; rfl)
    | (simp only [kept_mk]; with_reducible refine KeptParts.of ?_ ?_ ?_ ?_ ?_)

theorem chkBits_kept {u : Nat} {l : List Bool} (hk : Kept ql flo rvk stg s) : Kept ql flo rvk stg (chkBits u l s) := by
  unfold chkBits
  try dsimp only
  repeat' first
    | with_reducible assumption
    | with_reducible apply chkBit_kept
    | with_reducible refine foldl_kept ?_ (fun _ _ _ => ?_)

theorem chkFeed_kept {u : Nat} {bytes : List Nat} (hk : Kept ql flo rvk stg s) : Kept ql flo rvk stg (chkFeed u bytes s) := by
  unfold chkFeed
  try dsimp only
  repeat' first
    | with_reducible assumption
    | with_reducible apply chkBits_kept
    | with_reducible apply kept_ite
    | split

theorem chkVector_kept {n : Nat} {isCp : Nat → Bool} {hi : Nat → Bool} (hk : Kept ql flo rvk stg s) : Kept ql flo rvk stg (chkVector n isCp hi s) := by
  unfold chkVector
  try dsimp only
  repeat' first
    | with_reducible assumption
    | with_reducible apply chkBits_kept
    | with_reducible refine each_kept ?_ (fun _ _ _ => ?_)
    | with_reducible apply kept_ite
    | split
    | (show _ = _; rfl)
    | (simp only [kept_mk]; with_reducible refine KeptParts.of ?_ ?_ ?_ ?_ ?_)

theorem chkSiteLeaves_kept {n : Nat} (hk : Kept ql flo rvk stg s) : Kept ql flo rvk stg (chkSiteLeaves n s) := by
  unfold chkSiteLeaves
  try dsimp only
  repeat' first
    | with_reducible assumption
    | with_reducible apply chkFrameEnd_kept
    | with_reducible refine each_kept ?_ (fun _ _ _ => ?_)
    | with_reducible apply kept_ite
    | split

theorem chkEvent_kept {code : Nat} {caravan : Option Nat} (hk : Kept ql flo rvk stg s) : Kept ql flo rvk stg (chkEvent code caravan s) := by
  unfold chkEvent
  try dsimp only
  repeat' first
    | with_reducible assumption
    | with_reducible apply State.setChk_kept
    | with_reducible refine each_kept ?_ (fun _ _ _ => ?_)
    | with_reducible apply kept_ite
    | split
    | (show _ = _; rfl)
    | (simp only [kept_mk]; with_reducible refine KeptParts.of ?_ ?_ ?_ ?_ ?_)

theorem chkArm_kept {u : Nat} (hk : Kept ql flo rvk stg s) : Kept ql flo rvk stg (chkArm u s) := by
  unfold chkArm
  try dsimp only
  repeat' first
    | with_reducible assumption
    | with_reducible apply State.wrN_kept
    | with_reducible apply State.evt_kept
    | with_reducible apply State.refuse_kept
    | with_reducible apply State.setChk_kept
    | with_reducible apply State.setQueue_kept
    | with_reducible apply chkShow_kept
    | with_reducible apply kept_ite
    | split
    | (show _ = _; rfl)
    | (simp only [kept_mk]; with_reducible refine KeptParts.of ?_ ?_ ?_ ?_ ?_)

theorem chkDisarm_kept {u : Nat} (hk : Kept ql flo rvk stg s) : Kept ql flo rvk stg (chkDisarm u s) := by
  unfold chkDisarm
  try dsimp only
  repeat' first
    | with_reducible assumption
    | with_reducible apply State.setChk_kept
    | with_reducible apply chkShow_kept
    | with_reducible apply chkFrameEnd_kept
    | with_reducible apply kept_ite
    | split
    | (show _ = _; rfl)
    | (simp only [kept_mk]; with_reducible refine KeptParts.of ?_ ?_ ?_ ?_ ?_)

theorem chkLatch_kept {u : Nat} (hk : Kept ql flo rvk stg s) : Kept ql flo rvk stg (chkLatch u s) := by
  unfold chkLatch
  try dsimp only
  repeat' first
    | with_reducible assumption
    | with_reducible apply State.latchResult_kept
    | with_reducible apply kept_ite
    | split

theorem State.busRaise_kept {code : Nat} {caravan : Option Nat} (hk : Kept ql flo rvk stg s) : Kept ql flo rvk stg (State.busRaise s code caravan) := by
  unfold State.busRaise
  try dsimp only
  repeat' first
    | with_reducible assumption
    | with_reducible apply State.monEvent_kept
    | with_reducible apply wfsEvent_kept
    | with_reducible apply acqEvent_kept
    | with_reducible apply tdcEvent_kept
    | with_reducible apply chkEvent_kept

end Sys2Proof.Machine
end

