-- ==== Sys2Proof/Laws/Keep/Assay.lean ====
section
/-!
SUPPORT. Laws/Keep/Assay.lean: the operations of Machine/Assay.lean keep the queue, the rollback floor, the revoked keys, the stage and
the canonical form of the stored state (`Kept`).
-/

set_option linter.unusedTactic false
set_option linter.unreachableTactic false
set_option linter.unusedVariables false

namespace Sys2Proof.Machine

variable {ql : List Instr} {flo rvk : Nat} {stg : Option StageOf} {s : State}

theorem State.siteShow_kept {n : Nat} (hk : Kept ql flo rvk stg s) : Kept ql flo rvk stg (State.siteShow s n) := by
  unfold State.siteShow
  try dsimp only
  repeat' first
    | with_reducible assumption
    | with_reducible apply State.wrN_kept
    | with_reducible apply State.setWide_kept
    | with_reducible apply kept_ite
    | split
    | (show _ = _; rfl)
    | (simp only [kept_mk]; with_reducible refine KeptParts.of ?_ ?_ ?_ ?_ ?_)

theorem State.putSite_kept {n : Nat} {x : Site} (hk : Kept ql flo rvk stg s) : Kept ql flo rvk stg (State.putSite s n x) := by
  unfold State.putSite
  try dsimp only
  repeat' first
    | with_reducible assumption
    | with_reducible apply State.setSite_kept
    | with_reducible apply State.siteShow_kept

theorem State.flagSite_kept {n b : Nat} (hk : Kept ql flo rvk stg s) : Kept ql flo rvk stg (State.flagSite s n b) := by
  unfold State.flagSite
  try dsimp only
  repeat' first
    | with_reducible assumption
    | with_reducible apply State.putSite_kept
    | (show _ = _; rfl)
    | (simp only [kept_mk]; with_reducible refine KeptParts.of ?_ ?_ ?_ ?_ ?_)

theorem State.setShare_kept {n base bytes : Nat} (hk : Kept ql flo rvk stg s) : Kept ql flo rvk stg (State.setShare s n base bytes) := by
  unfold State.setShare
  try dsimp only
  repeat' first
    | with_reducible assumption
    | with_reducible apply State.setWide_kept

theorem State.recordGone_kept {n b : Nat} (hk : Kept ql flo rvk stg s) : Kept ql flo rvk stg (State.recordGone s n b) := by
  unfold State.recordGone
  try dsimp only
  repeat' first
    | with_reducible assumption
    | with_reducible apply State.putSite_kept
    | (show _ = _; rfl)
    | (simp only [kept_mk]; with_reducible refine KeptParts.of ?_ ?_ ?_ ?_ ?_)

theorem State.record_kept {n : Nat} {r : FailRec} (hk : Kept ql flo rvk stg s) : Kept ql flo rvk stg (State.record s n r) := by
  unfold State.record
  try dsimp only
  repeat' first
    | with_reducible assumption
    | with_reducible apply State.setWide_kept
    | with_reducible apply State.evt_kept
    | with_reducible apply State.inc_kept
    | with_reducible apply State.putSite_kept
    | with_reducible apply State.recordGone_kept
    | with_reducible apply kept_ite
    | split
    | (show _ = _; rfl)
    | (simp only [kept_mk]; with_reducible refine KeptParts.of ?_ ?_ ?_ ?_ ?_)

theorem logDrain_kept {n : Nat} (hk : Kept ql flo rvk stg s) : Kept ql flo rvk stg (logDrain n s) := by
  unfold logDrain
  try dsimp only
  repeat' first
    | with_reducible assumption
    | with_reducible apply State.setWide_kept
    | with_reducible apply State.memWrite_kept
    | with_reducible apply State.putSite_kept
    | split
    | (show _ = _; rfl)
    | (simp only [kept_mk]; with_reducible refine KeptParts.of ?_ ?_ ?_ ?_ ?_)

theorem abortCheck_kept {n : Nat} (hk : Kept ql flo rvk stg s) : Kept ql flo rvk stg (abortCheck n s) := by
  unfold abortCheck
  try dsimp only
  repeat' first
    | with_reducible assumption
    | with_reducible apply State.setSite_kept
    | with_reducible apply kept_ite
    | split
    | (show _ = _; rfl)
    | (simp only [kept_mk]; with_reducible refine KeptParts.of ?_ ?_ ?_ ?_ ?_)

theorem unrepairable_kept {n : Nat} (hk : Kept ql flo rvk stg s) : Kept ql flo rvk stg (unrepairable n s) := by
  unfold unrepairable
  try dsimp only
  repeat' first
    | with_reducible assumption
    | with_reducible apply State.putSite_kept
    | with_reducible apply abortCheck_kept
    | (show _ = _; rfl)
    | (simp only [kept_mk]; with_reducible refine KeptParts.of ?_ ?_ ?_ ?_ ?_)

theorem eventLost_kept {n : Nat} (hk : Kept ql flo rvk stg s) : Kept ql flo rvk stg (eventLost n s) := by
  unfold eventLost
  try dsimp only
  repeat' first
    | with_reducible assumption
    | with_reducible apply State.evt_kept
    | with_reducible apply State.inc_kept
    | with_reducible apply State.flagSite_kept

theorem memoryEvent_kept {n : Nat} {e : MemEvent} (hk : Kept ql flo rvk stg s) : Kept ql flo rvk stg (memoryEvent n e s) := by
  unfold memoryEvent
  try dsimp only
  repeat' first
    | with_reducible assumption
    | with_reducible apply State.evt_kept
    | with_reducible apply State.inc_kept
    | with_reducible apply State.putSite_kept
    | with_reducible apply State.flagSite_kept
    | with_reducible apply eventLost_kept
    | with_reducible apply kept_ite
    | split
    | (show _ = _; rfl)
    | (simp only [kept_mk]; with_reducible refine KeptParts.of ?_ ?_ ?_ ?_ ?_)

theorem analyseEvent_kept {n : Nat} (hk : Kept ql flo rvk stg s) : Kept ql flo rvk stg (analyseEvent n s) := by
  unfold analyseEvent
  try dsimp only
  repeat' first
    | with_reducible assumption
    | with_reducible apply State.putSite_kept
    | with_reducible apply unrepairable_kept
    | with_reducible apply eventLost_kept
    | with_reducible apply kept_ite
    | split
    | (show _ = _; rfl)
    | (simp only [kept_mk]; with_reducible refine KeptParts.of ?_ ?_ ?_ ?_ ?_)

theorem deliver_kept {n : Nat} {x : Closing} (hk : Kept ql flo rvk stg s) : Kept ql flo rvk stg (deliver n x s) := by
  unfold deliver
  try dsimp only
  repeat' first
    | with_reducible assumption
    | with_reducible apply State.setBit_kept
    | with_reducible apply State.evt_kept
    | with_reducible apply State.memWrite_kept
    | with_reducible apply State.setQueue_kept
    | with_reducible apply State.pushResult_kept
    | with_reducible apply kept_ite
    | split
    | (show _ = _; rfl)
    | (simp only [kept_mk]; with_reducible refine KeptParts.of ?_ ?_ ?_ ?_ ?_)

theorem finalAnalysis_kept {n : Nat} (hk : Kept ql flo rvk stg s) : Kept ql flo rvk stg (finalAnalysis n s) := by
  unfold finalAnalysis
  try dsimp only
  repeat' first
    | with_reducible assumption
    | with_reducible apply State.putSite_kept
    | with_reducible apply deliver_kept
    | with_reducible apply kept_ite
    | split
    | (show _ = _; rfl)
    | (simp only [kept_mk]; with_reducible refine KeptParts.of ?_ ?_ ?_ ?_ ?_)

theorem analyseAll_kept {n k : Nat} (h : Kept ql flo rvk stg s) : Kept ql flo rvk stg (analyseAll n k s) := by
  induction k generalizing s with
  | zero => exact h
  | succ k ih =>
    unfold analyseAll
    split
    · exact h
    · exact ih (analyseEvent_kept h)

theorem finalizeSite_kept {n : Nat} (hk : Kept ql flo rvk stg s) : Kept ql flo rvk stg (finalizeSite n s) := by
  unfold finalizeSite
  try dsimp only
  repeat' first
    | with_reducible assumption
    | with_reducible apply State.putSite_kept
    | with_reducible apply deliver_kept
    | with_reducible apply finalAnalysis_kept
    | with_reducible apply analyseAll_kept
    | with_reducible apply kept_ite
    | split
    | (show _ = _; rfl)
    | (simp only [kept_mk]; with_reducible refine KeptParts.of ?_ ?_ ?_ ?_ ?_)

theorem siteFinalize_kept {n : Nat} (hk : Kept ql flo rvk stg s) : Kept ql flo rvk stg (siteFinalize n s) := by
  unfold siteFinalize
  try dsimp only
  repeat' first
    | with_reducible assumption
    | with_reducible apply State.evt_kept
    | with_reducible apply State.refuse_kept
    | with_reducible apply finalizeSite_kept
    | with_reducible apply kept_ite
    | split

theorem siteClear_kept {n : Nat} (hk : Kept ql flo rvk stg s) : Kept ql flo rvk stg (siteClear n s) := by
  unfold siteClear
  try dsimp only
  repeat' first
    | with_reducible assumption
    | with_reducible apply State.evt_kept
    | with_reducible apply State.refuse_kept
    | with_reducible apply State.putSite_kept
    | with_reducible apply kept_ite
    | split
    | (show _ = _; rfl)
    | (simp only [kept_mk]; with_reducible refine KeptParts.of ?_ ?_ ?_ ?_ ?_)

theorem asyLatch_kept {n : Nat} (hk : Kept ql flo rvk stg s) : Kept ql flo rvk stg (asyLatch n s) := by
  unfold asyLatch
  try dsimp only
  repeat' first
    | with_reducible assumption
    | with_reducible apply State.latchResult_kept
    | with_reducible apply kept_ite
    | split
    | (show _ = _; rfl)
    | (simp only [kept_mk]; with_reducible refine KeptParts.of ?_ ?_ ?_ ?_ ?_)

theorem asyAdv_kept {n : Nat} (hk : Kept ql flo rvk stg s) : Kept ql flo rvk stg (asyAdv n s) := by
  unfold asyAdv
  try dsimp only
  repeat' first
    | with_reducible assumption
    | with_reducible apply State.setBit_kept
    | with_reducible apply State.advResult_kept
    | with_reducible apply kept_ite
    | split
    | (show _ = _; rfl)
    | (simp only [kept_mk]; with_reducible refine KeptParts.of ?_ ?_ ?_ ?_ ?_)

theorem siteMarks_kept {n vector : Nat} {v : Vec} (hk : Kept ql flo rvk stg s) : Kept ql flo rvk stg (siteMarks n vector v s) := by
  unfold siteMarks
  try dsimp only
  repeat' first
    | with_reducible assumption
    | with_reducible apply State.record_kept
    | with_reducible apply kept_ite
    | split
    | (show _ = _; rfl)
    | (simp only [kept_mk]; with_reducible refine KeptParts.of ?_ ?_ ?_ ?_ ?_)

theorem siteVector_kept {n vector : Nat} {v : Vec} {obs : List PinObs} (hk : Kept ql flo rvk stg s) : Kept ql flo rvk stg (siteVector n vector v obs s) := by
  unfold siteVector
  try dsimp only
  repeat' first
    | with_reducible assumption
    | with_reducible refine State.when_kept ?_ (fun _ _ => ?_)
    | with_reducible apply chkVector_kept
    | with_reducible apply State.putSite_kept
    | with_reducible apply State.flagSite_kept
    | with_reducible apply State.record_kept
    | with_reducible apply abortCheck_kept
    | with_reducible apply memoryEvent_kept
    | with_reducible apply siteMarks_kept
    | with_reducible refine each_kept ?_ (fun _ _ _ => ?_)
    | with_reducible refine foldl_kept ?_ (fun _ _ _ => ?_)
    | with_reducible apply kept_ite
    | split
    | (show _ = _; rfl)
    | (simp only [kept_mk]; with_reducible refine KeptParts.of ?_ ?_ ?_ ?_ ?_)

theorem siteEnds_kept {n code time index tset vecs : Nat} {straggler : Bool} (hk : Kept ql flo rvk stg s) : Kept ql flo rvk stg (siteEnds n code time index tset vecs straggler s) := by
  unfold siteEnds
  try dsimp only
  repeat' first
    | with_reducible assumption
    | with_reducible refine State.when_kept ?_ (fun _ _ => ?_)
    | with_reducible apply chkSiteLeaves_kept
    | with_reducible apply State.putSite_kept
    | with_reducible apply State.record_kept
    | with_reducible apply finalizeSite_kept
    | with_reducible apply kept_ite
    | split
    | (show _ = _; rfl)
    | (simp only [kept_mk]; with_reducible refine KeptParts.of ?_ ?_ ?_ ?_ ?_)

theorem defineSite_kept {n : Nat} (hk : Kept ql flo rvk stg s) : Kept ql flo rvk stg (defineSite s n) := by
  unfold defineSite
  try dsimp only
  repeat' first
    | with_reducible assumption
    | with_reducible apply State.wr_kept
    | with_reducible apply State.setBit_kept
    | with_reducible apply State.setQueue_kept
    | with_reducible apply State.putSite_kept
    | with_reducible refine foldl_kept ?_ (fun _ _ _ => ?_)
    | (show _ = _; rfl)
    | (simp only [kept_mk]; with_reducible refine KeptParts.of ?_ ?_ ?_ ?_ ?_)

theorem sharesFull_kept {k : Casting} (hk : Kept ql flo rvk stg s) : Kept ql flo rvk stg (sharesFull k s) := by
  unfold sharesFull
  try dsimp only
  repeat' first
    | with_reducible assumption
    | with_reducible apply State.setShare_kept
    | with_reducible refine each_kept ?_ (fun _ _ _ => ?_)
    | with_reducible refine foldl_kept ?_ (fun _ _ _ => ?_)
    | split
    | (show _ = _; rfl)
    | (simp only [kept_mk]; with_reducible refine KeptParts.of ?_ ?_ ?_ ?_ ?_)

theorem sharesRecast_kept {old new : List Nat} (hk : Kept ql flo rvk stg s) : Kept ql flo rvk stg (sharesRecast old new s) := by
  unfold sharesRecast
  try dsimp only
  repeat' first
    | with_reducible assumption
    | with_reducible apply State.setShare_kept
    | with_reducible apply defineSite_kept
    | with_reducible refine each_kept ?_ (fun _ _ _ => ?_)
    | with_reducible refine foldl_kept ?_ (fun _ _ _ => ?_)
    | (show _ = _; rfl)
    | (simp only [kept_mk]; with_reducible refine KeptParts.of ?_ ?_ ?_ ?_ ?_)

end Sys2Proof.Machine
end

