-- ==== Sys2Proof/Laws/Keep/ConvoyLink.lean ====
section
/-!
SUPPORT. Laws/Keep/ConvoyLink.lean: the operations of Machine/ConvoyLink.lean keep the queue, the rollback floor, the revoked keys, the stage and
the canonical form of the stored state (`Kept`).
-/

set_option linter.unusedTactic false
set_option linter.unreachableTactic false
set_option linter.unusedVariables false

namespace Sys2Proof.Machine

variable {ql : List Instr} {flo rvk : Nat} {stg : Option StageOf} {s : State}

theorem State.setPort_kept {west : Bool} {p : Port} (hk : Kept ql flo rvk stg s) : Kept ql flo rvk stg (State.setPort s west p) := by
  unfold State.setPort
  try dsimp only
  repeat' first
    | with_reducible assumption
    | with_reducible apply kept_ite
    | split
    | (show _ = _; rfl)
    | (simp only [kept_mk]; with_reducible refine KeptParts.of ?_ ?_ ?_ ?_ ?_)

theorem State.depart_kept {west : Bool} {f : List Byte} (hk : Kept ql flo rvk stg s) : Kept ql flo rvk stg (State.depart s west f) := by
  unfold State.depart
  try dsimp only
  repeat' first
    | with_reducible assumption
    | with_reducible apply State.setPort_kept
    | (show _ = _; rfl)
    | (simp only [kept_mk]; with_reducible refine KeptParts.of ?_ ?_ ?_ ?_ ?_)

theorem State.departOn_kept {west : Bool} {f : List Byte} (hk : Kept ql flo rvk stg s) : Kept ql flo rvk stg (State.departOn s west f) := by
  unfold State.departOn
  try dsimp only
  repeat' first
    | with_reducible assumption
    | with_reducible apply State.setPort_kept
    | with_reducible apply State.depart_kept
    | split
    | (show _ = _; rfl)
    | (simp only [kept_mk]; with_reducible refine KeptParts.of ?_ ?_ ?_ ?_ ?_)

theorem State.injectFrame_kept {west : Bool} {mode : Nat} {head : List Byte} (hk : Kept ql flo rvk stg s) : Kept ql flo rvk stg (State.injectFrame s west mode head) := by
  unfold State.injectFrame
  try dsimp only
  repeat' first
    | with_reducible assumption
    | with_reducible apply State.inc_kept
    | with_reducible apply State.free_kept
    | with_reducible apply State.setPort_kept
    | with_reducible apply State.departOn_kept
    | with_reducible apply kept_ite
    | split
    | (show _ = _; rfl)
    | (simp only [kept_mk]; with_reducible refine KeptParts.of ?_ ?_ ?_ ?_ ?_)

theorem State.sendOn_kept {west : Bool} {head : List Byte} (hk : Kept ql flo rvk stg s) : Kept ql flo rvk stg (State.sendOn s west head) := by
  unfold State.sendOn
  try dsimp only
  repeat' first
    | with_reducible assumption
    | with_reducible apply State.free_kept
    | with_reducible apply State.departOn_kept
    | with_reducible apply State.injectFrame_kept
    | with_reducible apply kept_ite
    | split
    | (show _ = _; rfl)
    | (simp only [kept_mk]; with_reducible refine KeptParts.of ?_ ?_ ?_ ?_ ?_)

theorem State.takeSeq_kept (h : Kept ql flo rvk stg s) : Kept ql flo rvk stg s.takeSeq.2 := kept_upd h rfl rfl rfl rfl rfl rfl rfl

theorem State.sendHop_kept {west : Bool} {type time : Nat} {payload : List Byte} (hk : Kept ql flo rvk stg s) : Kept ql flo rvk stg (State.sendHop s west type time payload) := by
  unfold State.sendHop
  try dsimp only
  repeat' first
    | with_reducible assumption
    | with_reducible apply State.sendOn_kept
    | with_reducible apply State.takeSeq_kept
    | (show _ = _; rfl)
    | (simp only [kept_mk]; with_reducible refine KeptParts.of ?_ ?_ ?_ ?_ ?_)

theorem State.flood_kept {type time : Nat} {payload : List Byte} (hk : Kept ql flo rvk stg s) : Kept ql flo rvk stg (State.flood s type time payload) := by
  unfold State.flood
  try dsimp only
  repeat' first
    | with_reducible assumption
    | with_reducible apply State.sendOn_kept
    | with_reducible apply State.takeSeq_kept
    | (show _ = _; rfl)
    | (simp only [kept_mk]; with_reducible refine KeptParts.of ?_ ?_ ?_ ?_ ?_)

theorem State.acceptFrame_kept {west : Bool} {f : List Byte} {act : State → State} (h : Kept ql flo rvk stg s)
    (ha : ∀ t, Kept ql flo rvk stg t → Kept ql flo rvk stg (act t)) : Kept ql flo rvk stg (s.acceptFrame west f act) := by
  unfold State.acceptFrame
  dsimp only
  split
  · exact h
  · apply ha
    split
    · exact State.sendOn_kept (kept_upd h rfl rfl rfl rfl rfl rfl rfl)
    · exact kept_upd h rfl rfl rfl rfl rfl rfl rfl

theorem State.frameBad_kept {west : Bool} (hk : Kept ql flo rvk stg s) : Kept ql flo rvk stg (State.frameBad s west) := by
  unfold State.frameBad
  try dsimp only
  repeat' first
    | with_reducible assumption
    | with_reducible apply State.inc_kept
    | with_reducible apply kept_ite
    | split

theorem State.convoyLog_kept {event port oldTime : Nat} (hk : Kept ql flo rvk stg s) : Kept ql flo rvk stg (State.convoyLog s event port oldTime) := by
  unfold State.convoyLog
  try dsimp only
  repeat' first
    | with_reducible assumption
    | with_reducible apply State.log_kept

end Sys2Proof.Machine
end

