-- ==== Sys2Proof/Laws/Keep/Power.lean ====
section
/-!
SUPPORT. Laws/Keep/Power.lean: the operations of Machine/Power.lean keep the queue, the rollback floor, the revoked keys, the stage and
the canonical form of the stored state (`Kept`).
-/

set_option linter.unusedTactic false
set_option linter.unreachableTactic false
set_option linter.unusedVariables false

namespace Sys2Proof.Machine

variable {ql : List Instr} {flo rvk : Nat} {stg : Option StageOf} {s : State}

theorem State.setSliceState_kept {i v : Nat} (hk : Kept ql flo rvk stg s) : Kept ql flo rvk stg (State.setSliceState s i v) := by
  unfold State.setSliceState
  try dsimp only
  repeat' first
    | with_reducible assumption
    | with_reducible apply State.setFld_kept
    | with_reducible refine each_kept ?_ (fun _ _ _ => ?_)

theorem State.rampTo_kept {i target : Nat} (hk : Kept ql flo rvk stg s) : Kept ql flo rvk stg (State.rampTo s i target) := by
  unfold State.rampTo
  try dsimp only
  repeat' first
    | with_reducible assumption
    | with_reducible apply State.setSlice_kept
    | with_reducible apply State.settingEvent_kept
    | (show _ = _; rfl)
    | (simp only [kept_mk]; with_reducible refine KeptParts.of ?_ ?_ ?_ ?_ ?_)

theorem State.clampFollow_kept {i : Nat} (hk : Kept ql flo rvk stg s) : Kept ql flo rvk stg (State.clampFollow s i) := by
  unfold State.clampFollow
  try dsimp only
  repeat' first
    | with_reducible assumption
    | with_reducible apply State.setBit_kept
    | with_reducible apply State.evt_kept
    | with_reducible apply State.setSlice_kept
    | with_reducible apply kept_ite
    | split
    | (show _ = _; rfl)
    | (simp only [kept_mk]; with_reducible refine KeptParts.of ?_ ?_ ?_ ?_ ?_)

theorem State.sliceOff_kept {i : Nat} (hk : Kept ql flo rvk stg s) : Kept ql flo rvk stg (State.sliceOff s i) := by
  unfold State.sliceOff
  try dsimp only
  repeat' first
    | with_reducible assumption
    | with_reducible apply State.setSlice_kept
    | with_reducible apply State.monRefresh_kept
    | with_reducible apply State.setSliceState_kept
    | with_reducible apply State.clampFollow_kept
    | (show _ = _; rfl)
    | (simp only [kept_mk]; with_reducible refine KeptParts.of ?_ ?_ ?_ ?_ ?_)

theorem State.refreshSlices_kept  (hk : Kept ql flo rvk stg s) : Kept ql flo rvk stg (State.refreshSlices s) := by
  unfold State.refreshSlices
  try dsimp only
  repeat' first
    | with_reducible assumption
    | with_reducible apply State.setBit_kept
    | with_reducible apply State.forceBits_kept
    | with_reducible apply State.sliceOff_kept
    | with_reducible refine each_kept ?_ (fun _ _ _ => ?_)
    | with_reducible apply kept_ite
    | split
    | (show _ = _; rfl)
    | (simp only [kept_mk]; with_reducible refine KeptParts.of ?_ ?_ ?_ ?_ ?_)

theorem State.sliceTrip_kept {i : Nat} (hk : Kept ql flo rvk stg s) : Kept ql flo rvk stg (State.sliceTrip s i) := by
  unfold State.sliceTrip
  try dsimp only
  repeat' first
    | with_reducible assumption
    | with_reducible apply State.setBit_kept
    | with_reducible apply State.evt_kept
    | with_reducible apply State.sliceOff_kept
    | with_reducible refine each_kept ?_ (fun _ _ _ => ?_)
    | with_reducible apply kept_ite
    | split
    | (show _ = _; rfl)
    | (simp only [kept_mk]; with_reducible refine KeptParts.of ?_ ?_ ?_ ?_ ?_)

theorem State.sliceClear_kept {i : Nat} (hk : Kept ql flo rvk stg s) : Kept ql flo rvk stg (State.sliceClear s i) := by
  unfold State.sliceClear
  try dsimp only
  repeat' first
    | with_reducible assumption
    | with_reducible apply State.setBit_kept
    | with_reducible apply State.setSlice_kept
    | with_reducible apply kept_ite
    | split
    | (show _ = _; rfl)
    | (simp only [kept_mk]; with_reducible refine KeptParts.of ?_ ?_ ?_ ?_ ?_)

theorem dpsCtlCommit_kept {i : Nat} (hk : Kept ql flo rvk stg s) : Kept ql flo rvk stg (dpsCtlCommit i s) := by
  unfold dpsCtlCommit
  try dsimp only
  repeat' first
    | with_reducible assumption
    | with_reducible apply State.wrN_kept
    | with_reducible apply State.forceBits_kept
    | with_reducible apply State.evt_kept
    | with_reducible apply State.refuse_kept
    | with_reducible apply State.setSlice_kept
    | with_reducible apply State.settingEvent_kept
    | with_reducible apply State.monRefresh_kept
    | with_reducible apply State.calPreempt_kept
    | with_reducible apply State.setSliceState_kept
    | with_reducible apply State.rampTo_kept
    | with_reducible refine foldl_kept ?_ (fun _ _ _ => ?_)
    | with_reducible apply kept_ite
    | split
    | (show _ = _; rfl)
    | (simp only [kept_mk]; with_reducible refine KeptParts.of ?_ ?_ ?_ ?_ ?_)

theorem dpsIlimCommit_kept {i : Nat} (hk : Kept ql flo rvk stg s) : Kept ql flo rvk stg (dpsIlimCommit i s) := by
  unfold dpsIlimCommit
  try dsimp only
  repeat' first
    | with_reducible assumption
    | with_reducible apply State.settingEvent_kept
    | with_reducible apply State.clampFollow_kept
    | with_reducible apply kept_ite
    | split

theorem dpsVsetCommit_kept {i : Nat} (hk : Kept ql flo rvk stg s) : Kept ql flo rvk stg (dpsVsetCommit i s) := by
  unfold dpsVsetCommit
  try dsimp only
  repeat' first
    | with_reducible assumption
    | with_reducible apply State.settingEvent_kept
    | with_reducible apply State.rampTo_kept
    | with_reducible apply kept_ite
    | split
    | (show _ = _; rfl)
    | (simp only [kept_mk]; with_reducible refine KeptParts.of ?_ ?_ ?_ ?_ ?_)

theorem dpsRampCommit_kept {i : Nat} (hk : Kept ql flo rvk stg s) : Kept ql flo rvk stg (dpsRampCommit i s) := by
  unfold dpsRampCommit
  try dsimp only
  repeat' first
    | with_reducible assumption
    | with_reducible apply State.setSlice_kept
    | with_reducible apply kept_ite
    | split
    | (show _ = _; rfl)
    | (simp only [kept_mk]; with_reducible refine KeptParts.of ?_ ?_ ?_ ?_ ?_)

theorem State.sliceTicks_kept  (hk : Kept ql flo rvk stg s) : Kept ql flo rvk stg (State.sliceTicks s) := by
  unfold State.sliceTicks
  try dsimp only
  repeat' first
    | with_reducible assumption
    | with_reducible apply State.setSlice_kept
    | with_reducible refine each_kept ?_ (fun _ _ _ => ?_)
    | (show _ = _; rfl)
    | (simp only [kept_mk]; with_reducible refine KeptParts.of ?_ ?_ ?_ ?_ ?_)

theorem State.powerCheck_kept {powers : List (Nat × Nat)} (h : Kept ql flo rvk stg s) : Kept ql flo rvk stg (s.powerCheck powers).1 :=
  foldl_fst_kept (State.wrN_kept h) fun _ _ hr => kept_upd hr rfl rfl rfl rfl rfl rfl rfl

theorem State.ceilings_kept {k : Casting} (hk : Kept ql flo rvk stg s) : Kept ql flo rvk stg (State.ceilings s k) := by
  unfold State.ceilings
  try dsimp only
  repeat' first
    | with_reducible assumption
    | with_reducible apply State.force_kept
    | with_reducible refine foldl_kept ?_ (fun _ _ _ => ?_)
    | (show _ = _; rfl)
    | (simp only [kept_mk]; with_reducible refine KeptParts.of ?_ ?_ ?_ ?_ ?_)

theorem measGo_kept {b : Nat} (hk : Kept ql flo rvk stg s) : Kept ql flo rvk stg (measGo b s) := by
  unfold measGo
  try dsimp only
  repeat' first
    | with_reducible assumption
    | with_reducible apply State.wrN_kept
    | with_reducible apply State.setBit_kept
    | with_reducible apply State.refuse_kept
    | with_reducible apply State.setAdc_kept
    | with_reducible apply kept_ite
    | split
    | (show _ = _; rfl)
    | (simp only [kept_mk]; with_reducible refine KeptParts.of ?_ ?_ ?_ ?_ ?_)

theorem measDone_kept {b start : Nat} {codes : List Nat} {clamp : Bool} (hk : Kept ql flo rvk stg s) : Kept ql flo rvk stg (measDone b start codes clamp s) := by
  unfold measDone
  try dsimp only
  repeat' first
    | with_reducible assumption
    | with_reducible apply State.setBit_kept
    | with_reducible apply State.inc_kept
    | with_reducible apply State.setAdc_kept
    | with_reducible apply State.pushResult_kept
    | with_reducible apply State.dropResult_kept
    | with_reducible refine foldl_kept ?_ (fun _ _ _ => ?_)
    | with_reducible apply kept_ite
    | split
    | (show _ = _; rfl)
    | (simp only [kept_mk]; with_reducible refine KeptParts.of ?_ ?_ ?_ ?_ ?_)

theorem measLatch_kept {b : Nat} (hk : Kept ql flo rvk stg s) : Kept ql flo rvk stg (measLatch b s) := by
  unfold measLatch
  try dsimp only
  repeat' first
    | with_reducible assumption
    | with_reducible apply State.latchResult_kept
    | with_reducible apply kept_ite
    | split
    | (show _ = _; rfl)
    | (simp only [kept_mk]; with_reducible refine KeptParts.of ?_ ?_ ?_ ?_ ?_)

end Sys2Proof.Machine
end

