-- ==== Sys2Proof/Laws/Keep/Trips.lean ====
section
/-!
SUPPORT. Laws/Keep/Trips.lean: the operations of Machine/Trips.lean keep the queue, the rollback floor, the revoked keys, the stage and
the canonical form of the stored state (`Kept`).
-/

set_option linter.unusedTactic false
set_option linter.unreachableTactic false
set_option linter.unusedVariables false

namespace Sys2Proof.Machine

variable {ql : List Instr} {flo rvk : Nat} {stg : Option StageOf} {s : State}

theorem State.tripReach_kept {g action : Nat} (hk : Kept ql flo rvk stg s) : Kept ql flo rvk stg (State.tripReach s g action) := by
  unfold State.tripReach
  try dsimp only
  repeat' first
    | with_reducible assumption
    | with_reducible apply State.driverTrip_kept
    | with_reducible apply awgTrip_kept
    | with_reducible apply State.refreshSlices_kept
    | with_reducible apply State.sliceTrip_kept
    | with_reducible refine each_kept ?_ (fun _ _ _ => ?_)
    | with_reducible apply kept_ite
    | split
    | (show _ = _; rfl)
    | (simp only [kept_mk]; with_reducible refine KeptParts.of ?_ ?_ ?_ ?_ ?_)

theorem State.failNotice_kept {g : Nat} (hk : Kept ql flo rvk stg s) : Kept ql flo rvk stg (State.failNotice s g) := by
  unfold State.failNotice
  try dsimp only
  repeat' first
    | with_reducible assumption
    | with_reducible apply State.flood_kept
    | (show _ = _; rfl)
    | (simp only [kept_mk]; with_reducible refine KeptParts.of ?_ ?_ ?_ ?_ ?_)

theorem State.renameFirst_kept {g cause unit : Nat} (hk : Kept ql flo rvk stg s) : Kept ql flo rvk stg (State.renameFirst s g cause unit) := by
  unfold State.renameFirst
  try dsimp only
  repeat' first
    | with_reducible assumption
    | with_reducible apply State.wrN_kept
    | with_reducible apply State.patchLog_kept
    | (show _ = _; rfl)
    | (simp only [kept_mk]; with_reducible refine KeptParts.of ?_ ?_ ?_ ?_ ?_)

theorem State.tripLeaves_kept {g : Nat} (hk : Kept ql flo rvk stg s) : Kept ql flo rvk stg (State.tripLeaves s g) := by
  unfold State.tripLeaves
  try dsimp only
  repeat' first
    | with_reducible assumption
    | with_reducible apply State.setSite_kept
    | with_reducible refine each_kept ?_ (fun _ _ _ => ?_)
    | with_reducible apply kept_ite
    | split
    | (show _ = _; rfl)
    | (simp only [kept_mk]; with_reducible refine KeptParts.of ?_ ?_ ?_ ?_ ?_)

theorem State.groupTrips_kept {g cause unit : Nat} (hk : Kept ql flo rvk stg s) : Kept ql flo rvk stg (State.groupTrips s g cause unit) := by
  unfold State.groupTrips
  try dsimp only
  repeat' first
    | with_reducible assumption
    | with_reducible apply State.wrN_kept
    | with_reducible apply State.setFld_kept
    | with_reducible apply State.setWide_kept
    | with_reducible apply State.evt_kept
    | with_reducible apply State.irqUrgent_kept
    | with_reducible apply State.logSites_kept
    | with_reducible apply State.tripReach_kept
    | with_reducible apply State.failNotice_kept
    | with_reducible apply State.tripLeaves_kept
    | with_reducible apply kept_ite
    | split
    | (show _ = _; rfl)
    | (simp only [kept_mk]; with_reducible refine KeptParts.of ?_ ?_ ?_ ?_ ?_)

theorem State.clearUndone_kept {g cause : Nat} {x : ClearNote} (hk : Kept ql flo rvk stg s) : Kept ql flo rvk stg (State.clearUndone s g cause x) := by
  unfold State.clearUndone
  try dsimp only
  repeat' first
    | with_reducible assumption
    | with_reducible apply State.wrN_kept
    | with_reducible apply State.setFld_kept
    | with_reducible apply State.setBit_kept
    | with_reducible apply State.evt_kept
    | with_reducible apply State.inc_kept
    | with_reducible apply State.patchLog_kept
    | with_reducible apply State.driverOff_kept
    | with_reducible apply State.refreshSlices_kept
    | with_reducible refine each_kept ?_ (fun _ _ _ => ?_)
    | with_reducible apply kept_ite
    | split
    | (show _ = _; rfl)
    | (simp only [kept_mk]; with_reducible refine KeptParts.of ?_ ?_ ?_ ?_ ?_)

theorem State.groupTrip_kept {g cause unit : Nat} (hk : Kept ql flo rvk stg s) : Kept ql flo rvk stg (State.groupTrip s g cause unit) := by
  unfold State.groupTrip
  try dsimp only
  repeat' first
    | with_reducible assumption
    | with_reducible apply State.setFld_kept
    | with_reducible apply State.inc_kept
    | with_reducible apply State.renameFirst_kept
    | with_reducible apply State.groupTrips_kept
    | with_reducible apply State.clearUndone_kept
    | with_reducible apply kept_ite
    | split
    | (show _ = _; rfl)
    | (simp only [kept_mk]; with_reducible refine KeptParts.of ?_ ?_ ?_ ?_ ?_)

theorem State.tripDisable_kept  (hk : Kept ql flo rvk stg s) : Kept ql flo rvk stg (State.tripDisable s) := by
  unfold State.tripDisable
  try dsimp only
  repeat' first
    | with_reducible assumption
    | with_reducible apply State.disableNow_kept
    | with_reducible refine each_kept ?_ (fun _ _ _ => ?_)
    | (show _ = _; rfl)
    | (simp only [kept_mk]; with_reducible refine KeptParts.of ?_ ?_ ?_ ?_ ?_)

theorem monitorDecides_kept {b : Nat} (hk : Kept ql flo rvk stg s) : Kept ql flo rvk stg (monitorDecides b s) := by
  unfold monitorDecides
  try dsimp only
  repeat' first
    | with_reducible assumption
    | with_reducible apply State.setFld_kept
    | with_reducible apply State.setWide_kept
    | with_reducible apply State.evt_kept
    | with_reducible apply State.inc_kept
    | with_reducible apply State.setMon_kept
    | with_reducible apply State.groupTrip_kept
    | with_reducible refine each_kept ?_ (fun _ _ _ => ?_)
    | with_reducible apply kept_ite
    | split
    | (show _ = _; rfl)
    | (simp only [kept_mk]; with_reducible refine KeptParts.of ?_ ?_ ?_ ?_ ?_)

theorem monitorTrip_kept {b v : Nat} (hk : Kept ql flo rvk stg s) : Kept ql flo rvk stg (monitorTrip b v s) := by
  unfold monitorTrip
  try dsimp only
  repeat' first
    | with_reducible assumption
    | with_reducible apply monitorDecides_kept
    | with_reducible apply kept_ite
    | split
    | (show _ = _; rfl)
    | (simp only [kept_mk]; with_reducible refine KeptParts.of ?_ ?_ ?_ ?_ ?_)

theorem blankClose_kept {b v : Nat} (hk : Kept ql flo rvk stg s) : Kept ql flo rvk stg (blankClose b v s) := by
  unfold blankClose
  try dsimp only
  repeat' first
    | with_reducible assumption
    | with_reducible apply State.setBit_kept
    | with_reducible refine State.atDue_kept ?_ (fun _ _ => ?_)
    | with_reducible apply State.setMon_kept
    | with_reducible apply monitorDecides_kept
    | with_reducible apply kept_ite
    | split
    | (show _ = _; rfl)
    | (simp only [kept_mk]; with_reducible refine KeptParts.of ?_ ?_ ?_ ?_ ?_)

theorem groupClear_kept {g : Nat} (hk : Kept ql flo rvk stg s) : Kept ql flo rvk stg (groupClear g s) := by
  unfold groupClear
  try dsimp only
  repeat' first
    | with_reducible assumption
    | with_reducible apply State.arrive_kept
    | with_reducible apply kept_ite
    | split

theorem clearAtTick_kept {g : Nat} (hk : Kept ql flo rvk stg s) : Kept ql flo rvk stg (clearAtTick g s) := by
  unfold clearAtTick
  try dsimp only
  repeat' first
    | with_reducible assumption
    | with_reducible apply State.wrN_kept
    | with_reducible apply State.setFld_kept
    | with_reducible apply State.evt_kept
    | with_reducible apply State.log_kept
    | with_reducible apply State.driverClear_kept
    | with_reducible apply State.refreshSlices_kept
    | with_reducible apply State.sliceClear_kept
    | with_reducible apply State.cleared_kept
    | with_reducible refine each_kept ?_ (fun _ _ _ => ?_)
    | with_reducible apply kept_ite
    | split
    | (show _ = _; rfl)
    | (simp only [kept_mk]; with_reducible refine KeptParts.of ?_ ?_ ?_ ?_ ?_)

theorem State.groupsCast_kept  (hk : Kept ql flo rvk stg s) : Kept ql flo rvk stg (State.groupsCast s) := by
  unfold State.groupsCast
  try dsimp only
  repeat' first
    | with_reducible assumption
    | with_reducible apply State.setFld_kept
    | with_reducible apply State.setBit_kept
    | with_reducible refine each_kept ?_ (fun _ _ _ => ?_)
    | (show _ = _; rfl)
    | (simp only [kept_mk]; with_reducible refine KeptParts.of ?_ ?_ ?_ ?_ ?_)

end Sys2Proof.Machine
end

