-- ==== Sys2Proof/Laws/Keep/Calib.lean ====
section
/-!
SUPPORT. Laws/Keep/Calib.lean: the operations of Machine/Calib.lean keep the queue, the rollback floor, the revoked keys, the stage and
the canonical form of the stored state (`Kept`).
-/

set_option linter.unusedTactic false
set_option linter.unreachableTactic false
set_option linter.unusedVariables false

namespace Sys2Proof.Machine

variable {ql : List Instr} {flo rvk : Nat} {stg : Option StageOf} {s : State}

theorem lvlTableWrite_kept {ch v : Nat} (hk : Kept ql flo rvk stg s) : Kept ql flo rvk stg (lvlTableWrite ch v s) := by
  unfold lvlTableWrite
  try dsimp only
  repeat' first
    | with_reducible assumption
    | with_reducible apply State.setFld_kept
    | with_reducible apply kept_ite
    | split
    | (show _ = _; rfl)
    | (simp only [kept_mk]; with_reducible refine KeptParts.of ?_ ?_ ?_ ?_ ?_)

theorem lvlTableRead_kept {ch : Nat} (h : Kept ql flo rvk stg s) : Kept ql flo rvk stg (lvlTableRead ch s).2 := State.setFld_kept h

theorem lvlTswap_kept {ch : Nat} (hk : Kept ql flo rvk stg s) : Kept ql flo rvk stg (lvlTswap ch s) := by
  unfold lvlTswap
  try dsimp only
  repeat' first
    | with_reducible assumption
    | with_reducible apply State.wrN_kept
    | with_reducible apply State.setBit_kept
    | with_reducible apply State.evt_kept
    | with_reducible apply State.arrive_kept
    | with_reducible apply kept_ite
    | split
    | (show _ = _; rfl)
    | (simp only [kept_mk]; with_reducible refine KeptParts.of ?_ ?_ ?_ ?_ ?_)

theorem lvlInstall_kept {ch : Nat} {t : Tab Nat} (hk : Kept ql flo rvk stg s) : Kept ql flo rvk stg (lvlInstall ch t s) := by
  unfold lvlInstall
  try dsimp only
  repeat' first
    | with_reducible assumption
    | with_reducible apply State.wrN_kept
    | with_reducible apply State.loadLevels_kept
    | (show _ = _; rfl)
    | (simp only [kept_mk]; with_reducible refine KeptParts.of ?_ ?_ ?_ ?_ ?_)

theorem lvlSwapIn_kept {ch : Nat} (hk : Kept ql flo rvk stg s) : Kept ql flo rvk stg (lvlSwapIn ch s) := by
  unfold lvlSwapIn
  try dsimp only
  repeat' first
    | with_reducible assumption
    | with_reducible apply lvlInstall_kept

theorem calGoRefused_kept {code : Nat} (hk : Kept ql flo rvk stg s) : Kept ql flo rvk stg (calGoRefused code s) := by
  unfold calGoRefused
  try dsimp only
  repeat' first
    | with_reducible assumption
    | with_reducible apply State.wrN_kept
    | with_reducible apply State.evt_kept
    | with_reducible apply State.refuse_kept

theorem calBegin_kept {x : Nat} {f : CalJob → CalJob} (hk : Kept ql flo rvk stg s) : Kept ql flo rvk stg (calBegin x f s) := by
  unfold calBegin
  try dsimp only
  repeat' first
    | with_reducible assumption
    | with_reducible apply State.setBit_kept
    | with_reducible apply State.setCalJob_kept
    | split
    | (show _ = _; rfl)
    | (simp only [kept_mk]; with_reducible refine KeptParts.of ?_ ?_ ?_ ?_ ?_)

theorem unitTurn_kept {x : Nat} (hk : Kept ql flo rvk stg s) : Kept ql flo rvk stg (unitTurn x s) := by
  unfold unitTurn
  try dsimp only
  repeat' first
    | with_reducible assumption
    | with_reducible apply State.calEnd_kept
    | with_reducible apply calBegin_kept
    | with_reducible apply kept_ite
    | split
    | (show _ = _; rfl)
    | (simp only [kept_mk]; with_reducible refine KeptParts.of ?_ ?_ ?_ ?_ ?_)

theorem tdcTurn_kept {ch : Nat} (hk : Kept ql flo rvk stg s) : Kept ql flo rvk stg (tdcTurn ch s) := by
  unfold tdcTurn
  try dsimp only
  repeat' first
    | with_reducible assumption
    | with_reducible apply State.calEnd_kept
    | with_reducible apply cdGo_kept
    | with_reducible apply calBegin_kept
    | with_reducible apply kept_ite
    | split
    | (show _ = _; rfl)
    | (simp only [kept_mk]; with_reducible refine KeptParts.of ?_ ?_ ?_ ?_ ?_)

theorem calGo_kept {zeners : List Nat} (hk : Kept ql flo rvk stg s) : Kept ql flo rvk stg (calGo zeners s) := by
  unfold calGo
  try dsimp only
  repeat' first
    | with_reducible assumption
    | with_reducible apply State.wrN_kept
    | with_reducible apply State.evt_kept
    | with_reducible apply State.free_kept
    | with_reducible apply State.setAdc_kept
    | with_reducible apply State.calEnd_kept
    | with_reducible apply calGoRefused_kept
    | with_reducible apply unitTurn_kept
    | with_reducible apply tdcTurn_kept
    | with_reducible refine each_kept ?_ (fun _ _ _ => ?_)
    | with_reducible refine foldl_kept ?_ (fun _ _ _ => ?_)
    | with_reducible apply kept_ite
    | split
    | (show _ = _; rfl)
    | (simp only [kept_mk]; with_reducible refine KeptParts.of ?_ ?_ ?_ ?_ ?_)

theorem calHandback_kept {ch : Nat} (hk : Kept ql flo rvk stg s) : Kept ql flo rvk stg (calHandback ch s) := by
  unfold calHandback
  try dsimp only
  repeat' first
    | with_reducible assumption
    | with_reducible apply State.handback_kept
    | (show _ = _; rfl)
    | (simp only [kept_mk]; with_reducible refine KeptParts.of ?_ ?_ ?_ ?_ ?_)

theorem calEndAll_kept {code : Nat} (hk : Kept ql flo rvk stg s) : Kept ql flo rvk stg (calEndAll code s) := by
  unfold calEndAll
  try dsimp only
  repeat' first
    | with_reducible assumption
    | with_reducible apply State.calEnd_kept
    | with_reducible apply cdAbort_kept
    | with_reducible apply calHandback_kept
    | with_reducible refine each_kept ?_ (fun _ _ _ => ?_)
    | with_reducible apply kept_ite
    | split
    | (show _ = _; rfl)
    | (simp only [kept_mk]; with_reducible refine KeptParts.of ?_ ?_ ?_ ?_ ?_)

theorem calAbort_kept  (hk : Kept ql flo rvk stg s) : Kept ql flo rvk stg (calAbort s) := by
  unfold calAbort
  try dsimp only
  repeat' first
    | with_reducible assumption
    | with_reducible apply calEndAll_kept
    | (show _ = _; rfl)
    | (simp only [kept_mk]; with_reducible refine KeptParts.of ?_ ?_ ?_ ?_ ?_)

theorem stepsBegin_kept {ch : Nat} (hk : Kept ql flo rvk stg s) : Kept ql flo rvk stg (stepsBegin ch s) := by
  unfold stepsBegin
  try dsimp only
  repeat' first
    | with_reducible assumption
    | with_reducible apply State.wrN_kept
    | with_reducible apply State.setCalJob_kept
    | with_reducible apply State.setTdcState_kept
    | with_reducible apply cdBegin_kept
    | with_reducible apply kept_ite
    | split
    | (show _ = _; rfl)
    | (simp only [kept_mk]; with_reducible refine KeptParts.of ?_ ?_ ?_ ?_ ?_)

theorem channelEnd_kept {ch outcome code : Nat} (hk : Kept ql flo rvk stg s) : Kept ql flo rvk stg (channelEnd ch outcome code s) := by
  unfold channelEnd
  try dsimp only
  repeat' first
    | with_reducible assumption
    | with_reducible apply State.calEnd_kept
    | with_reducible apply cdAbort_kept
    | with_reducible apply kept_ite
    | split

theorem channelTurn_kept {ch : Nat} (hk : Kept ql flo rvk stg s) : Kept ql flo rvk stg (channelTurn ch s) := by
  unfold channelTurn
  try dsimp only
  repeat' first
    | with_reducible assumption
    | with_reducible apply State.arrive_kept
    | with_reducible apply State.takeover_kept
    | with_reducible apply State.calEnd_kept
    | with_reducible apply calBegin_kept
    | with_reducible apply stepsBegin_kept
    | with_reducible apply kept_ite
    | split
    | (show _ = _; rfl)
    | (simp only [kept_mk]; with_reducible refine KeptParts.of ?_ ?_ ?_ ?_ ?_)

theorem laneTurns_kept {n lane : Nat} (h : Kept ql flo rvk stg s) : Kept ql flo rvk stg (laneTurns n lane s) := by
  induction n generalizing s with
  | zero => exact h
  | succ n ih =>
    unfold laneTurns
    dsimp only
    repeat' first
      | with_reducible assumption
      | with_reducible apply ih
      | with_reducible apply channelTurn_kept
      | split

theorem sliceTurns_kept {n k : Nat} (h : Kept ql flo rvk stg s) : Kept ql flo rvk stg (sliceTurns n k s) := by
  induction n generalizing s with
  | zero => exact h
  | succ n ih =>
    unfold sliceTurns
    dsimp only
    repeat' first
      | with_reducible assumption
      | with_reducible apply ih
      | with_reducible apply unitTurn_kept
      | split

theorem tdcJobLost_kept {x : Nat} (hk : Kept ql flo rvk stg s) : Kept ql flo rvk stg (tdcJobLost x s) := by
  unfold tdcJobLost
  try dsimp only
  repeat' first
    | with_reducible assumption
    | with_reducible apply State.calEnd_kept
    | with_reducible apply kept_ite
    | split

theorem State.calTurns_kept  (hk : Kept ql flo rvk stg s) : Kept ql flo rvk stg (State.calTurns s) := by
  unfold State.calTurns
  try dsimp only
  repeat' first
    | with_reducible assumption
    | with_reducible apply laneTurns_kept
    | with_reducible apply sliceTurns_kept
    | with_reducible apply tdcJobLost_kept
    | with_reducible refine each_kept ?_ (fun _ _ _ => ?_)
    | with_reducible apply kept_ite
    | split
    | (show _ = _; rfl)
    | (simp only [kept_mk]; with_reducible refine KeptParts.of ?_ ?_ ?_ ?_ ?_)

theorem takeoverTick_kept {ch : Nat} (hk : Kept ql flo rvk stg s) : Kept ql flo rvk stg (takeoverTick ch s) := by
  unfold takeoverTick
  try dsimp only
  repeat' first
    | with_reducible assumption
    | with_reducible apply State.takeover_kept
    | with_reducible apply State.setCalJob_kept
    | with_reducible apply stepsBegin_kept
    | with_reducible apply kept_ite
    | split
    | (show _ = _; rfl)
    | (simp only [kept_mk]; with_reducible refine KeptParts.of ?_ ?_ ?_ ?_ ?_)

theorem takeoverDone_kept {ch : Nat} (hk : Kept ql flo rvk stg s) : Kept ql flo rvk stg (takeoverDone ch s) := by
  unfold takeoverDone
  try dsimp only
  repeat' first
    | with_reducible assumption
    | with_reducible apply State.takeoverOpen_kept
    | with_reducible apply stepsBegin_kept
    | with_reducible apply kept_ite
    | split
    | (show _ = _; rfl)
    | (simp only [kept_mk]; with_reducible refine KeptParts.of ?_ ?_ ?_ ?_ ?_)

theorem channelFailed_kept {j : CalJob} (hk : Kept ql flo rvk stg s) : Kept ql flo rvk stg (channelFailed j s) := by
  unfold channelFailed
  try dsimp only
  repeat' first
    | with_reducible assumption
    | with_reducible apply State.setBit_kept
    | with_reducible apply State.calEnd_kept
    | with_reducible apply calHandback_kept
    | with_reducible apply kept_ite
    | split
    | (show _ = _; rfl)
    | (simp only [kept_mk]; with_reducible refine KeptParts.of ?_ ?_ ?_ ?_ ?_)

theorem calJudged_kept {ch : Nat} {hits : List Nat} {j : CalJob} (hk : Kept ql flo rvk stg s) : Kept ql flo rvk stg (calJudged ch hits j s) := by
  unfold calJudged
  try dsimp only
  repeat' first
    | with_reducible assumption
    | with_reducible apply State.arrive_kept
    | with_reducible apply State.handback_kept
    | with_reducible apply State.setCalJob_kept
    | with_reducible apply cdComplete_kept
    | with_reducible apply channelFailed_kept
    | with_reducible refine foldl_kept ?_ (fun _ _ _ => ?_)
    | with_reducible apply kept_ite
    | split
    | (show _ = _; rfl)
    | (simp only [kept_mk]; with_reducible refine KeptParts.of ?_ ?_ ?_ ?_ ?_)

theorem calStepDone_kept {ch : Nat} {trims : List Nat} (hk : Kept ql flo rvk stg s) : Kept ql flo rvk stg (calStepDone ch trims s) := by
  unfold calStepDone
  try dsimp only
  repeat' first
    | with_reducible assumption
    | with_reducible apply State.setCalJob_kept
    | with_reducible apply calJudged_kept
    | with_reducible apply kept_ite
    | split
    | (show _ = _; rfl)
    | (simp only [kept_mk]; with_reducible refine KeptParts.of ?_ ?_ ?_ ?_ ?_)

theorem ofsInstall_kept {ch hi lo : Nat} (hk : Kept ql flo rvk stg s) : Kept ql flo rvk stg (ofsInstall ch hi lo s) := by
  unfold ofsInstall
  try dsimp only
  repeat' first
    | with_reducible assumption
    | with_reducible apply State.force_kept

theorem channelInstall_kept {j : CalJob} (hk : Kept ql flo rvk stg s) : Kept ql flo rvk stg (channelInstall j s) := by
  unfold channelInstall
  try dsimp only
  repeat' first
    | with_reducible assumption
    | with_reducible apply State.setFld_kept
    | with_reducible apply State.setTdc_kept
    | with_reducible apply tdcSwapIn_kept
    | with_reducible apply swapFrozen_kept
    | with_reducible apply lvlInstall_kept
    | with_reducible apply ofsInstall_kept
    | with_reducible apply kept_ite
    | split
    | (show _ = _; rfl)
    | (simp only [kept_mk]; with_reducible refine KeptParts.of ?_ ?_ ?_ ?_ ?_)

theorem tdcSwapTick_kept {ch : Nat} (hk : Kept ql flo rvk stg s) : Kept ql flo rvk stg (tdcSwapTick ch s) := by
  unfold tdcSwapTick
  try dsimp only
  repeat' first
    | with_reducible assumption
    | with_reducible apply State.calEnd_kept
    | with_reducible apply State.calInstalled_kept
    | with_reducible apply tdcSwapIn_kept
    | with_reducible apply ofsInstall_kept
    | with_reducible apply kept_ite
    | split
    | (show _ = _; rfl)
    | (simp only [kept_mk]; with_reducible refine KeptParts.of ?_ ?_ ?_ ?_ ?_)

theorem handbackTick_kept {x : Nat} (hk : Kept ql flo rvk stg s) : Kept ql flo rvk stg (handbackTick x s) := by
  unfold handbackTick
  try dsimp only
  repeat' first
    | with_reducible assumption
    | with_reducible apply State.handback_kept
    | with_reducible apply State.calEnd_kept
    | with_reducible apply State.calInstalled_kept
    | with_reducible apply channelInstall_kept
    | with_reducible apply kept_ite
    | split
    | (show _ = _; rfl)
    | (simp only [kept_mk]; with_reducible refine KeptParts.of ?_ ?_ ?_ ?_ ?_)

theorem State.calMoves_kept  (hk : Kept ql flo rvk stg s) : Kept ql flo rvk stg (State.calMoves s) := by
  unfold State.calMoves
  try dsimp only
  repeat' first
    | with_reducible assumption
    | with_reducible apply State.setBit_kept
    | with_reducible apply State.takeover_kept
    | with_reducible apply State.handback_kept
    | with_reducible refine each_kept ?_ (fun _ _ _ => ?_)
    | with_reducible apply kept_ite
    | split
    | (show _ = _; rfl)
    | (simp only [kept_mk]; with_reducible refine KeptParts.of ?_ ?_ ?_ ?_ ?_)

theorem State.calBeforePins_kept  (hk : Kept ql flo rvk stg s) : Kept ql flo rvk stg (State.calBeforePins s) := by
  unfold State.calBeforePins
  try dsimp only
  repeat' first
    | with_reducible assumption
    | with_reducible apply State.takeover_kept
    | with_reducible apply State.setCalJob_kept
    | with_reducible apply State.setTdcState_kept
    | with_reducible apply channelEnd_kept
    | with_reducible refine foldl_kept ?_ (fun _ _ _ => ?_)
    | with_reducible apply kept_ite
    | split
    | (show _ = _; rfl)
    | (simp only [kept_mk]; with_reducible refine KeptParts.of ?_ ?_ ?_ ?_ ?_)

theorem calRelease_kept {ch : Nat} (hk : Kept ql flo rvk stg s) : Kept ql flo rvk stg (calRelease ch s) := by
  unfold calRelease
  try dsimp only
  repeat' first
    | with_reducible assumption
    | with_reducible apply State.setBit_kept
    | with_reducible apply State.handback_kept
    | with_reducible apply kept_ite
    | split

theorem unitCalDone_kept {x : Nat} {pass : Bool} {trims : List Byte} (hk : Kept ql flo rvk stg s) : Kept ql flo rvk stg (unitCalDone x pass trims s) := by
  unfold unitCalDone
  try dsimp only
  repeat' first
    | with_reducible assumption
    | with_reducible apply State.arrive_kept
    | with_reducible apply State.handback_kept
    | with_reducible apply State.setCalJob_kept
    | with_reducible apply State.calEnd_kept
    | with_reducible apply kept_ite
    | split
    | (show _ = _; rfl)
    | (simp only [kept_mk]; with_reducible refine KeptParts.of ?_ ?_ ?_ ?_ ?_)

theorem State.recordInstall_kept {x count tref : Nat} {trims : List Byte} (hk : Kept ql flo rvk stg s) : Kept ql flo rvk stg (State.recordInstall s x count tref trims) := by
  unfold State.recordInstall
  try dsimp only
  repeat' first
    | with_reducible assumption
    | with_reducible apply State.wrN_kept
    | with_reducible apply State.setBit_kept
    | with_reducible apply State.setWide_kept
    | with_reducible apply State.setTdc_kept
    | with_reducible apply ofsInstall_kept
    | with_reducible apply kept_ite
    | split
    | (show _ = _; rfl)
    | (simp only [kept_mk]; with_reducible refine KeptParts.of ?_ ?_ ?_ ?_ ?_)

theorem State.recordEntries_kept {n : Nat} {l : List Byte} (h : Kept ql flo rvk stg s) : Kept ql flo rvk stg (s.recordEntries n l) := by
  induction n generalizing s l with
  | zero => exact h
  | succ n ih =>
    unfold State.recordEntries
    dsimp only
    apply ih
    split
    · exact State.recordInstall_kept h
    · exact h

theorem State.recordLoad_kept  (hk : Kept ql flo rvk stg s) : Kept ql flo rvk stg (State.recordLoad s) := by
  unfold State.recordLoad
  try dsimp only
  repeat' first
    | with_reducible assumption
    | with_reducible apply State.evt_kept
    | with_reducible apply State.recordEntries_kept
    | with_reducible apply kept_ite
    | split
    | (show _ = _; rfl)
    | (simp only [kept_mk]; with_reducible refine KeptParts.of ?_ ?_ ?_ ?_ ?_)

theorem subRefuse_kept {awg : Bool} {q : Nat} {keep : Bool} {code : Nat} (hk : Kept ql flo rvk stg s) : Kept ql flo rvk stg (subRefuse awg q keep code s) := by
  unfold subRefuse
  try dsimp only
  repeat' first
    | with_reducible assumption
    | with_reducible apply State.forceBits_kept
    | with_reducible apply State.calRefuse_kept
    | with_reducible apply kept_ite
    | split

theorem subEnable_kept {awg : Bool} {q : Nat} (hk : Kept ql flo rvk stg s) : Kept ql flo rvk stg (subEnable awg q s) := by
  unfold subEnable
  try dsimp only
  repeat' first
    | with_reducible assumption
    | with_reducible apply State.setBit_kept
    | with_reducible apply subRefuse_kept
    | with_reducible apply kept_ite
    | split
    | (show _ = _; rfl)
    | (simp only [kept_mk]; with_reducible refine KeptParts.of ?_ ?_ ?_ ?_ ?_)

theorem subDisable_kept {awg : Bool} {q : Nat} (hk : Kept ql flo rvk stg s) : Kept ql flo rvk stg (subDisable awg q s) := by
  unfold subDisable
  try dsimp only
  repeat' first
    | with_reducible assumption
    | with_reducible apply State.setBit_kept
    | with_reducible apply acqInCommit_kept
    | with_reducible apply subRefuse_kept
    | with_reducible apply kept_ite
    | split
    | (show _ = _; rfl)
    | (simp only [kept_mk]; with_reducible refine KeptParts.of ?_ ?_ ?_ ?_ ?_)

theorem subCommit_kept {awg : Bool} {q : Nat} {old : Word} (hk : Kept ql flo rvk stg s) : Kept ql flo rvk stg (subCommit awg q old s) := by
  unfold subCommit
  try dsimp only
  repeat' first
    | with_reducible assumption
    | with_reducible apply State.forceBits_kept
    | with_reducible apply subEnable_kept
    | with_reducible apply subDisable_kept
    | with_reducible apply kept_ite
    | split
    | (show _ = _; rfl)
    | (simp only [kept_mk]; with_reducible refine KeptParts.of ?_ ?_ ?_ ?_ ?_)

theorem spareCopyDone_kept {awg : Bool} {q : Nat} (hk : Kept ql flo rvk stg s) : Kept ql flo rvk stg (spareCopyDone awg q s) := by
  unfold spareCopyDone
  try dsimp only
  repeat' first
    | with_reducible assumption
    | with_reducible apply kept_ite
    | split
    | (show _ = _; rfl)
    | (simp only [kept_mk]; with_reducible refine KeptParts.of ?_ ?_ ?_ ?_ ?_)

theorem spareCopies_kept {q u : Nat} (hk : Kept ql flo rvk stg s) : Kept ql flo rvk stg (spareCopies q u s) := by
  unfold spareCopies
  try dsimp only
  repeat' first
    | with_reducible assumption
    | with_reducible apply State.wr_kept
    | with_reducible apply State.setWfs_kept
    | with_reducible refine each_kept ?_ (fun _ _ _ => ?_)
    | (show _ = _; rfl)
    | (simp only [kept_mk]; with_reducible refine KeptParts.of ?_ ?_ ?_ ?_ ?_)

theorem State.subMoves_kept  (hk : Kept ql flo rvk stg s) : Kept ql flo rvk stg (State.subMoves s) := by
  unfold State.subMoves
  try dsimp only
  repeat' first
    | with_reducible assumption
    | with_reducible apply State.setBit_kept
    | with_reducible apply awgOutCommit_kept
    | with_reducible apply spareCopies_kept
    | with_reducible refine each_kept ?_ (fun _ _ _ => ?_)
    | with_reducible apply kept_ite
    | split
    | (show _ = _; rfl)
    | (simp only [kept_mk]; with_reducible refine KeptParts.of ?_ ?_ ?_ ?_ ?_)

theorem State.setIsoStat_kept {k v : Nat} (hk : Kept ql flo rvk stg s) : Kept ql flo rvk stg (State.setIsoStat s k v) := by
  unfold State.setIsoStat
  try dsimp only
  repeat' first
    | with_reducible assumption
    | with_reducible apply State.setFld_kept

theorem isoSet_kept {k : Nat} (hk : Kept ql flo rvk stg s) : Kept ql flo rvk stg (isoSet k s) := by
  unfold isoSet
  try dsimp only
  repeat' first
    | with_reducible assumption
    | with_reducible apply State.forceBits_kept
    | with_reducible apply State.setCtx_kept
    | with_reducible apply State.refreshPins_kept
    | with_reducible apply State.calRefuse_kept
    | with_reducible apply State.setIsoStat_kept
    | with_reducible refine each_kept ?_ (fun _ _ _ => ?_)
    | with_reducible apply kept_ite
    | split
    | (show _ = _; rfl)
    | (simp only [kept_mk]; with_reducible refine KeptParts.of ?_ ?_ ?_ ?_ ?_)

theorem isoResult_kept {k : Nat} {fail : Bool} (hk : Kept ql flo rvk stg s) : Kept ql flo rvk stg (isoResult k fail s) := by
  unfold isoResult
  try dsimp only
  repeat' first
    | with_reducible assumption
    | with_reducible apply State.evt_kept
    | with_reducible apply State.setIsoStat_kept
    | with_reducible apply kept_ite
    | split

theorem selftestDone_kept {k : Nat} {core : Bool} {failed : List Nat} (hk : Kept ql flo rvk stg s) : Kept ql flo rvk stg (selftestDone k core failed s) := by
  unfold selftestDone
  try dsimp only
  repeat' first
    | with_reducible assumption
    | with_reducible apply State.setBit_kept
    | with_reducible apply isoResult_kept
    | with_reducible refine each_kept ?_ (fun _ _ _ => ?_)
    | with_reducible apply kept_ite
    | split
    | (show _ = _; rfl)
    | (simp only [kept_mk]; with_reducible refine KeptParts.of ?_ ?_ ?_ ?_ ?_)

theorem isoRelease_kept {k : Nat} (hk : Kept ql flo rvk stg s) : Kept ql flo rvk stg (isoRelease k s) := by
  unfold isoRelease
  try dsimp only
  repeat' first
    | with_reducible assumption
    | with_reducible apply State.forceBits_kept
    | with_reducible apply State.calRefuse_kept
    | with_reducible apply isoResult_kept
    | with_reducible apply kept_ite
    | split
    | (show _ = _; rfl)
    | (simp only [kept_mk]; with_reducible refine KeptParts.of ?_ ?_ ?_ ?_ ?_)

theorem isoCommit_kept {old : Word} (hk : Kept ql flo rvk stg s) : Kept ql flo rvk stg (isoCommit old s) := by
  unfold isoCommit
  try dsimp only
  repeat' first
    | with_reducible assumption
    | with_reducible apply isoSet_kept
    | with_reducible apply isoRelease_kept
    | with_reducible refine each_kept ?_ (fun _ _ _ => ?_)
    | with_reducible apply kept_ite
    | split
    | (show _ = _; rfl)
    | (simp only [kept_mk]; with_reducible refine KeptParts.of ?_ ?_ ?_ ?_ ?_)

theorem droverReloaded_kept {k : Nat} (hk : Kept ql flo rvk stg s) : Kept ql flo rvk stg (droverReloaded k s) := by
  unfold droverReloaded
  try dsimp only
  repeat' first
    | with_reducible assumption
    | with_reducible apply kept_ite
    | split
    | (show _ = _; rfl)
    | (simp only [kept_mk]; with_reducible refine KeptParts.of ?_ ?_ ?_ ?_ ?_)

theorem State.isoReleases_kept  (hk : Kept ql flo rvk stg s) : Kept ql flo rvk stg (State.isoReleases s) := by
  unfold State.isoReleases
  try dsimp only
  repeat' first
    | with_reducible assumption
    | with_reducible apply State.setBit_kept
    | with_reducible apply State.takeover_kept
    | with_reducible refine each_kept ?_ (fun _ _ _ => ?_)
    | with_reducible apply kept_ite
    | split
    | (show _ = _; rfl)
    | (simp only [kept_mk]; with_reducible refine KeptParts.of ?_ ?_ ?_ ?_ ?_)

end Sys2Proof.Machine
end

