-- ==== Sys2Proof/Laws/Keep/Lifecycle.lean ====
section
/-!
SUPPORT. Laws/Keep/Lifecycle.lean: the operations of Machine/Lifecycle.lean keep the queue, the rollback floor, the revoked keys, the stage and
the canonical form of the stored state (`Kept`).
-/

set_option linter.unusedTactic false
set_option linter.unreachableTactic false
set_option linter.unusedVariables false

namespace Sys2Proof.Machine

variable {ql : List Instr} {flo rvk : Nat} {stg : Option StageOf} {s : State}

theorem State.runShow_kept {c : Nat} (hk : Kept ql flo rvk stg s) : Kept ql flo rvk stg (State.runShow s c) := by
  unfold State.runShow
  try dsimp only
  repeat' first
    | with_reducible assumption
    | with_reducible apply State.wrN_kept
    | (show _ = _; rfl)
    | (simp only [kept_mk]; with_reducible refine KeptParts.of ?_ ?_ ?_ ?_ ?_)

theorem State.putCtx_kept {c : Nat} {x : Ctx} (hk : Kept ql flo rvk stg s) : Kept ql flo rvk stg (State.putCtx s c x) := by
  unfold State.putCtx
  try dsimp only
  repeat' first
    | with_reducible assumption
    | with_reducible apply State.setCtx_kept
    | with_reducible apply State.runShow_kept

theorem State.setSiteStat_kept {n st c : Nat} (hk : Kept ql flo rvk stg s) : Kept ql flo rvk stg (State.setSiteStat s n st c) := by
  unfold State.setSiteStat
  try dsimp only
  repeat' first
    | with_reducible assumption
    | with_reducible apply State.wrN_kept

theorem parkSite_kept {n : Nat} (hk : Kept ql flo rvk stg s) : Kept ql flo rvk stg (parkSite s n) := by
  unfold parkSite
  try dsimp only
  repeat' first
    | with_reducible assumption
    | with_reducible apply State.applyPark_kept
    | with_reducible refine foldl_kept ?_ (fun _ _ _ => ?_)
    | with_reducible apply kept_ite
    | split

theorem parkCtx_kept {c : Nat} (hk : Kept ql flo rvk stg s) : Kept ql flo rvk stg (parkCtx c s) := by
  unfold parkCtx
  try dsimp only
  repeat' first
    | with_reducible assumption
    | with_reducible apply State.applyPark_kept
    | with_reducible refine foldl_kept ?_ (fun _ _ _ => ?_)
    | with_reducible apply kept_ite
    | split

theorem freeCtx_kept {d : Nat} (hk : Kept ql flo rvk stg s) : Kept ql flo rvk stg (freeCtx d s) := by
  unfold freeCtx
  try dsimp only
  repeat' first
    | with_reducible assumption
    | with_reducible apply State.wrN_kept
    | with_reducible apply State.setFld_kept
    | with_reducible apply State.setCtx_kept
    | with_reducible apply State.runShow_kept
    | with_reducible apply kept_ite
    | split
    | (show _ = _; rfl)
    | (simp only [kept_mk]; with_reducible refine KeptParts.of ?_ ?_ ?_ ?_ ?_)

theorem freeIfDone_kept {c : Nat} (hk : Kept ql flo rvk stg s) : Kept ql flo rvk stg (freeIfDone c s) := by
  unfold freeIfDone
  try dsimp only
  repeat' first
    | with_reducible assumption
    | with_reducible apply freeCtx_kept
    | with_reducible apply kept_ite
    | split

theorem commonsFollow_kept {h : Nat} (hk : Kept ql flo rvk stg s) : Kept ql flo rvk stg (commonsFollow h s) := by
  unfold commonsFollow
  try dsimp only
  repeat' first
    | with_reducible assumption
    | with_reducible apply State.applyPark_kept
    | with_reducible refine foldl_kept ?_ (fun _ _ _ => ?_)
    | with_reducible apply kept_ite
    | split

theorem countFail_kept {v : Vec} {n : Nat} (hk : Kept ql flo rvk stg s) : Kept ql flo rvk stg (countFail v s n) := by
  unfold countFail
  try dsimp only
  repeat' first
    | with_reducible assumption
    | with_reducible apply State.setCtx_kept
    | with_reducible apply kept_ite
    | split
    | (show _ = _; rfl)
    | (simp only [kept_mk]; with_reducible refine KeptParts.of ?_ ?_ ?_ ?_ ?_)

theorem resultVec_kept {v : Vec} {obs : List PinObs} (hk : Kept ql flo rvk stg s) : Kept ql flo rvk stg (resultVec v obs s) := by
  unfold resultVec
  try dsimp only
  repeat' first
    | with_reducible assumption
    | with_reducible apply siteVector_kept
    | with_reducible apply countFail_kept
    | with_reducible refine each_kept ?_ (fun _ _ _ => ?_)
    | with_reducible refine foldl_kept ?_ (fun _ _ _ => ?_)
    | with_reducible apply kept_ite
    | split
    | (show _ = _; rfl)
    | (simp only [kept_mk]; with_reducible refine KeptParts.of ?_ ?_ ?_ ?_ ?_)

theorem drainSteps_kept {h k : Nat} (hk : Kept ql flo rvk stg s) : Kept ql flo rvk stg (drainSteps h k s) := by
  induction k generalizing s with
  | zero => exact hk
  | succ k ih =>
    unfold drainSteps
    dsimp only
    repeat' first
      | with_reducible assumption
      | with_reducible apply ih
      | with_reducible apply siteEnds_kept
      | with_reducible apply resultVec_kept
      | with_reducible apply State.setSite_kept
      | with_reducible apply State.setCtx_kept
      | split

theorem drainAwait_kept {h : Nat} (hk : Kept ql flo rvk stg s) : Kept ql flo rvk stg (drainAwait h s) := by
  unfold drainAwait
  try dsimp only
  repeat' first
    | with_reducible assumption
    | with_reducible apply drainSteps_kept

theorem compareResult_kept {c : Nat} {obs : List PinObs} (hk : Kept ql flo rvk stg s) : Kept ql flo rvk stg (compareResult c obs s) := by
  unfold compareResult
  try dsimp only
  repeat' first
    | with_reducible assumption
    | with_reducible apply State.setCtx_kept
    | with_reducible apply drainAwait_kept
    | split
    | (show _ = _; rfl)
    | (simp only [kept_mk]; with_reducible refine KeptParts.of ?_ ?_ ?_ ?_ ?_)

theorem waitEnds_kept {h : Nat} {w : WaitGroup} {sites : List Nat} (hk : Kept ql flo rvk stg s) : Kept ql flo rvk stg (waitEnds h w sites s) := by
  unfold waitEnds
  try dsimp only
  repeat' first
    | with_reducible assumption
    | with_reducible apply State.wrN_kept
    | with_reducible apply State.logSites_kept
    | with_reducible refine foldl_kept ?_ (fun _ _ _ => ?_)
    | (show _ = _; rfl)
    | (simp only [kept_mk]; with_reducible refine KeptParts.of ?_ ?_ ?_ ?_ ?_)

theorem siteGone_kept {h : Nat} {n : Nat} (hk : Kept ql flo rvk stg s) : Kept ql flo rvk stg (siteGone h s n) := by
  unfold siteGone
  try dsimp only
  repeat' first
    | with_reducible assumption
    | with_reducible apply State.wrN_kept
    | with_reducible apply State.setCtx_kept
    | with_reducible apply State.putCtx_kept
    | with_reducible apply waitEnds_kept
    | with_reducible refine each_kept ?_ (fun _ _ _ => ?_)
    | with_reducible apply kept_ite
    | split
    | (show _ = _; rfl)
    | (simp only [kept_mk]; with_reducible refine KeptParts.of ?_ ?_ ?_ ?_ ?_)

theorem siteLeave_kept {c code : Nat} {n : Nat} (hk : Kept ql flo rvk stg s) : Kept ql flo rvk stg (siteLeave c code s n) := by
  unfold siteLeave
  try dsimp only
  repeat' first
    | with_reducible assumption
    | with_reducible apply State.wrN_kept
    | with_reducible apply State.evt_kept
    | with_reducible apply State.log_kept
    | with_reducible apply State.setCtx_kept
    | with_reducible apply State.setSite_kept
    | with_reducible apply State.setSiteStat_kept
    | with_reducible apply parkSite_kept
    | with_reducible apply freeIfDone_kept
    | with_reducible apply commonsFollow_kept
    | with_reducible apply drainAwait_kept
    | with_reducible apply siteGone_kept
    | with_reducible apply kept_ite
    | split
    | (show _ = _; rfl)
    | (simp only [kept_mk]; with_reducible refine KeptParts.of ?_ ?_ ?_ ?_ ?_)

theorem sitesLeave_kept {c code : Nat} (hk : Kept ql flo rvk stg s) : Kept ql flo rvk stg (sitesLeave c code s) := by
  unfold sitesLeave
  try dsimp only
  repeat' first
    | with_reducible assumption
    | with_reducible apply siteLeave_kept
    | with_reducible refine each_kept ?_ (fun _ _ _ => ?_)

theorem stallLog_kept {c phase : Nat} {st : Stall} {duration : Nat} (hk : Kept ql flo rvk stg s) : Kept ql flo rvk stg (stallLog c phase st duration s) := by
  unfold stallLog
  try dsimp only
  repeat' first
    | with_reducible assumption
    | with_reducible apply State.log_kept
    | with_reducible apply kept_ite
    | split

theorem stallEnd_kept {c : Nat} (hk : Kept ql flo rvk stg s) : Kept ql flo rvk stg (stallEnd c s) := by
  unfold stallEnd
  try dsimp only
  repeat' first
    | with_reducible assumption
    | with_reducible apply State.setWide_kept
    | with_reducible apply State.setCtx_kept
    | with_reducible apply stallLog_kept
    | split
    | (show _ = _; rfl)
    | (simp only [kept_mk]; with_reducible refine KeptParts.of ?_ ?_ ?_ ?_ ?_)

theorem waitEnd_kept {h code : Nat} {w : WaitGroup} (hk : Kept ql flo rvk stg s) : Kept ql flo rvk stg (waitEnd h code s w) := by
  unfold waitEnd
  try dsimp only
  repeat' first
    | with_reducible assumption
    | with_reducible apply waitEnds_kept
    | with_reducible apply siteLeave_kept
    | with_reducible refine each_kept ?_ (fun _ _ _ => ?_)

theorem jumpDrop_kept {c : Nat} (hk : Kept ql flo rvk stg s) : Kept ql flo rvk stg (jumpDrop c s) := by
  unfold jumpDrop
  try dsimp only
  repeat' first
    | with_reducible assumption
    | with_reducible apply State.wrN_kept
    | with_reducible apply State.evt_kept
    | with_reducible apply kept_ite
    | split

theorem finishRun_kept {c : Nat} (hk : Kept ql flo rvk stg s) : Kept ql flo rvk stg (finishRun c s) := by
  unfold finishRun
  try dsimp only
  repeat' first
    | with_reducible assumption
    | with_reducible apply State.wrN_kept
    | with_reducible apply State.setFld_kept
    | with_reducible apply State.evt_kept
    | with_reducible apply State.putCtx_kept
    | with_reducible apply parkCtx_kept
    | with_reducible apply freeIfDone_kept
    | with_reducible apply siteLeave_kept
    | with_reducible apply sitesLeave_kept
    | with_reducible apply waitEnd_kept
    | with_reducible apply jumpDrop_kept
    | with_reducible refine foldl_kept ?_ (fun _ _ _ => ?_)
    | with_reducible apply kept_ite
    | split
    | (show _ = _; rfl)
    | (simp only [kept_mk]; with_reducible refine KeptParts.of ?_ ?_ ?_ ?_ ?_)

theorem endRun_kept {c code : Nat} (hk : Kept ql flo rvk stg s) : Kept ql flo rvk stg (endRun c code s) := by
  unfold endRun
  try dsimp only
  repeat' first
    | with_reducible assumption
    | with_reducible apply State.putCtx_kept
    | with_reducible apply stallEnd_kept
    | with_reducible apply finishRun_kept
    | with_reducible apply kept_ite
    | split
    | (show _ = _; rfl)
    | (simp only [kept_mk]; with_reducible refine KeptParts.of ?_ ?_ ?_ ?_ ?_)

end Sys2Proof.Machine
end

