-- ==== Sys2Proof/Laws/Keep/Sequencer.lean ====
section
/-!
SUPPORT. Laws/Keep/Sequencer.lean: the operations of Machine/Sequencer.lean keep the queue, the rollback floor, the revoked keys, the stage and
the canonical form of the stored state (`Kept`).
-/

set_option linter.unusedTactic false
set_option linter.unreachableTactic false
set_option linter.unusedVariables false

namespace Sys2Proof.Machine

variable {ql : List Instr} {flo rvk : Nat} {stg : Option StageOf} {s : State}

theorem State.putPath_kept {c p : Nat} {x : Path} (hk : Kept ql flo rvk stg s) : Kept ql flo rvk stg (State.putPath s c p x) := by
  unfold State.putPath
  try dsimp only
  repeat' first
    | with_reducible assumption
    | with_reducible apply State.putCtx_kept
    | (show _ = _; rfl)
    | (simp only [kept_mk]; with_reducible refine KeptParts.of ?_ ?_ ?_ ?_ ?_)

theorem cachePlay_kept {h e : Nat} {lc : Bool} (hk : Kept ql flo rvk stg s) : Kept ql flo rvk stg (cachePlay h e lc s) := by
  unfold cachePlay
  try dsimp only
  repeat' first
    | with_reducible assumption
    | with_reducible apply State.setCtx_kept
    | with_reducible refine foldl_kept ?_ (fun _ _ _ => ?_)
    | with_reducible apply kept_ite
    | split
    | (show _ = _; rfl)
    | (simp only [kept_mk]; with_reducible refine KeptParts.of ?_ ?_ ?_ ?_ ?_)

theorem genIngot_kept {c n : Nat} {p0 : Path} {b : Block} (hk : Kept ql flo rvk stg s) : Kept ql flo rvk stg (genIngot c n p0 b s) := by
  unfold genIngot
  try dsimp only
  repeat' first
    | with_reducible assumption
    | with_reducible apply State.putCtx_kept
    | with_reducible apply cachePlay_kept
    | with_reducible apply kept_ite
    | split
    | (show _ = _; rfl)
    | (simp only [kept_mk]; with_reducible refine KeptParts.of ?_ ?_ ?_ ?_ ?_)

theorem jumpNote_kept {c : Nat} {b : Nat} (hk : Kept ql flo rvk stg s) : Kept ql flo rvk stg (jumpNote c s b) := by
  unfold jumpNote
  try dsimp only
  repeat' first
    | with_reducible assumption
    | with_reducible apply State.wrN_kept
    | with_reducible apply State.setBit_kept
    | with_reducible apply State.forceBits_kept
    | with_reducible apply State.evt_kept
    | with_reducible apply State.inc_kept
    | with_reducible apply kept_ite
    | split

theorem stallStart_kept {c cause index : Nat} (hk : Kept ql flo rvk stg s) : Kept ql flo rvk stg (stallStart c cause index s) := by
  unfold stallStart
  try dsimp only
  repeat' first
    | with_reducible assumption
    | with_reducible apply State.wrN_kept
    | with_reducible apply State.setFld_kept
    | with_reducible apply State.setWide_kept
    | with_reducible apply State.evt_kept
    | with_reducible apply State.inc_kept
    | with_reducible apply State.setCtx_kept
    | with_reducible apply stallLog_kept
    | with_reducible apply endRun_kept
    | with_reducible apply kept_ite
    | split
    | (show _ = _; rfl)
    | (simp only [kept_mk]; with_reducible refine KeptParts.of ?_ ?_ ?_ ?_ ?_)

theorem settle_kept {c : Nat} (hk : Kept ql flo rvk stg s) : Kept ql flo rvk stg (settle c s) := by
  unfold settle
  try dsimp only
  repeat' first
    | with_reducible assumption
    | with_reducible apply endRun_kept
    | with_reducible apply State.putPath_kept
    | with_reducible apply jumpNote_kept
    | with_reducible apply stallStart_kept
    | with_reducible refine foldl_kept ?_ (fun _ _ _ => ?_)
    | with_reducible apply kept_ite
    | split
    | (show _ = _; rfl)
    | (simp only [kept_mk]; with_reducible refine KeptParts.of ?_ ?_ ?_ ?_ ?_)

theorem ingotNow_kept {c n : Nat} (hk : Kept ql flo rvk stg s) : Kept ql flo rvk stg (ingotNow c n s) := by
  unfold ingotNow
  try dsimp only
  repeat' first
    | with_reducible assumption
    | with_reducible apply State.putPath_kept
    | with_reducible apply genIngot_kept
    | with_reducible apply settle_kept
    | with_reducible apply kept_ite
    | split
    | (show _ = _; rfl)
    | (simp only [kept_mk]; with_reducible refine KeptParts.of ?_ ?_ ?_ ?_ ?_)

theorem ingotGenerate_kept {c n : Nat} (hk : Kept ql flo rvk stg s) : Kept ql flo rvk stg (ingotGenerate c n s) := by
  unfold ingotGenerate
  try dsimp only
  repeat' first
    | with_reducible assumption
    | with_reducible refine State.atDue_kept ?_ (fun _ _ => ?_)
    | with_reducible apply ingotNow_kept
    | with_reducible apply kept_ite
    | split
    | (show _ = _; rfl)
    | (simp only [kept_mk]; with_reducible refine KeptParts.of ?_ ?_ ?_ ?_ ?_)

theorem settleTails_kept {c : Nat} (hk : Kept ql flo rvk stg s) : Kept ql flo rvk stg (settleTails c s) := by
  unfold settleTails
  try dsimp only
  repeat' first
    | with_reducible assumption
    | with_reducible apply State.setCtx_kept
    | with_reducible apply parkSite_kept
    | with_reducible apply freeIfDone_kept
    | with_reducible apply commonsFollow_kept
    | with_reducible apply siteLeave_kept
    | with_reducible apply finishRun_kept
    | with_reducible refine foldl_kept ?_ (fun _ _ _ => ?_)
    | with_reducible apply kept_ite
    | split
    | (show _ = _; rfl)
    | (simp only [kept_mk]; with_reducible refine KeptParts.of ?_ ?_ ?_ ?_ ?_)

theorem detach_kept {c d : Nat} {w : WaitGroup} {expect : Option Nat} {paths : List Path} {forks : List Fork} {vecs : List Vec} (hk : Kept ql flo rvk stg s) : Kept ql flo rvk stg (detach c d w expect paths forks vecs s) := by
  unfold detach
  try dsimp only
  repeat' first
    | with_reducible assumption
    | with_reducible apply State.wrN_kept
    | with_reducible apply State.setWide_kept
    | with_reducible apply State.evt_kept
    | with_reducible apply State.logSites_kept
    | with_reducible apply State.setCtx_kept
    | with_reducible apply State.runShow_kept
    | with_reducible apply State.setSiteStat_kept
    | with_reducible refine each_kept ?_ (fun _ _ _ => ?_)
    | (show _ = _; rfl)
    | (simp only [kept_mk]; with_reducible refine KeptParts.of ?_ ?_ ?_ ?_ ?_)

theorem divergeSites_kept {c : Nat} {f : Fork} {group : List Nat} {taken : Bool} {moved : Option (List Path × List Fork × List Vec)} {at_ cause : Nat} (hk : Kept ql flo rvk stg s) : Kept ql flo rvk stg (divergeSites c f group taken moved at_ cause s) := by
  unfold divergeSites
  try dsimp only
  repeat' first
    | with_reducible assumption
    | with_reducible apply State.evt_kept
    | with_reducible apply State.inc_kept
    | with_reducible apply State.logSites_kept
    | with_reducible apply State.setCtx_kept
    | with_reducible apply State.putCtx_kept
    | with_reducible apply State.setSiteStat_kept
    | with_reducible apply settleTails_kept
    | with_reducible apply detach_kept
    | with_reducible refine each_kept ?_ (fun _ _ _ => ?_)
    | with_reducible apply kept_ite
    | split
    | (show _ = _; rfl)
    | (simp only [kept_mk]; with_reducible refine KeptParts.of ?_ ?_ ?_ ?_ ?_)

theorem branchAct_kept {c n : Nat} {p : Path} {b : Block} (hk : Kept ql flo rvk stg s) : Kept ql flo rvk stg (branchAct c n p b s) := by
  unfold branchAct
  try dsimp only
  repeat' first
    | with_reducible assumption
    | with_reducible apply State.inc_kept
    | with_reducible apply State.putCtx_kept
    | with_reducible apply State.putPath_kept
    | with_reducible apply divergeSites_kept
    | with_reducible apply kept_ite
    | split
    | (show _ = _; rfl)
    | (simp only [kept_mk]; with_reducible refine KeptParts.of ?_ ?_ ?_ ?_ ?_)

theorem retrySlots_kept {c : Nat} (hk : Kept ql flo rvk stg s) : Kept ql flo rvk stg (retrySlots c s) := by
  unfold retrySlots
  try dsimp only
  repeat' first
    | with_reducible assumption
    | with_reducible apply branchAct_kept
    | with_reducible refine each_kept ?_ (fun _ _ _ => ?_)
    | split
    | (show _ = _; rfl)
    | (simp only [kept_mk]; with_reducible refine KeptParts.of ?_ ?_ ?_ ?_ ?_)

theorem dropRows_kept {c : Nat} (hk : Kept ql flo rvk stg s) : Kept ql flo rvk stg (dropRows c s) := by
  unfold dropRows
  try dsimp only
  repeat' first
    | with_reducible assumption
    | with_reducible apply State.setCtx_kept
    | (show _ = _; rfl)
    | (simp only [kept_mk]; with_reducible refine KeptParts.of ?_ ?_ ?_ ?_ ?_)

theorem resolve_kept {c : Nat} {f : Fork} (hk : Kept ql flo rvk stg s) : Kept ql flo rvk stg (resolve c f s) := by
  unfold resolve
  try dsimp only
  repeat' first
    | with_reducible assumption
    | with_reducible apply State.incBy_kept
    | with_reducible apply State.inc_kept
    | with_reducible refine State.when_kept ?_ (fun _ _ => ?_)
    | with_reducible apply State.putCtx_kept
    | with_reducible apply settle_kept
    | with_reducible apply divergeSites_kept
    | with_reducible apply retrySlots_kept
    | with_reducible apply dropRows_kept
    | with_reducible apply kept_ite
    | split
    | (show _ = _; rfl)
    | (simp only [kept_mk]; with_reducible refine KeptParts.of ?_ ?_ ?_ ?_ ?_)

theorem resolveAll_kept {c k : Nat} (h : Kept ql flo rvk stg s) : Kept ql flo rvk stg (resolveAll c k s) := by
  induction k generalizing s with
  | zero => exact h
  | succ k ih =>
    unfold resolveAll
    split
    · exact ih (resolve_kept h)
    · exact h

theorem controlNow_kept {c n : Nat} (hk : Kept ql flo rvk stg s) : Kept ql flo rvk stg (controlNow c n s) := by
  unfold controlNow
  try dsimp only
  repeat' first
    | with_reducible assumption
    | with_reducible apply State.putPath_kept
    | with_reducible apply settle_kept
    | with_reducible apply branchAct_kept
    | with_reducible apply kept_ite
    | split
    | (show _ = _; rfl)
    | (simp only [kept_mk]; with_reducible refine KeptParts.of ?_ ?_ ?_ ?_ ?_)

theorem restOfBlock_kept {c n op k : Nat} (h : Kept ql flo rvk stg s) : Kept ql flo rvk stg (restOfBlock c n op k s) := by
  induction k generalizing s with
  | zero => exact h
  | succ k ih =>
    unfold restOfBlock
    dsimp only
    repeat' first
      | with_reducible assumption
      | with_reducible apply ih
      | with_reducible apply ingotGenerate_kept
      | with_reducible apply kept_ite
      | split

theorem instrRow_kept {op c n : Nat} (hk : Kept ql flo rvk stg s) : Kept ql flo rvk stg (instrRow op c n s) := by
  unfold instrRow
  try dsimp only
  repeat' first
    | with_reducible assumption
    | with_reducible refine State.atDue_kept ?_ (fun _ _ => ?_)
    | with_reducible apply controlNow_kept
    | with_reducible apply restOfBlock_kept
    | with_reducible apply kept_ite
    | split
    | (show _ = _; rfl)
    | (simp only [kept_mk]; with_reducible refine KeptParts.of ?_ ?_ ?_ ?_ ?_)

end Sys2Proof.Machine
end

