-- ==== Sys2Proof/Laws/Keep/RunAhead.lean ====
section
/-!
SUPPORT. Laws/Keep/RunAhead.lean: the operations of Machine/RunAhead.lean keep the queue, the rollback floor, the revoked keys, the stage and
the canonical form of the stored state (`Kept`).
-/

set_option linter.unusedTactic false
set_option linter.unreachableTactic false
set_option linter.unusedVariables false

namespace Sys2Proof.Machine

variable {ql : List Instr} {flo rvk : Nat} {stg : Option StageOf} {s : State}

theorem bubble_kept {c cause index since len : Nat} (hk : Kept ql flo rvk stg s) : Kept ql flo rvk stg (bubble c cause index since len s) := by
  unfold bubble
  try dsimp only
  repeat' first
    | with_reducible assumption
    | with_reducible apply State.wrN_kept
    | with_reducible apply State.evt_kept
    | with_reducible apply State.inc_kept
    | with_reducible apply State.addWide_kept
    | with_reducible apply State.log_kept
    | with_reducible apply kept_ite
    | split
    | (show _ = _; rfl)
    | (simp only [kept_mk]; with_reducible refine KeptParts.of ?_ ?_ ?_ ?_ ?_)

theorem lateResult_kept {c id : Nat} (hk : Kept ql flo rvk stg s) : Kept ql flo rvk stg (lateResult c id s) := by
  unfold lateResult
  try dsimp only
  repeat' first
    | with_reducible assumption
    | with_reducible apply State.putCtx_kept
    | with_reducible apply parkCtx_kept
    | with_reducible apply kept_ite
    | split
    | (show _ = _; rfl)
    | (simp only [kept_mk]; with_reducible refine KeptParts.of ?_ ?_ ?_ ?_ ?_)

theorem notify_kept {c code index : Nat} (hk : Kept ql flo rvk stg s) : Kept ql flo rvk stg (notify c code index s) := by
  unfold notify
  try dsimp only
  repeat' first
    | with_reducible assumption
    | with_reducible apply State.evt_kept
    | with_reducible apply State.inc_kept
    | with_reducible apply kept_ite
    | split
    | (show _ = _; rfl)
    | (simp only [kept_mk]; with_reducible refine KeptParts.of ?_ ?_ ?_ ?_ ?_)

theorem triggerRelease_kept {c : Nat} {v : Vec} (hk : Kept ql flo rvk stg s) : Kept ql flo rvk stg (triggerRelease c v s) := by
  unfold triggerRelease
  try dsimp only
  repeat' first
    | with_reducible assumption
    | with_reducible apply State.busRaise_kept
    | with_reducible apply State.flood_kept
    | with_reducible apply notify_kept
    | with_reducible apply kept_ite
    | split
    | (show _ = _; rfl)
    | (simp only [kept_mk]; with_reducible refine KeptParts.of ?_ ?_ ?_ ?_ ?_)

theorem rdvArrive_kept {c label : Nat} (hk : Kept ql flo rvk stg s) : Kept ql flo rvk stg (rdvArrive c label s) := by
  unfold rdvArrive
  try dsimp only
  repeat' first
    | with_reducible assumption
    | with_reducible apply State.setCtx_kept
    | with_reducible apply State.flood_kept
    | split
    | (show _ = _; rfl)
    | (simp only [kept_mk]; with_reducible refine KeptParts.of ?_ ?_ ?_ ?_ ?_)

theorem rejoin_kept {h label : Nat} (hk : Kept ql flo rvk stg s) : Kept ql flo rvk stg (rejoin h label s) := by
  unfold rejoin
  try dsimp only
  repeat' first
    | with_reducible assumption
    | with_reducible apply State.setWide_kept
    | with_reducible apply State.evt_kept
    | with_reducible apply State.logSites_kept
    | with_reducible apply State.setCtx_kept
    | with_reducible apply State.putCtx_kept
    | with_reducible apply State.setSiteStat_kept
    | with_reducible apply freeIfDone_kept
    | with_reducible refine each_kept ?_ (fun _ _ _ => ?_)
    | with_reducible apply kept_ite
    | split
    | (show _ = _; rfl)
    | (simp only [kept_mk]; with_reducible refine KeptParts.of ?_ ?_ ?_ ?_ ?_)

theorem waypointEnd_kept {c label : Nat} (hk : Kept ql flo rvk stg s) : Kept ql flo rvk stg (waypointEnd c label s) := by
  unfold waypointEnd
  try dsimp only
  repeat' first
    | with_reducible assumption
    | with_reducible apply State.setWide_kept
    | with_reducible apply State.setCtx_kept
    | with_reducible apply State.putCtx_kept
    | with_reducible apply State.setSiteStat_kept
    | with_reducible apply parkSite_kept
    | with_reducible apply commonsFollow_kept
    | with_reducible apply sitesLeave_kept
    | with_reducible apply rejoin_kept
    | with_reducible refine each_kept ?_ (fun _ _ _ => ?_)
    | with_reducible apply kept_ite
    | split
    | (show _ = _; rfl)
    | (simp only [kept_mk]; with_reducible refine KeptParts.of ?_ ?_ ?_ ?_ ?_)

theorem boundaryLeave_kept {c : Nat} (hk : Kept ql flo rvk stg s) : Kept ql flo rvk stg (boundaryLeave c s) := by
  unfold boundaryLeave
  try dsimp only
  repeat' first
    | with_reducible assumption
    | with_reducible apply siteLeave_kept
    | with_reducible refine each_kept ?_ (fun _ _ _ => ?_)
    | with_reducible apply kept_ite
    | split

theorem applyPins_kept {c : Nat} {v : Vec} {sites : List Nat} (hk : Kept ql flo rvk stg s) : Kept ql flo rvk stg (applyPins c v sites s) := by
  unfold applyPins
  try dsimp only
  repeat' first
    | with_reducible assumption
    | with_reducible apply State.applyVector_kept
    | with_reducible refine foldl_kept ?_ (fun _ _ _ => ?_)
    | with_reducible apply kept_ite
    | split
    | (show _ = _; rfl)
    | (simp only [kept_mk]; with_reducible refine KeptParts.of ?_ ?_ ?_ ?_ ?_)

theorem showVec_kept {c : Nat} {v : Vec} (hk : Kept ql flo rvk stg s) : Kept ql flo rvk stg (showVec c v s) := by
  unfold showVec
  try dsimp only
  repeat' first
    | with_reducible assumption
    | with_reducible apply State.wrN_kept
    | with_reducible apply State.setFld_kept
    | with_reducible apply State.setWide_kept
    | with_reducible apply State.inc_kept
    | with_reducible refine foldl_kept ?_ (fun _ _ _ => ?_)
    | with_reducible apply kept_ite
    | split
    | (show _ = _; rfl)
    | (simp only [kept_mk]; with_reducible refine KeptParts.of ?_ ?_ ?_ ?_ ?_)

theorem emptyEnd_kept {h : Nat} (hk : Kept ql flo rvk stg s) : Kept ql flo rvk stg (emptyEnd h s) := by
  unfold emptyEnd
  try dsimp only
  repeat' first
    | with_reducible assumption
    | with_reducible apply endRun_kept
    | with_reducible apply kept_ite
    | split
    | (show _ = _; rfl)
    | (simp only [kept_mk]; with_reducible refine KeptParts.of ?_ ?_ ?_ ?_ ?_)

theorem crossVec_kept {c : Nat} {v : Vec} (hk : Kept ql flo rvk stg s) : Kept ql flo rvk stg (crossVec c v s) := by
  unfold crossVec
  try dsimp only
  repeat' first
    | with_reducible assumption
    | with_reducible apply State.setCtx_kept
    | with_reducible apply State.setSite_kept
    | with_reducible apply abortCheck_kept
    | with_reducible apply parkCtx_kept
    | with_reducible apply drainAwait_kept
    | with_reducible apply finishRun_kept
    | with_reducible apply settleTails_kept
    | with_reducible apply bubble_kept
    | with_reducible apply triggerRelease_kept
    | with_reducible apply rdvArrive_kept
    | with_reducible apply waypointEnd_kept
    | with_reducible apply boundaryLeave_kept
    | with_reducible apply applyPins_kept
    | with_reducible apply showVec_kept
    | with_reducible refine each_kept ?_ (fun _ _ _ => ?_)
    | with_reducible apply kept_ite
    | split
    | (show _ = _; rfl)
    | (simp only [kept_mk]; with_reducible refine KeptParts.of ?_ ?_ ?_ ?_ ?_)

theorem crossNow_kept {c : Nat} (hk : Kept ql flo rvk stg s) : Kept ql flo rvk stg (crossNow c s) := by
  unfold crossNow
  try dsimp only
  repeat' first
    | with_reducible assumption
    | with_reducible apply lateResult_kept
    | with_reducible apply crossVec_kept
    | split
    | (show _ = _; rfl)
    | (simp only [kept_mk]; with_reducible refine KeptParts.of ?_ ?_ ?_ ?_ ?_)

theorem pourLine_kept {c : Nat} (hk : Kept ql flo rvk stg s) : Kept ql flo rvk stg (pourLine c s) := by
  unfold pourLine
  try dsimp only
  repeat' first
    | with_reducible assumption
    | with_reducible refine State.atDue_kept ?_ (fun _ _ => ?_)
    | with_reducible apply parkCtx_kept
    | with_reducible apply crossNow_kept
    | split
    | (show _ = _; rfl)
    | (simp only [kept_mk]; with_reducible refine KeptParts.of ?_ ?_ ?_ ?_ ?_)

theorem State.gapsPark_kept  (hk : Kept ql flo rvk stg s) : Kept ql flo rvk stg (State.gapsPark s) := by
  unfold State.gapsPark
  try dsimp only
  repeat' first
    | with_reducible assumption
    | with_reducible apply parkCtx_kept
    | with_reducible refine each_kept ?_ (fun _ _ _ => ?_)
    | with_reducible apply kept_ite
    | split
    | (show _ = _; rfl)
    | (simp only [kept_mk]; with_reducible refine KeptParts.of ?_ ?_ ?_ ?_ ?_)

theorem flushOld_kept {c k : Nat} (h : Kept ql flo rvk stg s) : Kept ql flo rvk stg (flushOld c k s) := by
  induction k generalizing s with
  | zero => exact h
  | succ k ih =>
    unfold flushOld
    split
    · exact h
    · exact ih (crossNow_kept h)

theorem leaveAtBoundary_kept {n code : Nat} {due : State → Bool} (hk : Kept ql flo rvk stg s) : Kept ql flo rvk stg (leaveAtBoundary n code due s) := by
  unfold leaveAtBoundary
  try dsimp only
  repeat' first
    | with_reducible assumption
    | with_reducible refine State.atDue_kept ?_ (fun _ _ => ?_)
    | with_reducible apply siteLeave_kept
    | with_reducible apply kept_ite
    | split
    | (show _ = _; rfl)
    | (simp only [kept_mk]; with_reducible refine KeptParts.of ?_ ?_ ?_ ?_ ?_)

theorem startRun_kept {c : Nat} (hk : Kept ql flo rvk stg s) : Kept ql flo rvk stg (startRun c s) := by
  unfold startRun
  try dsimp only
  repeat' first
    | with_reducible assumption
    | with_reducible apply State.wrN_kept
    | with_reducible apply State.setWide_kept
    | with_reducible apply State.setSite_kept
    | with_reducible apply State.putCtx_kept
    | with_reducible apply State.setSiteStat_kept
    | with_reducible apply drainAwait_kept
    | with_reducible apply finishRun_kept
    | with_reducible apply flushOld_kept
    | with_reducible refine each_kept ?_ (fun _ _ _ => ?_)
    | (show _ = _; rfl)
    | (simp only [kept_mk]; with_reducible refine KeptParts.of ?_ ?_ ?_ ?_ ?_)

theorem seqStart_kept {c : Nat} (hk : Kept ql flo rvk stg s) : Kept ql flo rvk stg (seqStart c s) := by
  unfold seqStart
  try dsimp only
  repeat' first
    | with_reducible assumption
    | with_reducible apply State.wrN_kept
    | with_reducible apply State.evt_kept
    | with_reducible apply State.refuse_kept
    | with_reducible apply startRun_kept
    | with_reducible apply kept_ite
    | split
    | (show _ = _; rfl)
    | (simp only [kept_mk]; with_reducible refine KeptParts.of ?_ ?_ ?_ ?_ ?_)

theorem stopCtx_kept {c : Nat} (hk : Kept ql flo rvk stg s) : Kept ql flo rvk stg (stopCtx c s) := by
  unfold stopCtx
  try dsimp only
  repeat' first
    | with_reducible assumption
    | with_reducible apply State.setCtx_kept
    | with_reducible apply endRun_kept
    | with_reducible apply kept_ite
    | split
    | (show _ = _; rfl)
    | (simp only [kept_mk]; with_reducible refine KeptParts.of ?_ ?_ ?_ ?_ ?_)

theorem seqStop_kept {c : Nat} (hk : Kept ql flo rvk stg s) : Kept ql flo rvk stg (seqStop c s) := by
  unfold seqStop
  try dsimp only
  repeat' first
    | with_reducible assumption
    | with_reducible apply State.putCtx_kept
    | with_reducible apply waitEnd_kept
    | with_reducible apply stopCtx_kept
    | with_reducible refine each_kept ?_ (fun _ _ _ => ?_)
    | with_reducible refine foldl_kept ?_ (fun _ _ _ => ?_)
    | with_reducible apply kept_ite
    | split
    | (show _ = _; rfl)
    | (simp only [kept_mk]; with_reducible refine KeptParts.of ?_ ?_ ?_ ?_ ?_)

theorem unstall_kept {c n : Nat} {p : Path} (hk : Kept ql flo rvk stg s) : Kept ql flo rvk stg (unstall c n p s) := by
  unfold unstall
  try dsimp only
  repeat' first
    | with_reducible assumption
    | with_reducible apply State.setFld_kept
    | with_reducible apply stallEnd_kept
    | with_reducible apply State.putPath_kept
    | (show _ = _; rfl)
    | (simp only [kept_mk]; with_reducible refine KeptParts.of ?_ ?_ ?_ ?_ ?_)

theorem tryResume_kept {c : Nat} (hk : Kept ql flo rvk stg s) : Kept ql flo rvk stg (tryResume c s) := by
  unfold tryResume
  try dsimp only
  repeat' first
    | with_reducible assumption
    | with_reducible apply unstall_kept
    | with_reducible apply kept_ite
    | split
    | (show _ = _; rfl)
    | (simp only [kept_mk]; with_reducible refine KeptParts.of ?_ ?_ ?_ ?_ ?_)

theorem seqRefuse_kept {c code : Nat} (hk : Kept ql flo rvk stg s) : Kept ql flo rvk stg (seqRefuse c code s) := by
  unfold seqRefuse
  try dsimp only
  repeat' first
    | with_reducible assumption
    | with_reducible apply State.wrN_kept
    | with_reducible apply State.refuse_kept

theorem seqResume_kept {c : Nat} (hk : Kept ql flo rvk stg s) : Kept ql flo rvk stg (seqResume c s) := by
  unfold seqResume
  try dsimp only
  repeat' first
    | with_reducible assumption
    | with_reducible apply State.setCtx_kept
    | with_reducible apply tryResume_kept
    | with_reducible apply seqRefuse_kept
    | with_reducible apply kept_ite
    | split
    | (show _ = _; rfl)
    | (simp only [kept_mk]; with_reducible refine KeptParts.of ?_ ?_ ?_ ?_ ?_)

theorem seqRestart_kept {c : Nat} (hk : Kept ql flo rvk stg s) : Kept ql flo rvk stg (seqRestart c s) := by
  unfold seqRestart
  try dsimp only
  repeat' first
    | with_reducible assumption
    | with_reducible apply unstall_kept
    | with_reducible apply seqRefuse_kept
    | with_reducible apply kept_ite
    | split
    | (show _ = _; rfl)
    | (simp only [kept_mk]; with_reducible refine KeptParts.of ?_ ?_ ?_ ?_ ?_)

theorem jumpLatch_kept {c : Nat} (hk : Kept ql flo rvk stg s) : Kept ql flo rvk stg (jumpLatch c s) := by
  unfold jumpLatch
  try dsimp only
  repeat' first
    | with_reducible assumption
    | with_reducible apply State.wrN_kept
    | with_reducible apply State.evt_kept
    | with_reducible apply State.setCtx_kept
    | with_reducible apply settle_kept
    | with_reducible apply kept_ite
    | split
    | (show _ = _; rfl)
    | (simp only [kept_mk]; with_reducible refine KeptParts.of ?_ ?_ ?_ ?_ ?_)

theorem prefetchArrival_kept {c e k : Nat} (hk : Kept ql flo rvk stg s) : Kept ql flo rvk stg (prefetchArrival c e k s) := by
  unfold prefetchArrival
  try dsimp only
  repeat' first
    | with_reducible assumption
    | with_reducible apply State.setCtx_kept
    | with_reducible apply tryResume_kept
    | with_reducible apply kept_ite
    | split
    | (show _ = _; rfl)
    | (simp only [kept_mk]; with_reducible refine KeptParts.of ?_ ?_ ?_ ?_ ?_)

theorem rowArrives_kept {e n : Nat} {data : List Byte} {k : Nat} (hk : Kept ql flo rvk stg s) : Kept ql flo rvk stg (rowArrives e n data s k) := by
  unfold rowArrives
  try dsimp only
  repeat' first
    | with_reducible assumption
    | with_reducible apply State.setCtx_kept
    | with_reducible apply tryResume_kept
    | with_reducible apply kept_ite
    | split
    | (show _ = _; rfl)
    | (simp only [kept_mk]; with_reducible refine KeptParts.of ?_ ?_ ?_ ?_ ?_)

theorem streamFetch_kept {c prod : Nat} {data : List Byte} (hk : Kept ql flo rvk stg s) : Kept ql flo rvk stg (streamFetch c prod data s) := by
  unfold streamFetch
  try dsimp only
  repeat' first
    | with_reducible assumption
    | with_reducible apply State.hostWrite_kept
    | with_reducible apply rowArrives_kept
    | with_reducible refine each_kept ?_ (fun _ _ _ => ?_)
    | with_reducible apply kept_ite
    | split
    | (show _ = _; rfl)
    | (simp only [kept_mk]; with_reducible refine KeptParts.of ?_ ?_ ?_ ?_ ?_)

theorem tableWrite_kept {c v : Nat} (hk : Kept ql flo rvk stg s) : Kept ql flo rvk stg (tableWrite c v s) := by
  unfold tableWrite
  try dsimp only
  repeat' first
    | with_reducible assumption
    | with_reducible apply State.setFld_kept
    | with_reducible apply State.setCtx_kept
    | with_reducible apply kept_ite
    | split
    | (show _ = _; rfl)
    | (simp only [kept_mk]; with_reducible refine KeptParts.of ?_ ?_ ?_ ?_ ?_)

theorem tableSwap_kept {c mask : Nat} (hk : Kept ql flo rvk stg s) : Kept ql flo rvk stg (tableSwap c mask s) := by
  unfold tableSwap
  try dsimp only
  repeat' first
    | with_reducible assumption
    | with_reducible apply State.setBit_kept
    | with_reducible apply State.evt_kept
    | with_reducible apply State.arrive_kept
    | with_reducible refine each_kept ?_ (fun _ _ _ => ?_)
    | with_reducible apply kept_ite
    | split

theorem tableInstall_kept {c t : Nat} (hk : Kept ql flo rvk stg s) : Kept ql flo rvk stg (tableInstall c t s) := by
  unfold tableInstall
  try dsimp only
  repeat' first
    | with_reducible assumption
    | with_reducible apply State.setCtx_kept
    | (show _ = _; rfl)
    | (simp only [kept_mk]; with_reducible refine KeptParts.of ?_ ?_ ?_ ?_ ?_)

theorem soundLog_kept {c result code minimum rec_ : Nat} (hk : Kept ql flo rvk stg s) : Kept ql flo rvk stg (soundLog c result code minimum rec_ s) := by
  unfold soundLog
  try dsimp only
  repeat' first
    | with_reducible assumption
    | with_reducible apply State.log_kept

theorem soundPark_kept {c : Nat} (hk : Kept ql flo rvk stg s) : Kept ql flo rvk stg (soundPark c s) := by
  unfold soundPark
  try dsimp only
  repeat' first
    | with_reducible assumption
    | with_reducible apply State.applyPark_kept
    | with_reducible refine foldl_kept ?_ (fun _ _ _ => ?_)
    | split
    | (show _ = _; rfl)
    | (simp only [kept_mk]; with_reducible refine KeptParts.of ?_ ?_ ?_ ?_ ?_)

theorem soundDrive_kept {c : Nat} (hk : Kept ql flo rvk stg s) : Kept ql flo rvk stg (soundDrive c s) := by
  unfold soundDrive
  try dsimp only
  repeat' first
    | with_reducible assumption
    | with_reducible apply State.holdSymbol_kept
    | with_reducible refine foldl_kept ?_ (fun _ _ _ => ?_)
    | with_reducible apply kept_ite
    | split
    | (show _ = _; rfl)
    | (simp only [kept_mk]; with_reducible refine KeptParts.of ?_ ?_ ?_ ?_ ?_)

theorem State.setSound_kept {c : Nat} {q : Option Sounding} (hk : Kept ql flo rvk stg s) : Kept ql flo rvk stg (State.setSound s c q) := by
  unfold State.setSound
  try dsimp only
  repeat' first
    | with_reducible assumption
    | with_reducible apply State.setCtx_kept
    | (show _ = _; rfl)
    | (simp only [kept_mk]; with_reducible refine KeptParts.of ?_ ?_ ?_ ?_ ?_)

theorem soundFail_kept {c code rec_ : Nat} {s0 : State} (hk : Kept ql flo rvk stg s0) : Kept ql flo rvk stg (soundFail c code rec_ s0) := by
  unfold soundFail
  try dsimp only
  repeat' first
    | with_reducible assumption
    | with_reducible apply State.wrN_kept
    | with_reducible apply State.setFld_kept
    | with_reducible apply State.setBit_kept
    | with_reducible apply State.evt_kept
    | with_reducible apply soundLog_kept
    | with_reducible apply soundPark_kept
    | with_reducible apply State.setSound_kept
    | (show _ = _; rfl)
    | (simp only [kept_mk]; with_reducible refine KeptParts.of ?_ ?_ ?_ ?_ ?_)

theorem soundBegin_kept {c : Nat} (hk : Kept ql flo rvk stg s) : Kept ql flo rvk stg (soundBegin c s) := by
  unfold soundBegin
  try dsimp only
  repeat' first
    | with_reducible assumption
    | with_reducible apply State.setFld_kept
    | with_reducible apply State.setBit_kept
    | with_reducible apply State.touchdownBegins_kept
    | with_reducible apply soundDrive_kept
    | with_reducible apply State.setSound_kept
    | (show _ = _; rfl)
    | (simp only [kept_mk]; with_reducible refine KeptParts.of ?_ ?_ ?_ ?_ ?_)

theorem soundGo_kept {c : Nat} (hk : Kept ql flo rvk stg s) : Kept ql flo rvk stg (soundGo c s) := by
  unfold soundGo
  try dsimp only
  repeat' first
    | with_reducible assumption
    | with_reducible apply State.wrN_kept
    | with_reducible apply State.refuse_kept
    | with_reducible apply soundBegin_kept
    | with_reducible apply kept_ite
    | split

theorem soundAbort_kept {c : Nat} (hk : Kept ql flo rvk stg s) : Kept ql flo rvk stg (soundAbort c s) := by
  unfold soundAbort
  try dsimp only
  repeat' first
    | with_reducible assumption
    | with_reducible apply soundFail_kept
    | with_reducible apply kept_ite
    | split

theorem soundEnds_kept {c : Nat} {best : List (Nat × Nat)} {s0 : State} (hk : Kept ql flo rvk stg s0) : Kept ql flo rvk stg (soundEnds c best s0) := by
  unfold soundEnds
  try dsimp only
  repeat' first
    | with_reducible assumption
    | with_reducible apply State.wrN_kept
    | with_reducible apply State.setFld_kept
    | with_reducible apply State.evt_kept
    | with_reducible apply soundLog_kept
    | with_reducible apply soundPark_kept
    | with_reducible apply State.setSound_kept
    | with_reducible apply soundFail_kept
    | with_reducible refine foldl_kept ?_ (fun _ _ _ => ?_)
    | with_reducible apply kept_ite
    | split
    | (show _ = _; rfl)
    | (simp only [kept_mk]; with_reducible refine KeptParts.of ?_ ?_ ?_ ?_ ?_)

theorem soundResult_kept {c : Nat} {trip : Nat} (hk : Kept ql flo rvk stg s) : Kept ql flo rvk stg (soundResult c s trip) := by
  unfold soundResult
  try dsimp only
  repeat' first
    | with_reducible assumption
    | with_reducible apply soundPark_kept
    | with_reducible apply soundDrive_kept
    | with_reducible apply State.setSound_kept
    | with_reducible apply soundFail_kept
    | with_reducible apply soundEnds_kept
    | with_reducible apply kept_ite
    | split
    | (show _ = _; rfl)
    | (simp only [kept_mk]; with_reducible refine KeptParts.of ?_ ?_ ?_ ?_ ?_)

theorem soundDone_kept {c : Nat} {trips : List Nat} (hk : Kept ql flo rvk stg s) : Kept ql flo rvk stg (soundDone c trips s) := by
  unfold soundDone
  try dsimp only
  repeat' first
    | with_reducible assumption
    | with_reducible refine State.atDue_kept ?_ (fun _ _ => ?_)
    | with_reducible apply soundResult_kept
    | with_reducible refine foldl_kept ?_ (fun _ _ _ => ?_)
    | with_reducible apply kept_ite
    | split
    | (show _ = _; rfl)
    | (simp only [kept_mk]; with_reducible refine KeptParts.of ?_ ?_ ?_ ?_ ?_)

theorem soundNoEcho_kept {c r : Nat} (hk : Kept ql flo rvk stg s) : Kept ql flo rvk stg (soundNoEcho c r s) := by
  unfold soundNoEcho
  try dsimp only
  repeat' first
    | with_reducible assumption
    | with_reducible refine State.atDue_kept ?_ (fun _ _ => ?_)
    | with_reducible apply soundFail_kept
    | with_reducible apply kept_ite
    | split
    | (show _ = _; rfl)
    | (simp only [kept_mk]; with_reducible refine KeptParts.of ?_ ?_ ?_ ?_ ?_)

theorem soundInvalid_kept {c : Nat} (hk : Kept ql flo rvk stg s) : Kept ql flo rvk stg (soundInvalid c s) := by
  unfold soundInvalid
  try dsimp only
  repeat' first
    | with_reducible assumption
    | with_reducible apply State.setFld_kept
    | with_reducible apply State.setBit_kept
    | with_reducible apply kept_ite
    | split
    | (show _ = _; rfl)
    | (simp only [kept_mk]; with_reducible refine KeptParts.of ?_ ?_ ?_ ?_ ?_)

theorem soundReplaced_kept {c : Nat} (hk : Kept ql flo rvk stg s) : Kept ql flo rvk stg (soundReplaced c s) := by
  unfold soundReplaced
  try dsimp only
  repeat' first
    | with_reducible assumption
    | with_reducible apply State.setFld_kept
    | with_reducible apply State.setBit_kept
    | with_reducible apply State.setSound_kept

theorem State.soundsDrive_kept  (hk : Kept ql flo rvk stg s) : Kept ql flo rvk stg (State.soundsDrive s) := by
  unfold State.soundsDrive
  try dsimp only
  repeat' first
    | with_reducible assumption
    | with_reducible apply soundDrive_kept
    | with_reducible refine each_kept ?_ (fun _ _ _ => ?_)

theorem State.autoSound_kept  (hk : Kept ql flo rvk stg s) : Kept ql flo rvk stg (State.autoSound s) := by
  unfold State.autoSound
  try dsimp only
  repeat' first
    | with_reducible assumption
    | with_reducible apply soundBegin_kept
    | with_reducible refine each_kept ?_ (fun _ _ _ => ?_)
    | with_reducible apply kept_ite
    | split

theorem waitDetach_kept {h d : Nat} {w : WaitGroup} (hk : Kept ql flo rvk stg s) : Kept ql flo rvk stg (waitDetach h d w s) := by
  unfold waitDetach
  try dsimp only
  repeat' first
    | with_reducible assumption
    | with_reducible apply State.putCtx_kept
    | with_reducible apply waitEnds_kept
    | with_reducible apply detach_kept
    | (show _ = _; rfl)
    | (simp only [kept_mk]; with_reducible refine KeptParts.of ?_ ?_ ?_ ?_ ?_)

theorem waitTimeout_kept {h : Nat} (hk : Kept ql flo rvk stg s) : Kept ql flo rvk stg (waitTimeout h s) := by
  unfold waitTimeout
  try dsimp only
  repeat' first
    | with_reducible assumption
    | with_reducible apply State.putCtx_kept
    | with_reducible apply waitEnd_kept
    | split
    | (show _ = _; rfl)
    | (simp only [kept_mk]; with_reducible refine KeptParts.of ?_ ?_ ?_ ?_ ?_)

theorem waitsTick_kept {h : Nat} (hk : Kept ql flo rvk stg s) : Kept ql flo rvk stg (waitsTick h s) := by
  unfold waitsTick
  try dsimp only
  repeat' first
    | with_reducible assumption
    | with_reducible apply State.putCtx_kept
    | with_reducible apply waitDetach_kept
    | with_reducible apply waitTimeout_kept
    | with_reducible refine each_kept ?_ (fun _ _ _ => ?_)
    | with_reducible apply kept_ite
    | split
    | (show _ = _; rfl)
    | (simp only [kept_mk]; with_reducible refine KeptParts.of ?_ ?_ ?_ ?_ ?_)

theorem State.disabledLeave_kept  (hk : Kept ql flo rvk stg s) : Kept ql flo rvk stg (State.disabledLeave s) := by
  unfold State.disabledLeave
  try dsimp only
  repeat' first
    | with_reducible assumption
    | with_reducible apply siteLeave_kept
    | with_reducible apply emptyEnd_kept
    | with_reducible refine each_kept ?_ (fun _ _ _ => ?_)
    | (show _ = _; rfl)
    | (simp only [kept_mk]; with_reducible refine KeptParts.of ?_ ?_ ?_ ?_ ?_)

theorem State.abortDisable_kept  (hk : Kept ql flo rvk stg s) : Kept ql flo rvk stg (State.abortDisable s) := by
  unfold State.abortDisable
  try dsimp only
  repeat' first
    | with_reducible assumption
    | with_reducible apply State.setSite_kept
    | with_reducible apply State.disableNow_kept
    | with_reducible refine each_kept ?_ (fun _ _ _ => ?_)
    | (show _ = _; rfl)
    | (simp only [kept_mk]; with_reducible refine KeptParts.of ?_ ?_ ?_ ?_ ?_)

theorem State.abortsJudged_kept  (hk : Kept ql flo rvk stg s) : Kept ql flo rvk stg (State.abortsJudged s) := by
  unfold State.abortsJudged
  try dsimp only
  repeat' first
    | with_reducible assumption
    | with_reducible apply abortCheck_kept
    | with_reducible refine each_kept ?_ (fun _ _ _ => ?_)

theorem State.allWaits_kept  (hk : Kept ql flo rvk stg s) : Kept ql flo rvk stg (State.allWaits s) := by
  unfold State.allWaits
  try dsimp only
  repeat' first
    | with_reducible assumption
    | with_reducible apply waitsTick_kept
    | with_reducible refine each_kept ?_ (fun _ _ _ => ?_)

end Sys2Proof.Machine
end

