-- ==== Sys2Proof/Laws/Keep/Store.lean ====
section
/-!
SUPPORT. Laws/Keep/Store.lean: the operations of Machine/Store.lean keep the queue, the rollback floor, the revoked keys, the stage and
the canonical form of the stored state (`Kept`).
-/

set_option linter.unusedTactic false
set_option linter.unreachableTactic false
set_option linter.unusedVariables false

namespace Sys2Proof.Machine

variable {ql : List Instr} {flo rvk : Nat} {stg : Option StageOf} {s : State}

theorem State.dropStore_kept {part a : Nat} (hk : Kept ql flo rvk stg s) : Kept ql flo rvk stg (State.dropStore s part a) := by
  unfold State.dropStore
  try dsimp only
  repeat' first
    | with_reducible assumption
    | with_reducible apply State.wrN_kept
    | with_reducible apply State.setBit_kept
    | with_reducible apply State.setWide_kept
    | with_reducible apply State.inc_kept
    | with_reducible apply kept_ite
    | split
    | (show _ = _; rfl)
    | (simp only [kept_mk]; with_reducible refine KeptParts.of ?_ ?_ ?_ ?_ ?_)

theorem memStoreBlock_kept {dpa : Nat} {data : List Byte} (hk : Kept ql flo rvk stg s) : Kept ql flo rvk stg (memStoreBlock dpa data s) := by
  unfold memStoreBlock
  try dsimp only
  repeat' first
    | with_reducible assumption
    | with_reducible apply State.evt_kept
    | with_reducible apply State.memWrite_kept
    | with_reducible apply State.dropStore_kept
    | with_reducible apply kept_ite
    | split
    | (show _ = _; rfl)
    | (simp only [kept_mk]; with_reducible refine KeptParts.of ?_ ?_ ?_ ?_ ?_)

theorem memLoadBlock_kept {dpa : Nat} (hk : Kept ql flo rvk stg s) : Kept ql flo rvk stg (memLoadBlock dpa s) := by
  unfold memLoadBlock
  try dsimp only
  repeat' first
    | with_reducible assumption
    | with_reducible apply State.evt_kept
    | with_reducible apply kept_ite
    | split
    | (show _ = _; rfl)
    | (simp only [kept_mk]; with_reducible refine KeptParts.of ?_ ?_ ?_ ?_ ?_)

theorem State.partWrite_kept {r : StoreRec} {a : Nat} {l : List Byte} (h : Kept ql flo rvk stg s) : Kept ql flo rvk stg (s.partWrite r a l) := by
  induction l generalizing s a with
  | nil => exact h
  | cons b l ih => exact ih ⟨h.1, h.2, h.3, h.4, h.5.1, tabSet_wf h.5.2.1, h.5.2.2⟩

theorem State.loadGone_kept {tag : Nat} (hk : Kept ql flo rvk stg s) : Kept ql flo rvk stg (State.loadGone s tag) := by
  unfold State.loadGone
  try dsimp only
  repeat' first
    | with_reducible assumption
    | (show _ = _; rfl)
    | (simp only [kept_mk]; with_reducible refine KeptParts.of ?_ ?_ ?_ ?_ ?_)

theorem segLoadDone_kept {tag : Nat} {data : Option (List Byte)} (hk : Kept ql flo rvk stg s) : Kept ql flo rvk stg (segLoadDone tag data s) := by
  unfold segLoadDone
  try dsimp only
  repeat' first
    | with_reducible assumption
    | with_reducible apply State.complete_kept
    | with_reducible apply State.partWrite_kept
    | with_reducible apply State.loadGone_kept
    | split
    | (show _ = _; rfl)
    | (simp only [kept_mk]; with_reducible refine KeptParts.of ?_ ?_ ?_ ?_ ?_)

theorem waveLoadDone_kept {tag : Nat} {data : Option (List Byte)} (hk : Kept ql flo rvk stg s) : Kept ql flo rvk stg (waveLoadDone tag data s) := by
  unfold waveLoadDone
  try dsimp only
  repeat' first
    | with_reducible assumption
    | with_reducible apply State.complete_kept
    | with_reducible apply State.waveWrite_kept
    | with_reducible apply State.loadGone_kept
    | with_reducible apply kept_ite
    | split
    | (show _ = _; rfl)
    | (simp only [kept_mk]; with_reducible refine KeptParts.of ?_ ?_ ?_ ?_ ?_)

theorem segLoadsCast_kept  (hk : Kept ql flo rvk stg s) : Kept ql flo rvk stg (segLoadsCast s) := by
  unfold segLoadsCast
  try dsimp only
  repeat' first
    | with_reducible assumption
    | with_reducible apply State.complete_kept
    | with_reducible refine foldl_kept ?_ (fun _ _ _ => ?_)
    | (show _ = _; rfl)
    | (simp only [kept_mk]; with_reducible refine KeptParts.of ?_ ?_ ?_ ?_ ?_)

theorem State.logBases_kept  (hk : Kept ql flo rvk stg s) : Kept ql flo rvk stg (State.logBases s) := by
  unfold State.logBases
  try dsimp only
  repeat' first
    | with_reducible assumption
    | with_reducible apply State.setWide_kept
    | split
    | (show _ = _; rfl)
    | (simp only [kept_mk]; with_reducible refine KeptParts.of ?_ ?_ ?_ ?_ ?_)

theorem State.showStacks_kept  (hk : Kept ql flo rvk stg s) : Kept ql flo rvk stg (State.showStacks s) := by
  unfold State.showStacks
  try dsimp only
  repeat' first
    | with_reducible assumption
    | with_reducible apply State.setFld_kept

theorem runKill_kept {c code : Nat} (hk : Kept ql flo rvk stg s) : Kept ql flo rvk stg (runKill c code s) := by
  unfold runKill
  try dsimp only
  repeat' first
    | with_reducible assumption
    | with_reducible apply State.setCtx_kept
    | with_reducible apply endRun_kept
    | with_reducible apply kept_ite
    | split
    | (show _ = _; rfl)
    | (simp only [kept_mk]; with_reducible refine KeptParts.of ?_ ?_ ?_ ?_ ?_)

theorem ingotLost_kept {c : Nat} (hk : Kept ql flo rvk stg s) : Kept ql flo rvk stg (ingotLost c s) := by
  unfold ingotLost
  try dsimp only
  repeat' first
    | with_reducible assumption
    | with_reducible apply State.setCtx_kept
    | with_reducible apply endRun_kept
    | with_reducible apply settleTails_kept
    | with_reducible apply runKill_kept
    | with_reducible apply kept_ite
    | split
    | (show _ = _; rfl)
    | (simp only [kept_mk]; with_reducible refine KeptParts.of ?_ ?_ ?_ ?_ ?_)

theorem castOut_kept {q : Nat} (hk : Kept ql flo rvk stg s) : Kept ql flo rvk stg (castOut q s) := by
  unfold castOut
  try dsimp only
  repeat' first
    | with_reducible assumption
    | with_reducible apply State.setBit_kept
    | with_reducible apply State.forceBits_kept
    | with_reducible apply State.calRefuse_kept
    | with_reducible apply acqEndAs_kept
    | with_reducible apply State.logBases_kept
    | with_reducible apply State.showStacks_kept
    | with_reducible apply runKill_kept
    | with_reducible refine each_kept ?_ (fun _ _ _ => ?_)
    | with_reducible apply kept_ite
    | split
    | (show _ = _; rfl)
    | (simp only [kept_mk]; with_reducible refine KeptParts.of ?_ ?_ ?_ ?_ ?_)
    | (simp only [kept_mk]; with_reducible refine KeptParts.ofMem ?_ ?_ ?_ ?_ ?_ (fun hw => memFilter_wf hw))

theorem stackRestore_kept {q : Nat} (hk : Kept ql flo rvk stg s) : Kept ql flo rvk stg (stackRestore q s) := by
  unfold stackRestore
  try dsimp only
  repeat' first
    | with_reducible assumption
    | with_reducible apply State.setBit_kept
    | with_reducible apply State.forceBits_kept
    | with_reducible apply kept_ite
    | split
    | (show _ = _; rfl)
    | (simp only [kept_mk]; with_reducible refine KeptParts.of ?_ ?_ ?_ ?_ ?_)

theorem stackCommit_kept {old : Word} (hk : Kept ql flo rvk stg s) : Kept ql flo rvk stg (stackCommit old s) := by
  unfold stackCommit
  try dsimp only
  repeat' first
    | with_reducible assumption
    | with_reducible apply castOut_kept
    | with_reducible apply stackRestore_kept
    | with_reducible refine each_kept ?_ (fun _ _ _ => ?_)
    | with_reducible apply kept_ite
    | split
    | (show _ = _; rfl)
    | (simp only [kept_mk]; with_reducible refine KeptParts.of ?_ ?_ ?_ ?_ ?_)

theorem stackTested_kept {q : Nat} {pass : Bool} (hk : Kept ql flo rvk stg s) : Kept ql flo rvk stg (stackTested q pass s) := by
  unfold stackTested
  try dsimp only
  repeat' first
    | with_reducible assumption
    | with_reducible apply State.setBit_kept
    | with_reducible apply State.forceBits_kept
    | with_reducible apply State.calRefuse_kept
    | with_reducible apply State.showStacks_kept
    | with_reducible apply kept_ite
    | split
    | (show _ = _; rfl)
    | (simp only [kept_mk]; with_reducible refine KeptParts.of ?_ ?_ ?_ ?_ ?_)

end Sys2Proof.Machine
end

