-- ==== Sys2Proof/Laws/Keep/Casting.lean ====
section
/-!
SUPPORT. Laws/Keep/Casting.lean: the operations of Machine/Casting.lean keep the queue, the rollback floor, the revoked keys, the stage and
the canonical form of the stored state (`Kept`).
-/

set_option linter.unusedTactic false
set_option linter.unreachableTactic false
set_option linter.unusedVariables false

namespace Sys2Proof.Machine

variable {ql : List Instr} {flo rvk : Nat} {stg : Option StageOf} {s : State}

theorem State.showTiles_kept  (hk : Kept ql flo rvk stg s) : Kept ql flo rvk stg (State.showTiles s) := by
  unfold State.showTiles
  try dsimp only
  repeat' first
    | with_reducible assumption
    | with_reducible apply State.setBit_kept
    | with_reducible refine each_kept ?_ (fun _ _ _ => ?_)
    | (show _ = _; rfl)
    | (simp only [kept_mk]; with_reducible refine KeptParts.of ?_ ?_ ?_ ?_ ?_)

theorem State.tileChange_kept {slot : Nat} (hk : Kept ql flo rvk stg s) : Kept ql flo rvk stg (State.tileChange s slot) := by
  unfold State.tileChange
  try dsimp only
  repeat' first
    | with_reducible assumption
    | with_reducible apply State.evt_kept
    | with_reducible apply soundInvalid_kept
    | with_reducible apply State.showTiles_kept
    | with_reducible refine each_kept ?_ (fun _ _ _ => ?_)
    | with_reducible apply kept_ite
    | split
    | (show _ = _; rfl)
    | (simp only [kept_mk]; with_reducible refine KeptParts.of ?_ ?_ ?_ ?_ ?_)

theorem tileFault_kept {slot code : Nat} (hk : Kept ql flo rvk stg s) : Kept ql flo rvk stg (tileFault slot code s) := by
  unfold tileFault
  try dsimp only
  repeat' first
    | with_reducible assumption
    | with_reducible apply State.evt_kept
    | with_reducible apply State.setTile_kept
    | (show _ = _; rfl)
    | (simp only [kept_mk]; with_reducible refine KeptParts.of ?_ ?_ ?_ ?_ ?_)

theorem tileRise_kept {slot : Nat} (hk : Kept ql flo rvk stg s) : Kept ql flo rvk stg (tileRise slot s) := by
  unfold tileRise
  try dsimp only
  repeat' first
    | with_reducible assumption
    | with_reducible apply State.setTile_kept
    | with_reducible apply kept_ite
    | split
    | (show _ = _; rfl)
    | (simp only [kept_mk]; with_reducible refine KeptParts.of ?_ ?_ ?_ ?_ ?_)

theorem tileDebounced_kept {slot : Nat} (hk : Kept ql flo rvk stg s) : Kept ql flo rvk stg (tileDebounced slot s) := by
  unfold tileDebounced
  try dsimp only
  repeat' first
    | with_reducible assumption
    | with_reducible refine State.atDue_kept ?_ (fun _ _ => ?_)
    | with_reducible apply State.setTile_kept
    | with_reducible apply kept_ite
    | split
    | (show _ = _; rfl)
    | (simp only [kept_mk]; with_reducible refine KeptParts.of ?_ ?_ ?_ ?_ ?_)

theorem tileJoin_kept {slot : Nat} (hk : Kept ql flo rvk stg s) : Kept ql flo rvk stg (tileJoin slot s) := by
  unfold tileJoin
  try dsimp only
  repeat' first
    | with_reducible assumption
    | with_reducible apply State.setTile_kept
    | with_reducible apply kept_ite
    | split
    | (show _ = _; rfl)
    | (simp only [kept_mk]; with_reducible refine KeptParts.of ?_ ?_ ?_ ?_ ?_)

theorem tileNoJoin_kept {slot : Nat} (hk : Kept ql flo rvk stg s) : Kept ql flo rvk stg (tileNoJoin slot s) := by
  unfold tileNoJoin
  try dsimp only
  repeat' first
    | with_reducible assumption
    | with_reducible refine State.atDue_kept ?_ (fun _ _ => ?_)
    | with_reducible apply tileFault_kept
    | with_reducible apply kept_ite
    | split
    | (show _ = _; rfl)
    | (simp only [kept_mk]; with_reducible refine KeptParts.of ?_ ?_ ?_ ?_ ?_)

theorem tileRead_kept {slot : Nat} {desc : List Byte} (hk : Kept ql flo rvk stg s) : Kept ql flo rvk stg (tileRead slot desc s) := by
  unfold tileRead
  try dsimp only
  repeat' first
    | with_reducible assumption
    | with_reducible apply State.setTile_kept
    | with_reducible apply tileFault_kept
    | with_reducible apply kept_ite
    | split
    | (show _ = _; rfl)
    | (simp only [kept_mk]; with_reducible refine KeptParts.of ?_ ?_ ?_ ?_ ?_)

theorem State.tilesFound_kept  (hk : Kept ql flo rvk stg s) : Kept ql flo rvk stg (State.tilesFound s) := by
  unfold State.tilesFound
  try dsimp only
  repeat' first
    | with_reducible assumption
    | with_reducible apply State.setTile_kept
    | with_reducible apply State.tileChange_kept
    | with_reducible refine each_kept ?_ (fun _ _ _ => ?_)
    | (show _ = _; rfl)
    | (simp only [kept_mk]; with_reducible refine KeptParts.of ?_ ?_ ?_ ?_ ?_)

theorem tileRemoved_kept {slot : Nat} (hk : Kept ql flo rvk stg s) : Kept ql flo rvk stg (tileRemoved slot s) := by
  unfold tileRemoved
  try dsimp only
  repeat' first
    | with_reducible assumption
    | with_reducible apply State.irqUrgent_kept
    | with_reducible apply State.logSites_kept
    | with_reducible apply State.setTile_kept
    | with_reducible apply State.disableNow_kept
    | with_reducible apply State.refreshPins_kept
    | with_reducible apply State.refreshSlices_kept
    | with_reducible apply State.disabledLeave_kept
    | with_reducible apply State.tileChange_kept
    | with_reducible refine each_kept ?_ (fun _ _ _ => ?_)
    | with_reducible apply kept_ite
    | split
    | (show _ = _; rfl)
    | (simp only [kept_mk]; with_reducible refine KeptParts.of ?_ ?_ ?_ ?_ ?_)

theorem State.castError_kept {recast : Bool} {e : CastErr} (hk : Kept ql flo rvk stg s) : Kept ql flo rvk stg (State.castError s recast e) := by
  unfold State.castError
  try dsimp only
  repeat' first
    | with_reducible assumption
    | with_reducible apply State.wrN_kept
    | with_reducible apply State.setWide_kept
    | with_reducible apply State.evt_kept
    | with_reducible apply kept_ite
    | split

theorem State.loadOver_kept  (hk : Kept ql flo rvk stg s) : Kept ql flo rvk stg (State.loadOver s) := by
  unfold State.loadOver
  try dsimp only
  repeat' first
    | with_reducible assumption
    | with_reducible apply State.setFld_kept
    | with_reducible apply kept_ite
    | split
    | (show _ = _; rfl)
    | (simp only [kept_mk]; with_reducible refine KeptParts.of ?_ ?_ ?_ ?_ ?_)

theorem State.recastOver_kept  (hk : Kept ql flo rvk stg s) : Kept ql flo rvk stg (State.recastOver s) := by
  unfold State.recastOver
  try dsimp only
  repeat' first
    | with_reducible assumption
    | with_reducible apply State.setFld_kept
    | (show _ = _; rfl)
    | (simp only [kept_mk]; with_reducible refine KeptParts.of ?_ ?_ ?_ ?_ ?_)

theorem loadEnds_kept {e : CastErr} (hk : Kept ql flo rvk stg s) : Kept ql flo rvk stg (loadEnds e s) := by
  unfold loadEnds
  try dsimp only
  repeat' first
    | with_reducible assumption
    | with_reducible apply State.complete_kept
    | with_reducible apply State.castError_kept
    | with_reducible apply State.loadOver_kept
    | split
    | (show _ = _; rfl)
    | (simp only [kept_mk]; with_reducible refine KeptParts.of ?_ ?_ ?_ ?_ ?_)

theorem recastEnds_kept {e : CastErr} (hk : Kept ql flo rvk stg s) : Kept ql flo rvk stg (recastEnds e s) := by
  unfold recastEnds
  try dsimp only
  repeat' first
    | with_reducible assumption
    | with_reducible apply State.complete_kept
    | with_reducible apply State.castError_kept
    | with_reducible apply State.recastOver_kept
    | split
    | (show _ = _; rfl)
    | (simp only [kept_mk]; with_reducible refine KeptParts.of ?_ ?_ ?_ ?_ ?_)

theorem loadBegin_kept {tag : Nat} {e : List Byte} (hk : Kept ql flo rvk stg s) : Kept ql flo rvk stg (loadBegin tag e s) := by
  unfold loadBegin
  try dsimp only
  repeat' first
    | with_reducible assumption
    | with_reducible apply State.setFld_kept
    | with_reducible apply kept_ite
    | split
    | (show _ = _; rfl)
    | (simp only [kept_mk]; with_reducible refine KeptParts.of ?_ ?_ ?_ ?_ ?_)

theorem castChecked_kept {data : Option (List Byte)} (hk : Kept ql flo rvk stg s) : Kept ql flo rvk stg (castChecked data s) := by
  unfold castChecked
  try dsimp only
  repeat' first
    | with_reducible assumption
    | with_reducible apply loadEnds_kept
    | with_reducible apply kept_ite
    | split
    | (show _ = _; rfl)
    | (simp only [kept_mk]; with_reducible refine KeptParts.of ?_ ?_ ?_ ?_ ?_)

theorem State.outridersCast_kept {k : Casting} (hk : Kept ql flo rvk stg s) : Kept ql flo rvk stg (State.outridersCast s k) := by
  unfold State.outridersCast
  try dsimp only
  repeat' first
    | with_reducible assumption
    | with_reducible apply State.setFld_kept
    | with_reducible apply State.setBit_kept
    | with_reducible apply State.takeover_kept
    | with_reducible apply State.handback_kept
    | with_reducible apply channelEnd_kept
    | with_reducible refine each_kept ?_ (fun _ _ _ => ?_)
    | with_reducible apply kept_ite
    | split
    | (show _ = _; rfl)
    | (simp only [kept_mk]; with_reducible refine KeptParts.of ?_ ?_ ?_ ?_ ?_)

theorem State.setIdentity_kept {d : List Byte} (hk : Kept ql flo rvk stg s) : Kept ql flo rvk stg (State.setIdentity s d) := by
  unfold State.setIdentity
  try dsimp only
  repeat' first
    | with_reducible assumption
    | with_reducible apply State.setWords_kept
    | (show _ = _; rfl)
    | (simp only [kept_mk]; with_reducible refine KeptParts.of ?_ ?_ ?_ ?_ ?_)

theorem caravanCast_kept {await : List Await} {r : CaravanRec} (hk : Kept ql flo rvk stg s) : Kept ql flo rvk stg (caravanCast await s r) := by
  unfold caravanCast
  try dsimp only
  repeat' first
    | with_reducible assumption
    | with_reducible apply State.force_kept
    | with_reducible apply State.setCtx_kept
    | with_reducible apply kept_ite
    | split
    | (show _ = _; rfl)
    | (simp only [kept_mk]; with_reducible refine KeptParts.of ?_ ?_ ?_ ?_ ?_)

theorem State.nvBegin_kept {kind : TxnKind} {bytes : Nat} (hk : Kept ql flo rvk stg s) : Kept ql flo rvk stg (State.nvBegin s kind bytes) := by
  unfold State.nvBegin
  try dsimp only
  repeat' first
    | with_reducible assumption
    | with_reducible apply State.showNv_kept
    | (show _ = _; rfl)
    | (simp only [kept_mk]; with_reducible refine KeptParts.of ?_ ?_ ?_ ?_ ?_)

theorem applyFull_kept {j : CastJob} {k : Casting} (hk : Kept ql flo rvk stg s) : Kept ql flo rvk stg (applyFull j k s) := by
  unfold applyFull
  try dsimp only
  repeat' first
    | with_reducible assumption
    | with_reducible apply State.wrN_kept
    | with_reducible apply State.setBit_kept
    | with_reducible apply State.setWide_kept
    | with_reducible apply State.force_kept
    | with_reducible apply State.evt_kept
    | with_reducible apply State.complete_kept
    | with_reducible apply State.refreshPins_kept
    | with_reducible apply awgRoutesKept_kept
    | with_reducible apply acqRoutesKept_kept
    | with_reducible apply defineSite_kept
    | with_reducible apply sharesFull_kept
    | with_reducible apply State.refreshSlices_kept
    | with_reducible apply State.ceilings_kept
    | with_reducible apply State.groupsCast_kept
    | with_reducible apply soundReplaced_kept
    | with_reducible apply segLoadsCast_kept
    | with_reducible apply State.showTiles_kept
    | with_reducible apply State.loadOver_kept
    | with_reducible apply State.outridersCast_kept
    | with_reducible apply State.setIdentity_kept
    | with_reducible apply caravanCast_kept
    | with_reducible apply State.nvBegin_kept
    | with_reducible refine each_kept ?_ (fun _ _ _ => ?_)
    | with_reducible refine foldl_kept ?_ (fun _ _ _ => ?_)
    | with_reducible apply kept_ite
    | split
    | (show _ = _; rfl)
    | (simp only [kept_mk]; with_reducible refine KeptParts.of ?_ ?_ ?_ ?_ ?_)

theorem castLoadApply_kept  (hk : Kept ql flo rvk stg s) : Kept ql flo rvk stg (castLoadApply s) := by
  unfold castLoadApply
  try dsimp only
  repeat' first
    | with_reducible assumption
    | with_reducible apply loadEnds_kept
    | with_reducible apply applyFull_kept
    | with_reducible apply kept_ite
    | split
    | (show _ = _; rfl)
    | (simp only [kept_mk]; with_reducible refine KeptParts.of ?_ ?_ ?_ ?_ ?_)

theorem recastBegin_kept {tag : Nat} {e : List Byte} {header : Option (List Byte)} (hk : Kept ql flo rvk stg s) : Kept ql flo rvk stg (recastBegin tag e header s) := by
  unfold recastBegin
  try dsimp only
  repeat' first
    | with_reducible assumption
    | with_reducible apply State.setFld_kept
    | with_reducible apply recastEnds_kept
    | with_reducible apply kept_ite
    | split
    | (show _ = _; rfl)
    | (simp only [kept_mk]; with_reducible refine KeptParts.of ?_ ?_ ?_ ?_ ?_)

theorem recastReady_kept {data : Option (List Byte)} (hk : Kept ql flo rvk stg s) : Kept ql flo rvk stg (recastReady data s) := by
  unfold recastReady
  try dsimp only
  repeat' first
    | with_reducible assumption
    | with_reducible apply State.setFld_kept
    | with_reducible apply State.arrive_kept
    | with_reducible apply recastEnds_kept
    | with_reducible apply kept_ite
    | split
    | (show _ = _; rfl)
    | (simp only [kept_mk]; with_reducible refine KeptParts.of ?_ ?_ ?_ ?_ ?_)

theorem applyRecast_kept {j : CastJob} {k : Casting} (hk : Kept ql flo rvk stg s) : Kept ql flo rvk stg (applyRecast j k s) := by
  unfold applyRecast
  try dsimp only
  repeat' first
    | with_reducible assumption
    | with_reducible apply State.wrN_kept
    | with_reducible apply State.setBit_kept
    | with_reducible apply State.evt_kept
    | with_reducible apply State.complete_kept
    | with_reducible apply State.disableNow_kept
    | with_reducible apply State.refreshPins_kept
    | with_reducible apply awgRoutesKept_kept
    | with_reducible apply acqRoutesKept_kept
    | with_reducible apply sharesRecast_kept
    | with_reducible apply State.refreshSlices_kept
    | with_reducible apply State.ceilings_kept
    | with_reducible apply State.groupsCast_kept
    | with_reducible apply soundReplaced_kept
    | with_reducible apply State.showTiles_kept
    | with_reducible apply State.recastOver_kept
    | with_reducible apply State.setIdentity_kept
    | with_reducible apply caravanCast_kept
    | with_reducible refine each_kept ?_ (fun _ _ _ => ?_)
    | with_reducible refine foldl_kept ?_ (fun _ _ _ => ?_)
    | (show _ = _; rfl)
    | (simp only [kept_mk]; with_reducible refine KeptParts.of ?_ ?_ ?_ ?_ ?_)

theorem recastTick_kept  (hk : Kept ql flo rvk stg s) : Kept ql flo rvk stg (recastTick s) := by
  unfold recastTick
  try dsimp only
  repeat' first
    | with_reducible assumption
    | with_reducible apply recastEnds_kept
    | with_reducible apply applyRecast_kept
    | with_reducible apply kept_ite
    | split
    | (show _ = _; rfl)
    | (simp only [kept_mk]; with_reducible refine KeptParts.of ?_ ?_ ?_ ?_ ?_)

theorem castCancel_kept {tag : Nat} (hk : Kept ql flo rvk stg s) : Kept ql flo rvk stg (castCancel tag s) := by
  unfold castCancel
  try dsimp only
  repeat' first
    | with_reducible assumption
    | with_reducible apply State.complete_kept
    | with_reducible apply recastEnds_kept
    | with_reducible apply kept_ite
    | split
    | (show _ = _; rfl)
    | (simp only [kept_mk]; with_reducible refine KeptParts.of ?_ ?_ ?_ ?_ ?_)

theorem storeDone_kept  (hk : Kept ql flo rvk stg s) : Kept ql flo rvk stg (storeDone s) := by
  unfold storeDone
  try dsimp only
  repeat' first
    | with_reducible assumption
    | with_reducible apply State.evt_kept
    | with_reducible apply State.showNv_kept
    | split
    | (show _ = _; rfl)
    | (simp only [kept_mk]; with_reducible refine KeptParts.of ?_ ?_ ?_ ?_ ?_)

end Sys2Proof.Machine
end

