-- ==== Sys2Proof/Laws/Keep/Convoy.lean ====
section
/-!
SUPPORT. Laws/Keep/Convoy.lean: the operations of Machine/Convoy.lean keep the queue, the rollback floor, the revoked keys, the stage and
the canonical form of the stored state (`Kept`).
-/

set_option linter.unusedTactic false
set_option linter.unreachableTactic false
set_option linter.unusedVariables false

namespace Sys2Proof.Machine

variable {ql : List Instr} {flo rvk : Nat} {stg : Option StageOf} {s : State}

theorem State.setUpstream_kept  (hk : Kept ql flo rvk stg s) : Kept ql flo rvk stg (State.setUpstream s) := by
  unfold State.setUpstream
  try dsimp only
  repeat' first
    | with_reducible assumption
    | (show _ = _; rfl)
    | (simp only [kept_mk]; with_reducible refine KeptParts.of ?_ ?_ ?_ ?_ ?_)

theorem State.holdover_kept  (hk : Kept ql flo rvk stg s) : Kept ql flo rvk stg (State.holdover s) := by
  unfold State.holdover
  try dsimp only
  repeat' first
    | with_reducible assumption
    | with_reducible apply State.setFld_kept
    | with_reducible apply State.setBit_kept
    | with_reducible apply State.evt_kept
    | with_reducible apply State.convoyLog_kept
    | with_reducible apply State.setUpstream_kept
    | with_reducible apply kept_ite
    | split
    | (show _ = _; rfl)
    | (simp only [kept_mk]; with_reducible refine KeptParts.of ?_ ?_ ?_ ?_ ?_)

theorem State.fragmentMerge_kept {west : Bool} (hk : Kept ql flo rvk stg s) : Kept ql flo rvk stg (State.fragmentMerge s west) := by
  unfold State.fragmentMerge
  try dsimp only
  repeat' first
    | with_reducible assumption
    | with_reducible apply State.setFld_kept
    | with_reducible apply State.setBit_kept
    | with_reducible apply State.setWide_kept
    | with_reducible apply State.setUpstream_kept
    | with_reducible apply kept_ite
    | split
    | (show _ = _; rfl)
    | (simp only [kept_mk]; with_reducible refine KeptParts.of ?_ ?_ ?_ ?_ ?_)

theorem onBeacon_kept {west : Bool} {f : List Byte} (hk : Kept ql flo rvk stg s) : Kept ql flo rvk stg (onBeacon west f s) := by
  unfold onBeacon
  try dsimp only
  repeat' first
    | with_reducible assumption
    | with_reducible apply State.setPort_kept
    | with_reducible apply State.holdover_kept
    | with_reducible apply State.fragmentMerge_kept
    | with_reducible apply kept_ite
    | split
    | (show _ = _; rfl)
    | (simp only [kept_mk]; with_reducible refine KeptParts.of ?_ ?_ ?_ ?_ ?_)

theorem portUpNow_kept {west : Bool} (hk : Kept ql flo rvk stg s) : Kept ql flo rvk stg (portUpNow west s) := by
  unfold portUpNow
  try dsimp only
  repeat' first
    | with_reducible assumption
    | with_reducible apply State.setBit_kept
    | with_reducible apply State.evt_kept
    | with_reducible apply State.setPort_kept
    | with_reducible apply State.convoyLog_kept
    | with_reducible apply State.holdover_kept
    | with_reducible apply State.fragmentMerge_kept
    | with_reducible apply kept_ite
    | split
    | (show _ = _; rfl)
    | (simp only [kept_mk]; with_reducible refine KeptParts.of ?_ ?_ ?_ ?_ ?_)

theorem portDownNow_kept {west : Bool} (hk : Kept ql flo rvk stg s) : Kept ql flo rvk stg (portDownNow west s) := by
  unfold portDownNow
  try dsimp only
  repeat' first
    | with_reducible assumption
    | with_reducible apply State.setBit_kept
    | with_reducible apply State.evt_kept
    | with_reducible apply State.setPort_kept
    | with_reducible apply State.convoyLog_kept
    | with_reducible apply State.holdover_kept
    | with_reducible apply kept_ite
    | split
    | (show _ = _; rfl)
    | (simp only [kept_mk]; with_reducible refine KeptParts.of ?_ ?_ ?_ ?_ ?_)

theorem State.lanesSee_kept {west : Bool} {seen : List (List LaneSeen)} (hk : Kept ql flo rvk stg s) : Kept ql flo rvk stg (State.lanesSee s west seen) := by
  unfold State.lanesSee
  try dsimp only
  repeat' first
    | with_reducible assumption
    | with_reducible apply State.setPort_kept
    | with_reducible refine foldl_kept ?_ (fun _ _ _ => ?_)
    | (show _ = _; rfl)
    | (simp only [kept_mk]; with_reducible refine KeptParts.of ?_ ?_ ?_ ?_ ?_)

theorem lanesFollow_kept {west : Bool} (hk : Kept ql flo rvk stg s) : Kept ql flo rvk stg (lanesFollow west s) := by
  unfold lanesFollow
  try dsimp only
  repeat' first
    | with_reducible assumption
    | with_reducible apply portDownNow_kept
    | with_reducible apply kept_ite
    | split

theorem State.onFrame_kept {west : Bool} {type : Nat} {lanes : List (List Nat)} {act : List Byte → State → State} (h : Kept ql flo rvk stg s)
    (ha : ∀ f t, Kept ql flo rvk stg t → Kept ql flo rvk stg (act f t)) : Kept ql flo rvk stg (s.onFrame west type lanes act) := by
  unfold State.onFrame
  dsimp only
  repeat' first
    | with_reducible assumption
    | with_reducible apply lanesFollow_kept
    | with_reducible apply State.lanesSee_kept
    | with_reducible apply State.frameBad_kept
    | with_reducible apply ha
    | with_reducible apply kept_ite
    | split

theorem onHello_kept {f : List Byte} (hk : Kept ql flo rvk stg s) : Kept ql flo rvk stg (onHello f s) := by
  unfold onHello
  try dsimp only
  repeat' first
    | with_reducible assumption
    | with_reducible apply kept_ite
    | split
    | (show _ = _; rfl)
    | (simp only [kept_mk]; with_reducible refine KeptParts.of ?_ ?_ ?_ ?_ ?_)

theorem convoyFormed_kept  (hk : Kept ql flo rvk stg s) : Kept ql flo rvk stg (convoyFormed s) := by
  unfold convoyFormed
  try dsimp only
  repeat' first
    | with_reducible assumption
    | with_reducible apply kept_ite
    | split
    | (show _ = _; rfl)
    | (simp only [kept_mk]; with_reducible refine KeptParts.of ?_ ?_ ?_ ?_ ?_)

theorem formedFrom_kept {l : List Hello} (hk : Kept ql flo rvk stg s) : Kept ql flo rvk stg (formedFrom l s) := by
  unfold formedFrom
  try dsimp only
  repeat' first
    | with_reducible assumption
    | with_reducible apply State.wrN_kept
    | with_reducible apply State.setFld_kept
    | with_reducible apply State.setBit_kept
    | with_reducible apply State.setWide_kept
    | with_reducible apply State.evt_kept
    | with_reducible apply State.convoyLog_kept
    | with_reducible apply State.setUpstream_kept
    | split
    | (show _ = _; rfl)
    | (simp only [kept_mk]; with_reducible refine KeptParts.of ?_ ?_ ?_ ?_ ?_)

theorem masterChange_kept {reach : List Nat} (hk : Kept ql flo rvk stg s) : Kept ql flo rvk stg (masterChange reach s) := by
  unfold masterChange
  try dsimp only
  repeat' first
    | with_reducible assumption
    | with_reducible apply kept_ite
    | split
    | (show _ = _; rfl)
    | (simp only [kept_mk]; with_reducible refine KeptParts.of ?_ ?_ ?_ ?_ ?_)

theorem elected_kept {reach : List Nat} (hk : Kept ql flo rvk stg s) : Kept ql flo rvk stg (elected reach s) := by
  unfold elected
  try dsimp only
  repeat' first
    | with_reducible assumption
    | with_reducible apply State.setFld_kept
    | with_reducible apply State.setBit_kept
    | with_reducible apply State.setWide_kept
    | with_reducible apply State.evt_kept
    | with_reducible apply State.convoyLog_kept
    | with_reducible apply State.setUpstream_kept
    | with_reducible apply State.holdover_kept
    | with_reducible apply kept_ite
    | split
    | (show _ = _; rfl)
    | (simp only [kept_mk]; with_reducible refine KeptParts.of ?_ ?_ ?_ ?_ ?_)

theorem State.convoyActs_kept  (hk : Kept ql flo rvk stg s) : Kept ql flo rvk stg (State.convoyActs s) := by
  unfold State.convoyActs
  try dsimp only
  repeat' first
    | with_reducible assumption
    | with_reducible apply formedFrom_kept
    | with_reducible apply elected_kept
    | with_reducible apply kept_ite
    | split
    | (show _ = _; rfl)
    | (simp only [kept_mk]; with_reducible refine KeptParts.of ?_ ?_ ?_ ?_ ?_)

theorem positionFreed_kept {pos : Nat} (hk : Kept ql flo rvk stg s) : Kept ql flo rvk stg (positionFreed pos s) := by
  unfold positionFreed
  try dsimp only
  repeat' first
    | with_reducible assumption
    | with_reducible apply State.wrN_kept
    | with_reducible apply State.setCtx_kept
    | with_reducible apply endRun_kept
    | with_reducible refine each_kept ?_ (fun _ _ _ => ?_)
    | with_reducible apply kept_ite
    | split
    | (show _ = _; rfl)
    | (simp only [kept_mk]; with_reducible refine KeptParts.of ?_ ?_ ?_ ?_ ?_)

theorem linkSounding_kept {west : Bool} {frac : Nat} (hk : Kept ql flo rvk stg s) : Kept ql flo rvk stg (linkSounding west frac s) := by
  unfold linkSounding
  try dsimp only
  repeat' first
    | with_reducible assumption
    | with_reducible apply State.setPort_kept
    | with_reducible apply State.sendHop_kept
    | with_reducible apply kept_ite
    | split
    | (show _ = _; rfl)
    | (simp only [kept_mk]; with_reducible refine KeptParts.of ?_ ?_ ?_ ?_ ?_)

theorem onSoundReq_kept {west : Bool} {frac dep : Nat} {f : List Byte} (hk : Kept ql flo rvk stg s) : Kept ql flo rvk stg (onSoundReq west frac dep f s) := by
  unfold onSoundReq
  try dsimp only
  repeat' first
    | with_reducible assumption
    | with_reducible apply State.sendHop_kept
    | (show _ = _; rfl)
    | (simp only [kept_mk]; with_reducible refine KeptParts.of ?_ ?_ ?_ ?_ ?_)

theorem State.offsetFound_kept {samples : List Int} (hk : Kept ql flo rvk stg s) : Kept ql flo rvk stg (State.offsetFound s samples) := by
  unfold State.offsetFound
  try dsimp only
  repeat' first
    | with_reducible assumption
    | with_reducible apply State.wrN_kept
    | with_reducible apply State.setFld_kept
    | with_reducible apply State.setBit_kept
    | with_reducible apply State.free_kept
    | with_reducible apply kept_ite
    | split
    | (show _ = _; rfl)
    | (simp only [kept_mk]; with_reducible refine KeptParts.of ?_ ?_ ?_ ?_ ?_)

theorem onSoundEcho_kept {west : Bool} {frac : Nat} {f : List Byte} (hk : Kept ql flo rvk stg s) : Kept ql flo rvk stg (onSoundEcho west frac f s) := by
  unfold onSoundEcho
  try dsimp only
  repeat' first
    | with_reducible assumption
    | with_reducible apply State.setPort_kept
    | with_reducible apply State.offsetFound_kept
    | with_reducible apply kept_ite
    | split
    | (show _ = _; rfl)
    | (simp only [kept_mk]; with_reducible refine KeptParts.of ?_ ?_ ?_ ?_ ?_)

theorem State.reseatTick_kept  (hk : Kept ql flo rvk stg s) : Kept ql flo rvk stg (State.reseatTick s) := by
  unfold State.reseatTick
  try dsimp only
  repeat' first
    | with_reducible assumption
    | with_reducible apply State.setFld_kept
    | with_reducible apply kept_ite
    | split
    | (show _ = _; rfl)
    | (simp only [kept_mk]; with_reducible refine KeptParts.of ?_ ?_ ?_ ?_ ?_)

theorem onTrigger_kept {f : List Byte} (hk : Kept ql flo rvk stg s) : Kept ql flo rvk stg (onTrigger f s) := by
  unfold onTrigger
  try dsimp only
  repeat' first
    | with_reducible assumption
    | with_reducible apply State.evt_kept
    | with_reducible apply State.inc_kept
    | with_reducible apply State.busRaise_kept
    | with_reducible apply kept_ite
    | split
    | (show _ = _; rfl)
    | (simp only [kept_mk]; with_reducible refine KeptParts.of ?_ ?_ ?_ ?_ ?_)

theorem triggerDelivery_kept  (hk : Kept ql flo rvk stg s) : Kept ql flo rvk stg (triggerDelivery s) := by
  unfold triggerDelivery
  try dsimp only
  repeat' first
    | with_reducible assumption
    | with_reducible refine State.atDue_kept ?_ (fun _ _ => ?_)
    | with_reducible apply State.busRaise_kept
    | split
    | (show _ = _; rfl)
    | (simp only [kept_mk]; with_reducible refine KeptParts.of ?_ ?_ ?_ ?_ ?_)

theorem onFail_kept {f : List Byte} (hk : Kept ql flo rvk stg s) : Kept ql flo rvk stg (onFail f s) := by
  unfold onFail
  try dsimp only
  repeat' first
    | with_reducible assumption
    | with_reducible apply State.wrN_kept
    | with_reducible apply State.evt_kept
    | with_reducible apply State.inc_kept
    | with_reducible apply State.groupTrip_kept
    | with_reducible apply kept_ite
    | split
    | (show _ = _; rfl)
    | (simp only [kept_mk]; with_reducible refine KeptParts.of ?_ ?_ ?_ ?_ ?_)

theorem onRendezvous_kept {f : List Byte} (hk : Kept ql flo rvk stg s) : Kept ql flo rvk stg (onRendezvous f s) := by
  unfold onRendezvous
  try dsimp only
  repeat' first
    | with_reducible assumption
    | with_reducible apply kept_ite
    | split
    | (show _ = _; rfl)
    | (simp only [kept_mk]; with_reducible refine KeptParts.of ?_ ?_ ?_ ?_ ?_)

theorem rendezvousRelease_kept {c : Nat} (hk : Kept ql flo rvk stg s) : Kept ql flo rvk stg (rendezvousRelease c s) := by
  unfold rendezvousRelease
  try dsimp only
  repeat' first
    | with_reducible assumption
    | with_reducible apply State.evt_kept
    | with_reducible apply State.inc_kept
    | with_reducible apply State.log_kept
    | with_reducible apply State.setCtx_kept
    | with_reducible apply kept_ite
    | split
    | (show _ = _; rfl)
    | (simp only [kept_mk]; with_reducible refine KeptParts.of ?_ ?_ ?_ ?_ ?_)

theorem rendezvousTimeout_kept {c : Nat} (hk : Kept ql flo rvk stg s) : Kept ql flo rvk stg (rendezvousTimeout c s) := by
  unfold rendezvousTimeout
  try dsimp only
  repeat' first
    | with_reducible assumption
    | with_reducible refine State.atDue_kept ?_ (fun _ _ => ?_)
    | with_reducible apply State.setCtx_kept
    | with_reducible apply endRun_kept
    | with_reducible apply kept_ite
    | split
    | (show _ = _; rfl)
    | (simp only [kept_mk]; with_reducible refine KeptParts.of ?_ ?_ ?_ ?_ ?_)

end Sys2Proof.Machine
end

