-- ==== Sys2Proof/Laws/Keep/Tolls.lean ====
section
/-!
SUPPORT. Laws/Keep/Tolls.lean: the operations of Machine/Tolls.lean keep the queue, the rollback floor, the revoked keys, the stage and
the canonical form of the stored state (`Kept`).
-/

set_option linter.unusedTactic false
set_option linter.unreachableTactic false
set_option linter.unusedVariables false

namespace Sys2Proof.Machine

variable {ql : List Instr} {flo rvk : Nat} {stg : Option StageOf} {s : State}

theorem State.showTrust_kept  (hk : Kept ql flo rvk stg s) : Kept ql flo rvk stg (State.showTrust s) := by
  unfold State.showTrust
  try dsimp only
  repeat' first
    | with_reducible assumption
    | with_reducible apply State.wrN_kept
    | with_reducible apply State.setWide_kept
    | (show _ = _; rfl)
    | (simp only [kept_mk]; with_reducible refine KeptParts.of ?_ ?_ ?_ ?_ ?_)

theorem State.tollRefuse_kept {k code : Nat} (hk : Kept ql flo rvk stg s) : Kept ql flo rvk stg (State.tollRefuse s k code) := by
  unfold State.tollRefuse
  try dsimp only
  repeat' first
    | with_reducible assumption
    | with_reducible apply State.wrN_kept
    | with_reducible apply State.evt_kept
    | with_reducible apply State.inc_kept
    | with_reducible apply State.setToll_kept
    | with_reducible apply kept_ite
    | split
    | (show _ = _; rfl)
    | (simp only [kept_mk]; with_reducible refine KeptParts.of ?_ ?_ ?_ ?_ ?_)

theorem State.tollCheck_kept {e : List Byte} (h : Kept ql flo rvk stg s) : Kept ql flo rvk stg (s.tollCheck e).2 := by
  unfold State.tollCheck
  repeat' first
    | with_reducible assumption
    | with_reducible apply State.tollRefuse_kept
    | with_reducible apply State.setToll_kept
    | split

end Sys2Proof.Machine
end

