-- ==== Sys2Proof/Laws/Keep/Ring.lean ====
section
/-!
SUPPORT. Laws/Keep/Ring.lean: the operations of Machine/Ring.lean keep the queue, the rollback floor, the revoked keys, the stage and
the canonical form of the stored state (`Kept`).
-/

set_option linter.unusedTactic false
set_option linter.unreachableTactic false
set_option linter.unusedVariables false

namespace Sys2Proof.Machine

variable {ql : List Instr} {flo rvk : Nat} {stg : Option StageOf} {s : State}

theorem State.indexWords_kept  (hk : Kept ql flo rvk stg s) : Kept ql flo rvk stg (State.indexWords s) := by
  unfold State.indexWords
  try dsimp only
  repeat' first
    | with_reducible assumption
    | with_reducible apply State.hostWrite_kept

theorem State.takeEntry_kept  (hk : Kept ql flo rvk stg s) : Kept ql flo rvk stg (State.takeEntry s) := by
  unfold State.takeEntry
  try dsimp only
  repeat' first
    | with_reducible assumption
    | with_reducible apply State.wrN_kept
    | with_reducible apply State.indexWords_kept

theorem State.refuseEntry_kept {e : List Byte} {code : Nat} (hk : Kept ql flo rvk stg s) : Kept ql flo rvk stg (State.refuseEntry s e code) := by
  unfold State.refuseEntry
  try dsimp only
  repeat' first
    | with_reducible assumption
    | with_reducible apply State.evt_kept
    | with_reducible apply kept_ite
    | split
    | (show _ = _; rfl)
    | (simp only [kept_mk]; with_reducible refine KeptParts.of ?_ ?_ ?_ ?_ ?_)

theorem State.acceptEntry_kept {e : List Byte} (hk : Kept ql flo rvk stg s) : Kept ql flo rvk stg (State.acceptEntry s e) := by
  unfold State.acceptEntry
  try dsimp only
  repeat' first
    | with_reducible assumption
    | (show _ = _; rfl)
    | (simp only [kept_mk]; with_reducible refine KeptParts.of ?_ ?_ ?_ ?_ ?_)

theorem ringCommand_kept {op : Nat} {e : List Byte} {own : State → Option Nat} {note : Nat → State → State}
    {go : Nat → State → State} (h : Kept ql flo rvk stg s) (hn : ∀ c t, Kept ql flo rvk stg t → Kept ql flo rvk stg (note c t)) (hg : ∀ c t, Kept ql flo rvk stg t → Kept ql flo rvk stg (go c t)) :
    Kept ql flo rvk stg (ringCommand op e own note go s) := by
  unfold ringCommand
  dsimp only
  repeat' first
    | with_reducible assumption
    | with_reducible apply hn
    | with_reducible apply hg
    | with_reducible apply State.refuseEntry_kept
    | with_reducible apply State.acceptEntry_kept
    | with_reducible apply State.takeEntry_kept
    | with_reducible apply State.tollCheck_kept
    | with_reducible apply State.free_kept
    | split

theorem unknownEntry_kept {e : List Byte} (hk : Kept ql flo rvk stg s) : Kept ql flo rvk stg (unknownEntry e s) := by
  unfold unknownEntry
  try dsimp only
  repeat' first
    | with_reducible assumption
    | with_reducible apply State.takeEntry_kept
    | with_reducible apply State.refuseEntry_kept
    | with_reducible apply kept_ite
    | split

theorem ringHeadLost_kept {tag : Nat} (hk : Kept ql flo rvk stg s) : Kept ql flo rvk stg (ringHeadLost tag s) := by
  unfold ringHeadLost
  try dsimp only
  repeat' first
    | with_reducible assumption
    | with_reducible apply State.evt_kept
    | with_reducible apply State.free_kept
    | with_reducible apply State.takeEntry_kept
    | with_reducible apply kept_ite
    | split
    | (show _ = _; rfl)
    | (simp only [kept_mk]; with_reducible refine KeptParts.of ?_ ?_ ?_ ?_ ?_)

theorem State.irqCompletions_kept  (hk : Kept ql flo rvk stg s) : Kept ql flo rvk stg (State.irqCompletions s) := by
  unfold State.irqCompletions
  try dsimp only
  repeat' first
    | with_reducible assumption
    | (show _ = _; rfl)
    | (simp only [kept_mk]; with_reducible refine KeptParts.of ?_ ?_ ?_ ?_ ?_)

theorem State.moderate_kept  (hk : Kept ql flo rvk stg s) : Kept ql flo rvk stg (State.moderate s) := by
  unfold State.moderate
  try dsimp only
  repeat' first
    | with_reducible assumption
    | with_reducible apply State.irqCompletions_kept
    | with_reducible apply kept_ite
    | split
    | (show _ = _; rfl)
    | (simp only [kept_mk]; with_reducible refine KeptParts.of ?_ ?_ ?_ ?_ ?_)

theorem completionWrite_kept  (hk : Kept ql flo rvk stg s) : Kept ql flo rvk stg (completionWrite s) := by
  unfold completionWrite
  try dsimp only
  repeat' first
    | with_reducible assumption
    | with_reducible apply State.wrN_kept
    | with_reducible apply State.hostWrite_kept
    | with_reducible apply State.indexWords_kept
    | with_reducible apply State.moderate_kept
    | with_reducible apply kept_ite
    | split
    | (show _ = _; rfl)
    | (simp only [kept_mk]; with_reducible refine KeptParts.of ?_ ?_ ?_ ?_ ?_)

theorem irqExpiry_kept  (hk : Kept ql flo rvk stg s) : Kept ql flo rvk stg (irqExpiry s) := by
  unfold irqExpiry
  try dsimp only
  repeat' first
    | with_reducible assumption
    | with_reducible refine State.atDue_kept ?_ (fun _ _ => ?_)
    | with_reducible apply State.irqCompletions_kept
    | with_reducible apply kept_ite
    | split

theorem ringReset_kept  (hk : Kept ql flo rvk stg s) : Kept ql flo rvk stg (ringReset s) := by
  unfold ringReset
  try dsimp only
  repeat' first
    | with_reducible assumption
    | with_reducible apply State.wrN_kept
    | with_reducible apply State.evt_kept
    | with_reducible apply State.incBy_kept
    | with_reducible apply State.refuse_kept
    | with_reducible refine foldl_kept ?_ (fun _ _ _ => ?_)
    | with_reducible apply kept_ite
    | split
    | (show _ = _; rfl)
    | (simp only [kept_mk]; with_reducible refine KeptParts.of ?_ ?_ ?_ ?_ ?_)

theorem State.linkLog_kept {up width speed cause : Nat} (hk : Kept ql flo rvk stg s) : Kept ql flo rvk stg (State.linkLog s up width speed cause) := by
  unfold State.linkLog
  try dsimp only
  repeat' first
    | with_reducible assumption
    | with_reducible apply State.log_kept

theorem attachmentReset_kept {cause : Nat} (hk : Kept ql flo rvk stg s) : Kept ql flo rvk stg (attachmentReset cause s) := by
  unfold attachmentReset
  try dsimp only
  repeat' first
    | with_reducible assumption
    | with_reducible apply State.wr_kept
    | with_reducible apply State.setFld_kept
    | with_reducible apply State.evt_kept
    | with_reducible apply State.linkLog_kept
    | (show _ = _; rfl)
    | (simp only [kept_mk]; with_reducible refine KeptParts.of ?_ ?_ ?_ ?_ ?_)

theorem linkUp_kept {width speed : Nat} {ide : Bool} (hk : Kept ql flo rvk stg s) : Kept ql flo rvk stg (linkUp width speed ide s) := by
  unfold linkUp
  try dsimp only
  repeat' first
    | with_reducible assumption
    | with_reducible apply State.setFld_kept
    | with_reducible apply State.setBit_kept
    | with_reducible apply State.evt_kept
    | with_reducible apply State.linkLog_kept
    | (show _ = _; rfl)
    | (simp only [kept_mk]; with_reducible refine KeptParts.of ?_ ?_ ?_ ?_ ?_)

end Sys2Proof.Machine
end

