-- ==== Sys2Proof/Laws/Keep/Trust.lean ====
section
/-!
SUPPORT. Laws/Keep/Trust.lean: the operations of Machine/Trust.lean keep the queue, the rollback floor, the revoked keys, the stage and
the canonical form of the stored state (`Kept`).
-/

set_option linter.unusedTactic false
set_option linter.unreachableTactic false
set_option linter.unusedVariables false

namespace Sys2Proof.Machine

variable {ql : List Instr} {flo rvk : Nat} {stg : Option StageOf} {s : State}

theorem ownerAction_floor {op : Nat} {p : List Byte} {n : NvMem} : (ownerAction op p n).floor = n.floor := by
  unfold ownerAction
  dsimp only
  split <;> rfl

theorem ownerAction_revoked {op : Nat} {p : List Byte} {n : NvMem} : (ownerAction op p n).revoked = n.revoked := by
  unfold ownerAction
  dsimp only
  split <;> rfl

theorem tollNote_kept {c : Nat} (hk : Kept ql flo rvk stg s) : Kept ql flo rvk stg (tollNote c s) := by
  unfold tollNote
  try dsimp only
  repeat' first
    | with_reducible assumption
    | with_reducible apply State.wrN_kept
    | with_reducible apply kept_ite
    | split

theorem ownerDone_kept {op : Nat} {block : Option (List Byte)} {tag : Nat} (hk : Kept ql flo rvk stg s) : Kept ql flo rvk stg (ownerDone op block tag s) := by
  unfold ownerDone
  try dsimp only
  repeat' first
    | with_reducible assumption
    | with_reducible apply State.evt_kept
    | with_reducible apply State.complete_kept
    | with_reducible apply State.showTrust_kept
    | with_reducible apply kept_ite
    | split
    | (show _ = _; rfl)
    | (simp only [kept_mk]; with_reducible refine KeptParts.of ?_ ?_ ?_ ?_ ?_)
    | exact ownerAction_floor
    | exact ownerAction_revoked

theorem ownerCommand_kept {op : Nat} {e : List Byte} {block : Option (List Byte)} (hk : Kept ql flo rvk stg s) : Kept ql flo rvk stg (ownerCommand op e block s) := by
  unfold ownerCommand
  try dsimp only
  repeat' first
    | with_reducible assumption
    | with_reducible refine ringCommand_kept ?_ (fun _ _ _ => ?_) (fun _ _ _ => ?_)
    | with_reducible apply tollNote_kept
    | with_reducible apply ownerDone_kept

theorem attestRun_kept {e : List Byte} {tag : Nat} (hk : Kept ql flo rvk stg s) : Kept ql flo rvk stg (attestRun e tag s) := by
  unfold attestRun
  try dsimp only
  repeat' first
    | with_reducible assumption
    | with_reducible apply State.hostWrite_kept
    | with_reducible apply State.complete_kept
    | (show _ = _; rfl)
    | (simp only [kept_mk]; with_reducible refine KeptParts.of ?_ ?_ ?_ ?_ ?_)

theorem identityRun_kept {e : List Byte} {tag : Nat} (hk : Kept ql flo rvk stg s) : Kept ql flo rvk stg (identityRun e tag s) := by
  unfold identityRun
  try dsimp only
  repeat' first
    | with_reducible assumption
    | with_reducible apply State.hostWrite_kept
    | with_reducible apply State.complete_kept
    | (show _ = _; rfl)
    | (simp only [kept_mk]; with_reducible refine KeptParts.of ?_ ?_ ?_ ?_ ?_)

end Sys2Proof.Machine
end

