-- ==== Sys2Proof/Laws/Keep/Firmware.lean ====
section
/-!
SUPPORT. Laws/Keep/Firmware.lean: the operations of Machine/Firmware.lean keep the queue, the rollback floor, the revoked keys, the stage and
the canonical form of the stored state (`Kept`).
-/

set_option linter.unusedTactic false
set_option linter.unreachableTactic false
set_option linter.unusedVariables false

namespace Sys2Proof.Machine

variable {ql : List Instr} {flo rvk : Nat} {stg : Option StageOf} {s : State}

theorem kept_confirm {nv : NvMem} {hm : Tab (Option Byte)} {t : State} {x y : Nat} (h : Kept ql flo rvk stg t) (hf : nv.floor = max t.nv.floor x)
    (hr : nv.revoked = t.nv.revoked ||| y) (hh : hm = t.host.mem) : KeptParts ql flo rvk stg t.pending t.regs t.mem nv hm t.time := by
  refine ⟨h.1, hf ▸ Nat.le_trans h.2 (Nat.le_max_left _ _), ?_, h.4, by rw [hh]; exact h.5⟩
  rw [hr, ← Nat.or_assoc, h.3]

theorem State.fwWatch_kept  (hk : Kept ql flo rvk stg s) : Kept ql flo rvk stg (State.fwWatch s) := by
  unfold State.fwWatch
  try dsimp only
  repeat' first
    | with_reducible assumption
    | with_reducible apply State.fwAbort_kept
    | split
    | (show _ = _; rfl)
    | (simp only [kept_mk]; with_reducible refine KeptParts.of ?_ ?_ ?_ ?_ ?_)

theorem fwNote_kept {c : Nat} (hk : Kept ql flo rvk stg s) : Kept ql flo rvk stg (fwNote c s) := by
  unfold fwNote
  try dsimp only
  repeat' first
    | with_reducible assumption
    | with_reducible apply State.wrN_kept
    | with_reducible apply State.evt_kept

theorem fwBegin_kept {e : List Byte} {tag : Nat} (hk : Kept ql flo rvk stg s) : Kept ql flo rvk stg (fwBegin e tag s) := by
  unfold fwBegin
  try dsimp only
  repeat' first
    | with_reducible assumption
    | with_reducible apply State.setFld_kept
    | (show _ = _; rfl)
    | (simp only [kept_mk]; with_reducible refine KeptParts.of ?_ ?_ ?_ ?_ ?_)

theorem fwHeaderChecked_kept {data : Option (List Byte)} (hk : Kept ql flo rvk stg s) : Kept ql flo rvk stg (fwHeaderChecked data s) := by
  unfold fwHeaderChecked
  try dsimp only
  repeat' first
    | with_reducible assumption
    | with_reducible apply State.setFld_kept
    | with_reducible apply State.setFwSlot_kept
    | with_reducible apply State.showFw_kept
    | with_reducible apply State.showNv_kept
    | with_reducible apply State.fwEnd_kept
    | with_reducible apply kept_ite
    | split
    | (show _ = _; rfl)
    | (simp only [kept_mk]; with_reducible refine KeptParts.of ?_ ?_ ?_ ?_ ?_)

theorem fwWriteDone_kept {data : Option (List Byte)} (hk : Kept ql flo rvk stg s) : Kept ql flo rvk stg (fwWriteDone data s) := by
  unfold fwWriteDone
  try dsimp only
  repeat' first
    | with_reducible assumption
    | with_reducible apply State.wrN_kept
    | with_reducible apply State.setFld_kept
    | with_reducible apply State.evt_kept
    | with_reducible apply State.complete_kept
    | with_reducible apply State.setFwSlot_kept
    | with_reducible apply State.showFw_kept
    | with_reducible apply State.showNv_kept
    | with_reducible apply State.fwEnd_kept
    | with_reducible apply kept_ite
    | split
    | (show _ = _; rfl)
    | (simp only [kept_mk]; with_reducible refine KeptParts.of ?_ ?_ ?_ ?_ ?_)

theorem activateRun_kept {e : List Byte} {tag : Nat} (hk : Kept ql flo rvk stg s) : Kept ql flo rvk stg (activateRun e tag s) := by
  unfold activateRun
  try dsimp only
  repeat' first
    | with_reducible assumption
    | with_reducible apply State.wrN_kept
    | with_reducible apply State.setFld_kept
    | with_reducible apply State.complete_kept
    | (show _ = _; rfl)
    | (simp only [kept_mk]; with_reducible refine KeptParts.of ?_ ?_ ?_ ?_ ?_)

theorem fwConfirmNow_kept (hk : Kept ql flo rvk stg s) : Kept ql flo rvk stg (fwConfirmNow s) := by
  unfold fwConfirmNow
  dsimp only
  apply State.evt_kept
  apply State.showFw_kept
  simp only [kept_mk]
  exact kept_confirm hk rfl rfl rfl

end Sys2Proof.Machine
end

