-- ==== Sys2Proof/Laws/Keep/Start.lean ====
section
/-!
SUPPORT. Laws/Keep/Start.lean: the operations of Machine/Start.lean keep the queue, the rollback floor, the revoked keys, the stage and
the canonical form of the stored state (`Kept`).
-/

set_option linter.unusedTactic false
set_option linter.unreachableTactic false
set_option linter.unusedVariables false

namespace Sys2Proof.Machine

variable {ql : List Instr} {flo rvk : Nat} {stg : Option StageOf} {s : State}

theorem atStart_floor {n : NvMem} : n.atStart.floor = n.floor := rfl
theorem atStart_revoked {n : NvMem} : n.atStart.revoked = n.revoked := rfl

theorem setSlot_floor {n : NvMem} {b : Bool} {x : FwSlot} : (n.setSlot b x).floor = n.floor := by cases b <;> rfl
theorem setSlot_revoked {n : NvMem} {b : Bool} {x : FwSlot} : (n.setSlot b x).revoked = n.revoked := by cases b <;> rfl

theorem romTry_floor {n : NvMem} {o : Option Bool} {l : List Bool} : (n.romTry o l).1.floor = n.floor := by
  induction l generalizing n with
  | nil => rfl
  | cons b l ih =>
    unfold NvMem.romTry
    dsimp only
    split
    · exact setSlot_floor
    · rw [ih, setSlot_floor]

theorem romTry_revoked {n : NvMem} {o : Option Bool} {l : List Bool} : (n.romTry o l).1.revoked = n.revoked := by
  induction l generalizing n with
  | nil => rfl
  | cons b l ih =>
    unfold NvMem.romTry
    dsimp only
    split
    · exact setSlot_revoked
    · rw [ih, setSlot_revoked]

theorem setWide_host {s : State} {a n v : Nat} : (s.setWide a n v).host = s.host := by
  induction n generalizing s a v with
  | zero => rfl
  | succ n ih => exact ih

theorem setWide_mem {s : State} {a n v : Nat} : (s.setWide a n v).mem = s.mem := by
  induction n generalizing s a v with
  | zero => rfl
  | succ n ih => exact ih

theorem setWide_regs {s : State} {a n v : Nat} (h : Registers.wf s.regs = true) : Registers.wf (s.setWide a n v).regs = true := by
  induction n generalizing s a v with
  | zero => exact h
  | succ n ih => exact ih (s := s.wrN a v) (tabSet_wf h)

theorem State.cleared_kept {phase : Nat} {held : Bool} (h : Kept ql flo rvk none s) : Kept ql flo rvk none (s.cleared phase held) := by
  refine ⟨h.1, h.2, h.3, (fun x hx => nomatch hx), ?_, ?_, h.5.2.2⟩
  · exact setWide_regs (setWide_regs rfl)
  · show Memory.wf (State.setWide (State.setWide _ _ _ _) _ _ _).mem = true
    rw [setWide_mem, setWide_mem]
    rfl

theorem State.settingsLoad_kept  (hk : Kept ql flo rvk stg s) : Kept ql flo rvk stg (State.settingsLoad s) := by
  unfold State.settingsLoad
  try dsimp only
  repeat' first
    | with_reducible assumption
    | with_reducible apply State.force_kept
    | with_reducible apply State.evt_kept
    | with_reducible apply kept_ite
    | split
    | (show _ = _; rfl)
    | (simp only [kept_mk]; with_reducible refine KeptParts.of ?_ ?_ ?_ ?_ ?_)

theorem State.showStart_kept {hardTrip : Bool} (hk : Kept ql flo rvk stg s) : Kept ql flo rvk stg (State.showStart s hardTrip) := by
  unfold State.showStart
  try dsimp only
  repeat' first
    | with_reducible assumption
    | with_reducible apply State.setBit_kept
    | with_reducible apply State.force_kept
    | with_reducible apply State.showFw_kept
    | with_reducible apply State.logBases_kept
    | with_reducible apply State.showStacks_kept
    | with_reducible apply State.showTrust_kept
    | with_reducible apply hardTrip_kept
    | (show _ = _; rfl)
    | (simp only [kept_mk]; with_reducible refine KeptParts.of ?_ ?_ ?_ ?_ ?_)

theorem bootNow_kept (h : Kept ql flo rvk none s) : Kept ql flo rvk none (bootNow s) := by
  unfold bootNow
  dsimp only
  have hc : Kept ql flo rvk none { s.cleared 1 false with nv := (s.nv.atStart.romTry s.start.next (s.nv.atStart.candidates s.start.next)).1 } := by
    have h1 : Kept ql flo rvk none (s.cleared 1 false) := State.cleared_kept h
    refine ⟨h1.1, ?_, ?_, h1.4, h1.5⟩
    · show flo ≤ (s.nv.atStart.romTry s.start.next _).1.floor
      rw [romTry_floor]; exact h.2
    · show rvk ||| (s.nv.atStart.romTry s.start.next _).1.revoked = (s.nv.atStart.romTry s.start.next _).1.revoked
      rw [romTry_revoked]; exact h.3
  have h2 : Kept ql flo rvk none { (s.cleared 1 false) with
      nv := (s.nv.atStart.romTry s.start.next (s.nv.atStart.candidates s.start.next)).1
      start := { (s.cleared 1 false).start with rolledBack := s.start.rolledBack } } := kept_upd hc rfl rfl rfl rfl rfl rfl rfl
  have h3 : Kept ql flo rvk none (if s.start.rolledBack then (State.wrN { (s.cleared 1 false) with
      nv := (s.nv.atStart.romTry s.start.next (s.nv.atStart.candidates s.start.next)).1
      start := { (s.cleared 1 false).start with rolledBack := s.start.rolledBack } } FWU_CODE 0x1822) else { (s.cleared 1 false) with
      nv := (s.nv.atStart.romTry s.start.next (s.nv.atStart.candidates s.start.next)).1
      start := { (s.cleared 1 false).start with rolledBack := s.start.rolledBack } }) := kept_ite (State.wrN_kept h2) h2
  split
  · exact State.recordLoad_kept (State.settingsLoad_kept (State.showStart_kept h3))
  · exact State.setBit_kept (State.showStart_kept (kept_upd h3 rfl rfl rfl rfl rfl rfl rfl))

theorem moduleStart_kept {hot : Bool} (hk : Kept ql flo rvk none s) : Kept ql flo rvk none (moduleStart hot s) := by
  unfold moduleStart
  try dsimp only
  repeat' first
    | with_reducible assumption
    | with_reducible apply State.cleared_kept
    | with_reducible apply bootNow_kept
    | with_reducible apply kept_ite
    | split
    | (show _ = _; rfl)
    | (simp only [kept_mk]; with_reducible refine KeptParts.ofNone ?_ ?_ ?_ ?_)

theorem resetAssert_kept  (hk : Kept ql flo rvk none s) : Kept ql flo rvk none (resetAssert s) := by
  unfold resetAssert
  try dsimp only
  repeat' first
    | with_reducible assumption
    | with_reducible apply State.cleared_kept

theorem powerLoss_kept  (hk : Kept ql flo rvk none s) : Kept ql flo rvk none (powerLoss s) := by
  unfold powerLoss
  try dsimp only
  repeat' first
    | with_reducible assumption
    | with_reducible apply State.cleared_kept
    | with_reducible apply hardTrip_kept
    | (show _ = _; rfl)
    | (simp only [kept_mk]; with_reducible refine KeptParts.ofNone ?_ ?_ ?_ ?_)

theorem hardTrip_kept  (hk : Kept ql flo rvk none s) : Kept ql flo rvk none (hardTrip s) := by
  unfold hardTrip
  try dsimp only
  repeat' first
    | with_reducible assumption
    | with_reducible apply State.cleared_kept
    | with_reducible apply kept_ite
    | split
    | (show _ = _; rfl)
    | (simp only [kept_mk]; with_reducible refine KeptParts.ofNone ?_ ?_ ?_ ?_)

theorem trialFails_kept  (hk : Kept ql flo rvk none s) : Kept ql flo rvk none (trialFails s) := by
  unfold trialFails
  try dsimp only
  repeat' first
    | with_reducible assumption
    | with_reducible apply State.wrN_kept
    | with_reducible apply State.setFwSlot_kept
    | with_reducible apply State.showFw_kept
    | with_reducible apply State.cleared_kept
    | with_reducible apply kept_ite
    | split
    | (show _ = _; rfl)
    | (simp only [kept_mk]; with_reducible refine KeptParts.ofNone ?_ ?_ ?_ ?_)

theorem trialReadyTimeout_kept  (hk : Kept ql flo rvk none s) : Kept ql flo rvk none (trialReadyTimeout s) := by
  unfold trialReadyTimeout
  try dsimp only
  repeat' first
    | with_reducible assumption
    | with_reducible refine State.atDue_kept ?_ (fun _ _ => ?_)
    | with_reducible apply trialFails_kept
    | with_reducible apply kept_ite
    | split

theorem controllerTimeout_kept {ctl : Nat} (hk : Kept ql flo rvk none s) : Kept ql flo rvk none (controllerTimeout ctl s) := by
  unfold controllerTimeout
  try dsimp only
  repeat' first
    | with_reducible assumption
    | with_reducible apply State.forceBits_kept
    | with_reducible apply State.setIsoStat_kept
    | with_reducible apply trialFails_kept
    | with_reducible apply kept_ite
    | split
    | (show _ = _; rfl)
    | (simp only [kept_mk]; with_reducible refine KeptParts.ofNone ?_ ?_ ?_ ?_)

theorem moduleReady_kept  (hk : Kept ql flo rvk stg s) : Kept ql flo rvk stg (moduleReady s) := by
  unfold moduleReady
  try dsimp only
  repeat' first
    | with_reducible assumption
    | with_reducible apply State.setBit_kept
    | with_reducible apply State.evt_kept
    | with_reducible apply fwConfirmNow_kept
    | with_reducible apply kept_ite
    | split
    | (show _ = _; rfl)
    | (simp only [kept_mk]; with_reducible refine KeptParts.of ?_ ?_ ?_ ?_ ?_)

theorem fwCfgCommit_kept  (hk : Kept ql flo rvk stg s) : Kept ql flo rvk stg (fwCfgCommit s) := by
  unfold fwCfgCommit
  try dsimp only
  repeat' first
    | with_reducible assumption
    | with_reducible apply kept_ite
    | split
    | (show _ = _; rfl)
    | (simp only [kept_mk]; with_reducible refine KeptParts.of ?_ ?_ ?_ ?_ ?_)

theorem nvPageDone_kept  (hk : Kept ql flo rvk stg s) : Kept ql flo rvk stg (nvPageDone s) := by
  unfold nvPageDone
  try dsimp only
  repeat' first
    | with_reducible assumption
    | with_reducible apply kept_ite
    | split
    | (show _ = _; rfl)
    | (simp only [kept_mk]; with_reducible refine KeptParts.of ?_ ?_ ?_ ?_ ?_)

theorem nvCommit_kept  (hk : Kept ql flo rvk stg s) : Kept ql flo rvk stg (nvCommit s) := by
  unfold nvCommit
  try dsimp only
  repeat' first
    | with_reducible assumption
    | with_reducible apply State.complete_kept
    | with_reducible apply State.showNv_kept
    | with_reducible apply storeDone_kept
    | split
    | (show _ = _; rfl)
    | (simp only [kept_mk]; with_reducible refine KeptParts.of ?_ ?_ ?_ ?_ ?_)

theorem State.nvEnd_kept {code : Nat} (hk : Kept ql flo rvk stg s) : Kept ql flo rvk stg (State.nvEnd s code) := by
  unfold State.nvEnd
  try dsimp only
  repeat' first
    | with_reducible assumption
    | with_reducible apply State.evt_kept
    | with_reducible apply State.complete_kept
    | with_reducible apply State.showNv_kept
    | with_reducible refine foldl_kept ?_ (fun _ _ _ => ?_)
    | with_reducible apply kept_ite
    | split
    | (show _ = _; rfl)
    | (simp only [kept_mk]; with_reducible refine KeptParts.of ?_ ?_ ?_ ?_ ?_)

theorem powerFail_kept {vin : Nat} {pf : Bool} (hk : Kept ql flo rvk stg s) : Kept ql flo rvk stg (powerFail vin pf s) := by
  unfold powerFail
  try dsimp only
  repeat' first
    | with_reducible assumption
    | with_reducible apply State.setBit_kept
    | with_reducible apply State.force_kept
    | with_reducible apply State.evt_kept
    | with_reducible apply State.refreshPins_kept
    | with_reducible apply State.fwAbort_kept
    | with_reducible apply State.refreshSlices_kept
    | with_reducible apply State.disabledLeave_kept
    | with_reducible apply State.nvEnd_kept
    | with_reducible refine each_kept ?_ (fun _ _ _ => ?_)
    | with_reducible apply kept_ite
    | split
    | (show _ = _; rfl)
    | (simp only [kept_mk]; with_reducible refine KeptParts.of ?_ ?_ ?_ ?_ ?_)

theorem powerFailEnd_kept {vin : Nat} (hk : Kept ql flo rvk stg s) : Kept ql flo rvk stg (powerFailEnd vin s) := by
  unfold powerFailEnd
  try dsimp only
  repeat' first
    | with_reducible assumption
    | with_reducible apply State.setBit_kept
    | with_reducible apply kept_ite
    | split
    | (show _ = _; rfl)
    | (simp only [kept_mk]; with_reducible refine KeptParts.of ?_ ?_ ?_ ?_ ?_)

theorem contactOn_kept  (hk : Kept ql flo rvk stg s) : Kept ql flo rvk stg (contactOn s) := by
  unfold contactOn
  try dsimp only
  repeat' first
    | with_reducible assumption
    | with_reducible apply State.touchdownBegins_kept
    | with_reducible apply kept_ite
    | split
    | (show _ = _; rfl)
    | (simp only [kept_mk]; with_reducible refine KeptParts.of ?_ ?_ ?_ ?_ ?_)

theorem contactOff_kept  (hk : Kept ql flo rvk stg s) : Kept ql flo rvk stg (contactOff s) := by
  unfold contactOff
  try dsimp only
  repeat' first
    | with_reducible assumption
    | with_reducible apply soundInvalid_kept
    | with_reducible refine each_kept ?_ (fun _ _ _ => ?_)
    | with_reducible apply kept_ite
    | split
    | (show _ = _; rfl)
    | (simp only [kept_mk]; with_reducible refine KeptParts.of ?_ ?_ ?_ ?_ ?_)

end Sys2Proof.Machine
end

