-- ==== Sys2Proof/Laws/Keep/Thermal.lean ====
section
/-!
SUPPORT. Laws/Keep/Thermal.lean: the operations of Machine/Thermal.lean keep the queue, the rollback floor, the revoked keys, the stage and
the canonical form of the stored state (`Kept`).
-/

set_option linter.unusedTactic false
set_option linter.unreachableTactic false
set_option linter.unusedVariables false

namespace Sys2Proof.Machine

variable {ql : List Instr} {flo rvk : Nat} {stg : Option StageOf} {s : State}

theorem enableCommit_kept {i : Nat} {old : Word} (hk : Kept ql flo rvk stg s) : Kept ql flo rvk stg (enableCommit i old s) := by
  unfold enableCommit
  try dsimp only
  repeat' first
    | with_reducible assumption
    | with_reducible apply State.forceBits_kept
    | with_reducible apply State.evt_kept
    | with_reducible apply State.inc_kept
    | with_reducible refine each_kept ?_ (fun _ _ _ => ?_)
    | with_reducible apply kept_ite
    | split

theorem shutdownZone_kept {n : Nat} (hk : Kept ql flo rvk stg s) : Kept ql flo rvk stg (shutdownZone n s) := by
  unfold shutdownZone
  try dsimp only
  repeat' first
    | with_reducible assumption
    | with_reducible apply State.setFld_kept
    | with_reducible apply State.evt_kept
    | with_reducible apply State.irqUrgent_kept
    | with_reducible apply wfsStopAt_kept
    | with_reducible apply acqEndAs_kept
    | with_reducible apply State.groupTrip_kept
    | with_reducible apply runKill_kept
    | with_reducible refine each_kept ?_ (fun _ _ _ => ?_)
    | (show _ = _; rfl)
    | (simp only [kept_mk]; with_reducible refine KeptParts.of ?_ ?_ ?_ ?_ ?_)

theorem zoneUpdate_kept {n : Nat} (hk : Kept ql flo rvk stg s) : Kept ql flo rvk stg (zoneUpdate n s) := by
  unfold zoneUpdate
  try dsimp only
  repeat' first
    | with_reducible assumption
    | with_reducible apply State.setFld_kept
    | with_reducible apply State.evt_kept
    | with_reducible apply shutdownZone_kept
    | with_reducible apply kept_ite
    | split
    | (show _ = _; rfl)
    | (simp only [kept_mk]; with_reducible refine KeptParts.of ?_ ?_ ?_ ?_ ?_)

theorem State.showThermal_kept  (hk : Kept ql flo rvk stg s) : Kept ql flo rvk stg (State.showThermal s) := by
  unfold State.showThermal
  try dsimp only
  repeat' first
    | with_reducible assumption
    | with_reducible apply State.setFld_kept
    | with_reducible refine foldl_kept ?_ (fun _ _ _ => ?_)
    | (show _ = _; rfl)
    | (simp only [kept_mk]; with_reducible refine KeptParts.of ?_ ?_ ?_ ?_ ?_)

theorem showBroken_kept {n cause : Nat} (hk : Kept ql flo rvk stg s) : Kept ql flo rvk stg (showBroken n cause s) := by
  unfold showBroken
  try dsimp only
  repeat' first
    | with_reducible assumption
    | with_reducible apply State.wrN_kept
    | with_reducible apply State.setFld_kept
    | with_reducible apply State.setBit_kept
    | with_reducible apply State.evt_kept

theorem sensorRead_kept {n : Nat} {r : Reading} (hk : Kept ql flo rvk stg s) : Kept ql flo rvk stg (sensorRead n r s) := by
  unfold sensorRead
  try dsimp only
  repeat' first
    | with_reducible assumption
    | with_reducible apply State.wrN_kept
    | with_reducible apply State.setSensor_kept
    | with_reducible apply showBroken_kept
    | with_reducible apply kept_ite
    | split
    | (show _ = _; rfl)
    | (simp only [kept_mk]; with_reducible refine KeptParts.of ?_ ?_ ?_ ?_ ?_)

theorem subEnds_kept {n : Nat} (hk : Kept ql flo rvk stg s) : Kept ql flo rvk stg (subEnds n s) := by
  unfold subEnds
  try dsimp only
  repeat' first
    | with_reducible assumption
    | with_reducible apply State.wrN_kept
    | with_reducible apply State.setBit_kept
    | with_reducible apply showBroken_kept
    | with_reducible apply kept_ite
    | split
    | (show _ = _; rfl)
    | (simp only [kept_mk]; with_reducible refine KeptParts.of ?_ ?_ ?_ ?_ ?_)

theorem sensorSub_kept {n : Nat} (hk : Kept ql flo rvk stg s) : Kept ql flo rvk stg (sensorSub n s) := by
  unfold sensorSub
  try dsimp only
  repeat' first
    | with_reducible assumption
    | with_reducible apply State.wr_kept
    | with_reducible apply subEnds_kept
    | with_reducible apply kept_ite
    | split
    | (show _ = _; rfl)
    | (simp only [kept_mk]; with_reducible refine KeptParts.of ?_ ?_ ?_ ?_ ?_)

theorem subCommitThm_kept {n : Nat} {old : Word} (hk : Kept ql flo rvk stg s) : Kept ql flo rvk stg (subCommitThm n old s) := by
  unfold subCommitThm
  try dsimp only
  repeat' first
    | with_reducible assumption
    | with_reducible apply State.wr_kept
    | with_reducible apply State.wrN_kept
    | with_reducible apply State.setBit_kept
    | with_reducible apply State.forceBits_kept
    | with_reducible apply State.evt_kept
    | with_reducible apply zoneUpdate_kept
    | with_reducible apply State.showThermal_kept
    | with_reducible apply subEnds_kept
    | with_reducible apply kept_ite
    | split
    | (show _ = _; rfl)
    | (simp only [kept_mk]; with_reducible refine KeptParts.of ?_ ?_ ?_ ?_ ?_)

theorem driftCheck_kept  (hk : Kept ql flo rvk stg s) : Kept ql flo rvk stg (driftCheck s) := by
  unfold driftCheck
  try dsimp only
  repeat' first
    | with_reducible assumption
    | with_reducible apply State.setBit_kept
    | with_reducible apply State.evt_kept
    | with_reducible refine each_kept ?_ (fun _ _ _ => ?_)
    | with_reducible apply kept_ite
    | split
    | (show _ = _; rfl)
    | (simp only [kept_mk]; with_reducible refine KeptParts.of ?_ ?_ ?_ ?_ ?_)

theorem State.pace_kept {fast : Bool} (hk : Kept ql flo rvk stg s) : Kept ql flo rvk stg (State.pace s fast) := by
  unfold State.pace
  try dsimp only
  repeat' first
    | with_reducible assumption
    | with_reducible apply State.setBit_kept
    | with_reducible apply kept_ite
    | split
    | (show _ = _; rfl)
    | (simp only [kept_mk]; with_reducible refine KeptParts.of ?_ ?_ ?_ ?_ ?_)

theorem sampleTick_kept {readings : List Reading} {vin pin : Nat} (hk : Kept ql flo rvk stg s) : Kept ql flo rvk stg (sampleTick readings vin pin s) := by
  unfold sampleTick
  try dsimp only
  repeat' first
    | with_reducible assumption
    | with_reducible apply State.wrN_kept
    | with_reducible apply State.fwWatch_kept
    | with_reducible apply State.nvEnd_kept
    | with_reducible apply zoneUpdate_kept
    | with_reducible apply State.showThermal_kept
    | with_reducible apply sensorRead_kept
    | with_reducible apply sensorSub_kept
    | with_reducible apply driftCheck_kept
    | with_reducible apply State.pace_kept
    | with_reducible refine each_kept ?_ (fun _ _ _ => ?_)
    | with_reducible apply kept_ite
    | split
    | (show _ = _; rfl)
    | (simp only [kept_mk]; with_reducible refine KeptParts.of ?_ ?_ ?_ ?_ ?_)

theorem thermalSample_kept {readings : List Reading} {vin pin : Nat} (hk : Kept ql flo rvk stg s) : Kept ql flo rvk stg (thermalSample readings vin pin s) := by
  unfold thermalSample
  try dsimp only
  repeat' first
    | with_reducible assumption
    | with_reducible apply State.arrive_kept
    | with_reducible apply kept_ite
    | split
    | (show _ = _; rfl)
    | (simp only [kept_mk]; with_reducible refine KeptParts.of ?_ ?_ ?_ ?_ ?_)

theorem resumeTick_kept {n : Nat} (hk : Kept ql flo rvk stg s) : Kept ql flo rvk stg (resumeTick n s) := by
  unfold resumeTick
  try dsimp only
  repeat' first
    | with_reducible assumption
    | with_reducible apply State.wrN_kept
    | with_reducible apply State.setFld_kept
    | with_reducible apply State.evt_kept
    | with_reducible apply State.showThermal_kept
    | with_reducible apply kept_ite
    | split
    | (show _ = _; rfl)
    | (simp only [kept_mk]; with_reducible refine KeptParts.of ?_ ?_ ?_ ?_ ?_)

theorem clearTick_kept {g : Nat} (hk : Kept ql flo rvk stg s) : Kept ql flo rvk stg (clearTick g s) := by
  unfold clearTick
  try dsimp only
  repeat' first
    | with_reducible assumption
    | with_reducible apply State.wrN_kept
    | with_reducible apply State.evt_kept
    | with_reducible apply State.log_kept
    | with_reducible apply clearAtTick_kept
    | with_reducible apply kept_ite
    | split

theorem commandsEnd_kept  (hk : Kept ql flo rvk stg s) : Kept ql flo rvk stg (commandsEnd s) := by
  unfold commandsEnd
  try dsimp only
  repeat' first
    | with_reducible assumption
    | with_reducible apply State.complete_kept
    | with_reducible apply State.showNv_kept
    | with_reducible refine each_kept ?_ (fun _ _ _ => ?_)
    | with_reducible refine foldl_kept ?_ (fun _ _ _ => ?_)
    | split
    | (show _ = _; rfl)
    | (simp only [kept_mk]; with_reducible refine KeptParts.of ?_ ?_ ?_ ?_ ?_)

theorem yardFails_kept  (hk : Kept ql flo rvk none s) : Kept ql flo rvk none (yardFails s) := by
  unfold yardFails
  try dsimp only
  repeat' first
    | with_reducible assumption
    | with_reducible apply State.setBit_kept
    | with_reducible apply State.fwEnd_kept
    | with_reducible apply calEndAll_kept
    | with_reducible apply isoResult_kept
    | with_reducible apply stackTested_kept
    | with_reducible apply loadEnds_kept
    | with_reducible apply recastEnds_kept
    | with_reducible apply trialFails_kept
    | with_reducible apply commandsEnd_kept
    | with_reducible refine each_kept ?_ (fun _ _ _ => ?_)
    | with_reducible apply kept_ite
    | split
    | (show _ = _; rfl)
    | (simp only [kept_mk]; with_reducible refine KeptParts.ofNone ?_ ?_ ?_ ?_)

theorem yardBack_kept  (hk : Kept ql flo rvk stg s) : Kept ql flo rvk stg (yardBack s) := by
  unfold yardBack
  try dsimp only
  repeat' first
    | with_reducible assumption
    | with_reducible apply State.setBit_kept
    | with_reducible apply State.evt_kept
    | with_reducible apply tryResume_kept
    | with_reducible refine each_kept ?_ (fun _ _ _ => ?_)
    | with_reducible apply kept_ite
    | split
    | (show _ = _; rfl)
    | (simp only [kept_mk]; with_reducible refine KeptParts.of ?_ ?_ ?_ ?_ ?_)

end Sys2Proof.Machine
end

