-- ==== Sys2Proof/Laws/Keep/Operands.lean ====
section
/-!
SUPPORT. Laws/Keep/Operands.lean: the operations of Machine/Operands.lean keep the queue, the rollback floor, the revoked keys, the stage and
the canonical form of the stored state (`Kept`).
-/

set_option linter.unusedTactic false
set_option linter.unreachableTactic false
set_option linter.unusedVariables false

namespace Sys2Proof.Machine

variable {ql : List Instr} {flo rvk : Nat} {stg : Option StageOf} {s : State}

theorem State.latchGroup_kept {a : Nat} (hk : Kept ql flo rvk stg s) : Kept ql flo rvk stg (State.latchGroup s a) := by
  unfold State.latchGroup
  try dsimp only
  repeat' first
    | with_reducible assumption
    | with_reducible refine foldl_kept ?_ (fun _ _ _ => ?_)
    | with_reducible apply kept_ite
    | split
    | (show _ = _; rfl)
    | (simp only [kept_mk]; with_reducible refine KeptParts.of ?_ ?_ ?_ ?_ ?_)

theorem settleAt_kept {a : Nat} (hk : Kept ql flo rvk stg s) : Kept ql flo rvk stg (settleAt a s) := by
  unfold settleAt
  try dsimp only
  repeat' first
    | with_reducible assumption
    | with_reducible apply State.clampSeen_kept
    | with_reducible apply wfsSettle_kept
    | with_reducible apply acqSettle_kept
    | with_reducible apply tdcSettle_kept
    | with_reducible apply kept_ite
    | split
    | (show _ = _; rfl)
    | (simp only [kept_mk]; with_reducible refine KeptParts.of ?_ ?_ ?_ ?_ ?_)

theorem latchAt_kept {a : Nat} {s0 : State} (hk : Kept ql flo rvk stg s0) : Kept ql flo rvk stg (latchAt a s0) := by
  unfold latchAt
  try dsimp only
  repeat' first
    | with_reducible assumption
    | with_reducible apply acqLatch_kept
    | with_reducible apply tdcLatch_kept
    | with_reducible apply chkLatch_kept
    | with_reducible apply asyLatch_kept
    | with_reducible apply measLatch_kept
    | with_reducible apply settleAt_kept
    | with_reducible apply kept_ite
    | split
    | (show _ = _; rfl)
    | (simp only [kept_mk]; with_reducible refine KeptParts.of ?_ ?_ ?_ ?_ ?_)

theorem tableReadAt_kept {a : Nat} {r : Nat × State} (h : Kept ql flo rvk stg s) (hr : tableReadAt a s = some r) : Kept ql flo rvk stg r.2 := by
  unfold tableReadAt at hr
  split at hr
  · split at hr
    · cases hr; exact tdcTableRead_kept h
    · split at hr
      · cases hr; exact lvlTableRead_kept h
      · cases hr
  · cases hr

theorem State.clearCount_kept {a : Nat} {mask : Word} (hk : Kept ql flo rvk stg s) : Kept ql flo rvk stg (State.clearCount s a mask) := by
  unfold State.clearCount
  try dsimp only
  repeat' first
    | with_reducible assumption
    | with_reducible apply State.wr_kept

theorem readWord_kept {a : Nat} (h : Kept ql flo rvk stg s) : Kept ql flo rvk stg (readWord a s).2 := by
  unfold readWord
  split
  · exact State.free_kept h
  · dsimp only
    repeat' first
      | with_reducible assumption
      | with_reducible apply State.clearCount_kept
      | with_reducible apply State.latchGroup_kept
      | with_reducible apply latchAt_kept
      | (with_reducible apply tableReadAt_kept; assumption; assumption)
      | split

theorem State.accessError_kept {a cause : Nat} (hk : Kept ql flo rvk stg s) : Kept ql flo rvk stg (State.accessError s a cause) := by
  unfold State.accessError
  try dsimp only
  repeat' first
    | with_reducible assumption
    | with_reducible apply State.setWords_kept
    | with_reducible apply State.evt_kept
    | with_reducible apply State.inc_kept
    | with_reducible apply kept_ite
    | split
    | (show _ = _; rfl)
    | (simp only [kept_mk]; with_reducible refine KeptParts.of ?_ ?_ ?_ ?_ ?_)

theorem readWords_kept {a n : Nat} (h : Kept ql flo rvk stg s) : Kept ql flo rvk stg (readWords a n s).2 := by
  induction n generalizing s a with
  | zero => exact h
  | succ n ih => exact ih (readWord_kept h)

theorem busRead_kept {a width : Nat} (hk : Kept ql flo rvk stg s) : Kept ql flo rvk stg (busRead a width s) := by
  unfold busRead
  try dsimp only
  repeat' first
    | with_reducible assumption
    | with_reducible apply State.accessError_kept
    | with_reducible apply readWords_kept
    | split
    | (show _ = _; rfl)
    | (simp only [kept_mk]; with_reducible refine KeptParts.of ?_ ?_ ?_ ?_ ?_)

theorem State.shadowWrite_kept {a : Nat} {mask pulses v : Word} (hk : Kept ql flo rvk stg s) : Kept ql flo rvk stg (State.shadowWrite s a mask pulses v) := by
  unfold State.shadowWrite
  try dsimp only
  repeat' first
    | with_reducible assumption
    | with_reducible apply kept_ite
    | split
    | (show _ = _; rfl)
    | (simp only [kept_mk]; with_reducible refine KeptParts.of ?_ ?_ ?_ ?_ ?_)

theorem State.shadowItem_kept {a : Nat} {mask pulses v : Word} (hk : Kept ql flo rvk stg s) : Kept ql flo rvk stg (State.shadowItem s a mask pulses v) := by
  unfold State.shadowItem
  try dsimp only
  repeat' first
    | with_reducible assumption
    | (show _ = _; rfl)
    | (simp only [kept_mk]; with_reducible refine KeptParts.of ?_ ?_ ?_ ?_ ?_)

theorem holdWrite_kept {v : Bool} (hk : Kept ql flo rvk stg s) : Kept ql flo rvk stg (holdWrite v s) := by
  unfold holdWrite
  try dsimp only
  repeat' first
    | with_reducible assumption
    | with_reducible apply State.setBit_kept
    | with_reducible apply kept_ite
    | split
    | (show _ = _; rfl)
    | (simp only [kept_mk]; with_reducible refine KeptParts.of ?_ ?_ ?_ ?_ ?_)

theorem resumeRequest_kept {n : Nat} (hk : Kept ql flo rvk stg s) : Kept ql flo rvk stg (resumeRequest n s) := by
  unfold resumeRequest
  try dsimp only
  repeat' first
    | with_reducible assumption
    | with_reducible apply State.arrive_kept

theorem actAt_kept {a : Nat} {v : Word} (hk : Kept ql flo rvk stg s) : Kept ql flo rvk stg (actAt a v s) := by
  unfold actAt
  try dsimp only
  repeat' first
    | with_reducible assumption
    | with_reducible apply State.wr_kept
    | with_reducible apply State.advResult_kept
    | with_reducible apply wfsTableWrite_kept
    | with_reducible apply acqAdv_kept
    | with_reducible apply tdcTswap_kept
    | with_reducible apply tdcTableWrite_kept
    | with_reducible apply chkFeed_kept
    | with_reducible apply asyAdv_kept
    | with_reducible apply State.groupTrip_kept
    | with_reducible apply groupClear_kept
    | with_reducible apply lvlTableWrite_kept
    | with_reducible apply lvlTswap_kept
    | with_reducible apply tableWrite_kept
    | with_reducible apply tableSwap_kept
    | with_reducible apply soundGo_kept
    | with_reducible apply soundAbort_kept
    | with_reducible apply ringReset_kept
    | with_reducible apply holdWrite_kept
    | with_reducible apply resumeRequest_kept
    | with_reducible apply kept_ite
    | split
    | (show _ = _; rfl)
    | (simp only [kept_mk]; with_reducible refine KeptParts.of ?_ ?_ ?_ ?_ ?_)

theorem State.applyStaged_kept {a n : Nat} (h : Kept ql flo rvk stg s) : Kept ql flo rvk stg (s.applyStaged a n) := by
  induction n generalizing s a with
  | zero => exact h
  | succ n ih =>
    unfold State.applyStaged
    dsimp only
    apply ih
    split
    · exact kept_upd (State.wr_kept h) rfl rfl rfl rfl rfl rfl rfl
    · exact h

theorem State.immediateWrite_kept {a : Nat} {rw mask v : Word} (hk : Kept ql flo rvk stg s) : Kept ql flo rvk stg (State.immediateWrite s a rw mask v) := by
  unfold State.immediateWrite
  try dsimp only
  repeat' first
    | with_reducible assumption
    | with_reducible apply State.wr_kept
    | with_reducible apply State.applyStaged_kept
    | with_reducible apply kept_ite
    | split
    | (show _ = _; rfl)
    | (simp only [kept_mk]; with_reducible refine KeptParts.of ?_ ?_ ?_ ?_ ?_)

theorem directWrite_kept  (hk : Kept ql flo rvk stg s) : Kept ql flo rvk stg (directWrite s) := by
  unfold directWrite
  try dsimp only
  repeat' first
    | with_reducible assumption
    | with_reducible apply State.evt_kept
    | with_reducible apply State.inc_kept

theorem State.releaseWrite_kept {v : Word} (hk : Kept ql flo rvk stg s) : Kept ql flo rvk stg (State.releaseWrite s v) := by
  unfold State.releaseWrite
  try dsimp only
  repeat' first
    | with_reducible assumption
    | with_reducible apply State.shadowWrite_kept
    | with_reducible apply kept_ite
    | split

theorem writeWord_kept {a : Nat} {v : Word} (hk : Kept ql flo rvk stg s) : Kept ql flo rvk stg (writeWord a v s) := by
  unfold writeWord
  try dsimp only
  repeat' first
    | with_reducible assumption
    | with_reducible apply State.wr_kept
    | with_reducible apply State.shadowWrite_kept
    | with_reducible apply actAt_kept
    | with_reducible apply State.immediateWrite_kept
    | with_reducible apply directWrite_kept
    | with_reducible apply State.releaseWrite_kept
    | with_reducible apply kept_ite
    | split
    | (show _ = _; rfl)
    | (simp only [kept_mk]; with_reducible refine KeptParts.of ?_ ?_ ?_ ?_ ?_)

theorem writePair_kept {a v : Nat} (hk : Kept ql flo rvk stg s) : Kept ql flo rvk stg (writePair a v s) := by
  unfold writePair
  try dsimp only
  repeat' first
    | with_reducible assumption
    | with_reducible apply State.accessError_kept
    | with_reducible apply writeWord_kept
    | with_reducible apply kept_ite
    | split
    | (show _ = _; rfl)
    | (simp only [kept_mk]; with_reducible refine KeptParts.of ?_ ?_ ?_ ?_ ?_)

theorem writePairs_kept {a n v : Nat} (h : Kept ql flo rvk stg s) : Kept ql flo rvk stg (writePairs a n v s) := by
  induction n generalizing s a v with
  | zero => exact h
  | succ n ih =>
    unfold writePairs
    exact ih (writePair_kept h)

theorem busWrite_kept {a width v : Nat} (hk : Kept ql flo rvk stg s) : Kept ql flo rvk stg (busWrite a width v s) := by
  unfold busWrite
  try dsimp only
  repeat' first
    | with_reducible assumption
    | with_reducible apply State.accessError_kept
    | with_reducible apply writeWord_kept
    | with_reducible apply writePairs_kept
    | with_reducible apply kept_ite
    | split
    | (show _ = _; rfl)
    | (simp only [kept_mk]; with_reducible refine KeptParts.of ?_ ?_ ?_ ?_ ?_)

end Sys2Proof.Machine
end

