-- ==== Sys2Proof/Laws/Keep/Profile.lean ====
section
/-!
SUPPORT. Laws/Keep/Profile.lean: the operations of Machine/Profile.lean keep the queue, the rollback floor, the revoked keys, the stage and
the canonical form of the stored state (`Kept`).
-/

set_option linter.unusedTactic false
set_option linter.unreachableTactic false
set_option linter.unusedVariables false

namespace Sys2Proof.Machine

variable {ql : List Instr} {flo rvk : Nat} {stg : Option StageOf} {s : State}

theorem profileWrite_kept {a : Nat} {mask v : Word} (hk : Kept ql flo rvk stg s) : Kept ql flo rvk stg (profileWrite a mask v s) := by
  unfold profileWrite
  try dsimp only
  repeat' first
    | with_reducible assumption
    | with_reducible apply State.shadowItem_kept
    | with_reducible apply actAt_kept
    | with_reducible apply State.immediateWrite_kept
    | with_reducible apply kept_ite
    | split
    | (show _ = _; rfl)
    | (simp only [kept_mk]; with_reducible refine KeptParts.of ?_ ?_ ?_ ?_ ?_)

theorem profileActs_kept {e : List Byte} (hk : Kept ql flo rvk stg s) : Kept ql flo rvk stg (profileActs e s) := by
  unfold profileActs
  try dsimp only
  repeat' first
    | with_reducible assumption
    | with_reducible apply profileWrite_kept
    | with_reducible refine each_kept ?_ (fun _ _ _ => ?_)
    | with_reducible refine foldl_kept ?_ (fun _ _ _ => ?_)
    | split
    | (show _ = _; rfl)
    | (simp only [kept_mk]; with_reducible refine KeptParts.of ?_ ?_ ?_ ?_ ?_)

theorem profileDone_kept {p : OpenProfile} (hk : Kept ql flo rvk stg s) : Kept ql flo rvk stg (profileDone s p) := by
  unfold profileDone
  try dsimp only
  repeat' first
    | with_reducible assumption
    | with_reducible apply State.complete_kept
    | split
    | (show _ = _; rfl)
    | (simp only [kept_mk]; with_reducible refine KeptParts.of ?_ ?_ ?_ ?_ ?_)

theorem State.profilesDone_kept {held : Bool} (hk : Kept ql flo rvk stg s) : Kept ql flo rvk stg (State.profilesDone s held) := by
  unfold State.profilesDone
  try dsimp only
  repeat' first
    | with_reducible assumption
    | with_reducible apply profileDone_kept
    | with_reducible refine foldl_kept ?_ (fun _ _ _ => ?_)
    | (show _ = _; rfl)
    | (simp only [kept_mk]; with_reducible refine KeptParts.of ?_ ?_ ?_ ?_ ?_)

theorem profileCommand_kept {op : Nat} {e : List Byte} (hk : Kept ql flo rvk stg s) : Kept ql flo rvk stg (profileCommand op e s) := by
  unfold profileCommand
  try dsimp only
  repeat' first
    | with_reducible assumption
    | with_reducible apply State.arrive_kept
    | with_reducible refine ringCommand_kept ?_ (fun _ _ _ => ?_) (fun _ _ _ => ?_)

theorem itemActs_kept  (hk : Kept ql flo rvk stg s) : Kept ql flo rvk stg (itemActs s) := by
  unfold itemActs
  try dsimp only
  repeat' first
    | with_reducible assumption
    | with_reducible apply profileActs_kept
    | with_reducible apply kept_ite
    | split
    | (show _ = _; rfl)
    | (simp only [kept_mk]; with_reducible refine KeptParts.of ?_ ?_ ?_ ?_ ?_)

theorem nextItemActs_kept  (hk : Kept ql flo rvk stg s) : Kept ql flo rvk stg (nextItemActs s) := by
  unfold nextItemActs
  try dsimp only
  repeat' first
    | with_reducible assumption
    | with_reducible refine State.atDue_kept ?_ (fun _ _ => ?_)
    | with_reducible apply itemActs_kept
    | split
    | (show _ = _; rfl)
    | (simp only [kept_mk]; with_reducible refine KeptParts.of ?_ ?_ ?_ ?_ ?_)

theorem allItemsAct_kept {n : Nat} (h : Kept ql flo rvk stg s) : Kept ql flo rvk stg (allItemsAct n s) := by
  induction n generalizing s with
  | zero => exact h
  | succ n ih =>
    unfold allItemsAct
    split
    · exact h
    · exact ih (itemActs_kept h)

theorem dueItemsAct_kept {n : Nat} (h : Kept ql flo rvk stg s) : Kept ql flo rvk stg (dueItemsAct n s) := by
  induction n generalizing s with
  | zero => exact h
  | succ n ih =>
    unfold dueItemsAct
    split
    · exact h
    · split
      · exact ih (itemActs_kept h)
      · exact h

theorem State.itemsDue_kept  (hk : Kept ql flo rvk stg s) : Kept ql flo rvk stg (State.itemsDue s) := by
  unfold State.itemsDue
  try dsimp only
  repeat' first
    | with_reducible assumption
    | with_reducible apply dueItemsAct_kept

end Sys2Proof.Machine
end

