-- ==== Sys2Proof/Laws/Keep/Commands.lean ====
section
/-!
SUPPORT. Laws/Keep/Commands.lean: the operations of Machine/Commands.lean keep the queue, the rollback floor, the revoked keys, the stage and
the canonical form of the stored state (`Kept`).
-/

set_option linter.unusedTactic false
set_option linter.unreachableTactic false
set_option linter.unusedVariables false

namespace Sys2Proof.Machine

variable {ql : List Instr} {flo rvk : Nat} {stg : Option StageOf} {s : State}

theorem castNote_kept {recast : Bool} {c : Nat} (hk : Kept ql flo rvk stg s) : Kept ql flo rvk stg (castNote recast c s) := by
  unfold castNote
  try dsimp only
  repeat' first
    | with_reducible assumption
    | with_reducible apply State.castError_kept
    | with_reducible apply kept_ite
    | split
    | (show _ = _; rfl)
    | (simp only [kept_mk]; with_reducible refine KeptParts.of ?_ ?_ ?_ ?_ ?_)

theorem copyBegin_kept {op : Nat} {e : List Byte} {tag : Nat} (hk : Kept ql flo rvk stg s) : Kept ql flo rvk stg (copyBegin op e tag s) := by
  unfold copyBegin
  try dsimp only
  repeat' first
    | with_reducible assumption
    | with_reducible apply kept_ite
    | split
    | (show _ = _; rfl)
    | (simp only [kept_mk]; with_reducible refine KeptParts.of ?_ ?_ ?_ ?_ ?_)

theorem calStoreBegin_kept {tag : Nat} (hk : Kept ql flo rvk stg s) : Kept ql flo rvk stg (calStoreBegin tag s) := by
  unfold calStoreBegin
  try dsimp only
  repeat' first
    | with_reducible assumption
    | with_reducible apply State.nvBegin_kept

theorem tolledWrite_kept {w : Nat × Word × Word} (hk : Kept ql flo rvk stg s) : Kept ql flo rvk stg (tolledWrite s w) := by
  unfold tolledWrite
  try dsimp only
  repeat' first
    | with_reducible assumption
    | with_reducible apply State.shadowWrite_kept
    | split
    | (show _ = _; rfl)
    | (simp only [kept_mk]; with_reducible refine KeptParts.of ?_ ?_ ?_ ?_ ?_)

theorem regWriteNote_kept {c : Nat} (hk : Kept ql flo rvk stg s) : Kept ql flo rvk stg (regWriteNote c s) := by
  unfold regWriteNote
  try dsimp only
  repeat' first
    | with_reducible assumption
    | with_reducible apply State.wrN_kept
    | with_reducible apply State.evt_kept
    | with_reducible apply tollNote_kept
    | with_reducible apply kept_ite
    | split

theorem regWriteBegin_kept {e : List Byte} {tag : Nat} (hk : Kept ql flo rvk stg s) : Kept ql flo rvk stg (regWriteBegin e tag s) := by
  unfold regWriteBegin
  try dsimp only
  repeat' first
    | with_reducible assumption
    | with_reducible apply tolledWrite_kept
    | with_reducible refine foldl_kept ?_ (fun _ _ _ => ?_)
    | (show _ = _; rfl)
    | (simp only [kept_mk]; with_reducible refine KeptParts.of ?_ ?_ ?_ ?_ ?_)

end Sys2Proof.Machine
end

