-- ==== Sys2Proof/Laws/Keep/Waybill.lean ====
section
/-!
SUPPORT. Laws/Keep/Waybill.lean: the operations of Machine/Waybill.lean keep the queue, the rollback floor, the revoked keys, the stage and
the canonical form of the stored state (`Kept`).
-/

set_option linter.unusedTactic false
set_option linter.unreachableTactic false
set_option linter.unusedVariables false

namespace Sys2Proof.Machine

variable {ql : List Instr} {flo rvk : Nat} {stg : Option StageOf} {s : State}

theorem State.faultEntry_kept {e : FaultEntry} (hk : Kept ql flo rvk stg s) : Kept ql flo rvk stg (State.faultEntry s e) := by
  unfold State.faultEntry
  try dsimp only
  repeat' first
    | with_reducible assumption
    | (show _ = _; rfl)
    | (simp only [kept_mk]; with_reducible refine KeptParts.of ?_ ?_ ?_ ?_ ?_)

theorem State.journeyGone_kept {kind origin owner : Nat} (hk : Kept ql flo rvk stg s) : Kept ql flo rvk stg (State.journeyGone s kind origin owner) := by
  unfold State.journeyGone
  try dsimp only
  repeat' first
    | with_reducible assumption
    | (show _ = _; rfl)
    | (simp only [kept_mk]; with_reducible refine KeptParts.of ?_ ?_ ?_ ?_ ?_)

theorem State.setJourney_kept {j : Journey} (hk : Kept ql flo rvk stg s) : Kept ql flo rvk stg (State.setJourney s j) := by
  unfold State.setJourney
  try dsimp only
  repeat' first
    | with_reducible assumption
    | with_reducible apply State.journeyGone_kept
    | (show _ = _; rfl)
    | (simp only [kept_mk]; with_reducible refine KeptParts.of ?_ ?_ ?_ ?_ ?_)

theorem journeyLost_kept {kind origin owner : Nat} (hk : Kept ql flo rvk stg s) : Kept ql flo rvk stg (journeyLost kind origin owner s) := by
  unfold journeyLost
  try dsimp only
  repeat' first
    | with_reducible assumption
    | with_reducible apply State.fwEnd_kept
    | with_reducible apply wfsGranuleLost_kept
    | with_reducible apply runKill_kept
    | with_reducible apply ingotLost_kept
    | with_reducible apply loadEnds_kept
    | with_reducible apply recastEnds_kept
    | with_reducible apply ringHeadLost_kept
    | with_reducible apply kept_ite
    | split
    | (show _ = _; rfl)
    | (simp only [kept_mk]; with_reducible refine KeptParts.of ?_ ?_ ?_ ?_ ?_)

theorem checkFails_kept {kind origin owner hop : Nat} {injected : Bool} (hk : Kept ql flo rvk stg s) : Kept ql flo rvk stg (checkFails kind origin owner hop injected s) := by
  unfold checkFails
  try dsimp only
  repeat' first
    | with_reducible assumption
    | with_reducible apply State.evt_kept
    | with_reducible apply State.inc_kept
    | with_reducible apply State.faultEntry_kept
    | with_reducible apply State.journeyGone_kept
    | with_reducible apply State.setJourney_kept
    | with_reducible apply journeyLost_kept
    | with_reducible apply kept_ite
    | split
    | (show _ = _; rfl)
    | (simp only [kept_mk]; with_reducible refine KeptParts.of ?_ ?_ ?_ ?_ ?_)

theorem State.altered_kept {a : Nat} (hk : Kept ql flo rvk stg s) : Kept ql flo rvk stg (State.altered s a) := by
  unfold State.altered
  try dsimp only
  repeat' first
    | with_reducible assumption
    | with_reducible apply State.forceBits_kept
    | with_reducible apply State.inc_kept
    | with_reducible apply kept_ite
    | split
    | (show _ = _; rfl)
    | (simp only [kept_mk]; with_reducible refine KeptParts.of ?_ ?_ ?_ ?_ ?_)

theorem blockHop_kept {kind origin owner hop : Nat} {ok selected : Bool} (hk : Kept ql flo rvk stg s) : Kept ql flo rvk stg (blockHop kind origin owner hop ok selected s) := by
  unfold blockHop
  try dsimp only
  repeat' first
    | with_reducible assumption
    | with_reducible apply State.journeyGone_kept
    | with_reducible apply State.setJourney_kept
    | with_reducible apply checkFails_kept
    | with_reducible apply State.altered_kept
    | with_reducible apply kept_ite
    | split
    | (show _ = _; rfl)
    | (simp only [kept_mk]; with_reducible refine KeptParts.of ?_ ?_ ?_ ?_ ?_)

theorem refetchArrival_kept {kind origin owner : Nat} {ok : Bool} (hk : Kept ql flo rvk stg s) : Kept ql flo rvk stg (refetchArrival kind origin owner ok s) := by
  unfold refetchArrival
  try dsimp only
  repeat' first
    | with_reducible assumption
    | with_reducible apply checkFails_kept
    | with_reducible apply kept_ite
    | split

theorem dropFound_kept {kind origin owner : Nat} (hk : Kept ql flo rvk stg s) : Kept ql flo rvk stg (dropFound kind origin owner s) := by
  unfold dropFound
  try dsimp only
  repeat' first
    | with_reducible assumption
    | with_reducible refine State.atDue_kept ?_ (fun _ _ => ?_)
    | with_reducible apply State.journeyGone_kept
    | with_reducible apply State.setJourney_kept
    | with_reducible apply checkFails_kept
    | with_reducible apply kept_ite
    | split
    | (show _ = _; rfl)
    | (simp only [kept_mk]; with_reducible refine KeptParts.of ?_ ?_ ?_ ?_ ?_)

end Sys2Proof.Machine
end

