-- ==== Sys2Proof/Laws/Keep/Tap.lean ====
section
/-!
SUPPORT. Laws/Keep/Tap.lean: the operations of Machine/Tap.lean keep the queue, the rollback floor, the revoked keys, the stage and
the canonical form of the stored state (`Kept`).
-/

set_option linter.unusedTactic false
set_option linter.unreachableTactic false
set_option linter.unusedVariables false

namespace Sys2Proof.Machine

variable {ql : List Instr} {flo rvk : Nat} {stg : Option StageOf} {s : State}

theorem State.tapTakes_kept {f : Tap → Tap} (hk : Kept ql flo rvk stg s) : Kept ql flo rvk stg (State.tapTakes s f) := by
  unfold State.tapTakes
  try dsimp only
  repeat' first
    | with_reducible assumption
    | with_reducible apply kept_ite
    | split
    | (show _ = _; rfl)
    | (simp only [kept_mk]; with_reducible refine KeptParts.of ?_ ?_ ?_ ?_ ?_)

theorem tapBypass_kept  (hk : Kept ql flo rvk stg s) : Kept ql flo rvk stg (tapBypass s) := by
  unfold tapBypass
  try dsimp only
  repeat' first
    | with_reducible assumption
    | with_reducible apply State.tapTakes_kept
    | (show _ = _; rfl)
    | (simp only [kept_mk]; with_reducible refine KeptParts.of ?_ ?_ ?_ ?_ ?_)

theorem tapSample_kept {pins shiftIn : List Bool} (hk : Kept ql flo rvk stg s) : Kept ql flo rvk stg (tapSample pins shiftIn s) := by
  unfold tapSample
  try dsimp only
  repeat' first
    | with_reducible assumption
    | with_reducible apply State.tapTakes_kept
    | (show _ = _; rfl)
    | (simp only [kept_mk]; with_reducible refine KeptParts.of ?_ ?_ ?_ ?_ ?_)

theorem tapExtest_kept {pins : List Bool} (hk : Kept ql flo rvk stg s) : Kept ql flo rvk stg (tapExtest pins s) := by
  unfold tapExtest
  try dsimp only
  repeat' first
    | with_reducible assumption
    | with_reducible apply State.tapTakes_kept
    | (show _ = _; rfl)
    | (simp only [kept_mk]; with_reducible refine KeptParts.of ?_ ?_ ?_ ?_ ?_)

theorem tapIdcode_kept  (hk : Kept ql flo rvk stg s) : Kept ql flo rvk stg (tapIdcode s) := by
  unfold tapIdcode
  try dsimp only
  repeat' first
    | with_reducible assumption
    | with_reducible apply kept_ite
    | split
    | (show _ = _; rfl)
    | (simp only [kept_mk]; with_reducible refine KeptParts.of ?_ ?_ ?_ ?_ ?_)

end Sys2Proof.Machine
end

