-- ==== Sys2Proof/Laws/Keep/Stage.lean ====
section
/-!
SUPPORT. Laws/Keep/Stage.lean: the operations of Machine/Stage.lean keep the queue, the rollback floor, the revoked keys, the stage and
the canonical form of the stored state (`Kept`).
-/

set_option linter.unusedTactic false
set_option linter.unreachableTactic false
set_option linter.unusedVariables false

namespace Sys2Proof.Machine

variable {ql : List Instr} {flo rvk : Nat} {stg : Option StageOf} {s : State}

theorem copyShadow_kept {e : Nat × Option Word} (hk : Kept ql flo rvk stg s) : Kept ql flo rvk stg (copyShadow s e) := by
  unfold copyShadow
  try dsimp only
  repeat' first
    | with_reducible assumption
    | with_reducible apply State.wr_kept
    | split
    | (show _ = _; rfl)
    | (simp only [kept_mk]; with_reducible refine KeptParts.of ?_ ?_ ?_ ?_ ?_)

theorem State.copyShadows_kept  (hk : Kept ql flo rvk stg s) : Kept ql flo rvk stg (State.copyShadows s) := by
  unfold State.copyShadows
  try dsimp only
  repeat' first
    | with_reducible assumption
    | with_reducible apply copyShadow_kept
    | with_reducible refine foldl_kept ?_ (fun _ _ _ => ?_)
    | (show _ = _; rfl)
    | (simp only [kept_mk]; with_reducible refine KeptParts.of ?_ ?_ ?_ ?_ ?_)

theorem State.keepShadows_kept  (hk : Kept ql flo rvk stg s) : Kept ql flo rvk stg (State.keepShadows s) := by
  unfold State.keepShadows
  try dsimp only
  repeat' first
    | with_reducible assumption
    | with_reducible refine foldl_kept ?_ (fun _ _ _ => ?_)
    | (show _ = _; rfl)
    | (simp only [kept_mk]; with_reducible refine KeptParts.of ?_ ?_ ?_ ?_ ?_)

theorem measHook_kept {m : Nat} {e : Taken} (hk : Kept ql flo rvk stg s) : Kept ql flo rvk stg (measHook m e s) := by
  unfold measHook
  try dsimp only
  repeat' first
    | with_reducible assumption
    | with_reducible apply measGo_kept
    | with_reducible apply kept_ite
    | split

theorem monHook_kept {b : State} {u : Nat} {e : Taken} (hk : Kept ql flo rvk stg s) : Kept ql flo rvk stg (monHook b u e s) := by
  unfold monHook
  try dsimp only
  repeat' first
    | with_reducible assumption
    | with_reducible apply State.monRefresh_kept
    | with_reducible apply State.monSchedule_kept
    | with_reducible apply kept_ite
    | split
    | (show _ = _; rfl)
    | (simp only [kept_mk]; with_reducible refine KeptParts.of ?_ ?_ ?_ ?_ ?_)

theorem channelHook_kept {b : State} {ch : Nat} {e : Taken} (hk : Kept ql flo rvk stg s) : Kept ql flo rvk stg (channelHook b ch e s) := by
  unfold channelHook
  try dsimp only
  repeat' first
    | with_reducible assumption
    | with_reducible refine State.when_kept ?_ (fun _ _ => ?_)
    | with_reducible apply State.settingEvent_kept
    | with_reducible apply State.levelCommit_kept
    | with_reducible apply State.driveFollow_kept
    | with_reducible apply State.pmuUpdate_kept
    | with_reducible apply State.pmuModeCommit_kept
    | with_reducible apply awgPinCheck_kept
    | with_reducible apply cdAbort_kept
    | with_reducible apply cdGo_kept
    | with_reducible apply tdcArm_kept
    | with_reducible apply tdcDisarm_kept
    | with_reducible apply measHook_kept
    | with_reducible apply monHook_kept
    | with_reducible apply kept_ite
    | split
    | (show _ = _; rfl)
    | (simp only [kept_mk]; with_reducible refine KeptParts.of ?_ ?_ ?_ ?_ ?_)

theorem sliceHook_kept {b : State} {i : Nat} {e : Taken} (hk : Kept ql flo rvk stg s) : Kept ql flo rvk stg (sliceHook b i e s) := by
  unfold sliceHook
  try dsimp only
  repeat' first
    | with_reducible assumption
    | with_reducible apply dpsCtlCommit_kept
    | with_reducible apply dpsIlimCommit_kept
    | with_reducible apply dpsVsetCommit_kept
    | with_reducible apply dpsRampCommit_kept
    | with_reducible apply measHook_kept
    | with_reducible apply monHook_kept
    | with_reducible apply kept_ite
    | split
    | (show _ = _; rfl)
    | (simp only [kept_mk]; with_reducible refine KeptParts.of ?_ ?_ ?_ ?_ ?_)

theorem acqHook_kept {b : State} {u : Nat} {e : Taken} (hk : Kept ql flo rvk stg s) : Kept ql flo rvk stg (acqHook b u e s) := by
  unfold acqHook
  try dsimp only
  repeat' first
    | with_reducible assumption
    | with_reducible apply acqArm_kept
    | with_reducible apply acqForce_kept
    | with_reducible apply acqStop_kept
    | with_reducible apply acqChanged_kept
    | with_reducible apply acqInCommit_kept
    | with_reducible apply acqCapacity_kept
    | with_reducible apply kept_ite
    | split
    | (show _ = _; rfl)
    | (simp only [kept_mk]; with_reducible refine KeptParts.of ?_ ?_ ?_ ?_ ?_)

theorem wfsHook_kept {u : Nat} {e : Taken} (hk : Kept ql flo rvk stg s) : Kept ql flo rvk stg (wfsHook u e s) := by
  unfold wfsHook
  try dsimp only
  repeat' first
    | with_reducible assumption
    | with_reducible apply wfsStart_kept
    | with_reducible apply wfsStop_kept
    | with_reducible apply wfsAdvance_kept
    | with_reducible apply kept_ite
    | split
    | (show _ = _; rfl)
    | (simp only [kept_mk]; with_reducible refine KeptParts.of ?_ ?_ ?_ ?_ ?_)

theorem seqHook_kept {c : Nat} {e : Taken} (hk : Kept ql flo rvk stg s) : Kept ql flo rvk stg (seqHook c e s) := by
  unfold seqHook
  try dsimp only
  repeat' first
    | with_reducible assumption
    | with_reducible apply seqStart_kept
    | with_reducible apply seqStop_kept
    | with_reducible apply seqResume_kept
    | with_reducible apply seqRestart_kept
    | with_reducible apply jumpLatch_kept
    | with_reducible apply kept_ite
    | split
    | (show _ = _; rfl)
    | (simp only [kept_mk]; with_reducible refine KeptParts.of ?_ ?_ ?_ ?_ ?_)

theorem calHook_kept {b : State} {e : Taken} (hk : Kept ql flo rvk stg s) : Kept ql flo rvk stg (calHook b e s) := by
  unfold calHook
  try dsimp only
  repeat' first
    | with_reducible assumption
    | with_reducible apply calGo_kept
    | with_reducible apply calAbort_kept
    | with_reducible apply calRelease_kept
    | with_reducible apply subCommit_kept
    | with_reducible apply isoCommit_kept
    | with_reducible apply stackCommit_kept
    | with_reducible apply kept_ite
    | split
    | (show _ = _; rfl)
    | (simp only [kept_mk]; with_reducible refine KeptParts.of ?_ ?_ ?_ ?_ ?_)

theorem settingActs_kept {b : State} {e : Taken} (hk : Kept ql flo rvk stg s) : Kept ql flo rvk stg (settingActs b s e) := by
  unfold settingActs
  try dsimp only
  repeat' first
    | with_reducible assumption
    | with_reducible apply tdcFreezeCommit_kept
    | with_reducible apply chkArm_kept
    | with_reducible apply chkDisarm_kept
    | with_reducible apply siteFinalize_kept
    | with_reducible apply siteClear_kept
    | with_reducible apply fwCfgCommit_kept
    | with_reducible apply subCommitThm_kept
    | with_reducible apply channelHook_kept
    | with_reducible apply sliceHook_kept
    | with_reducible apply acqHook_kept
    | with_reducible apply wfsHook_kept
    | with_reducible apply seqHook_kept
    | with_reducible apply calHook_kept
    | with_reducible apply kept_ite
    | split
    | (show _ = _; rfl)
    | (simp only [kept_mk]; with_reducible refine KeptParts.of ?_ ?_ ?_ ?_ ?_)

theorem enableActs_kept {b : State} {e : Taken} (hk : Kept ql flo rvk stg s) : Kept ql flo rvk stg (enableActs b s e) := by
  unfold enableActs
  try dsimp only
  repeat' first
    | with_reducible assumption
    | with_reducible apply enableCommit_kept
    | with_reducible apply kept_ite
    | split

theorem awgActs_kept {b : State} {l : List Taken} (hk : Kept ql flo rvk stg s) : Kept ql flo rvk stg (awgActs b l s) := by
  unfold awgActs
  try dsimp only
  repeat' first
    | with_reducible assumption
    | with_reducible apply awgRelease_kept
    | with_reducible apply awgOutCommit_kept
    | with_reducible refine each_kept ?_ (fun _ _ _ => ?_)
    | (show _ = _; rfl)
    | (simp only [kept_mk]; with_reducible refine KeptParts.of ?_ ?_ ?_ ?_ ?_)

theorem ncoActs_kept {b : State} {l : List Taken} (hk : Kept ql flo rvk stg s) : Kept ql flo rvk stg (ncoActs b l s) := by
  unfold ncoActs
  try dsimp only
  repeat' first
    | with_reducible assumption
    | with_reducible apply wfsNcoCommit_kept
    | with_reducible refine each_kept ?_ (fun _ _ _ => ?_)
    | with_reducible apply kept_ite
    | split

theorem State.swapFalls_kept {w : WorkItem} (hk : Kept ql flo rvk stg s) : Kept ql flo rvk stg (State.swapFalls s w) := by
  unfold State.swapFalls
  try dsimp only
  repeat' first
    | with_reducible assumption
    | with_reducible apply State.setBit_kept
    | with_reducible apply State.evt_kept
    | with_reducible apply swapFrozen_kept
    | with_reducible apply kept_ite
    | split
    | (show _ = _; rfl)
    | (simp only [kept_mk]; with_reducible refine KeptParts.of ?_ ?_ ?_ ?_ ?_)

theorem State.consider_kept {w : WorkItem} (hk : Kept ql flo rvk stg s) : Kept ql flo rvk stg (State.consider s w) := by
  unfold State.consider
  try dsimp only
  repeat' first
    | with_reducible assumption
    | with_reducible apply State.admitItem_kept
    | with_reducible apply State.deferItem_kept
    | with_reducible apply State.swapFalls_kept
    | with_reducible apply kept_ite
    | split
    | (show _ = _; rfl)
    | (simp only [kept_mk]; with_reducible refine KeptParts.of ?_ ?_ ?_ ?_ ?_)

theorem State.admitPending_kept  (hk : Kept ql flo rvk stg s) : Kept ql flo rvk stg (State.admitPending s) := by
  unfold State.admitPending
  try dsimp only
  repeat' first
    | with_reducible assumption
    | with_reducible apply State.consider_kept
    | with_reducible refine foldl_kept ?_ (fun _ _ _ => ?_)
    | (show _ = _; rfl)
    | (simp only [kept_mk]; with_reducible refine KeptParts.of ?_ ?_ ?_ ?_ ?_)

theorem dutyTick_kept {w : WorkItem} (hk : Kept ql flo rvk stg s) : Kept ql flo rvk stg (dutyTick s w) := by
  unfold dutyTick
  try dsimp only
  repeat' first
    | with_reducible assumption
    | with_reducible apply State.takeover_kept
    | with_reducible apply State.handback_kept
    | with_reducible apply takeoverTick_kept
    | with_reducible apply handbackTick_kept
    | split
    | (show _ = _; rfl)
    | (simp only [kept_mk]; with_reducible refine KeptParts.of ?_ ?_ ?_ ?_ ?_)

theorem itemTick_kept {w : WorkItem} (hk : Kept ql flo rvk stg s) : Kept ql flo rvk stg (itemTick s w) := by
  unfold itemTick
  try dsimp only
  repeat' first
    | with_reducible assumption
    | with_reducible apply State.takeover_kept
    | with_reducible apply State.handback_kept
    | with_reducible apply lvlSwapIn_kept
    | with_reducible apply tdcSwapTick_kept
    | with_reducible apply tableInstall_kept
    | with_reducible apply recastTick_kept
    | with_reducible apply sampleTick_kept
    | with_reducible apply resumeTick_kept
    | with_reducible apply clearTick_kept
    | split
    | (show _ = _; rfl)
    | (simp only [kept_mk]; with_reducible refine KeptParts.of ?_ ?_ ?_ ?_ ?_)

theorem portTick_kept {west : Bool} (hk : Kept ql flo rvk stg s) : Kept ql flo rvk stg (portTick west s) := by
  unfold portTick
  try dsimp only
  repeat' first
    | with_reducible assumption
    | with_reducible apply State.setPort_kept
    | with_reducible apply portDownNow_kept
    | with_reducible apply kept_ite
    | split
    | (show _ = _; rfl)
    | (simp only [kept_mk]; with_reducible refine KeptParts.of ?_ ?_ ?_ ?_ ?_)

theorem convoyFrames_kept  (hk : Kept ql flo rvk stg s) : Kept ql flo rvk stg (convoyFrames s) := by
  unfold convoyFrames
  try dsimp only
  repeat' first
    | with_reducible assumption
    | with_reducible apply State.sendHop_kept
    | with_reducible apply State.flood_kept
    | with_reducible apply kept_ite
    | split
    | (show _ = _; rfl)
    | (simp only [kept_mk]; with_reducible refine KeptParts.of ?_ ?_ ?_ ?_ ?_)

theorem convoyTick_kept  (hk : Kept ql flo rvk stg s) : Kept ql flo rvk stg (convoyTick s) := by
  unfold convoyTick
  try dsimp only
  repeat' first
    | with_reducible assumption
    | with_reducible apply State.setUpstream_kept
    | with_reducible apply State.convoyActs_kept
    | with_reducible apply State.reseatTick_kept
    | with_reducible apply portTick_kept
    | with_reducible apply convoyFrames_kept
    | (show _ = _; rfl)
    | (simp only [kept_mk]; with_reducible refine KeptParts.of ?_ ?_ ?_ ?_ ?_)

theorem timeStepped_kept  (hk : Kept ql flo rvk none s) : Kept ql flo rvk none (timeStepped s) := by
  unfold timeStepped
  try dsimp only
  repeat' first
    | with_reducible assumption
    | with_reducible apply State.setFld_kept
    | with_reducible apply State.evt_kept
    | with_reducible apply State.free_kept
    | with_reducible apply State.convoyLog_kept
    | split
    | (show _ = _; rfl)
    | (simp only [kept_mk]; with_reducible refine KeptParts.ofNone ?_ ?_ ?_ ?_)

theorem stageBegins_kept  (hk : Kept ql flo rvk none s) : Kept ql flo rvk none (stageBegins s) := by
  unfold stageBegins
  try dsimp only
  repeat' first
    | with_reducible assumption
    | with_reducible apply State.advance_kept
    | with_reducible apply timeStepped_kept
    | with_reducible apply kept_ite
    | split
    | (show _ = _; rfl)
    | (simp only [kept_mk]; with_reducible refine KeptParts.ofNone ?_ ?_ ?_ ?_)

theorem holdTimeout_kept  (hk : Kept ql flo rvk stg s) : Kept ql flo rvk stg (holdTimeout s) := by
  unfold holdTimeout
  try dsimp only
  repeat' first
    | with_reducible assumption
    | with_reducible apply State.setBit_kept
    | with_reducible apply State.evt_kept
    | with_reducible apply kept_ite
    | split
    | (show _ = _; rfl)
    | (simp only [kept_mk]; with_reducible refine KeptParts.of ?_ ?_ ?_ ?_ ?_)

theorem stageEnds_kept  (hk : Kept ql flo rvk stg s) : Kept ql flo rvk stg (stageEnds s) := by
  unfold stageEnds
  try dsimp only
  repeat' first
    | with_reducible assumption
    | with_reducible apply allItemsAct_kept
    | with_reducible apply holdTimeout_kept
    | (show _ = _; rfl)
    | (simp only [kept_mk]; with_reducible refine KeptParts.of ?_ ?_ ?_ ?_ ?_)

theorem enginesSettle_kept  (hk : Kept ql flo rvk stg s) : Kept ql flo rvk stg (enginesSettle s) := by
  unfold enginesSettle
  try dsimp only
  repeat' first
    | with_reducible assumption
    | with_reducible apply wfsSettle_kept
    | with_reducible apply acqSettle_kept
    | with_reducible apply tdcSettle_kept
    | with_reducible apply State.sliceTicks_kept
    | with_reducible apply State.gapsPark_kept
    | with_reducible apply State.soundsDrive_kept
    | with_reducible refine each_kept ?_ (fun _ _ _ => ?_)
    | (show _ = _; rfl)
    | (simp only [kept_mk]; with_reducible refine KeptParts.of ?_ ?_ ?_ ?_ ?_)

theorem settingsAct_kept {b : State} {l : List Taken} (hk : Kept ql flo rvk stg s) : Kept ql flo rvk stg (settingsAct b l s) := by
  unfold settingsAct
  try dsimp only
  repeat' first
    | with_reducible assumption
    | with_reducible apply State.tripDisable_kept
    | with_reducible apply State.abortDisable_kept
    | with_reducible apply settingActs_kept
    | with_reducible apply enableActs_kept
    | with_reducible apply awgActs_kept
    | with_reducible apply ncoActs_kept
    | with_reducible refine foldl_kept ?_ (fun _ _ _ => ?_)
    | (show _ = _; rfl)
    | (simp only [kept_mk]; with_reducible refine KeptParts.of ?_ ?_ ?_ ?_ ?_)

theorem tolledDone_kept  (hk : Kept ql flo rvk stg s) : Kept ql flo rvk stg (tolledDone s) := by
  unfold tolledDone
  try dsimp only
  repeat' first
    | with_reducible assumption
    | with_reducible apply State.complete_kept
    | with_reducible refine foldl_kept ?_ (fun _ _ _ => ?_)
    | (show _ = _; rfl)
    | (simp only [kept_mk]; with_reducible refine KeptParts.of ?_ ?_ ?_ ?_ ?_)

theorem tolledWait_kept  (hk : Kept ql flo rvk stg s) : Kept ql flo rvk stg (tolledWait s) := by
  unfold tolledWait
  try dsimp only
  repeat' first
    | with_reducible assumption
    | (show _ = _; rfl)
    | (simp only [kept_mk]; with_reducible refine KeptParts.of ?_ ?_ ?_ ?_ ?_)

theorem powerTick_kept {powers : List (Nat × Nat)} (hk : Kept ql flo rvk stg s) : Kept ql flo rvk stg (powerTick powers s) := by
  unfold powerTick
  try dsimp only
  repeat' first
    | with_reducible assumption
    | with_reducible apply State.powerCheck_kept
    | with_reducible apply State.groupTrip_kept
    | with_reducible refine foldl_kept ?_ (fun _ _ _ => ?_)
    | (show _ = _; rfl)
    | (simp only [kept_mk]; with_reducible refine KeptParts.of ?_ ?_ ?_ ?_ ?_)

theorem dutiesMove_kept  (hk : Kept ql flo rvk stg s) : Kept ql flo rvk stg (dutiesMove s) := by
  unfold dutiesMove
  try dsimp only
  repeat' first
    | with_reducible assumption
    | with_reducible apply State.calMoves_kept
    | with_reducible apply State.subMoves_kept
    | with_reducible apply State.isoReleases_kept
    | with_reducible apply dutyTick_kept
    | with_reducible refine foldl_kept ?_ (fun _ _ _ => ?_)
    | (show _ = _; rfl)
    | (simp only [kept_mk]; with_reducible refine KeptParts.of ?_ ?_ ?_ ?_ ?_)

theorem outputsFollow_kept  (hk : Kept ql flo rvk stg s) : Kept ql flo rvk stg (outputsFollow s) := by
  unfold outputsFollow
  try dsimp only
  repeat' first
    | with_reducible assumption
    | with_reducible apply State.refreshPins_kept
    | with_reducible apply State.refreshSlices_kept
    | with_reducible apply State.calTurns_kept
    | with_reducible apply State.calBeforePins_kept
    | with_reducible apply State.disabledLeave_kept
    | with_reducible apply State.abortsJudged_kept

theorem itemTicks_kept  (hk : Kept ql flo rvk stg s) : Kept ql flo rvk stg (itemTicks s) := by
  unfold itemTicks
  try dsimp only
  repeat' first
    | with_reducible assumption
    | with_reducible apply itemTick_kept
    | with_reducible refine foldl_kept ?_ (fun _ _ _ => ?_)
    | (show _ = _; rfl)
    | (simp only [kept_mk]; with_reducible refine KeptParts.of ?_ ?_ ?_ ?_ ?_)

theorem stageTick_kept {powers : List (Nat × Nat)} (hk : Kept ql flo rvk none s) : Kept ql flo rvk none (stageTick powers s) := by
  unfold stageTick
  try dsimp only
  repeat' first
    | with_reducible assumption
    | with_reducible apply State.autoSound_kept
    | with_reducible apply State.allWaits_kept
    | with_reducible apply State.tilesFound_kept
    | with_reducible apply castLoadApply_kept
    | with_reducible apply State.fwWatch_kept
    | with_reducible apply State.profilesDone_kept
    | with_reducible apply State.copyShadows_kept
    | with_reducible apply State.keepShadows_kept
    | with_reducible apply State.admitPending_kept
    | with_reducible apply convoyTick_kept
    | with_reducible apply stageBegins_kept
    | with_reducible apply stageEnds_kept
    | with_reducible apply enginesSettle_kept
    | with_reducible apply settingsAct_kept
    | with_reducible apply tolledDone_kept
    | with_reducible apply tolledWait_kept
    | with_reducible apply powerTick_kept
    | with_reducible apply dutiesMove_kept
    | with_reducible apply outputsFollow_kept
    | with_reducible apply itemTicks_kept
    | with_reducible apply kept_ite
    | split
    | (show _ = _; rfl)
    | (simp only [kept_mk]; with_reducible refine KeptParts.ofNone ?_ ?_ ?_ ?_)

theorem State.idlePowers_kept (h : Kept ql flo rvk stg s) : Kept ql flo rvk stg s.idlePowers.2 := by
  unfold State.idlePowers
  generalize s.casting.powers.filter _ = l
  suffices ∀ p : List (Nat × Nat) × State, Kept ql flo rvk stg p.2 → Kept ql flo rvk stg (l.foldl (fun r p => (r.1 ++ [(p.slice, (r.2.free).1)], (r.2.free).2)) p).2 from this _ h
  induction l with
  | nil => exact fun _ hp => hp
  | cons x l ih => exact fun p hp => ih _ (State.free_kept hp)

theorem idleClock_kept  (hk : Kept ql flo rvk none s) : Kept ql flo rvk none (idleClock s) := by
  unfold idleClock
  try dsimp only
  repeat' first
    | with_reducible assumption
    | with_reducible apply State.advance_kept
    | with_reducible apply stageTick_kept
    | with_reducible apply State.idlePowers_kept
    | with_reducible apply kept_ite
    | split

end Sys2Proof.Machine
end

