-- ==== Sys2Proof/Laws/PerInstr.lean ====
section
/-!
SUPPORT. Laws/PerInstr.lean: statements made of each command by itself. `Shape`: no word of the opcode table spells the command, since no
row of the table gives bits.
-/

namespace Sys2Proof.Laws

/-- No word of any length decodes to the command. -/
def Shape.Statement (i : Instr) : Prop := ∀ nbits w, decodeTableWord nbits w ≠ some i

theorem Shape.stageTick (powers : List (Nat × Nat)) : Shape.Statement (.stageTick powers) := fun _ _ h => nomatch h
theorem Shape.clockWrap (powers : List (Nat × Nat)) : Shape.Statement (.clockWrap powers) := fun _ _ h => nomatch h
theorem Shape.commitHoldSet : Shape.Statement .commitHoldSet := fun _ _ h => nomatch h
theorem Shape.commitHoldRelease : Shape.Statement .commitHoldRelease := fun _ _ h => nomatch h
theorem Shape.commitHoldTimeout : Shape.Statement .commitHoldTimeout := fun _ _ h => nomatch h
theorem Shape.workItemActs : Shape.Statement .workItemActs := fun _ _ h => nomatch h
theorem Shape.registerWrite (a : Nat) (width : Nat) (v : Nat) : Shape.Statement (.registerWrite a width v) := fun _ _ h => nomatch h
theorem Shape.counterReadClear (a : Nat) : Shape.Statement (.counterReadClear a) := fun _ _ h => nomatch h
theorem Shape.groupReadLatch (a : Nat) (width : Nat) : Shape.Statement (.groupReadLatch a width) := fun _ _ h => nomatch h
theorem Shape.ctimeLatch : Shape.Statement .ctimeLatch := fun _ _ h => nomatch h
theorem Shape.directWrite (a : Nat) (v : Nat) : Shape.Statement (.directWrite a v) := fun _ _ h => nomatch h
theorem Shape.castLoad (entry : List Byte) : Shape.Statement (.castLoad entry) := fun _ _ h => nomatch h
theorem Shape.castLoadApply : Shape.Statement .castLoadApply := fun _ _ h => nomatch h
theorem Shape.storeDone : Shape.Statement .storeDone := fun _ _ h => nomatch h
theorem Shape.castRecast (entry : List Byte) (header : Option (List Byte)) : Shape.Statement (.castRecast entry header) := fun _ _ h => nomatch h
theorem Shape.recastReady (data : Option (List Byte)) : Shape.Statement (.recastReady data) := fun _ _ h => nomatch h
theorem Shape.castCancel (entry : List Byte) : Shape.Statement (.castCancel entry) := fun _ _ h => nomatch h
theorem Shape.tilePresentRise (slot : Nat) : Shape.Statement (.tilePresentRise slot) := fun _ _ h => nomatch h
theorem Shape.tileDebounceExpiry (slot : Nat) : Shape.Statement (.tileDebounceExpiry slot) := fun _ _ h => nomatch h
theorem Shape.tileHotJoin (slot : Nat) : Shape.Statement (.tileHotJoin slot) := fun _ _ h => nomatch h
theorem Shape.tileNoJoin (slot : Nat) : Shape.Statement (.tileNoJoin slot) := fun _ _ h => nomatch h
theorem Shape.tileDescriptorRead (slot : Nat) (desc : List Byte) : Shape.Statement (.tileDescriptorRead slot desc) := fun _ _ h => nomatch h
theorem Shape.tileRemoved (slot : Nat) : Shape.Statement (.tileRemoved slot) := fun _ _ h => nomatch h
theorem Shape.seqStart (c : Nat) : Shape.Statement (.seqStart c) := fun _ _ h => nomatch h
theorem Shape.seqStop (c : Nat) : Shape.Statement (.seqStop c) := fun _ _ h => nomatch h
theorem Shape.seqResume (c : Nat) : Shape.Statement (.seqResume c) := fun _ _ h => nomatch h
theorem Shape.seqRestartLoop (c : Nat) : Shape.Statement (.seqRestartLoop c) := fun _ _ h => nomatch h
theorem Shape.ingotGenerate (c : Nat) (p : Nat) : Shape.Statement (.ingotGenerate c p) := fun _ _ h => nomatch h
theorem Shape.nextInstr (c : Nat) (p : Nat) : Shape.Statement (.nextInstr c p) := fun _ _ h => nomatch h
theorem Shape.jump (c : Nat) (p : Nat) : Shape.Statement (.jump c p) := fun _ _ h => nomatch h
theorem Shape.branch (c : Nat) (p : Nat) : Shape.Statement (.branch c p) := fun _ _ h => nomatch h
theorem Shape.call (c : Nat) (p : Nat) : Shape.Statement (.call c p) := fun _ _ h => nomatch h
theorem Shape.ret (c : Nat) (p : Nat) : Shape.Statement (.ret c p) := fun _ _ h => nomatch h
theorem Shape.loopSet (c : Nat) (p : Nat) : Shape.Statement (.loopSet c p) := fun _ _ h => nomatch h
theorem Shape.loopEnd (c : Nat) (p : Nat) : Shape.Statement (.loopEnd c p) := fun _ _ h => nomatch h
theorem Shape.loopBreak (c : Nat) (p : Nat) : Shape.Statement (.loopBreak c p) := fun _ _ h => nomatch h
theorem Shape.waypoint (c : Nat) (p : Nat) : Shape.Statement (.waypoint c p) := fun _ _ h => nomatch h
theorem Shape.halt (c : Nat) (p : Nat) : Shape.Statement (.halt c p) := fun _ _ h => nomatch h
theorem Shape.trigger (c : Nat) (p : Nat) : Shape.Statement (.trigger c p) := fun _ _ h => nomatch h
theorem Shape.stallResume (c : Nat) : Shape.Statement (.stallResume c) := fun _ _ h => nomatch h
theorem Shape.prefetchArrival (c : Nat) (entry : Nat) (k : Nat) : Shape.Statement (.prefetchArrival c entry k) := fun _ _ h => nomatch h
theorem Shape.streamRowFetch (c : Nat) (prod : Nat) (data : List Byte) : Shape.Statement (.streamRowFetch c prod data) := fun _ _ h => nomatch h
theorem Shape.seqTableEntryWrite (c : Nat) (v : Nat) : Shape.Statement (.seqTableEntryWrite c v) := fun _ _ h => nomatch h
theorem Shape.seqTableSwap (c : Nat) (mask : Nat) : Shape.Statement (.seqTableSwap c mask) := fun _ _ h => nomatch h
theorem Shape.segLoad (entry : List Byte) : Shape.Statement (.segLoad entry) := fun _ _ h => nomatch h
theorem Shape.segLoadDone (tag : Nat) (data : Option (List Byte)) : Shape.Statement (.segLoadDone tag data) := fun _ _ h => nomatch h
theorem Shape.cxlMemWrite (dpa : Nat) (data : List Byte) : Shape.Statement (.cxlMemWrite dpa data) := fun _ _ h => nomatch h
theorem Shape.cxlMemRead (dpa : Nat) : Shape.Statement (.cxlMemRead dpa) := fun _ _ h => nomatch h
theorem Shape.soundGo (c : Nat) : Shape.Statement (.soundGo c) := fun _ _ h => nomatch h
theorem Shape.soundAbort (c : Nat) : Shape.Statement (.soundAbort c) := fun _ _ h => nomatch h
theorem Shape.soundDone (c : Nat) (trips : List Nat) : Shape.Statement (.soundDone c trips) := fun _ _ h => nomatch h
theorem Shape.soundNoEcho (c : Nat) (r : Nat) : Shape.Statement (.soundNoEcho c r) := fun _ _ h => nomatch h
theorem Shape.pourLineCrossing (c : Nat) : Shape.Statement (.pourLineCrossing c) := fun _ _ h => nomatch h
theorem Shape.branchResolved (c : Nat) : Shape.Statement (.branchResolved c) := fun _ _ h => nomatch h
theorem Shape.waitTimeout (c : Nat) : Shape.Statement (.waitTimeout c) := fun _ _ h => nomatch h
theorem Shape.compareResult (c : Nat) (obs : List Machine.PinObs) : Shape.Statement (.compareResult c obs) := fun _ _ h => nomatch h
theorem Shape.logDrainWrite (n : Nat) : Shape.Statement (.logDrainWrite n) := fun _ _ h => nomatch h
theorem Shape.memoryEventAnalysis (n : Nat) : Shape.Statement (.memoryEventAnalysis n) := fun _ _ h => nomatch h
theorem Shape.earlyAbort (n : Nat) : Shape.Statement (.earlyAbort n) := fun _ _ h => nomatch h
theorem Shape.finalize (n : Nat) : Shape.Statement (.finalize n) := fun _ _ h => nomatch h
theorem Shape.sessionClear (n : Nat) : Shape.Statement (.sessionClear n) := fun _ _ h => nomatch h
theorem Shape.finalAnalysis (n : Nat) : Shape.Statement (.finalAnalysis n) := fun _ _ h => nomatch h
theorem Shape.asyResStatRead (n : Nat) : Shape.Statement (.asyResStatRead n) := fun _ _ h => nomatch h
theorem Shape.asyResAdv (n : Nat) : Shape.Statement (.asyResAdv n) := fun _ _ h => nomatch h
theorem Shape.pmuRangingEnd (ch : Nat) : Shape.Statement (.pmuRangingEnd ch) := fun _ _ h => nomatch h
theorem Shape.padSwitchClosed (ch : Nat) : Shape.Statement (.padSwitchClosed ch) := fun _ _ h => nomatch h
theorem Shape.padSwitchOpen (ch : Nat) : Shape.Statement (.padSwitchOpen ch) := fun _ _ h => nomatch h
theorem Shape.takeoverSwitchOpen (ch : Nat) : Shape.Statement (.takeoverSwitchOpen ch) := fun _ _ h => nomatch h
theorem Shape.handbackSwitchOpen (ch : Nat) : Shape.Statement (.handbackSwitchOpen ch) := fun _ _ h => nomatch h
theorem Shape.waveLoad (entry : List Byte) : Shape.Statement (.waveLoad entry) := fun _ _ h => nomatch h
theorem Shape.waveLoadDone (tag : Nat) (data : Option (List Byte)) : Shape.Statement (.waveLoadDone tag data) := fun _ _ h => nomatch h
theorem Shape.wfsStart (u : Nat) : Shape.Statement (.wfsStart u) := fun _ _ h => nomatch h
theorem Shape.wfsStop (u : Nat) : Shape.Statement (.wfsStop u) := fun _ _ h => nomatch h
theorem Shape.wfsAdvance (u : Nat) : Shape.Statement (.wfsAdvance u) := fun _ _ h => nomatch h
theorem Shape.entryAdvance (u : Nat) : Shape.Statement (.entryAdvance u) := fun _ _ h => nomatch h
theorem Shape.autoAdvance (u : Nat) : Shape.Statement (.autoAdvance u) := fun _ _ h => nomatch h
theorem Shape.wfsTableWrite (u : Nat) (k : Nat) (v : Nat) : Shape.Statement (.wfsTableWrite u k v) := fun _ _ h => nomatch h
theorem Shape.awgMuteReclose (u : Nat) : Shape.Statement (.awgMuteReclose u) := fun _ _ h => nomatch h
theorem Shape.acqCtlArm (u : Nat) : Shape.Statement (.acqCtlArm u) := fun _ _ h => nomatch h
theorem Shape.acqCtlStop (u : Nat) : Shape.Statement (.acqCtlStop u) := fun _ _ h => nomatch h
theorem Shape.acqForce (u : Nat) : Shape.Statement (.acqForce u) := fun _ _ h => nomatch h
theorem Shape.acqTrigger (u : Nat) (prev nv : Int) : Shape.Statement (.acqTrigger u prev nv) := fun _ _ h => nomatch h
theorem Shape.autoTrigger (u : Nat) : Shape.Statement (.autoTrigger u) := fun _ _ h => nomatch h
theorem Shape.segmentComplete (u : Nat) (samples : List Nat) : Shape.Statement (.segmentComplete u samples) := fun _ _ h => nomatch h
theorem Shape.streamBlockWrite (u : Nat) (samples : List Nat) : Shape.Statement (.streamBlockWrite u samples) := fun _ _ h => nomatch h
theorem Shape.streamOverrun (u : Nat) : Shape.Statement (.streamOverrun u) := fun _ _ h => nomatch h
theorem Shape.acqOverrange (x : InputVolts) : Shape.Statement (.acqOverrange x) := fun _ _ h => nomatch h
theorem Shape.acqRangingEnd (u : Nat) : Shape.Statement (.acqRangingEnd u) := fun _ _ h => nomatch h
theorem Shape.acqResStatRead (u : Nat) : Shape.Statement (.acqResStatRead u) := fun _ _ h => nomatch h
theorem Shape.acqResAdv (u : Nat) : Shape.Statement (.acqResAdv u) := fun _ _ h => nomatch h
theorem Shape.tdcCtlArm (ch : Nat) : Shape.Statement (.tdcCtlArm ch) := fun _ _ h => nomatch h
theorem Shape.tdcCtlDisarm (ch : Nat) : Shape.Statement (.tdcCtlDisarm ch) := fun _ _ h => nomatch h
theorem Shape.tdcEdge (ch : Nat) (source : Nat) (rising : Bool) (tap : Nat) : Shape.Statement (.tdcEdge ch source rising tap) := fun _ _ h => nomatch h
theorem Shape.tdcTimeout (ch : Nat) : Shape.Statement (.tdcTimeout ch) := fun _ _ h => nomatch h
theorem Shape.cdGo (ch : Nat) : Shape.Statement (.cdGo ch) := fun _ _ h => nomatch h
theorem Shape.cdAbort (ch : Nat) : Shape.Statement (.cdAbort ch) := fun _ _ h => nomatch h
theorem Shape.cdDone (ch : Nat) (hits : List Nat) : Shape.Statement (.cdDone ch hits) := fun _ _ h => nomatch h
theorem Shape.cdTooFew (ch : Nat) : Shape.Statement (.cdTooFew ch) := fun _ _ h => nomatch h
theorem Shape.tdcTableWrite (ch : Nat) (v : Nat) : Shape.Statement (.tdcTableWrite ch v) := fun _ _ h => nomatch h
theorem Shape.tdcTswap (ch : Nat) : Shape.Statement (.tdcTswap ch) := fun _ _ h => nomatch h
theorem Shape.tdcResStatRead (ch : Nat) : Shape.Statement (.tdcResStatRead ch) := fun _ _ h => nomatch h
theorem Shape.tdcResAdv (ch : Nat) : Shape.Statement (.tdcResAdv ch) := fun _ _ h => nomatch h
theorem Shape.dpsOn (i : Nat) : Shape.Statement (.dpsOn i) := fun _ _ h => nomatch h
theorem Shape.sliceDelayOnExpiry (i : Nat) : Shape.Statement (.sliceDelayOnExpiry i) := fun _ _ h => nomatch h
theorem Shape.atLevel (i : Nat) : Shape.Statement (.atLevel i) := fun _ _ h => nomatch h
theorem Shape.sliceDelayOffExpiry (i : Nat) : Shape.Statement (.sliceDelayOffExpiry i) := fun _ _ h => nomatch h
theorem Shape.offDone (i : Nat) : Shape.Statement (.offDone i) := fun _ _ h => nomatch h
theorem Shape.dischargeEnd (i : Nat) : Shape.Statement (.dischargeEnd i) := fun _ _ h => nomatch h
theorem Shape.pmuMeasGo (ch : Nat) : Shape.Statement (.pmuMeasGo ch) := fun _ _ h => nomatch h
theorem Shape.measComplete (b : Nat) (codes : List Nat) (clamp : Bool) : Shape.Statement (.measComplete b codes clamp) := fun _ _ h => nomatch h
theorem Shape.pmuMeasStatRead (b : Nat) : Shape.Statement (.pmuMeasStatRead b) := fun _ _ h => nomatch h
theorem Shape.pmuMeasAdv (b : Nat) : Shape.Statement (.pmuMeasAdv b) := fun _ _ h => nomatch h
theorem Shape.dpsMeasGo (i : Nat) : Shape.Statement (.dpsMeasGo i) := fun _ _ h => nomatch h
theorem Shape.monitorTrip (x : CodeRead) : Shape.Statement (.monitorTrip x) := fun _ _ h => nomatch h
theorem Shape.blankWindowClose (b v : Nat) : Shape.Statement (.blankWindowClose b v) := fun _ _ h => nomatch h
theorem Shape.groupForce (g : Nat) : Shape.Statement (.groupForce g) := fun _ _ h => nomatch h
theorem Shape.siteTripped (n : Nat) : Shape.Statement (.siteTripped n) := fun _ _ h => nomatch h
theorem Shape.groupClear (g : Nat) : Shape.Statement (.groupClear g) := fun _ _ h => nomatch h
theorem Shape.calReqGo (zeners : List Nat) : Shape.Statement (.calReqGo zeners) := fun _ _ h => nomatch h
theorem Shape.calReqAbort : Shape.Statement .calReqAbort := fun _ _ h => nomatch h
theorem Shape.laneAdcCalDone (lane : Nat) : Shape.Statement (.laneAdcCalDone lane) := fun _ _ h => nomatch h
theorem Shape.calStepDone (ch : Nat) (trims : List Nat) : Shape.Statement (.calStepDone ch trims) := fun _ _ h => nomatch h
theorem Shape.unitCalDone (unit : Nat) (pass : Bool) (trims : List Byte) : Shape.Statement (.unitCalDone unit pass trims) := fun _ _ h => nomatch h
theorem Shape.calRelease (ch : Nat) : Shape.Statement (.calRelease ch) := fun _ _ h => nomatch h
theorem Shape.lvlTableWrite (ch : Nat) (v : Nat) : Shape.Statement (.lvlTableWrite ch v) := fun _ _ h => nomatch h
theorem Shape.lvlTswap (ch : Nat) : Shape.Statement (.lvlTswap ch) := fun _ _ h => nomatch h
theorem Shape.calStore (entry : List Byte) : Shape.Statement (.calStore entry) := fun _ _ h => nomatch h
theorem Shape.subEnable (awg : Bool) (q : Nat) : Shape.Statement (.subEnable awg q) := fun _ _ h => nomatch h
theorem Shape.subDisable (awg : Bool) (q : Nat) : Shape.Statement (.subDisable awg q) := fun _ _ h => nomatch h
theorem Shape.spareCopyDone (awg : Bool) (q : Nat) : Shape.Statement (.spareCopyDone awg q) := fun _ _ h => nomatch h
theorem Shape.isoSet (k : Nat) : Shape.Statement (.isoSet k) := fun _ _ h => nomatch h
theorem Shape.selftestDone (k : Nat) (core : Bool) (failed : List Nat) : Shape.Statement (.selftestDone k core failed) := fun _ _ h => nomatch h
theorem Shape.isoRelease (k : Nat) : Shape.Statement (.isoRelease k) := fun _ _ h => nomatch h
theorem Shape.droverReloadDone (k : Nat) : Shape.Statement (.droverReloadDone k) := fun _ _ h => nomatch h
theorem Shape.castoutSet (q : Nat) : Shape.Statement (.castoutSet q) := fun _ _ h => nomatch h
theorem Shape.stackRestore (q : Nat) : Shape.Statement (.stackRestore q) := fun _ _ h => nomatch h
theorem Shape.stackSelftestDone (q : Nat) (pass : Bool) : Shape.Statement (.stackSelftestDone q pass) := fun _ _ h => nomatch h
theorem Shape.stackFault (q : Nat) : Shape.Statement (.stackFault q) := fun _ _ h => nomatch h
theorem Shape.yardFailure : Shape.Statement .yardFailure := fun _ _ h => nomatch h
theorem Shape.yardRestarted : Shape.Statement .yardRestarted := fun _ _ h => nomatch h
theorem Shape.completionWrite : Shape.Statement .completionWrite := fun _ _ h => nomatch h
theorem Shape.irqModerationExpiry : Shape.Statement .irqModerationExpiry := fun _ _ h => nomatch h
theorem Shape.ringReset : Shape.Statement .ringReset := fun _ _ h => nomatch h
theorem Shape.hostAttachmentReset (cause : Nat) : Shape.Statement (.hostAttachmentReset cause) := fun _ _ h => nomatch h
theorem Shape.linkUp (width : Nat) (speed : Nat) (ide : Bool) : Shape.Statement (.linkUp width speed ide) := fun _ _ h => nomatch h
theorem Shape.unknownOpcode (entry : List Byte) : Shape.Statement (.unknownOpcode entry) := fun _ _ h => nomatch h
theorem Shape.siteEnable (entry : List Byte) : Shape.Statement (.siteEnable entry) := fun _ _ h => nomatch h
theorem Shape.runStart (entry : List Byte) : Shape.Statement (.runStart entry) := fun _ _ h => nomatch h
theorem Shape.runStop (entry : List Byte) : Shape.Statement (.runStop entry) := fun _ _ h => nomatch h
theorem Shape.jumpRequest (entry : List Byte) : Shape.Statement (.jumpRequest entry) := fun _ _ h => nomatch h
theorem Shape.soundCmd (entry : List Byte) : Shape.Statement (.soundCmd entry) := fun _ _ h => nomatch h
theorem Shape.runConfig (entry : List Byte) : Shape.Statement (.runConfig entry) := fun _ _ h => nomatch h
theorem Shape.pinLevels (entry : List Byte) : Shape.Statement (.pinLevels entry) := fun _ _ h => nomatch h
theorem Shape.pinTiming (entry : List Byte) : Shape.Statement (.pinTiming entry) := fun _ _ h => nomatch h
theorem Shape.pmuSet (entry : List Byte) : Shape.Statement (.pmuSet entry) := fun _ _ h => nomatch h
theorem Shape.assayConfig (entry : List Byte) : Shape.Statement (.assayConfig entry) := fun _ _ h => nomatch h
theorem Shape.assayFinalize (entry : List Byte) : Shape.Statement (.assayFinalize entry) := fun _ _ h => nomatch h
theorem Shape.assayClear (entry : List Byte) : Shape.Statement (.assayClear entry) := fun _ _ h => nomatch h
theorem Shape.abortPolicy (entry : List Byte) : Shape.Statement (.abortPolicy entry) := fun _ _ h => nomatch h
theorem Shape.waveStart (entry : List Byte) : Shape.Statement (.waveStart entry) := fun _ _ h => nomatch h
theorem Shape.waveStop (entry : List Byte) : Shape.Statement (.waveStop entry) := fun _ _ h => nomatch h
theorem Shape.awgSet (entry : List Byte) : Shape.Statement (.awgSet entry) := fun _ _ h => nomatch h
theorem Shape.acqArm (entry : List Byte) : Shape.Statement (.acqArm entry) := fun _ _ h => nomatch h
theorem Shape.acqStop (entry : List Byte) : Shape.Statement (.acqStop entry) := fun _ _ h => nomatch h
theorem Shape.acqSet (entry : List Byte) : Shape.Statement (.acqSet entry) := fun _ _ h => nomatch h
theorem Shape.tdcSet (entry : List Byte) : Shape.Statement (.tdcSet entry) := fun _ _ h => nomatch h
theorem Shape.tdcArm (entry : List Byte) : Shape.Statement (.tdcArm entry) := fun _ _ h => nomatch h
theorem Shape.tdcDisarm (entry : List Byte) : Shape.Statement (.tdcDisarm entry) := fun _ _ h => nomatch h
theorem Shape.sliceSet (entry : List Byte) : Shape.Statement (.sliceSet entry) := fun _ _ h => nomatch h
theorem Shape.pmuMeasure (entry : List Byte) : Shape.Statement (.pmuMeasure entry) := fun _ _ h => nomatch h
theorem Shape.monitorSet (entry : List Byte) : Shape.Statement (.monitorSet entry) := fun _ _ h => nomatch h
theorem Shape.tripClear (entry : List Byte) : Shape.Statement (.tripClear entry) := fun _ _ h => nomatch h
theorem Shape.calibrate (entry : List Byte) : Shape.Statement (.calibrate entry) := fun _ _ h => nomatch h
theorem Shape.calAbort (entry : List Byte) : Shape.Statement (.calAbort entry) := fun _ _ h => nomatch h
theorem Shape.spareSet (entry : List Byte) : Shape.Statement (.spareSet entry) := fun _ _ h => nomatch h
theorem Shape.clusterIsolate (entry : List Byte) : Shape.Statement (.clusterIsolate entry) := fun _ _ h => nomatch h
theorem Shape.stackCastout (entry : List Byte) : Shape.Statement (.stackCastout entry) := fun _ _ h => nomatch h
theorem Shape.portUp (x : PortSeen) : Shape.Statement (.portUp x) := fun _ _ h => nomatch h
theorem Shape.portDown (x : PortSeen) : Shape.Statement (.portDown x) := fun _ _ h => nomatch h
theorem Shape.beaconFrame (west : Bool) (lanes : List (List Nat)) : Shape.Statement (.beaconFrame west lanes) := fun _ _ h => nomatch h
theorem Shape.helloFrame (west : Bool) (lanes : List (List Nat)) : Shape.Statement (.helloFrame west lanes) := fun _ _ h => nomatch h
theorem Shape.triggerFrame (west : Bool) (lanes : List (List Nat)) : Shape.Statement (.triggerFrame west lanes) := fun _ _ h => nomatch h
theorem Shape.rendezvousFrame (west : Bool) (lanes : List (List Nat)) : Shape.Statement (.rendezvousFrame west lanes) := fun _ _ h => nomatch h
theorem Shape.failFrame (west : Bool) (lanes : List (List Nat)) : Shape.Statement (.failFrame west lanes) := fun _ _ h => nomatch h
theorem Shape.soundReq (west : Bool) (lanes : List (List Nat)) (frac : Nat) (dep : Nat) : Shape.Statement (.soundReq west lanes frac dep) := fun _ _ h => nomatch h
theorem Shape.soundEcho (west : Bool) (lanes : List (List Nat)) (frac : Nat) : Shape.Statement (.soundEcho west lanes frac) := fun _ _ h => nomatch h
theorem Shape.frameDiscard (west : Bool) : Shape.Statement (.frameDiscard west) := fun _ _ h => nomatch h
theorem Shape.convoyFormed : Shape.Statement .convoyFormed := fun _ _ h => nomatch h
theorem Shape.masterChange (reach : List Nat) : Shape.Statement (.masterChange reach) := fun _ _ h => nomatch h
theorem Shape.positionFreed (pos : Nat) : Shape.Statement (.positionFreed pos) := fun _ _ h => nomatch h
theorem Shape.linkSounding (west : Bool) (frac : Nat) : Shape.Statement (.linkSounding west frac) := fun _ _ h => nomatch h
theorem Shape.timeStep : Shape.Statement .timeStep := fun _ _ h => nomatch h
theorem Shape.remoteTriggerDelivery : Shape.Statement .remoteTriggerDelivery := fun _ _ h => nomatch h
theorem Shape.rendezvousRelease (c : Nat) : Shape.Statement (.rendezvousRelease c) := fun _ _ h => nomatch h
theorem Shape.rendezvousTimeout (c : Nat) : Shape.Statement (.rendezvousTimeout c) := fun _ _ h => nomatch h
theorem Shape.blockHop (kind : Nat) (origin : Nat) (owner : Nat) (hop : Nat) (ok : Bool) (selected : Bool) : Shape.Statement (.blockHop kind origin owner hop ok selected) := fun _ _ h => nomatch h
theorem Shape.refetchArrival (kind : Nat) (origin : Nat) (owner : Nat) (ok : Bool) : Shape.Statement (.refetchArrival kind origin owner ok) := fun _ _ h => nomatch h
theorem Shape.injectedDropDetect (kind : Nat) (origin : Nat) (owner : Nat) : Shape.Statement (.injectedDropDetect kind origin owner) := fun _ _ h => nomatch h
theorem Shape.chkArm (u : Nat) : Shape.Statement (.chkArm u) := fun _ _ h => nomatch h
theorem Shape.chkDisarm (u : Nat) : Shape.Statement (.chkDisarm u) := fun _ _ h => nomatch h
theorem Shape.chkFeed (u : Nat) (v : Nat) : Shape.Statement (.chkFeed u v) := fun _ _ h => nomatch h
theorem Shape.chkFeed8 (u : Nat) (v : Nat) : Shape.Statement (.chkFeed8 u v) := fun _ _ h => nomatch h
theorem Shape.chkResStatRead (u : Nat) : Shape.Statement (.chkResStatRead u) := fun _ _ h => nomatch h
theorem Shape.chkResAdv (u : Nat) : Shape.Statement (.chkResAdv u) := fun _ _ h => nomatch h
theorem Shape.tollLockoutExpiry (k : Nat) : Shape.Statement (.tollLockoutExpiry k) := fun _ _ h => nomatch h
theorem Shape.regWriteT (entry : List Byte) : Shape.Statement (.regWriteT entry) := fun _ _ h => nomatch h
theorem Shape.ownerClaim (entry : List Byte) (block : Option (List Byte)) : Shape.Statement (.ownerClaim entry block) := fun _ _ h => nomatch h
theorem Shape.ownerRelease (entry : List Byte) (block : Option (List Byte)) : Shape.Statement (.ownerRelease entry block) := fun _ _ h => nomatch h
theorem Shape.keySet (entry : List Byte) (block : Option (List Byte)) : Shape.Statement (.keySet entry block) := fun _ _ h => nomatch h
theorem Shape.keyErase (entry : List Byte) (block : Option (List Byte)) : Shape.Statement (.keyErase entry block) := fun _ _ h => nomatch h
theorem Shape.castKeySet (entry : List Byte) (block : Option (List Byte)) : Shape.Statement (.castKeySet entry block) := fun _ _ h => nomatch h
theorem Shape.ownerPolicy (entry : List Byte) (block : Option (List Byte)) : Shape.Statement (.ownerPolicy entry block) := fun _ _ h => nomatch h
theorem Shape.attest (entry : List Byte) : Shape.Statement (.attest entry) := fun _ _ h => nomatch h
theorem Shape.identityRead (entry : List Byte) : Shape.Statement (.identityRead entry) := fun _ _ h => nomatch h
theorem Shape.fwUpdate (entry : List Byte) : Shape.Statement (.fwUpdate entry) := fun _ _ h => nomatch h
theorem Shape.fwHeaderChecked (data : Option (List Byte)) : Shape.Statement (.fwHeaderChecked data) := fun _ _ h => nomatch h
theorem Shape.fwWriteDone (data : Option (List Byte)) : Shape.Statement (.fwWriteDone data) := fun _ _ h => nomatch h
theorem Shape.fwActivate (entry : List Byte) : Shape.Statement (.fwActivate entry) := fun _ _ h => nomatch h
theorem Shape.fwConfirm (entry : List Byte) : Shape.Statement (.fwConfirm entry) := fun _ _ h => nomatch h
theorem Shape.trialFailed : Shape.Statement .trialFailed := fun _ _ h => nomatch h
theorem Shape.trialReadyTimeout : Shape.Statement .trialReadyTimeout := fun _ _ h => nomatch h
theorem Shape.controllerLoadTimeout (ctl : Nat) : Shape.Statement (.controllerLoadTimeout ctl) := fun _ _ h => nomatch h
theorem Shape.powerFailWarning (vin : Nat) (pf : Bool) : Shape.Statement (.powerFailWarning vin pf) := fun _ _ h => nomatch h
theorem Shape.powerFailEnd (vin : Nat) : Shape.Statement (.powerFailEnd vin) := fun _ _ h => nomatch h
theorem Shape.moduleStart (hot : Bool) : Shape.Statement (.moduleStart hot) := fun _ _ h => nomatch h
theorem Shape.resetAssert : Shape.Statement .resetAssert := fun _ _ h => nomatch h
theorem Shape.moduleReady : Shape.Statement .moduleReady := fun _ _ h => nomatch h
theorem Shape.thermalSample (readings : List Machine.Reading) (vin : Nat) (pin : Nat) : Shape.Statement (.thermalSample readings vin pin) := fun _ _ h => nomatch h
theorem Shape.thmResume (n : Nat) : Shape.Statement (.thmResume n) := fun _ _ h => nomatch h
theorem Shape.hardTrip : Shape.Statement .hardTrip := fun _ _ h => nomatch h
theorem Shape.nvPageDone : Shape.Statement .nvPageDone := fun _ _ h => nomatch h
theorem Shape.nvTransactionCommit : Shape.Statement .nvTransactionCommit := fun _ _ h => nomatch h
theorem Shape.contactEngagedAssert : Shape.Statement .contactEngagedAssert := fun _ _ h => nomatch h
theorem Shape.contactEngagedDeassert : Shape.Statement .contactEngagedDeassert := fun _ _ h => nomatch h
theorem Shape.bypass : Shape.Statement .bypass := fun _ _ h => nomatch h
theorem Shape.samplePreload (pins : List Bool) (shiftIn : List Bool) : Shape.Statement (.samplePreload pins shiftIn) := fun _ _ h => nomatch h
theorem Shape.extest (pins : List Bool) : Shape.Statement (.extest pins) := fun _ _ h => nomatch h
theorem Shape.idcode : Shape.Statement .idcode := fun _ _ h => nomatch h
theorem Shape.powerLoss : Shape.Statement .powerLoss := fun _ _ h => nomatch h
theorem Shape.castChecksComplete (data : Option (List Byte)) : Shape.Statement (.castChecksComplete data) := fun _ _ h => nomatch h
theorem Shape.preFilled (u : Nat) : Shape.Statement (.preFilled u) := fun _ _ h => nomatch h
theorem Shape.vsetRampEnd (i : Nat) : Shape.Statement (.vsetRampEnd i) := fun _ _ h => nomatch h
theorem Shape.monitorInside (x : CodeRead) : Shape.Statement (.monitorInside x) := fun _ _ h => nomatch h
theorem Shape.blankedOutside (x : CodeRead) : Shape.Statement (.blankedOutside x) := fun _ _ h => nomatch h
theorem Shape.currentLimitEngaged (x : CodeRead) : Shape.Statement (.currentLimitEngaged x) := fun _ _ h => nomatch h
theorem Shape.sampleSaturated (u : Nat) : Shape.Statement (.sampleSaturated u) := fun _ _ h => nomatch h
theorem Shape.outputStageLimit (u : Nat) : Shape.Statement (.outputStageLimit u) := fun _ _ h => nomatch h
theorem Shape.tdcTdataRead (ch : Nat) : Shape.Statement (.tdcTdataRead ch) := fun _ _ h => nomatch h
theorem Shape.lvlTdataRead (ch : Nat) : Shape.Statement (.lvlTdataRead ch) := fun _ _ h => nomatch h

end Sys2Proof.Laws
end

