-- ==== Sys2Proof/Tests/Slice0.lean ====
section
/-!
SUPPORT. Tests/Slice0.lean: the module's own tests. Ill-formed commands are refused, the spec's worked examples come out, and for every
obligation with hypotheses a named theorem shows concrete states and operands that meet them, clause by clause, with some of what the
clause concludes.
-/

namespace Sys2Proof.Tests

set_option Elab.async false

open Sys2Proof Sys2Proof.Machine

/-- A command answers a next state of which `p` holds. -/
def after (c : Instr) (s : State) (p : State → Bool) : Bool := match exec c s with
  | .next t => p t
  | _ => false

/-- A command changes no register, shadow, memory or context. -/
def stays (c : Instr) (s : State) : Bool :=
  after c s fun t => t.regs == s.regs && t.shadow == s.shadow && t.mem == s.mem && t.ctxs == s.ctxs && t.opens == s.opens

/-- The module after reset, with READY set. -/
def ready : State := { State.reset.setBit SYS_STAT 15 true with start := ⟨2, 0, none, false, false⟩ }

/-- A state in a later clock of its first stage. -/
def later (n : Nat) (s : State) : State := { s with time := { s.time with clock := BitVec.ofNat 48 n, up := n } }

/-! Registers (O1 to O8). -/

theorem test_witness_AccessesWithoutEffect :
    after (.registerWrite 0x40 3 5) ready (fun t => t.bit SYS_EVT 2 && t.rdN SYS_ACC_CNT == 1) = true ∧
    after (.registerWrite 0x41 2 5) ready (fun t => t.rdN SYS_ACC_ERR == 0x41) = true ∧
    after (.registerWrite 0x42 4 5) (ready.evt SYS_EVT 2) (fun t => t.rdN SYS_ACC_ERR == 0 && t.rdN SYS_ACC_CNT == 1) = true ∧
    after (.registerWrite 0x08000000 2 5) ready (fun t => t.rdN SYS_ACC_ERR_1 == 0x8800) = true ∧
    after (.registerWrite 0x0FFEFFFE 2 5) ready (fun t => t.bit SYS_EVT 2) = true ∧
    after (.groupReadLatch 0 0) ready (fun t => t.read.data == 0 && t.bit SYS_EVT 2) = true ∧
    (regAt 0x07FFFFFE).isNone = true ∧ stays (.registerWrite 0x07FFFFFE 2 5) ready = true ∧
    (regAt (CST_SITE_EN 0)).isSome = true ∧ State.reset.bit SYS_STAT 15 = false ∧ (CST_SITE_EN 0) / 0x1000 = 1 ∧
    stays (.registerWrite (CST_SITE_EN 0) 2 1) State.reset = true := by decide +kernel

theorem test_witness_ShadowedWritesWait :
    (regAt (CST_SITE_EN 0)).any (fun r => r.1.shadowed && accMask .rwt r.1 == 0 && accMask .w1c r.1 == 0) = true ∧
    (later 3055 ready).toTick = 17 ∧ (later 3056 ready).toTick = 16 ∧
    after (.registerWrite (CST_SITE_EN 0) 2 5) (later 3055 ready) (fun t =>
      tabGet (fun _ => none) t.shadow (CST_SITE_EN 0) == some 5#16 && t.shadowNext.isEmpty && t.rd (CST_SITE_EN 0) == 0) = true ∧
    after (.registerWrite (CST_SITE_EN 31) 2 0xFFFF) (later 3056 ready) (fun t =>
      tabGet (fun _ => none) t.shadowNext (CST_SITE_EN 31) == some 0xFFFF#16 && t.shadow.isEmpty) = true ∧
    isShadowed (CST_SITE_EN 31) = true ∧
    after (.groupReadLatch (0x08000000 + CST_SITE_EN 31) 2) { ready with shadow := [(CST_SITE_EN 31, some 7)] } (fun t => t.read.data == 7) = true ∧
    after (.groupReadLatch (0x08000000 + CST_SITE_EN 31) 2) { ready with shadow := [(CST_SITE_EN 31, some 7)], shadowNext := [(CST_SITE_EN 31, some 9)] }
      (fun t => t.read.data == 9) = true := by decide +kernel

theorem test_witness_profile_claims :
    after (.registerWrite (CST_SITE_EN 0) 2 5) { later 3055 ready with claimed := [(CST_SITE_EN 0, 1#16)] } (fun t =>
      tabGet (fun _ => none) t.shadow (CST_SITE_EN 0) == some 4#16) = true ∧
    ({ later 3055 ready with claimed := [(CST_SITE_EN 0, 1#16)] }).sched.running = [] ∧
    ({ later 3055 ready with claimed := [(CST_SITE_EN 0, 1#16)] }).toTick = 17 := by decide +kernel

theorem test_witness_EventsAndCountersClear :
    ([SYS_EVT, HST_EVT, CST_EVT, TOL_EVT, CVY_EVT].all fun a => (maskAt .w1c a).getLsbD 0) = true ∧
    (maskAt .w1c SYS_EVT).getLsbD 2 = true ∧
    after (.registerWrite SYS_EVT 2 4) { ready.evt SYS_EVT 2 with fresh := [] } (fun t => !t.bit SYS_EVT 2) = true ∧
    after (.registerWrite SYS_EVT 2 4) (ready.evt SYS_EVT 2) (fun t => t.bit SYS_EVT 2) = true ∧
    after (.registerWrite SYS_EVT 2 2) { ready.evt SYS_EVT 2 with fresh := [] } (fun t => t.bit SYS_EVT 2) = true ∧
    (tabGet (fun _ => 0#16) (ready.inc SYS_ACC_CNT).fresh SYS_ACC_CNT).toNat ≤ (ready.inc SYS_ACC_CNT).rdN SYS_ACC_CNT ∧
    after (.counterReadClear SYS_ACC_CNT) { ready.wrN SYS_ACC_CNT 5 with fresh := [(SYS_ACC_CNT, 1)] } (fun t =>
      t.read.data == 4 && t.rdN SYS_ACC_CNT == 1) = true ∧
    after (.counterReadClear WAY_ERR_CNT) (ready.wrN WAY_ERR_CNT 0xFFFF) (fun t => t.read.data == 0xFFFF && t.rdN WAY_ERR_CNT == 0) = true := by
  decide +kernel

theorem test_witness_TimeLatch :
    after .ctimeLatch (later 0x123456789ABC ready) (fun t => t.read.data == 0 && tabGet (fun _ => none) t.latch (SYS_CTIME + 6) == some 0x1234#16) = true ∧
    tabGet (fun _ => none) [(SYS_CTIME + 2, some 0x9ABC#16)] (SYS_CTIME + 2) = some 0x9ABC#16 ∧
    after (.groupReadLatch (SYS_CTIME + 2) 2) { ready with latch := [(SYS_CTIME + 2, some 0x9ABC#16)] } (fun t => t.read.data == 0x9ABC) = true ∧
    after (.groupReadLatch SYS_CTIME_EPOCH 2) { ready with latch := [(SYS_CTIME_EPOCH, some 3#16)] } (fun t => t.read.data == 3) = true := by decide +kernel

theorem test_witness_DirectWriteToTolledRegister :
    (regAt (DPS_SCEIL 0)).any (fun r => accMask .rwt r.1 != 0) = true ∧ (regAt (DPS_SCEIL 511)).any (fun r => accMask .rwt r.1 != 0) = true ∧
    after (.directWrite (DPS_SCEIL 511) 5) (ready.wrN TOL_DIRECT_CNT 0xFFFF) (fun t => t.rdN TOL_DIRECT_CNT == 0xFFFF && t.bit TOL_EVT 1) = true := by
  decide +kernel

theorem test_witness_CommitHold :
    after .commitHoldRelease { later 3056 ready with hold := ⟨true, 0, 5⟩ } (fun t => t.hold.release == 2) = true ∧
    after .commitHoldRelease { later 3055 ready with hold := ⟨true, 0, 5⟩ } (fun t => t.hold.release == 1) = true ∧
    after .commitHoldRelease ready (fun t => t.hold == ⟨false, 0, 0⟩) = true ∧
    after .commitHoldTimeout { ready.setBit SYS_CTL 0 true with hold := ⟨true, 0, 1024⟩ } (fun t => t.bit SYS_EVT 1 && t.hold.release == 1) = true ∧
    stays .commitHoldTimeout { ready.setBit SYS_CTL 0 true with hold := ⟨true, 0, 1023⟩ } = true ∧ stays .commitHoldTimeout ready = true := by decide +kernel

theorem test_canonical : Registers.wf ready.regs = true ∧ Memory.wf ready.mem = true ∧ HostMemory.wf ready.host.mem = true := by decide +kernel

theorem test_witness_StageTickCounts : ready.Canonical ∧ ready.start.phase ≠ 0 ∧ ready.start.phase ≠ 4 ∧
    (later (2 ^ 48 - 1) ready).nextWraps = true ∧ ready.nextWraps = false ∧ ready.stepsNow = false ∧
    ({ ready with cvy := { ready.cvy with step := some 5 } }.wrN CVY_STAT 0x0100).stepsNow = true ∧ State.reset.start.phase = 0 :=
  ⟨test_canonical, by decide +kernel⟩

theorem test_witness_TicksBeginStagesAndCopyShadows :
    ready.cvy.step = none ∧ (stageBegins (later 3071 ready)).time.clock = 3072 ∧ (stageBegins (later 3072 ready)).time.clock = 6144 ∧
    (stageBegins (later (2 ^ 48 - 1) ready)).time.epoch = 1 ∧
    tabWf (fun _ => none) [(CST_SITE_EN 0, some 5#16)] = true ∧
    ({ ready with shadow := [(CST_SITE_EN 0, some 5#16)] }).copyShadows.rd (CST_SITE_EN 0) = 5 := by decide +kernel

/-! Stages, steps and invariants (O9 to O14). -/

theorem test_stage_tick : after (.stageTick []) (later 3071 ready) (fun t => t.time.stage == 1 && t.time.clock == 3072#48 && t.pending.isEmpty) = true := by
  decide +kernel

theorem test_clock_wrap : after (.clockWrap []) (later (2 ^ 48 - 1) ready) (fun t => t.time.stage == 1 && t.time.epoch == 1) = true := by
  decide +kernel

theorem test_witness_StageCounterMovesOnlyAtTicks : ready.Canonical ∧ after .commitHoldSet ready (fun t => t.time.stageOf == ready.time.stageOf) = true :=
  ⟨test_canonical, by decide +kernel⟩

theorem test_witness_EveryStepKeepsTheStateCanonical : ready.Canonical ∧ after (.linkUp 1 1 true) ready (fun t => Registers.wf t.regs && HostMemory.wf t.host.mem) = true :=
  ⟨test_canonical, by decide +kernel⟩

theorem test_witness_IdleStepIsOneClock :
    ready.pending = [] ∧ State.reset.start.phase = 0 ∧ ready.start.phase = 2 ∧ ready.toTick = 3072 ∧ (later 3071 ready).toTick = 1 := by decide +kernel

theorem test_witness_CommandsKeepTheQueue : ready.Canonical ∧ ({ ready with nv := { ready.nv with revoked := 2 } }.nv.revoked).testBit 1 = true ∧
    after (.isoSet 15) { ready with nv := { ready.nv with revoked := 2 } } (fun t => t.nv.revoked.testBit 1) = true :=
  ⟨test_canonical, by decide +kernel⟩

/-! Sequencers and run-ahead (O15 to O22). -/

/-- One caravan with one site of one pin, channel 404, in trip group 3; a pattern and a fail partition of 2 MiB in stack 0; slice 5 belongs
to the site. -/
def castA : Casting :=
  { Casting.none with
    stores := [⟨0, 1, 1, 0, 1⟩, ⟨1, 2, 1, 1, 1⟩], caravans := [⟨0, 1, 256, 0, 1, 1⟩], sites := [⟨7, 0, 0, 1, 3, true⟩]
    pins := [⟨404, false, 7, 0, 1, 0, 0⟩], powers := [⟨5, 5, false, 7⟩], repairs := [⟨0, 2, 2, 0, 4, 4, 1, 1⟩], trips := [⟨3, 0, true⟩]
    sounds := [⟨0, 0, 404, 404, 1, 20⟩] }

/-- Directory entry 0 is a program of 4 instructions at partition address 512, entry 1 a stored segment of 4 rows of lane 25, entry 2 a
stream segment of 4 rows of lane 25 with its consumer index at host address 64. -/
def memA : Tab Byte :=
  [(0, 8#8), (4, 4#8), (8, 5#8), (64, 16#8), (68, 4#8), (72, 1#8), (83, 2#8), (128, 32#8), (132, 4#8), (136, 3#8), (147, 2#8), (168, 16#8), (184, 64#8),
    (512, 1#8)]

/-- The casting is applied, its site enabled and its sounding valid. -/
def cast : State :=
  ((({ ready with cast := { ready.cast with applied := some castA }, mem := memA }.setBit (CST_SITE_EN 0) 7 true).wrN (RUN_CD_MIN 0) 0x8100)).wrN
    (RUN_CD 0) 256

/-- An instruction of an opcode. -/
def ins (op arg cond : Nat) : PatInstr := { patInstr [] with op := op, arg := arg, cond := cond }

/-- A position with a call stack and an active loop. -/
def pos0 : SeqPos :=
  let q := SeqPos.first 9
  { q with vec := 64, stack := [4], loops := q.loops.set 0 { LoopCtr.init with active := true, count := 2, loaded := 5, head := 1, order := 1, depth := 1 } }

/-- A path whose block of opcode `op` is over. -/
def path0 (op cond : Nat) (need : List (Nat × Bool)) : Path :=
  ⟨pos0, some ⟨3, ins op 7 cond, 1, 0, true, 0⟩, need, 0, .none, 0, 0⟩

/-- The context runs from one path. -/
def run0 (op cond : Nat) (need : List (Nat × Bool)) : State :=
  (cast.wrN (SEQ_STAT 0) 2).setCtx 0 { Ctx.init with sites := [7], delay := 256, paths := [path0 op cond need], instrs := [0] }

/-- A vector of a site. -/
def vec0 (p : Nat) (need : List (Nat × Bool)) : Vec :=
  { pos := p, gen := 0, slots := 6, index := 3, instr := ins 1 0 0, need := need, syms := [(404, 4)], read := none, dbits := [], clash := false, row := 0
    loops := [], apg := ⟨0, 0, 0, false, []⟩, depth := 0, first := false, last := false, cause := 0, causeIdx := 0, rdLat := 0, cross := 0, applied := []
    straggler := false, stream := (0, 0), run := (0, 0), strobes := [] }

/-- The same vector, across the pour line with one strobe. -/
def wait0 : Vec := { vec0 0 [] with strobes := [⟨404, 7, 0, 4, false, false, none⟩] }

theorem test_witness_RunsStartStopAndResume :
    cast.startCode 0 = none ∧ cast.startCode 63 = some 0x0D01 ∧ findCaravan cast.casting 63 = none ∧
    after (.seqStart 0) cast (fun t => t.fld (SEQ_STAT 0) 2 0 == 2 && (t.ctx 0).sites == [7] && (t.ctx 0).delay == 256) = true ∧
    after (.seqStart 63) cast (fun t => t.rdN (SEQ_CODE 63) == 0x0D01 && t.bit (SEQ_EVT 63) 0) = true ∧
    after (.seqResume 0) cast (fun t => t.rdN (SEQ_CODE 0) == 0x0D05) = true ∧
    after (.seqRestartLoop 0) ((run0 1 0 []).wrN (SEQ_STAT 0) 3) (fun t => t.fld (SEQ_STAT 0) 2 0 == 2 && ((t.ctx 0).paths.map fun p => (p.pos.pc, p.pos.stack)) == [(1, [4])]) = true ∧
    pos0.innermost = some 0 ∧ (SeqPos.first 9).innermost = none ∧
    ((run0 1 0 []).ingotCause 0 ⟨3, ins 1 7 0, 1, 0, true, 0⟩) = none ∧
    after (.seqResume 0) ((run0 1 0 []).wrN (SEQ_STAT 0) 3) (fun t => t.fld (SEQ_STAT 0) 2 0 == 2) = true ∧
    stays (.stallResume 0) ((run0 1 0 []).wrN (SEQ_STAT 0) 3) = true ∧
    after (.stallResume 0) (((run0 1 0 []).wrN (SEQ_STAT 0) 3).setCtx 0 { (run0 1 0 []).ctx 0 with resume := true }) (fun t => t.fld (SEQ_STAT 0) 2 0 == 2) = true ∧
    stays (.seqStop 0) cast = true ∧
    ((run0 1 0 []).ctx 0).waits = [] ∧ (run0 1 0 []).stragglersOf 0 = [] ∧
    after (.seqStop 0) (run0 1 0 []) (fun t => ((t.ctx 0).paths.map fun p => p.pos.stop) == [some 64]) = true := by decide +kernel

theorem test_witness_AtAction : ∀ op ∈ [1, 2, 3, 4, 5, 6, 7, 8, 9, 10, 11],
    AtAction (run0 op 6 []) 0 0 op (path0 op 6 []) ⟨3, ins op 7 6, 1, 0, true, 0⟩ := by
  intro op h
  refine ⟨?_, ?_, ?_, ?_, ?_, ?_, ?_, ?_⟩ <;> revert op <;> decide +kernel

theorem test_witness_ControlActions :
    ((path0 5 6 []).pos.stack = [4]) ∧ 0 < (path0 6 6 []).pos.loops.length ∧
    after (.ret 0 0) (run0 5 6 []) (fun t => ((t.ctx 0).paths.map fun p => (p.pos.pc, p.pos.stack)) == [(4, [])]) = true ∧
    after (.loopEnd 0 0) (run0 7 6 []) (fun t => ((t.ctx 0).paths.map fun p => (p.pos.pc, (p.pos.loopAt 0).count)) == [(7, 1)]) = true ∧
    after (.branch 0 0) ((run0 3 6 []).setBit (SEQ_HFLAG 0) 0 true) (fun t => ((t.ctx 0).paths.map fun p => p.pos.pc) == [7]) = true ∧
    after (.halt 0 0) ((run0 10 6 []).setCtx 0 { (run0 10 6 []).ctx 0 with vecs := [vec0 0 []] }) (fun t =>
      t.fld (SEQ_STAT 0) 2 0 == 2 && (t.ctx 0).code == some 0x0D10 && (t.ctx 0).paths.isEmpty && (t.ctx 0).vecs.length == 1) = true ∧
    after (.halt 0 0) ((run0 10 6 []).setCtx 0 { (run0 10 6 []).ctx 0 with sites := [] }) (fun t =>
      t.fld (SEQ_STAT 0) 2 0 == 4 && t.rdN (SEQ_CODE 0) == 0x0D10 && t.bit (SEQ_EVT 0) 1) = true ∧
    ((run0 10 6 []).rdvEntry 0 7 = none) ∧ (((run0 9 6 []).wrN (CVY_RDV 0) 0x8000).wrN (CVY_RDV_LABEL 0) 7).rdvEntry 0 7 = some 0 := by decide +kernel

/-- An unresolved branch. -/
def fork0 (id : Nat) (need : List (Nat × Bool)) : Fork := ⟨id, false, false, 63, 0, 3, ins 3 7 0, need, pos0, 0, false⟩

theorem test_witness_BranchesForkAndResolve :
    (path0 3 0 [(0, true)]).need ≠ [] ∧
    after (.branch 0 0) (run0 3 0 [(0, true)]) (fun t => (t.ctx 0).forks.length == 1 && ((t.ctx 0).paths.map fun p => p.pos.pc) == [4, 7] &&
      t.rdN (RUN_FORK_CNT 0) == 1) = true ∧
    after (.branch 0 0) ((run0 3 5 [(0, true), (1, true)]).setCtx 0 { (run0 3 5 [(0, true), (1, true)]).ctx 0 with forks := [fork0 0 [], fork0 1 [(0, true)]], nextFork := 2 })
      (fun t => (t.ctx 0).paths.length == 1 && t.rdN (RUN_PRED_CNT 0) == 1 && t.rdN (RUN_FORK_CNT 0) == 0) = true ∧
    (cast.setCtx 0 { Ctx.init with forks := [fork0 0 []], paths := [path0 1 0 [(0, true)], path0 1 0 [(0, false)]] }).ripeFork 0 = some (fork0 0 []) ∧
    ((cast.setCtx 0 { Ctx.init with forks := [fork0 0 []], paths := [path0 1 0 [(0, true)], path0 1 0 [(0, false)]] }).outcome 0 0 63 0 (ins 3 7 0)).2 = [] ∧
    after (.branchResolved 0) (cast.setCtx 0 { Ctx.init with forks := [fork0 0 []], paths := [path0 1 0 [(0, true)], path0 1 0 [(0, false)]] })
      (fun t => (t.ctx 0).forks.isEmpty && ((t.ctx 0).paths.map (·.need)) == [[]]) = true ∧
    cast.ripeFork 0 = none ∧ stays (.branchResolved 0) cast = true := by decide +kernel

/-- A path that generates a block, stored or not. -/
def gen0 (stored : Bool) (seg : Nat) : Path :=
  ⟨pos0, some ⟨3, { ins 1 7 0 with stored := stored, segment := seg, rep := 3 }, 0, 3, false, 0⟩, [], 0, .none, 0, 0⟩

/-- The context runs from a path that generates. -/
def genS (stored : Bool) (seg : Nat) : State :=
  (cast.wrN (SEQ_STAT 0) 2).setCtx 0 { Ctx.init with sites := [7], delay := 256, paths := [gen0 stored seg], present := [(1, 3)] }

theorem test_witness_PatternDataArrivesAndIsGenerated :
    ((genS true 1).segEntry 0 1).length = 4 ∧ (genS true 1).ingotCause 0 ⟨3, { ins 1 7 0 with stored := true, segment := 1, rep := 3 }, 0, 3, false, 0⟩ = none ∧
    (genS true 1).anySite 0 = true ∧
    after (.ingotGenerate 0 0) (genS false 0) (fun t => (t.ctx 0).vecs.length == 64 && ((t.ctx 0).paths.map fun p => p.pos.vec) == [128]) = true ∧
    after (.ingotGenerate 0 0) (genS true 1) (fun t => (t.ctx 0).vecs.length == 64) = true ∧
    (genS true 1).ctxActive 0 = true ∧ ((genS true 1).segEntry 0 0).kind = 5 ∧ (genS true 1).entryLocked 0 0 = false ∧ 3 ∉ ((genS true 1).ctx 0).instrs ∧
    after (.prefetchArrival 0 0 3) (genS true 1) (fun t => (t.ctx 0).instrs == [3]) = true ∧
    (genS true 1).segValid 0 ((genS true 1).segEntry 0 1) = true ∧ ((genS true 1).segEntry 0 1).isStream = false ∧ (genS true 1).prefetchDepth 0 = 32 ∧
    after (.prefetchArrival 0 1 0) (genS true 1) (fun t => (t.ctx 0).present == [(1, 3), (1, 0)]) = true ∧
    (genS true 2).streamEntry 0 = some 2 ∧ (genS true 2).segValid 0 ((genS true 2).segEntry 0 2) = true ∧ ((genS true 2).segEntry 0 2).rowBytes = 256 ∧
    ((genS true 2).segEntry 0 2).consAddr = 64 ∧
    after (.streamRowFetch 0 1 (List.replicate 256 5#8)) ((genS true 2).setBit HST_STAT 15 true) (fun t =>
      tabGet (fun _ => 0) (t.ctx 0).fetched 2 == 1 && t.hostByte 64 == some 1#8 && t.hostByte 71 == some 0#8) = true := by decide +kernel

theorem test_witness_SequenceTables :
    ready.fld (SEQ_TSEL 63) 15 12 = 0 ∧ ready.fld (SEQ_TSEL 63) 11 0 = 0 ∧ tableSize 0 = 1024 ∧ tableSize 4 = 256 ∧
    after (.seqTableEntryWrite 63 5) (ready.wrN (SEQ_TSEL 63) 0x40FF) (fun t =>
      tableEntry (t.ctx 63).tables.shadow 4 255 == 5 && t.rdN (SEQ_TSEL 63) == 0x4100) = true ∧
    stays (.seqTableEntryWrite 63 5) (ready.wrN (SEQ_TSEL 63) 0x4100) = true ∧ stays (.seqTableEntryWrite 63 5) (ready.wrN (SEQ_TSEL 63) 0x5000) = true ∧
    ready.wide (SEQ_TCRC 63) 2 = 0 ∧ (ready.wrN (SEQ_TCRC 63) 1).wide (SEQ_TCRC 63) 2 = 1 ∧ (ready.wrN (SEQ_TCRC 63) 1).ctx 63 = ready.ctx 63 := by
  decide +kernel

/-- Of two values of SEQ_TCRC at least one differs from the tables' CRC, and one value equals it. -/
theorem test_witness_table_crc : (∃ v < 2, tableCrc (ready.ctx 63).tables.shadow 4 ≠ v) ∧ tableCrc (ready.ctx 63).tables.shadow 4 < 2 ^ 32 := by
  refine ⟨?_, BitVec.isLt _⟩
  by_cases h : tableCrc (ready.ctx 63).tables.shadow 4 = 0
  · exact ⟨1, by omega, by omega⟩
  · exact ⟨0, by omega, h⟩

/-- The context runs with two vectors generated, and results of an older one are awaited. -/
def flow (v : Vec) : State :=
  later 300 ((cast.wrN (SEQ_STAT 0) 2).setCtx 0 { Ctx.init with sites := [7], delay := 256, paths := [path0 1 0 []], vecs := [v], await := [.vec wait0 none], expect := some 0 })

theorem test_witness_VectorsCrossAndAreCompared :
    (flow (vec0 65 [])).nextVec 0 = some (vec0 65 []) ∧ (flow (vec0 65 [])).crossClock 0 (vec0 65 []) ≤ 300 ∧ wait0.strobes ≠ [] ∧
    after (.pourLineCrossing 0) (flow (vec0 65 [])) (fun t => (t.ctx 0).vecs.isEmpty && t.wide (SEQ_PC 0) 2 == 3 && (t.ctx 0).await.length == 2 &&
      (t.ctx 0).expect == some 6) = true ∧
    after (.pourLineCrossing 0) (flow (vec0 65 [(4, true)])) (fun t => (t.ctx 0).vecs.isEmpty && (t.ctx 0).await.length == 1) = true ∧
    wait0.instr.isMatch = false ∧ wait0.applied = [] ∧ (flow (vec0 65 [])).awaitHome 0 = some 0 ∧ wait0.stream = (0, 0) ∧
    after (.compareResult 0 []) (flow (vec0 65 [])) (fun t => (t.ctx 0).await.isEmpty) = true ∧ stays (.compareResult 0 []) cast = true := by decide +kernel

/-- The oldest vector that waits is of context 5, or of context 0 and a MATCH vector. -/
def queuedWaits : State := (flow (vec0 65 [])).setCtx 0 { (flow (vec0 65 [])).ctx 0 with await := [.vec { wait0 with stream := (5, 0) } none, .vec wait0 none] }
def matching : Vec := { wait0 with instr := { ins 1 0 0 with isMatch := true } }
def matchWaits : State :=
  ((flow (vec0 65 [])).setCtx 0 { (flow (vec0 65 [])).ctx 0 with await := [.vec matching none], lineage := [(0, 0)] }).wrN (RUN_SITE_STAT 7) 1

theorem test_witness_results_in_order :
    queuedWaits.awaitHome 0 = some 0 ∧ after (.compareResult 0 [⟨404, true, false, false⟩]) queuedWaits (fun t =>
      (t.ctx 0).await == [.vec { wait0 with stream := (5, 0) } none, .vec wait0 (some [⟨404, true, false, false⟩])]) = true ∧
    (matching.fails [⟨404, true, false, false⟩]).map Strobe.site = [7] ∧ matchWaits.siteServed 7 = true ∧ matchWaits.ctxOfSite 7 = 0 ∧
    matchWaits.awaitHome 0 = some 0 ∧
    after (.compareResult 0 [⟨404, true, false, false⟩]) matchWaits (fun t => (t.ctx 0).results == [(7, 512)]) = true := by decide +kernel

/-- The site is served by the context, at an ingot boundary. -/
def bound : State := ((flow (vec0 64 [])).wrN (RUN_SITE_STAT 7) 2).setSite 7 { Site.init with abort := some (false, 299) }

/-- A group of one site that has waited 64 stages at a limit of 1. -/
def group0 : WaitGroup := ⟨[7], pos0, 64, 3, 0, 0, [], []⟩

theorem test_witness_SitesLeaveTheirRun :
    bound.siteServed 7 = true ∧ bound.boundaryCtx 7 = 0 ∧ bound.homeOf 0 = 0 ∧ ((bound.site 7).abort.any fun a => a.2 < bound.time.up) = true ∧
    (bound.ctx 0).await = [.vec wait0 none] ∧ (bound.ctx 0).waits = [] ∧
    after (.earlyAbort 7) bound (fun t => t.fld (RUN_SITE_STAT 7) 2 0 == 5 && t.rdN (RUN_SITE_CODE 7) == 0x0F01 && t.bit ASY_EVT 1) = true ∧
    after (.earlyAbort 7) (bound.setCtx 0 { bound.ctx 0 with await := [] }) (fun t => t.fld (RUN_SITE_STAT 7) 2 0 == 5 && t.rdN (RUN_SITE_CODE 7) == 0x0F01) = true ∧
    after (.siteTripped 7) (bound.setSite 7 { bound.site 7 with tripped := true }) (fun t => t.fld (RUN_SITE_STAT 7) 2 0 == 5 && t.rdN (RUN_SITE_CODE 7) == 0x1310) = true ∧
    (((bound.setFld (RUN_CFG 0) 15 8 1).setCtx 0 { bound.ctx 0 with waits := [group0] }).ctx 0).waits.find?
      ((bound.setFld (RUN_CFG 0) 15 8 1).waitOver 0) = some group0 ∧
    after (.waitTimeout 0) ((bound.setFld (RUN_CFG 0) 15 8 1).setCtx 0 { bound.ctx 0 with waits := [group0] }) (fun t =>
      t.fld (RUN_SITE_STAT 7) 2 0 == 5 && t.rdN (RUN_SITE_CODE 7) == 0x0E11 && t.rdN (RUN_SITE_WAIT 7) == 64) = true ∧
    (bound.ctx 0).waits.find? (bound.waitOver 0) = none ∧ stays (.waitTimeout 0) bound = true := by decide +kernel

/-- Caravan 0 is being sounded since clock 0, with a plan of one record; the clock is `n`. -/
def sounding (repeats n : Nat) : State :=
  later n (({ cast with cast := { cast.cast with applied := some { castA with sounds := [⟨0, 0, 404, 404, repeats, 20⟩] } } }.wrN (RUN_SND_STAT 0) 1).setCtx 0
    { Ctx.init with sound := some ⟨0, 0, 0, []⟩ })

theorem test_witness_Soundings :
    after (.soundGo 63) cast (fun t => t.rdN (RUN_SND_CODE 63) == 0x0E0B) = true ∧ cast.soundReady 0 = true ∧ findCaravan cast.casting 0 ≠ none ∧
    after (.soundGo 0) cast (fun t => t.fld (RUN_SND_STAT 0) 1 0 == 1 && !t.bit (RUN_CD_MIN 0) 15 && (t.ctx 0).sound == some ⟨0, 0, 0, []⟩) = true ∧
    stays (.soundAbort 0) cast = true ∧ stays (.soundNoEcho 0 0) cast = true ∧ stays (.soundDone 0 [0]) cast = true ∧
    after (.soundAbort 0) (sounding 1 0) (fun t => t.rdN (RUN_SND_CODE 0) == 0x0E0A && t.bit (RUN_EVT 0) 3 && (t.ctx 0).sound.isNone) = true ∧
    stays (.soundNoEcho 0 1) (sounding 1 4160) = true ∧
    after (.soundNoEcho 0 0) (sounding 1 4160) (fun t => t.rdN (RUN_SND_CODE 0) == 0x0E08 && t.fld (RUN_SND_STAT 0) 1 0 == 3) = true ∧
    (⟨0, 0, 0, []⟩ : Sounding).next (soundsOf (sounding 1 0).casting 0) 2028 = some ⟨1, 0, 2092, [(2028, 20)]⟩ ∧ (soundsOf (sounding 1 0).casting 0).length = 1 ∧
    after (.soundDone 0 [2028]) (sounding 1 2092) (fun t => t.rdN (RUN_CD_MIN 0) == 0x8800 && t.bit (RUN_EVT 0) 2) = true ∧
    after (.soundDone 0 [2029]) (sounding 1 2093) (fun t => t.rdN (RUN_SND_CODE 0) == 0x0E09 && t.fld (RUN_SND_STAT 0) 1 0 == 3) = true ∧
    after (.soundDone 0 [4097]) (sounding 1 4160) (fun t => t.rdN (RUN_SND_CODE 0) == 0x0E08 && t.fld (RUN_SND_STAT 0) 1 0 == 3) = true ∧
    after (.soundDone 0 [1]) (sounding 1 65) (fun t => t.rdN (RUN_CD_MIN 0) == 0x8100) = true ∧
    after (.soundDone 0 [5]) (sounding 2 69) (fun t => (t.ctx 0).sound == some ⟨0, 1, 69, [(5, 20)]⟩) = true ∧
    soundDue ⟨0, 0, 0, []⟩ [5, 7] = 140 ∧ after (.soundDone 0 [5, 7]) (sounding 2 140) (fun t => t.rdN (RUN_CD_MIN 0) == 0x8100) = true := by decide +kernel

/-! Results (O23 to O25). -/

/-- Site 7 with two memory events in its FIFO and one cell known. -/
def assay : State := cast.setSite 7 { Site.init with fifo := [⟨0, 3, 4, 1⟩, ⟨0, 3, 5, 1⟩], session := { Session.empty with cells := [(1, 2, 2)], runs := 1 } }

theorem test_witness_AnalysisLosesNoFail :
    (assay.site 7).fifo = [⟨0, 3, 4, 1⟩, ⟨0, 3, 5, 1⟩] ∧ assay.geometry 7 = some ⟨0, 2, 2, 0, 4, 4, 1, 1⟩ ∧
    after (.memoryEventAnalysis 7) assay (fun t => (t.site 7).session.cells == [(1, 2, 2), (0, 3, 4)] && (t.site 7).fifo.length == 1) = true ∧
    after (.memoryEventAnalysis 7) (assay.setSite 7 { assay.site 7 with session := { Session.empty with cells := [(0, 3, 4), (0, 3, 6)] } })
      (fun t => (t.site 7).session.flag 0 || (t.site 7).session.cells.length == 2 || (t.site 7).session.repairs.length == 1) = true ∧
    stays (.memoryEventAnalysis 7) cast = true := by decide +kernel

theorem test_witness_FinalSearchCoversEveryCell :
    finalCover ⟨0, 2, 2, 0, 4, 4, 1, 1⟩ [(0, 3, 4), (1, 2, 2)] [] = some [⟨0, false, 0, 3, false⟩, ⟨1, false, 1, 2, false⟩] ∧
    finalCover ⟨0, 2, 2, 0, 4, 4, 1, 1⟩ [(0, 1, 1), (0, 2, 2), (0, 3, 3)] [] = none ∧
    (⟨0, 2, 2, 0, 4, 4, 1, 1⟩ : RepairRec).regionOf 0 3 < 2 := by decide +kernel

/-- Site 7 with one fail record accepted. -/
def logged : State := (cast.setSite 7 { Site.init with queue := [List.replicate 32 9#8] }).setShare 7 4096 64

theorem test_witness_SessionsCloseAndReachMemory :
    (cast.wrN (RUN_SITE_STAT 7) 4).siteServed 7 = true ∧ cast.siteServed 7 = false ∧
    after (.finalize 7) (cast.wrN (RUN_SITE_STAT 7) 4) (fun t => t.bit ASY_EVT 5) = true ∧
    after (.sessionClear 7) assay (fun t => (t.site 7).session == Session.empty) = true ∧
    after (.finalize 7) assay (fun t => (t.site 7).session == Session.empty && (t.site 7).finalizing.isNone && t.bit ASY_EVT 0 &&
      (t.queue (ASY_RES_STAT 7)).items.length == 1) = true ∧
    after (.finalize 511) cast (fun t => (t.site 511).finalizing.isNone && (t.queue (ASY_RES_STAT 511)).items.length == 1) = true ∧
    (assay.site 7).finalizing = none ∧ failStore cast.casting 7 = some ⟨1, 2, 1, 1, 1⟩ ∧ (logged.site 7).queue = [List.replicate 32 9#8] ∧
    after (.logDrainWrite 7) logged (fun t => t.memByte (2 ^ 21 + 4096) == 9 && t.memByte (2 ^ 21 + 4127) == 9 && t.memByte (2 ^ 21 + 4128) == 0 &&
      t.wide (ASY_LOG_WR 7) 2 == 1 && (t.site 7).queue.isEmpty) = true ∧
    stays (.logDrainWrite 7) cast = true ∧ stays (.finalAnalysis 7) cast = true ∧
    ((cast.setSite 511 { Site.init with finalizing := some ⟨Session.empty, 0, 0, []⟩ }).site 511).finalizing.isSome = true ∧
    after (.finalAnalysis 511) (cast.setSite 511 { Site.init with finalizing := some ⟨Session.empty, 0, 0, []⟩ })
      (fun t => (t.site 511).finalizing.isNone && t.bit ASY_EVT 0) = true := by decide +kernel

/-! Waveforms (O26, O27). -/

/-- Unit 19 with entry 0 valid: 8 granules from 0, next entry 0, `adv` its advance, `last` its END. -/
def wave (adv : Nat) (last : Bool) : State := (ready.wrN (WFS_SEQ 19 2) 8).wrN (WFS_SEQ 19 5) (0x8000 + 256 * adv + 2048 * last.toNat)

/-- The unit plays that entry since clock 0 and the clock is `n`. -/
def playing (n adv : Nat) (last : Bool) : State := later n ((wave adv last).setFld (WFS_STAT 19) 15 14 1)

theorem test_witness_WaveformSequencersRunAndAdvance :
    (playing 100 3 false).wfsStartCode 19 = some 0x1003 ∧ ready.wfsStartCode 19 = some 0x1004 ∧ (wave 3 false).wfsStartCode 19 = none ∧
    after (.wfsStart 19) (wave 3 false) (fun t => t.wfsState 19 == 1 && (t.wfs 19).at_ == 64) = true ∧
    after (.wfsStart 0) ready (fun t => t.rdN (WFS_CODE 0) == 0x1004 && t.bit (WFS_EVT 0) 0) = true ∧
    (ready.wrN (subReg true 3) 0xA002).awgServes 19 = true ∧ stays (.wfsStart 19) (ready.wrN (subReg true 3) 0xA002) = true ∧
    stays (.wfsStop 19) ready = true ∧ ((playing 100 3 false).wfs 19).stopAt = none ∧ 0 < ((playing 100 3 false).wfs 19).hold ∧
    after (.wfsStop 19) (playing 100 3 false) (fun t => (t.wfs 19).stopAt == some (192, 0x1011)) = true ∧
    (playing 100 2 false).wfsListens 19 [3] = false ∧ (playing 100 3 false).wfsListens 19 [3] = true ∧ (playing 100 3 false).repClocks 19 = 256 ∧
    after (.wfsAdvance 19) (playing 100 2 false) (fun t => t.rdN (WFS_IGN_CNT 19) == 1 && t.bit (WFS_EVT 19) 4) = true ∧
    after (.wfsAdvance 19) (playing 193 3 false) (fun t => (t.wfs 19).next == some (512, 193)) = true ∧
    after (.wfsAdvance 19) (playing 192 3 false) (fun t => (t.wfs 19).next == some (256, 192)) = true ∧
    after (.entryAdvance 19) ((playing 256 3 false).setWfs 19 { Wfs.init with next := some (256, 192) }) (fun t =>
      (t.wfs 19).at_ == 256 && t.bit (WFS_EVT 19) 2 && t.wfsState 19 == 1) = true ∧
    ((playing 256 3 true).wfsEntry 19).isEnd = true ∧ ((playing 256 3 false).wfsEntry 19).isEnd = false ∧
    after (.entryAdvance 19) ((playing 256 3 true).setWfs 19 { Wfs.init with next := some (256, 192) }) (fun t =>
      t.wfsState 19 == 2 && t.rdN (WFS_CODE 19) == 0x1010 && t.bit (WFS_EVT 19) 1) = true ∧
    stays (.entryAdvance 19) (playing 256 3 false) = true ∧ stays (.autoAdvance 19) (playing 256 3 false) = true ∧
    ((playing 256 0 false).wfsEntry 19).forever = false ∧ ((playing 256 0 false).wfsEntry 19).plays = 0 ∧
    after (.autoAdvance 19) (playing 256 0 false) (fun t => (t.wfs 19).at_ == 256 && t.bit (WFS_EVT 19) 2) = true ∧
    after (.autoAdvance 19) (playing 256 0 true) (fun t => t.wfsState 19 == 2) = true := by decide +kernel

/-- Unit 3 plays in SUM mode a segment of largest codes with the oscillator at full amplitude and a quarter turn. -/
def summing : State :=
  ((((((ready.wrN (WFS_SEQ 3 2) 8).wrN (WFS_SEQ 3 5) 0x8000).setFld (WFS_STAT 3) 15 14 1).setFld (WFS_CFG 3) 15 14 3).wrN (WFS_NCO_AMP 3) 0x7FFF).wrN (WFS_POFF 3) 0x4000).setWfs 3
    { Wfs.init with mem := [(0, 0xFF#8), (1, 0x7F#8)] }

theorem test_witness_WaveformTablesAndOutputs :
    after (.wfsTableWrite 19 2047 5) (playing 0 3 false) (fun t => t.bit (WFS_EVT 19) 6) = true ∧
    (ready.wrN (CAL_SUB_AWG 0) 0x4003).bit (CAL_SUB_AWG (3 / 4)) 14 = true ∧ (ready.wrN (CAL_SUB_AWG 0) 0x4003).fld (CAL_SUB_AWG (3 / 4)) 1 0 = 3 % 4 ∧
    after (.wfsTableWrite 3 0 5) (ready.wrN (CAL_SUB_AWG 0) 0x4003) (fun t => t.rdN CALC_CODE == 0x142A && t.rdN (WFS_SEQ 3 0) == 0) = true ∧
    after (.wfsTableWrite 2 0 5) (ready.wrN (CAL_SUB_AWG 0) 0x4003) (fun t => t.rdN (WFS_SEQ 2 0) == 5) = true ∧
    maskAt .rw (WFS_SEQ 19 2040) = 0xFFFF#16 ∧ after (.wfsTableWrite 19 2040 0xFFFF) ready (fun t => t.rdN (WFS_SEQ 19 2040) == 0xFFFF) = true ∧
    maskAt .rw (WFS_SEQ 19 2047) = 0#16 ∧ after (.wfsTableWrite 19 2047 5) ready (fun t => t.rdN (WFS_SEQ 19 2047) == 0) = true ∧
    ready.sumSample 19 ready.time.up = 0 ∧ stays (.sampleSaturated 19) ready = true ∧
    0 ≤ ready.awgVolts 19 ready.time.up ∧ ready.awgVolts 19 ready.time.up ≤ 56000 * 32768 ∧
    56000 * 32768 < (summing.wrN (AWG_OFFSET 3) 0xDAC0).awgVolts 3 0 ∧
    after (.outputStageLimit 3) (summing.wrN (AWG_OFFSET 3) 0xDAC0) (fun t => t.bit (AWG_STAT 3) 4 && t.bit (AWG_EVT 3) 4) = true ∧
    after (.outputStageLimit 19) ready (fun t => !t.bit (AWG_STAT 19) 4) = true ∧
    after (.awgMuteReclose 19) (later 5 (ready.setAwg 19 { Awg.init with ranging := some 5 })) (fun t => (t.awg 19).ranging.isNone) = true ∧
    stays (.awgMuteReclose 19) ready = true := by decide +kernel

theorem test_witness_sample_saturates :
    summing.sampleDue 3 summing.time.up = true ∧ summing.formedAt 3 summing.time.up = summing.time.up ∧ (summing.oscAt 3 summing.time.up).src = 3 ∧ 32767 < summing.sumSample 3 summing.time.up ∧
    after (.sampleSaturated 3) summing (fun t => t.rdN (WFS_SAT_CNT 3) == 1 && t.bit (WFS_EVT 3) 5) = true := by decide +kernel

/-! Digitizers (O28 to O30). -/

/-- Unit 19 with 3 samples after the trigger. -/
def acq0 : State := ready.setWide (ACQ_POST 19) 3 3

/-- The same unit, its route closed, in a state of ACQ_STAT at clock `n`. -/
def acqAt (n state : Nat) : State := later n ((acq0.setAcq 19 { acq0.acq 19 with route := some 0 }).setAcqState 19 state)

/-- A trigger by FORCE at a sample. -/
def trig0 (n : Nat) : Trig := ⟨n, 4, n, 0, n, 0, 0, 255, 0⟩

theorem test_witness_AcquisitionArmsStopsAndForces :
    (acqAt 0 1).segOpen 19 = true ∧ (acqAt 0 1).acqArmCode 19 = some 0x1103 ∧ ready.acqArmCode 0 = some 0x1104 ∧ acq0.acqArmCode 19 = none ∧
    after (.acqCtlArm 0) ready (fun t => t.rdN (ACQ_CODE 0) == 0x1104) = true ∧
    after (.acqCtlArm 19) acq0 (fun t => t.acqState 19 == 2 && (t.acq 19).post == 3 && (t.acq 19).segs == 1) = true ∧
    after (.acqCtlArm 19) (acq0.setWide (ACQ_PRE 19) 2 65536) (fun t => t.acqState 19 == 1) = true ∧
    after (.acqCtlStop 19) (acqAt 0 1) (fun t => t.acqState 19 == 5 && t.rdN (ACQ_CODE 19) == 0x1111) = true ∧
    stays (.acqCtlStop 19) acq0 = true ∧ stays (.acqCtlStop 19) (acqAt 0 5) = true ∧
    (acqAt 7 2).sampleNow = 12 ∧ after (.acqForce 19) (acqAt 7 2) (fun t => (t.acq 19).found == [⟨4, 12, 12 * 65536, 0⟩] && t.acqState 19 == 2) = true ∧
    (acqAt 6 2).sampleNow = 6 ∧ ((acqAt 6 3).setAcq 19 { (acqAt 6 3).acq 19 with trig := some (trig0 6) }).acqState 19 = 3 ∧
    after (.acqForce 19) (acqAt 6 2) (fun t => t.acqState 19 == 3 && (t.acq 19).trig.any fun g => g.sources == 4 && g.assigned == 6) = true ∧
    after (.acqForce 19) ((acqAt 6 3).setAcq 19 { (acqAt 6 3).acq 19 with trig := some { trig0 6 with sources := 1 } }) (fun t =>
      (t.acq 19).trig.any fun g => g.sources == 5) = true ∧
    after (.acqForce 19) (acqAt 6 5) (fun t => t.rdN (ACQ_IGN_CNT 19) == 1 && t.bit (ACQ_EVT 19) 3) = true ∧
    after (.acqCtlStop 19) ((acqAt 6 3).setAcq 19 { (acqAt 6 3).acq 19 with trig := some (trig0 6) }) (fun t => t.acqState 19 == 5 && t.bit (ACQ_EVT 19) 1 &&
      (t.queue (ACQ_RES_STAT 19)).items.length == 1) = true ∧
    (ready.wrN (subReg false 3) 0xA002).acqServes 19 = true ∧ stays (.acqCtlArm 19) (ready.wrN (subReg false 3) 0xA002) = true := by decide +kernel

/-- The input voltage, in nanovolts, that gives a code in the reset range about a centre of 0 V. -/
def input (code : Int) : Int := code * 250000000 / 32768

/-- The unit is in WAITING at clock 6, its input centred on 0 V, its trigger state and ACQ_TRIG as given. -/
def edgeWait (state trig : Nat) : State := (((acqAt 6 2).wrN (ACQ_OFFSET 19) 8000).setFld (ACQ_STAT 19) 12 11 state).wrN (ACQ_TRIG 19) trig

theorem test_witness_TriggersStartTheirSegment :
    (edgeWait 0 0).acqCode 19 (input 0) = 0 ∧ (edgeWait 0 0).acqCode 19 (input (-1)) = -1 ∧ (edgeWait 0 0).acqCode 19 (10 ^ 10) = 32767 ∧
    (edgeWait 0 0).trigLower 19 = 0 ∧ (edgeWait 0 0).trigUpper 19 = 0 ∧ ((edgeWait 0 0).wrN (ACQ_TRIG_HYST 19) 4).trigLower 19 = -4 ∧
    after (.acqTrigger 19 0 0) (edgeWait 0 0) (fun t => t.fld (ACQ_STAT 19) 12 11 == 2) = true ∧
    after (.acqTrigger 19 0 (input (-1))) (edgeWait 0 0) (fun t => t.fld (ACQ_STAT 19) 12 11 == 1) = true ∧
    after (.acqTrigger 19 0 (input (-4))) ((edgeWait 0 0).wrN (ACQ_TRIG_HYST 19) 4) (fun t => t.fld (ACQ_STAT 19) 12 11 == 0 && t.acqState 19 == 2) = true ∧
    after (.acqTrigger 19 (input (-1)) 0) (edgeWait 1 1) (fun t => t.acqState 19 == 3 && (t.acq 19).trig.any fun g => g.sources == 1 && g.assigned == 6) = true ∧
    after (.acqTrigger 19 0 (input (-1))) (edgeWait 2 0x2001) (fun t => t.acqState 19 == 3) = true ∧
    after (.acqTrigger 19 0 (input (-1))) (edgeWait 2 0x4001) (fun t => t.acqState 19 == 3) = true ∧
    ((acqAt 3072 2).setBit (ACQ_TRIG 19) 15 true).nthSample 0 512 = 3072 ∧
    after (.autoTrigger 19) ((acqAt 3072 2).setBit (ACQ_TRIG 19) 15 true) (fun t => t.acqState 19 == 3 && (t.acq 19).trig.any fun g => g.sources == 8) = true ∧
    after (.autoTrigger 19) (((acqAt 3072 3).setBit (ACQ_TRIG 19) 15 true).setAcq 19 { (acqAt 3072 3).acq 19 with trig := some (trig0 3072) }) (fun t =>
      (t.acq 19).trig.any fun g => g.sources == 12) = true ∧
    stays (.autoTrigger 19) (acqAt 3072 2) = true ∧ stays (.autoTrigger 19) (acqAt 3072 5) = true ∧
    after (.preFilled 19) (acqAt 0 1) (fun t => t.acqState 19 == 2) = true ∧
    after (.preFilled 19) ((acqAt 0 1).setAcq 19 { (acqAt 0 1).acq 19 with waitAt := 6 }) (fun t => t.acqState 19 == 2 && t.time.up == 6) = true ∧
    stays (.preFilled 19) acq0 = true := by decide +kernel

/-- Unit 19 has its trigger at clock 0, 3 samples after it and one segment; `stream` tells that it streams. -/
def segDone (n : Nat) (stream : Bool) (segs : Nat) : State :=
  (acqAt n 3).setAcq 19 { Acq.init with segs := segs, post := 3, stream := stream, route := some 0, shut := false, trig := some (trig0 0) }

/-- The stream has a ring of 16 blocks at host address 2^48 - 64 and 64 samples have been taken. -/
def streaming : State :=
  (((segDone 12 true 1).setWide (ACQ_STRM_ADDR 19) 4 (2 ^ 48 - 64)).setWide (ACQ_STRM_BLK 19) 2 16).setAcq 19
    { (segDone 12 true 1).acq 19 with written := some 64 }

theorem test_witness_SegmentsReachTheirSlot :
    (segDone 12 false 1).nthSample 0 ((3 - 1) * 1) = 12 ∧ unitBase ((segDone 12 false 1).acqPhys 19) = 3 * 2 ^ 34 + 0x340000000 + 4 * 2 ^ 29 ∧
    after (.segmentComplete 19 [1, 2, 3]) (segDone 12 false 1) (fun t => t.acqState 19 == 5 && t.rdN (ACQ_CODE 19) == 0x1110 &&
      t.memRead (unitBase 19) 4 == [0x5A#8, 0x56#8, 0x53#8, 0x47#8] && t.memRead (unitBase 19 + 64) 7 == [1, 0, 2, 0, 3, 0, 0]) = true ∧
    ((segDone 12 false 2).acq 19).seg + 1 < ((segDone 12 false 2).acq 19).segs ∧
    after (.segmentComplete 19 []) (segDone 12 true 1) (fun t => t.acqState 19 == 5) = true ∧
    (segDone (6 * 2 ^ 28) true 1).nthSample 0 (2 ^ 28 - 1) ≤ 6 * 2 ^ 28 ∧
    after (.streamOverrun 19) (segDone (6 * 2 ^ 28) true 1) (fun t => t.acqState 19 == 5 && t.rdN (ACQ_CODE 19) == 0x1112 && t.bit (ACQ_EVT 19) 6) = true ∧
    streaming.streamTaken 19 (trig0 0) = 64 ∧
    after (.streamBlockWrite 19 (List.replicate 32 0x0201)) streaming (fun t => t.wide (ACQ_STRM_PROD 19) 3 == 1 &&
      t.hostByte (2 ^ 48 - 64) == some 1#8 && t.hostByte (2 ^ 48 - 1) == some 2#8) = true ∧
    16 ≤ (streaming.setWide (ACQ_STRM_PROD 19) 3 16).wide (ACQ_STRM_PROD 19) 3 - 0 ∧
    stays (.streamBlockWrite 19 (List.replicate 32 0x0201)) (streaming.setWide (ACQ_STRM_PROD 19) 3 16) = true ∧
    after (.segmentComplete 19 [1, 2, 3]) ((segDone 12 false 1).setAcq 19 { (segDone 12 false 1).acq 19 with shut := true }) (fun t =>
      t.memRead (unitBase 19 + 64) 7 == [0, 0, 0, 0, 0, 0, 0]) = true ∧ stays (.segmentComplete 19 []) (acqAt 12 2) = true ∧
    32767 < ((edgeWait 0 0).acqResult 19 (10 ^ 10)) ∧ (edgeWait 0 0).segOpen 19 = true ∧
    after (.acqOverrange ⟨19, (10 ^ 10)⟩) ((edgeWait 0 0).wrN (ACQ_OVR_CNT 19) 0xFFFF) (fun t =>
      t.rdN (ACQ_OVR_CNT 19) == 0xFFFF && t.bit (ACQ_EVT 19) 4 && (t.acq 19).flags == 1) = true ∧
    stays (.acqOverrange ⟨19, 0⟩) (edgeWait 0 0) = true ∧ stays (.acqOverrange ⟨19, (10 ^ 10)⟩) ready = true ∧
    after (.acqRangingEnd 19) (later 5 (ready.setAcq 19 { Acq.init with ranging := some 5 })) (fun t => (t.acq 19).ranging.isNone) = true ∧
    stays (.acqRangingEnd 19) ready = true := by decide +kernel

/-! Result queues and time measurement (O31 to O34). -/

/-- A result queue with one result not yet read, and one that has been read. -/
def queued (a : Nat) (seen : Bool) : State := ready.setQueue a { ready.queue a with items := [(0, [7, 1, 2, 3])], seen := seen }

theorem test_witness_ResultQueuesLatchAndAdvance :
    after (.asyResStatRead 511) (queued (ASY_RES_STAT 511) false) (fun t => t.bit (ASY_RES_STAT 511) 15 && (t.queue (ASY_RES_STAT 511)).seen) = true ∧
    after (.asyResAdv 511) (queued (ASY_RES_STAT 511) true) (fun t => (t.queue (ASY_RES_STAT 511)).items.isEmpty) = true ∧
    after (.acqResStatRead 19) (queued (ACQ_RES_STAT 19) true) (fun t => t.bit (ACQ_RES_STAT 19) 14) = true ∧
    after (.acqResAdv 19) (queued (ACQ_RES_STAT 19) true) (fun t => (t.queue (ACQ_RES_STAT 19)).items.isEmpty) = true ∧
    after (.tdcResStatRead 2175) (queued (TDC_RES_STAT 2175) false) (fun t => t.rdN (TDC_RES_SEQ 2175) == 7) = true ∧
    after (.tdcResAdv 2175) (queued (TDC_RES_STAT 2175) false) (fun t => (t.queue (TDC_RES_STAT 2175)).items.isEmpty) = true ∧
    (measUnit (measOfSlice 255)).isSome = true ∧ (measUnit (measOfChannel 2175)).isSome = true ∧
    after (.pmuMeasStatRead (measOfSlice 255)) (queued (PMU_MEAS_STAT (measOfSlice 255)) false) (fun t => t.rdN (PMU_MEAS_SEQ (measOfSlice 255)) == 7) = true ∧
    after (.pmuMeasAdv (measOfChannel 2175)) (queued (PMU_MEAS_STAT (measOfChannel 2175)) false) (fun t =>
      (t.queue (PMU_MEAS_STAT (measOfChannel 2175))).items.isEmpty) = true ∧
    after (.chkResStatRead 15) (queued (CHK_RES_STAT 15) false) (fun t => t.rdN (CHK_RES_SEQ 15) == 7) = true ∧
    after (.chkResAdv 15) (queued (CHK_RES_STAT 15) false) (fun t => (t.queue (CHK_RES_STAT 15)).items.isEmpty) = true ∧
    after (.asyResStatRead 0) ready (fun t => t.queue (ASY_RES_STAT 0) == ready.queue (ASY_RES_STAT 0)) = true ∧
    after (.chkResAdv 0) ready (fun t => t.queue (CHK_RES_STAT 0) == ready.queue (CHK_RES_STAT 0)) = true := by decide +kernel

/-- Channel `ch` is to measure in a mode, from a rising edge of comparator 0 to a falling edge of comparator 1; with `peer` its stop comes
from the lane's position 16. -/
def timed (ch mode : Nat) (peer : Bool) : State :=
  (((ready.wrN (TDC_MODE ch) (mode * 16384)).wrN (TDC_START ch) 0).wrN (TDC_STOP ch) (0x2800 + 48 * peer.toNat)).setWide (TDC_TMO ch 0) 3 99

/-- The same channel armed at clock 0; the clock is `n`. -/
def armed (n ch mode : Nat) : State :=
  later n ((timed ch mode false).setTdcState ch 1 |>.setTdc ch { Tdc.init with mode := BitVec.ofNat 16 (mode * 16384), stop := 0x2800, tmo := 100 })

theorem test_witness_TimeMeasurementsArmAndEnd :
    (armed 0 2175 1).tdcArmCode 2175 = some 0x1201 ∧ (ready.setTdcState 2175 4).tdcArmCode 2175 = some 0x1202 ∧ ready.tdcArmCode 0 = some 0x1203 ∧
    (timed 2175 1 false).tdcArmCode 2175 = none ∧ (timed 2175 1 false).tdcPeer 2175 = none ∧ (timed 2047 1 true).tdcPeer 2047 = some 16 ∧
    after (.tdcCtlArm 0) ready (fun t => t.rdN (TDC_CODE 0) == 0x1203 && t.bit (TDC_EVT 0) 0) = true ∧
    after (.tdcCtlArm 2175) (timed 2175 1 false) (fun t => t.tdcState 2175 == 1 && (t.tdc 2175).tmo == 100) = true ∧
    after (.tdcCtlArm 2047) (timed 2047 1 true) (fun t => t.tdcState 2047 == 1 && t.tdcState 2175 == 4 && (t.tdc 2175).lentTo == some 2047) = true ∧
    after (.tdcCtlDisarm 2175) (armed 0 2175 1) (fun t => t.tdcState 2175 == 0) = true ∧
    ((((timed 2047 1 true).setTdcState 2047 1).setTdc 2047 { Tdc.init with peer := some 2175 }).tdc 2047).peer = some 2175 ∧
    after (.tdcCtlDisarm 2047) (((timed 2047 1 true).setTdcState 2047 1).setTdc 2047 { Tdc.init with peer := some 2175 })
      (fun t => t.tdcState 2047 == 0 && t.tdcState 2175 == 0) = true ∧
    stays (.tdcCtlDisarm 0) ready = true ∧ stays (.tdcTimeout 0) ready = true ∧
    ((timed 0 1 false).wrN (TDC_START 0) 0xA000).tdcArmCode 0 = some 0x1204 ∧ ((timed 0 1 false).wrN (TDC_STOP 0) 0x2811).tdcArmCode 0 = some 0x1205 ∧
    ((timed 2047 1 true).setTdcState 2175 2).tdcArmCode 2047 = some 0x1206 ∧
    ((armed 100 0 1).tdc 0).since + ((armed 100 0 1).tdc 0).tmo ≤ 100 ∧
    after (.tdcTimeout 0) (armed 100 0 1) (fun t => t.bit (TDC_EVT 0) 2 && t.tdcState 0 == 0 && t.bit (TDC_EVT 0) 1 &&
      (t.queue (TDC_RES_STAT 0)).items.length == 1) = true ∧
    after (.tdcTimeout 0) ((armed 100 0 1).setQueue (TDC_RES_STAT 0) { ready.queue 0 with items := List.replicate 16 (0, []) }) (fun t =>
      t.rdN (TDC_DROP 0) == 1 && t.bit (TDC_EVT 0) 3 && (t.queue (TDC_RES_STAT 0)).gap) = true := by decide +kernel

/-- The measurement has its start, at clock 10. -/
def started (n : Nat) : State :=
  (armed n 0 1).setTdcState 0 2 |>.setTdc 0 { (armed n 0 1).tdc 0 with s := some ⟨10 * 65536, 10 * 65536, some 0, 0, false⟩ }

theorem test_witness_EdgesMakeMeasurements :
    (armed 20 0 1).dutyOf 0 = some 0 ∧ ((armed 20 0 1).tdc 0).lentTo = none ∧ ((armed 20 0 1).tdc 0).peer = none ∧ (armed 20 0 1).tdcState 0 = 1 ∧
    selMatches ((armed 20 0 1).tdc 0).start 0 true = true ∧ selMatches ((started 20).tdc 0).stop 1 false = true ∧
    tdcMode ((armed 20 0 1).tdc 0).mode = 1 ∧ tdcMode ((armed 20 0 2).tdc 0).mode = 2 ∧ ((armed 20 0 1).tdc 0).mode.getLsbD 12 = false ∧
    after (.tdcEdge 0 0 true 0) (armed 20 0 1) (fun t => t.tdcState 0 == 2 && (t.tdc 0).s.isSome) = true ∧
    after (.tdcEdge 0 0 true 0) ((armed 20 0 1).setTdc 0 { (armed 20 0 1).tdc 0 with last := some ⟨18 * 65536, 18, 0, none, false, 0⟩ }) (fun t =>
      t.rdN (TDC_LOST 0) == 1 && (t.tdc 0).lost && (t.tdc 0).s.isNone) = true ∧
    after (.tdcEdge 0 0 true 0) (armed 20 0 2) (fun t => t.tdcState 0 == 0 && t.bit (TDC_EVT 0) 1) = true ∧
    after (.tdcEdge 0 1 false 0) (started 20) (fun t => t.tdcState 0 == 0 && t.bit (TDC_EVT 0) 1) = true ∧
    after (.tdcEdge 0 1 false 0) (started 9) (fun t => t.rdN (TDC_EARLY_STOP 0) == 1 && (t.tdc 0).early && t.tdcState 0 == 2) = true := by decide +kernel

/-- In this clock and tap a stop edge of channel 0's measurement has come, which waits for its start. -/
def stopFirst : State :=
  (armed 20 0 1).setTdc 0 { (armed 20 0 1).tdc 0 with last := some ⟨20 * 65536 + 127, 20, 0, some 0, true, 0⟩, early := true }

/-- Channel 1's TDC is lent to the measurement of channel 0, which has its start and stops on an edge of channel 1. -/
def lent : State :=
  ((started 20).setTdc 0 { (started 20).tdc 0 with peer := some 1 }).setTdcState 1 4 |>.setTdc 1 { Tdc.init with lentTo := some 0 }

/-- A DRIVE edge of channel 0 at clock 10 waits for its measurement, which starts on it. -/
def driven : State :=
  ((armed 20 0 1).setTdc 0 { (armed 20 0 1).tdc 0 with start := 0x4000 }).setChan 0 { Chan.init with synth := [(2, true, 10 * 65536 + 5)] }

theorem test_witness_edges_by_peer_and_vector :
    (stopFirst.stopBefore 0 0 ⟨0, true, 20, 0⟩).isSome = true ∧ (stopFirst.tdc 0).s = none ∧
    after (.tdcEdge 0 0 true 0) stopFirst (fun t => t.tdcState 0 == 2 && (t.tdc 0).s.isSome && (t.tdc 0).lost && t.rdN (TDC_LOST 0) == 1 &&
      t.rdN (TDC_EARLY_STOP 0) == 0) = true ∧
    lent.dutyOf 1 = some 1 ∧ (lent.tdc 1).lentTo = some 0 ∧ (lent.tdc 0).peer = some 1 ∧ lent.tdcState 0 = 2 ∧
    after (.tdcEdge 1 1 false 0) lent (fun t => t.tdcState 0 == 0 && t.tdcState 1 == 0 && (t.tdc 1).lentTo.isNone && t.bit (TDC_EVT 0) 1) = true ∧
    selMatches (driven.tdc 0).start 2 true = true ∧ (driven.tdc 0).since ≤ 10 ∧
    after (.tdcEdge 0 2 true 0) driven (fun t => t.tdcState 0 == 2 && ((t.tdc 0).s.any fun a => a.when_ == 10 * 65536 + 5) && (t.chan 0).synth.isEmpty) = true ∧
    stays (.tdcEdge 0 4 true 0) (armed 20 0 1) = true := by decide +kernel

/-- Channel 0 collects 16 × 65,536 hits. -/
def coll (c : Option Nat) : State := (ready.wrN (TDC_CD_CFG 0) 16).setTdc 0 { Tdc.init with collect := c }

theorem test_witness_LinearityTablesAreCollectedAndSwapped :
    after (.cdGo 2175) (armed 0 2175 1) (fun t => t.rdN (TDC_CODE 2175) == 0x1210) = true ∧
    after (.cdGo 2175) ready (fun t => t.tdcState 2175 == 3 && (t.tdc 2175).collect == some 0) = true ∧
    after (.cdAbort 2175) (ready.setTdc 2175 { Tdc.init with collect := some 0 }) (fun t => t.rdN (TDC_CODE 2175) == 0x1215 && t.bit (TDC_EVT 2175) 6) = true ∧
    stays (.cdAbort 0) ready = true ∧
    after (.tdcTableWrite 2175 0x12345) (ready.wrN (TDC_TSEL 2175) 255) (fun t => t.tdcShadow 2175 255 == 0x2345 && t.rdN (TDC_TSEL 2175) == 0) = true ∧
    ((ready.wrN (TDC_TSTAT 0) 0x8000).setBit (TDC_FRZ 0) 0 true).laneFrozen 0 = true ∧ (ready.wrN (TDC_TSTAT 0) 0x8000).laneFrozen 0 = false ∧
    after (.tdcTswap 0) ((ready.wrN (TDC_TSTAT 0) 0x8000).setBit (TDC_FRZ 0) 0 true) (fun t =>
      (t.tdc 0).held && t.rdN (TDC_CODE 0) == 0x1216 && t.bit (TDC_EVT 0) 8) = true ∧
    (ready.wrN (TDC_TSTAT 0) 0x8000).fld (TDC_TSTAT 0) 15 14 = 2 ∧ (ready.wrN (TDC_TSTAT 0) 0x8000).bit (TDC_TSTAT 0) 13 = false ∧
    after (.tdcTdataRead 2175) (ready.wrN (TDC_TSEL 2175) 3) (fun t => t.read.data == 256 * 3 + 128 && t.rdN (TDC_TSEL 2175) == 4) = true ∧
    after (.tdcTdataRead 2175) (ready.wrN (TDC_TSEL 2175) 0x80FF) (fun t => t.rdN (TDC_TSEL 2175) == 0x8000) = true ∧
    (coll none).cdHits 0 = 16 * 65536 ∧ (List.replicate 256 4096).foldl (· + ·) 0 = 16 * 65536 ∧ (coll none).bit (TDC_CD_CFG 0) 15 = false ∧
    (coll none).calJob 0 = none ∧ densityCode (16 * 65536) (List.replicate 256 4096) = none ∧
    densityCode (16 * 65536) ([0, 8192] ++ List.replicate 254 4096) = some 0x1212 ∧
    after (.cdDone 0 (List.replicate 256 4096)) (coll (some 0)) (fun t =>
      t.tdcShadow 0 255 == 256 * 255 + 128 && t.fld (TDC_TSTAT 0) 15 14 == 2 && t.bit (TDC_EVT 0) 4) = true ∧
    after (.cdDone 0 ([0, 8192] ++ List.replicate 254 4096)) (coll (some 0)) (fun t =>
      t.rdN (TDC_CODE 0) == 0x1212 && t.fld (TDC_TSTAT 0) 15 14 == 3) = true ∧
    ((coll (some 0)).wrN (TDC_CD_CFG 0) 0x8010).bit (TDC_CD_CFG 0) 15 = true ∧ ((coll (some 0)).wrN (TDC_CD_CFG 0) 0x8010).cdHits 0 = 16 * 65536 ∧
    ((coll (some 0)).wrN (TDC_CD_CFG 0) 0x8010).laneFrozen 0 = false ∧ ((coll (some 0)).wrN (TDC_CD_CFG 0) 0x8010).bit (TDC_TSTAT 0) 13 = false ∧
    after (.cdTooFew 0) (later (2 ^ 30) (coll (some 0))) (fun t => t.rdN (TDC_CODE 0) == 0x1211) = true := by decide +kernel

/-- One of two values of TDC_TCRC differs from the CRC of the shadow table. -/
theorem test_witness_tdc_crc :
    ready.fld (TDC_TSTAT 0) 15 14 = 0 ∧ ready.wide (TDC_TCRC 0) 2 = 0 ∧ (ready.wrN (TDC_TCRC 0) 1).wide (TDC_TCRC 0) 2 = 1 ∧
    (ready.wrN (TDC_TCRC 0) 1).tdcs = ready.tdcs ∧ ∃ v < 2, (crc32c (((List.range 256).map (ready.tdcShadow 0)).flatMap (leBytes 2))).toNat ≠ v := by
  refine ⟨by decide +kernel, by decide +kernel, by decide +kernel, by decide +kernel, ?_⟩
  by_cases h : (crc32c (((List.range 256).map (ready.tdcShadow 0)).flatMap (leBytes 2))).toNat = 0
  · exact ⟨1, by omega, by omega⟩
  · exact ⟨0, by omega, h⟩

/-! Pins, slices, measurements and trips (O35 to O38). -/

/-- A channel out of its safe state, with its switch moving until clock 5, which is the clock. -/
def switching (ch : Nat) (w : Switch) (c : State) : State := later 5 ((c.setBit (PIN_STAT ch) 15 false).setChan ch { Chan.init with switch := w, due := 5 })

/-- Channel 404 is closing, its pin parks with the driver off, and PIN_MODE is `mode`. -/
def idling (mode : Nat) : State :=
  (switching 404 .closing { cast with cast := { cast.cast with applied := some { castA with pins := [⟨404, false, 7, 0, 2, 0, 0⟩] } } }).wrN (PIN_MODE 404) mode

/-- Lane 25's outrider replaces channel 404, in the overlap till clock 5. -/
def handing : State := later 5 ((cast.wrN (PIN_STAT 2073) 0x1004).setChan 2073 { Chan.init with switch := .closed, overlap := some 5 })

theorem test_witness_PadSwitchesAndDuties :
    cast.holder 404 = 404 ∧ findPin cast.casting 404 = some ⟨404, false, 7, 0, 1, 0, 0⟩ ∧ (switching 404 .closing cast).driveInert 404 = false ∧
    (cast.setBit (PIN_STAT 404) 14 true).driveInert 404 = true ∧
    after (.padSwitchClosed 404) (switching 404 .closing cast) (fun t => (t.chan 404).switch == .closed) = true ∧
    after (.padSwitchOpen 2047) (switching 2047 .opening ready) (fun t => (t.chan 2047).switch == .opened) = true ∧
    stays (.padSwitchClosed 0) ready = true ∧ stays (.padSwitchOpen 0) ready = true ∧
    after (.padSwitchClosed 404) (idling 0x2000) (fun t => t.terminates 404 && !t.loadActs 404) = true ∧
    after (.padSwitchClosed 404) (idling 0x1000) (fun t => !t.terminates 404 && !t.loadActs 404) = true ∧
    after (.padSwitchClosed 404) ((idling 0x2000).setBit (PIN_STAT 404) 14 true) (fun t => !t.terminates 404) = true ∧
    after (.padSwitchClosed 404) ((switching 404 .closing cast).wrN (PIN_MODE 404) 0x2000) (fun t => !t.terminates 404 && (t.chan 404).driverOn) = true ∧
    after (.pmuRangingEnd 404) (later 5 (ready.setChan 404 { Chan.init with ranging := some 5 })) (fun t => (t.chan 404).ranging.isNone) = true ∧
    stays (.pmuRangingEnd 404) ready = true ∧
    after (.takeoverSwitchOpen 404) (later 5 (ready.setChan 404 { Chan.init with switch := .closed, overlap := some 5 })) (fun t =>
      (t.chan 404).switch == .opened && t.bit (PIN_STAT 404) 13 && t.bit (PIN_EVT 404) 6) = true ∧
    stays (.takeoverSwitchOpen 404) ready = true ∧
    (let s := { later 5 (ready.setChan 404 { Chan.init with switch := .closed, overlap := some 5 }) with
        cal := { Cal.init with active := true, jobs := [⟨404, false, 2, 1, false, [], [], false⟩] } };
      after (.takeoverSwitchOpen 404) s fun t => (t.calJob 404).any fun j => j.phase == 3 && j.step == 1) = true ∧
    outriderOf (laneOf 404) = 2073 ∧ handing.fld (PIN_STAT 2073) 3 0 = 404 % 16 ∧
    after (.handbackSwitchOpen 404) handing (fun t => t.outState 2073 == 0 && t.bit (PIN_EVT 404) 7 && (t.chan 2073).switch == .opened) = true ∧
    stays (.handbackSwitchOpen 404) ready = true := by decide +kernel

/-- Slice 5 in a state of DPS_STAT at clock 5; `on` is DPS_CTL bit 0. -/
def sliceAt (st : Nat) (on : Bool) : State := later 5 ((cast.setFld (DPS_STAT 5) 15 13 st).setBit (DPS_CTL 5) 0 on)

/-- The same slice, OFF, is being calibrated. -/
def calibrated : State := { sliceAt 0 false with cal := { Cal.init with active := true, jobs := [⟨unitOfSlice 5, false, 3, 1, false, [], [], false⟩] } }

theorem test_witness_SlicesFollowTheirSequence :
    cast.leaderOf 5 = 5 ∧ cast.gang 5 = [5] ∧ ready.leaderOf 255 = 255 ∧ ready.gang 255 = [255] ∧ ready.sliceLive 255 = false ∧ (sliceAt 0 false).sliceLive 5 = true ∧
    (sliceAt 0 false).calJob (unitOfSlice 5) = none ∧
    after (.dpsOn 255) ready (fun t => t.rdN (DPS_CODE 255) == 0x1303 && t.bit (DPS_EVT 255) 0) = true ∧
    after (.dpsOn 5) (sliceAt 0 false) (fun t => t.sliceState 5 == 1 && t.bit (DPS_CTL 5) 0) = true ∧
    after (.dpsOn 5) (sliceAt 4 false) (fun t => t.sliceState 5 == 3) = true ∧ after (.dpsOn 5) (sliceAt 5 false) (fun t => t.sliceState 5 == 2) = true ∧
    after (.sliceDelayOnExpiry 5) (sliceAt 1 true) (fun t => t.sliceState 5 == 2 && (t.slice 5).since == 5) = true ∧
    ((sliceAt 2 true).slice 5).doneAt ≤ 5 ∧
    after (.atLevel 5) (sliceAt 2 true) (fun t => t.sliceState 5 == 3 && t.bit (DPS_EVT 5) 3) = true ∧
    after (.atLevel 5) (sliceAt 2 false) (fun t => t.sliceState 5 == 4) = true ∧
    after (.sliceDelayOffExpiry 5) (sliceAt 4 false) (fun t => t.sliceState 5 == 5) = true ∧
    after (.offDone 5) (sliceAt 5 false) (fun t => t.sliceState 5 == 0 && t.bit (DPS_EVT 5) 4) = true ∧
    after (.vsetRampEnd 5) ((sliceAt 3 true).setSlice 5 ⟨0, 8000, 0, 8001, 3, false, none, 0, 0, 0⟩) (fun t => (t.slice 5).out == 8001) = true ∧
    after (.vsetRampEnd 5) ((sliceAt 4 true).setSlice 5 ⟨1, 8000, 0, 8001, 3, false, none, 0, 0, 0⟩) (fun t => (t.slice 5).out == 8001) = true ∧
    after (.currentLimitEngaged ⟨5, 11⟩) ((sliceAt 2 true).wrN (DPS_ILIM 5) 10) (fun t => t.bit (DPS_STAT 5) 12 && t.bit (DPS_EVT 5) 1) = true ∧
    after (.currentLimitEngaged ⟨5, 10⟩) ((sliceAt 2 true).wrN (DPS_ILIM 5) 10) (fun t => !t.bit (DPS_STAT 5) 12 && !t.bit (DPS_EVT 5) 1) = true ∧
    ((sliceAt 2 true).wrN (DPS_ILIM 5) 0x8000).limitActed 5 = 0 ∧
    after (.atLevel 5) ((sliceAt 2 false).setSlice 5 { Slice.init with offDelay := some 9 }) (fun t => (t.slice 5).ticks == 9) = true ∧
    (calibrated.calJob (unitOfSlice 5)).any (·.phase ≠ 0) = true ∧
    after (.dpsOn 5) calibrated (fun t =>
      (t.calJob (unitOfSlice 5)).isNone && t.fld (CAL_STAT (calOfSlice 5)) 15 13 == 4) = true ∧
    after (.dischargeEnd 255) ready (fun t => !(t.slice 255).discharging) = true := by decide +kernel

theorem test_witness_MeasurementsQueueAndComplete :
    after (.pmuMeasGo 2175) ready (fun t => t.rdN (PMU_MEAS_CODE (measOfChannel 2175)) == 0x1302) = true ∧
    after (.dpsMeasGo 255) ready (fun t => t.rdN (PMU_MEAS_CODE (measOfSlice 255)) == 0x1302) = true ∧
    after (.pmuMeasGo 404) (cast.setBit (PMU_STAT 404) 3 true) (fun t => (t.adc 25).queue == [(measOfChannel 404, 0)]) = true ∧
    after (.dpsMeasGo 5) cast (fun t => (t.adc 133).queue == [(measOfSlice 5, 0)]) = true ∧
    after (.dpsMeasGo 5) (cast.setAdc 133 ⟨0, [(measOfSlice 5, 0)]⟩) (fun t => t.rdN (PMU_MEAS_CODE (measOfSlice 5)) == 0x1301) = true ∧
    ({ cast with cast := { cast.cast with applied := some { castA with powers := [⟨5, 5, false, 7⟩, ⟨6, 5, false, 7⟩] } } }).leaderOf 6 ≠ 6 ∧
    measUnit (measOfSlice 5) = some (true, 5) ∧ measUnit (measOfChannel 404) = some (false, 404) ∧ cast.cal.lanes.contains 25 = false ∧
    max (0 + 3000 * cast.fld (PMU_MEAS_CFG (measOfSlice 5)) 10 3) 0 + 3000 * 2 ^ cast.fld (PMU_MEAS_CFG (measOfSlice 5)) 15 13 ≤ 3000 ∧
    after (.measComplete (measOfSlice 5) [0xFFFF] false) (later 3000 (cast.setAdc 133 ⟨0, [(measOfSlice 5, 0)]⟩)) (fun t =>
      t.bit (PMU_MEAS_STAT (measOfSlice 5)) 15 && (t.adc 133).queue.isEmpty) = true ∧
    after (.measComplete (measOfSlice 5) [1] false) ((later 3000 (cast.setAdc 133 ⟨0, [(measOfSlice 5, 0)]⟩)).setSlice 5 { Slice.init with clampedTill := 1 }) (fun t =>
      (t.queue (PMU_MEAS_STAT (measOfSlice 5))).items.map (fun it => it.2.take 5) == [[1, 1, 1, 1, 16]]) = true ∧
    after (.measComplete (measOfChannel 404) [7] false) ((later 3000 (cast.setAdc 25 ⟨0, [(measOfChannel 404, 0)]⟩)).setQueue (PMU_MEAS_STAT (measOfChannel 404))
      { ready.queue 0 with items := List.replicate 4 (0, []) }) (fun t => t.rdN (PMU_MEAS_DROP (measOfChannel 404)) == 1) = true := by decide +kernel

/-- The monitor of slice 5 watches its voltage continuously, with a window from 0 to 100; it is blanked; it samples once in a stage. -/
def watched : State := ((sliceAt 3 true).wrN (MON_CFG (monOfSlice 5)) 0x4800).wrN (MON_HI (monOfSlice 5)) 100 |>.wrN (MON_LO (monOfSlice 5)) 0
def blanked : State := watched.setBit (MON_STAT (monOfSlice 5)) 13 true
def unsampled : State := watched.wrN (MON_CFG (monOfSlice 5)) 0x9800

theorem test_witness_MonitorsTripTheirGroups :
    monUnit (monOfSlice 5) = some (unitOfSlice 5) ∧ watched.monActive (unitOfSlice 5) = true ∧ watched.canDecide (unitOfSlice 5) = true ∧
    watched.monOutside (unitOfSlice 5) 100 = false ∧ watched.monOutside (unitOfSlice 5) 101 = true ∧
    after (.monitorInside ⟨(monOfSlice 5), 100⟩) watched (fun t => t.fld (MON_STAT (monOfSlice 5)) 15 14 == 1) = true ∧
    stays (.monitorInside ⟨(monOfSlice 5), 101⟩) watched = true ∧ stays (.monitorTrip ⟨(monOfSlice 5), 100⟩) watched = true ∧
    stays (.blankedOutside ⟨(monOfSlice 5), 100⟩) blanked = true ∧ (unsampled.canDecide (unitOfSlice 5)) = false ∧
    stays (.monitorTrip ⟨(monOfSlice 5), 101⟩) unsampled = true ∧
    after (.blankedOutside ⟨(monOfSlice 5), 101⟩) blanked (fun t => t.rdN (MON_BLANKED_CNT (monOfSlice 5)) == 1) = true ∧
    after (.blankedOutside ⟨(monOfSlice 5), 101⟩) (blanked.setMon (monOfSlice 5) ⟨0, true, false⟩) (fun t =>
      t.rdN (MON_BLANKED_CNT (monOfSlice 5)) == 0 && t.fld (MON_STAT (monOfSlice 5)) 15 14 == 2) = true ∧
    after (.blankWindowClose (monOfSlice 5) 100) blanked (fun t => !t.bit (MON_STAT (monOfSlice 5)) 13) = true ∧
    monGroups watched.casting (unitOfSlice 5) = [3] ∧ monGroups ({ blanked with cast := State.reset.cast }).casting (unitOfSlice 5) = [] ∧
    after (.blankWindowClose (monOfSlice 5) 101) { blanked with cast := State.reset.cast } (fun t => !t.bit (MON_STAT (monOfSlice 5)) 13 &&
      t.fld (MON_STAT (monOfSlice 5)) 15 14 == 2 && t.bit (MON_EVT (monOfSlice 5)) 0) = true ∧
    after (.monitorTrip ⟨(monOfSlice 5), 101⟩) { watched with cast := State.reset.cast } (fun t => t.bit (MON_EVT (monOfSlice 5)) 0 && (t.mon (monOfSlice 5)).tripped) = true ∧
    stays (.monitorTrip ⟨(monOfSlice 5), 101⟩) (watched.setMon (monOfSlice 5) ⟨0, false, true⟩) = true ∧ stays (.blankWindowClose (monOfSlice 5) 101) watched = true ∧
    after (.monitorTrip ⟨(monOfSlice 5), 101⟩) watched (fun t => t.groupTripped 3 && t.bit (MON_EVT (monOfSlice 5)) 0) = true ∧
    (∀ p ∈ watched.casting.powers, p.slice < 256) ∧ (∀ p ∈ watched.casting.pins, p.channel < 2176) ∧ watched.groupTripped 3 = false ∧
    (watched.wrN (MON_LO (monOfSlice 5)) 101).monVolts (unitOfSlice 5) = true ∧ (watched.wrN (MON_LO (monOfSlice 5)) 101).monOutside (unitOfSlice 5) 100 = true := by
  decide +kernel

theorem test_witness_groups_trip :
    watched.clearedNow 3 = none ∧
    after (.groupForce 3) watched (fun t => t.groupTripped 3 && t.bit (MON_GRP_EVT 3) 0 && t.bit (PIN_STAT 404) 14 && t.bit (DPS_STAT 5) 11) = true ∧
    after (.groupForce 511) ready (fun t => t.groupTripped 511) = true ∧
    (watched.setBit (MON_GRP_STAT 3) 15 true).groupTripped 3 = true ∧ watched.wide (MON_GRP_T 3) 4 ≠ watched.convoyTime ∧
    after (.groupForce 3) (watched.setBit (MON_GRP_STAT 3) 15 true) (fun t => t.rdN (MON_GRP_CNT 3) == 1) = true ∧
    ({ watched with trips := { watched.trips with cleared := [⟨3, 5, 1, false, 0⟩] } }).clearedNow 3 = some ⟨3, 5, 1, false, 0⟩ ∧
    after (.groupForce 3) { watched with trips := { watched.trips with cleared := [⟨3, 5, 1, false, 0⟩] } } (fun t =>
      t.groupTripped 3 && t.rdN (MON_GRP_CODE 3) == 0x1308 && t.bit (MON_GRP_EVT 3) 2) = true ∧
    after (.groupClear 511) ready (fun t => !t.sched.waiting.isEmpty || !t.sched.running.isEmpty) = true := by decide +kernel

/-! Calibration, spares and service (O39 to O41). -/

/-- A request names channels `a` to `b`. -/
def request (a b : Nat) : State := ((ready.wrN CAL_REQ_SCOPE 1).wrN CAL_REQ_FIRST a).wrN CAL_REQ_LAST b

/-- The request runs with one job. -/
def job (unit phase step : Nat) (trims : List Nat) : State :=
  { ready.wrN (TDC_CD_CFG unit) 16 with cal := { Cal.init with active := true, jobs := [⟨unit, false, phase, step, false, trims, [], false⟩] } }

/-- Channel 2175 is at step 7 with its collection under way. -/
def jobCollects : State :=
  { (job 2175 3 7 []).setTdc 2175 { Tdc.init with collect := some 0 } with cal := { Cal.init with active := true, jobs := [⟨2175, false, 3, 7, false, [], [], true⟩] } }

/-- The trims of a nominal calibration. -/
def nominal : List Nat := ((List.range 6).flatMap fun i => stepEntries (i + 1)).map lvlNominal

theorem test_witness_CalibrationRequestsAndSteps :
    (job 0 3 1 []).cal.active = true ∧ after (.calReqGo []) (job 0 3 1 []) (fun t => t.rdN CALC_CODE == 0x1401 && t.bit CALC_EVT 1) = true ∧
    after (.calReqGo []) (request 2 1) (fun t => t.rdN CALC_CODE == 0x1402) = true ∧
    (request 2175 2175).cal.active = false ∧ (request 2175 2175).fld CAL_REQ_SCOPE 15 13 = 0 ∧ (request 2175 2175).bit CAL_REQ_SCOPE 0 = true ∧
    suspects [2500000, 2500000, 2500251, 2500000] = [2] ∧ suspects [2500000, 2500000, 2500250, 2500000] = [] ∧
    ((List.range 16).all fun k => !ready.isolated k) = true ∧ CAL_ISO % 2 = 0 ∧
    after (.calReqGo [2500000, 2500000, 2500251, 2500000]) (request 2174 2175) (fun t => t.cal.active &&
      t.cal.jobs.map (fun j => (j.unit, j.phase, j.step)) == [(2174, 0, 1), (2175, 0, 1)] && t.rdN CAL_PROG_TOTAL == 2) = true ∧
    2 ≤ (suspects [2499000, 2500000, 2500000, 2501000]).length ∧
    after (.calReqGo [2499000, 2500000, 2500000, 2501000]) (request 2174 2175) (fun t => t.rdN CALC_CODE == 0x1403 && t.bit CALC_EVT 4 && t.cal.jobs.isEmpty) = true ∧
    after (.calReqGo [2500000, 2500000, 2500251, 2500000]) (request 2174 2175) (fun t => t.cal.refs == [0, 1, 3, 3]) = true ∧
    after .calReqAbort (job 2471 0 1 []) (fun t => !t.cal.active && t.fld (CAL_STAT (calBlock 2471)) 15 13 == 3) = true ∧
    after .calReqAbort (job 2175 3 1 []) (fun t => !t.cal.active && t.fld (CAL_STAT (calBlock 2175)) 15 13 == 4) = true ∧
    after (.laneAdcCalDone 127) { ready with cal := { Cal.init with lanes := [127] } } (fun t => t.cal.lanes.isEmpty) = true ∧
    after (.calStepDone 2175 [1, 2, 3, 4, 5, 6, 7, 8]) (job 2175 3 1 []) (fun t => (t.calJob 2175).any fun j => j.step == 2 && j.trims.length == 8) = true ∧
    (stepEntries 6).length = 5 ∧ (List.replicate 256 4096).foldl (· + ·) 0 = (job 2175 3 7 []).cdHits 2175 ∧
    densityCode (16 * 65536) (List.replicate 256 4096) = none ∧
    lvlTableOk (CalJob.found ⟨2175, false, 3, 7, false, [], [], false⟩) = false ∧ densityCode (16 * 65536) ([0, 8192] ++ List.replicate 254 4096) = some 0x1212 ∧
    (jobCollects.calJob 2175).any (·.collects) = true ∧ (jobCollects.tdc 2175).collect.isSome = true ∧
    (([0, 8192] ++ List.replicate 254 4096).foldl (· + ·) 0 = jobCollects.cdHits 2175) ∧
    after (.calStepDone 2175 ([0, 8192] ++ List.replicate 254 4096)) jobCollects (fun t => t.rdN (CAL_CODE (calOfChannel 2175)) == 0x1412 &&
      (t.calJob 2175).isNone && t.fld (TDC_TSTAT 2175) 15 14 == 3 && t.rdN (TDC_CODE 2175) == 0x1212 && t.bit (TDC_EVT 2175) 5) = true ∧
    after (.calStepDone 2175 (List.replicate 256 4096)) (job 2175 3 7 []) (fun t => t.rdN (CAL_CODE (calOfChannel 2175)) == 0x1412 && (t.calJob 2175).isNone) = true ∧
    after (.unitCalDone 2471 true []) (job 2471 3 1 []) (fun t => !t.sched.waiting.isEmpty || !t.sched.running.isEmpty) = true ∧
    after (.unitCalDone 2176 false []) (job 2176 3 1 []) (fun t => t.rdN (CAL_CODE (calBlock 2176)) == 0x1412 && (t.calJob 2176).isNone) = true := by decide +kernel

theorem test_nominal_entries : ∀ k < 64, k ≠ 16 → lvlEntryOk k (lvlNominal k) = true := by decide +kernel

/-- A nominal level trim table is acceptable, whatever its impedance entry is. -/
theorem test_witness_lvl_table : lvlTableOk lvlNominal = true := by
  refine List.all_eq_true.mpr fun k h => ?_
  by_cases e : k = 16
  · subst e; simp [lvlEntryOk, lvlNominal]
  · exact test_nominal_entries k (List.mem_range.mp h) e

theorem test_nominal_found : ∀ k < 64, k ≠ 16 → (CalJob.found ⟨2175, false, 3, 7, false, nominal, [], false⟩ k) = lvlNominal k := by decide +kernel

theorem test_witness_cal_found : lvlTableOk (CalJob.found ⟨2175, false, 3, 7, false, nominal, [], false⟩) = true := by
  refine List.all_eq_true.mpr fun k h => ?_
  by_cases e : k = 16
  · subst e; exact List.all_eq_true.mp test_witness_lvl_table 16 h
  · rw [test_nominal_found k (List.mem_range.mp h) e]; exact test_nominal_entries k (List.mem_range.mp h) e

/-- Quadrant 3's spare acquisition unit serves unit 2 of it, or its AWG does. -/
def subbed (awg : Bool) : State := ready.wrN (subReg awg 3) (0x8000 + 0x2002 + 0x2000 * awg.toNat)

theorem test_witness_SparesAndHeldDutiesMove :
    after (.lvlTableWrite 2175 0x12345) (ready.wrN (LVL_TSEL 2175) 63) (fun t => tabGet (fun _ => 0) (t.lvlShadow 2175) 63 == 0x2345 && t.rdN (LVL_TSEL 2175) == 0) = true ∧
    lvlTableOk (tabGet (fun _ => 0) (ready.lvlShadow 0)) = false ∧
    after (.lvlTswap 0) ready (fun t => t.rdN (CAL_CODE (calOfChannel 0)) == 0x1417 && t.bit (LVL_TSTAT 0) 14) = true ∧
    ready.bit (LVL_TSTAT 0) 15 = false ∧
    after (.lvlTdataRead 2175) (ready.wrN (LVL_TSEL 2175) 2) (fun t => t.read.data == 0x8000 && t.rdN (LVL_TSEL 2175) == 3) = true ∧
    after (.lvlTdataRead 2175) (ready.wrN (LVL_TSEL 2175) 0x803F) (fun t => t.read.data == 0 && t.rdN (LVL_TSEL 2175) == 0x8000) = true ∧
    after (.calRelease 2047) (ready.setBit (CAL_STAT (calOfChannel 2047)) 9 true) (fun t => !t.bit (CAL_STAT (calOfChannel 2047)) 9) = true ∧
    stays (.calRelease 2175) ready = true ∧
    (ready.wrN (subReg false 3) 0x2000).bit (subReg false 3) 13 = true ∧ ready.subIdle true 19 = true ∧ ready.subIdle false 19 = true ∧
    after (.subEnable false 3) (ready.wrN (subReg false 3) 0x2002) (fun t => t.rdN CALC_CODE == 0x1428 && !t.bit (subReg false 3) 15) = true ∧
    after (.subEnable true 3) (ready.wrN (subReg true 3) 0x4002) (fun t => t.rdN CALC_CODE == 0x1428) = true ∧
    ((ready.wrN (subReg false 3) 2).setAcqState 14 1).subIdle false 14 = false ∧
    after (.subEnable false 3) ((ready.wrN (subReg false 3) 2).setAcqState 14 1) (fun t => t.rdN CALC_CODE == 0x1429) = true ∧
    after (.subEnable false 3) (ready.wrN (subReg false 3) 2) (fun t => t.bit (subReg false 3) 15 && t.bit (subReg false 3) 13) = true ∧
    after (.subEnable true 3) (ready.wrN (subReg true 3) 2) (fun t => t.bit (subReg true 3) 15 && t.bit (subReg true 3) 14) = true ∧
    after (.subDisable false 3) (ready.wrN (subReg false 3) 0x8002) (fun t => !t.bit (subReg false 3) 15) = true ∧
    after (.subDisable false 3) ((subbed false).setAcqState 14 1) (fun t => t.rdN CALC_CODE == 0x1428 && t.bit (subReg false 3) 15) = true ∧
    after (.subDisable false 3) (subbed false) (fun t => !t.bit (subReg false 3) 15 && !t.bit (subReg false 3) 13) = true ∧
    (ready.wrN (subReg true 3) 0xA002).subIdle true 14 = true ∧
    after (.subDisable true 3) (ready.wrN (subReg true 3) 0xA002) (fun t => t.bit (subReg true 3) 13 && t.bit (subReg true 3) 14 && !t.bit (subReg true 3) 15) = true ∧
    (ready.wrN (CAL_SUB_AWG 3) 0x4002).bit (CAL_SUB_AWG 3) 14 = true ∧
    after (.spareCopyDone true 3) (ready.wrN (CAL_SUB_AWG 3) 0x4002) (fun t => t.cal.copied == [3]) = true := by decide +kernel

/-- Stacks 1 to 3 are cast out. -/
def lastStack : State := { ready with nv := { ready.nv with stacksOut := 14 }, mem := [(5, 1#8)] }

theorem test_witness_ClustersAndStacksLeaveService :
    cast.clusterBusy 3 = true ∧ after (.isoSet 3) cast (fun t => t.rdN CALC_CODE == 0x1420 && !t.bit CAL_ISO 3) = true ∧
    ready.clusterBusy 15 = false ∧ after (.isoSet 15) ready (fun t => t.bit CAL_ISO 15 && t.isoStat 15 == 1) = true ∧
    after (.isoRelease 15) { ready.setBit CAL_ISO 15 true with cal := { Cal.init with coreFail := [15] } } (fun t => t.rdN CALC_CODE == 0x1422 && t.bit CAL_ISO 15) = true ∧
    after (.isoRelease 15) (ready.setBit CAL_ISO 15 true) (fun t => !t.bit CAL_ISO 15 && t.cal.reloading == [15]) = true ∧
    after (.selftestDone 15 true []) (ready.setIsoStat 15 1) (fun t => t.isoStat 15 == 3 && t.bit CALC_EVT 7) = true ∧
    after (.selftestDone 15 false []) (ready.setIsoStat 15 1) (fun t => t.isoStat 15 == 2) = true ∧
    after (.droverReloadDone 15) { ready with cal := { Cal.init with reloading := [15] } } (fun t => t.cal.reloaded == [15]) = true ∧
    (∀ r, r < 4 → r ≠ 0 → lastStack.stackOut r = true) ∧ lastStack.stackOut 0 = false ∧ ready.stackOut 0 = false ∧
    after (.castoutSet 0) lastStack (fun t => t.rdN CALC_CODE == 0x1433 && t.memByte 5 == 1) = true ∧
    (∀ u, u < 20 → ready.acqState u = 0) ∧ ready.ctxs = [] ∧
    after (.castoutSet 0) { ready with mem := [(5, 1#8), (2 ^ 34, 2#8)] } (fun t => t.bit CAL_STACK 0 && t.nv.stacksOut == 1 && t.memByte 5 == 0 && t.memByte (2 ^ 34) == 2) = true ∧
    after (.stackRestore 3) lastStack (fun t => t.bit CAL_STACK_STAT 7) = true ∧
    after (.stackSelftestDone 3 true) (lastStack.setBit CAL_STACK_STAT 7 true) (fun t => t.nv.stacksOut == 6 && !t.bit CAL_STACK_STAT 7) = true ∧
    after (.stackSelftestDone 3 false) (lastStack.setBit CAL_STACK_STAT 7 true) (fun t => t.nv.stacksOut == 14 && t.bit CAL_STACK 3 && t.rdN CALC_CODE == 0x1422) = true ∧
    after (.stackFault 3) ready (fun t => t.bit CAL_STACK_STAT 3 && t.bit CALC_EVT 8) = true ∧
    after .yardFailure ready (fun t => t.bit SYS_STAT 14 && t.yardDown) = true ∧
    after .yardRestarted { ready with yardDown := true } (fun t => !t.yardDown && t.bit SYS_EVT 0) = true := by decide +kernel

/-! Castings (O47). -/

/-- A section of a casting file: its header, its records and its padding. -/
def section_ (t cnt : Nat) (recs : List Byte) : List Byte :=
  let h := leBytes 2 t ++ leBytes 2 1 ++ leBytes 4 cnt ++ leBytes 4 recs.length
  h ++ leBytes 4 (crc32c (h ++ recs)).toNat ++ recs ++ List.replicate ((64 - (16 + recs.length) % 64) % 64) 0#8

/-- A casting file with a body, its digests and its header CRC; FLAGS, the number of sections and the tile digest as given. -/
def castFile (flags n : Nat) (tiles body : List Byte) : List Byte :=
  let h := [0x5A#8, 0x56#8, 0x43#8, 0x53#8] ++ leBytes 2 2 ++ leBytes 2 0 ++ leBytes 4 0x2048 ++ leBytes 4 flags ++ leBytes 4 body.length ++ leBytes 2 n ++
    leBytes 2 0 ++ leBytes 16 7 ++ sha512 body ++ tiles ++ List.replicate 84 0#8
  h ++ leBytes 4 (crc32c h).toNat ++ body

/-- A full casting with a pattern partition and no caravan, where no tile is present. -/
def fullFile : List Byte :=
  castFile 0 6 ready.tilesDigest (section_ 1 32 ((List.range 32).flatMap fun k => leBytes 16 k) ++ section_ 2 1 [0, 1, 1, 0, 0, 0, 0, 0, 1, 0, 0, 0, 0, 0, 0, 0] ++
    section_ 3 0 [] ++ section_ 4 0 [] ++ section_ 5 0 [] ++ section_ 12 0 [])

/-- A recast of caravan 0 of `castA` as it is. -/
def partFile : List Byte :=
  castFile 2 4 ready.tilesDigest (section_ 3 1 [0, 1, 0, 1, 0, 1, 1, 0] ++ section_ 4 1 [7, 0, 0, 0, 1, 0, 3, 0, 1, 0, 0, 0] ++
    section_ 5 1 [0x94, 1, 7, 0, 1, 1, 0, 0, 0, 0, 0, 0] ++ section_ 12 1 [0, 0, 0x94, 1, 0x94, 1, 1, 20])

/-- A command for a casting. -/
def castJob (target len : Nat) : CastJob := ⟨9, 0, 0, 0xFF, 0, len, some target, 0, none, [], false⟩

/-- A load of the full casting, and a recast, whose checks are under way. -/
def loading : State := { ready with cast := { ready.cast with load := some (castJob 0 1152) } }
def recasting : State :=
  { cast.setTile 0 { Tile.init with line := true, phase := 3, map := [(0, contactOf 404)] } with cast := { cast.cast with recast := some (castJob 0 512) } }

def isOk (x : Except CastErr Casting) : Bool := match x with
  | .ok _ => true
  | .error _ => false

theorem test_witness_castings_judged : isOk (ready.judgeFull 1152 fullFile) = true ∧ isOk (ready.judgeFull 640 []) = false ∧
    isOk (recasting.judgePartial partFile) = true ∧ isOk (recasting.judgePartial []) = false := by decide +kernel

theorem test_witness_cast_data (f : List Byte) : loading.castData (castJob 0 1152) (some f) = some f := rfl

/-- The load has built the casting of `fullFile`. -/
def builtLoad : State :=
  { ready with cast := { ready.cast with load := some { castJob 0 1152 with phase := 1, built := some { Casting.none with tileDigest := ready.tilesDigest } } } }

theorem test_witness_tile_digest : builtLoad.tilesDigest = ready.tilesDigest := rfl

theorem test_witness_CastingsAreJudgedAndApplied :
    256 ≤ (castJob 0 1152).len ∧
    after (.castChecksComplete (some [])) loading (fun t => t.cast.load.isNone && t.rdN CST_ERR_CODE == 0x0C01 && t.bit CST_EVT 1) = true ∧
    stays (.castChecksComplete none) ready = true ∧ stays .castLoadApply ready = true ∧ stays (.recastReady none) ready = true ∧
    (builtLoad.cast.load.any fun j => !j.disturbed && j.built.isSome) = true ∧
    after .castLoadApply { builtLoad with cast := { builtLoad.cast with load := builtLoad.cast.load.map fun j => { j with disturbed := true } } }
      (fun t => t.cast.load.isNone && t.cast.applied.isNone && t.host.waiting.map (·.code) == [0x0C0A]) = true ∧
    (castJob 0 512).phase = 0 ∧ (castJob 0 512).target.isSome = true ∧
    after (.recastReady (some [])) recasting (fun t => t.cast.recast.isNone && t.bit CST_EVT 3 && t.host.waiting.map (·.code) == [0x0C0B]) = true ∧
    after .storeDone { ready with nv := { ready.nv with txns := [⟨.casting 3 [1#8], 0⟩] } } (fun t =>
      tabGet (fun _ => none) t.nv.castings 3 == some [1#8] && t.nv.txns.isEmpty && t.bit CST_EVT 6) = true := by decide +kernel

/-! The host ring (O42 to O46). -/

/-- The command ring runs and holds one entry. -/
def ring (s : State) : State := (s.setBit HST_CTL 0 true).wrN HST_CMD_PROD 1

/-- A command entry without a toll. -/
def entry (op : Nat) (params : List Byte) : List Byte := leBytes 2 op ++ leBytes 2 9 ++ leBytes 12 0 ++ padTo 80 params ++ leBytes 32 0

/-- Toll slot 7 holds a key for every class and has been used up to counter 1. -/
def keyed (s : State) : State := { s with nv := { s.nv with tolls := [(7, ⟨some [5#8], 0x1FF, 1, 0, none⟩)] } }

/-- A command entry with a toll of slot 7 and counter 2. -/
def tolled (op : Nat) (params : List Byte) : List Byte :=
  let e := leBytes 2 op ++ leBytes 2 9 ++ leBytes 2 2 ++ leBytes 10 0 ++ padTo 80 params ++ leBytes 8 7 ++ leBytes 8 2
  e ++ ready.tollMac [5#8] e

/-- The conditions of `Accepted`, all but its last one, which names the state after them. -/
def accepts (op : Nat) (e : List Byte) (own : State → Option Nat) (s : State) : Bool :=
  entOp e == op && s.canConsume e && s.takeEntry.entryCode e == none && s.start.phase ≠ 3 && (s.takeEntry.tollCheck e).1 == none &&
    own (s.takeEntry.tollCheck e).2 == none

theorem test_accepts {op : Nat} {e : List Byte} {own : State → Option Nat} {s : State} (h : accepts op e own s = true) :
    Accepted op e own s ((s.takeEntry.tollCheck e).2.acceptEntry e) := by
  simp only [accepts, Bool.and_eq_true, beq_iff_eq, decide_eq_true_eq] at h
  obtain ⟨⟨⟨⟨⟨a, b⟩, c⟩, d⟩, e'⟩, f⟩ := h
  exact ⟨a, b, c, d, e', f, rfl⟩

/-- Opcodes of the profile commands with a kind and a window offset that they may write. -/
def profiles : List (Nat × Nat × Nat) :=
  [(0x0101, 0, 0x40), (0x0102, 2, 0), (0x0103, 2, 0), (0x0104, 2, 0x12), (0x0105, 2, 4), (0x0106, 2, 0), (0x0110, 1, 0x10), (0x0111, 1, 0x800),
    (0x0112, 1, 0x100), (0x0118, 3, 4), (0x0119, 3, 0), (0x011A, 3, 0), (0x011B, 0, 0), (0x0120, 4, 0), (0x0121, 4, 0), (0x0122, 4, 0x0A), (0x0128, 4, 0),
    (0x0129, 4, 0), (0x012A, 4, 8), (0x0130, 1, 0x202), (0x0131, 1, 0x200), (0x0132, 1, 0x200), (0x0138, 5, 0), (0x0139, 1, 0x140), (0x013A, 1, 0x400),
    (0x013B, 6, 2), (0x0140, 0, 0), (0x0141, 0, 0), (0x0142, 0, 0x30), (0x0143, 0, 0x20), (0x0144, 0, 0x40)]

/-- A profile command for unit 0 of a kind, which writes one register's masked bits to ones. -/
def profEntry (op kind off mask : Nat) : List Byte :=
  entry op (leBytes 1 kind ++ leBytes 1 1 ++ leBytes 6 0 ++ leBytes 2 off ++ leBytes 2 mask ++ leBytes 2 0xFFFF)

theorem test_witness_RingEntriesAreJudgedInOrder :
    (ring ready).canConsume (entry 0x0010 []) = true ∧ ready.canConsume (entry 0x0010 []) = false ∧
    (∀ op ∈ opcodes, opcodes.contains (entOp (padTo 128 (entry op []))) = true ∧ ((ring ready).takeEntry.entryCode (padTo 128 (leBytes 2 op ++ leBytes 4 0 ++ [1#8]))).isSome = true) ∧ opcodes.length = 49 ∧
    after (.segLoad (leBytes 2 0x0010 ++ leBytes 4 0 ++ [1#8])) (ring ready) (fun t => t.host.waiting.map (·.code) == [0x1502] && t.bit HST_EVT 2) = true ∧
    after (.calStore (entry 0x0030 [])) (ring ready) (fun t => t.host.waiting.map (·.code) == [0x1502]) = true ∧
    after (.segLoad (entry 0x0010 [])) { ring ready with host := { (ring ready).host with inflight := [9] } } (fun t =>
      t.host.waiting.map (·.code) == [0x1503]) = true ∧
    stays (.segLoad (entry 0x0011 [])) (ring ready) = true ∧ stays (.unknownOpcode (entry 0x0010 [])) (ring ready) = true ∧
    opcodes.contains (entOp (entry 0x0999 [])) = false ∧
    after (.unknownOpcode (entry 0x0999 [])) (ring ready) (fun t => t.host.waiting.map (·.code) == [0x1501] && t.rdN HST_CMD_CONS == 1) = true := by decide +kernel

theorem test_witness_profile_accepted :
    ∀ x ∈ profiles, ∃ m ∈ [1, 2, 4, 0x100, 0x8000],
      accepts x.1 (padTo 128 (profEntry x.1 x.2.1 x.2.2 m)) (fun _ => profileCode (profEntry x.1 x.2.1 x.2.2 m)) (ring ready) = true := by decide +kernel

/-- A profile command to enable sites 0 to 7 acts. -/
def profActs : State :=
  { ready with sched := { ready.sched with running := [(⟨2, 0, 1, .profile (profEntry 0x0101 0 0x40 0xFF), 0, 0, 0⟩, 0)] } }

theorem test_witness_ProfileCommandsAct :
    profileCode (profEntry 0x0101 0 0x3E 1) = some 0x1505 ∧ (ring ready).start.phase ≠ 3 ∧
    after (.siteEnable (profEntry 0x0101 0 0x3E 1)) (ring ready) (fun t => t.host.waiting.map (·.code) == [0x1505]) = true ∧
    after (.siteEnable (profEntry 0x0101 0 0x40 1)) (ring ready) (fun t => t.host.inflight == [9]) = true ∧
    stays .workItemActs ready = true ∧
    profFirst (profEntry 0x0101 0 0x40 0xFF) = profLast (profEntry 0x0101 0 0x40 0xFF) ∧
    profWrites (profEntry 0x0101 0 0x40 0xFF) = [(0x40, 0xFF, 0xFFFF)] ∧
    profTarget (profEntry 0x0101 0 0x40 0xFF) 0x40 = some (CST_SITE_EN 0, 0, 0xFFFF) ∧ (regAt (CST_SITE_EN 0)).any (·.1.shadowed) = true ∧
    after .workItemActs profActs (fun t => t.sched.running.isEmpty && tabGet (fun _ => none) t.shadow (CST_SITE_EN 0) == some 0xFF#16 &&
      tabGet (fun _ => 0#16) t.claimed (CST_SITE_EN 0) == 0xFF#16) = true ∧
    after .workItemActs { ready with sched := { ready.sched with running := [(⟨0, 0, 1, .clear 3, 0, 0, 0⟩, 0)] } } (fun t =>
      t.sched.acted.map (·.kind) == [.clear 3]) = true := by decide +kernel

/-- The completion ring runs at host address 2^48 and one completion waits. -/
def completing : State :=
  { (ready.setBit HST_CTL 1 true).setWide HST_CPL_BASE 4 (2 ^ 48) with host := { ready.host with waiting := [⟨1, 0, 9, 0x10, 0, 0, 0, 0, 0, true⟩], inflight := [9] } }

theorem test_witness_CompletionsAndLink :
    stays .completionWrite ready = true ∧ completing.cplRoom = true ∧ ({ completing with host := completing.host }.setBit HST_CTL 1 false).cplRoom = false ∧
    completing.wide HST_IDX_ADDR 4 + 4 ≤ 2 ^ 48 ∧
    after .completionWrite completing (fun t => t.host.waiting.isEmpty && t.rdN HST_CPL_PROD == 1 && (t.hostByte (2 ^ 48)).isSome &&
      t.hostByte (2 ^ 48 + 31) == ((⟨1, 0, 9, 0x10, 0, 0, 0, 0, 0, true⟩ : Cpl).bytes ready.host.afterLoss)[31]?) = true ∧
    stays .irqModerationExpiry ready = true ∧
    after .irqModerationExpiry (later 3069000 { ready with host := { ready.host with unsignalled := 1 } }) (fun t => t.host.irq0 == ready.host.irq0 + 1 && t.host.unsignalled == 0) = true ∧
    stays .ringReset completing = true ∧
    after .ringReset (completing.setBit HST_CTL 1 false) (fun t => t.host.waiting.isEmpty && t.host.afterLoss && t.rdN HST_CPL_LOST == 1 && t.bit HST_EVT 4) = true ∧
    after (.hostAttachmentReset 1) completing (fun t => !t.bit HST_CTL 1 && t.bit HST_EVT 0) = true ∧
    after (.linkUp 3 2 true) ready (fun t => t.bit HST_STAT 15 && t.fld HST_STAT 14 13 == 3 && t.fld HST_STAT 12 11 == 2 && t.bit HST_STAT 10) = true := by decide +kernel

theorem test_witness_HostAccessesToDeviceMemory :
    (match exec (.cxlMemRead (2 ^ 36)) ready with
      | .fault f => f == .outsideDeviceMemory (2 ^ 36)
      | _ => false) = true ∧
    lastStack.stackOut ((2 ^ 34 + 64) / 64 * 64 / stackSize) = true ∧
    after (.cxlMemRead (2 ^ 34)) lastStack (fun t => t.read.poison && t.bit HST_EVT 5) = true ∧
    after (.cxlMemWrite (2 ^ 34) []) lastStack (fun t => t.bit HST_EVT 5) = true ∧ captureStart ≤ (2 ^ 36 - 64) % stackSize ∧
    stays (.cxlMemWrite (2 ^ 36 - 1) [1]) ready = true ∧ (captureStart - 64) % stackSize < captureStart ∧ partitionOf ready.casting (captureStart - 64) = none ∧
    after (.cxlMemWrite (captureStart - 1) [1, 2]) ready (fun t => t.memRead (captureStart - 64) 3 == [1, 2, 0]) = true ∧
    (partitionOf cast.casting 0).map (fun x => (x.1.kind, x.2)) = some (1, 0) ∧
    ((run0 1 0 []).setCtx 0 { (run0 1 0 []).ctx 0 with present := [(1, 0)] }).bytesActive ⟨0, 1, 1, 0, 1⟩ (64, 64) = true ∧
    after (.cxlMemWrite 64 [1]) ((run0 1 0 []).setCtx 0 { (run0 1 0 []).ctx 0 with present := [(1, 0)] }) (fun t =>
      t.bit SEQ_WP_STAT 0 && t.rdN SEQ_WP_CNT == 1 && t.memByte 64 == 16) = true ∧
    after (.cxlMemRead 70) { ready with way := { ready.way with poison := [64] } } (fun t => t.read.poison && t.way.poison.isEmpty) = true ∧
    (regionStart - 1) % stackSize < regionStart ∧
    after (.cxlMemRead 5) { ready with mem := [(0, 7#8)] } (fun t => !t.read.poison && t.read.block.take 2 == [7, 0] && t.read.block.length == 64) = true := by decide +kernel

/-- A SEG_LOAD of 64 bytes to partition 0 at address 1024, for directory entry 1, and a WAVE_LOAD of 1 granule to unit 19 at granule 131071. -/
def segEntry0 : List Byte := entry 0x0010 ([0, 0, 1, 0] ++ leBytes 4 0 ++ leBytes 8 0 ++ leBytes 6 1024 ++ leBytes 2 0 ++ leBytes 4 64)
def waveEntry0 : List Byte := entry 0x0011 ([19, 0] ++ leBytes 6 0 ++ leBytes 8 64 ++ leBytes 4 131071 ++ leBytes 4 1)

/-- A tolled write of ones to one register. -/
def regEntry (a : Nat) : List Byte := tolled 0x0020 (leBytes 8 1 ++ leBytes 4 a ++ leBytes 2 0xFFFF ++ leBytes 2 0xFFFF)

theorem test_witness_copies_accepted :
    accepts 0x0010 (padTo 128 segEntry0) (segCode segEntry0) (ring cast) = true ∧
    accepts 0x0011 (padTo 128 waveEntry0) (waveLoadCode waveEntry0) (ring ready) = true ∧
    accepts 0x0030 (padTo 128 (tolled 0x0030 [])) (fun _ => if paramZero (tolled 0x0030 []) 0 80 then none else some 0x1502) (ring (keyed ready)) = true ∧
    accepts 0x0020 (padTo 128 (regEntry (TDC_FRZ 7))) (regWriteCode (regEntry (TDC_FRZ 7))) (ring (keyed ready)) = true ∧
    tolledWrites (regEntry (TDC_FRZ 7)) = [(TDC_FRZ 7, 0xFFFF, 0xFFFF)] ∧ (regAt (TDC_FRZ 7)).isSome = true ∧ ready.inCut = false ∧
    tabGet (fun _ => none) ready.shadowNext (TDC_FRZ 7) = none := by decide +kernel

/-- A copy is under way. -/
def copying (op : Nat) (e : List Byte) : State := { cast with loads := [⟨9, op, e, (0, 0)⟩] }

theorem test_witness_CopiesBeginAndEnd :
    after (.segLoad segEntry0) (ring cast) (fun t => t.loads.map (·.opcode) == [0x0010] && t.host.inflight == [9]) = true ∧
    after (.waveLoad waveEntry0) (ring ready) (fun t => t.loads.map (·.opcode) == [0x0011]) = true ∧
    findStore cast.casting (segLoadPart segEntry0) = some ⟨0, 1, 1, 0, 1⟩ ∧ segLoadAddr segEntry0 = 1024 ∧ segLoadLength segEntry0 = 64 ∧
    ((List.range 64).map fun x => (⟨0, 1, 1, 0, 1⟩ : StoreRec).device (1024 + x)) = (List.range 64).map (1024 + ·) ∧
    after (.segLoadDone 9 (some [1, 2])) (copying 0x0010 segEntry0) (fun t => t.memRead 1024 3 == [1, 2, 0] && t.loads.isEmpty && t.host.waiting.map (·.code) == [0]) = true ∧
    after (.segLoadDone 9 none) (copying 0x0010 segEntry0) (fun t => t.host.waiting.map (·.code) == [0x1508]) = true ∧
    waveLoadSource waveEntry0 = 0 ∧ waveLoadUnit waveEntry0 = 19 ∧
    after (.waveLoadDone 9 (some [1, 2])) (copying 0x0011 waveEntry0) (fun t => tabGet (fun _ => 0) (t.wfs 19).mem (64 * 131071) == 1 && t.host.waiting.map (·.code) == [0]) = true ∧
    stays (.segLoadDone 8 none) (copying 0x0010 segEntry0) = true ∧ stays (.waveLoadDone 9 none) (copying 0x0010 segEntry0) = true := by decide +kernel

theorem test_witness_castings_accepted :
    accepts 0x0001 (padTo 128 (tolled 0x0001 ([0, 0, 0xFF] ++ leBytes 5 0 ++ leBytes 8 64 ++ leBytes 4 1024)))
      (castLoadCode (padTo 128 (tolled 0x0001 ([0, 0, 0xFF] ++ leBytes 5 0 ++ leBytes 8 64 ++ leBytes 4 1024)))) (ring (keyed ready)) = true ∧
    accepts 0x0002 (padTo 128 (tolled 0x0002 ([0, 0, 0xFF] ++ leBytes 5 0 ++ leBytes 8 64 ++ leBytes 4 1024)))
      (castRecastCode (padTo 128 (tolled 0x0002 ([0, 0, 0xFF] ++ leBytes 5 0 ++ leBytes 8 64 ++ leBytes 4 1024)))) (ring (keyed cast)) = true ∧
    castSource (tolled 0x0002 ([0, 0, 0xFF] ++ leBytes 5 0 ++ leBytes 8 64 ++ leBytes 4 1024)) = 0 ∧
    accepts 0x0003 (entry 0x0003 []) (fun _ => if paramZero (entry 0x0003 []) 0 80 then none else some 0x1502) (ring ready) = true ∧
    accepts 0x0003 (entry 0x0003 []) (fun _ => if paramZero (entry 0x0003 []) 0 80 then none else some 0x1502) (ring recasting) = true ∧
    (ring ready).cancellable = false ∧ (ring recasting).cancellable = true ∧
    after (.castCancel (entry 0x0003 [])) (ring ready) (fun t => t.host.waiting.map (·.code) == [0x0C7A]) = true ∧
    after (.castCancel (entry 0x0003 [])) (ring recasting) (fun t => t.cast.recast.isNone && t.host.waiting.map (·.code) == [0x0C76, 0]) = true := by decide +kernel

/-- A recast by `partFile` of the casting in force, and the module once it has accepted the entry. -/
def recastEntry : List Byte := padTo 128 (tolled 0x0002 ([0, 0, 0xFF] ++ leBytes 5 0 ++ leBytes 8 64 ++ leBytes 4 512))
def recastable : State := ring (keyed { cast with cast := { cast.cast with applied := some { castA with tileDigest := ready.tilesDigest } } })
def recastTaken : State := (recastable.takeEntry.tollCheck recastEntry).2.acceptEntry recastEntry

theorem test_witness_recast_header :
    accepts 0x0002 recastEntry (castRecastCode recastEntry) recastable = true ∧ castSource recastEntry = 0 ∧ castLength recastEntry = 512 ∧
    headerCode (recastTaken.hdrEnv true 512) partFile = none ∧ leAt partFile 0x20 8 = recastTaken.casting.id ∧
    Sys2Proof.slice partFile 0x68 64 = recastTaken.casting.tileDigest ∧ recastTaken.targetBusy (byteAt partFile 0x16) = false ∧
    after (.castRecast recastEntry (some partFile)) recastable (fun t => (t.cast.recast.any fun j => j.phase == 0 && j.target == some 0 && j.file == partFile.take 256) &&
      t.fld CST_STAT 12 11 == 1) = true ∧
    after (.castRecast recastEntry (some [])) recastable (fun t => t.cast.recast.isNone && t.bit CST_EVT 3 && t.host.waiting.map (·.code) == [0x0C01]) = true := by
  decide +kernel

/-! Tiles (O48). -/

/-- A descriptor for slot `k` of one pad on contact 5. -/
def desc (k : Nat) : List Byte :=
  [0x5A#8, 0x56#8, 0x54#8, 0x4C#8] ++ leBytes 2 1 ++ leBytes 2 k ++ leBytes 8 77 ++ leBytes 4 1 ++ leBytes 4 (crc32c (leBytes 2 0 ++ leBytes 2 5)).toNat ++ leBytes 2 0 ++ leBytes 2 5

/-- Tile slot 31 in a phase. -/
def tileAt (n : Nat) (x : Tile) : State := later n (ready.setTile 31 x)

theorem test_witness_TilesComeAndGo :
    stays (.tilePresentRise 31) (tileAt 5 { Tile.init with line := true }) = true ∧ ready.tile 31 = Tile.init ∧
    after (.tilePresentRise 31) (later 5 ready) (fun t => t.tile 31 == { Tile.init with line := true, phase := 1, since := 5 }) = true ∧
    stays (.tileDebounceExpiry 31) ready = true ∧
    after (.tileDebounceExpiry 31) (tileAt 30000000 { Tile.init with line := true, phase := 1 }) (fun t => (t.tile 31).phase == 2) = true ∧
    after (.tileHotJoin 31) (tileAt 300000000 { Tile.init with line := true, phase := 2 }) (fun t => (t.tile 31).joined) = true ∧
    ((tileAt 5 { Tile.init with line := true, phase := 2 }).setTile 16 { Tile.init with joined := true }).busServing 31 = true ∧
    stays (.tileHotJoin 31) ((tileAt 5 { Tile.init with line := true, phase := 2 }).setTile 16 { Tile.init with joined := true }) = true ∧
    after (.tileNoJoin 31) (tileAt 300000000 { Tile.init with line := true, phase := 2 }) (fun t => (t.tile 31).phase == 4 && (t.tile 31).code == 0x1510) = true ∧
    byteAt (desc 31) 6 % 32 = 31 ∧ descOk (desc 31) = true ∧ descOk (0#8 :: desc 31) = false ∧
    after (.tileDescriptorRead 31 (desc 31)) (tileAt 5 { Tile.init with phase := 2, joined := true }) (fun t => (t.tile 31).code == 0x1511) = true ∧
    after (.tileDescriptorRead 31 (desc 31)) (tileAt 5 { Tile.init with line := true, phase := 2, joined := true, found := true }) (fun t => (t.tile 31).code == 0x1511) = true ∧
    after (.tileDescriptorRead 31 ([0, 0, 0, 0, 0, 0, 31])) (tileAt 5 { Tile.init with line := true, phase := 2, joined := true }) (fun t => (t.tile 31).code == 0x1512) = true ∧
    after (.tileDescriptorRead 31 (desc 31)) (tileAt 5 { Tile.init with line := true, phase := 2, joined := true }) (fun t =>
      (t.tile 31).found && (t.tile 31).id == 77 && (t.tile 31).map == [(0, 5)]) = true ∧
    stays (.tileRemoved 31) ready = true ∧
    after (.tileRemoved 31) (tileAt 5 { Tile.init with line := true, phase := 2 }) (fun t => (t.tile 31).phase == 0 && !(t.tile 31).line) = true ∧
    (tileAt 5 { Tile.init with line := true, phase := 3 }).cast.applied = none ∧
    after (.tileRemoved 31) (tileAt 5 { Tile.init with line := true, phase := 3 }) (fun t => t.host.irq2 == 1 && t.bit CST_EVT 4) = true := by decide +kernel

/-! Tolls (O49). -/

theorem test_witness_TollsAreCheckedInOrder :
    tollClasses (tolled 0x0030 []) = some [4] ∧ (keyed ready).tollFree (tolled 0x0030 []) [4] = false ∧ ready.tollFree (tolled 0x0030 []) [4] = false ∧
    entSlot (tolled 0x0030 []) = 7 ∧ ready.tollCode (tolled 0x0030 []) [4] = some 0x1710 ∧
    ((keyed ready).setToll 7 { (keyed ready).toll 7 with lockUntil := some 5 }).tollCode (tolled 0x0030 []) [4] = some 0x1711 ∧
    (later 5 ((keyed ready).setToll 7 { (keyed ready).toll 7 with lockUntil := some 5 })).tollCode (tolled 0x0030 []) [4] = none ∧
    ((keyed ready).setToll 7 { (keyed ready).toll 7 with mask := 0x1EF }).tollCode (tolled 0x0030 []) [4] = some 0x1712 ∧
    (keyed ready).tollCode ((tolled 0x0030 []).take 127 ++ [0#8] ++ [1#8]) [4] = some 0x1713 ∧
    ((keyed ready).setToll 7 { (keyed ready).toll 7 with count := 2 }).tollCode (tolled 0x0030 []) [4] = some 0x1714 ∧
    (keyed ready).nvCode = none ∧ ((keyed ready).tollCheck (tolled 0x0030 [])).1 = none ∧
    (((keyed ready).tollCheck (tolled 0x0030 [])).2.toll 7).count = 2 ∧
    ((((keyed ready).setToll 7 { (keyed ready).toll 7 with fails := 14 }).tollCheck (entry 0x0030 (List.replicate 80 1) |>.take 96 |> (· ++ leBytes 32 7))).2.toll 7).fails = 15 ∧
    ((((keyed ready).setToll 7 { (keyed ready).toll 7 with fails := 15 }).tollCheck (entry 0x0030 (List.replicate 80 1) |>.take 96 |> (· ++ leBytes 32 7))).2.toll 7).lockUntil = some 3000000000 ∧
    stays (.tollLockoutExpiry 7) ready = true ∧
    after (.tollLockoutExpiry 7) (later 5 ((keyed ready).setToll 7 { (keyed ready).toll 7 with lockUntil := some 5 })) (fun t => (t.toll 7).lockUntil.isNone) = true := by decide +kernel

/-! Trust and firmware (O50, O51). -/

/-- The owner's private key, and a block that it signs, with a counter of 2. -/
def ownerSecret : List Byte := leBytes 32 1
def block (op : Nat) (payload : List Byte) : List Byte :=
  let h := [0x5A#8, 0x56#8, 0x41#8, 0x55#8] ++ leBytes 2 op ++ leBytes 2 0 ++ leBytes 8 1 ++ leBytes 8 2 ++ padTo 168 payload
  h ++ edSign ownerSecret h

/-- An entry with the zero toll. -/
def freeEntry (op : Nat) (params : List Byte) : List Byte := leBytes 2 op ++ leBytes 2 9 ++ leBytes 2 2 ++ leBytes 10 0 ++ padTo 80 params ++ leBytes 32 0

/-- The module has an owner, and the link is protected. -/
def owned : State := { ring (ready.setBit HST_STAT 10 true) with nv := { ready.nv with owner := some (edPublic ownerSecret), ownerCount := 1 } }

theorem test_witness_OwnerCommandsChangeTheGate :
    accepts 0x0040 (entry 0x0040 []) (fun t => t.ownerCode 0x0040 (entry 0x0040 []) (some (block 0x0040 (edPublic ownerSecret)))) (ring ready) = true ∧
    accepts 0x0041 (entry 0x0041 []) (fun t => t.ownerCode 0x0041 (entry 0x0041 []) (some (block 0x0041 []))) owned = true ∧
    accepts 0x0042 (freeEntry 0x0042 []) (fun t => t.ownerCode 0x0042 (freeEntry 0x0042 []) (some (block 0x0042 (leBytes 8 7 ++ leBytes 8 511 ++ leBytes 64 5)))) owned = true ∧
    accepts 0x0043 (freeEntry 0x0043 []) (fun t => t.ownerCode 0x0043 (freeEntry 0x0043 []) (some (block 0x0043 (leBytes 8 7)))) owned = true ∧
    accepts 0x0044 (freeEntry 0x0044 []) (fun t => t.ownerCode 0x0044 (freeEntry 0x0044 []) (some (block 0x0044 (leBytes 32 5)))) owned = true ∧
    accepts 0x0045 (freeEntry 0x0045 []) (fun t => t.ownerCode 0x0045 (freeEntry 0x0045 []) (some (block 0x0045 [3]))) owned = true ∧
    accepts 0x0046 (entry 0x0046 (List.replicate 40 255)) (fun _ => if paramZero (entry 0x0046 (List.replicate 40 255)) 40 40 then none else some 0x1502) (ring ready) = true ∧
    accepts 0x0047 (entry 0x0047 (List.replicate 8 255)) (fun _ => if paramZero (entry 0x0047 (List.replicate 8 255)) 8 72 then none else some 0x1502) (ring ready) = true := by
  decide +kernel

/-- An image header, without its signature, of a body of 20,480 bytes and of no bytes. -/
def imageHead (n : Nat) (digest : List Byte) : List Byte :=
  [0x5A#8, 0x56#8, 0x46#8, 0x57#8] ++ leBytes 2 1 ++ leBytes 2 0 ++ leBytes 4 0x2048 ++ leBytes 4 1 ++ leBytes 4 0 ++ leBytes 4 0 ++ leBytes 4 n ++ leBytes 4 5 ++
    digest ++ ((List.range 5).flatMap fun i => leBytes 4 (i + 1) ++ leBytes 4 (4096 * i) ++ leBytes 4 4096 ++ leBytes 4 0) ++ List.replicate 3856 0#8

/-- The checks of an image header but its signature. -/
def headTests (h : List Byte) : Bool :=
  h.take 4 == [0x5A#8, 0x56#8, 0x46#8, 0x57#8] && leAt h 4 2 == 1 && leAt h 6 2 == 0 && leAt h 8 4 == 0x2048 && fwKey h == 0 && fwRollback h == 0 &&
    fwBodyLen h == 20480 && componentsOk h && fwRevoke h == 0

theorem test_image_head : headTests (imageHead 20480 (leBytes 64 0) ++ leBytes 64 0) = true := by decide +kernel

/-- A header that passes those checks fails or passes by its signature alone, whose key the spec does not give (log entry 4). -/
theorem test_witness_header_checks {h : List Byte} (t : headTests h = true) :
    headerFault 0 0 24576 h = if edVerify (Config.releaseKey 0) (h.take 0xFC0) (Sys2Proof.slice h 0xFC0 64) then none else some 0x1814 := by
  simp only [headTests, Bool.and_eq_true, beq_iff_eq] at t
  obtain ⟨⟨⟨⟨⟨⟨⟨⟨h1, h2⟩, h3⟩, h4⟩, h5⟩, h6⟩, h7⟩, h8⟩, h9⟩ := t
  simp only [headerFault, h1, h2, h3, h4, h5, h6, h7, h8, h9]
  cases edVerify (Config.releaseKey 0) (h.take 0xFC0) (Sys2Proof.slice h 0xFC0 64) <;> simp

/-- Every sensor reads 0 and the supply is well. -/
def cool : State :=
  { (List.range 64).foldl (fun s n => s.wrN (THM_TEMP n) 0) (ring (keyed ready)) with therm := { ready.therm with vin := 4800 } }

/-- The firmware slots hold no bytes, slot A in state 4. -/
def bare : State := { ready with nv := { ready.nv with fwA := ⟨4, [], [], true⟩, fwB := ⟨0, [], [], false⟩ } }

/-- An update in a phase. -/
def updating (phase : Nat) : State :=
  { bare with fw := some ⟨9, 0x0048, 0, 0, 4096, true, phase, [0x5A#8] ++ leBytes 31 0 ++ sha512 []⟩ }

/-- Slot A runs as a trial, in a phase of the start. -/
def trying (phase : Nat) : State := { later 4500000000 bare with nv := { bare.nv with fwA := ⟨3, [], [], false⟩ }, start := ⟨phase, 0, none, false, false⟩ }

theorem test_witness_firmware_accepted :
    accepts 0x0048 (tolled 0x0048 (leBytes 8 64 ++ leBytes 4 4096)) (fun t => t.fwUpdateCode (tolled 0x0048 (leBytes 8 64 ++ leBytes 4 4096))) cool = true ∧
    accepts 0x0049 (tolled 0x0049 []) (fun t => t.activateCode (tolled 0x0049 [])) cool = true ∧
    accepts 0x004A (tolled 0x004A []) (fun t => t.confirmCode (tolled 0x004A [])) { cool with
      nv := { (keyed ready).nv with fwA := { ready.nv.fwA with state := 3 } } } = true := by decide +kernel

theorem test_witness_FirmwareIsUpdatedTriedAndConfirmed :
    stays (.fwHeaderChecked none) ready = true ∧ stays (.fwWriteDone none) ready = true ∧
    ((updating 1).sourceBytes (0 == 1) 0 4096 (some [])).isSome = true ∧ headerFault 0 0 4096 (padTo 4096 []) = some 0x1810 ∧
    after (.fwHeaderChecked (some [])) (updating 1) (fun t => t.fw.isNone && t.rdN FWU_CODE == 0x1810 && t.bit FWU_EVT 1) = true ∧
    fwBodyLen ([0x5A#8] ++ leBytes 31 0 ++ sha512 []) = 0 ∧
    after (.fwWriteDone (some [])) (updating 2) (fun t => t.fw.isNone && (t.fwSlot true).state == 2 && t.bit FWU_EVT 0 && t.host.waiting.map (·.code) == [0]) = true ∧
    after (.fwWriteDone (some [])) { updating 2 with fw := some ⟨9, 0x0048, 0, 0, 4096, true, 2, []⟩ } (fun t => t.rdN FWU_CODE == 0x1819) = true ∧
    (trying 2).inTrial = true ∧ stays .trialFailed (trying 2) = true ∧ stays .trialFailed ready = true ∧
    after .trialFailed (trying 1) (fun t => t.nv.fwA.state == 6 && t.start.rolledBack && t.rdN FWU_CODE == 0x1822) = true ∧
    after .trialReadyTimeout (trying 1) (fun t => t.nv.fwA.state == 6 && t.start.phase == 0) = true ∧
    after (.controllerLoadTimeout 20) (trying 1) (fun t => t.nv.fwA.state == 6) = true := by decide +kernel

/-! The convoy (O52 to O54). -/

/-- A frame from position 5 with sequence number 7, at convoy time 65,536 × 100. -/
def frame (type : Nat) (payload : List Byte) : List Byte := frameSeal (frameHead type 0 5 0 7 6553600 payload)

/-- The 66-bit words in which a frame arrives on the four lanes of a port. -/
def wire (f : List Byte) : List (List Nat) :=
  (List.range 4).map fun k => 1 :: (((frameBlocks f).zipIdx.filter fun e => e.2 % 4 == k).foldl (fun r e =>
    let x := scramble r.1 e.1.bits
    (x.1, r.2 ++ [(if e.1.control then 2 else 1) + 4 * x.2])) (0, [])).2

/-- The lanes of both ports of `s` are locked and aligned. -/
def linked (s : State) : State :=
  [true, false].foldl (fun t w => t.setPort w { t.port w with lanes := List.replicate 4 ⟨64, some 5, true, 0⟩ }) s

/-- The module is FORMED at position 2, not its master, with two members. -/
def formed : State :=
  { (ready.wrN CVY_STAT 0x2002).setWide CVY_MASTER 4 9 with cvy := { ready.cvy with members := [(2, 1), (5, 9)] } }

theorem test_witness_frames_arrive :
    (linked ready).lanesUp true = true ∧ ready.lanesUp true = false ∧ stays (.beaconFrame true (wire (frame 1 []))) ready = true ∧
    laneSkews ((linked ready).port true).lanes = [0, 0, 0, 0] ∧
    ((List.range 7).all fun k => (lineFrame [0, 0, 0, 0] (wire (frame (k + 1) (leBytes 40 0)))).any fun f =>
      f.take 64 == frame (k + 1) (leBytes 40 0) && frameOk f && frameType f == k + 1) = true ∧
    ((wire (frame 1 [])).all fun l => l.all headerOk) = true ∧ (wire (frame 1 [])).length = 4 ∧
    lineFrame [0, 0, 0, 0] [[1, 3], [1], [1], [1]] = none ∧
    after (.helloFrame true [[1, 3], [1], [1], [1]]) ((linked ready).setBit CVY_STAT 6 true) (fun t => !t.lanesUp true && !t.bit CVY_STAT 6 &&
      t.bit CVY_STAT 12 && t.bit CVY_EVT 0) = true ∧
    ((lineFrame [0, 0, 0, 0] (wire (frame 8 []))).any fun f => !frameOk f) = true ∧
    after (.helloFrame false (wire (frame 8 []))) (linked ready) (fun t => t.rdN CVY_CRC_ERR_E == 1) = true ∧
    stays (.helloFrame false (wire (frame 3 []))) (linked ready) = true ∧
    stays (.failFrame true (wire (frame 5 (leBytes 4 0)))) { linked ready with cvy := { (linked ready).cvy with pairs := [(5, 7)] } } = true ∧
    (formed.seated && frameSrc (frameSeal (frameHead 5 0 2 0 7 0 (leBytes 4 0))) == formed.position) = true ∧
    after (.frameDiscard true) (ready.wrN CVY_CRC_ERR_W 0xFFFF) (fun t => t.rdN CVY_CRC_ERR_W == 0xFFFF) = true := by decide +kernel

theorem test_witness_FramesAreCheckedAndForwarded :
    ready.cvy.pairs.contains (5, 7) = false ∧ (ready.seated && 5 == ready.position) = false ∧ frameHops (frame 2 []) = 0 ∧
    after (.beaconFrame true (wire (frame 1 (leBytes 8 9 ++ leBytes 32 3)))) (linked ready) (fun t => (t.port true).got && (t.port true).serial == 9) = true ∧
    after (.helloFrame true (wire (frame 2 (leBytes 8 9 ++ leBytes 32 3)))) (linked ready) (fun t => (t.cvy.hellos.any fun h => h.serial == 9) && t.cvy.pairs.contains (5, 7)) = true ∧
    (formed.seated && 5 ≠ formed.position) = true ∧ 0 ≤ formed.until ((frameTime (frame 3 [9]) / 65536 + formed.rdN CVY_TRIG_DLY) % clockSpan) ∧
    after (.triggerFrame true (wire (frame 3 [9, 0, 0, 0]))) (linked formed) (fun t => t.cvy.triggers.map (·.event) == [9]) = true ∧
    formed.cvy.counts = [] ∧
    after (.rendezvousFrame true (wire (frame 4 (leBytes 4 8 ++ leBytes 2 0 ++ leBytes 2 3)))) (linked formed) (fun t => t.cvy.arrivals == [⟨8, 5, 3, 6553600⟩]) = true ∧
    ready.bit CVY_CFG 15 = false ∧
    after (.failFrame true (wire (frame 5 (leBytes 2 511 ++ leBytes 2 0)))) (linked ready) (fun t =>
      t.rdN CVY_FAIL_SRC == 5 && t.rdN CVY_FAIL_GRP == 511 && t.bit CVY_EVT 5) = true ∧
    ready.bit CVY_FI_CFG_W 15 = false ∧ ready.bit CVY_FI_CFG_E 15 = false ∧ (ready.port true).heldBack = none ∧
    after (.soundReq true (wire (frame 6 [])) 3 0) (linked ready) (fun t => t.cvy.sent.map (fun e => (e.1, frameType e.2, frameArg e.2 0 8)) == [(true, 7, 6553600)]) = true ∧
    stays (.soundEcho true (wire (frame 7 (leBytes 16 5))) 3) (linked ready) = true ∧ (ready.port true).t1 ≠ some 5 ∧
    after (.soundEcho true (wire (frame 7 (leBytes 16 5))) 3) ((linked ready).setPort true { (linked ready).port true with t1 := some 5, samples := List.replicate 14 0 }) (fun t =>
      (t.port true).t1.isNone && (t.port true).samples.length == 15) = true := by decide +kernel

/-- The west port of `s` has heard three beacons and one more. -/
def heard (s : State) : State := s.setPort true { s.port true with run := 3, got := true }

theorem test_witness_ports_follow_their_lanes :
    stays (.portUp ⟨true, []⟩) ready = true ∧ stays (.portUp ⟨true, []⟩) (linked ready) = true ∧ ((linked ready).port true).run + ((linked ready).port true).got.toNat < 4 ∧
    ready.cvyState ≠ 1 ∧
    after (.portUp ⟨true, []⟩) (heard (linked ready)) (fun t => t.bit CVY_STAT 6 && t.bit CVY_EVT 0) = true ∧
    after (.portUp ⟨true, (List.replicate 4 [.valid 63, .align 9])⟩) (heard (ready.setPort true { ready.port true with lanes := List.replicate 4 ⟨1, some 16320, true, 0⟩ }))
      (fun t => t.bit CVY_STAT 6 && (t.port true).lanes == List.replicate 4 ⟨65, some 0, true, 9⟩) = true ∧
    stays (.portDown ⟨true, []⟩) ((linked ready).setBit CVY_STAT 6 true) = true ∧ stays (.portDown ⟨false, []⟩) ready = true ∧
    after (.portDown ⟨false, []⟩) (ready.setBit CVY_STAT 7 true) (fun t => !t.bit CVY_STAT 7 && t.bit CVY_EVT 0) = true ∧
    after (.portUp ⟨true, [[.bad]]⟩) ((linked ready).setBit CVY_STAT 6 true) (fun t => !t.bit CVY_STAT 6 && t.bit CVY_STAT 12) = true ∧
    after (.portDown ⟨true, [[], [], [.valid 16379]]⟩) ((linked ready).setBit CVY_STAT 6 true) (fun t => !t.bit CVY_STAT 6) = true := by decide +kernel

theorem test_witness_TheConvoyFormsAndChanges :
    stays (.linkSounding true 0) ready = true ∧
    after (.linkSounding true 65535) (ready.setBit CVY_STAT 6 true) (fun t => (t.port true).t1 == some 65535 && t.cvy.sent.map (fun e => frameType e.2) == [6]) = true ∧
    stays .convoyFormed ready = true ∧ ready.cvyState = 0 ∧ ({ ready with cvy := { ready.cvy with same := 64 } }).cvy.same = 64 ∧
    after .convoyFormed { ready with cvy := { ready.cvy with same := 64 } } (fun t => t.cvy.forming == some [ready.ownHello]) = true ∧
    ((convoyOf [ready.ownHello]).2.2.find? fun e => e.2 == ready.serial) = some (0, 1) ∧
    (fun t : State => t.cvyState == 1 && t.isMaster && t.bit CVY_EVT 1) ({ ready with cvy := { ready.cvy with forming := some [ready.ownHello] } }).convoyActs = true ∧
    ((convoyOf (ready.ownHello :: (List.range 64).map fun k => ⟨k + 2, 0, 0, k, 1, 2⟩)).2.2.find? fun e => e.2 == ready.serial) = none ∧
    stays (.masterChange []) ready = true ∧ stays (.masterChange [9]) formed = true ∧ formed.master = 9 ∧ formed.isMaster = false ∧
    after (.masterChange [7]) formed (fun t => t.cvy.electing == some [7]) = true ∧
    (fun t : State => t.master == 1 && t.isMaster && t.bit CVY_EVT 2) ({ formed with cvy := { formed.cvy with electing := some [7] } }).convoyActs = true ∧
    stays (.positionFreed 2) formed = true ∧ stays (.positionFreed 63) formed = true ∧ formed.position = 2 ∧ formed.ctxs = [] ∧
    after (.positionFreed 5) formed (fun t => t.cvy.members == [(2, 1)] && t.rdN CVY_SIZE == 1) = true := by decide +kernel

/-- A lane's scrambler has sent one block. -/
def sent0 : Nat × Nat := scramble 0 0x123456789ABCDEF0

theorem test_witness_LanesCarryFramesAndLock :
    frameFound (frameBlocks (frame 1 [])) = some (padTo 31 (frame 1 [])) ∧ (frame 1 []).length = 24 ∧
    sent0.1 < 2 ^ 58 ∧ sent0.2 < 2 ^ 64 ∧ ((List.range 58).all fun j => sent0.1.testBit j == sent0.2.testBit (63 - j)) = true ∧
    descramble 0 sent0.2 = 0x123456789ABCDEF0 ∧ descramble sent0.2 (scramble sent0.1 77).2 = 77 ∧
    ((⟨63, some 16383, false, 0⟩ : LaneRx).see (.align 9)).locked = true ∧ ((⟨63, some 16382, false, 0⟩ : LaneRx).see (.align 9)).locked = false ∧
    ((⟨64, some 5, true, 0⟩ : LaneRx).see .bad).locked = false ∧ (⟨64, some 5, true, 0⟩ : LaneRx).locked = true ∧
    ((⟨64, some 5, true, 0⟩ : LaneRx).see (.valid 16378)).locked = true ∧ ((⟨64, some 5, true, 0⟩ : LaneRx).see (.valid 16379)).locked = false ∧
    lanesAligned (⟨64, some 5, true, 64⟩ :: List.replicate 3 ⟨64, some 5, true, 0⟩) = true ∧
    lanesAligned (⟨64, some 5, true, 65⟩ :: List.replicate 3 ⟨64, some 5, true, 0⟩) = false := by decide +kernel

/-- Context 63 waits at rendezvous entry 3 for position 5, which has arrived or not. -/
def meeting (n : Nat) (here : Bool) : State :=
  { later n ((((ready.wrN (SEQ_STAT 63) 2).wrN (CVY_RDV_PART 3) 32).wrN (CVY_RDV_TIME 3) 0xFF00).setCtx 63 { Ctx.init with
      rdv := some ⟨3, 0, 8, 0⟩, paths := [{ path0 1 0 [] with halt := .rendezvous 3 0 }] }) with
    cvy := { ready.cvy with arrivals := if here then [⟨8, 5, 0, 100⟩] else [] } }

theorem test_witness_RemoteEventsAndRendezvous :
    stays .remoteTriggerDelivery ready = true ∧ ready.cvy.triggers = [] ∧ (later 5 ready).until 5 ≤ 0 ∧
    after .remoteTriggerDelivery { later 5 ready with cvy := { ready.cvy with triggers := [⟨9, 5⟩] } } (fun t => t.cvy.triggers.isEmpty) = true ∧
    stays (.rendezvousRelease 0) ready = true ∧ stays (.rendezvousTimeout 0) ready = true ∧
    (meeting 0 false).rdvLatest ⟨3, 0, 8, 0⟩ = none ∧ (meeting 0 true).rdvLatest ⟨3, 0, 8, 0⟩ = some 100 ∧
    (((meeting 0 true).ctx 63).paths.findIdx? fun p => p.need.isEmpty && p.halt ≠ .none) = some 0 ∧
    after (.rendezvousRelease 63) (meeting 0 true) (fun t => (t.ctx 63).rdv.isNone && (t.ctx 63).paths.map (·.halt) == [.none] && t.cvy.arrivals.isEmpty) = true ∧
    stays (.rendezvousRelease 63) (meeting 0 false) = true ∧
    ((meeting 0 true).wrN (CVY_RDV_TIME 3) 0xFF).fld (CVY_RDV_TIME 3) 15 8 = 0 ∧
    stays (.rendezvousTimeout 63) ((meeting 0 true).wrN (CVY_RDV_TIME 3) 0xFF) = true ∧
    (0 : Nat) + (meeting 0 false).fld (CVY_RDV_TIME 3) 15 8 * 196608 ≤ 50135040 ∧
    after (.rendezvousTimeout 63) (meeting 50135040 false) (fun t => (t.ctx 63).rdv.isNone && t.rdN (SEQ_CODE 63) == 0x1602) = true := by decide +kernel

/-! Check units and waybills (O55, O56). -/

/-- Unit 15 checks host frames of 8 data bits and 8 CRC bits; it is armed, and in a frame of which 8 bits have come. -/
def crcUnit : State := (ready.wrN (CHK_CFG 15) 0x1C20).wrN (CHK_DATA_BITS 15) 8
def checking (bits : Nat) : State := crcUnit.setChk 15 ⟨true, true, true, List.replicate bits false, none⟩

theorem test_witness_CheckUnitsJudgeTheirFrames :
    (checking 0).chkArmCode 15 = some 0x1730 ∧ ready.chkArmCode 0 = some 0x1731 ∧ crcUnit.chkArmCode 15 = none ∧
    after (.chkArm 0) ready (fun t => t.rdN (CHK_CODE 0) == 0x1731 && t.bit (CHK_EVT 0) 5) = true ∧
    after (.chkArm 15) crcUnit (fun t => t.chk 15 == ⟨true, true, false, [], none⟩ && t.fld (CHK_STAT 15) 15 14 == 2) = true ∧
    after (.chkArm 15) (crcUnit.setBit (CHK_START 15) 15 true) (fun t => t.chk 15 == ⟨true, false, false, [], none⟩ && t.fld (CHK_STAT 15) 15 14 == 1) = true ∧
    stays (.chkDisarm 15) crcUnit = true ∧
    after (.chkDisarm 15) (checking 0) (fun t => !(t.chk 15).armed && t.rdN (CHK_FRAME_CNT 15) == 1 && t.rdN (CHK_FAIL_CNT 15) == 1) = true ∧
    after (.chkDisarm 15) (crcUnit.setChk 15 ⟨true, false, true, [], none⟩) (fun t => !(t.chk 15).armed && t.rdN (CHK_FRAME_CNT 15) == 0) = true ∧
    stays (.chkFeed8 0 5) ready = true ∧ (checking 0).chkSrc 15 = 2 ∧ ready.chkSrc 0 ≠ 2 ∧
    after (.chkFeed 15 0x0100) (checking 0) (fun t => !(t.chk 15).inFrame && t.rdN (CHK_FRAME_CNT 15) == 1) = true ∧
    after (.chkFeed8 15 1) (checking 0) (fun t => (t.chk 15).bits.length == 8 && (t.chk 15).inFrame) = true ∧
    (List.replicate 8 false ++ byteBits 0).length = (checking 8).chkData 15 + (checking 8).chkWidth 15 ∧ (checking 8).bit (CHK_ALIVE 15) 15 = false ∧
    after (.chkFeed8 15 0) (checking 8) (fun t => t.rdN (CHK_FRAME_CNT 15) == 1 && t.rdN (CHK_FAIL_CNT 15) == 0 && (t.queue (CHK_RES_STAT 15)).items.length == 1) = true ∧
    after (.chkFeed8 15 1) (crcUnit.setChk 15 ⟨true, false, true, [], none⟩) (fun t => (t.chk 15).inFrame && (t.chk 15).bits.length == 8) = true ∧
    after (.chkFeed8 15 1) (checking 8) (fun t => t.rdN (CHK_FAIL_CNT 15) == 1 && t.bit (CHK_EVT 15) 1) = true ∧
    after (.chkFeed8 15 1) ((checking 8).setQueue (CHK_RES_STAT 15) { ready.queue 0 with items := List.replicate 16 (0, []) }) (fun t => t.rdN (CHK_DROP_CNT 15) == 1) = true := by
  decide +kernel

/-- A journey of kind 9, from a device address. -/
def travelling (failed : Bool) (missing : Option (Nat × Nat)) : State :=
  later 300 { ready with way := { ready.way with journeys := [⟨9, 2 ^ 30 - 1, 3, failed, missing⟩] } }

theorem test_witness_JourneysAreFetchedAgainOnce :
    (ready.journey 9 (2 ^ 30 - 1) 3).isNone = true ∧ (travelling true none).journey 9 (2 ^ 30 - 1) 3 = some ⟨9, 2 ^ 30 - 1, 3, true, none⟩ ∧
    fiReg 9 8 = none ∧ lastHop 9 = 8 ∧ fiReg 9 0 = none ∧ fiReg 6 0 = none ∧
    stays (.blockHop 9 (2 ^ 30 - 1) 3 0 true false) ready = true ∧
    after (.blockHop 9 (2 ^ 30 - 1) 3 8 true false) (travelling true none) (fun t => t.way.journeys.isEmpty) = true ∧
    after (.blockHop 0 0 63 0 false false) ready (fun t => t.rdN WAY_ERR_CNT == 1 && t.bit WAY_EVT 0 && t.way.flog.length == 1) = true ∧
    after (.blockHop 9 (2 ^ 30 - 1) 3 8 false false) (travelling true none) (fun t => t.rdN WAY_REPEAT_CNT == 1 && t.bit WAY_EVT 1 && t.way.poison == [(2 ^ 30 - 1) * 64]) = true ∧
    (ready.wrN WAY_FI_FAB 0xA000).bit WAY_FI_FAB 15 = true ∧ (ready.wrN WAY_FI_FAB 0xA000).fld WAY_FI_FAB 14 13 = 1 ∧
    (ready.wrN WAY_FI_FAB 0xA000).bit WAY_FI_FAB 7 = false ∧
    after (.blockHop 0 0 63 1 true true) (ready.wrN WAY_FI_FAB 0xA000) (fun t => t.rdN WAY_FI_CNT == 1 && t.way.flog.map (·.injected) == [true]) = true ∧
    stays (.refetchArrival 0 0 0 true) ready = true ∧
    after (.refetchArrival 9 (2 ^ 30 - 1) 3 false) (travelling true none) (fun t => t.rdN WAY_REPEAT_CNT == 1) = true ∧
    stays (.injectedDropDetect 0 0 0) ready = true ∧
    after (.injectedDropDetect 9 (2 ^ 30 - 1) 3) (travelling false (some (1, 44))) (fun t => t.rdN WAY_ERR_CNT == 1 && t.way.flog.length == 1) = true := by decide +kernel

/-! Start, memory, contact, temperature, test port (O57 to O59). -/

theorem test_witness_TheModuleStartsAndStops :
    after .resetAssert ready (fun t => t.start.phase == 0 && t.start.held && !t.bit SYS_STAT 15 && t.serial == 1) = true ∧
    after .powerLoss ready (fun t => t.start.phase == 0 && !t.nv.hardTrip) = true ∧ ready.start.phase ≠ 0 ∧
    after .hardTrip ready (fun t => t.start.phase == 4 && t.nv.hardTrip) = true ∧ stays .hardTrip State.reset = true ∧
    ready.start.next = none ∧ ready.start.rolledBack = false ∧ stays (.moduleStart false) ready = true ∧
    after (.moduleStart true) State.reset (fun t => t.start.phase == 0) = true ∧
    (({ bare with start := State.reset.start }.nv.atStart.romTry none [])).2 = none ∧
    stays .moduleReady ready = true ∧
    after .moduleReady { bare with start := ⟨1, 0, none, true, false⟩ } (fun t => t.bit SYS_STAT 15 && t.start.phase == 2 && t.bit FWU_EVT 3) = true ∧
    stays (.controllerLoadTimeout 20) ready = true ∧ bare.inTrial = false ∧
    after (.controllerLoadTimeout 15) { bare with start := ⟨1, 0, none, false, false⟩ } (fun t => t.bit CAL_ISO 15 && t.isoStat 15 == 3 && t.cal.coreFail == [15]) = true ∧
    after (.controllerLoadTimeout 20) { bare with start := ⟨1, 0, none, false, false⟩ } (fun t => t.start.phase == 3) = true := by decide +kernel

theorem test_rom_factory {n : NvMem} (h : (n.slot false).header = Config.factoryHeader ∧ (n.slot false).body = Config.factoryBody)
    (r : n.revoked = 0) (f : n.floor = 0) : (n.romTry none [false]).2 = some false := by
  simp only [NvMem.romTry, NvMem.romFault, if_pos h, r, f, Nat.zero_testBit, Nat.not_lt_zero, if_false, Bool.false_eq_true]

/-- ROM starts slot A with the image as delivered, and finds no slot when it is empty. -/
theorem test_witness_rom_tries :
    (State.reset.nv.atStart.romTry State.reset.start.next (State.reset.nv.atStart.candidates State.reset.start.next)).2 = some false := by
  have c : State.reset.nv.atStart.candidates State.reset.start.next = [false] := by decide +kernel
  rw [c]
  exact test_rom_factory ⟨rfl, rfl⟩ rfl rfl

theorem test_witness_no_slot :
    (({ State.reset with nv := { State.reset.nv with fwA := ⟨0, [], [], false⟩ } }.nv.atStart.romTry none
      ({ State.reset with nv := { State.reset.nv with fwA := ⟨0, [], [], false⟩ } }.nv.atStart.candidates none))).2 = none := by decide +kernel

/-- A transaction with pages left. -/
def writing (pages : Nat) : State := { ready with nv := { ready.nv with txns := [⟨.calRecord [1#8] 9, pages⟩] } }

theorem test_witness_TransactionsPowerFailAndContact :
    after .nvPageDone (writing 1) (fun t => t.nv.txns.map (·.pages) == [0]) = true ∧ stays .nvTransactionCommit (writing 1) = true ∧
    stays .nvPageDone (writing 0) = true ∧ stays .nvPageDone ready = true ∧ stays .nvTransactionCommit ready = true ∧
    after .nvTransactionCommit (writing 0) (fun t => t.nv.txns.isEmpty && t.nv.calRecord == some [1#8] && t.host.waiting.map (·.opcode) == [0x0030]) = true ∧
    stays (.powerFailWarning 3350 false) ready = true ∧ ready.bit THM_PF_CFG 15 = true ∧ ready.fw = none ∧ ready.nv.txns = [] ∧
    after (.powerFailWarning 3349 false) ready (fun t => t.bit THM_STAT 12 && t.bit THM_EVT 4 && !t.enabled 511) = true ∧
    after (.powerFailWarning 3350 true) (ready.setBit THM_PF_CFG 15 false) (fun t => t.bit THM_STAT 12 && t.therm.vin == 3350 && t.therm.pfInput) = true ∧
    after (.powerFailWarning 3300 true) (ready.setBit THM_STAT 12 true) (fun t => t.therm.vin == 3300 && t.therm.pfInput && !t.bit THM_EVT 4) = true ∧
    stays (.powerFailEnd 3500) (ready.setBit THM_STAT 12 true) = true ∧ stays (.powerFailEnd 3501) ready = true ∧
    after (.powerFailEnd 3501) (ready.setBit THM_STAT 12 true) (fun t => !t.bit THM_STAT 12 && t.therm.vin == 3501) = true ∧
    stays .contactEngagedAssert { ready with touch := true } = true ∧ stays .contactEngagedDeassert ready = true ∧
    fiRegs.any (fun a => (ready.wrN WAY_FI_CMD 0x8000).bit a 15) = true ∧ ready.touch = false ∧
    after .contactEngagedAssert (ready.wrN WAY_FI_CMD 0x8000) (fun t => t.touch && !t.bit WAY_FI_CMD 15 && t.bit WAY_EVT 3) = true ∧
    after .contactEngagedDeassert { cast with touch := true } (fun t => !t.touch && !t.bit (RUN_CD_MIN 0) 15) = true := by decide +kernel

theorem test_witness_ThermalSamplesAndTheTestPort :
    stays (.thermalSample [] 0 0) { ready with therm := { ready.therm with wait := 1 } } = true ∧ ready.therm.wait = 0 ∧
    after (.thermalSample [] 4000 0) ready (fun t => t.therm.wait == 1000 && (!t.sched.waiting.isEmpty || !t.sched.running.isEmpty)) = true ∧
    after (.thermalSample [] 4000 0) { ready.setBit THM_STAT 13 true with therm := { ready.therm with alternate := true } } (fun t => t.therm.wait == 63 && !t.therm.alternate) = true ∧
    after (.thmResume 63) ready (fun t => !t.sched.waiting.isEmpty || !t.sched.running.isEmpty) = true ∧
    (ready.wrN (THM_SSTAT 63) 0xC000).zoneLevel 63 = 3 ∧ ready.zoneLevel 63 ≠ 3 ∧
    signed 16 ((ready.wrN (THM_TEMP 63) 0x397F).rdN (THM_TEMP 63)) < 0x3980 ∧ ready.zoneLevel 0 = 0 ∧
    (zoneUpdate 63 (ready.wrN (THM_TEMP 63) 0x2F80)).zoneLevel 63 = 1 ∧ (zoneUpdate 63 (ready.wrN (THM_TEMP 63) 0x2F80)).bit THM_EVT 0 = true ∧
    stays .bypass ready = true ∧ ready.start.held = false ∧
    after .bypass { ready with start := { ready.start with held := true } } (fun t => t.tap.instr == .bypass) = true ∧
    after (.samplePreload [true] [false]) { ready with start := { ready.start with held := true } } (fun t => t.tap.boundary == [true] && t.tap.update == [false]) = true ∧
    after (.extest [true]) { ready with start := { ready.start with held := true }, tap := { ready.tap with update := [true, false] } } (fun t => t.tap.driven == [true, false]) = true ∧
    after .idcode { ready with start := { ready.start with held := true } } (fun t => t.tap.instr == .idcode && t.read.data % 2 ^ 28 == 0x20485D5) = true := by decide +kernel

/-! Ill-formed commands are refused by the check, one for each kind of check. -/

/-- A command entry and a block of the right lengths. -/
def fullEntry : List Byte := List.replicate 128 0#8
def shortEntry : List Byte := List.replicate 127 0#8
def fullBlock : List Byte := List.replicate 256 0#8

theorem test_well_formed :
    ([.stageTick [(255, 1)], .registerWrite 0x0FFFFFFE 2 0xFFFF, .castLoad fullEntry, .seqStart 63, .finalize 511, .cdGo 2175,
      .wfsStart 19, .dpsOn 255, .groupForce 511, .tileRemoved 31, .chkArm 15, .isoSet 15, .stackFault 3, .thmResume 63,
      .laneAdcCalDone 127, .unitCalDone 2471 true [], .tollLockoutExpiry 7, .positionFreed 63, .ownerClaim fullEntry (some fullBlock),
      .ownerClaim fullEntry none, .cdDone 0 (List.replicate 256 1), .thermalSample (List.replicate 64 ⟨0, false, false⟩) 0 0,
      .calReqGo [1, 2, 3, 4], .cxlMemWrite 0xFFFFFFFC0 (List.replicate 64 0#8), .cxlMemRead 0, .linkSounding true 65535,
      .seqTableSwap 0 31, .wfsTableWrite 0 2047 0, .controllerLoadTimeout 20, .monitorTrip ⟨0x1000400, 0xFFFF⟩, .monitorTrip ⟨0x300080, 0⟩, .pmuMeasStatRead 0x1000140, .pmuMeasStatRead 0x300040
      ].all fun c => wellFormed c) = true := by decide +kernel

theorem test_ill_formed_numbers :
    ([.seqStart 64, .jump 64 0, .compareResult 64 [], .finalize 512, .siteTripped 512, .groupClear 512, .tdcTswap 2176,
      .padSwitchOpen 2176, .calRelease 2176, .wfsStart 20, .acqForce 20, .acqTrigger 20 0 0, .dpsOn 256, .stageTick [(256, 1)], .clockWrap [(256, 1)],
      .tileRemoved 32, .chkArm 16, .isoSet 16, .stackFault 4, .subEnable false 4, .thmResume 64, .laneAdcCalDone 128,
      .unitCalDone 2472 true [], .tollLockoutExpiry 8, .positionFreed 64, .controllerLoadTimeout 21, .seqTableSwap 0 32,
      .wfsTableWrite 0 2048 0, .blockHop 10 0 0 0 true false, .blockHop 0 0 0 9 true false, .refetchArrival 10 0 0 true, .pmuMeasStatRead 1, .monitorInside ⟨1, 0⟩].all
      fun c => !wellFormed c) = true := by decide +kernel

theorem test_ill_formed_values :
    ([.registerWrite 0x10000000 2 0, .registerWrite 0 2 65536, .counterReadClear 0x10000000, .groupReadLatch 0x10000000 2,
      .directWrite 0 65536, .seqTableEntryWrite 0 65536, .lvlTableWrite 0 65536, .tdcTableWrite 0 65536, .chkFeed 0 65536,
      .chkFeed8 0 256, .prefetchArrival 0 65536 0, .segmentComplete 0 [65536], .tdcEdge 0 8 true 0,
      .tdcEdge 0 0 true 65536, .segLoadDone 65536 none, .linkSounding true 65536, .cxlMemRead 0x1000000000, .cxlMemRead 1,
      .cxlMemWrite 32 (List.replicate 64 0#8)].all fun c => !wellFormed c) = true := by decide +kernel

theorem test_ill_formed_lengths :
    ([.castLoad shortEntry, .castRecast shortEntry none, .segLoad [], .runStart shortEntry, .fwUpdate (0#8 :: fullEntry),
      .ownerClaim shortEntry none, .ownerClaim fullEntry (some fullEntry), .keySet fullEntry (some []), .cdDone 0 [],
      .thermalSample [] 0 0, .calReqGo [1, 2, 3], .cxlMemWrite 0 [], .portUp ⟨true, []⟩, .portDown ⟨true, [[]]⟩, .beaconFrame true [[1], [1], [1]],
      .failFrame true [[2 ^ 66], [1], [1], [1]]].all fun c => !wellFormed c) = true := by decide +kernel

/-- No word spells a command. -/
theorem test_no_word_decodes : decodeTableWord 16 0x1234 = none ∧ State.reset.withFetchWord 16 0x1234 = State.reset := ⟨rfl, rfl⟩

/-! The worked examples of the spec. -/

/-- R6: a level of 1.200 V and the limit of 105 °C. -/
theorem test_codes : (1200 + 1000) * 8 = 0x44C0 ∧ State.reset.throttleLimit = 105 * 128 ∧ State.reset.throttleLimit = 0x3480 := by
  decide +kernel

/-- R9 and R12: the lanes of channels 404 and 1,190 and their outriders. -/
theorem test_lanes : laneOf 404 = 25 ∧ outriderOf (laneOf 404) = 2073 ∧ laneOf 1190 = 74 ∧ outriderOf (laneOf 1190) = 2122 := by
  decide +kernel

/-- R452 and the example after it: register addresses. -/
theorem test_addresses :
    PIN_LVL_VIH 1190 = 0x014A6010 ∧ SEQ_JTGT 12 = 0x0010C014 ∧ ASY_RES_STAT 301 = 0x00192D0A ∧ CST_SITE_EN 18 = 0x00001064 := by
  decide +kernel

/-- The example of R452: one 32-bit write sets VIH and VIL; reads give the old levels, reads of the shadow address the new ones. -/
theorem test_level_write :
    after (.registerWrite 0x014A6010 4 0x1F4044C0) ready (fun t =>
      t.rd (PIN_LVL_VIH 1190) == ready.rd (PIN_LVL_VIH 1190) &&
      tabGet (fun _ => none) t.shadow 0x014A6010 == some 0x44C0#16 && tabGet (fun _ => none) t.shadow 0x014A6012 == some 0x1F40#16) = true ∧
    after (.groupReadLatch 0x094A6010 4)
      { ready with shadow := [(0x014A6010, some 0x44C0), (0x014A6012, some 0x1F40)] } (fun t => t.read.data == 0x1F4044C0) = true := by
  decide +kernel

/-- Table 1.4: a write at clock 1,200 belongs to the stage, one at clock 3,060 to the next. -/
theorem test_commit_cut :
    after (.registerWrite (PIN_LVL_VIH 404) 2 0x44C0) (later 1200 ready) (fun t =>
      tabGet (fun _ => none) t.shadow (PIN_LVL_VIH 404) == some 0x44C0#16 && t.shadowNext.isEmpty) = true ∧
    after (.registerWrite (PIN_LVL_VIH 1190) 2 0x44C0) (later 3060 ready) (fun t =>
      t.shadow.isEmpty && tabGet (fun _ => none) t.shadowNext (PIN_LVL_VIH 1190) == some 0x44C0#16) = true := by decide +kernel

/-- The example of a PIN record in chapter 02. -/
theorem test_pin_record :
    pinOf [0x94#8, 0x01#8, 0x2D#8, 0x01#8, 0x01#8, 0x02#8, 0x06#8, 0x00#8, 0x13#8, 0x02#8, 0#8, 0#8] = ⟨404, false, 301, 1, 2, 6, 531⟩ := by
  decide +kernel

/-- The example of R334: partition address 0x0300_1040 of partition 2, both ways. -/
theorem test_device_address :
    StoreRec.device ⟨1, 2, 5, 100, 1000⟩ 0x03001040 = 0x80E000040 ∧ StoreRec.address ⟨1, 2, 5, 100, 1000⟩ 0x80E000040 = some 0x03001040 := by
  decide +kernel

/-- The example of R183 on EX-M4, after the two must-repairs of region 0: rows (0, 500) and (3, 7) are chosen. -/
theorem test_final_search :
    regionCover (repairOf [0#8, 4#8, 16#8, 0#8, 17#8, 12#8, 0#8, 0#8, 8#8, 0#8, 4#8, 0#8]) [(0, 500, 600), (0, 500, 601), (3, 7, 600)]
      [⟨0, false, 2, 1000, true⟩, ⟨0, true, 0xFF, 77, true⟩] 0 = some [⟨0, false, 0, 500, false⟩, ⟨0, false, 3, 7, false⟩] ∧
    Repair.bytes ⟨0, true, 0xFF, 77, true⟩ = [0x4D#8, 0#8, 0#8, 0#8, 0xFF#8, 0#8, 3#8, 0#8] := by decide +kernel

/-- The example of chapter 14: the CRC-32C of "123456789". -/
theorem test_check_unit :
    crcCalc 32 0x1EDC6F41 0xFFFFFFFF 0xFFFFFFFF true (entering true ([0x31, 0x32, 0x33, 0x34, 0x35, 0x36, 0x37, 0x38, 0x39].flatMap byteBits))
      = 0xE3069283 := by decide +kernel

/-- RFC 3720, CRC-32C of 32 zero bytes; FIPS 180-4, SHA-512 of "abc"; RFC 8032, test 1 of Ed25519. -/
theorem test_crc32c : crc32c (List.replicate 32 0#8) = 0x8A9136AA#32 := by decide +kernel
theorem test_sha512 : (sha512 [0x61#8, 0x62#8, 0x63#8]).take 4 = [0xdd#8, 0xaf#8, 0x35#8, 0xa1#8] := by decide +kernel
theorem test_ed25519 :
    edVerify (leBytes 32 0x1a5107f7681a02af2523a6daf372e10e3a0764c9d3fe4bd5b70ab18201985ad7) []
      (leBytes 64 0xb107a8e4341516524be5b59f0f55bd26bb4f91c70391ec6ac3ba3901582b85f5501492265e073d874d9e5b81e7f87848a826e80cce2869072ac60c3004356e5)
      = true := by decide +kernel

end Sys2Proof.Tests
end

section
/-!
PROOFS. What every command keeps: the queue, the rollback floor, the revoked keys and the canonical form of the stored state, and, beside
the rows that move the stage, the stage.
-/

namespace Sys2Proof.Machine

variable {ql : List Instr} {flo rvk : Nat} {stg : Option StageOf} {s : State}

/-- An outcome keeps what its next state keeps; a fault and a refusal have none. -/
def OutcomeKept (ql : List Instr) (flo rvk : Nat) (stg : Option StageOf) : Host.Outcome State Fault Refusal → Prop
  | .next t => Kept ql flo rvk stg t
  | .fault _ => True
  | .refused _ => True

theorem OutcomeKept.next {o : Host.Outcome State Fault Refusal} {t : State} (h : OutcomeKept ql flo rvk stg o) (ho : o = .next t) :
    Kept ql flo rvk stg t := by
  subst ho
  exact h

/-- Every canonical state keeps what it has itself. -/
theorem Kept.self (h : s.Canonical) : Kept s.pending s.nv.floor s.nv.revoked (some s.time.stageOf) s :=
  ⟨rfl, Nat.le_refl _, Nat.or_self _, fun _ hx => Option.some.inj hx, h⟩

/-- What a read returns is none of the parts that `Kept` speaks of. -/
theorem readPort_kept {r : ReadPort} (hk : Kept ql flo rvk stg s) : Kept ql flo rvk stg { s with read := r } :=
  kept_upd hk rfl rfl rfl rfl rfl rfl rfl

/-! Host accesses to registers. -/

theorem execCounterReadClear_kept {a : Nat} (hk : Kept ql flo rvk stg s) : OutcomeKept ql flo rvk stg (execCounterReadClear a s) := by
  change Kept ql flo rvk stg _
  split
  · exact kept_ite hk (busRead_kept (State.itemsDue_kept hk))
  · exact hk

theorem execDirectWrite_kept {a v : Nat} (hk : Kept ql flo rvk stg s) : OutcomeKept ql flo rvk stg (execDirectWrite a v s) := by
  change Kept ql flo rvk stg _
  split
  · exact kept_ite hk (busWrite_kept (State.itemsDue_kept hk))
  · exact hk

/-! Accesses to device memory: one beyond its end faults. -/

theorem execCxlMemWrite_kept {dpa : Nat} {data : List Byte} (hk : Kept ql flo rvk stg s) :
    OutcomeKept ql flo rvk stg (execCxlMemWrite dpa data s) := by
  unfold execCxlMemWrite
  split
  · trivial
  · exact memStoreBlock_kept hk

theorem execCxlMemRead_kept {dpa : Nat} (hk : Kept ql flo rvk stg s) : OutcomeKept ql flo rvk stg (execCxlMemRead dpa s) := by
  unfold execCxlMemRead
  split
  · trivial
  · exact memLoadBlock_kept hk

/-! Sequencer, pins and duties. -/

theorem execBranchResolved_kept {c : Nat} (hk : Kept ql flo rvk stg s) : OutcomeKept ql flo rvk stg (execBranchResolved c s) := by
  change Kept ql flo rvk stg _
  split
  · exact resolve_kept hk
  · exact hk

theorem execPmuRangingEnd_kept {ch : Nat} (hk : Kept ql flo rvk stg s) : OutcomeKept ql flo rvk stg (execPmuRangingEnd ch s) := by
  change Kept ql flo rvk stg _
  split
  · exact hk
  · exact State.atDue_kept hk fun _ h => State.setBit_kept (State.setChan_kept h)

theorem execPadSwitchOpen_kept {ch : Nat} (hk : Kept ql flo rvk stg s) : OutcomeKept ql flo rvk stg (execPadSwitchOpen ch s) := by
  change Kept ql flo rvk stg _
  split
  · exact hk
  · exact State.atDue_kept hk fun _ h => State.padOpened_kept (State.padOpened_kept h)

theorem execTakeoverSwitchOpen_kept {ch : Nat} (hk : Kept ql flo rvk stg s) :
    OutcomeKept ql flo rvk stg (execTakeoverSwitchOpen ch s) := by
  change Kept ql flo rvk stg _
  split
  · exact hk
  · exact kept_ite (State.atDue_kept hk fun _ h => takeoverDone_kept h) hk

theorem execHandbackSwitchOpen_kept {ch : Nat} (hk : Kept ql flo rvk stg s) :
    OutcomeKept ql flo rvk stg (execHandbackSwitchOpen ch s) := by
  change Kept ql flo rvk stg _
  split
  · exact hk
  · exact kept_ite (State.atDue_kept hk fun _ h => State.handbackOpen_kept h) hk

/-! Waveforms. -/

theorem execEntryAdvance_kept {u : Nat} (hk : Kept ql flo rvk stg s) : OutcomeKept ql flo rvk stg (execEntryAdvance u s) := by
  refine kept_ite hk ?_
  split
  · exact State.atDue_kept hk fun _ h => wfsSettle_kept h
  · exact hk

theorem execAutoAdvance_kept {u : Nat} (hk : Kept ql flo rvk stg s) : OutcomeKept ql flo rvk stg (execAutoAdvance u s) := by
  refine kept_ite hk ?_
  dsimp only
  split
  · exact kept_ite (State.atDue_kept hk fun _ h => wfsAdvanceAt_kept h) (State.atDue_kept hk fun _ h => wfsSettle_kept h)
  · exact kept_ite (State.atDue_kept hk fun _ h => wfsAdvanceAt_kept h) hk

theorem execAwgMuteReclose_kept {u : Nat} (hk : Kept ql flo rvk stg s) : OutcomeKept ql flo rvk stg (execAwgMuteReclose u s) := by
  change Kept ql flo rvk stg _
  split
  · exact hk
  · exact State.atDue_kept hk fun _ h => awgReclose_kept h

/-! Acquisition. -/

theorem execSegmentComplete_kept {u : Nat} {samples : List Nat} (hk : Kept ql flo rvk stg s) :
    OutcomeKept ql flo rvk stg (execSegmentComplete u samples s) := by
  have h1 : Kept ql flo rvk stg (acqSettle u s) := acqSettle_kept hk
  refine kept_ite ?_ h1
  split
  · exact State.atDue_kept h1 fun _ h => segmentDone_kept h
  · exact h1

theorem execStreamOverrun_kept {u : Nat} (hk : Kept ql flo rvk stg s) : OutcomeKept ql flo rvk stg (execStreamOverrun u s) := by
  change Kept ql flo rvk stg _
  split
  · exact kept_ite
      (State.atDue_kept hk fun _ h => State.evt_kept (acqDone_kept (finishSegment_kept (State.segFlag_kept h)))) hk
  · exact hk

theorem execAcqRangingEnd_kept {u : Nat} (hk : Kept ql flo rvk stg s) : OutcomeKept ql flo rvk stg (execAcqRangingEnd u s) := by
  change Kept ql flo rvk stg _
  split
  · exact hk
  · exact State.atDue_kept hk fun _ h => State.setBit_kept (State.setAcq_kept (acqSettle_kept h))

/-! Time measurement. -/

theorem execCdDone_kept {ch : Nat} {hits : List Nat} (hk : Kept ql flo rvk stg s) :
    OutcomeKept ql flo rvk stg (execCdDone ch hits s) := by
  have h1 : Kept ql flo rvk stg (cdComplete ch hits s) := cdComplete_kept hk
  exact kept_ite hk (kept_ite (tdcSwapRequest_kept (kept_ite (calBegin_kept h1) h1)) h1)

theorem execCdTooFew_kept {ch : Nat} (hk : Kept ql flo rvk stg s) : OutcomeKept ql flo rvk stg (execCdTooFew ch s) := by
  change Kept ql flo rvk stg _
  split
  · exact hk
  · exact State.atDue_kept hk fun _ h => cdEnd_kept h

/-! Power slices and measurements. -/

theorem execAtLevel_kept {i : Nat} (hk : Kept ql flo rvk stg s) : OutcomeKept ql flo rvk stg (execAtLevel i s) := by
  refine kept_ite (State.atDue_kept hk fun t h => ?_) hk
  have h1 := State.settingEvent_kept (b := monOfSlice i) (State.evt_kept (a := DPS_EVT i) (b := 3) (State.setSliceState_kept (i := i) (v := 3) h))
  exact kept_ite h1 (State.setSliceState_kept (State.setSlice_kept h1))

theorem execMeasComplete_kept {b : Nat} {codes : List Nat} {clamp : Bool} (hk : Kept ql flo rvk stg s) :
    OutcomeKept ql flo rvk stg (execMeasComplete b codes clamp s) := by
  change Kept ql flo rvk stg _
  split
  · exact hk
  · dsimp only
    split
    · exact kept_ite hk (State.atDue_kept hk fun _ h => measDone_kept h)
    · exact hk

theorem execOutputStageLimit_kept {u : Nat} (hk : Kept ql flo rvk stg s) : OutcomeKept ql flo rvk stg (execOutputStageLimit u s) :=
  kept_ite hk (kept_ite (State.evt_kept (State.setBit_kept hk)) (State.setBit_kept hk))

/-! The convoy and the tolls. -/

theorem execPortUp_kept {x : PortSeen} (hk : Kept ql flo rvk stg s) : OutcomeKept ql flo rvk stg (execPortUp x s) :=
  kept_ite (portUpNow_kept (State.lanesSee_kept hk)) (portDownNow_kept (State.lanesSee_kept hk))

theorem execTollLockoutExpiry_kept {k : Nat} (hk : Kept ql flo rvk stg s) : OutcomeKept ql flo rvk stg (execTollLockoutExpiry k s) := by
  change Kept ql flo rvk stg _
  split
  · exact State.atDue_kept hk fun _ h => State.setToll_kept h
  · exact hk

/-! The rows that move the stage: the ticks, the starts and the resets, and what cuts the power (R15, R30, R427). -/

/-- The stage that a command keeps: the one named, or for a row that moves the stage none. -/
def stageKeptBy : Instr → Option StageOf → Option StageOf
  | .stageTick _, _ => none
  | .clockWrap _, _ => none
  | .timeStep, _ => none
  | .moduleStart _, _ => none
  | .resetAssert, _ => none
  | .powerLoss, _ => none
  | .hardTrip, _ => none
  | .trialFailed, _ => none
  | .trialReadyTimeout, _ => none
  | .controllerLoadTimeout _, _ => none
  | .yardFailure, _ => none
  | _, x => x

/-- Every command keeps the queue, the rollback floor, the revoked keys, the canonical form and, where it does not move it, the stage. -/
theorem exec_kept (c : Instr) (hk : Kept ql flo rvk stg s) : OutcomeKept ql flo rvk (stageKeptBy c stg) (exec c s) := by
  cases c with
  | stageTick => exact stageTick_kept hk.anyStage
  | clockWrap => exact kept_ite (stageTick_kept hk.anyStage) hk.anyStage
  | commitHoldSet => exact busWrite_kept (State.itemsDue_kept hk)
  | commitHoldRelease => exact busWrite_kept (State.itemsDue_kept hk)
  | commitHoldTimeout => exact holdTimeout_kept hk
  | workItemActs => exact nextItemActs_kept hk
  | registerWrite => exact busWrite_kept (State.itemsDue_kept hk)
  | counterReadClear => exact execCounterReadClear_kept hk
  | groupReadLatch => exact busRead_kept (State.itemsDue_kept hk)
  | ctimeLatch => exact busRead_kept (State.itemsDue_kept hk)
  | directWrite => exact execDirectWrite_kept hk
  | castLoad => exact ringCommand_kept hk (fun _ _ h => castNote_kept h) fun _ _ h => loadBegin_kept h
  | castLoadApply => exact castLoadApply_kept hk
  | storeDone => exact storeDone_kept hk
  | castRecast => exact ringCommand_kept hk (fun _ _ h => castNote_kept h) fun _ _ h => recastBegin_kept h
  | recastReady => exact recastReady_kept hk
  | castCancel => exact ringCommand_kept hk (fun _ _ h => h) fun _ _ h => castCancel_kept h
  | tilePresentRise => exact tileRise_kept hk
  | tileDebounceExpiry => exact tileDebounced_kept hk
  | tileHotJoin => exact tileJoin_kept hk
  | tileNoJoin => exact tileNoJoin_kept hk
  | tileDescriptorRead => exact tileRead_kept hk
  | tileRemoved => exact tileRemoved_kept hk
  | seqStart => exact State.whenReady_kept hk fun _ h => seqStart_kept h
  | seqStop => exact State.whenReady_kept hk fun _ h => seqStop_kept h
  | seqResume => exact State.whenReady_kept hk fun _ h => seqResume_kept h
  | seqRestartLoop => exact State.whenReady_kept hk fun _ h => seqRestart_kept h
  | ingotGenerate => exact ingotGenerate_kept hk
  | nextInstr => exact instrRow_kept hk
  | jump => exact instrRow_kept hk
  | branch => exact instrRow_kept hk
  | call => exact instrRow_kept hk
  | ret => exact instrRow_kept hk
  | loopSet => exact instrRow_kept hk
  | loopEnd => exact instrRow_kept hk
  | loopBreak => exact instrRow_kept hk
  | waypoint => exact instrRow_kept hk
  | halt => exact instrRow_kept hk
  | trigger => exact instrRow_kept hk
  | stallResume => exact tryResume_kept hk
  | prefetchArrival => exact prefetchArrival_kept hk
  | streamRowFetch => exact streamFetch_kept hk
  | seqTableEntryWrite => exact State.whenReady_kept hk fun _ h => tableWrite_kept h
  | seqTableSwap => exact State.whenReady_kept hk fun _ h => tableSwap_kept h
  | segLoad => exact ringCommand_kept hk (fun _ _ h => h) fun _ _ h => copyBegin_kept h
  | segLoadDone => exact segLoadDone_kept hk
  | cxlMemWrite => exact execCxlMemWrite_kept hk
  | cxlMemRead => exact execCxlMemRead_kept hk
  | soundGo => exact State.whenReady_kept hk fun _ h => soundGo_kept h
  | soundAbort => exact State.whenReady_kept hk fun _ h => soundAbort_kept h
  | soundDone => exact soundDone_kept hk
  | soundNoEcho => exact soundNoEcho_kept hk
  | pourLineCrossing => exact pourLine_kept hk
  | branchResolved => exact execBranchResolved_kept hk
  | waitTimeout => exact waitTimeout_kept hk
  | compareResult => exact compareResult_kept hk
  | logDrainWrite => exact logDrain_kept hk
  | memoryEventAnalysis => exact analyseEvent_kept hk
  | earlyAbort => exact leaveAtBoundary_kept hk
  | finalize => exact State.whenReady_kept hk fun _ h => siteFinalize_kept h
  | sessionClear => exact State.whenReady_kept hk fun _ h => siteClear_kept h
  | finalAnalysis => exact finalAnalysis_kept hk
  | asyResStatRead => exact State.readReady_kept hk fun _ h => kept_ite (readPort_kept (asyLatch_kept h)) h
  | asyResAdv => exact State.whenReady_kept hk fun _ h => asyAdv_kept h
  | pmuRangingEnd => exact execPmuRangingEnd_kept hk
  | padSwitchClosed => exact kept_ite (State.atDue_kept hk fun _ h => State.padClosed_kept h) hk
  | padSwitchOpen => exact execPadSwitchOpen_kept hk
  | takeoverSwitchOpen => exact execTakeoverSwitchOpen_kept hk
  | handbackSwitchOpen => exact execHandbackSwitchOpen_kept hk
  | waveLoad => exact ringCommand_kept hk (fun _ _ h => h) fun _ _ h => copyBegin_kept h
  | waveLoadDone => exact waveLoadDone_kept hk
  | wfsStart => exact State.whenReady_kept hk fun _ h => wfsStart_kept h
  | wfsStop => exact State.whenReady_kept hk fun _ h => wfsStop_kept h
  | wfsAdvance => exact State.whenReady_kept hk fun _ h => wfsAdvance_kept h
  | entryAdvance => exact execEntryAdvance_kept hk
  | autoAdvance => exact execAutoAdvance_kept hk
  | wfsTableWrite => exact State.whenReady_kept hk fun _ h => wfsTableWrite_kept h
  | awgMuteReclose => exact execAwgMuteReclose_kept hk
  | acqCtlArm => exact State.whenReady_kept hk fun _ h => acqArm_kept h
  | acqCtlStop => exact State.whenReady_kept hk fun _ h => acqStop_kept h
  | acqForce => exact State.whenReady_kept hk fun _ h => acqForce_kept h
  | acqTrigger => exact acqSample_kept hk
  | autoTrigger => exact kept_ite (State.atDue_kept (acqSettle_kept hk) fun _ h => acqRecognise_kept h) (acqSettle_kept hk)
  | segmentComplete => exact execSegmentComplete_kept hk
  | streamBlockWrite => exact streamBlock_kept hk
  | streamOverrun => exact execStreamOverrun_kept hk
  | acqOverrange => exact kept_ite (State.segFlag_kept (State.evt_kept (State.inc_kept (acqSettle_kept hk)))) (acqSettle_kept hk)
  | acqRangingEnd => exact execAcqRangingEnd_kept hk
  | acqResStatRead => exact State.readReady_kept hk fun _ h => kept_ite (readPort_kept (acqLatch_kept (acqSettle_kept h))) h
  | acqResAdv => exact State.whenReady_kept hk fun _ h => kept_ite (acqAdv_kept h) h
  | tdcCtlArm => exact State.whenReady_kept hk fun _ h => tdcArm_kept h
  | tdcCtlDisarm => exact State.whenReady_kept hk fun _ h => tdcDisarm_kept h
  | tdcEdge => exact kept_ite (tdcEdge_kept hk) (kept_ite (tdcSynth_kept hk) hk)
  | tdcTimeout => exact kept_ite (State.atDue_kept hk fun _ h => tdcExpire_kept h) hk
  | cdGo => exact State.whenReady_kept hk fun _ h => cdGo_kept h
  | cdAbort => exact State.whenReady_kept hk fun _ h => cdAbort_kept h
  | cdDone => exact execCdDone_kept hk
  | cdTooFew => exact execCdTooFew_kept hk
  | tdcTableWrite => exact State.whenReady_kept hk fun _ h => tdcTableWrite_kept h
  | tdcTswap => exact State.whenReady_kept hk fun _ h => tdcTswap_kept h
  | tdcResStatRead => exact State.readReady_kept hk fun _ h => readPort_kept (tdcLatch_kept (tdcSettle_kept h))
  | tdcResAdv => exact State.whenReady_kept hk fun _ h => State.advResult_kept h
  | dpsOn => exact State.whenReady_kept hk fun _ h => kept_ite (dpsCtlCommit_kept (State.setBit_kept h)) h
  | sliceDelayOnExpiry => exact kept_ite (State.rampTo_kept (State.setSliceState_kept (State.setSlice_kept hk))) hk
  | atLevel => exact execAtLevel_kept hk
  | sliceDelayOffExpiry => exact kept_ite (State.rampTo_kept (State.setSliceState_kept hk)) hk
  | offDone => exact kept_ite (State.atDue_kept hk fun _ h => State.evt_kept (State.sliceOff_kept (State.settingEvent_kept h))) hk
  | dischargeEnd => exact kept_ite (State.setSlice_kept hk) hk
  | pmuMeasGo => exact State.whenReady_kept hk fun _ h => measGo_kept h
  | measComplete => exact execMeasComplete_kept hk
  | pmuMeasStatRead => exact State.readReady_kept hk fun _ h => kept_ite h (readPort_kept (measLatch_kept h))
  | pmuMeasAdv => exact State.whenReady_kept hk fun _ h => kept_ite h (State.advResult_kept h)
  | dpsMeasGo => exact State.whenReady_kept hk fun _ h => measGo_kept h
  | monitorTrip => exact monitorTrip_kept hk
  | blankWindowClose => exact blankClose_kept hk
  | groupForce => exact State.whenReady_kept hk fun _ h => kept_ite (State.groupTrip_kept h) h
  | siteTripped => exact leaveAtBoundary_kept hk
  | groupClear => exact State.whenReady_kept hk fun _ h => groupClear_kept h
  | calReqGo => exact State.whenReady_kept hk fun _ h => calGo_kept (kept_upd h rfl rfl rfl rfl rfl rfl rfl)
  | calReqAbort => exact State.whenReady_kept hk fun _ h => calAbort_kept h
  | laneAdcCalDone => exact kept_ite (State.atDue_kept hk fun _ h => kept_upd h rfl rfl rfl rfl rfl rfl rfl) hk
  | calStepDone => exact calStepDone_kept hk
  | unitCalDone => exact unitCalDone_kept hk
  | calRelease => exact State.whenReady_kept hk fun _ h => calRelease_kept h
  | lvlTableWrite => exact State.whenReady_kept hk fun _ h => lvlTableWrite_kept h
  | lvlTswap => exact State.whenReady_kept hk fun _ h => lvlTswap_kept h
  | calStore => exact ringCommand_kept hk (fun _ _ h => h) fun _ _ h => calStoreBegin_kept h
  | subEnable => exact State.whenReady_kept hk fun _ h => kept_ite (subCommit_kept (State.forceBits_kept h)) h
  | subDisable => exact State.whenReady_kept hk fun _ h => kept_ite (subCommit_kept (State.forceBits_kept h)) h
  | spareCopyDone => exact spareCopyDone_kept hk
  | isoSet => exact State.whenReady_kept hk fun _ h => kept_ite h (isoSet_kept h)
  | selftestDone => exact selftestDone_kept hk
  | isoRelease => exact State.whenReady_kept hk fun _ h => kept_ite (isoRelease_kept h) h
  | droverReloadDone => exact droverReloaded_kept hk
  | castoutSet => exact State.whenReady_kept hk fun _ h => castOut_kept h
  | stackRestore => exact State.whenReady_kept hk fun _ h => stackRestore_kept h
  | stackSelftestDone => exact stackTested_kept hk
  | stackFault => exact kept_ite (State.evt_kept (State.setBit_kept hk)) hk
  | yardFailure => exact yardFails_kept hk.anyStage
  | yardRestarted => exact yardBack_kept hk
  | completionWrite => exact completionWrite_kept hk
  | irqModerationExpiry => exact irqExpiry_kept hk
  | ringReset => exact ringReset_kept hk
  | hostAttachmentReset => exact attachmentReset_kept hk
  | linkUp => exact linkUp_kept hk
  | unknownOpcode => exact unknownEntry_kept hk
  | siteEnable => exact profileCommand_kept hk
  | runStart => exact profileCommand_kept hk
  | runStop => exact profileCommand_kept hk
  | jumpRequest => exact profileCommand_kept hk
  | soundCmd => exact profileCommand_kept hk
  | runConfig => exact profileCommand_kept hk
  | pinLevels => exact profileCommand_kept hk
  | pinTiming => exact profileCommand_kept hk
  | pmuSet => exact profileCommand_kept hk
  | assayConfig => exact profileCommand_kept hk
  | assayFinalize => exact profileCommand_kept hk
  | assayClear => exact profileCommand_kept hk
  | abortPolicy => exact profileCommand_kept hk
  | waveStart => exact profileCommand_kept hk
  | waveStop => exact profileCommand_kept hk
  | awgSet => exact profileCommand_kept hk
  | acqArm => exact profileCommand_kept hk
  | acqStop => exact profileCommand_kept hk
  | acqSet => exact profileCommand_kept hk
  | tdcSet => exact profileCommand_kept hk
  | tdcArm => exact profileCommand_kept hk
  | tdcDisarm => exact profileCommand_kept hk
  | sliceSet => exact profileCommand_kept hk
  | pmuMeasure => exact profileCommand_kept hk
  | monitorSet => exact profileCommand_kept hk
  | tripClear => exact profileCommand_kept hk
  | calibrate => exact profileCommand_kept hk
  | calAbort => exact profileCommand_kept hk
  | spareSet => exact profileCommand_kept hk
  | clusterIsolate => exact profileCommand_kept hk
  | stackCastout => exact profileCommand_kept hk
  | portUp => exact execPortUp_kept hk
  | portDown => exact lanesFollow_kept (State.lanesSee_kept hk)
  | beaconFrame => exact State.onFrame_kept hk fun _ _ h => onBeacon_kept h
  | helloFrame => exact State.onFrame_kept hk fun _ _ h => State.acceptFrame_kept h fun _ g => onHello_kept g
  | triggerFrame => exact State.onFrame_kept hk fun _ _ h => State.acceptFrame_kept h fun _ g => onTrigger_kept g
  | rendezvousFrame => exact State.onFrame_kept hk fun _ _ h => State.acceptFrame_kept h fun _ g => onRendezvous_kept g
  | failFrame => exact State.onFrame_kept hk fun _ _ h => State.acceptFrame_kept h fun _ g => onFail_kept g
  | soundReq => exact State.onFrame_kept hk fun _ _ h => onSoundReq_kept h
  | soundEcho => exact State.onFrame_kept hk fun _ _ h => onSoundEcho_kept h
  | frameDiscard => exact State.frameBad_kept hk
  | convoyFormed => exact convoyFormed_kept hk
  | masterChange => exact masterChange_kept hk
  | positionFreed => exact positionFreed_kept hk
  | linkSounding => exact linkSounding_kept hk
  | timeStep => exact kept_ite (stageTick_kept (State.idlePowers_kept hk.anyStage)) hk.anyStage
  | remoteTriggerDelivery => exact triggerDelivery_kept hk
  | rendezvousRelease => exact rendezvousRelease_kept hk
  | rendezvousTimeout => exact rendezvousTimeout_kept hk
  | blockHop => exact blockHop_kept hk
  | refetchArrival => exact refetchArrival_kept hk
  | injectedDropDetect => exact dropFound_kept hk
  | chkArm => exact State.whenReady_kept hk fun _ h => chkArm_kept h
  | chkDisarm => exact State.whenReady_kept hk fun _ h => chkDisarm_kept h
  | chkFeed => exact State.whenReady_kept hk fun _ h => chkFeed_kept h
  | chkFeed8 => exact State.whenReady_kept hk fun _ h => chkFeed_kept h
  | chkResStatRead => exact State.readReady_kept hk fun _ h => kept_ite (readPort_kept (chkLatch_kept h)) h
  | chkResAdv => exact State.whenReady_kept hk fun _ h => kept_ite (State.advResult_kept h) h
  | tollLockoutExpiry => exact execTollLockoutExpiry_kept hk
  | regWriteT => exact ringCommand_kept hk (fun _ _ h => regWriteNote_kept h) fun _ _ h => regWriteBegin_kept h
  | ownerClaim => exact ownerCommand_kept hk
  | ownerRelease => exact ownerCommand_kept hk
  | keySet => exact ownerCommand_kept hk
  | keyErase => exact ownerCommand_kept hk
  | castKeySet => exact ownerCommand_kept hk
  | ownerPolicy => exact ownerCommand_kept hk
  | attest => exact ringCommand_kept hk (fun _ _ h => tollNote_kept h) fun _ _ h => attestRun_kept h
  | identityRead => exact ringCommand_kept hk (fun _ _ h => tollNote_kept h) fun _ _ h => identityRun_kept h
  | fwUpdate => exact ringCommand_kept hk (fun _ _ h => fwNote_kept h) fun _ _ h => fwBegin_kept h
  | fwHeaderChecked => exact fwHeaderChecked_kept hk
  | fwWriteDone => exact fwWriteDone_kept hk
  | fwActivate => exact ringCommand_kept hk (fun _ _ h => State.wrN_kept h) fun _ _ h => activateRun_kept h
  | fwConfirm => exact ringCommand_kept hk (fun _ _ h => State.wrN_kept h) fun _ _ h => State.complete_kept (State.wrN_kept (fwConfirmNow_kept h))
  | trialFailed => exact trialFails_kept hk.anyStage
  | trialReadyTimeout => exact trialReadyTimeout_kept hk.anyStage
  | controllerLoadTimeout => exact controllerTimeout_kept hk.anyStage
  | powerFailWarning => exact powerFail_kept hk
  | powerFailEnd => exact powerFailEnd_kept hk
  | moduleStart => exact moduleStart_kept hk.anyStage
  | resetAssert => exact resetAssert_kept hk.anyStage
  | moduleReady => exact moduleReady_kept hk
  | thermalSample => exact thermalSample_kept hk
  | thmResume => exact State.whenReady_kept hk fun _ h => kept_ite (State.arrive_kept h) h
  | hardTrip => exact hardTrip_kept hk.anyStage
  | nvPageDone => exact nvPageDone_kept hk
  | nvTransactionCommit => exact nvCommit_kept hk
  | contactEngagedAssert => exact contactOn_kept hk
  | contactEngagedDeassert => exact contactOff_kept hk
  | bypass => exact tapBypass_kept hk
  | samplePreload => exact tapSample_kept hk
  | extest => exact tapExtest_kept hk
  | idcode => exact tapIdcode_kept hk
  | powerLoss => exact powerLoss_kept hk.anyStage
  | castChecksComplete => exact castChecked_kept hk
  | preFilled => exact kept_ite (State.atDue_kept (acqSettle_kept hk) fun _ h => acqSettle_kept h) (acqSettle_kept hk)
  | vsetRampEnd => exact kept_ite (State.atDue_kept hk fun _ h => State.settingEvent_kept (State.setSlice_kept h)) hk
  | monitorInside => exact monitorInsideAt_kept hk
  | blankedOutside => exact blankedOutsideAt_kept hk
  | currentLimitEngaged => exact kept_ite (State.clampFollow_kept (State.setSlice_kept hk)) hk
  | sampleSaturated => exact kept_ite (State.evt_kept (State.inc_kept hk)) hk
  | outputStageLimit => exact execOutputStageLimit_kept hk
  | tdcTdataRead => exact State.readReady_kept hk fun _ h => kept_ite h (readPort_kept (tdcTableRead_kept h))
  | lvlTdataRead => exact State.readReady_kept hk fun _ h => kept_ite h (readPort_kept (lvlTableRead_kept h))

/-- A command that is no row of those that move the stage keeps the stage named. -/
theorem stageKeptBy_eq {c : Instr} {x : Option StageOf} (hTick : ∀ p, c ≠ .stageTick p) (hWrap : ∀ p, c ≠ .clockWrap p)
    (hStep : c ≠ .timeStep) (hStart : ∀ h, c ≠ .moduleStart h) (hReset : c ≠ .resetAssert) (hLoss : c ≠ .powerLoss)
    (hTrip : c ≠ .hardTrip) (hFailed : c ≠ .trialFailed) (hTrial : c ≠ .trialReadyTimeout)
    (hLoad : ∀ k, c ≠ .controllerLoadTimeout k) (hYard : c ≠ .yardFailure) : stageKeptBy c x = x := by
  unfold stageKeptBy
  split
  · exact absurd rfl (hTick _)
  · exact absurd rfl (hWrap _)
  · exact absurd rfl hStep
  · exact absurd rfl (hStart _)
  · exact absurd rfl hReset
  · exact absurd rfl hLoss
  · exact absurd rfl hTrip
  · exact absurd rfl hFailed
  · exact absurd rfl hTrial
  · exact absurd rfl (hLoad _)
  · exact absurd rfl hYard
  · rfl

end Sys2Proof.Machine
end


section
/-!
PROOFS. The stage (R15, R16, R30): which commands move the stage counter, and what a tick does to it.
-/

namespace Sys2Proof.Machine

variable {ql : List Instr} {flo rvk : Nat} {stg : Option StageOf} {s : State}

/-! Time. -/

/-- `n` clocks pass. -/
@[simp] theorem State.advance_time (s : State) (n : Nat) :
    (s.advance n).time = { s.time with clock := s.time.clock + BitVec.ofNat 48 n, up := s.time.up + n } := by
  unfold State.advance
  split
  · next h => subst h; simp
  · rfl

/-- The clock of the next tick has come and the stage counter has counted; a pending step is not yet taken. -/
def stageCounted (s : State) : State :=
  { s.advance s.toTick with time := { (s.advance s.toTick).time with
      stage := (s.advance s.toTick).time.stage + 1
      began := (s.advance s.toTick).time.clock
      stepped := false
      epoch := if s.time.clock.toNat + s.toTick = clockSpan then (s.advance s.toTick).time.epoch + 1 else (s.advance s.toTick).time.epoch } }

theorem stageBegins_eq (s : State) :
    stageBegins s = if (stageCounted s).stepsNow then timeStepped (stageCounted s) else stageCounted s := rfl

theorem stageCounted_time (s : State) : (stageCounted s).time =
    { clock := s.time.clock + BitVec.ofNat 48 s.toTick
      epoch := if s.time.clock.toNat + s.toTick = clockSpan then s.time.epoch + 1 else s.time.epoch
      stage := s.time.stage + 1
      up := s.time.up + s.toTick
      began := s.time.clock + BitVec.ofNat 48 s.toTick
      stepped := false } := by
  simp [stageCounted]

/-- A step of time leaves the stage counter alone: it moves the clock and the epoch (R365). -/
@[simp] theorem timeStepped_stage (s : State) : (timeStepped s).time.stage = s.time.stage := by
  unfold timeStepped
  split
  · rfl
  · simp [State.convoyLog, State.setFld]

/-- The clock of a tick counts one stage, whether a step of time is taken at it or not (R15, R365). -/
@[simp] theorem stageBegins_stage (s : State) : (stageBegins s).time.stage = s.time.stage + 1 := by
  rw [stageBegins_eq]
  split <;> simp [stageCounted_time]

/-! The tick. -/

/-- While the module is off or hard tripped there is no tick. -/
theorem stageTick_stopped {powers : List (Nat × Nat)} (h : s.start.phase = 0 ∨ s.start.phase = 4) : stageTick powers s = s := if_pos h

/-- Thermal management and the commit hold are none of the parts that `Kept` speaks of. -/
theorem therm_kept {x : Thermal} (hk : Kept ql flo rvk stg s) : Kept ql flo rvk stg { s with therm := x } :=
  kept_upd hk rfl rfl rfl rfl rfl rfl rfl

theorem hold_kept {x : Hold} (hk : Kept ql flo rvk stg s) : Kept ql flo rvk stg { s with hold := x } :=
  kept_upd hk rfl rfl rfl rfl rfl rfl rfl

/-- What a tick does once the stage has begun keeps the stage and all else that `Kept` speaks of. -/
theorem stageTick_keptBegun {powers : List (Nat × Nat)} (h : ¬ (s.start.phase = 0 ∨ s.start.phase = 4))
    (hk : Kept ql flo rvk stg (stageBegins (stageEnds s))) : Kept ql flo rvk stg (stageTick powers s) := by
  unfold stageTick
  rw [if_neg h]
  extract_lets s1 therm s2 held s3 s4 s5 s6 s7 s8
  have h1 : Kept ql flo rvk stg s1 := enginesSettle_kept hk
  have h2 : Kept ql flo rvk stg s2 := State.tilesFound_kept (therm_kept h1)
  have h3 : Kept ql flo rvk stg s3 := hold_kept h2
  have h4 : Kept ql flo rvk stg s4 := kept_ite (State.keepShadows_kept h3) (State.copyShadows_kept h3)
  have h5 : Kept ql flo rvk stg s5 := settingsAct_kept (State.admitPending_kept (dutiesMove_kept h4))
  have h6 : Kept ql flo rvk stg s6 := itemTicks_kept (outputsFollow_kept (powerTick_kept h5))
  have h7 : Kept ql flo rvk stg s7 := State.allWaits_kept (State.autoSound_kept (castLoadApply_kept h6))
  have h8 : Kept ql flo rvk stg s8 := kept_ite (tolledWait_kept h7) (tolledDone_kept h7)
  exact convoyTick_kept (State.fwWatch_kept (State.profilesDone_kept h8))

/-- A tick counts one stage (R15). -/
theorem stageTick_stage {powers : List (Nat × Nat)} (hc : s.Canonical) (h : ¬ (s.start.phase = 0 ∨ s.start.phase = 4)) :
    (stageTick powers s).time.stage = s.time.stage + 1 := by
  have hEnds : (stageEnds s).time.stageOf = s.time.stageOf := (stageEnds_kept (Kept.self hc)).stage _ rfl
  have hBegun : (stageBegins (stageEnds s)).Canonical := (stageBegins_kept (stageEnds_kept (Kept.self hc).anyStage)).canonical
  have hTick : (stageTick powers s).time.stageOf = (stageBegins (stageEnds s)).time.stageOf :=
    (stageTick_keptBegun h (Kept.self hBegun)).stage _ rfl
  calc (stageTick powers s).time.stage
      = (stageBegins (stageEnds s)).time.stage := congrArg Prod.fst hTick
    _ = (stageEnds s).time.stage + 1 := stageBegins_stage _
    _ = s.time.stage + 1 := by rw [show (stageEnds s).time.stage = s.time.stage from congrArg Prod.fst hEnds]

/-- A tick of a running module leaves the queue and the canonical form and counts one stage. -/
theorem stageTick_counts {powers : List (Nat × Nat)} (hc : s.Canonical) (h : ¬ (s.start.phase = 0 ∨ s.start.phase = 4)) :
    (stageTick powers s).time.stage = s.time.stage + 1 ∧ (stageTick powers s).pending = s.pending ∧ (stageTick powers s).Canonical := by
  have hk := stageTick_kept (powers := powers) (Kept.self hc).anyStage
  exact ⟨stageTick_stage hc h, hk.pending, hk.canonical⟩

/-- Taking up the free powers of an idle tick uses up free values alone (R278). -/
theorem State.idlePowers_start (s : State) : s.idlePowers.2.start = s.start := by
  unfold State.idlePowers
  generalize s.casting.powers.filter _ = l
  suffices ∀ p : List (Nat × Nat) × State,
      (l.foldl (fun r p => (r.1 ++ [(p.slice, (r.2.free).1)], (r.2.free).2)) p).2.start = p.2.start from this _
  induction l with
  | nil => exact fun _ => rfl
  | cons x l ih => exact fun _ => ih _

end Sys2Proof.Machine

open Sys2Proof Sys2Proof.Machine

/-- Settles O7: everything a tick does after the clock of the tick keeps the stage, and that clock counts one. -/
theorem stageTickCounts : Obligations.StageTickCounts := by
  unfold Obligations.StageTickCounts
  refine ⟨fun powers s hc h0 h4 => ?_, fun powers s => ⟨fun h => ?_, fun h => ?_, fun h => ?_⟩⟩
  · have hRuns : ¬ (s.start.phase = 0 ∨ s.start.phase = 4) := not_or.2 ⟨h0, h4⟩
    refine ⟨⟨_, rfl, stageTick_counts hc hRuns⟩, fun hw => ⟨_, rfl, ?_⟩, fun hs => ⟨_, rfl, ?_⟩⟩
    · rw [if_pos hw]
      exact stageTick_counts hc hRuns
    · rw [if_pos hs]
      have hk := State.idlePowers_kept (Kept.self hc)
      obtain ⟨hStage, hPending, hCanonical⟩ := stageTick_counts (powers := s.idlePowers.1) hk.canonical
        (by rw [State.idlePowers_start]; exact hRuns)
      have hSame : s.idlePowers.2.time.stage = s.time.stage := congrArg Prod.fst (hk.stage _ rfl)
      exact ⟨by rw [hStage, hSame], hPending.trans hk.pending, hCanonical⟩
  · exact congrArg Host.Outcome.next (stageTick_stopped h)
  · exact congrArg Host.Outcome.next (if_neg (by simp [h]))
  · exact congrArg Host.Outcome.next (if_neg (by simp [h]))

/-- Settles O9: a command that is no row of those that move the stage keeps it. -/
theorem stageCounterMovesOnlyAtTicks : Obligations.StageCounterMovesOnlyAtTicks := by
  unfold Obligations.StageCounterMovesOnlyAtTicks
  intro c s t hc ht hTick hWrap hStep hStart hReset hLoss hTrip hFailed hTrial hLoad hYard
  have hk := (exec_kept c (Kept.self hc)).next ht
  rw [stageKeptBy_eq hTick hWrap hStep hStart hReset hLoss hTrip hFailed hTrial hLoad hYard] at hk
  exact hk.stage _ rfl

end

section
/-!
PROOFS. The clock of a tick and the copy of the shadows (R15, R18, R30), and the clock that passes where no command waits (R15, R27).
-/

namespace Sys2Proof.Machine

variable {s : State}

/-! The clock of the next tick. -/

/-- The next tick comes at the next multiple of 3,072 or at the wrap, whichever is first (R15). -/
theorem State.toTick_eq (s : State) :
    s.toTick = min (3072 - s.time.clock.toNat % 3072) (281474976710656 - s.time.clock.toNat) := rfl

theorem State.toTick_pos (s : State) : 0 < s.toTick := by
  have := s.time.clock.isLt
  rw [State.toTick_eq]
  omega

/-- The tick lies at a multiple of 3,072 or at the wrap. -/
theorem State.toTick_reaches (s : State) :
    (s.time.clock.toNat + s.toTick) % 3072 = 0 ∧ s.time.clock.toNat + s.toTick ≤ clockSpan ∨ s.time.clock.toNat + s.toTick = clockSpan := by
  have := s.time.clock.isLt
  rw [State.toTick_eq, show clockSpan = 281474976710656 from rfl]
  omega

/-- No clock before the tick is one. -/
theorem State.toTick_first (s : State) {n : Nat} (hp : 0 < n) (hn : n < s.toTick) :
    (s.time.clock.toNat + n) % 3072 ≠ 0 ∧ s.time.clock.toNat + n < 2 ^ 48 := by
  rw [State.toTick_eq] at hn
  omega

/-- The clock of the tick as a number: it wraps to 0. -/
theorem State.toTick_clock (s : State) :
    (s.time.clock + BitVec.ofNat 48 s.toTick).toNat = if s.time.clock.toNat + s.toTick = clockSpan then 0 else s.time.clock.toNat + s.toTick := by
  have hc := s.time.clock.isLt
  rw [BitVec.toNat_add, BitVec.toNat_ofNat, State.toTick_eq, show clockSpan = 281474976710656 from rfl]
  split <;> omega

theorem State.toTick_clock_multiple (s : State) : (s.time.clock + BitVec.ofNat 48 s.toTick).toNat % 3072 = 0 := by
  rw [State.toTick_clock]
  split
  · rfl
  · next h => exact (s.toTick_reaches.resolve_right h).1

/-- The clock of the tick is 0 at the wrap alone. -/
theorem State.toTick_wraps (s : State) : s.time.clock + BitVec.ofNat 48 s.toTick = 0#48 ↔ s.time.clock.toNat + s.toTick = clockSpan := by
  rw [← BitVec.toNat_inj, State.toTick_clock]
  have := s.toTick_pos
  split
  · next h => simp [h]
  · next h => simp [h]; omega

/-- With no step of time pending a stage begins at the clock of the tick. -/
theorem stageBegins_noStep (h : s.cvy.step = none) : stageBegins s = stageCounted s := by
  have hStep : (stageCounted s).cvy.step = none := by
    unfold stageCounted State.advance
    split <;> exact h
  rw [stageBegins_eq, if_neg (by simp [State.stepsNow, hStep])]

/-! The copy of the shadows. -/

/-- The value in force of the register at `a` once the write `w` has reached its RW and RWT fields. -/
def copiedWord (a : Nat) (old w : Word) : Word := (old &&& ~~~(maskAt .rw a ||| maskAt .rwt a)) ||| (w &&& (maskAt .rw a ||| maskAt .rwt a))

theorem rd_copyShadow (s : State) (b : Nat) (x : Option Word) (a : Nat) :
    (copyShadow s (b, x)).rd a = if a = b then x.elim (s.rd a) (copiedWord a (s.rd a)) else s.rd a := by
  cases x with
  | none => simp [copyShadow]
  | some w =>
    by_cases h : a = b
    · subst h; simp [copyShadow, copiedWord]
    · simp [copyShadow, State.rd_wr_ne, h]

/-- A copy changes registers in force alone. -/
theorem foldl_copyShadow_regs (l : Tab (Option Word)) (s : State) : ∃ m, l.foldl copyShadow s = { s with regs := m } := by
  induction l generalizing s with
  | nil => exact ⟨s.regs, rfl⟩
  | cons e l ih =>
    obtain ⟨b, x⟩ := e
    cases x with
    | none => exact ih s
    | some w => exact ih (s.wr b (copiedWord b (s.rd b) w))

theorem rd_foldl_copyShadow {l : Tab (Option Word)} (hl : tabWf (fun _ => none) l = true) (s : State) (a : Nat) :
    (l.foldl copyShadow s).rd a = (tabGet (fun _ => none) l a).elim (s.rd a) (copiedWord a (s.rd a)) := by
  induction l generalizing s with
  | nil => rfl
  | cons e l ih =>
    obtain ⟨b, x⟩ := e
    rw [List.foldl_cons, ih (tabWf_cons.1 hl).2.2, rd_copyShadow]
    by_cases h : a = b
    · subst h
      simp [tabGet, tabLookup, tabWf_head_lt hl (Nat.le_refl a)]
    · simp [tabGet, tabLookup, h]

theorem State.rd_copyShadows (h : tabWf (fun _ => none) s.shadow = true) (a : Nat) :
    s.copyShadows.rd a = (tabGet (fun _ => none) s.shadow a).elim (s.rd a) (copiedWord a (s.rd a)) := by
  rw [← rd_foldl_copyShadow h]
  rfl

/-- A copy leaves memory and non-volatile memory, and the writes of the commit cut become those of the stage that begins (R17). -/
theorem State.copyShadows_eq (s : State) : ∃ m, s.copyShadows = { s with regs := m, shadow := s.shadowNext, shadowNext := [] } := by
  obtain ⟨m, hm⟩ := foldl_copyShadow_regs s.shadow s
  exact ⟨m, by rw [State.copyShadows, hm]⟩

/-! A clock without a command. -/

/-- In a running module the clock that passes is the tick or an inner clock of the stage. -/
theorem idleClock_running (h : ¬ (s.start.phase = 0 ∨ s.start.phase = 4)) :
    idleClock s = if s.toTick = 1 then stageTick s.idlePowers.1 s.idlePowers.2 else s.advance 1 := if_neg h

end Sys2Proof.Machine

open Sys2Proof Sys2Proof.Machine

/-- Settles O8: the clock of the tick by arithmetic, the copy by induction on the table of shadows. -/
theorem ticksBeginStagesAndCopyShadows : Obligations.TicksBeginStagesAndCopyShadows := by
  unfold Obligations.TicksBeginStagesAndCopyShadows
  refine ⟨fun s hStep => ?_, fun s hWf => ?_⟩
  · rw [stageBegins_noStep hStep, stageCounted_time]
    exact ⟨rfl, s.toTick_clock_multiple, fun n => s.toTick_first, rfl, rfl, if_congr s.toTick_wraps.symm rfl rfl⟩
  · obtain ⟨m, hm⟩ := s.copyShadows_eq
    refine ⟨fun a w hw => ?_, fun a hw => ?_, by rw [hm], by rw [hm], fun x => by rw [hm]; rfl, by rw [hm]⟩
    · rw [State.rd_copyShadows hWf, hw]
      rfl
    · rw [State.rd_copyShadows hWf, hw]
      rfl

/-- Settles O13: an idle step is one clock, or the tick where the next clock is one. -/
theorem idleStepIsOneClock : Obligations.IdleStepIsOneClock := by
  unfold Obligations.IdleStepIsOneClock
  intro s hEmpty
  have hStep : step s = .next (idleClock s) := by
    unfold step
    rw [hEmpty]
  rw [hStep]
  refine ⟨fun h => ?_, fun h0 h4 hTick => ⟨_, rfl, ?_⟩, fun h0 h4 hTick => ?_⟩
  · exact congrArg Host.Outcome.next (if_pos h)
  · rw [idleClock_running (not_or.2 ⟨h0, h4⟩), if_neg hTick, State.advance_time]
    exact ⟨rfl, rfl, Frame.refl.advance⟩
  · rw [idleClock_running (not_or.2 ⟨h0, h4⟩), if_pos hTick]
    rfl

end

section
/-!
PROOFS. The host's accesses to registers of 16 bits (R441 to R450): the rule for each kind of register, the write of a shadow, the commit
hold (R22, R23) and the latch of convoy time (R29, R448).
-/

namespace Sys2Proof.Machine

variable {s : State}

/-! Accesses. -/

/-- A 16-bit write below the shadow view at an even offset is one write. -/
theorem busWrite_two {a : Nat} (v : Nat) (s : State) (hEven : a % 2 = 0) (hLow : a < viewStart) :
    busWrite a 2 v s = writeWord a (BitVec.ofNat 16 v) s := by
  have : ¬ viewStart ≤ a := by omega
  simp [busWrite, accessCause, hEven, this]

/-- A 16-bit read at an even offset is one read. -/
theorem busRead_two {a : Nat} (s : State) (hEven : a % 2 = 0) :
    busRead a 2 s = { (readWord a s).2 with read := ⟨(readWord a s).1, [], false⟩ } := by
  simp [busRead, accessCause, hEven, readWords]

/-- A 32-bit read at a multiple of 4 is two reads in ascending order. -/
theorem busRead_four {a : Nat} (s : State) (hAligned : a % 4 = 0) :
    busRead a 4 s = { (readWord (a + 2) (readWord a s).2).2 with
      read := ⟨(readWord a s).1 + 65536 * (readWord (a + 2) (readWord a s).2).1, [], false⟩ } := by
  simp [busRead, accessCause, hAligned, readWords]

/-- Once READY is 1 every block answers (R347). -/
theorem State.answers_ready (h : s.bit SYS_STAT 15 = true) (a : Nat) : s.answers a = true := by simp [State.answers, h]

/-- The SYS block answers before READY too. -/
theorem State.answers_sys (s : State) {a : Nat} (h : a < 0x1000) : s.answers a = true := by
  simp [State.answers, Nat.div_eq_of_lt h]

/-- An offset below the windows lies in none of them. -/
theorem inWindow_below {base count stride a : Nat} (h : a < base) : inWindow base count stride a = none := if_neg (by omega)

/-! Writes (R444 to R446). -/

/-- A write to a shadowed register without RWT and W1C fields goes to its shadow. -/
theorem writeWord_shadowed {a i : Nat} {r : RegDesc} (v : Word) (hReg : regAt a = some (r, i)) (hAns : s.answers a = true)
    (hShadowed : r.shadowed = true) (hRwt : accMask .rwt r = 0#16) (hW1c : accMask .w1c r = 0#16) (hRel : a ≠ CAL_RELEASE) :
    writeWord a v s = s.shadowWrite a (accMask .rw r) (accMask .wo r) v := by
  simp [writeWord, hReg, hAns, hShadowed, hRwt, hW1c, hRel]

/-- The register SYS_CTL: the one immediate field COMMIT_HOLD. -/
theorem regAt_SYS_CTL : regAt SYS_CTL = some (⟨0x010, 1, 2, false, 0, 0, [⟨0, 0, .rw, 0⟩]⟩, 0) := by decide

/-- A write of SYS_CTL is a write of the commit hold (R22). -/
theorem writeWord_SYS_CTL (v : Word) (s : State) : writeWord SYS_CTL v s = holdWrite (v.getLsbD 0) s := by
  simp [writeWord, regAt_SYS_CTL, State.answers_sys s (show SYS_CTL < 0x1000 by decide), accMask, State.immediateWrite, actsOnly, actAt]

/-! The write of a shadow (R17, R18, R21). -/

/-- The word that a shadow holds after a write of `v`. -/
def State.shadowWritten (s : State) (a : Nat) (mask pulses v : Word) : Word :=
  let m := mask &&& ~~~tabGet (fun _ => 0) s.claimed a
  ((s.shadowBase a pulses &&& ~~~m) ||| (v &&& m)) ||| (v &&& pulses)

/-- In the commit cut a write waits for the tick that ends the next stage (R17). -/
theorem State.shadowWrite_inCut {a : Nat} {mask pulses v : Word} (h : s.toTick ≤ 16) : s.shadowWrite a mask pulses v =
    { s with shadowNext := tabSet (fun _ => none) s.shadowNext a (some (s.shadowWritten a mask pulses v)) } :=
  if_pos (decide_eq_true h)

/-- Before it a write waits for the tick that ends the stage under way. -/
theorem State.shadowWrite_inStage {a : Nat} {mask pulses v : Word} (h : ¬ s.toTick ≤ 16) : s.shadowWrite a mask pulses v =
    { s with shadow := tabSet (fun _ => none) s.shadow a (some (s.shadowWritten a mask pulses v)) } :=
  if_neg (by simpa [State.inCut] using h)

theorem State.getLsbD_shadowWritten (s : State) (a : Nat) (mask pulses v : Word) {k : Nat} (hk : k < 16) :
    (s.shadowWritten a mask pulses v).getLsbD k =
      (((s.shadowBase a pulses).getLsbD k && !(mask.getLsbD k && !(tabGet (fun _ => 0#16) s.claimed a).getLsbD k)) ||
        (v.getLsbD k && (mask.getLsbD k && !(tabGet (fun _ => 0#16) s.claimed a).getLsbD k)) || (v.getLsbD k && pulses.getLsbD k)) := by
  simp [State.shadowWritten, hk]

/-- A bit that no profile command wrote in the clock takes the value of the write. -/
theorem State.shadowWritten_free {a k : Nat} {mask pulses v : Word} (hMask : mask.getLsbD k = true) (hPulse : pulses.getLsbD k = false)
    (hFree : (tabGet (fun _ => 0#16) s.claimed a).getLsbD k = false) : (s.shadowWritten a mask pulses v).getLsbD k = v.getLsbD k := by
  rw [State.getLsbD_shadowWritten _ _ _ _ _ (BitVec.lt_of_getLsbD hMask), hMask, hPulse, hFree]
  simp

/-- A bit that a profile command wrote in the clock keeps what the shadow held. -/
theorem State.shadowWritten_claimed {a k : Nat} {mask pulses v : Word} (hMask : mask.getLsbD k = true) (hPulse : pulses.getLsbD k = false)
    (hClaimed : (tabGet (fun _ => 0#16) s.claimed a).getLsbD k = true) :
    (s.shadowWritten a mask pulses v).getLsbD k = (s.shadowBase a pulses).getLsbD k := by
  rw [State.getLsbD_shadowWritten _ _ _ _ _ (BitVec.lt_of_getLsbD hMask), hMask, hPulse, hClaimed]
  simp

/-- A pulse written 1 is pending. -/
theorem State.shadowWritten_pulse {a k : Nat} {mask pulses v : Word} (hPulse : pulses.getLsbD k = true) (hv : v.getLsbD k = true) :
    (s.shadowWritten a mask pulses v).getLsbD k = true := by
  rw [State.getLsbD_shadowWritten _ _ _ _ _ (BitVec.lt_of_getLsbD hPulse), hPulse, hv]
  simp

/-- With no write in the commit cut, and outside it, a write starts from the shadow of the stage under way, or else from what is in force. -/
theorem State.shadowBase_inStage {a : Nat} {pulses : Word} (h : ¬ s.toTick ≤ 16) (hNone : tabGet (fun _ => none) s.shadowNext a = none) :
    s.shadowBase a pulses = (tabGet (fun _ => none) s.shadow a).getD (s.rd a) := by
  simp [State.shadowBase, hNone, State.inCut, h]

/-- A write of a shadow changes no register in force, no other register's shadow, no memory and nothing non-volatile. -/
theorem State.shadowWrite_frame (s : State) (a : Nat) (mask pulses v : Word) :
    (∀ b, (s.shadowWrite a mask pulses v).rd b = s.rd b) ∧
    (∀ b, b ≠ a → tabGet (fun _ => none) (s.shadowWrite a mask pulses v).shadow b = tabGet (fun _ => none) s.shadow b ∧
      tabGet (fun _ => none) (s.shadowWrite a mask pulses v).shadowNext b = tabGet (fun _ => none) s.shadowNext b) ∧
    (∀ x, (s.shadowWrite a mask pulses v).memByte x = s.memByte x) ∧ (∀ x, (s.shadowWrite a mask pulses v).hostByte x = s.hostByte x) ∧
    (s.shadowWrite a mask pulses v).nv = s.nv := by
  by_cases h : s.toTick ≤ 16
  · rw [State.shadowWrite_inCut h]
    exact ⟨fun _ => rfl, fun b hb => ⟨rfl, by simp [tabGet_set_ne hb]⟩, fun _ => rfl, fun _ => rfl, rfl⟩
  · rw [State.shadowWrite_inStage h]
    exact ⟨fun _ => rfl, fun b hb => ⟨by simp [tabGet_set_ne hb], rfl⟩, fun _ => rfl, fun _ => rfl, rfl⟩

/-! Reads (R448, R450). -/

/-- A read of the shadow view of a shadowed register shows its shadow and changes nothing. -/
theorem readWord_view {a : Nat} (hLow : a < 0x07FF0000) (hAns : s.answers a = true) (hShadowed : isShadowed a = true) :
    readWord (0x08000000 + a) s = ((s.shadowOf a).toNat, s) := by
  have hMsix : ¬ msixStart ≤ 0x08000000 + a := by unfold msixStart; omega
  have hView : viewStart ≤ 0x08000000 + a := by unfold viewStart; omega
  have hSub : 0x08000000 + a - viewStart = a := by unfold viewStart; omega
  unfold readWord
  rw [if_neg hMsix, if_pos hView]
  simp [hSub, hAns, hShadowed]

/-- No result queue, engine or table index stands in the SYS block. -/
theorem latchAt_sys {a : Nat} (h : a < 0x1000) : latchAt a s = s := by
  have hOut : ∀ base count stride, 0x1000 ≤ base → inWindow base count stride a = none := fun base _ _ hb => inWindow_below (by omega)
  simp [latchAt, settleAt, hOut]

theorem tableReadAt_sys {a : Nat} (h : a < 0x1000) : tableReadAt a s = none := by
  rw [tableReadAt, inWindow_below (by omega)]

/-- A read of a register of the SYS block that has no counter and no pulse shows it and latches its group. -/
theorem readWord_sys {a i : Nat} {r : RegDesc} (h : a < 0x1000) (hReg : regAt a = some (r, i)) (hRc : accMask .rc r = 0#16)
    (hWo : accMask .wo r = 0#16) : readWord a s = (((s.latchGroup a).shown a).toNat, s.latchGroup a) := by
  have hMsix : ¬ msixStart ≤ a := by unfold msixStart; omega
  have hView : ¬ viewStart ≤ a := by unfold viewStart; omega
  unfold readWord
  rw [if_neg hMsix, if_neg hView, hReg]
  simp only [State.answers_sys s h, tableReadAt_sys h, latchAt_sys h, hRc, hWo, BitVec.not_zero, BitVec.and_allOnes, Bool.not_true,
    Bool.false_eq_true, if_false]
  exact if_pos rfl

/-! Convoy time (R29). -/

theorem regAt_SYS_CTIME {k : Nat} (h : k < 4) : regAt (SYS_CTIME + 2 * k) = some (⟨0x020, 4, 2, false, 4, 0, [⟨15, 0, .ro, 0⟩]⟩, k) := by
  revert k
  decide

theorem regAt_SYS_CTIME_EPOCH : regAt SYS_CTIME_EPOCH = some (⟨0x028, 1, 2, false, 0, 0, [⟨15, 0, .ro, 0⟩]⟩, 0) := by decide

theorem State.live_ctime (s : State) {k : Nat} (h : k < 4) : s.live (SYS_CTIME + 2 * k) = wordAt s.convoyTime k := by
  have h1 : ¬ (SYS_STAGE ≤ SYS_CTIME + 2 * k ∧ SYS_CTIME + 2 * k < SYS_STAGE + 4) := by unfold SYS_STAGE SYS_CTIME; omega
  have h2 : SYS_CTIME ≤ SYS_CTIME + 2 * k ∧ SYS_CTIME + 2 * k < SYS_CTIME + 8 := by omega
  have h3 : (SYS_CTIME + 2 * k - SYS_CTIME) / 2 = k := by omega
  rw [State.live, if_neg h1, if_pos h2, h3]

/-- The latch that a read of SYS_CTIME0 leaves: the other registers of the group and the epoch. -/
def State.ctimeLatched (s : State) : Tab (Option Word) :=
  [(SYS_CTIME, none), (SYS_CTIME + 2, some (wordAt s.convoyTime 1)), (SYS_CTIME + 4, some (wordAt s.convoyTime 2)),
    (SYS_CTIME + 6, some (wordAt s.convoyTime 3)), (SYS_CTIME_EPOCH, some s.time.epoch)].foldl
    (fun t x => tabSet (fun _ => none) t x.1 x.2) s.latch

theorem groupOf_SYS_CTIME {k : Nat} (h : k < 4) : groupOf (SYS_CTIME + 2 * k) = some (SYS_CTIME, 4) := by
  revert k
  decide

theorem State.latchGroup_ctime (s : State) : s.latchGroup SYS_CTIME = { s with latch := s.ctimeLatched } := by
  rw [State.latchGroup, show groupOf SYS_CTIME = some (SYS_CTIME, 4) from groupOf_SYS_CTIME (k := 0) (by decide)]
  rfl

/-- A read of another register of the group latches nothing. -/
theorem State.latchGroup_ctime_other (s : State) {k : Nat} (h : k < 4) (h0 : k ≠ 0) : s.latchGroup (SYS_CTIME + 2 * k) = s := by
  rw [State.latchGroup, groupOf_SYS_CTIME h]
  exact if_pos (by omega)

theorem State.latchGroup_epoch (s : State) : s.latchGroup SYS_CTIME_EPOCH = s := rfl

theorem State.ctimeLatched_zero (s : State) : tabGet (fun _ => none) s.ctimeLatched SYS_CTIME = none := by
  simp [State.ctimeLatched, tabGet_set_ne, SYS_CTIME, SYS_CTIME_EPOCH]

/-- With that latch the other registers of the group and the epoch show the instant of the read. -/
theorem State.latch_of_ctimeLatched {t : State} (h : t.latch = s.ctimeLatched) :
    (∀ k ∈ [1, 2, 3], tabGet (fun _ => none) t.latch (SYS_CTIME + 2 * k) = some (wordAt s.convoyTime k)) ∧
      tabGet (fun _ => none) t.latch SYS_CTIME_EPOCH = some s.time.epoch := by
  rw [h]
  refine ⟨fun k hk => ?_, by simp [State.ctimeLatched]⟩
  fin_cases hk <;> simp [State.ctimeLatched, tabGet_set_ne, SYS_CTIME, SYS_CTIME_EPOCH]

/-- A read of SYS_CTIME0 shows bits [15:0] of convoy time and latches the rest. -/
theorem readWord_ctime (s : State) : readWord SYS_CTIME s = (s.convoyTime % 65536, { s with latch := s.ctimeLatched }) := by
  have hReg : regAt SYS_CTIME = _ := regAt_SYS_CTIME (k := 0) (by decide)
  rw [readWord_sys (by decide) hReg (by decide) (by decide), State.latchGroup_ctime]
  have hShown : State.shown { s with latch := s.ctimeLatched } SYS_CTIME = wordAt s.convoyTime 0 := by
    simp only [State.shown, State.ctimeLatched_zero, Option.getD_none]
    exact State.live_ctime _ (k := 0) (by decide)
  rw [hShown]
  simp [wordAt]

/-- A read of a latched register of convoy time shows what is latched and changes nothing (R29). -/
theorem readWord_latched {a : Nat} {w : Word} (ha : a ∈ [SYS_CTIME + 2, SYS_CTIME + 4, SYS_CTIME + 6, SYS_CTIME_EPOCH])
    (hw : tabGet (fun _ => none) s.latch a = some w) : readWord a s = (w.toNat, s) := by
  have hShown : s.shown a = w := by rw [State.shown, hw]; rfl
  have hGroup : ∀ k ∈ [1, 2, 3], a = SYS_CTIME + 2 * k → readWord a s = (w.toNat, s) := by
    intro k hk hak
    have h4 : k < 4 := by fin_cases hk <;> decide
    have h0 : k ≠ 0 := by fin_cases hk <;> decide
    subst hak
    rw [readWord_sys (by unfold SYS_CTIME; omega) (regAt_SYS_CTIME h4) (by decide) (by decide), State.latchGroup_ctime_other s h4 h0, hShown]
  simp only [List.mem_cons, List.not_mem_nil, or_false] at ha
  obtain h | h | h | rfl := ha
  · exact hGroup 1 (by simp) h
  · exact hGroup 2 (by simp) h
  · exact hGroup 3 (by simp) h
  · rw [readWord_sys (by decide) regAt_SYS_CTIME_EPOCH (by decide) (by decide), State.latchGroup_epoch, hShown]

/-- A latch and a read port are outside every frame. -/
theorem Frame.latched {l : List Nat} {t : State} {m : Tab (Option Word)} {p : ReadPort} (h : Frame l s t) :
    Frame l s { t with latch := m, read := p } := h.upd rfl rfl rfl rfl rfl rfl rfl

/-! The commit hold (R22, R23). -/

theorem Frame.hold {l : List Nat} {t : State} {x : Hold} (h : Frame l s t) : Frame l s { t with hold := x } :=
  h.upd rfl rfl rfl rfl rfl rfl rfl

theorem holdWrite_true (s : State) :
    holdWrite true s = { s.setBit SYS_CTL 0 true with hold := ⟨true, 0, if s.hold.inForce then s.hold.ticks else 0⟩ } := rfl

/-- A release belongs to this stage, or in the commit cut to the next. -/
theorem holdWrite_false_inForce (h : s.hold.inForce = true) (h0 : s.hold.release = 0) :
    holdWrite false s = { s.setBit SYS_CTL 0 false with hold := ⟨true, if s.toTick ≤ 16 then 2 else 1, 0⟩ } := by
  simp [holdWrite, h, h0, State.inCut]

/-- A release without a hold to release clears the bit alone. -/
theorem holdWrite_false_other (h : ¬ (s.hold.inForce = true ∧ s.hold.release = 0)) : holdWrite false s = s.setBit SYS_CTL 0 false := by
  simp [holdWrite]
  intro hf h0
  exact absurd ⟨hf, h0⟩ h

theorem State.bit_setBit_self (s : State) {a b : Nat} (v : Bool) (h : b < 16) : (s.setBit a b v).bit a b = v := by
  rw [State.bit_setBit _ _ _ _ _ _ h, if_pos ⟨rfl, rfl⟩]

/-- Where the hold has stood for 1,024 ticks the module releases it. -/
theorem holdTimeout_due (hBit : s.bit SYS_CTL 0 = true) (hTicks : 1024 ≤ s.hold.ticks) :
    holdTimeout s = { (s.setBit SYS_CTL 0 false).evt SYS_EVT 1 with hold := ⟨true, 1, 0⟩ } := by
  simp [holdTimeout, hBit, hTicks]

/-- It clears the bit and raises its event. -/
theorem holdTimeout_releases (hBit : s.bit SYS_CTL 0 = true) (hTicks : 1024 ≤ s.hold.ticks) :
    (holdTimeout s).bit SYS_CTL 0 = false ∧ (holdTimeout s).bit SYS_EVT 1 = true ∧ (holdTimeout s).hold = ⟨true, 1, 0⟩ ∧
      Frame [SYS_CTL, SYS_EVT] s (holdTimeout s) := by
  rw [holdTimeout_due hBit hTicks]
  have hCtl : ((s.setBit SYS_CTL 0 false).evt SYS_EVT 1).bit SYS_CTL 0 = false := by
    rw [State.bit, State.rd_evt, if_neg (by decide)]
    exact State.bit_setBit_self s false (by decide)
  have hEvt : ((s.setBit SYS_CTL 0 false).evt SYS_EVT 1).bit SYS_EVT 1 = true := State.bit_evt_self _ _ _ (by decide)
  have hFrame : Frame [SYS_CTL, SYS_EVT] s ((s.setBit SYS_CTL 0 false).evt SYS_EVT 1) := (Frame.refl.setBit (by simp)).evt (by simp)
  generalize (s.setBit SYS_CTL 0 false).evt SYS_EVT 1 = t at hCtl hEvt hFrame
  exact ⟨hCtl, hEvt, rfl, hFrame.hold⟩

theorem holdTimeout_early (h : s.bit SYS_CTL 0 = false ∨ s.hold.ticks < 1024) : holdTimeout s = s := by
  refine if_neg fun hc => ?_
  simp only [Bool.and_eq_true, decide_eq_true_eq] at hc
  obtain ⟨hBit, hTicks⟩ := hc
  rcases h with h | h
  · exact absurd hBit (by simp [h])
  · omega

end Sys2Proof.Machine

open Sys2Proof Sys2Proof.Machine

/-- Settles O6: a write of SYS_CTL is a write of the commit hold, and its timeout is one rule. -/
theorem commitHold : Obligations.CommitHold := by
  unfold Obligations.CommitHold
  have hWrite : ∀ (v : Nat) (u : State), busWrite SYS_CTL 2 v u = holdWrite ((BitVec.ofNat 16 v).getLsbD 0) u := fun v u => by
    rw [busWrite_two v u (by decide) (by decide), writeWord_SYS_CTL]
  refine ⟨fun s u hu => ?_, fun s u hu => ?_, fun s hBit hTicks => ?_, fun s h => ?_⟩
  · refine ⟨holdWrite true u, ?_, ?_⟩
    · change Host.Outcome.next (busWrite SYS_CTL 2 1 s.itemsDue) = _
      rw [hu, hWrite]
      rfl
    · rw [holdWrite_true]
      exact ⟨State.bit_setBit_self u true (by decide), rfl, rfl, (Frame.refl.setBit (by simp)).hold⟩
  · refine ⟨holdWrite false u, ?_, ?_⟩
    · change Host.Outcome.next (busWrite SYS_CTL 2 0 s.itemsDue) = _
      rw [hu, hWrite]
      rfl
    · by_cases h : u.hold.inForce = true ∧ u.hold.release = 0
      · obtain ⟨hForce, hRelease⟩ := h
        rw [holdWrite_false_inForce hForce hRelease]
        refine ⟨State.bit_setBit_self u false (by decide), fun _ _ => ⟨rfl, rfl⟩, fun hOff => ?_, (Frame.refl.setBit (by simp)).hold⟩
        exact absurd hForce (by simp [hOff])
      · rw [holdWrite_false_other h]
        exact ⟨State.bit_setBit_self u false (by decide), fun hf h0 => absurd ⟨hf, h0⟩ h, fun _ => rfl, Frame.refl.setBit (by simp)⟩
  · exact ⟨holdTimeout s, rfl, holdTimeout_releases hBit hTicks⟩
  · exact congrArg Host.Outcome.next (holdTimeout_early h)

/-- Settles O2: the write of a shadow bit by bit, and the shadow view. -/
theorem shadowedWritesWait : Obligations.ShadowedWritesWait := by
  unfold Obligations.ShadowedWritesWait
  refine ⟨?_, ?_⟩
  · intro a i v r s u hu hReady hEven hLow hRel hReg hShadowed hRwt hW1c
    obtain ⟨hRegs, hOthers, hMem, hHost, hNv⟩ := u.shadowWrite_frame a (accMask .rw r) (accMask .wo r) (BitVec.ofNat 16 v)
    refine ⟨u.shadowWrite a (accMask .rw r) (accMask .wo r) (BitVec.ofNat 16 v),
      u.shadowWritten a (accMask .rw r) (accMask .wo r) (BitVec.ofNat 16 v), ?_, hRegs, fun hCut => ?_, fun hStage => ?_, fun k hk hRw hWo => ?_,
      fun k hk hWo hv => ?_, hOthers, hMem, hHost, hNv⟩
    · change Host.Outcome.next (busWrite a 2 v s.itemsDue) = _
      rw [hu, busWrite_two v u hEven hLow, writeWord_shadowed _ hReg (State.answers_ready hReady a) hShadowed hRwt hW1c hRel]
    · rw [State.shadowWrite_inCut hCut]
      exact ⟨by simp, rfl⟩
    · rw [State.shadowWrite_inStage (by omega)]
      exact ⟨by simp, rfl⟩
    · refine ⟨fun hFree => ?_, fun hClaimed hStage hNone => ?_⟩
      · rw [State.shadowWritten_free hRw hWo hFree, BitVec.getLsbD_ofNat]
        simp [hk]
      · rw [State.shadowWritten_claimed hRw hWo hClaimed, State.shadowBase_inStage (by omega) hNone]
    · exact State.shadowWritten_pulse hWo (by rw [BitVec.getLsbD_ofNat, hv]; simp [hk])
  · intro a s u hu hReady hEven hLow hShadowed
    have hRead : busRead (0x08000000 + a) 2 u = { u with read := ⟨(u.shadowOf a).toNat, [], false⟩ } := by
      rw [busRead_two u (by omega), readWord_view hLow (State.answers_ready hReady a) hShadowed]
    refine ⟨{ u with read := ⟨(u.shadowOf a).toNat, [], false⟩ }, ?_, rfl, fun w hw => ?_, fun hNone w hw => ?_, fun hNone hBoth => ?_⟩
    · change Host.Outcome.next (busRead (0x08000000 + a) 2 s.itemsDue) = _
      rw [hu, hRead]
    · simp [State.shadowOf, hw]
    · simp [State.shadowOf, hNone, hw]
    · simp [State.shadowOf, hNone, hBoth, State.rdN]

/-- Settles O4: a read of SYS_CTIME0 fills the latch, and a read of a latched register shows it. -/
theorem timeLatch : Obligations.TimeLatch := by
  unfold Obligations.TimeLatch
  refine ⟨fun s u hu _ => ?_, fun s u hu _ => ?_, fun s u hu _ a ha w hw => ?_⟩
  · obtain ⟨hWords, hEpoch⟩ := State.latch_of_ctimeLatched (s := u)
      (t := { u with latch := u.ctimeLatched, read := ⟨u.convoyTime % 65536, [], false⟩ }) rfl
    refine ⟨_, ?_, rfl, hWords, hEpoch, Frame.latched (t := u) Frame.refl⟩
    change Host.Outcome.next (busRead SYS_CTIME 2 s.itemsDue) = _
    rw [hu, busRead_two u (by decide), readWord_ctime]
  · have hHigh : readWord (SYS_CTIME + 2) { u with latch := u.ctimeLatched } = _ :=
      readWord_latched (by simp) ((State.latch_of_ctimeLatched (s := u) rfl).1 1 (by simp))
    obtain ⟨hWords, hEpoch⟩ := State.latch_of_ctimeLatched (s := u)
      (t := { u with latch := u.ctimeLatched, read := ⟨u.convoyTime % 65536 + 65536 * (wordAt u.convoyTime 1).toNat, [], false⟩ }) rfl
    refine ⟨_, ?_, ?_, hWords, hEpoch, Frame.latched (t := u) Frame.refl⟩
    · change Host.Outcome.next (busRead SYS_CTIME 4 s.itemsDue) = _
      rw [hu, busRead_four u (by decide), readWord_ctime, hHigh]
    · simp only [wordAt, BitVec.toNat_ofNat]
      omega
  · refine ⟨{ u with read := ⟨w.toNat, [], false⟩ }, ?_, rfl, rfl, Frame.latched (t := u) Frame.refl⟩
    change Host.Outcome.next (busRead a 2 s.itemsDue) = _
    have hEven : a % 2 = 0 := by fin_cases ha <;> decide
    rw [hu, busRead_two u hEven, readWord_latched ha hw]

end

section
/-!
PROOFS. Tiles (R59 to R61, R351, R352): what a change of a tile slot leaves alone, and the rows of tile discovery.
-/

namespace Sys2Proof.Machine

variable {s t : State}

/-! Instants and events. -/

/-- What is due at a clock that has come comes about at once. -/
theorem State.atDue_now {d : Nat} {f : State → State} (h : d ≤ s.time.up) : s.atDue d f = f s := if_pos h

/-- An event signals vector 1 at most: vector 2 and the completions that wait stay. -/
@[simp] theorem State.evt_irq2 (s : State) (a b : Nat) : (s.evt a b).host.irq2 = s.host.irq2 := by
  unfold State.evt
  dsimp only
  split <;> rfl

@[simp] theorem State.evt_waiting (s : State) (a b : Nat) : (s.evt a b).host.waiting = s.host.waiting := by
  unfold State.evt
  dsimp only
  split <;> rfl

/-! The registers that show the tiles (R60). -/

/-- The registers that a change of the tiles present shows in. -/
def tileRegs : List Nat := [CST_EVT, CST_STAT, CST_TILE_PRES, CST_TILE_PRES + 2, CST_TILE_DIFF, CST_TILE_DIFF + 2]

/-- Showing the tiles changes registers in force alone. -/
theorem State.showTiles_eq (s : State) : ∃ m, s.showTiles = { s with regs := m } := by
  have hEach : ∃ m, (s.each (List.range 32) fun t k =>
      (t.setBit (CST_TILE_PRES + 2 * (k / 16)) (k % 16) ((s.presentRec k).1 == 1)).setBit (CST_TILE_DIFF + 2 * (k / 16)) (k % 16)
        (s.tileDiffers k)) = { s with regs := m } := by
    refine List.foldlRecOn (motive := fun (t : State) => ∃ m, t = { s with regs := m }) _ _ ⟨s.regs, rfl⟩ ?_
    rintro _ ⟨m, rfl⟩ k -
    exact ⟨_, rfl⟩
  obtain ⟨m, hm⟩ := hEach
  rw [State.showTiles, hm]
  exact ⟨_, rfl⟩

/-- A slot below 32 shows in the first or the second register of a pair. -/
theorem tileReg_of_slot {k : Nat} (h : k < 32) (a : Nat) : a + 2 * (k / 16) = a ∨ a + 2 * (k / 16) = a + 2 := by omega

theorem Frame.showTiles {l : List Nat} (h : Frame l s t) (hl : ∀ a ∈ tileRegs, a ∈ l) : Frame l s t.showTiles := by
  have hPres : ∀ k < 32, CST_TILE_PRES + 2 * (k / 16) ∈ l := fun k hk =>
    hl _ (by rcases tileReg_of_slot hk CST_TILE_PRES with e | e <;> rw [e] <;> decide)
  have hDiff : ∀ k < 32, CST_TILE_DIFF + 2 * (k / 16) ∈ l := fun k hk =>
    hl _ (by rcases tileReg_of_slot hk CST_TILE_DIFF with e | e <;> rw [e] <;> decide)
  refine Frame.setBit ?_ (hl _ (by decide))
  refine List.foldlRecOn (motive := fun u => Frame l s u) _ _ h fun u hu k hk => ?_
  have hk : k < 32 := List.mem_range.1 hk
  exact (hu.setBit (hPres k hk)).setBit (hDiff k hk)

/-- What a change of the tiles present leaves where no sounding passes over the slot. -/
structure TilesShown (s u : State) : Prop where
  tiles : u.tiles = s.tiles
  irq2 : u.host.irq2 = s.host.irq2
  event : u.bit CST_EVT 4 = true
  frame : Frame tileRegs s u

theorem State.tilesShown (s : State) : TilesShown s (s.showTiles.evt CST_EVT 4) := by
  obtain ⟨m, hm⟩ := s.showTiles_eq
  exact ⟨by rw [State.evt_tiles, hm], by rw [State.evt_irq2, hm], State.bit_evt_self _ _ _ (by decide),
    (Frame.refl.showTiles fun _ h => h).evt (by decide)⟩

theorem TilesShown.setCast {u v : State} {c : CastState} (h : TilesShown s v) (hu : u = { v with cast := c }) : TilesShown s u := by
  subst hu
  exact ⟨h.tiles, h.irq2, h.event, h.frame.upd rfl rfl rfl rfl rfl rfl rfl⟩

/-- Without SOUND records a change of a tile shows, and marks the load and the recast in progress alone (R59, R122). -/
theorem State.tileChange_silent {k : Nat} (h : s.casting.sounds = []) :
    ∃ c, s.tileChange k = { s.showTiles.evt CST_EVT 4 with cast := c } := by
  simp only [State.tileChange, h, List.filter_nil, List.map_nil, List.eraseDups_nil, State.each, List.foldl_nil]
  exact ⟨_, rfl⟩

/-- So does one with no casting in force. -/
theorem State.tileChange_uncast {k : Nat} (h : s.cast.applied = none) : TilesShown s (s.tileChange k) := by
  have hSounds : s.casting.sounds = [] := by rw [State.casting, h]; rfl
  obtain ⟨c, hc⟩ := State.tileChange_silent (k := k) hSounds
  exact s.tilesShown.setCast hc

/-! The rows (R351, R352). -/

/-- A slot changes, and no other. -/
theorem State.tile_setTile_others {k : Nat} (s : State) (x : Tile) : ∀ n, n ≠ k → (s.setTile k x).tile n = s.tile n :=
  fun _ h => s.tile_setTile_ne x h

/-- What a slot that is set FAULT with `code` shows, beside the state `s` before its row. -/
structure TileFaults (k code : Nat) (s t : State) : Prop where
  phase : (t.tile k).phase = 4
  code : (t.tile k).code = code
  event : t.bit HST_EVT 6 = true
  others : ∀ n, n ≠ k → t.tile n = s.tile n
  frame : Frame [HST_EVT] s t

/-- A slot is set FAULT after a step that changed the slot alone. -/
theorem tileFault_faults {k code : Nat} (hOthers : ∀ n, n ≠ k → t.tile n = s.tile n) (hFrame : Frame [HST_EVT] s t) :
    TileFaults k code s (tileFault k code t) where
  phase := by simp [tileFault]
  code := by simp [tileFault]
  event := State.bit_evt_self _ _ _ (by decide)
  others n hn := by
    rw [tileFault, State.tile_evt, State.tile_setTile_ne _ _ hn]
    exact hOthers n hn
  frame := hFrame.setTile.evt (by decide)

/-- A slot whose line is up has no rising line. -/
theorem tileRise_up {k : Nat} (h : (s.tile k).line = true) : tileRise k s = s := if_pos (.inr h)

theorem tileRise_low {k : Nat} (hk : k < 32) (h : (s.tile k).line = false) :
    tileRise k s = s.setTile k { s.tile k with line := true, phase := 1, since := s.time.up } := if_neg (by simp [h, hk])

theorem tileDebounced_other {k : Nat} (h : (s.tile k).phase ≠ 1) : tileDebounced k s = s := if_pos h

theorem tileDebounced_due {k : Nat} (h : (s.tile k).phase = 1) (hDue : (s.tile k).since + 30000000 ≤ s.time.up) :
    tileDebounced k s = s.setTile k { s.tile k with phase := 2, since := s.time.up, joined := false } :=
  (if_neg (not_not.2 h)).trans (State.atDue_now hDue)

theorem tileJoin_joins {k : Nat} (hPhase : (s.tile k).phase = 2) (hFound : (s.tile k).found = false) (hBus : s.busServing k = false)
    (hTime : s.time.up ≤ (s.tile k).since + 300000000) : tileJoin k s = s.setTile k { s.tile k with joined := true } :=
  if_pos (by simp [hPhase, hFound, hBus, hTime])

theorem tileJoin_busy {k : Nat} (h : s.busServing k = true) : tileJoin k s = s := if_neg (by simp [h])

theorem tileNoJoin_due {k : Nat} (hPhase : (s.tile k).phase = 2) (hJoined : (s.tile k).joined = false) (hFound : (s.tile k).found = false)
    (hDue : (s.tile k).since + 300000000 ≤ s.time.up) : tileNoJoin k s = tileFault k 0x1510 s := by
  simp [tileNoJoin, hPhase, hJoined, hFound, State.atDue_now hDue]

section
variable {k : Nat} {desc : List Byte} (hPhase : (s.tile k).phase = 2) (hJoined : (s.tile k).joined = true)
  (hSlot : byteAt desc 6 % 32 = k)
include hPhase hJoined hSlot

/-- A descriptor that names its own slot, whose line is low or whose tile was found before, is the wrong one. -/
theorem tileRead_wrongSlot (h : (s.tile k).line = false ∨ (s.tile k).found = true) :
    tileRead k desc s = tileFault k 0x1511 (s.setTile k { s.tile k with joined := false }) := by
  rcases h with h | h <;> simp [tileRead, hPhase, hJoined, hSlot, h]

theorem tileRead_bad (hLine : (s.tile k).line = true) (hFound : (s.tile k).found = false) (hDesc : descOk desc = false) :
    tileRead k desc s = tileFault k 0x1512 (s.setTile k { s.tile k with joined := false }) := by
  simp [tileRead, hPhase, hJoined, hSlot, hLine, hFound, hDesc]

theorem tileRead_good (hLine : (s.tile k).line = true) (hFound : (s.tile k).found = false) (hDesc : descOk desc = true) :
    tileRead k desc s = (s.setTile k { s.tile k with joined := false }).setTile k
      { s.tile k with joined := false, phase := 2, found := true, id := leAt desc 8 8, crc := leAt desc 20 4, map := padMap desc } := by
  simp [tileRead, hPhase, hJoined, hSlot, hLine, hFound, hDesc]

end

theorem tileRemoved_low {k : Nat} (h : (s.tile k).line = false) : tileRemoved k s = s := if_pos (by simp [h])

/-- A slot that was not PRESENT clears. -/
theorem tileRemoved_absent {k : Nat} (hLine : (s.tile k).line = true) (hPhase : (s.tile k).phase ≠ 3) :
    tileRemoved k s = s.setTile k { Tile.init with code := (s.tile k).code } := by
  simp [tileRemoved, hLine, hPhase]

/-- With no casting in force a PRESENT slot clears with the event and an urgent interrupt, and no site is disabled. -/
theorem tileRemoved_uncast {k : Nat} (hLine : (s.tile k).line = true) (hPhase : (s.tile k).phase = 3) (hNone : s.cast.applied = none) :
    tileRemoved k s = ((s.setTile k { Tile.init with code := (s.tile k).code }).tileChange k).irqUrgent := by
  simp [tileRemoved, hLine, hPhase, hNone]

/-- What the removal of a PRESENT tile leaves while no casting is in force. -/
structure TileGone (k : Nat) (s t : State) : Prop where
  line : (t.tile k).line = false
  phase : (t.tile k).phase = 0
  urgent : t.host.irq2 = s.host.irq2 + 1
  event : t.bit CST_EVT 4 = true
  others : ∀ n, n ≠ k → t.tile n = s.tile n
  frame : Frame tileRegs s t

theorem TilesShown.gone {k : Nat} {x : Tile} {u : State} (h : TilesShown (s.setTile k x) u) (hLine : x.line = false) (hPhase : x.phase = 0) :
    TileGone k s u.irqUrgent := by
  have hTile : ∀ n, u.irqUrgent.tile n = (s.setTile k x).tile n := fun n => congrArg (tabGet (fun _ => Tile.init) · n) h.tiles
  refine ⟨?_, ?_, congrArg (· + 1) h.irq2, h.event, fun n hn => ?_, (Frame.refl.setTile.trans h.frame).irqUrgent⟩
  · rw [hTile, State.tile_setTile_self, hLine]
  · rw [hTile, State.tile_setTile_self, hPhase]
  · rw [hTile, State.tile_setTile_ne _ _ hn]

end Sys2Proof.Machine

open Sys2Proof Sys2Proof.Machine

/-- Settles O48: each row of tile discovery by the rule of its branch. -/
theorem tilesComeAndGo : Obligations.TilesComeAndGo := by
  unfold Obligations.TilesComeAndGo
  intro k s hk
  have hOthers : ∀ x, ∀ n, n ≠ k → (s.setTile k x).tile n = s.tile n := s.tile_setTile_others
  refine ⟨fun hLine => ?_, fun hLine => ?_, fun hPhase => ?_, fun hPhase hDue => ?_, fun hPhase hFound hBus hDue => ?_, fun hBus => ?_,
    fun hPhase hJoined hFound hDue => ?_, fun desc hPhase hJoined hSlot => ⟨fun hWrong => ?_,
      fun hLine hFound => ⟨fun hBad => ?_, fun hGood => ?_⟩⟩,
    fun hLine => ?_, fun hLine hPhase => ?_, fun hLine hPhase hNone => ?_⟩
  · exact congrArg Host.Outcome.next (tileRise_up hLine)
  · refine ⟨_, congrArg Host.Outcome.next (tileRise_low hk hLine), ?_⟩
    rw [State.tile_setTile_self]
    exact ⟨rfl, rfl, rfl, hOthers _, Frame.refl.setTile⟩
  · exact congrArg Host.Outcome.next (tileDebounced_other hPhase)
  · refine ⟨_, congrArg Host.Outcome.next (tileDebounced_due hPhase hDue), ?_⟩
    rw [State.tile_setTile_self]
    exact ⟨rfl, hOthers _, Frame.refl.setTile⟩
  · refine ⟨_, congrArg Host.Outcome.next (tileJoin_joins hPhase hFound hBus hDue), ?_⟩
    rw [State.tile_setTile_self]
    exact ⟨rfl, hOthers _, Frame.refl.setTile⟩
  · exact congrArg Host.Outcome.next (tileJoin_busy hBus)
  · obtain ⟨h4, hCode, hEvt, hElse, hFrame⟩ := tileFault_faults (k := k) (code := 0x1510) (fun _ _ => rfl) (Frame.refl (s := s))
    exact ⟨_, congrArg Host.Outcome.next (tileNoJoin_due hPhase hJoined hFound hDue), h4, hCode, hEvt, hElse, hFrame⟩
  · obtain ⟨h4, hCode, hEvt, hElse, hFrame⟩ :=
      tileFault_faults (code := 0x1511) (hOthers { s.tile k with joined := false }) Frame.refl.setTile
    exact ⟨_, congrArg Host.Outcome.next (tileRead_wrongSlot hPhase hJoined hSlot hWrong), h4, hCode, hEvt, hElse, hFrame⟩
  · obtain ⟨h4, hCode, hEvt, hElse, hFrame⟩ :=
      tileFault_faults (code := 0x1512) (hOthers { s.tile k with joined := false }) Frame.refl.setTile
    exact ⟨_, congrArg Host.Outcome.next (tileRead_bad hPhase hJoined hSlot hLine hFound hBad), h4, hCode, hEvt, hElse, hFrame⟩
  · refine ⟨_, congrArg Host.Outcome.next (tileRead_good hPhase hJoined hSlot hLine hFound hGood), ?_⟩
    rw [State.tile_setTile_self]
    refine ⟨rfl, rfl, rfl, rfl, fun n hn => ?_, Frame.refl.setTile.setTile⟩
    rw [State.tile_setTile_ne _ _ hn, State.tile_setTile_ne _ _ hn]
  · exact congrArg Host.Outcome.next (tileRemoved_low hLine)
  · refine ⟨_, congrArg Host.Outcome.next (tileRemoved_absent hLine hPhase), ?_⟩
    rw [State.tile_setTile_self]
    exact ⟨rfl, rfl, hOthers _, Frame.refl.setTile⟩
  · obtain ⟨hLow, hEmpty, hUrgent, hEvt, hElse, hFrame⟩ :=
      (State.tileChange_uncast (s := s.setTile k { Tile.init with code := (s.tile k).code }) (k := k) hNone).gone rfl rfl
    exact ⟨_, congrArg Host.Outcome.next (tileRemoved_uncast hLine hPhase hNone), hLow, hEmpty, hUrgent, hEvt, hElse, hFrame⟩

end

section
/-!
PROOFS. What a casting apply leaves alone (R64): once its enables are clear, nothing else that it does changes the site enables in force,
and the casting part of the state changes where the apply itself changes it.
-/

namespace Sys2Proof.Machine

variable {c : CastState} {s t : State}

/-- The casting part of `t` is `c`, and the site enables in force in `t` are those of `s`. -/
structure CastFrame (c : CastState) (s t : State) : Prop where
  cast : t.cast = c
  enables : ∀ i < 32, t.rd (CST_SITE_EN i) = s.rd (CST_SITE_EN i)

/-! The named updates. A register of any block behind the CST window holds no enable. -/

theorem CastFrame.refl : CastFrame s.cast s s := ⟨rfl, fun _ _ => rfl⟩

/-- An update of what the frame does not speak of. -/
theorem CastFrame.upd {u : State} (h : CastFrame c s t) (hc : u.cast = t.cast) (hr : u.regs = t.regs) : CastFrame c s u :=
  ⟨hc.trans h.cast, fun i hi => (State.rd_congr hr _).trans (h.enables i hi)⟩

theorem CastFrame.setCast {d : CastState} (h : CastFrame c s t) : CastFrame d s { t with cast := d } := ⟨rfl, h.enables⟩

theorem CastFrame.wr (h : CastFrame c s t) {a : Nat} {w : Word} (ha : a < 0x1040 ∨ 0x1080 ≤ a) : CastFrame c s (t.wr a w) := by
  refine ⟨h.cast, fun i hi => (State.rd_wr_ne t w ?_).trans (h.enables i hi)⟩
  unfold CST_SITE_EN
  omega

/-- Every block but SYS and CST lies behind the enables. -/
theorem behind_enables {base : Nat} (o : Nat) (h : 0x1080 ≤ base) : base + o < 0x1040 ∨ 0x1080 ≤ base + o := by omega

section
variable (h : CastFrame c s t)
include h

theorem CastFrame.wrN {a v : Nat} (ha : a < 0x1040 ∨ 0x1080 ≤ a := by exact behind_enables _ (by decide)) : CastFrame c s (t.wrN a v) := h.wr ha
theorem CastFrame.setFld {a hi lo v : Nat} (ha : a < 0x1040 ∨ 0x1080 ≤ a := by exact behind_enables _ (by decide)) :
    CastFrame c s (t.setFld a hi lo v) := h.wr ha
theorem CastFrame.setBit {a b : Nat} {v : Bool} (ha : a < 0x1040 ∨ 0x1080 ≤ a := by exact behind_enables _ (by decide)) :
    CastFrame c s (t.setBit a b v) := h.wr ha
theorem CastFrame.evt {a b : Nat} (ha : a < 0x1040 ∨ 0x1080 ≤ a := by exact behind_enables _ (by decide)) : CastFrame c s (t.evt a b) :=
  (h.wr (w := t.rd a ||| BitVec.ofNat 16 (2 ^ b)) ha).upd rfl rfl
theorem CastFrame.forceBits {a : Nat} {m v : Word} (ha : a < 0x1040 ∨ 0x1080 ≤ a := by exact behind_enables _ (by decide)) :
    CastFrame c s (t.forceBits a m v) := (h.wr (w := (t.rd a &&& ~~~m) ||| (v &&& m)) ha).upd rfl rfl
theorem CastFrame.force {a : Nat} {w : Word} (ha : a < 0x1040 ∨ 0x1080 ≤ a := by exact behind_enables _ (by decide)) :
    CastFrame c s (t.force a w) := h.forceBits ha
theorem CastFrame.complete {tag op code d0 d1 d2 : Nat} : CastFrame c s (t.complete tag op code d0 d1 d2) := h.upd rfl rfl
theorem CastFrame.setChan {u : Nat} {x : Chan} : CastFrame c s (t.setChan u x) := h.upd rfl rfl
theorem CastFrame.setMon {u : Nat} {x : Monitor} : CastFrame c s (t.setMon u x) := h.upd rfl rfl
theorem CastFrame.setTdc {u : Nat} {x : Tdc} : CastFrame c s (t.setTdc u x) := h.upd rfl rfl
theorem CastFrame.setSlice {u : Nat} {x : Slice} : CastFrame c s (t.setSlice u x) := h.upd rfl rfl
theorem CastFrame.setAwg {u : Nat} {x : Awg} : CastFrame c s (t.setAwg u x) := h.upd rfl rfl
theorem CastFrame.setAcq {u : Nat} {x : Acq} : CastFrame c s (t.setAcq u x) := h.upd rfl rfl
theorem CastFrame.setCtx {u : Nat} {x : Ctx} : CastFrame c s (t.setCtx u x) := h.upd rfl rfl
theorem CastFrame.setSite {u : Nat} {x : Site} : CastFrame c s (t.setSite u x) := h.upd rfl rfl
theorem CastFrame.setQueue {u : Nat} {x : ResQueue} : CastFrame c s (t.setQueue u x) := h.upd rfl rfl

theorem CastFrame.setWide {a n v : Nat} (ha : a + 2 * n ≤ 0x1040 ∨ 0x1080 ≤ a := by exact .inr (Nat.le_add_right_of_le (by decide))) :
    CastFrame c s (t.setWide a n v) := by
  induction n generalizing t a v with
  | zero => exact h
  | succ n ih => exact ih (h.wrN (by omega)) (by omega)

theorem CastFrame.setWords {a : Nat} {l : List Nat} (ha : 0x1080 ≤ a) : CastFrame c s (t.setWords a l) := by
  induction l generalizing t a with
  | nil => exact h
  | cons v l ih => exact ih (h.wrN (.inr ha)) (by omega)

theorem CastFrame.foldl {β : Type} {l : List β} {f : State → β → State} (hf : ∀ u, CastFrame c s u → ∀ k ∈ l, CastFrame c s (f u k)) :
    CastFrame c s (l.foldl f t) := List.foldlRecOn l f h hf

theorem CastFrame.each {l : List Nat} {f : State → Nat → State} (hf : ∀ u, CastFrame c s u → ∀ k ∈ l, CastFrame c s (f u k)) :
    CastFrame c s (t.each l f) := h.foldl hf

end

theorem CastFrame.ite {p : Prop} [Decidable p] {u v : State} (hu : CastFrame c s u) (hv : CastFrame c s v) :
    CastFrame c s (if p then u else v) := ite_of hu hv

/-! Monitors, pins and pad switches (Machine/Monitors.lean, Machine/Pins.lean). -/

theorem monBase_behind (u : Nat) : 0x1080 ≤ monBase u := by
  unfold monBase monOfChannel monOfSlice
  split <;> omega

section
variable (h : CastFrame c s t)
include h

theorem CastFrame.timerEvent {b : Nat} (hb : 0x1080 ≤ b) : CastFrame c s (t.timerEvent b) :=
  .ite h (h.setMon.setBit (behind_enables _ hb))

theorem CastFrame.settingEvent {b : Nat} (hb : 0x1080 ≤ b) : CastFrame c s (t.settingEvent b) := .ite (h.timerEvent hb) h

theorem CastFrame.monRefresh {u : Nat} : CastFrame c s (t.monRefresh u) :=
  .ite h (.ite ((h.setFld (behind_enables _ (monBase_behind u))).setMon.settingEvent (monBase_behind u))
    (h.setFld (behind_enables _ (monBase_behind u))).setMon)

theorem CastFrame.pmuUpdate {ch : Nat} : CastFrame c s (t.pmuUpdate ch) :=
  (CastFrame.ite h.setBit.setBit h.setBit.setBit.setBit).monRefresh

theorem CastFrame.drivers {ch : Nat} {f : Chan → Chan} : CastFrame c s (t.drivers ch f) := h.each fun _ h _ _ => h.setChan
theorem CastFrame.loadLevels {ch : Nat} : CastFrame c s (t.loadLevels ch) := by
  unfold State.loadLevels
  exact h.drivers
theorem CastFrame.holdSymbol {ch sym : Nat} : CastFrame c s (t.holdSymbol ch sym) := h.drivers
theorem CastFrame.padClosed {ch : Nat} : CastFrame c s (t.padClosed ch) := h.setChan.holdSymbol.pmuUpdate
theorem CastFrame.padSettle {ch : Nat} : CastFrame c s (t.padSettle ch) := .ite h.padClosed h
theorem CastFrame.leaveSafe {ch : Nat} : CastFrame c s (t.leaveSafe ch) := h.setChan.setBit.evt
theorem CastFrame.enterSafe {ch : Nat} : CastFrame c s (t.enterSafe ch) := h.drivers.setChan.setBit.pmuUpdate.evt

theorem CastFrame.refreshPins {names : List Nat} : CastFrame c s (t.refreshPins names) :=
  (h.each fun _ h _ _ => .ite h.enterSafe h).foldl fun _ h _ _ => .ite h.leaveSafe (.ite h.enterSafe h)

theorem CastFrame.takeover {ch : Nat} : CastFrame c s (t.takeover ch) :=
  .ite h.padSettle.setFld.setFld.setBit.evt.loadLevels h.padSettle.setFld.setFld.setChan.setChan.loadLevels

theorem CastFrame.handback {ch : Nat} : CastFrame c s (t.handback ch) :=
  .ite h.padSettle.setFld.setFld.setBit.evt.loadLevels h.padSettle.setChan.setChan.setBit.loadLevels

end

/-! Calibrations that end, and the outriders (Machine/Service.lean, Machine/TimeMeas.lean, Machine/Calib.lean). -/

theorem calBlock_behind (x : Nat) : 0x1080 ≤ calBlock x := by
  unfold calBlock calOfChannel calOfSlice calOfAcq calOfAwg
  split
  · omega
  · split
    · omega
    · split <;> omega

section
variable (h : CastFrame c s t)
include h

theorem CastFrame.calEnd {x outcome code : Nat} : CastFrame c s (t.calEnd x outcome code) := by
  have hBlock : ∀ o, calBlock x + o < 0x1040 ∨ 0x1080 ≤ calBlock x + o := fun o => behind_enables o (calBlock_behind x)
  refine .ite h ?_
  extract_lets b jobs cal s1 s2 s3 s4
  have h1 : CastFrame c s s1 := h.upd rfl rfl
  have h2 : CastFrame c s s2 := ((h1.setFld (hBlock _)).setBit (hBlock _)).wrN (hBlock _)
  have h3 : CastFrame c s s3 := h2.wrN (by decide)
  have h4 : CastFrame c s s4 := .ite ((h3.evt (hBlock _)).evt (by decide)) (.ite (h3.evt (hBlock _)) h3)
  exact .ite (h4.evt (by decide)) h4

theorem CastFrame.cdEnd {ch code : Nat} : CastFrame c s (cdEnd ch code t) := (CastFrame.ite h.setTdc.setFld h.setTdc).setFld.wrN
theorem CastFrame.cdAbort {ch : Nat} : CastFrame c s (cdAbort ch t) := .ite h.cdEnd.evt h
theorem CastFrame.channelEnd {ch outcome code : Nat} : CastFrame c s (channelEnd ch outcome code t) := (CastFrame.ite h.cdAbort h).calEnd

theorem CastFrame.calBit {ch b : Nat} {v : Bool} : CastFrame c s (t.setBit (CAL_STAT (calOfChannel ch)) b v) :=
  h.setBit (behind_enables _ (Nat.le_add_right_of_le (by decide)))

theorem CastFrame.outridersCast {k : Casting} : CastFrame c s (t.outridersCast k) := by
  refine h.each fun u h lane _ => ?_
  extract_lets o peer units t1
  split
  · extract_lets t2 t3
    have h1 : CastFrame c s t1 := h.each fun _ h _ _ => .ite h.channelEnd h
    have h2 : CastFrame c s t2 := .ite h1.handback.calBit h1
    have h3 : CastFrame c s t3 := .ite h2.takeover h2.calBit
    exact h3.setFld
  · exact .ite h.handback.calBit h

end

/-! Slices, groups and routes (Machine/Power.lean, Machine/Trips.lean, Machine/Wave.lean, Machine/Acquire.lean). -/

section
variable (h : CastFrame c s t)
include h

theorem CastFrame.setSliceState {i v : Nat} : CastFrame c s (t.setSliceState i v) := h.each fun _ h _ _ => h.setFld
theorem CastFrame.clampFollow {i : Nat} : CastFrame c s (t.clampFollow i) := .ite h (.ite h.setBit.evt h.setSlice.setBit)
theorem CastFrame.sliceOff {i : Nat} : CastFrame c s (t.sliceOff i) := h.setSlice.setSliceState.clampFollow.monRefresh

theorem CastFrame.refreshSlices : CastFrame c s t.refreshSlices := by
  refine h.each fun u h i _ => ?_
  extract_lets live t1 t2
  have h1 : CastFrame c s t1 := h.setBit.setBit
  have h2 : CastFrame c s t2 := .ite h1.forceBits h1
  exact .ite h1 (.ite h2.sliceOff h2)

theorem CastFrame.awgRoutesKept : CastFrame c s (awgRoutesKept t) := h.each fun _ h _ _ => .ite h.setAwg.setBit h
theorem CastFrame.acqRoutesKept : CastFrame c s (acqRoutesKept t) := h.each fun _ h _ _ => .ite h.setAcq.setBit h
theorem CastFrame.groupsCast : CastFrame c s t.groupsCast := h.each fun _ h _ _ => h.setFld.setBit
theorem CastFrame.ceilings {k : Casting} : CastFrame c s (t.ceilings k) := h.foldl fun _ h _ _ => h.force.force

end

/-! Contexts, sites and copies (Machine/RunAhead.lean, Machine/Assay.lean, Machine/Store.lean, Machine/Casting.lean). -/

theorem asyRegs_behind {n r : Nat} (h : r ∈ asyRegs n) : 0x1080 ≤ r := by
  simp only [asyRegs, ASY_RES_SEQ, ASY_RES_USER, ASY_RES_FLAGS, ASY_RES_END, ASY_RES_REPAIRS, List.mem_cons, List.not_mem_nil, or_false] at h
  omega

section
variable (h : CastFrame c s t)
include h

theorem CastFrame.soundReplaced {k : Nat} : CastFrame c s (soundReplaced k t) := h.setBit.setFld.setCtx
theorem CastFrame.caravanCast {await : List Await} {r : CaravanRec} : CastFrame c s (caravanCast await t r) := h.setCtx.force

theorem CastFrame.putSite {n : Nat} {x : Site} : CastFrame c s (t.putSite n x) :=
  h.setSite.wrN.setWide

theorem CastFrame.defineSite {n : Nat} : CastFrame c s (defineSite t n) :=
  ((h.setQueue.wr (behind_enables _ (by decide))).foldl fun _ h _ hr => h.wr (.inr (asyRegs_behind hr))).setBit.putSite

theorem CastFrame.setShare {n base bytes : Nat} : CastFrame c s (t.setShare n base bytes) := h.setWide.setWide.setWide.setWide

theorem CastFrame.sharesFull {k : Casting} : CastFrame c s (sharesFull k t) := by
  refine (h.each fun _ h _ _ => h.setShare).each fun u h p _ => ?_
  split
  · exact h
  · exact h.foldl fun _ h _ _ => h.setShare

theorem CastFrame.segLoadsCast : CastFrame c s (segLoadsCast t) :=
  CastFrame.foldl (t := { t with loads := t.loads.filter fun j => j.opcode ≠ 0x0010 }) (h.upd rfl rfl) fun _ h _ _ => h.complete

theorem CastFrame.showTiles : CastFrame c s t.showTiles := by
  refine CastFrame.setBit (h.each fun u h k hk => ?_) (by decide)
  have hk : k < 32 := List.mem_range.1 hk
  exact (h.setBit (.inl (by unfold CST_TILE_PRES; omega))).setBit (.inl (by unfold CST_TILE_DIFF; omega))

theorem CastFrame.loadOver : CastFrame { c with load := none } s t.loadOver := by
  rw [← h.cast]
  exact (h.setFld (by decide)).setCast

theorem CastFrame.setIdentity {d : List Byte} : CastFrame { c with identity := d } s (t.setIdentity d) := by
  rw [← h.cast]
  exact (h.setWords (by decide)).setCast

theorem CastFrame.nvBegin {kind : TxnKind} {bytes : Nat} : CastFrame c s (t.nvBegin kind bytes) :=
  CastFrame.setBit (t := { t with nv := { t.nv with txns := t.nv.txns ++ [⟨kind, max 1 ((bytes + 4095) / 4096)⟩] } }) (h.upd rfl rfl) (by decide)

end

/-! The full apply. -/

/-- A register that takes a value at once reads it. -/
theorem State.rd_force (s : State) (a b : Nat) (w : Word) : (s.force a w).rd b = if b = a then w else s.rd b := by
  have hWord : (s.rd a &&& ~~~0xFFFF#16) ||| (w &&& 0xFFFF#16) = w := by
    rw [show (0xFFFF#16) = BitVec.allOnes 16 from rfl]
    rw [BitVec.not_allOnes, BitVec.and_zero, BitVec.zero_or, BitVec.and_allOnes]
  have hRead := State.rd_congr (s := s.force a w) (t := s.wr a ((s.rd a &&& ~~~0xFFFF#16) ||| (w &&& 0xFFFF#16))) rfl b
  rw [hRead, hWord, State.rd_wr]

/-- Clearing the enable registers of a list clears those and no other. -/
theorem State.rd_each_enables_clear (l : List Nat) (s : State) (i : Nat) :
    (s.each l fun t j => t.force (CST_SITE_EN j) 0#16).rd (CST_SITE_EN i) = if i ∈ l then 0#16 else s.rd (CST_SITE_EN i) := by
  induction l generalizing s with
  | nil => simp [State.each]
  | cons j l ih =>
    have hTail := ih (s.force (CST_SITE_EN j) 0#16)
    rw [State.rd_force] at hTail
    have hReg : CST_SITE_EN i = CST_SITE_EN j ↔ i = j := by unfold CST_SITE_EN; omega
    simp only [hReg] at hTail
    refine hTail.trans ?_
    by_cases hi : i = j <;> simp [hi]

/-- At its apply tick a casting is in force whole with its identity, no load is in progress, every site enable is clear and
CST_EVT.LOAD_DONE is raised. -/
theorem applyFull_applies (j : CastJob) (k : Casting) (s : State) :
    (applyFull j k s).cast = ⟨some k, k.bodyDigest, none, s.cast.recast⟩ ∧ (∀ n < 512, (applyFull j k s).enabled n = false) ∧
      (applyFull j k s).bit CST_EVT 0 = true := by
  unfold applyFull
  extract_lets old s1 cast s2 s3 s4 s5 s6 s7 s8 s9
  have hClear : ∀ i < 32, s1.rd (CST_SITE_EN i) = 0#16 := fun i hi => by
    rw [State.rd_each_enables_clear, if_pos (List.mem_range.2 hi)]
  have hCast : s1.cast = s.cast := by
    refine List.foldlRecOn (motive := fun (t : State) => t.cast = s.cast) _ _ rfl fun t ht i _ => ?_
    exact ht
  have h2 : CastFrame { s1.cast with applied := some k } s1 s2 := CastFrame.refl.setCast.refreshPins.outridersCast
  have h3 : CastFrame { s1.cast with applied := some k } s1 s3 := h2.refreshSlices.acqRoutesKept.awgRoutesKept
  have h4 : CastFrame ⟨some k, k.bodyDigest, s1.cast.load, s1.cast.recast⟩ s1 s4 := (h3.setIdentity.wrN (by decide)).setWide (by decide)
  have h5 : CastFrame ⟨some k, k.bodyDigest, none, s1.cast.recast⟩ s1 s5 := ((h4.setBit (by decide)).setBit (by decide)).loadOver.showTiles
  have h6 : CastFrame ⟨some k, k.bodyDigest, none, s1.cast.recast⟩ s1 s6 := h5.groupsCast.ceilings.each fun _ h _ _ => h.soundReplaced
  have h7 : CastFrame ⟨some k, k.bodyDigest, none, s1.cast.recast⟩ s1 s7 := h6.foldl fun _ h _ _ => h.caravanCast
  have h8 : CastFrame ⟨some k, k.bodyDigest, none, s1.cast.recast⟩ s1 s8 := (h7.each fun _ h _ _ => h.defineSite).sharesFull.segLoadsCast
  have h9 : CastFrame ⟨some k, k.bodyDigest, none, s1.cast.recast⟩ s1 s9 := (h8.evt (by decide)).complete
  have hEvt : s9.bit CST_EVT 0 = true := s8.bit_evt_self CST_EVT 0 (by decide)
  rw [← hCast]
  have hOff : ∀ t, CastFrame ⟨some k, k.bodyDigest, none, s1.cast.recast⟩ s1 t → ∀ n < 512, t.enabled n = false := fun t ht n hn => by
    rw [State.enabled, State.bit, ht.enables _ (by omega), hClear _ (by omega)]
    simp
  split
  · refine ⟨h9.nvBegin.cast, hOff _ h9.nvBegin, ?_⟩
    rw [State.nvBegin, State.showNv, State.bit_setBit _ _ _ _ _ _ (by decide), if_neg (by decide)]
    exact hEvt
  · exact ⟨h9.cast, hOff _ h9, hEvt⟩

end Sys2Proof.Machine
end

section
/-!
PROOFS. The casting commands of the ring (R55, R56, R63 to R66, R70, R71): their acceptance, the refusals that end a load or a recast, and
what each row of a load and of a recast leaves.
-/

namespace Sys2Proof.Machine

variable {s r t : State}

/-! Acceptance by the ring (R336). -/

/-- What the check of a toll leaves alone. -/
structure TollKeeps (s t : State) : Prop where
  cast : t.cast = s.cast
  mem : t.mem = s.mem
  sched : t.sched = s.sched
  waiting : t.host.waiting = s.host.waiting

theorem TollKeeps.refl : TollKeeps s s := ⟨rfl, rfl, rfl, rfl⟩

theorem State.tollRefuse_keeps (s : State) (k code : Nat) : TollKeeps s (s.tollRefuse k code) := by
  have hNoted : TollKeeps s (((s.inc TOL_FAIL_CNT).evt TOL_EVT 0).wrN TOL_CODE code) :=
    ⟨rfl, rfl, rfl, State.evt_waiting ..⟩
  unfold State.tollRefuse
  extract_lets s1 x
  have h1 : TollKeeps s s1 := hNoted
  have hSlot : ∀ y, TollKeeps s (s1.setToll k y) := fun y => ⟨h1.cast, h1.mem, h1.sched, h1.waiting⟩
  refine ite_of (Q := TollKeeps s) (ite_of (Q := TollKeeps s) ?_ (hSlot _)) (ite_of (Q := TollKeeps s) (hSlot _) h1)
  obtain ⟨hCast, hMem, hSched, hWaiting⟩ := hSlot { x with fails := 0, lockUntil := some (s.time.up + 3000000000) }
  exact ⟨hCast, hMem, hSched, (State.evt_waiting ..).trans hWaiting⟩

theorem State.tollCheck_keeps (s : State) (e : List Byte) : TollKeeps s (s.tollCheck e).2 := by
  unfold State.tollCheck
  split
  · exact .refl
  · split
    · exact .refl
    · split
      · exact s.tollRefuse_keeps _ _
      · split
        · exact .refl
        · exact ⟨rfl, rfl, rfl, rfl⟩

section
variable {op : Nat} {e : List Byte} {own : State → Option Nat} (h : Accepted op e own s r)
include h

/-- An accepted command begins in the module that has accepted its entry. -/
theorem Accepted.ringCommand_eq {note : Nat → State → State} {go : Nat → State → State} :
    ringCommand op e own note go s = go (entTag e) r := by
  obtain ⟨hOp, hConsumed, hHeader, hStarted, hToll, hOwn, rfl⟩ := h
  have hStart : s.takeEntry.start.phase ≠ 3 := hStarted
  have hRecovery : s.takeEntry.recoveryRefuses op = false := by simp [State.recoveryRefuses, hStart]
  simp [ringCommand, hOp, hConsumed, hHeader, hRecovery, hToll, hOwn]

/-- Acceptance leaves the casting part, device memory, the stage work and the completions that wait. -/
theorem Accepted.keeps : TollKeeps s r := by
  obtain ⟨hCast, hMem, hSched, hWaiting⟩ := s.takeEntry.tollCheck_keeps e
  rw [h.after]
  exact ⟨hCast, hMem, hSched, hWaiting⟩

end

/-! Fields of one register. -/

/-- A field keeps its value where another field is set. -/
theorem bitsOf_withBits_apart (w : Word) {hi lo v top bot : Nat} (hl : lo ≤ hi) (hh : hi < 16) (hb : bot ≤ top) (hApart : top < lo ∨ hi < bot) :
    bitsOf (withBits w hi lo v) top bot = bitsOf w top bot := by
  apply Nat.eq_of_testBit_eq
  intro i
  unfold bitsOf
  simp only [Nat.testBit_mod_two_pow, Nat.testBit_shiftRight, BitVec.testBit_toNat, getLsbD_withBits w hi lo v _ hl hh]
  by_cases h : i < top - bot + 1
  · rw [if_neg (by omega)]
  · simp [h]

theorem State.fld_setFld_apart (s : State) (a : Nat) {hi lo v top bot : Nat} (hl : lo ≤ hi) (hh : hi < 16) (hb : bot ≤ top)
    (hApart : top < lo ∨ hi < bot) : (s.setFld a hi lo v).fld a top bot = s.fld a top bot := by
  rw [State.fld, State.rd_setFld, if_pos rfl, bitsOf_withBits_apart _ hl hh hb hApart]
  rfl

/-! The end of a load or a recast with a code (R56). -/

/-- The registers in which the end of a load or a recast shows. -/
def castErrRegs : List Nat := [CST_STAT, CST_ERR_CODE, CST_ERR_SECT, CST_ERR_REC, CST_ERR_REC + 2, CST_EVT]

/-- A load, or a recast where `recast` holds, of tag `tag` has ended with `e`; the casting in force and device memory stay. -/
structure CastEnds (recast : Bool) (tag : Nat) (e : CastErr) (s t : State) : Prop where
  applied : t.cast.applied = s.cast.applied
  mem : t.mem = s.mem
  code : t.rd CST_ERR_CODE = BitVec.ofNat 16 e.code
  event : t.bit CST_EVT (if recast then 3 else 1) = true
  completion : ∃ c : Cpl, t.host.waiting = s.host.waiting ++ [c] ∧ c.code = e.code ∧ c.tag = tag
  frame : Frame castErrRegs s t

theorem State.castError_code (s : State) (recast : Bool) (e : CastErr) : (s.castError recast e).rd CST_ERR_CODE = BitVec.ofNat 16 e.code := by
  rw [State.castError, State.rd_evt, if_neg (by decide), State.rd_setWide_two, if_neg (by decide), if_neg (by decide), State.wrN,
    State.rd_wr_ne _ _ (by decide),
    State.wrN, State.rd_wr_self]

theorem State.castError_event (s : State) (recast : Bool) (e : CastErr) :
    (s.castError recast e).bit CST_EVT (if recast then 3 else 1) = true :=
  State.bit_evt_self _ _ _ (by cases recast <;> decide)

theorem State.castError_waiting (s : State) (recast : Bool) (e : CastErr) : (s.castError recast e).host.waiting = s.host.waiting :=
  State.evt_waiting ..

theorem Frame.castError {l : List Nat} {recast : Bool} {e : CastErr} (h : Frame l s t) (hl : ∀ a ∈ castErrRegs, a ∈ l) :
    Frame l s (t.castError recast e) := by
  refine Frame.evt (((h.wrN (hl _ (by decide))).wrN (hl _ (by decide))).setWide fun i hi => hl _ ?_) (hl _ (by decide))
  interval_cases i <;> decide

/-- A refusal shows, and its command completes. -/
theorem CastEnds.of_over {recast : Bool} {tag op : Nat} {e : CastErr} {u : State} (hApplied : u.cast.applied = s.cast.applied)
    (hMem : u.mem = s.mem) (hWaiting : u.host.waiting = s.host.waiting) (hFrame : Frame castErrRegs s u) :
    CastEnds recast tag e s ((u.castError recast e).complete tag op e.code e.sect e.idx 0) where
  applied := hApplied
  mem := hMem
  code := u.castError_code recast e
  event := u.castError_event recast e
  completion := ⟨_, congrArg (· ++ [_]) ((u.castError_waiting recast e).trans hWaiting), rfl, rfl⟩
  frame := (hFrame.castError fun _ h => h).complete

theorem Frame.loadOver (h : Frame castErrRegs s t) : Frame castErrRegs s t.loadOver :=
  Frame.upd (t := t.setFld CST_STAT 15 13 _) (h.setFld (by decide)) rfl rfl rfl rfl rfl rfl rfl

theorem Frame.recastOver (h : Frame castErrRegs s t) : Frame castErrRegs s t.recastOver :=
  Frame.upd (t := (t.setFld CST_STAT 12 11 0).setFld CST_STAT 5 0 0) ((h.setFld (by decide)).setFld (by decide)) rfl rfl rfl rfl rfl rfl rfl

theorem loadEnds_ends {j : CastJob} {e : CastErr} (h : s.cast.load = some j) :
    (loadEnds e s).cast.load = none ∧ CastEnds false j.tag e s (loadEnds e s) := by
  simp only [loadEnds, h]
  exact ⟨rfl, .of_over rfl rfl rfl Frame.refl.loadOver⟩

theorem recastEnds_ends {j : CastJob} {e : CastErr} (h : s.cast.recast = some j) :
    (recastEnds e s).cast.recast = none ∧ CastEnds true j.tag e s (recastEnds e s) := by
  simp only [recastEnds, h]
  have hItem : Frame castErrRegs s { s with sched := { s.sched with waiting := s.sched.waiting.filter fun w => w.kind ≠ WorkKind.recast } } :=
    Frame.refl.upd rfl rfl rfl rfl rfl rfl rfl
  exact ⟨rfl, .of_over rfl rfl rfl hItem.recastOver⟩

/-! A full load (R63 to R66). -/

theorem castChecked_idle {data : Option (List Byte)} (h : s.cast.load = none) : castChecked data s = s := by
  rw [castChecked, h]

theorem castLoadApply_idle (h : s.cast.load = none) : castLoadApply s = s := by
  rw [castLoadApply, h]

section
variable {j : CastJob} {data : Option (List Byte)} {f : List Byte} (hLoad : s.cast.load = some j) (hPhase : j.phase = 0)
  (hLen : 256 ≤ j.len) (hData : s.castData j data = some f)
include hLoad hPhase hLen hData

theorem castChecked_refused {e : CastErr} (h : s.judgeFull j.len f = .error e) : castChecked data s = loadEnds e s := by
  have hShort : ¬ j.len < 256 := by omega
  simp [castChecked, hLoad, hPhase, hShort, hData, h]

theorem castChecked_built {k : Casting} (h : s.judgeFull j.len f = .ok k) : castChecked data s =
    { s with cast := { s.cast with load := some { j with phase := 1, built := some k, file := f.take (256 + hdrBodyLen f) } } } := by
  have hShort : ¬ j.len < 256 := by omega
  simp [castChecked, hLoad, hPhase, hShort, hData, h]

end

section
variable {j : CastJob} {k : Casting} (hLoad : s.cast.load = some j) (hBuilt : j.built = some k)
include hLoad hBuilt

theorem castLoadApply_mismatch (h : j.disturbed = true ∨ s.tilesDigest ≠ k.tileDigest) : castLoadApply s = loadEnds ⟨0x0C0A, 0, 0⟩ s := by
  simp only [castLoadApply, hLoad, hBuilt]
  exact if_pos (by simpa using h)

theorem castLoadApply_match (hStill : j.disturbed = false) (hTiles : s.tilesDigest = k.tileDigest) : castLoadApply s = applyFull j k s := by
  simp only [castLoadApply, hLoad, hBuilt]
  exact if_neg (by simp [hStill, hTiles])

end

/-! A recast (R55, R70, R71). -/

/-- A refusal of the header pass has a code. -/
theorem headerCode_ne_zero (e : HdrEnv) (f : List Byte) : headerCode e f ≠ some 0 := by
  unfold headerCode
  extract_lets p bl
  repeat refine ite_of (Q := (· ≠ some 0)) (by simp) ?_
  simp

theorem ite_some_eq_none {p : Prop} [Decidable p] {c : Nat} {x : Option Nat} : (if p then some c else x) = none ↔ ¬ p ∧ x = none := by
  split <;> simp [*]

/-- A header that passes for a recast names a caravan. -/
theorem headerCode_none_target {e : HdrEnv} {f : List Byte} (h : headerCode e f = none) (hRecast : e.recast = true) : byteAt f 0x16 < 64 := by
  simp only [headerCode, ite_some_eq_none] at h
  obtain ⟨-, -, -, -, -, -, hFields, hScope, -⟩ := h
  have hPartial : hdrPartial f = true := (not_not.1 hScope).trans hRecast
  simp only [hPartial, if_true, not_or] at hFields
  obtain ⟨-, -, -, hTarget, -⟩ := hFields
  omega

/-- The job that an accepted CAST_RECAST from host memory begins, its header not yet judged. -/
def recastJob (tag : Nat) (e : List Byte) : CastJob := ⟨tag, 0, castSlot e, 0xFF, castAddr e, castLength e, none, 0, none, [], false⟩

/-- The module while the header of a recast is judged. -/
def State.recasting (s : State) (j : CastJob) : State := { s.setFld CST_STAT 12 11 1 with cast := { s.cast with recast := some j } }

/-- The module once the header `f` of a recast has passed, and is kept. -/
def State.recastTaken (s : State) (j : CastJob) (f : List Byte) : State :=
  { s.setFld CST_STAT 5 0 (byteAt f 0x16) with cast := { s.cast with recast := some { j with target := some (byteAt f 0x16), file := f.take 256 } } }

/-- What the header pass needs of the module is the same while it is judged. -/
theorem State.recasting_targetBusy (s : State) (j : CastJob) (c : Nat) : (s.recasting j).targetBusy c = s.targetBusy c := by
  have hStat : ∀ d, (s.recasting j).rd (SEQ_STAT d) = s.rd (SEQ_STAT d) := fun d =>
    State.rd_wr_ne s _ (by unfold SEQ_STAT CST_STAT; omega)
  simp only [State.targetBusy, State.ctxActive, State.fld, hStat]
  rfl

section
variable {tag : Nat} {e f : List Byte} (hSource : castSource e = 0) (hLen : 256 ≤ castLength e)
include hSource hLen

/-- A recast whose header host memory gives is judged on it: it ends with the code of the header pass or of R70's conditions, or takes
the header. -/
theorem recastBegin_judges (s : State) {u : State} (hu : s.recasting (recastJob tag e) = u) : recastBegin tag e (some f) s =
    (headerCode (u.hdrEnv true (castLength e)) f).elim
      (if leAt f 0x20 8 ≠ s.casting.id ∨ Sys2Proof.slice f 0x68 64 ≠ s.casting.tileDigest then recastEnds ⟨0x0C72, 0, 0⟩ u
        else if u.targetBusy (byteAt f 0x16) then recastEnds ⟨0x0C74, 0, 0⟩ u else u.recastTaken (recastJob tag e) f)
      fun c => recastEnds ⟨c, 0, 0⟩ u := by
  unfold recastBegin
  extract_lets len j stat cast s1 castOfJob
  have hl : len = castLength e := if_neg (by omega)
  have hj : j = recastJob tag e := by simp [j, recastJob, hl, hSource]
  have hs1 : s1 = u := by rw [← hu, ← hj]; rfl
  have hShort : ¬ len < 256 := by omega
  have hData : s1.castData j (some f) = some f := by simp [State.castData, hj, recastJob]
  rw [if_neg hShort, hData]
  clear_value s1
  subst hs1
  rw [hl, hj]
  cases hCode : headerCode (s1.hdrEnv true (castLength e)) f <;> simp only [hCode] <;> rfl

end

theorem headerCode_none_length {e : HdrEnv} {f : List Byte} (h : headerCode e f = none) : 256 ≤ e.len := by
  simp only [headerCode, ite_some_eq_none] at h
  exact not_lt.1 h.1

section
variable {tag : Nat} {e f : List Byte} (hSource : castSource e = 0)
include hSource

/-- Whatever its header, a recast begins or ends with a code. -/
theorem recastBegin_outcome (hLen : 256 ≤ castLength e) (s : State) : let u := s.recasting (recastJob tag e)
    recastBegin tag e (some f) s = u.recastTaken (recastJob tag e) f ∨ ∃ r : CastErr, r.code ≠ 0 ∧ recastBegin tag e (some f) s = recastEnds r u := by
  intro u
  rw [recastBegin_judges hSource hLen s rfl]
  cases hCode : headerCode (u.hdrEnv true (castLength e)) f with
  | some c => exact .inr ⟨_, fun h => headerCode_ne_zero _ _ (hCode.trans (congrArg some h)), rfl⟩
  | none =>
    rw [Option.elim_none]
    split
    · exact .inr ⟨_, by decide, rfl⟩
    · split
      · exact .inr ⟨_, by decide, rfl⟩
      · exact .inl rfl

/-- A recast whose header passes takes it. -/
theorem recastBegin_takes (hCode : headerCode (s.hdrEnv true (castLength e)) f = none) (hId : leAt f 0x20 8 = s.casting.id)
    (hTiles : Sys2Proof.slice f 0x68 64 = s.casting.tileDigest) (hFree : s.targetBusy (byteAt f 0x16) = false) :
    recastBegin tag e (some f) s = (s.recasting (recastJob tag e)).recastTaken (recastJob tag e) f := by
  have hStill : headerCode ((s.recasting (recastJob tag e)).hdrEnv true (castLength e)) f = none := hCode
  rw [recastBegin_judges hSource (headerCode_none_length hCode) s rfl, hStill, Option.elim_none, if_neg (by simp [hId, hTiles]),
    if_neg (by simp [State.recasting_targetBusy, hFree])]

end

/-- An accepted CAST_RECAST is judged in the module that has accepted it. -/
theorem Accepted.exec_castRecast {entry : List Byte} {r : State} (h : Accepted 0x0002 (padTo 128 entry) (castRecastCode (padTo 128 entry)) s r)
    (header : Option (List Byte)) :
    exec (.castRecast entry header) s = .next (recastBegin (entTag (padTo 128 entry)) (padTo 128 entry) header r) :=
  congrArg Host.Outcome.next h.ringCommand_eq

theorem State.recastTaken_stat (s : State) (j : CastJob) (f : List Byte) : ((s.recasting j).recastTaken j f).fld CST_STAT 12 11 = 1 :=
  ((s.recasting j).fld_setFld_apart CST_STAT (by decide) (by decide) (by decide) (by decide)).trans
    (s.fld_setFld CST_STAT 12 11 1 (by decide) (by decide))

theorem State.recastTaken_target (s : State) (j : CastJob) {f : List Byte} (h : byteAt f 0x16 < 64) :
    (s.recastTaken j f).fld CST_STAT 5 0 = byteAt f 0x16 :=
  (s.fld_setFld CST_STAT 5 0 _ (by decide) (by decide)).trans (Nat.mod_eq_of_lt h)

/-! CAST_CANCEL (R71). -/

theorem State.cancellable_of_keeps (h : TollKeeps s t) : t.cancellable = s.cancellable := by
  rw [State.cancellable, h.cast, h.sched]
  rfl

theorem State.complete_waiting (s : State) (tag op code d0 d1 d2 : Nat) :
    ∃ c : Cpl, (s.complete tag op code d0 d1 d2).host.waiting = s.host.waiting ++ [c] ∧ c.code = code ∧ c.tag = tag := ⟨_, rfl, rfl, rfl⟩

theorem castCancel_late (tag : Nat) (h : s.cancellable = false) : castCancel tag s = s.complete tag 0x0003 0x0C7A 0 0 0 := by
  rw [castCancel, h]
  rfl

theorem castCancel_ends (tag : Nat) (h : s.cancellable = true) :
    castCancel tag s = (recastEnds ⟨0x0C76, 0, 0⟩ s).complete tag 0x0003 0 0 0 0 := if_pos h

/-! The preparation of a recast ends (R71). -/

/-- The module once the body of a recast has passed, its application item still to arrive. -/
def State.recastBuilt (s : State) (j : CastJob) (k : Casting) : State :=
  { s.setFld CST_STAT 12 11 2 with cast := { s.cast with recast := some { j with phase := 1, built := some k } } }

theorem recastReady_idle {data : Option (List Byte)} (h : s.cast.recast = none) : recastReady data s = s := by
  rw [recastReady, h]

section
variable {j : CastJob} {data : Option (List Byte)} {f : List Byte} (hRecast : s.cast.recast = some j) (hPhase : j.phase = 0)
  (hTarget : j.target.isSome = true) (hData : s.castData j data = some f)
include hRecast hPhase hTarget hData

theorem recastReady_refused {e : CastErr} (h : s.judgePartial (j.file ++ f.drop 256) = .error e) : recastReady data s = recastEnds e s := by
  have hTaken : j.target ≠ none := Option.isSome_iff_ne_none.1 hTarget
  simp [recastReady, hRecast, hPhase, hTaken, hData, h]

theorem recastReady_ready {k : Casting} (h : s.judgePartial (j.file ++ f.drop 256) = .ok k) :
    recastReady data s = (s.recastBuilt j k).arrive 4 k.target 1024 .recast := by
  have hTaken : j.target ≠ none := Option.isSome_iff_ne_none.1 hTarget
  simp [recastReady, State.recastBuilt, hRecast, hPhase, hTaken, hData, h]

end

/-! A stage work item arrives (R469). -/

theorem State.admitNote_sched (s : State) (k : WorkKind) : (s.admitNote k).sched = s.sched := by cases k <;> rfl
theorem State.admitNote_cast (s : State) (k : WorkKind) : (s.admitNote k).cast = s.cast := by cases k <;> rfl

theorem State.admitItem_hasItem (s : State) (w : WorkItem) : (s.admitItem w).hasItem w.kind := by
  refine .inr ⟨(w, max s.time.up s.sched.idleFrom + w.cost), ?_, rfl⟩
  rw [State.admitItem, State.admitNote_sched]
  exact List.mem_append_right _ (List.mem_singleton_self _)

theorem State.deferItem_hasItem (s : State) (w : WorkItem) : (s.deferItem w).hasItem w.kind := by
  refine .inl ⟨{ w with deferrals := w.deferrals + 1, firstDefer := if w.deferrals = 0 then s.sched.seq else w.firstDefer }, ?_, rfl⟩
  rw [State.deferItem, State.log_sched, State.evt_sched, State.inc, State.incBy_sched]
  exact List.mem_append_right _ (List.mem_singleton_self _)

/-- An item that arrives waits, or is admitted, and the casting part stays. -/
theorem State.arrive_item (s : State) (cls origin cost : Nat) (kind : WorkKind) :
    (s.arrive cls origin cost kind).hasItem kind ∧ (s.arrive cls origin cost kind).cast = s.cast := by
  unfold State.arrive
  extract_lets w q s1 act
  split
  · exact ⟨.inl ⟨w, List.mem_append_right _ (List.mem_singleton_self _), rfl⟩, rfl⟩
  · split
    · exact ⟨s1.admitItem_hasItem w, State.admitNote_cast ..⟩
    · refine ⟨s1.deferItem_hasItem w, ?_⟩
      rw [State.deferItem, State.log_cast, State.evt_cast, State.inc, State.incBy_cast]

/-! Stored castings (R66). -/

/-- The module with the first transaction of non-volatile storage ended, and the casting `content` stored in `slot`. -/
def State.castStored (s : State) (slot : Nat) (content : List Byte) (rest : List Txn) : State :=
  { s with nv := { s.nv with txns := rest, castings := tabSet (fun _ => none) s.nv.castings slot (some content) } }

theorem storeDone_stores {slot : Nat} {content : List Byte} {rest : List Txn} (h : s.nv.txns = ⟨.casting slot content, 0⟩ :: rest) :
    storeDone s = (s.castStored slot content rest).showNv.evt CST_EVT 6 := by
  simp only [storeDone, h]
  rfl

theorem State.castStored_castings (s : State) (slot : Nat) (content : List Byte) (rest : List Txn) :
    ((s.castStored slot content rest).showNv.evt CST_EVT 6).nv.castings = tabSet (fun _ => none) s.nv.castings slot (some content) := rfl

theorem State.castStored_rd (s : State) {slot a : Nat} {content : List Byte} {rest : List Txn} (h : a ∉ [CST_EVT, THM_STAT]) :
    ((s.castStored slot content rest).showNv.evt CST_EVT 6).rd a = s.rd a := by
  obtain ⟨hEvt, hStat⟩ : a ≠ CST_EVT ∧ a ≠ THM_STAT := by simpa using h
  rw [State.rd_evt, if_neg hEvt]
  exact State.rd_wr_ne _ _ hStat

end Sys2Proof.Machine

open Sys2Proof Sys2Proof.Machine

/-- Settles O47: each row by what it makes of the load or the recast in progress; a refusal ends it with its code. -/
theorem castingsAreJudgedAndApplied : Obligations.CastingsAreJudgedAndApplied := by
  unfold Obligations.CastingsAreJudgedAndApplied
  refine ⟨fun entry s r => ?_, fun data s => ?_, fun data s => ?_, fun slot content rest s hTxn => ?_⟩
  · -- The commands of the ring.
    refine ⟨fun h => ?_, fun f h hSource hLen hSome => ?_, fun f h hSource hCode hId hTiles hFree => ?_,
      fun h => ⟨fun hLate => ?_, fun j hCan hJob => ?_⟩⟩
    · have hApplied := congrArg CastState.applied h.keeps.cast
      exact ⟨_, _, congrArg Host.Outcome.next h.ringCommand_eq, rfl, rfl, rfl, rfl, hApplied,
        r.fld_setFld CST_STAT 15 13 1 (by decide) (by decide), h.keeps.mem⟩
    · obtain ⟨f, rfl⟩ := Option.isSome_iff_exists.1 hSome
      have hApplied := congrArg CastState.applied h.keeps.cast
      refine ⟨_, h.exec_castRecast (some f), ?_⟩
      obtain hTaken | ⟨e, hCode, hEnds⟩ := recastBegin_outcome hSource hLen r
      · rw [hTaken]
        exact ⟨hApplied, h.keeps.mem, .inl ⟨_, rfl, rfl, rfl, State.recastTaken_stat ..⟩⟩
      · obtain ⟨hOver, hE⟩ := recastEnds_ends (s := r.recasting (recastJob (entTag (padTo 128 entry)) (padTo 128 entry))) (e := e) rfl
        obtain ⟨c, hC, hCplCode, hTag⟩ := hE.completion
        rw [hEnds]
        exact ⟨hE.applied.trans hApplied, hE.mem.trans h.keeps.mem, .inr ⟨hOver, hE.event, c,
          hC.trans (congrArg (· ++ [c]) h.keeps.waiting), hTag, hCplCode ▸ hCode⟩⟩
    · have hTaken := h.exec_castRecast (some f)
      rw [recastBegin_takes hSource hCode hId hTiles hFree] at hTaken
      exact ⟨_, _, hTaken, rfl, rfl, rfl, rfl, rfl, State.recastTaken_stat .., State.recastTaken_target _ _ (headerCode_none_target hCode rfl),
        (congrArg CastState.applied h.keeps.cast :), h.keeps.mem⟩
    · have hStill := (State.cancellable_of_keeps h.keeps).trans hLate
      exact ⟨_, _, congrArg Host.Outcome.next (h.ringCommand_eq.trans (castCancel_late _ hStill)), congrArg (· ++ [_]) h.keeps.waiting,
        rfl, rfl, h.keeps.cast⟩
    · have hStill := (State.cancellable_of_keeps h.keeps).trans hCan
      obtain ⟨hOver, hE⟩ := recastEnds_ends (e := ⟨0x0C76, 0, 0⟩) ((congrArg CastState.recast h.keeps.cast).trans hJob)
      obtain ⟨c, hC, hCode, hTag⟩ := hE.completion
      obtain ⟨d, hD, hDCode, hDTag⟩ := (recastEnds ⟨0x0C76, 0, 0⟩ r).complete_waiting (entTag (padTo 128 entry)) 0x0003 0 0 0 0
      refine ⟨_, c, d, congrArg Host.Outcome.next (h.ringCommand_eq.trans (castCancel_ends _ hStill)), hOver, ?_, hCode, hTag, hDCode, hDTag⟩
      rw [hD, hC, h.keeps.waiting, List.append_assoc, List.singleton_append]
  · -- The checks and the apply tick of a load.
    refine ⟨fun hNone => ?_, fun j f hLoad hPhase hLen hData => ⟨fun e hErr => ?_, fun k hOk => ?_⟩,
      fun j k hLoad hBuilt => ⟨fun hGone => ?_, fun hStill hTiles => ?_⟩⟩
    · exact ⟨congrArg Host.Outcome.next (castChecked_idle hNone), congrArg Host.Outcome.next (castLoadApply_idle hNone)⟩
    · obtain ⟨hOver, hE⟩ := loadEnds_ends (e := e) hLoad
      obtain ⟨c, hC, hCode, hTag⟩ := hE.completion
      exact ⟨_, c, congrArg Host.Outcome.next (castChecked_refused hLoad hPhase hLen hData hErr), hOver, hE.applied, hE.code, hE.event, hC,
        hCode, hTag, hE.frame⟩
    · exact ⟨_, _, congrArg Host.Outcome.next (castChecked_built hLoad hPhase hLen hData hOk), rfl, rfl, rfl,
        Frame.refl.upd rfl rfl rfl rfl rfl rfl rfl⟩
    · obtain ⟨hOver, hE⟩ := loadEnds_ends (e := ⟨0x0C0A, 0, 0⟩) hLoad
      obtain ⟨c, hC, hCode, hTag⟩ := hE.completion
      exact ⟨_, c, congrArg Host.Outcome.next (castLoadApply_mismatch hLoad hBuilt hGone), hOver, hE.applied, hC, hCode, hTag⟩
    · obtain ⟨hCast, hOff, hEvent⟩ := applyFull_applies j k s
      refine ⟨_, congrArg Host.Outcome.next (castLoadApply_match hLoad hBuilt hStill hTiles), ?_, ?_, ?_, hOff, hEvent⟩ <;> rw [hCast]
  · -- The end of a recast's preparation.
    refine ⟨fun hNone => ?_, fun j f hJob hPhase hTarget hData => ⟨fun e hErr => ?_, fun k hOk => ?_⟩⟩
    · exact congrArg Host.Outcome.next (recastReady_idle hNone)
    · obtain ⟨hOver, hE⟩ := recastEnds_ends (e := e) hJob
      obtain ⟨c, hC, hCode, hTag⟩ := hE.completion
      exact ⟨_, c, congrArg Host.Outcome.next (recastReady_refused hJob hPhase hTarget hData hErr), hOver, hE.event, hC, hCode, hTag, hE.frame⟩
    · obtain ⟨hItem, hCast⟩ := (s.recastBuilt j k).arrive_item 4 k.target 1024 .recast
      exact ⟨_, _, congrArg Host.Outcome.next (recastReady_ready hJob hPhase hTarget hData hOk), congrArg CastState.recast hCast, rfl, hItem,
        (congrArg CastState.applied hCast :)⟩
  · refine ⟨_, congrArg Host.Outcome.next (storeDone_stores hTxn), ?_, rfl, State.bit_evt_self _ _ _ (by decide), fun n hn => ?_,
      fun a ha => s.castStored_rd ha⟩
    · rw [State.castStored_castings]
      exact tabGet_set_self
    · rw [State.castStored_castings]
      exact tabGet_set_ne hn

end

section
/-!
PROOFS. Host accesses to device memory (R98, R321, R331, R333, R378): the rule for each kind of block that a store or a load meets.
-/

namespace Sys2Proof.Machine

variable {s t : State}

/-! Blocks of bytes. -/

@[simp] theorem length_padTo (n : Nat) (l : List Byte) : (padTo n l).length = n := by
  simp only [padTo, List.length_take, List.length_append, List.length_replicate]
  omega

@[simp] theorem State.length_memRead (s : State) (a n : Nat) : (s.memRead a n).length = n := by
  induction n generalizing a with
  | zero => rfl
  | succ n ih => rw [State.memRead, List.length_cons, ih]

theorem State.getElem_memRead (s : State) {a n i : Nat} (h : i < (s.memRead a n).length) : (s.memRead a n)[i] = s.memByte (a + i) := by
  induction n generalizing a i with
  | zero => exact absurd h (Nat.not_lt_zero i)
  | succ n ih =>
    cases i with
    | zero => rfl
    | succ i => exact (ih (a := a + 1) (by simpa using h)).trans (by rw [Nat.add_assoc, Nat.add_comm 1])

/-- What a store put into memory reads back. -/
theorem State.memRead_memWrite (s : State) (a : Nat) (l : List Byte) : (s.memWrite a l).memRead a l.length = l :=
  List.ext_getElem (by simp) fun i _ h => by rw [State.getElem_memRead, State.memByte_memWrite_inside s h]

/-! Stores (R98, R321). -/

/-- The read port and the blocks known to be lost are outside every frame. -/
theorem Frame.port {l : List Nat} {p : ReadPort} {w : Waybills} (h : Frame l s t) : Frame l s { t with read := p, way := w } :=
  h.upd rfl rfl rfl rfl rfl rfl rfl

/-- A dropped store shows in the write protection's registers: its count, and the address of the first one. -/
structure StoreDropped (s t : State) : Prop where
  event : t.bit SEQ_WP_STAT 0 = true
  count : t.rdN SEQ_WP_CNT = min 65535 (s.rdN SEQ_WP_CNT + 1)
  frame : Frame [SEQ_WP_STAT, SEQ_WP_CNT, SEQ_WP_PART, SEQ_WP_ADDR, SEQ_WP_ADDR + 2, SEQ_WP_ADDR + 4] s t

theorem State.dropStore_dropped (s : State) (part a : Nat) : StoreDropped s (s.dropStore part a) := by
  have hAddr : ∀ i < 3, SEQ_WP_ADDR + 2 * i ∈ [SEQ_WP_STAT, SEQ_WP_CNT, SEQ_WP_PART, SEQ_WP_ADDR, SEQ_WP_ADDR + 2, SEQ_WP_ADDR + 4] := by decide
  unfold State.dropStore
  extract_lets u
  have hCount : u.rd SEQ_WP_CNT = s.rd SEQ_WP_CNT :=
    ite_of (Q := fun v : State => v.rd SEQ_WP_CNT = s.rd SEQ_WP_CNT) rfl
      (by simp [State.setWide, State.wrN, State.rd_wr, SEQ_WP_CNT, SEQ_WP_PART, SEQ_WP_ADDR])
  have hFrame : Frame _ s u := .ite .refl ((Frame.refl.wrN (by simp)).setWide hAddr)
  refine ⟨?_, ?_, (hFrame.setBit (by simp)).inc (by simp)⟩
  · rw [State.bit, State.rd_inc, if_neg (by decide)]
    exact State.bit_setBit_self u true (by decide)
  · have hKeep : (u.setBit SEQ_WP_STAT 0 true).rd SEQ_WP_CNT = s.rd SEQ_WP_CNT := (State.rd_wr_ne u _ (by decide)).trans hCount
    rw [State.rdN, State.rd_inc, if_pos rfl, State.rdN, hKeep, BitVec.toNat_ofNat]
    exact Nat.mod_eq_of_lt (by omega)

/-- The block that a store leaves, no longer known to be lost. -/
def State.blockStored (s : State) (a : Nat) (d : List Byte) : State :=
  { s.memWrite a (padTo 64 d) with way := { s.way with poison := s.way.poison.erase a } }

section
variable {dpa : Nat} {d : List Byte}

theorem memStoreBlock_castOut (h : s.stackOut (dpa / 64 * 64 / stackSize) = true) : memStoreBlock dpa d s = s.evt HST_EVT 5 := if_pos h

variable (hIn : s.stackOut (dpa / 64 * 64 / stackSize) = false)
include hIn

/-- The host reads the capture memory and the module region of a stack and does not store there. -/
theorem memStoreBlock_capture (h : captureStart ≤ dpa / 64 * 64 % stackSize) : memStoreBlock dpa d s = s :=
  (if_neg (by simp [hIn])).trans (if_pos h)

theorem memStoreBlock_pattern (h : dpa / 64 * 64 % stackSize < captureStart) : memStoreBlock dpa d s =
    (partitionOf s.casting (dpa / 64 * 64)).elim (s.blockStored (dpa / 64 * 64) d) fun x =>
      if x.1.kind == 1 && s.bytesActive x.1 (x.2, 64) then s.dropStore x.1.part x.2 else s.blockStored (dpa / 64 * 64) d := by
  have hLow : ¬ dpa / 64 * 64 % stackSize ≥ captureStart := Nat.not_le.2 h
  unfold memStoreBlock
  simp only [hIn, hLow, Bool.false_eq_true, if_false]
  cases partitionOf s.casting (dpa / 64 * 64) <;> rfl

/-- A store outside the pattern entries that running caravans hold reaches memory. -/
theorem memStoreBlock_stores (h : dpa / 64 * 64 % stackSize < captureStart)
    (hFree : ∀ r p, partitionOf s.casting (dpa / 64 * 64) = some (r, p) → r.kind = 1 → s.bytesActive r (p, 64) = false) :
    memStoreBlock dpa d s = s.blockStored (dpa / 64 * 64) d := by
  rw [memStoreBlock_pattern hIn h]
  cases hPart : partitionOf s.casting (dpa / 64 * 64) with
  | none => rfl
  | some x =>
    refine if_neg fun hHeld => ?_
    simp only [Bool.and_eq_true, beq_iff_eq] at hHeld
    obtain ⟨hKind, hActive⟩ := hHeld
    exact Bool.false_ne_true ((hFree _ _ hPart hKind).symm.trans hActive)

theorem memStoreBlock_held {r : StoreRec} {p : Nat} (h : dpa / 64 * 64 % stackSize < captureStart)
    (hPart : partitionOf s.casting (dpa / 64 * 64) = some (r, p)) (hKind : r.kind = 1) (hActive : s.bytesActive r (p, 64) = true) :
    memStoreBlock dpa d s = s.dropStore r.part p := by
  rw [memStoreBlock_pattern hIn h, hPart]
  exact if_pos (by simp [hKind, hActive])

end

/-! Loads (R333, R378). -/

section
variable {dpa : Nat}

theorem memLoadBlock_castOut (h : s.stackOut (dpa / 64 * 64 / stackSize) = true) :
    memLoadBlock dpa s = { s.evt HST_EVT 5 with read := ⟨0, [], true⟩ } := if_pos h

variable (hIn : s.stackOut (dpa / 64 * 64 / stackSize) = false)
include hIn

/-- The poison of a lost block lasts for one read. -/
theorem memLoadBlock_lost (h : s.way.poison.contains (dpa / 64 * 64) = true) : memLoadBlock dpa s =
    { s with read := ⟨0, [], true⟩, way := { s.way with poison := s.way.poison.erase (dpa / 64 * 64) } } :=
  (if_neg (by simp [hIn])).trans (if_pos h)

theorem memLoadBlock_reads (h : s.way.poison.contains (dpa / 64 * 64) = false) (hLow : dpa / 64 * 64 % stackSize < regionStart) :
    memLoadBlock dpa s = { s with read := ⟨0, s.memRead (dpa / 64 * 64) 64, false⟩ } := by
  have hBlock : s.hostBlock (dpa / 64 * 64) = s.memRead (dpa / 64 * 64) 64 := if_pos hLow
  unfold memLoadBlock
  simp only [hIn, h, hBlock, Bool.false_eq_true, if_false]

end

theorem exec_cxlMemWrite {dpa : Nat} (h : dpa < 2 ^ 36) (d : List Byte) (s : State) :
    exec (.cxlMemWrite dpa d) s = .next (memStoreBlock dpa d s) := if_neg (Nat.not_le.2 h)

theorem exec_cxlMemRead {dpa : Nat} (h : dpa < 2 ^ 36) (s : State) : exec (.cxlMemRead dpa) s = .next (memLoadBlock dpa s) :=
  if_neg (Nat.not_le.2 h)

end Sys2Proof.Machine

open Sys2Proof Sys2Proof.Machine

/-- Settles O45: each kind of block by its own rule. -/
theorem hostAccessesToDeviceMemory : Obligations.HostAccessesToDeviceMemory := by
  unfold Obligations.HostAccessesToDeviceMemory
  refine fun dpa s => ⟨fun h => ⟨if_pos h, fun d => if_pos h⟩, fun hd => ?_⟩
  refine ⟨fun hOut => ⟨fun d => ?_, ?_⟩, fun hIn => ⟨fun d => ⟨fun hCap => ?_, fun hPat => ⟨fun hFree => ?_, fun r p hPart hKind hActive => ?_⟩⟩,
    fun hLost => ?_, fun hSound hLow => ?_⟩⟩
  · rw [exec_cxlMemWrite hd, memStoreBlock_castOut hOut]
    exact ⟨_, rfl, State.bit_evt_self _ _ _ (by decide), Frame.refl.evt (by simp)⟩
  · rw [exec_cxlMemRead hd, memLoadBlock_castOut hOut]
    exact ⟨_, rfl, rfl, State.bit_evt_self _ _ _ (by decide), (Frame.refl.evt (by simp)).port (w := s.way)⟩
  · rw [exec_cxlMemWrite hd, memStoreBlock_capture hIn hCap]
  · rw [exec_cxlMemWrite hd, memStoreBlock_stores hIn hPat hFree]
    refine ⟨_, rfl, ?_, fun x hx => State.memByte_memWrite_outside s (by simpa using hx), rfl, rfl, rfl, rfl⟩
    have hRead := s.memRead_memWrite (dpa / 64 * 64) (padTo 64 d)
    rwa [length_padTo] at hRead
  · rw [exec_cxlMemWrite hd, memStoreBlock_held hIn hPat hPart hKind hActive]
    obtain ⟨hEvent, hCount, hFrame⟩ := s.dropStore_dropped r.part p
    exact ⟨_, rfl, hEvent, hCount, hFrame⟩
  · rw [exec_cxlMemRead hd, memLoadBlock_lost hIn hLost]
    exact ⟨_, rfl, rfl, rfl, Frame.refl.port⟩
  · rw [exec_cxlMemRead hd, memLoadBlock_reads hIn hSound hLow]
    exact ⟨_, rfl, rfl, rfl, Frame.refl.port (w := s.way)⟩

end

section
/-!
PROOFS. A start over the results of an earlier run (R110, R173, R185, R190). What a context still awaits is processed as its next run
begins, and nothing in the state bounds the sites that it names: ASY_READY of a site beyond the 512 of the module lies in other registers.
-/

namespace Sys2Proof.Machine

/-- One caravan with one site, its patterns in stack 0. -/
def startCasting : Casting :=
  { Casting.none with stores := [⟨0, 1, 1, 0, 1⟩], caravans := [⟨0, 0, 256, 0, 1, 1⟩], sites := [⟨7, 0, 0, 0, 0, false⟩] }

/-- A module that can start the caravan: its site is enabled, directory entry 0 is a program of 4 instructions, and the sounding allows the
commit delay in force. -/
def startable : State :=
  (((({ State.reset with cast := { State.reset.cast with applied := some startCasting }, mem := [(0, 8#8), (4, 4#8), (8, 5#8)] }.setBit
    SYS_STAT 15 true).setBit (CST_SITE_EN 0) 7 true).wrN (RUN_CD_MIN 0) 0x8100).wrN (RUN_CD 0) 256)

/-- A site n whose ready bit, bit n % 16 of ASY_READY (n / 16), is bit 0 of SEQ_STAT of caravan 0. -/
def aliasSite : Nat := 8289296

/-- The same module while caravan 0 awaits the leaving of that site, whose session closes with its run (ASY_SITE_CFG.AUTO_FINAL). -/
def awaitsAlias : State :=
  (startable.wrN (ASY_SITE_CFG aliasSite) 0x8000).setCtx 0 { Ctx.init with await := [.leave aliasSite 0x0D10 0 0 0 0 false] }

/-- Every condition of R111 holds. -/
theorem awaitsAlias_startCode : awaitsAlias.startCode 0 = none := by decide +kernel

/-- The start delivers the site's result, whose ready bit makes RUNNING (2) STALLED (3). -/
theorem awaitsAlias_starts : ∃ t, exec (.seqStart 0) awaitsAlias = .next t ∧ t.fld (SEQ_STAT 0) 2 0 = 3 :=
  ⟨_, rfl, by decide +kernel⟩

end Sys2Proof.Machine

open Sys2Proof Sys2Proof.Machine

/-- Refutes O15: a context that awaits a site beyond the 512 of the module starts, and does not show RUNNING. -/
theorem not_runsStartStopAndResume : ¬ Obligations.RunsStartStopAndResume := by
  unfold Obligations.RunsStartStopAndResume
  rintro ⟨hStart, -⟩
  obtain ⟨hRuns, -⟩ := hStart 0 awaitsAlias (by decide) (by decide +kernel)
  obtain ⟨t, ht, hRunning, -⟩ := hRuns awaitsAlias_startCode
  obtain ⟨u, hu, hStalled⟩ := awaitsAlias_starts
  cases ht.symm.trans hu
  exact absurd (hRunning.symm.trans hStalled) (by decide)

end

section
/-!
PROOFS. Table loading (R91): the write of a shadow entry, and the request of a swap.
-/

namespace Sys2Proof.Machine

variable {s t : State}

/-! The contexts that an operation leaves alone. -/

/-- Contexts with the same table are the same. -/
theorem State.ctx_congr (h : t.ctxs = s.ctxs) (c : Nat) : t.ctx c = s.ctx c := by rw [State.ctx, h, State.ctx]

/-- Once READY is 1 a row acts. -/
theorem State.whenReady_ready (h : s.bit SYS_STAT 15 = true) (f : State → State) : s.whenReady f = f s := if_pos h

/-! Entries. -/

/-- The entry that SEQ_TDATA0 and a write `v` of SEQ_TDATA1 give for the table selected. -/
def State.tableData (s : State) (c v : Nat) : Nat :=
  if s.fld (SEQ_TSEL c) 15 12 = 4 then v % 65536 else s.rdN (SEQ_TDATA c) + 65536 * (v % 65536)

/-- The tables of caravan `c` once an entry is stored at the index selected. -/
def State.tablesStored (s : State) (c v : Nat) : SeqTables :=
  { (s.ctx c).tables with
    shadow := tableStore (s.ctx c).tables.shadow (s.fld (SEQ_TSEL c) 15 12) (s.fld (SEQ_TSEL c) 11 0) (s.tableData c v) }

theorem tableWrite_stores {c v : Nat} (hc : c < 64) (hTable : s.fld (SEQ_TSEL c) 15 12 ≤ 4)
    (hIndex : s.fld (SEQ_TSEL c) 11 0 < tableSize (s.fld (SEQ_TSEL c) 15 12)) : tableWrite c v s =
      (s.setCtx c { s.ctx c with tables := s.tablesStored c v }).setFld (SEQ_TSEL c) 11 0 (s.fld (SEQ_TSEL c) 11 0 + 1) :=
  if_neg (by omega)

theorem tableWrite_outside {c v : Nat} (h : 4 < s.fld (SEQ_TSEL c) 15 12 ∨ tableSize (s.fld (SEQ_TSEL c) 15 12) ≤ s.fld (SEQ_TSEL c) 11 0) :
    tableWrite c v s = s := if_pos (by omega)

/-! Swaps. -/

/-- A request that names one table is judged on that table alone. -/
theorem tableSwap_one {c k : Nat} (hc : c < 64) (hk : k < 5) : tableSwap c (2 ^ k) s =
    if s.tableChecked c k then (s.setBit (SEQ_TSTAT c) k true).arrive 2 c (yardCost 2) (.seqSwap c k) else s.evt (SEQ_TSTAT c) 5 := by
  have hMask : (List.range 5).filter (2 ^ k).testBit = [k] := by interval_cases k <;> decide
  unfold tableSwap
  rw [if_neg (by omega), hMask]
  rfl

/-- A stage work item of this class, origin and kind has arrived and has not acted. -/
def State.itemHeld (s : State) (cls origin : Nat) (kind : WorkKind) : Prop :=
  ∃ w, (w ∈ s.sched.waiting ∨ ∃ act, (w, act) ∈ s.sched.running) ∧ w.kind = kind ∧ w.cls = cls ∧ w.origin = origin

/-- The swap admitted takes the table as it stands, and leaves both its copies. -/
theorem State.tableReady_tables (s : State) (c k : Nat) :
    ((s.tableReady c k).ctx c).tables.active = (s.ctx c).tables.active ∧ ((s.tableReady c k).ctx c).tables.shadow = (s.ctx c).tables.shadow ∧
      ∀ d, d ≠ c → (s.tableReady c k).ctx d = s.ctx d := by
  have hSelf := s.ctx_setCtx_self c
  exact ⟨by rw [State.tableReady, hSelf], by rw [State.tableReady, hSelf], fun d hd => s.ctx_setCtx_ne _ hd⟩

theorem State.deferItem_ctxs (s : State) (w : WorkItem) : (s.deferItem w).ctxs = s.ctxs := by
  rw [State.deferItem, State.log_ctxs]
  rfl

/-- A swap that arrives waits or is admitted, and both copies of every table stay. -/
theorem State.arrive_seqSwap (s : State) (cls cost c k : Nat) :
    (s.arrive cls c cost (.seqSwap c k)).itemHeld cls c (.seqSwap c k) ∧
    ((s.arrive cls c cost (.seqSwap c k)).ctx c).tables.active = (s.ctx c).tables.active ∧
    ((s.arrive cls c cost (.seqSwap c k)).ctx c).tables.shadow = (s.ctx c).tables.shadow ∧
    ∀ d, d ≠ c → (s.arrive cls c cost (.seqSwap c k)).ctx d = s.ctx d := by
  unfold State.arrive
  extract_lets w q u act
  split
  · exact ⟨⟨w, .inl (List.mem_append_right _ (List.mem_singleton_self _)), rfl, rfl, rfl⟩, rfl, rfl, fun _ _ => rfl⟩
  · split
    · refine ⟨⟨w, .inr ⟨max s.time.up s.sched.idleFrom + cost, ?_⟩, rfl, rfl, rfl⟩, State.tableReady_tables _ c k⟩
      rw [State.admitItem, State.admitNote_sched]
      exact List.mem_append_right _ (List.mem_singleton_self _)
    · have hCtx := State.ctx_congr (u.deferItem_ctxs w)
      refine ⟨⟨{ w with deferrals := w.deferrals + 1, firstDefer := if w.deferrals = 0 then u.sched.seq else w.firstDefer }, .inl ?_,
        rfl, rfl, rfl⟩, ?_, ?_, fun d _ => hCtx d⟩
      · rw [State.deferItem, State.log_sched, State.evt_sched, State.inc, State.incBy_sched]
        exact List.mem_append_right _ (List.mem_singleton_self _)
      · rw [hCtx c]
        rfl
      · rw [hCtx c]
        rfl

end Sys2Proof.Machine

open Sys2Proof Sys2Proof.Machine

/-- Settles O19: an entry is stored or refused by its place; a swap is judged by its CRC. -/
theorem sequenceTables : Obligations.SequenceTables := by
  unfold Obligations.SequenceTables
  refine ⟨fun c v s hc hReady => ⟨fun hTable hIndex => ?_, fun hOut => ?_⟩, fun c k s hc hk hReady => ⟨fun hCrc => ?_, fun hCrc => ?_⟩⟩
  · have hRow : exec (.seqTableEntryWrite c v) s = .next (tableWrite c v s) := congrArg Host.Outcome.next (s.whenReady_ready hReady _)
    rw [hRow, tableWrite_stores hc hTable hIndex]
    refine ⟨_, rfl, ?_, ?_, State.fld_setFld _ _ _ _ _ (by decide) (by decide), ?_, fun d hd => s.ctx_setCtx_ne _ hd,
      Frame.refl.setCtx.setFld (by simp)⟩
    · exact congrArg (fun x => x.tables.shadow) (s.ctx_setCtx_self c _)
    · exact congrArg (fun x => x.tables.active) (s.ctx_setCtx_self c _)
    · rw [State.fld_setFld_apart _ _ (by decide) (by decide) (by decide) (by decide)]
      rfl
  · exact congrArg Host.Outcome.next ((s.whenReady_ready hReady _).trans (tableWrite_outside hOut))
  · have hBad : s.tableChecked c k = false := beq_eq_false_iff_ne.2 hCrc
    refine ⟨_, congrArg Host.Outcome.next ((s.whenReady_ready hReady _).trans (tableSwap_one hc hk)), ?_⟩
    rw [hBad]
    exact ⟨State.bit_evt_self _ _ _ (by decide), fun _ => rfl, rfl, Frame.refl.evt (by simp)⟩
  · have hGood : s.tableChecked c k = true := beq_iff_eq.2 hCrc
    obtain ⟨⟨w, hHeld, hKind, hCls, hOrigin⟩, hActive, hShadow, hOthers⟩ :=
      (s.setBit (SEQ_TSTAT c) k true).arrive_seqSwap 2 (yardCost 2) c k
    refine ⟨_, w, congrArg Host.Outcome.next ((s.whenReady_ready hReady _).trans (tableSwap_one hc hk)), ?_⟩
    rw [if_pos hGood]
    exact ⟨hHeld, hKind, hCls, hOrigin, hActive, hShadow, hOthers⟩

end

section
/-!
PROOFS. Copies and stores of the ring (R99, R195, R311, R341, R397): what acceptance leaves alone, the copy that begins and the bytes that
its end delivers.
-/

namespace Sys2Proof.Machine

variable {s r t : State}

/-! Acceptance by the ring (R336). -/


theorem State.tollCheck_passes {e : List Byte} (h : (s.tollCheck e).1 = none) :
    ∃ tolls, (s.tollCheck e).2 = { s with nv := { s.nv with tolls := tolls } } := by
  revert h
  unfold State.tollCheck
  cases tollClasses e with
  | none => exact fun _ => ⟨s.nv.tolls, rfl⟩
  | some classes =>
    dsimp only
    split
    · exact fun _ => ⟨s.nv.tolls, rfl⟩
    · cases s.tollCode e classes with
      | some c => exact fun h => nomatch h
      | none => cases s.nvCode with
        | some c => exact fun h => nomatch h
        | none => exact fun _ => ⟨_, rfl⟩

/-- The module that has accepted an entry differs from the one before in HST_CMD_CONS, in host memory, in the tags of the ring and in the
counter of the toll. -/
theorem Accepted.eq {op : Nat} {e : List Byte} {own : State → Option Nat} (h : Accepted op e own s r) :
    ∃ hostMem tolls, r = { s.wrN HST_CMD_CONS (s.rdN HST_CMD_CONS + 1) with
      host := { s.host with mem := hostMem, inflight := entTag e :: s.host.inflight, running := entTag e :: s.host.running }
      nv := { s.nv with tolls := tolls } } := by
  obtain ⟨tolls, hToll⟩ := State.tollCheck_passes h.toll
  exact ⟨s.takeEntry.host.mem, tolls, by rw [h.after, hToll]; rfl⟩

theorem Accepted.rd {op a : Nat} {e : List Byte} {own : State → Option Nat} (h : Accepted op e own s r) (ha : a ≠ HST_CMD_CONS) :
    r.rd a = s.rd a := by
  obtain ⟨hostMem, tolls, rfl⟩ := h.eq
  exact State.rd_wr_ne s _ ha

theorem Accepted.shadowOf {op a : Nat} {e : List Byte} {own : State → Option Nat} (h : Accepted op e own s r) (ha : a ≠ HST_CMD_CONS) :
    r.shadowOf a = s.shadowOf a := by
  have hRd := h.rd ha
  obtain ⟨hostMem, tolls, rfl⟩ := h.eq
  rw [State.shadowOf, hRd]
  rfl

/-! A copy begins (R341). -/

/-- A copy joins those in progress; a SEG_LOAD locks the data area that its segment has then. -/
theorem copyBegin_joins (op : Nat) (e : List Byte) (tag : Nat) (s : State) : ∃ area,
    copyBegin op e tag s = { s with loads := s.loads ++ [⟨tag, op, e, area⟩] } ∧ (op ≠ 0x0010 → area = (0, 0)) ∧
      ∀ p, findStore s.casting (segLoadPart e) = some p → op = 0x0010 → area = (s.dirEntry p (segLoadEntry e)).dataArea := by
  unfold copyBegin
  cases findStore s.casting (segLoadPart e) with
  | none => exact ⟨_, rfl, fun _ => rfl, fun p hp => nomatch hp⟩
  | some p => exact ⟨_, rfl, fun hOp => if_neg hOp, fun q hq hOp => by cases hq; exact if_pos hOp⟩

/-! The calibration record (R311, R436). -/

/-- A transaction of `bytes` bytes begins: it waits with at least one page, and shows. -/
theorem State.nvBegin_begins (s : State) (kind : TxnKind) (bytes : Nat) :
    (∃ n, (s.nvBegin kind bytes).nv.txns = s.nv.txns ++ [⟨kind, n⟩] ∧ 0 < n) ∧ (s.nvBegin kind bytes).bit THM_STAT 10 = true := by
  refine ⟨⟨_, rfl, lt_max_of_lt_left Nat.one_pos⟩, ?_⟩
  rw [State.nvBegin, State.showNv, State.bit_setBit_self _ _ (by decide)]
  simp

/-! The tolled register write (R397). -/

/-- No tolled register is one that the ring itself moves. -/
theorem regWriteCode_none_apart {e : List Byte} {w : Nat × Word × Word} (h : regWriteCode e s = none) (hw : w ∈ tolledWrites e) :
    w.1 ≠ HST_CMD_CONS := by
  intro hCons
  simp only [regWriteCode, ite_some_eq_none] at h
  obtain ⟨-, hTolled, -⟩ := h
  refine hTolled (List.any_eq_true.2 ⟨w, hw, ?_⟩)
  rw [hCons]
  decide

/-- Outside the commit cut the masked bits of a shadow take a write that nothing of its clock precedes. -/
theorem State.shadowOf_shadowWrite {a : Nat} {mask v : Word} (hCut : s.inCut = false) (hNext : tabGet (fun _ => none) s.shadowNext a = none)
    (hClaimed : tabGet (fun _ => 0#16) s.claimed a = 0#16) :
    (s.shadowWrite a mask 0 v).shadowOf a = (s.shadowOf a &&& ~~~mask) ||| (v &&& mask) := by
  have hStage : ¬ s.toTick ≤ 16 := by simpa [State.inCut] using hCut
  rw [State.shadowWrite_inStage hStage]
  simp only [State.shadowOf, hNext, tabGet_set_self, Option.getD_some]
  rw [State.shadowWritten, State.shadowBase_inStage hStage hNext, show tabGet (fun _ => 0) s.claimed a = 0#16 from hClaimed, BitVec.not_zero, BitVec.and_allOnes]
  simp

theorem State.shadowWrite_host (s : State) (a : Nat) (mask pulses v : Word) : (s.shadowWrite a mask pulses v).host = s.host :=
  ite_of (Q := fun t : State => t.host = s.host) rfl rfl

/-- A REG_WRITE_T of one target writes its shadow, and its command waits for the tick. -/
theorem regWriteBegin_one {e : List Byte} {tag a k : Nat} {mask v : Word} {d : RegDesc} (hWrites : tolledWrites e = [(a, mask, v)])
    (hReg : regAt a = some (d, k)) : regWriteBegin e tag s =
      { s.shadowWrite a (mask &&& accMask .rwt d) 0 v with host := { s.host with tolled := s.host.tolled ++ [(tag, s.inCut)] } } := by
  have hOne : tolledWrite s (a, mask, v) = s.shadowWrite a (mask &&& accMask .rwt d) 0 v := by simp only [tolledWrite, hReg]
  simp only [regWriteBegin, hWrites, List.foldl_cons, List.foldl_nil, hOne, State.shadowWrite_host]

/-! A copy ends (R99, R195). -/

/-- Bytes stored in a partition change memory alone. -/
theorem State.partWrite_eq (s : State) (p : StoreRec) (a : Nat) (l : List Byte) : ∃ m, s.partWrite p a l = { s with mem := m } := by
  induction l generalizing s a with
  | nil => exact ⟨s.mem, rfl⟩
  | cons b l ih => exact ih { s with mem := tabSet (fun _ => 0#8) s.mem (p.device a) b } (a + 1)

theorem State.memByte_partWrite_outside {p : StoreRec} {a k : Nat} {l : List Byte} (h : ∀ x < l.length, k ≠ p.device (a + x)) :
    (s.partWrite p a l).memByte k = s.memByte k := by
  induction l generalizing s a with
  | nil => rfl
  | cons b l ih =>
    have hRest : ∀ x < l.length, k ≠ p.device (a + 1 + x) := fun x hx => by
      have := h (x + 1) (by simpa using hx)
      rwa [Nat.add_comm x 1, ← Nat.add_assoc] at this
    rw [State.partWrite, ih hRest]
    exact tabGet_set_ne (h 0 (by simp))

/-- Where the places of the bytes differ, each holds its byte. -/
theorem State.memByte_partWrite_inside {p : StoreRec} {a x : Nat} {l : List Byte}
    (hOne : ∀ x y, x < l.length → y < l.length → p.device (a + x) = p.device (a + y) → x = y) (hx : x < l.length) :
    (s.partWrite p a l).memByte (p.device (a + x)) = l[x] := by
  induction l generalizing s a x with
  | nil => exact absurd hx (Nat.not_lt_zero x)
  | cons b l ih =>
    have hShift : ∀ y, a + 1 + y = a + (y + 1) := fun y => by omega
    rw [State.partWrite]
    cases x with
    | zero =>
      rw [State.memByte_partWrite_outside fun y hy hEq => ?_]
      · exact tabGet_set_self
      · rw [hShift] at hEq
        exact absurd (hOne 0 (y + 1) (by simp) (by simpa using hy) hEq) (by omega)
    | succ x =>
      have hRest : ∀ y z, y < l.length → z < l.length → p.device (a + 1 + y) = p.device (a + 1 + z) → y = z := fun y z hy hz hEq => by
        rw [hShift, hShift] at hEq
        exact Nat.succ.inj (hOne (y + 1) (z + 1) (by simpa using hy) (by simpa using hz) hEq)
      exact (hShift x) ▸ ih hRest (by simpa using hx)

section
variable {tag : Nat} {j : LoadJob}

theorem segLoadDone_stores {data : List Byte} {p : StoreRec} (hJob : (s.loads.find? fun j => j.tag == tag && j.opcode == 0x0010) = some j)
    (hPart : findStore s.casting (segLoadPart j.entry) = some p) : segLoadDone tag (some data) s =
      ((s.loadGone tag).partWrite p (segLoadAddr j.entry) (padTo (segLoadLength j.entry) data)).complete tag 0x0010 0 0 0 0 := by
  simp only [segLoadDone, hJob, hPart]

theorem segLoadDone_failed (hJob : (s.loads.find? fun j => j.tag == tag && j.opcode == 0x0010) = some j) :
    segLoadDone tag none s = (s.loadGone tag).complete tag 0x0010 0x1508 0 0 0 := by
  simp only [segLoadDone, hJob]

theorem waveLoadDone_stores {data : List Byte} (hJob : (s.loads.find? fun j => j.tag == tag && j.opcode == 0x0011) = some j)
    (hSource : waveLoadSource j.entry = 0) : ∃ origin, waveLoadDone tag (some data) s =
      ((s.loadGone tag).waveWrite (waveLoadUnit j.entry) (waveLoadFirst j.entry) origin (padTo (64 * waveLoadCount j.entry) data)).complete
        tag 0x0011 0 0 0 0 := by
  refine ⟨2 ^ 36 + waveLoadAddr j.entry / 64 % 2 ^ 36, ?_⟩
  simp only [waveLoadDone, hJob, hSource, State.sourceBytes, Nat.mul_comm (waveLoadCount j.entry) 64]
  rfl

end

theorem segLoadDone_idle {tag : Nat} {data : Option (List Byte)} (h : ∀ j ∈ s.loads, j.tag ≠ tag) : segLoadDone tag data s = s := by
  have hNone : (s.loads.find? fun j => j.tag == tag && j.opcode == 0x0010) = none := List.find?_eq_none.2 fun j hj => by simp [h j hj]
  rw [segLoadDone, hNone]

theorem waveLoadDone_idle {tag : Nat} {data : Option (List Byte)} (h : ∀ j ∈ s.loads, j.tag ≠ tag) : waveLoadDone tag data s = s := by
  have hNone : (s.loads.find? fun j => j.tag == tag && j.opcode == 0x0011) = none := List.find?_eq_none.2 fun j hj => by simp [h j hj]
  rw [waveLoadDone, hNone]

theorem Frame.loadGone {l : List Nat} {tag : Nat} (h : Frame l s t) : Frame l s (t.loadGone tag) := h.upd rfl rfl rfl rfl rfl rfl rfl

end Sys2Proof.Machine

open Sys2Proof Sys2Proof.Machine

/-- Settles O46: each command in the module that has accepted it, each end by the bytes it delivers. -/
theorem copiesBeginAndEnd : Obligations.CopiesBeginAndEnd := by
  unfold Obligations.CopiesBeginAndEnd
  refine ⟨fun entry s r => ⟨fun h => ?_, fun h => ?_, fun h => ?_, fun a mask v d k h hWrites hReg hCut hNext hClaimed => ?_⟩,
    fun tag j data p s hJob hPart hOne => ?_, fun tag j s hJob => ?_, fun tag j data s hJob hSource => ?_, fun tag data s hNone => ?_⟩
  · obtain ⟨area, hCopy, -, hArea⟩ := copyBegin_joins 0x0010 (padTo 128 entry) (entTag (padTo 128 entry)) r
    refine ⟨_, area, congrArg Host.Outcome.next (h.ringCommand_eq.trans hCopy), ?_, ?_, ?_, ?_, fun a ha => h.rd ha⟩ <;>
      obtain ⟨hostMem, tolls, rfl⟩ := h.eq
    · rfl
    · exact fun p hp => hArea p hp rfl
    · rfl
    · rfl
  · obtain ⟨area, hCopy, hArea, -⟩ := copyBegin_joins 0x0011 (padTo 128 entry) (entTag (padTo 128 entry)) r
    cases hArea (by decide)
    refine ⟨_, congrArg Host.Outcome.next (h.ringCommand_eq.trans hCopy), ?_, ?_, ?_, fun a ha => h.rd ha⟩ <;>
      obtain ⟨hostMem, tolls, rfl⟩ := h.eq <;> rfl
  · obtain ⟨⟨n, hTxns, hPos⟩, hBusy⟩ := r.nvBegin_begins (.calRecord r.calRecord (entTag (padTo 128 entry))) r.calRecord.length
    refine ⟨_, n, congrArg Host.Outcome.next h.ringCommand_eq, hTxns.trans ?_, hPos, hBusy⟩
    obtain ⟨hostMem, tolls, rfl⟩ := h.eq
    rfl
  · have hApart : a ≠ HST_CMD_CONS := regWriteCode_none_apart h.own (w := (a, mask, v)) (by simp [hWrites])
    have hWritten : (r.shadowWrite a (mask &&& accMask .rwt d) 0 v).shadowOf a =
        (r.shadowOf a &&& ~~~(mask &&& accMask .rwt d)) ||| (v &&& (mask &&& accMask .rwt d)) := by
      obtain ⟨hostMem, tolls, rfl⟩ := h.eq
      exact State.shadowOf_shadowWrite hCut hNext hClaimed
    rw [h.shadowOf hApart] at hWritten
    refine ⟨_, congrArg Host.Outcome.next (h.ringCommand_eq.trans (regWriteBegin_one hWrites hReg)), ?_, hWritten⟩
    obtain ⟨hostMem, tolls, rfl⟩ := h.eq
    exact congrArg (fun b => s.host.tolled ++ [(_, b)]) hCut
  · have hDone := segLoadDone_stores (data := data) hJob hPart
    obtain ⟨m, hMem⟩ := (s.loadGone tag).partWrite_eq p (segLoadAddr j.entry) (padTo (segLoadLength j.entry) data)
    have hLen := length_padTo (segLoadLength j.entry) data
    refine ⟨_, _, congrArg Host.Outcome.next hDone, by rw [hMem]; rfl, rfl, rfl, rfl, by rw [hMem]; rfl, fun x hx => ?_, fun a ha => ?_,
      by rw [hMem]; rfl, by rw [hMem]; rfl⟩
    · rw [List.getElem?_eq_getElem (hLen.symm ▸ hx)]
      exact congrArg some (State.memByte_partWrite_inside (by rwa [hLen]) (hLen.symm ▸ hx))
    · exact State.memByte_partWrite_outside fun x hx => ha x (hLen ▸ hx)
  · exact ⟨_, _, congrArg Host.Outcome.next (segLoadDone_failed hJob), rfl, rfl, rfl, Frame.refl.loadGone.complete⟩
  · obtain ⟨origin, hDone⟩ := waveLoadDone_stores (data := data) hJob hSource
    refine ⟨_, _, congrArg Host.Outcome.next hDone, rfl, rfl, rfl, ?_, fun u hu => (s.loadGone tag).wfs_setWfs_ne _ hu,
      Frame.refl.loadGone.setWfs.complete⟩
    exact congrArg Wfs.mem ((s.loadGone tag).wfs_setWfs_self (waveLoadUnit j.entry) _)
  · exact ⟨congrArg Host.Outcome.next (segLoadDone_idle hNone), congrArg Host.Outcome.next (waveLoadDone_idle hNone)⟩

end

section
/-!
PROOFS. Control actions (R79 to R81, R112): what a context's paths do at the end of a block, what settles on the committed path, and the end
of a run.
-/

namespace Sys2Proof.Machine

variable {s t : State} {c n : Nat}

/-! Contexts and paths. -/

@[simp] theorem State.ctx_putCtx_self (s : State) (c : Nat) (x : Ctx) : (s.putCtx c x).ctx c = x := s.ctx_setCtx_self c x
theorem State.ctx_putCtx_ne (s : State) {c d : Nat} (x : Ctx) (h : d ≠ c) : (s.putCtx c x).ctx d = s.ctx d := s.ctx_setCtx_ne x h
theorem State.rd_putCtx_ne (s : State) {c a : Nat} (x : Ctx) (h : a ≠ RUN_STAT c) : (s.putCtx c x).rd a = s.rd a := State.rd_wr_ne _ _ h

theorem Frame.putCtx {l : List Nat} {x : Ctx} (h : Frame l s t) (hc : RUN_STAT c ∈ l) : Frame l s (t.putCtx c x) := h.setCtx.wrN hc

@[simp] theorem State.ctx_putPath_self (s : State) (c n : Nat) (p : Path) :
    (s.putPath c n p).ctx c = { s.ctx c with paths := (s.ctx c).paths.set n p } := s.ctx_putCtx_self c _

/-! What settles on the committed path (R102, R112). -/

/-- A halt that takes effect on the committed path. -/
def Halt.settles : Halt → Bool
  | .ended _ => true
  | .data _ => true
  | _ => false

/-- Where no event of a requested jump waits, a path that is put back leaves its context as it is. -/
theorem State.putPath_settled {p : Path} (h : (s.ctx c).paths[n]? = some p) (hNotes : p.pos.notes = []) :
    s.putPath c n { p with pos := { p.pos with notes := [] } } = s.putCtx c (s.ctx c) := by
  have hSame : ({ p with pos := { p.pos with notes := [] } } : Path) = p := by rw [← hNotes]
  obtain ⟨hn, rfl⟩ := List.getElem?_eq_some_iff.1 h
  rw [State.putPath, hSame, List.set_getElem_self]

/-- The committed path of a list is one of its paths without an unresolved branch. -/
theorem committed_of_find {l : List Path} {e : Path × Nat} (h : (l.zipIdx.find? fun e => e.1.need.isEmpty) = some e) :
    l[e.2]? = some e.1 ∧ e.1.need = [] := by
  have hMem := List.mem_of_find?_eq_some h
  have hNeed := List.find?_some h
  exact ⟨List.mem_zipIdx_iff_getElem?.1 hMem, List.isEmpty_iff.1 hNeed⟩

/-- Paths without anything to report settle nothing. -/
theorem settle_quiet (h : ∀ q ∈ (s.ctx c).paths, q.halt.settles = false ∧ q.pos.notes = []) :
    settle c s = s ∨ settle c s = s.putCtx c (s.ctx c) := by
  unfold settle
  cases hFind : (s.ctx c).paths.zipIdx.find? fun e => e.1.need.isEmpty with
  | none => exact .inl (by simp only [hFind])
  | some e =>
    obtain ⟨p, n⟩ := e
    obtain ⟨hPath, -⟩ := committed_of_find hFind
    obtain ⟨hHalt, hNotes⟩ := h p (List.mem_of_getElem? hPath)
    right
    simp only [hFind, hNotes, List.foldl_nil, State.putPath_settled hPath hNotes]
    revert hHalt
    cases p.halt <;> simp [Halt.settles]

/-- An end code that the committed path has met ends the run. -/
theorem settle_ended {p : Path} {code : Nat} (hFind : ((s.ctx c).paths.zipIdx.find? fun e => e.1.need.isEmpty) = some (p, n))
    (hHalt : p.halt = .ended code) (hNotes : p.pos.notes = []) : settle c s = endRun c code (s.putCtx c (s.ctx c)) := by
  unfold settle
  simp only [hFind, hNotes, List.foldl_nil, State.putPath_settled (committed_of_find hFind).1 hNotes]
  rw [hHalt]

/-- A path that changes with nothing to report moves alone. -/
theorem settle_putPath_moves {p q : Path} (hPath : (s.ctx c).paths[n]? = some p)
    (hQuiet : ∀ r ∈ (s.ctx c).paths, r.halt = .none ∧ r.pos.notes = []) (hHalt : q.halt.settles = false) (hNotes : q.pos.notes = []) :
    PathMoves s (settle c (s.putPath c n q)) c n q := by
  have hn : n < (s.ctx c).paths.length := (List.getElem?_eq_some_iff.1 hPath).1
  have hAll : ∀ r ∈ ((s.putPath c n q).ctx c).paths, r.halt.settles = false ∧ r.pos.notes = [] := by
    intro r hr
    rw [State.ctx_putPath_self] at hr
    rcases List.mem_or_eq_of_mem_set hr with hOld | rfl
    · obtain ⟨h1, h2⟩ := hQuiet r hOld
      exact ⟨by rw [h1]; rfl, h2⟩
    · exact ⟨hHalt, hNotes⟩
  have hMoves : ∀ u : State, u.ctx c = (s.putPath c n q).ctx c → (∀ d, d ≠ c → u.ctx d = s.ctx d) → Frame [RUN_STAT c] s u →
      PathMoves s u c n q := by
    intro u hSelf hOthers hFrame
    refine ⟨?_, fun m hm => ?_, hOthers, hFrame⟩ <;> rw [hSelf, State.ctx_putPath_self]
    · exact List.getElem?_set_self hn
    · exact List.getElem?_set_ne hm.symm
  have hPut : Frame [RUN_STAT c] s (s.putPath c n q) := Frame.refl.putCtx (by simp)
  rcases settle_quiet hAll with h | h <;> rw [h]
  · exact hMoves _ rfl (fun d hd => s.ctx_putCtx_ne _ hd) hPut
  · refine hMoves _ (State.ctx_putCtx_self ..) (fun d hd => ?_) (hPut.putCtx (by simp))
    rw [State.ctx_putCtx_ne _ _ hd]
    exact s.ctx_putCtx_ne _ hd

/-! A block that is over. -/

/-- A block that is over gives no ingot more. -/
theorem restOfBlock_over {op k : Nat} {p : Path} {b : Block} (hPath : (s.ctx c).paths[n]? = some p) (hBlock : p.block = some b)
    (hOver : b.finished = true) : restOfBlock c n op k s = s := by
  cases k with
  | zero => rfl
  | succ k => simp [restOfBlock, hPath, hBlock, hOver]

/-- Without a requested jump a block that is over takes its control action. -/
theorem controlNow_acts {p : Path} {b : Block} (hPath : (s.ctx c).paths[n]? = some p) (hBlock : p.block = some b) (hJump : p.pos.jump = none)
    (hPlain : b.instr.compares = false) : controlNow c n s = settle c (s.putPath c n (s.action c p b)) := by
  have hHere : s.jumpHere c p b = none := by simp only [State.jumpHere, hJump]
  simp [controlNow, hPath, hBlock, hHere, hJump, hPlain]

section
variable {op : Nat} {p : Path} {b : Block} (h : AtAction s c n op p b)
include h

theorem AtAction.unhalted : p.halt = .none := (h.quiet p (List.mem_of_getElem? h.path)).1
theorem AtAction.unnoted : p.pos.notes = [] := (h.quiet p (List.mem_of_getElem? h.path)).2

/-- An instruction that compares nothing takes its control action in the clock of the block's last vector. -/
theorem AtAction.instrRow_acts (hPlain : (op ≠ 0x03 ∧ op ≠ 0x08) ∨ b.instr.cond = 6) :
    instrRow op c n s = settle c (s.putPath c n (s.action c p b)) := by
  have hCompares : b.instr.compares = false := by
    rcases hPlain with ⟨h3, h8⟩ | hCond
    · simp [PatInstr.compares, h.op, h3, h8]
    · simp [PatInstr.compares, hCond]
  have hDue := State.atDue_now (f := controlNow c n) h.due
  unfold instrRow
  rw [restOfBlock_over h.path h.block h.isOver, if_neg (not_not.2 h.running)]
  simp [h.path, h.block, h.isOver, h.op, h.unhalted, h.running, hDue, controlNow_acts h.path h.block h.jump hCompares]

/-- The path moves to what its control action makes of it. -/
theorem AtAction.moves {q : Path} (hPlain : (op ≠ 0x03 ∧ op ≠ 0x08) ∨ b.instr.cond = 6) (hAct : s.action c p b = q)
    (hHalt : q.halt.settles = false) (hNotes : q.pos.notes = p.pos.notes) : PathMoves s (instrRow op c n s) c n q := by
  rw [h.instrRow_acts hPlain, hAct]
  exact settle_putPath_moves h.path h.quiet hHalt (hNotes.trans h.unnoted)

/-- A control action that does not halt its path sends it on to a position. -/
theorem AtAction.goes {q : SeqPos} (hPlain : (op ≠ 0x03 ∧ op ≠ 0x08) ∨ b.instr.cond = 6)
    (hAct : s.action c p b = { p with pos := q, block := none }) (hNotes : q.notes = p.pos.notes) :
    PathMoves s (instrRow op c n s) c n { p with pos := q, block := none } :=
  h.moves hPlain hAct (congrArg Halt.settles h.unhalted) hNotes

end

/-! Control actions (R79, R81). -/

section
variable {p : Path} {b : Block}

theorem State.action_next (hOp : b.instr.op = 0x01 ∨ b.instr.op = 0x0B) :
    s.action c p b = { p with pos := { p.pos with pc := b.index + 1 }, block := none } := by
  rcases hOp with hOp | hOp <;> simp only [State.action, hOp]

theorem State.action_jump (hOp : b.instr.op = 0x02) :
    s.action c p b = { p with pos := { p.pos with pc := b.instr.arg }, block := none } := by
  simp only [State.action, hOp]

theorem State.action_branch (hOp : b.instr.op = 0x03 ∨ b.instr.op = 0x08) :
    s.action c p b = { p with pos := p.pos.branch b.instr b.index (s.bit (SEQ_HFLAG (s.homeOf c)) 0), block := none } := by
  rcases hOp with hOp | hOp <;> simp only [State.action, hOp]

theorem State.action_call (hOp : b.instr.op = 0x04) :
    s.action c p b = { p with pos := { p.pos with pc := b.instr.arg, stack := (b.index + 1) :: p.pos.stack }, block := none } := by
  simp only [State.action, hOp]

theorem State.action_return {r : Nat} {l : List Nat} (hOp : b.instr.op = 0x05) (hStack : p.pos.stack = r :: l) :
    s.action c p b = { p with pos := { p.pos with pc := r, stack := l }, block := none } := by
  simp only [State.action, hOp, hStack, List.headD_cons, List.tail_cons]

/-- The loop counter that LOOP_SET loads: it is the one loaded most recently. -/
def Path.loopLoaded (p : Path) (b : Block) : LoopCtr :=
  ⟨true, b.instr.arg, b.instr.arg, b.index + 1, p.pos.stack.length, (p.pos.loops.map (·.order)).foldl max 0 + 1, p.pos.apg⟩

theorem State.action_loopSet (hOp : b.instr.op = 0x06) : s.action c p b =
    { p with pos := { p.pos.setLoop b.instr.loop (p.loopLoaded b) with pc := b.index + 1 }, block := none } := by
  simp only [State.action, hOp, Path.loopLoaded]

/-- The loop counter after LOOP_END: counted down, and closed at 0. -/
def LoopCtr.counted (l : LoopCtr) : LoopCtr := { l with count := l.count - 1, active := l.active && l.count - 1 ≠ 0 }

theorem State.action_loopEnd (hOp : b.instr.op = 0x07) : s.action c p b =
    { p with
      pos := { p.pos.setLoop b.instr.loop (p.pos.loopAt b.instr.loop).counted with
        pc := if (p.pos.loopAt b.instr.loop).count - 1 = 0 then b.index + 1 else b.instr.arg }
      block := none } := by
  by_cases hZero : (p.pos.loopAt b.instr.loop).count - 1 = 0 <;> simp [State.action, hOp, LoopCtr.counted, hZero]

theorem State.action_waypoint (hOp : b.instr.op = 0x09) (hFree : s.rdvEntry c b.instr.arg = none) :
    s.action c p b = { p with pos := { p.pos with pc := b.index + 1 }, block := none } := by
  simp only [State.action, hOp, hFree]

/-- An armed entry holds the path for its next occurrence (R370). -/
theorem State.action_rendezvous {r : Nat} (hOp : b.instr.op = 0x09) (hArmed : s.rdvEntry c b.instr.arg = some r) : s.action c p b =
    { p with
      pos := { p.pos with pc := b.index + 1, rdv := tabSet (fun _ => 0) p.pos.rdv r (tabGet (fun _ => 0) p.pos.rdv r + 1) }
      block := none
      halt := .rendezvous r (tabGet (fun _ => 0) p.pos.rdv r) } := by
  simp only [State.action, hOp, hArmed]

theorem State.action_halt (hOp : b.instr.op = 0x0A) : s.action c p b = { p with block := none, halt := .ended 0x0D10 } := by
  simp only [State.action, hOp]

end

/-! Loop counters. -/

theorem SeqPos.loopAt_setLoop_self {q : SeqPos} {k : Nat} {l : LoopCtr} (h : k < q.loops.length) : (q.setLoop k l).loopAt k = l := by
  simp [SeqPos.loopAt, SeqPos.setLoop, h]

theorem SeqPos.loopAt_setLoop_ne {q : SeqPos} {j k : Nat} {l : LoopCtr} (h : j ≠ k) : (q.setLoop k l).loopAt j = q.loopAt j := by
  simp [SeqPos.loopAt, SeqPos.setLoop, List.getD_eq_getElem?_getD, List.getElem?_set_ne h.symm]

section
variable {q : SeqPos} {i : PatInstr} {index : Nat} {taken : Bool}

theorem SeqPos.branch_notes : (q.branch i index taken).notes = q.notes := by
  unfold SeqPos.branch
  exact ite_of (Q := fun r : SeqPos => r.notes = q.notes) rfl rfl

theorem SeqPos.branch_plain (h : i.op ≠ 0x08 ∨ taken = false) : q.branch i index taken = { q with pc := if taken then i.arg else index + 1 } := by
  have hKeep : (taken && i.op == 0x08) = false := by rcases h with h | h <;> simp [h]
  simp only [SeqPos.branch, hKeep, Bool.false_eq_true, if_false]

/-- LOOP_BREAK taken closes its loop. -/
theorem SeqPos.branch_closes (hOp : i.op = 0x08) (hLoop : i.loop < q.loops.length) : ((q.branch i index true).loopAt i.loop).active = false := by
  have hBreak : (true && i.op == 0x08) = true := by simp [hOp]
  unfold SeqPos.branch
  rw [if_pos hBreak]
  exact congrArg LoopCtr.active (SeqPos.loopAt_setLoop_self hLoop)

end

/-! Pins that park (R45, R112, R158). -/

/-- `t` differs from `s` in the registers of `l` and in what a frame does not speak of, the contexts excepted. -/
structure PinsMove (l : List Nat) (s t : State) : Prop where
  frame : Frame l s t
  ctxs : t.ctxs = s.ctxs

section
variable {l : List Nat} (h : PinsMove l s t)
include h

theorem PinsMove.setFld {a hi lo v : Nat} (ha : a ∈ l) : PinsMove l s (t.setFld a hi lo v) := ⟨h.frame.setFld ha, h.ctxs⟩
theorem PinsMove.setBit {a b : Nat} {v : Bool} (ha : a ∈ l) : PinsMove l s (t.setBit a b v) := h.setFld ha
theorem PinsMove.setMon {b : Nat} {x : Monitor} : PinsMove l s (t.setMon b x) := ⟨h.frame.setMon, h.ctxs⟩
theorem PinsMove.setChan {ch : Nat} {x : Chan} : PinsMove l s (t.setChan ch x) := ⟨h.frame.setChan, h.ctxs⟩

theorem PinsMove.drivers {ch : Nat} {f : Chan → Chan} : PinsMove l s (t.drivers ch f) :=
  List.foldlRecOn (motive := fun u => PinsMove l s u) _ _ h fun _ hu _ _ => hu.setChan

theorem PinsMove.timerEvent {b : Nat} (hb : MON_STAT b ∈ l) : PinsMove l s (t.timerEvent b) :=
  ite_of h (h.setMon.setBit hb)

theorem PinsMove.settingEvent {b : Nat} (hb : MON_STAT b ∈ l) : PinsMove l s (t.settingEvent b) := ite_of (h.timerEvent hb) h

theorem PinsMove.monRefresh {u : Nat} (hu : MON_STAT (monBase u) ∈ l) : PinsMove l s (t.monRefresh u) :=
  ite_of h (ite_of ((h.setFld hu).setMon.settingEvent hu) (h.setFld hu).setMon)

variable {ch : Nat} (hPmu : PMU_STAT ch ∈ l) (hMon : MON_STAT (monBase ch) ∈ l)
include hPmu hMon

theorem PinsMove.pmuUpdate : PinsMove l s (t.pmuUpdate ch) :=
  have h1 := (h.setBit (b := 1) (v := _) hPmu).setBit (b := 3) (v := _) hPmu
  PinsMove.monRefresh (ite_of h1 (h1.setBit hPmu)) hMon

theorem PinsMove.padClosed : PinsMove l s (t.padClosed ch) := h.setChan.drivers.pmuUpdate hPmu hMon

theorem PinsMove.padSettle : PinsMove l s (t.padSettle ch) := ite_of (h.padClosed hPmu hMon) h

theorem PinsMove.applyPark {park : Nat} : PinsMove l s (t.applyPark ch park) :=
  ite_of (h.padSettle hPmu hMon) (h.padSettle hPmu hMon).drivers

end

/-- A context whose pins park changes what shows its pad switches (R158). -/
theorem PinsMove.parkCtx {l : List Nat} (h : PinsMove l s t) (hPads : ∀ a ∈ t.padRegs, a ∈ l) : PinsMove l s (parkCtx c t) := by
  refine List.foldlRecOn (motive := fun u => PinsMove l s u) _ _ h fun u hu p hp => ite_of hu ?_
  have hPin : p ∈ t.casting.pins := (List.mem_filter.1 hp).1
  have hShow : ∀ a ∈ [PMU_STAT p.channel, MON_STAT (monBase p.channel)], a ∈ l := fun a ha => hPads a (List.mem_flatMap.2 ⟨p, hPin, ha⟩)
  exact hu.applyPark (hShow _ (by simp)) (hShow _ (by simp))

theorem parkCtx_moves : PinsMove s.padRegs s (parkCtx c s) := (PinsMove.mk .refl rfl).parkCtx fun _ h => h

/-- The registers that show pad switches lie behind those of the sequencers. -/
theorem State.padRegs_behind {a : Nat} (h : a ∈ s.padRegs) : 0x300000 ≤ a := by
  obtain ⟨p, -, ha⟩ := List.mem_flatMap.1 h
  simp only [List.mem_cons, List.not_mem_nil, or_false] at ha
  unfold PMU_STAT MON_STAT monBase monOfChannel monOfSlice at ha
  split at ha <;> omega

/-! The end of a run (R112). -/

/-- A context whose run has the end code `code`: the vectors of the committed path are due. -/
def Ctx.ending (x : Ctx) (code : Nat) : Ctx :=
  { x with paths := [], forks := [], vecs := x.vecs.filter (fun v => v.need.isEmpty), code := some code, kill := none, rdv := none }

/-- A context whose run has ended. -/
def Ctx.ended (x : Ctx) : Ctx :=
  { x with
    present := [], instrs := [], rows := [], fetched := [], caches := [], resume := false, kill := none, rdv := none, waits := []
    rejoins := [] }

theorem endRun_fixes {code : Nat} (hCode : (s.ctx c).code = none) (hStall : (s.ctx c).stall = none) :
    endRun c code s = finishRun c (s.putCtx c ((s.ctx c).ending code)) := by
  have hEnd : stallEnd c s = s := by rw [stallEnd, hStall]
  simp only [endRun, hCode, hEnd, Option.isSome_none, Bool.false_eq_true, if_false, Ctx.ending]

/-- A run does not end while vectors still cross. -/
theorem finishRun_due (h : (s.ctx c).vecs ≠ []) : finishRun c s = s := by
  cases hCode : (s.ctx c).code with
  | none => simp only [finishRun, hCode]
  | some code => simp [finishRun, hCode, h]

/-- What the end of a run shows, its pins not yet parked. -/
def State.runEnded (s : State) (c code : Nat) : State :=
  (((s.putCtx c (s.ctx c).ended).setFld (SEQ_STAT c) 2 0 4).wrN (SEQ_CODE c) code).evt (SEQ_EVT c) 1

theorem State.ctx_runEnded (s : State) {code : Nat} : (s.runEnded c code).ctx c = (s.ctx c).ended := s.ctx_putCtx_self c _

/-- A caravan without sites that still are in its run ends it once its last vector has crossed. -/
theorem finishRun_ends {code : Nat} (hc : c < 64) (hCode : (s.ctx c).code = some code) (hActive : s.ctxActive c = true)
    (hVecs : (s.ctx c).vecs = []) (hSites : (s.ctx c).sites = []) (hHome : (s.ctx c).straggler = false) (hWaits : (s.ctx c).waits = [])
    (hRejoins : (s.ctx c).rejoins = []) (hJump : s.bit (SEQ_JSTAT c) 0 = false) : finishRun c s = parkCtx c (s.runEnded c code) := by
  have hTailed : s.tailed c = false := by simp [State.tailed, hSites]
  have hDrop : jumpDrop c (s.runEnded c code) = s.runEnded c code := by
    have hStat : (s.runEnded c code).rd (SEQ_JSTAT c) = s.rd (SEQ_JSTAT c) := by
      have hApart : SEQ_JSTAT c ≠ SEQ_EVT c ∧ SEQ_JSTAT c ≠ SEQ_CODE c ∧ SEQ_JSTAT c ≠ SEQ_STAT c ∧ SEQ_JSTAT c ≠ RUN_STAT c := by
        unfold SEQ_JSTAT SEQ_EVT SEQ_CODE SEQ_STAT RUN_STAT
        omega
      obtain ⟨hEvt, hCd, hSt, hRun⟩ := hApart
      rw [State.runEnded, State.rd_evt, if_neg hEvt, State.wrN, State.rd_wr_ne _ _ hCd, State.rd_setFld, if_neg hSt, State.rd_putCtx_ne _ _ hRun]
    refine if_neg ?_
    rw [State.bit, hStat]
    simpa [State.bit] using hJump
  have hCtx : (parkCtx c (s.runEnded c code)).ctx c = (s.ctx c).ended :=
    (State.ctx_congr parkCtx_moves.ctxs c).trans s.ctx_runEnded
  have hLeave : sitesLeave c code (parkCtx c (s.runEnded c code)) = parkCtx c (s.runEnded c code) := by
    rw [sitesLeave, hCtx, Ctx.ended, hSites]
    rfl
  have hFree : freeIfDone c (parkCtx c (s.runEnded c code)) = parkCtx c (s.runEnded c code) :=
    if_neg (by rw [hCtx, Ctx.ended, hHome]; simp)
  have hEnd : finishRun c s = freeIfDone c (sitesLeave c code (parkCtx c (jumpDrop c (s.runEnded c code)))) := by
    simp only [finishRun, hCode, hActive, hVecs, hTailed, hHome, hWaits, hRejoins, List.isEmpty_nil, Bool.and_self, Bool.not_false, if_true,
      Bool.false_eq_true, if_false, List.foldl_nil, State.runEnded, Ctx.ended]
  rw [hEnd, hDrop, hLeave, hFree]

/-- The vectors of the committed path are all kept. -/
theorem Ctx.ending_vecs {x : Ctx} {code : Nat} (h : ∀ v ∈ x.vecs, v.need = []) : (x.ending code).vecs = x.vecs :=
  List.filter_eq_self.2 fun v hv => by rw [h v hv]; rfl

/-- A running caravan with nothing due and no sites ends with its end code. -/
theorem finishRun_ending {code : Nat} (hc : c < 64) (hRun : s.fld (SEQ_STAT c) 2 0 = 2) (hEnding : t.ctx c = (s.ctx c).ending code)
    (hFrame : Frame [RUN_STAT c] s t) (hVecs : (s.ctx c).vecs = []) (hSites : (s.ctx c).sites = []) (hHome : (s.ctx c).straggler = false)
    (hWaits : (s.ctx c).waits = []) (hRejoins : (s.ctx c).rejoins = []) (hJump : s.bit (SEQ_JSTAT c) 0 = false) :
    finishRun c t = parkCtx c (t.runEnded c code) := by
  have hApart : SEQ_STAT c ≠ RUN_STAT c ∧ SEQ_JSTAT c ≠ RUN_STAT c := by
    unfold SEQ_STAT SEQ_JSTAT RUN_STAT
    omega
  have hStat : t.rd (SEQ_STAT c) = s.rd (SEQ_STAT c) := hFrame.regs _ (by simpa using hApart.1)
  have hJstat : t.rd (SEQ_JSTAT c) = s.rd (SEQ_JSTAT c) := hFrame.regs _ (by simpa using hApart.2)
  have hActive : t.ctxActive c = true := by
    have hRunning : t.fld (SEQ_STAT c) 2 0 = 2 := (congrArg (bitsOf · 2 0) hStat).trans hRun
    simp [State.ctxActive, hRunning]
  have hFree : t.bit (SEQ_JSTAT c) 0 = false := (congrArg (BitVec.getLsbD · 0) hJstat).trans hJump
  refine finishRun_ends hc ?_ hActive ?_ ?_ ?_ ?_ ?_ hFree <;> rw [hEnding]
  · rfl
  · rw [Ctx.ending, hVecs]
    rfl
  · exact hSites
  · exact hHome
  · exact hWaits
  · exact hRejoins

/-- What the end of a run shows stands, whatever its pins then do: their registers lie behind. -/
theorem runEnded_shows {code : Nat} (hc : c < 64) (hCode : code < 65536) (hPads : ∀ a ∈ (s.runEnded c code).padRegs, 0x300000 ≤ a) :
    (parkCtx c (s.runEnded c code)).fld (SEQ_STAT c) 2 0 = 4 ∧ (parkCtx c (s.runEnded c code)).rdN (SEQ_CODE c) = code ∧
      (parkCtx c (s.runEnded c code)).bit (SEQ_EVT c) 1 = true := by
  have hShown : ∀ a, a < 0x300000 → (parkCtx c (s.runEnded c code)).rd a = (s.runEnded c code).rd a :=
    fun a ha => parkCtx_moves.frame.regs a fun h => absurd (hPads a h) (by omega)
  have hBelow : SEQ_STAT c < 0x300000 ∧ SEQ_CODE c < 0x300000 ∧ SEQ_EVT c < 0x300000 := by
    unfold SEQ_STAT SEQ_CODE SEQ_EVT
    omega
  obtain ⟨hStat, hCd, hEvt⟩ := hBelow
  have hApart : SEQ_STAT c ≠ SEQ_EVT c ∧ SEQ_STAT c ≠ SEQ_CODE c ∧ SEQ_CODE c ≠ SEQ_EVT c := by
    unfold SEQ_STAT SEQ_CODE SEQ_EVT
    omega
  obtain ⟨hStatEvt, hStatCd, hCdEvt⟩ := hApart
  refine ⟨?_, ?_, ?_⟩
  · rw [State.fld, hShown _ hStat, State.runEnded, State.rd_evt, if_neg hStatEvt, State.wrN, State.rd_wr_ne _ _ hStatCd]
    exact State.fld_setFld _ _ _ _ _ (by decide) (by decide)
  · rw [State.rdN, hShown _ hCd, State.runEnded, State.rd_evt, if_neg hCdEvt, State.wrN, State.rd_wr_self]
    exact Nat.mod_eq_of_lt hCode
  · rw [State.bit, hShown _ hEvt]
    exact State.bit_evt_self _ _ _ (by decide)

/-- A path that has met HALT. -/
def Path.halted (p : Path) : Path := { p with block := none, halt := .ended 0x0D10 }

theorem State.casting_putCtx (s : State) (c : Nat) (x : Ctx) : (s.putCtx c x).casting = s.casting := rfl

/-- The only live path of a context meets HALT: the run's end code is fixed (R112). -/
theorem AtAction.halts {p : Path} {b : Block} (h : AtAction s c 0 0x0A p b) (hOnly : (s.ctx c).paths = [p]) (hNeed : p.need = [])
    (hStall : (s.ctx c).stall = none) (hCode : (s.ctx c).code = none) :
    ∃ u, instrRow 0x0A c 0 s = finishRun c u ∧ u.ctx c = (s.ctx c).ending 0x0D10 ∧ (∀ d, d ≠ c → u.ctx d = s.ctx d) ∧
      Frame [RUN_STAT c] s u ∧ u.casting = s.casting := by
  have hPut : (s.putPath c 0 p.halted).ctx c = { s.ctx c with paths := [p.halted] } := by
    rw [State.ctx_putPath_self, hOnly, List.set_cons_zero]
  have hAgain := (State.ctx_putCtx_self (s.putPath c 0 p.halted) c ((s.putPath c 0 p.halted).ctx c)).trans hPut
  have hFind : (((s.putPath c 0 p.halted).ctx c).paths.zipIdx.find? fun e => e.1.need.isEmpty) = some (p.halted, 0) := by
    rw [hPut]
    simp [Path.halted, hNeed]
  refine ⟨((s.putPath c 0 p.halted).putCtx c ((s.putPath c 0 p.halted).ctx c)).putCtx c ((s.ctx c).ending 0x0D10), ?_,
    State.ctx_putCtx_self .., fun d hd => ?_, ?_, ?_⟩
  · rw [h.instrRow_acts (.inl (by decide)), State.action_halt h.op]
    change settle c (s.putPath c 0 p.halted) = _
    rw [settle_ended hFind rfl h.unnoted, endRun_fixes (by rw [hAgain]; exact hCode) (by rw [hAgain]; exact hStall), hAgain]
    rfl
  · rw [State.ctx_putCtx_ne _ _ hd, State.ctx_putCtx_ne _ _ hd]
    exact s.ctx_putCtx_ne _ hd
  · exact ((Frame.refl.putCtx (by simp)).putCtx (by simp)).putCtx (by simp)
  · rw [State.casting_putCtx, State.casting_putCtx]
    exact s.casting_putCtx _ _

end Sys2Proof.Machine

open Sys2Proof Sys2Proof.Machine

/-- Settles O16: at the end of its block the path takes the control action (`AtAction.goes`, `AtAction.moves`), which the lemmas
`State.action_…` give for each opcode; HALT of the only path fixes the end code (`AtAction.halts`), and the run ends where no vector is due. -/
theorem controlActions : Obligations.ControlActions := by
  refine ⟨fun c n p b s => ⟨fun h => ?_, fun h => ?_, fun h => ?_, fun h hCond => ?_, fun h => ?_, fun r l h hStack => ?_, fun h hLoop => ?_,
    fun h hLoop => ?_, fun h hCond hLoop => ?_, fun h => ?_⟩, fun c p b s hc h hOnly hNeed hStall hCode => ?_⟩
  · exact ⟨_, rfl, h.goes (.inl (by decide)) (State.action_next (.inl h.op)) rfl⟩
  · exact ⟨_, rfl, h.goes (.inl (by decide)) (State.action_next (.inr h.op)) rfl⟩
  · exact ⟨_, rfl, h.goes (.inl (by decide)) (State.action_jump h.op) rfl⟩
  · have hAct := State.action_branch (s := s) (c := c) (p := p) (.inl h.op)
    rw [SeqPos.branch_plain (.inl (by rw [h.op]; decide))] at hAct
    exact ⟨_, rfl, h.goes (.inr hCond) hAct rfl⟩
  · exact ⟨_, rfl, h.goes (.inl (by decide)) (State.action_call h.op) rfl⟩
  · exact ⟨_, rfl, h.goes (.inl (by decide)) (State.action_return h.op hStack) rfl⟩
  · have hSelf : ((p.pos.setLoop b.instr.loop (p.loopLoaded b)).loopAt b.instr.loop) = p.loopLoaded b := SeqPos.loopAt_setLoop_self hLoop
    exact ⟨_, _, rfl, h.goes (.inl (by decide)) (State.action_loopSet h.op) rfl, rfl, rfl, congrArg LoopCtr.active hSelf,
      congrArg LoopCtr.count hSelf, congrArg LoopCtr.head hSelf, fun k hk => SeqPos.loopAt_setLoop_ne hk⟩
  · have hSelf : ((p.pos.setLoop b.instr.loop (p.pos.loopAt b.instr.loop).counted).loopAt b.instr.loop) =
        (p.pos.loopAt b.instr.loop).counted := SeqPos.loopAt_setLoop_self hLoop
    refine ⟨_, _, rfl, h.goes (.inl (by decide)) (State.action_loopEnd h.op) rfl, rfl, congrArg LoopCtr.count hSelf, fun hZero => ?_,
      fun hMore => ?_⟩
    · exact ⟨if_pos hZero, (congrArg LoopCtr.active hSelf).trans (by simp [LoopCtr.counted, hZero])⟩
    · exact ⟨if_neg hMore, (congrArg LoopCtr.active hSelf).trans (by simp [LoopCtr.counted, hMore])⟩
  · refine ⟨_, _, rfl, h.goes (.inr hCond) (State.action_branch (.inr h.op)) SeqPos.branch_notes, rfl, ?_, fun hSet => ?_, fun hClear => ?_⟩
    · unfold SeqPos.branch
      rfl
    · rw [hSet]
      exact SeqPos.branch_closes h.op hLoop
    · rw [SeqPos.branch_plain (.inr hClear)]
  · cases hEntry : s.rdvEntry c b.instr.arg with
    | none =>
      refine ⟨_, _, rfl, h.goes (.inl (by decide)) (State.action_waypoint h.op hEntry) rfl, rfl, rfl, fun _ => h.unhalted, fun r hSome => ?_⟩
      cases hSome
    | some r =>
      refine ⟨_, _, rfl, h.moves (.inl (by decide)) (State.action_rendezvous h.op hEntry) rfl rfl, rfl, rfl, ?_, fun k hk => ?_⟩
      · intro hNone
        cases hNone
      · cases hk
        rfl
  · obtain ⟨u, hExec, hEnding, hOthers, hFrame, hCasting⟩ := h.halts hOnly hNeed hStall hCode
    constructor
    · intro hDue hCommitted
      have hKeep := hEnding ▸ Ctx.ending_vecs hCommitted
      have hEnd : exec (.halt c 0) s = .next u := congrArg Host.Outcome.next (hExec.trans (finishRun_due (hKeep ▸ hDue)))
      exact ⟨u, hEnd, by rw [hEnding]; rfl, hKeep, by rw [hEnding]; rfl, hOthers, hFrame⟩
    · intro hVecs hSites hHome hWaits hRejoins hJump
      have hEnd := finishRun_ending hc h.running hEnding hFrame hVecs hSites hHome hWaits hRejoins hJump
      have hPads : (u.runEnded c 0x0D10).padRegs = s.padRegs := by
        rw [State.padRegs, State.padRegs, ← hCasting]
        rfl
      obtain ⟨hState, hCd, hEvt⟩ := runEnded_shows (s := u) hc (code := 0x0D10) (by decide) fun _ ha => State.padRegs_behind ha
      have hShown : Frame ([SEQ_STAT c, SEQ_CODE c, SEQ_EVT c, RUN_STAT c] ++ s.padRegs) s (u.runEnded c 0x0D10) :=
        ((((hFrame.mono (by simp)).putCtx (by simp)).setFld (by simp)).wrN (by simp)).evt (by simp)
      refine ⟨_, congrArg Host.Outcome.next (hExec.trans hEnd), hState, hCd, hEvt, ?_,
        hShown.trans (parkCtx_moves.frame.mono fun _ ha => List.mem_append_right _ (hPads ▸ ha))⟩
      rw [State.ctx_congr parkCtx_moves.ctxs c, u.ctx_runEnded, hEnding]
      rfl
end

section
/-!
PROOFS. Pattern data (R79, R99, R101, R105): the ingot that a path generates, and the items that arrive in the prefetch buffer.
-/

namespace Sys2Proof.Machine

variable {s t u : State} {c n : Nat} {p : Path} {b : Block}

/-! One ingot (R79). -/

/-- A fold that puts one item in front for each of its steps. -/
theorem foldl_length_of_step {α β γ : Type} {f : List α × β → γ → List α × β} (hf : ∀ acc v, (f acc v).1.length = acc.1.length + 1) (l : List γ)
    (acc : List α × β) : (l.foldl f acc).1.length = acc.1.length + l.length := by
  induction l generalizing acc with
  | nil => rfl
  | cons v l ih => rw [List.foldl_cons, ih, hf, List.length_cons, Nat.add_assoc, Nat.add_comm 1]

theorem State.ingotVecs_length {h time slots note : Nat} {data : List (Nat × List Byte × List Byte)} :
    (s.ingotVecs h p b time slots note data).1.length = 64 := by
  unfold State.ingotVecs
  rw [foldl_length_of_step fun _ _ => rfl, List.length_range]
  rfl

/-- Path `n` of context `c`, which was `p`, has generated an ingot of its block `b`: of the other contexts only the caravan's changes. -/
structure IngotMade (s t : State) (c n : Nat) (p : Path) (b : Block) : Prop where
  paths : ∃ q b', (t.ctx c).paths = (s.ctx c).paths.set n q ∧ q.halt = p.halt ∧ q.pos.notes = p.pos.notes ∧ q.pos.vec = p.pos.vec + 64 ∧
    q.block = some b' ∧ b'.done = b.done + 1
  vecs : (t.ctx c).vecs.length = (s.ctx c).vecs.length + 64
  others : ∀ d, d ≠ c → d ≠ s.homeOf c → t.ctx d = s.ctx d
  frame : Frame [RUN_STAT c] s t

theorem IngotMade.putCtx_self (h : IngotMade s t c n p b) : IngotMade s (t.putCtx c (t.ctx c)) c n p b := by
  refine ⟨?_, ?_, fun d hd hHome => ?_, h.frame.putCtx (by simp)⟩
  · rw [State.ctx_putCtx_self]
    exact h.paths
  · rw [State.ctx_putCtx_self]
    exact h.vecs
  · rw [State.ctx_putCtx_ne _ _ hd]
    exact h.others d hd hHome

/-- The loop caches of the caravan that a block fills leave the rest of its context. -/
theorem IngotMade.caches {l : List (Nat × Nat)} (h : IngotMade s t c n p b) :
    IngotMade s (t.setCtx (s.homeOf c) { t.ctx (s.homeOf c) with caches := l }) c n p b := by
  have hKept : ∀ d, ((t.setCtx (s.homeOf c) { t.ctx (s.homeOf c) with caches := l }).ctx d).paths = (t.ctx d).paths ∧
      ((t.setCtx (s.homeOf c) { t.ctx (s.homeOf c) with caches := l }).ctx d).vecs = (t.ctx d).vecs := by
    intro d
    by_cases hd : d = s.homeOf c
    · rw [hd, State.ctx_setCtx_self]
      exact ⟨rfl, rfl⟩
    · rw [State.ctx_setCtx_ne _ _ hd]
      exact ⟨rfl, rfl⟩
  refine ⟨?_, ?_, fun d hd hHome => ?_, h.frame.setCtx⟩
  · rw [(hKept c).1]
    exact h.paths
  · rw [(hKept c).2]
    exact h.vecs
  · rw [State.ctx_setCtx_ne _ _ hHome]
    exact h.others d hd hHome

theorem IngotMade.cachePlay {e : Nat} {lc : Bool} (h : IngotMade s t c n p b) : IngotMade s (cachePlay (s.homeOf c) e lc t) c n p b :=
  ite_of (Q := fun u => IngotMade s u c n p b) h h.caches

theorem genIngot_makes : IngotMade s (genIngot c n p b s) c n p b := by
  have hBegun : ∀ g, (if b.done = 0 then p.begun g b.instr else p).halt = p.halt ∧
      (if b.done = 0 then p.begun g b.instr else p).pos.notes = p.pos.notes ∧
      (if b.done = 0 then p.begun g b.instr else p).pos.vec = p.pos.vec := by
    intro g
    split <;> exact ⟨rfl, rfl, rfl⟩
  obtain ⟨hHalt, hNotes, hVec⟩ := hBegun (s.apgCfg (s.homeOf c))
  unfold genIngot
  have hPlay : ∀ {k : Prop} [Decidable k] {e : Nat} {lc : Bool} {u : State}, IngotMade s u c n p b →
      IngotMade s (if k then Machine.cachePlay (s.homeOf c) e lc u else u) c n p b := fun h =>
    ite_of (Q := fun u => IngotMade s u c n p b) h.cachePlay h
  refine hPlay ⟨?_, ?_, fun d hd _ => State.ctx_putCtx_ne _ _ hd, Frame.refl.putCtx (by simp)⟩
  · rw [State.ctx_putCtx_self]
    exact ⟨_, _, rfl, hHalt, hNotes, congrArg (· + 64) hVec, rfl, rfl⟩
  · rw [State.ctx_putCtx_self]
    dsimp only
    rw [List.length_append, List.length_reverse]
    refine congrArg (_ + ·) ?_
    split
    · next hList => exact (congrArg List.length hList).symm.trans State.ingotVecs_length
    · next hList => exact absurd ((congrArg List.length hList).symm.trans State.ingotVecs_length) (by simp)

/-- A path that nothing ends, stops or sends elsewhere goes on. -/
theorem State.boundary_goesOn (hKill : (s.ctx c).kill = none) (hStop : p.pos.stop = none) (hJump : p.pos.jump = none)
    (hSites : (s.ctx c).straggler = true ∨ s.anySite c = true) : s.boundary c p = p := by
  have hServes : (!(s.ctx c).straggler && !s.anySite c) = false := by rcases hSites with h | h <;> simp [h]
  simp [State.boundary, hKill, hStop, hJump, hServes]

/-- A block whose data is there generates its next ingot. -/
theorem ingotNow_generates (hPath : (s.ctx c).paths[n]? = some p) (hHalt : p.halt = .none) (hBlock : p.block = some b)
    (hOpen : b.finished = false) (hGoes : s.boundary c p = p)
    (hRow : b.instr.stored = true → b.row + b.done < (s.segEntry (s.homeOf c) b.instr.segment).length) (hData : s.ingotCause c b = none) :
    ingotNow c n s = settle c (genIngot c n p b s) := by
  have hEnough : (b.instr.stored && decide (b.row + b.done ≥ (s.segEntry (s.homeOf c) b.instr.segment).length)) = false := by
    cases hStored : b.instr.stored with
    | false => rfl
    | true => simpa using hRow hStored
  simp [ingotNow, hPath, hGoes, hHalt, hBlock, hOpen, hData, hEnough]

/-- An ingot generated on a path of a quiet context settles nothing. -/
theorem settle_ingotMade (h : IngotMade s t c n p b) (hQuiet : ∀ q ∈ (s.ctx c).paths, q.halt = .none ∧ q.pos.notes = [])
    (hPath : (s.ctx c).paths[n]? = some p) : IngotMade s (settle c t) c n p b := by
  obtain ⟨q, b', hPaths, hHalt, hNotes, -⟩ := h.paths
  obtain ⟨hNone, hEmpty⟩ := hQuiet p (List.mem_of_getElem? hPath)
  have hAll : ∀ r ∈ (t.ctx c).paths, r.halt.settles = false ∧ r.pos.notes = [] := by
    intro r hr
    rw [hPaths] at hr
    rcases List.mem_or_eq_of_mem_set hr with hOld | rfl
    · obtain ⟨h1, h2⟩ := hQuiet r hOld
      exact ⟨by rw [h1]; rfl, h2⟩
    · exact ⟨by rw [hHalt, hNone]; rfl, hNotes.trans hEmpty⟩
  rcases settle_quiet hAll with hSame | hSame <;> rw [hSame]
  · exact h
  · exact h.putCtx_self

/-! Arrivals in the prefetch buffer (R99, R101). -/

/-- Without a resume pending an arrival wakes nothing. -/
theorem tryResume_idle (h : (s.ctx c).resume = false) : tryResume c s = s := by
  unfold tryResume
  refine ite_of (Q := (· = s)) rfl ?_
  cases (s.ctx c).paths.zipIdx.find? fun e => e.1.need.isEmpty with
  | none => rfl
  | some e => exact if_neg (by simp [h])

/-- A context of which something is known other than that it is at rest stands in the table. -/
theorem mem_of_tabLookup {α : Type} {m : Tab α} {k : Nat} {v : α} (h : tabLookup m k = some v) : (k, v) ∈ m := by
  induction m with
  | nil => cases h
  | cons e m ih =>
    obtain ⟨a, w⟩ := e
    rw [tabLookup] at h
    split at h
    · next hk =>
      cases h
      exact hk ▸ List.mem_cons_self
    · exact List.mem_cons_of_mem _ (ih h)

/-- A context is its caravan's own or one of its stragglers. -/
theorem State.mem_caravan (s : State) (c : Nat) : c ∈ s.homeOf c :: s.stragglersOf (s.homeOf c) := by
  by_cases hStraggler : (s.ctx c).straggler = true
  · have hHome : s.homeOf c = (s.ctx c).home := if_pos hStraggler
    cases hLook : tabLookup s.ctxs c with
    | none =>
      rw [State.ctx, tabGet, hLook] at hStraggler
      cases hStraggler
    | some x =>
      have hCtx : s.ctx c = x := by rw [State.ctx, tabGet, hLook]; rfl
      refine List.mem_cons_of_mem _ (List.mem_map.2 ⟨(c, x), List.mem_filter.2 ⟨mem_of_tabLookup hLook, ?_⟩, rfl⟩)
      rw [hCtx] at hStraggler hHome
      simp [hStraggler, hHome]
  · have hHome : s.homeOf c = c := if_neg hStraggler
    rw [hHome]
    exact List.mem_cons_self

/-! Stream rows (R105). -/

/-- The row `n` of segment `e` has reached a context, whose next row is the one after it. -/
def Ctx.hasRow (x : Ctx) (e n : Nat) (data : List Byte) : Prop :=
  tabGet (fun _ => []) x.rows (rowKey e n) = data ∧ tabGet (fun _ => 0) x.fetched e = n + 1

/-- A context takes row `n` of segment `e`. -/
def Ctx.taking (x : Ctx) (e n : Nat) (data : List Byte) : Ctx :=
  { x with
    rows := tabSet (fun _ => []) x.rows (rowKey e n) data
    fetched := tabSet (fun _ => 0) x.fetched e (n + 1) }

theorem Ctx.hasRow_taking (x : Ctx) {e n : Nat} {data : List Byte} : (x.taking e n data).hasRow e n data := by
  simp [Ctx.hasRow, Ctx.taking]

/-- A row reaches contexts of `ks`, all of them at rest but those that await it. -/
structure RowTaken (e n : Nat) (data : List Byte) (ks : List Nat) (s t : State) : Prop where
  frame : Frame [] s t
  others : ∀ d, d ∉ ks → t.ctx d = s.ctx d
  resume : ∀ d, (t.ctx d).resume = (s.ctx d).resume
  keeps : ∀ d, (s.ctx d).hasRow e n data → (t.ctx d).hasRow e n data
  takes : ∀ d ∈ ks, s.ctxActive d = true → tabGet (fun _ => 0) (s.ctx d).fetched e = n → (t.ctx d).hasRow e n data

theorem RowTaken.cons {e k : Nat} {data : List Byte} {ks : List Nat} (h : RowTaken e n data [k] s t) (g : RowTaken e n data ks t u) :
    RowTaken e n data (k :: ks) s u := by
  refine ⟨h.frame.trans g.frame, fun d hd => ?_, fun d => (g.resume d).trans (h.resume d), fun d hd => g.keeps d (h.keeps d hd),
    fun d hd hActive hNext => ?_⟩
  · obtain ⟨hk, hks⟩ := not_or.1 (mt List.mem_cons.2 hd)
    exact (g.others d hks).trans (h.others d (by simpa using hk))
  · by_cases hk : d = k
    · exact g.keeps d (h.takes d (by simp [hk]) hActive hNext)
    · have hSame : t.ctx d = s.ctx d := h.others d (by simpa using hk)
      refine g.takes d ((List.mem_cons.1 hd).resolve_left hk) ?_ (by rw [hSame]; exact hNext)
      rw [State.ctxActive, State.fld, h.frame.regs _ List.not_mem_nil]
      exact hActive

theorem rowArrives_takes {e k : Nat} {data : List Byte} (hIdle : (s.ctx k).resume = false) :
    RowTaken e n data [k] s (rowArrives e n data s k) := by
  by_cases hAwaits : (s.ctxActive k && tabGet (fun _ => 0) (s.ctx k).fetched e == n) = true
  · have hRow : rowArrives e n data s k = s.setCtx k ((s.ctx k).taking e n data) :=
      (if_pos hAwaits).trans (tryResume_idle (by rw [State.ctx_setCtx_self]; exact hIdle))
    rw [hRow]
    have hSelf : ((s.setCtx k ((s.ctx k).taking e n data)).ctx k).hasRow e n data := by
      rw [State.ctx_setCtx_self]
      exact Ctx.hasRow_taking _
    refine ⟨Frame.refl.setCtx, fun d hd => s.ctx_setCtx_ne _ (by simpa using hd), fun d => ?_, fun d hd => ?_, fun d hd _ _ => ?_⟩
    · by_cases hk : d = k
      · rw [hk, State.ctx_setCtx_self, Ctx.taking]
      · rw [State.ctx_setCtx_ne _ _ hk]
    · by_cases hk : d = k
      · exact hk ▸ hSelf
      · rw [State.ctx_setCtx_ne _ _ hk]
        exact hd
    · exact List.mem_singleton.1 hd ▸ hSelf
  · have hRow : rowArrives e n data s k = s := if_neg hAwaits
    rw [hRow]
    refine ⟨.refl, fun _ _ => rfl, fun _ => rfl, fun _ h => h, fun d hd hActive hNext => absurd ?_ hAwaits⟩
    rw [← List.mem_singleton.1 hd, hActive, hNext]
    simp

/-- A row reaches a caravan and its stragglers, none of which has a resume pending. -/
theorem each_rowArrives_takes {e : Nat} {data : List Byte} {ks : List Nat} (hIdle : ∀ k ∈ ks, (s.ctx k).resume = false) :
    RowTaken e n data ks s (s.each ks (rowArrives e n data)) := by
  induction ks generalizing s with
  | nil => exact ⟨.refl, fun _ _ => rfl, fun _ => rfl, fun _ h => h, fun d hd => nomatch hd⟩
  | cons k ks ih =>
    have hFirst := rowArrives_takes (e := e) (n := n) (data := data) (hIdle k List.mem_cons_self)
    exact hFirst.cons (ih fun d hd => (hFirst.resume d).trans (hIdle d (List.mem_cons_of_mem _ hd)))

/-! Bytes written to host memory (R349). -/

theorem leBytes_length (n v : Nat) : (leBytes n v).length = n := by
  induction n generalizing v with
  | zero => rfl
  | succ n ih => rw [leBytes, List.length_cons, ih]

theorem hostStore_outside {m : Tab (Option Byte)} {a k : Nat} {l : List Byte} (h : k < a ∨ a + l.length ≤ k) :
    tabGet (fun _ => none) (hostStore m a l) k = tabGet (fun _ => none) m k := by
  induction l generalizing m a with
  | nil => rfl
  | cons x l ih =>
    rw [List.length_cons] at h
    rw [hostStore, ih (by omega), tabGet_set_ne (by omega)]

theorem hostStore_inside {m : Tab (Option Byte)} {a i : Nat} {l : List Byte} (h : i < l.length) :
    tabGet (fun _ => none) (hostStore m a l) (a + i) = l[i]? := by
  induction l generalizing m a i with
  | nil => cases h
  | cons x l ih =>
    rw [hostStore]
    cases i with
    | zero => rw [hostStore_outside (.inl (by omega)), Nat.add_zero, tabGet_set_self, List.getElem?_cons_zero]
    | succ i =>
      rw [List.getElem?_cons_succ, Nat.add_comm i 1, ← Nat.add_assoc]
      exact ih (Nat.lt_of_succ_lt_succ h)

/-- Bytes written to host memory stand in order. -/
theorem State.hostByte_hostWrite_inside (s : State) {a i : Nat} {l : List Byte} (h : i < l.length) :
    (s.hostWrite a l).hostByte (a + i) = l[i]? := hostStore_inside h

/-- A write to host memory leaves every byte outside it alone. -/
theorem State.hostByte_hostWrite_outside (s : State) {a x : Nat} {l : List Byte} (h : x < a ∨ a + l.length ≤ x) :
    (s.hostWrite a l).hostByte x = s.hostByte x := hostStore_outside h

/-- The next row of the stream that the committed path plays is fetched for the caravan and its stragglers, and the consumer index follows. -/
theorem streamFetch_takes {e prod : Nat} {data : List Byte} (hActive : s.ctxActive c = true)
    (hIdle : ∀ k ∈ s.homeOf c :: s.stragglersOf (s.homeOf c), (s.ctx k).resume = false) (hEntry : s.streamEntry c = some e)
    (hValid : s.segValid (s.homeOf c) (s.segEntry (s.homeOf c) e) = true) (hLock : s.entryLocked (s.partOf (s.homeOf c)) e = false)
    (hHost : s.bit HST_STAT 15 = true) (hBelow : tabGet (fun _ => 0) (s.ctx c).fetched e < prod)
    (hIndex : tabGet (fun _ => 0) (s.ctx c).fetched e < (s.segEntry (s.homeOf c) e).length)
    (hLength : data.length = (s.segEntry (s.homeOf c) e).rowBytes) (hRoom : (s.ctx c).rows.length < s.prefetchDepth (s.homeOf c)) :
    ∃ t l, RowTaken e (tabGet (fun _ => 0) (s.ctx c).fetched e) data (s.homeOf c :: s.stragglersOf (s.homeOf c)) s t ∧
      streamFetch c prod data s = t.hostWrite (s.segEntry (s.homeOf c) e).consAddr l ∧
      l = leBytes 8 (tabGet (fun _ => 0) (s.ctx c).fetched e + 1) :=
  ⟨_, _, each_rowArrives_takes hIdle,
    by simp [streamFetch, hEntry, hActive, hValid, hLock, hHost, hBelow, hIndex, hLength, hRoom], rfl⟩

end Sys2Proof.Machine

open Sys2Proof Sys2Proof.Machine

/-- Settles O18: the ingot is what `genIngot` makes, with 64 vectors (`State.ingotVecs_length`), and settles nothing; arrivals only add their
item, as no resume is pending (`tryResume_idle`, `each_rowArrives_takes`). -/
theorem patternDataArrivesAndIsGenerated : Obligations.PatternDataArrivesAndIsGenerated := by
  refine ⟨?_, ?_, ?_, ?_⟩
  · intro c n p b s hRun hPath hBlock hOpen hDue hKill hStop hJump hSites hRow hData hQuiet
    have hHalt := (hQuiet p (List.mem_of_getElem? hPath)).1
    have hExec : ingotGenerate c n s = settle c (genIngot c n p b s) := by
      have hNow := ingotNow_generates hPath hHalt hBlock hOpen (State.boundary_goesOn hKill hStop hJump hSites) hRow hData
      simp [ingotGenerate, hPath, hRun, hHalt, hBlock, hOpen, State.atDue_now hDue, hNow]
    obtain ⟨⟨q, b', hPaths, -, -, hVec, hBlock', hDone⟩, hVecs, hOthers, hFrame⟩ := settle_ingotMade genIngot_makes hQuiet hPath
    have hPlace : n < (s.ctx c).paths.length := (List.getElem?_eq_some_iff.1 hPath).1
    exact ⟨_, q, b', congrArg Host.Outcome.next hExec, hVecs, by rw [hPaths, List.getElem?_set_self hPlace], hVec, hBlock', hDone, hOthers,
      hFrame⟩
  · intro c k s hActive hIdle hKind hIndex hLock hNew
    have hExec : prefetchArrival c (s.ctx c).program k s = s.setCtx c { s.ctx c with instrs := (s.ctx c).instrs ++ [k] } := by
      have hStays := tryResume_idle (s := s.setCtx c { s.ctx c with instrs := (s.ctx c).instrs ++ [k] }) (c := c)
        (by rw [State.ctx_setCtx_self]; exact hIdle)
      simp [prefetchArrival, hActive, hLock, hKind, hIndex, hNew, hStays]
    refine ⟨_, congrArg Host.Outcome.next hExec, ?_, ?_, fun d hd => s.ctx_setCtx_ne _ hd, Frame.refl.setCtx⟩ <;> rw [State.ctx_setCtx_self]
  · intro c e k s hActive hIdle hApart hValid hStored hIndex hLock hRoom
    have hExec : prefetchArrival c e k s = s.setCtx c { s.ctx c with present := (s.ctx c).present ++ [(e, k)] } := by
      have hStays := tryResume_idle (s := s.setCtx c { s.ctx c with present := (s.ctx c).present ++ [(e, k)] }) (c := c)
        (by rw [State.ctx_setCtx_self]; exact hIdle)
      simp [prefetchArrival, hActive, hLock, hApart, hValid, hStored, hIndex, hRoom, hStays]
    refine ⟨_, congrArg Host.Outcome.next hExec, ?_, ?_, fun d hd => s.ctx_setCtx_ne _ hd, Frame.refl.setCtx⟩ <;> rw [State.ctx_setCtx_self]
  · intro c e prod data s hActive hIdle hEntry hValid hLock hHost hBelow hIndex hLength hRoom n a
    obtain ⟨t, l, ⟨hFrame, hOthers, -, -, hTakes⟩, hExec, hBytes⟩ :=
      streamFetch_takes hActive hIdle hEntry hValid hLock hHost hBelow hIndex hLength hRoom
    obtain ⟨hRow, hNext⟩ := hTakes c (s.mem_caravan c) hActive rfl
    have hCount : l.length = 8 := hBytes ▸ leBytes_length ..
    refine ⟨_, congrArg Host.Outcome.next hExec, hRow, hNext, fun i hi => ?_, fun x hx => ?_, fun r => hFrame.regs r List.not_mem_nil,
      hFrame.mem, hFrame.shadow.1, hFrame.shadow.2, hFrame.nv, fun d hd hs => hOthers d (mt List.mem_cons.1 (not_or.2 ⟨hd, hs⟩))⟩
    · exact (t.hostByte_hostWrite_inside (by rwa [hCount])).trans (congrArg (·[i]?) hBytes)
    · exact (t.hostByte_hostWrite_outside (by rwa [hCount])).trans (hFrame.hostMem x)
end

section
/-!
PROOFS. Calm updates: the operations of the pins, the units, the run log and fail capture as what they leave alone: every context, the
casting in force, time, non-volatile memory and the command queue. Each rule adds one operation to a chain of such updates.
-/

namespace Sys2Proof.Machine

/-- `t` keeps the contexts, the casting, time, non-volatile memory and the queue of `s`, and device memory where `Q` holds. -/
structure Calm (Q : Prop) (s t : State) : Prop where
  ctxs : t.ctxs = s.ctxs
  cast : t.cast = s.cast
  time : t.time = s.time
  nv : t.nv = s.nv
  pending : t.pending = s.pending
  mem : Q → t.mem = s.mem

variable {Q : Prop} {s t u : State} {c n ch : Nat}

theorem Calm.refl : Calm Q s s := ⟨rfl, rfl, rfl, rfl, rfl, fun _ => rfl⟩

theorem Calm.casting (h : Calm Q s t) : t.casting = s.casting := congrArg (fun x : CastState => x.applied.getD Casting.none) h.cast

theorem Calm.ctx (h : Calm Q s t) (d : Nat) : t.ctx d = s.ctx d := State.ctx_congr h.ctxs d

theorem Calm.up (h : Calm Q s t) : t.time.up = s.time.up := congrArg Time.up h.time

section
variable (h : Calm Q s t)
include h

theorem Calm.trans (g : Calm Q t u) : Calm Q s u :=
  ⟨g.ctxs.trans h.ctxs, g.cast.trans h.cast, g.time.trans h.time, g.nv.trans h.nv, g.pending.trans h.pending,
    fun q => (g.mem q).trans (h.mem q)⟩

/-- An update of other parts of the state than these. -/
theorem Calm.upd (hu : (u.ctxs, u.cast, u.time, u.nv, u.pending, u.mem) = (t.ctxs, t.cast, t.time, t.nv, t.pending, t.mem)) : Calm Q s u := by
  simp only [Prod.mk.injEq] at hu
  obtain ⟨hCtxs, hCast, hTime, hNv, hPending, hMem⟩ := hu
  exact h.trans ⟨hCtxs, hCast, hTime, hNv, hPending, fun _ => hMem⟩

/-! Registers and records of units. -/

theorem Calm.wr {a : Nat} {w : Word} : Calm Q s (t.wr a w) := h.upd rfl
theorem Calm.wrN {a v : Nat} : Calm Q s (t.wrN a v) := h.wr
theorem Calm.setFld {a hi lo v : Nat} : Calm Q s (t.setFld a hi lo v) := h.wr
theorem Calm.setBit {a b : Nat} {v : Bool} : Calm Q s (t.setBit a b v) := h.wr
theorem Calm.evt {a b : Nat} : Calm Q s (t.evt a b) := h.upd rfl
theorem Calm.incBy {a k : Nat} : Calm Q s (t.incBy a k) := h.upd rfl
theorem Calm.inc {a : Nat} : Calm Q s (t.inc a) := h.incBy
theorem Calm.free : Calm Q s t.free.2 := h.upd rfl
theorem Calm.setWfs {k : Nat} {x : Wfs} : Calm Q s (t.setWfs k x) := h.upd rfl
theorem Calm.setAcq {k : Nat} {x : Acq} : Calm Q s (t.setAcq k x) := h.upd rfl
theorem Calm.setTdc {k : Nat} {x : Tdc} : Calm Q s (t.setTdc k x) := h.upd rfl
theorem Calm.setMon {k : Nat} {x : Monitor} : Calm Q s (t.setMon k x) := h.upd rfl
theorem Calm.setSite {k : Nat} {x : Site} : Calm Q s (t.setSite k x) := h.upd rfl
theorem Calm.setChan {k : Nat} {x : Chan} : Calm Q s (t.setChan k x) := h.upd rfl
theorem Calm.setChk {k : Nat} {x : ChkUnit} : Calm Q s (t.setChk k x) := h.upd rfl
theorem Calm.setQueue {a : Nat} {q : ResQueue} : Calm Q s (t.setQueue a q) := h.upd rfl
theorem Calm.pushResult {a st : Nat} {ws : List Nat} : Calm Q s (t.pushResult a st ws) := h.upd rfl
theorem Calm.dropResult {a : Nat} : Calm Q s (t.dropResult a) := h.upd rfl

theorem Calm.setWide {a k v : Nat} : Calm Q s (t.setWide a k v) := by
  induction k generalizing t a v with
  | zero => exact h
  | succ k ih => exact ih h.wrN

theorem Calm.addWide {a k : Nat} : Calm Q s (t.addWide a k) := h.setWide

/-! The same update for each of a list, and only where a condition holds. -/

theorem Calm.foldl {β : Type} {l : List β} {f : State → β → State} (hf : ∀ u k, Calm Q s u → Calm Q s (f u k)) : Calm Q s (l.foldl f t) :=
  List.foldlRecOn (motive := Calm Q s) l f h fun u hu k _ => hf u k hu

theorem Calm.each {l : List Nat} {f : State → Nat → State} (hf : ∀ u k, Calm Q s u → Calm Q s (f u k)) : Calm Q s (t.each l f) := h.foldl hf

theorem Calm.when {b : Bool} {f : State → State} (hf : Calm Q s (f t)) : Calm Q s (t.when b f) := ite_of hf h

/-! Pins (R46, R145, R155, R158, R286). -/

theorem Calm.drivers {f : Chan → Chan} : Calm Q s (t.drivers ch f) := h.each fun _ _ hu => hu.setChan

theorem Calm.holdSymbol {sym : Nat} : Calm Q s (t.holdSymbol ch sym) := h.drivers

theorem Calm.timerEvent {b : Nat} : Calm Q s (t.timerEvent b) := ite_of h h.setMon.setBit

theorem Calm.settingEvent {b : Nat} : Calm Q s (t.settingEvent b) := ite_of h.timerEvent h

theorem Calm.monRefresh {k : Nat} : Calm Q s (t.monRefresh k) := ite_of h (ite_of h.setFld.setMon.settingEvent h.setFld.setMon)

theorem Calm.pmuUpdate : Calm Q s (t.pmuUpdate ch) :=
  Calm.monRefresh (ite_of (h.setBit (b := 1)).setBit (h.setBit (b := 1)).setBit.setBit)

theorem Calm.padClosed : Calm Q s (t.padClosed ch) := h.setChan.holdSymbol.pmuUpdate

theorem Calm.padSettle : Calm Q s (t.padSettle ch) := ite_of h.padClosed h

theorem Calm.applyPark {park : Nat} : Calm Q s (t.applyPark ch park) := ite_of h.padSettle h.padSettle.holdSymbol

theorem Calm.parkPins {l : List PinRec} : Calm Q s (l.foldl (fun t p => if p.role = 6 then t else t.applyPark p.channel p.park) t) :=
  h.foldl fun _ _ hu => ite_of hu hu.applyPark

theorem Calm.parkSite : Calm Q s (parkSite t n) := h.parkPins

theorem Calm.parkCtx : Calm Q s (parkCtx c t) := h.parkPins

theorem Calm.commonsFollow : Calm Q s (commonsFollow c t) := ite_of (h.foldl fun _ _ hu => hu.applyPark) h

theorem Calm.soundDrive : Calm Q s (soundDrive c t) := by
  unfold Machine.soundDrive
  split
  · exact h
  · split
    · exact h
    · exact h.foldl fun _ _ hu => hu.holdSymbol

end

/-! The run log, which device memory holds (R346). -/

theorem Calm.memWrite (h : Calm False s t) {a : Nat} {l : List Byte} : Calm False s (t.memWrite a l) :=
  ⟨h.ctxs, h.cast, h.time, h.nv, h.pending, False.elim⟩

theorem Calm.logEntry (h : Calm False s t) {type flags time : Nat} {payload : List Byte} : Calm False s (t.logEntry type flags time payload) :=
  State.logEntry_shape (Q := Calm False s) t _ _ _ _ (fun _ _ _ => h.memWrite.setWide) fun _ _ _ => h.memWrite.setWide.inc.evt

theorem Calm.log (h : Calm False s t) {type time : Nat} {payload : List Byte} : Calm False s (t.log type time payload) := h.logEntry

theorem Calm.logSites (h : Calm False s t) {type time : Nat} {fixed : List Byte} {sites : List Nat} :
    Calm False s (t.logSites type time fixed sites) := h.logEntry.logEntry

end Sys2Proof.Machine
end

section
/-!
PROOFS. Soundings (R119 to R121): what a sounding shows when it begins, fails and ends, and the results that come one after the other.
-/

namespace Sys2Proof.Machine

variable {s t u : State} {c : Nat}

/-! What stays of sequencers and runs when other blocks change. -/

/-- `t` shows what `s` shows in every register of sequencers and runs, and its contexts and time are those of `s`. -/
structure RunsStay (s t : State) : Prop where
  regs : ∀ a, 0x100000 ≤ a → a < 0x300000 → t.rd a = s.rd a
  ctxs : t.ctxs = s.ctxs
  time : t.time = s.time

theorem RunsStay.refl : RunsStay s s := ⟨fun _ _ _ => rfl, rfl, rfl⟩

theorem RunsStay.trans (h : RunsStay s t) (g : RunsStay t u) : RunsStay s u :=
  ⟨fun a hLo hHi => (g.regs a hLo hHi).trans (h.regs a hLo hHi), g.ctxs.trans h.ctxs, g.time.trans h.time⟩

/-- The registers in which a sounding shows its course are among those that stay. -/
theorem RunsStay.sound (h : RunsStay s t) (hc : c < 64) : t.rd (RUN_SND_STAT c) = s.rd (RUN_SND_STAT c) ∧
    t.rd (RUN_SND_CODE c) = s.rd (RUN_SND_CODE c) ∧ t.rd (RUN_CD_MIN c) = s.rd (RUN_CD_MIN c) ∧ t.rd (RUN_EVT c) = s.rd (RUN_EVT c) := by
  unfold RUN_SND_STAT RUN_SND_CODE RUN_CD_MIN RUN_EVT
  exact ⟨h.regs _ (by omega) (by omega), h.regs _ (by omega) (by omega), h.regs _ (by omega) (by omega), h.regs _ (by omega) (by omega)⟩

section
variable (h : RunsStay s t)
include h

/-- An update of other parts of the state than these. -/
theorem RunsStay.upd (hu : (u.regs, u.ctxs, u.time) = (t.regs, t.ctxs, t.time)) : RunsStay s u := by
  simp only [Prod.mk.injEq] at hu
  obtain ⟨hRegs, hCtxs, hTime⟩ := hu
  exact h.trans ⟨fun a _ _ => State.rd_congr hRegs a, hCtxs, hTime⟩

theorem RunsStay.wr {a : Nat} {w : Word} (ha : a < 0x100000) : RunsStay s (t.wr a w) :=
  h.trans ⟨fun b hLo _ => State.rd_wr_ne t w (by omega), rfl, rfl⟩

theorem RunsStay.wrN {a v : Nat} (ha : a < 0x100000) : RunsStay s (t.wrN a v) := h.wr ha
theorem RunsStay.setFld {a hi lo v : Nat} (ha : a < 0x100000) : RunsStay s (t.setFld a hi lo v) := h.wr ha
theorem RunsStay.setBit {a b : Nat} {v : Bool} (ha : a < 0x100000) : RunsStay s (t.setBit a b v) := h.wr ha

theorem RunsStay.evt {a b : Nat} (ha : a < 0x100000) : RunsStay s (t.evt a b) :=
  (h.wr (w := t.rd a ||| BitVec.ofNat 16 (2 ^ b)) ha).upd rfl

theorem RunsStay.forceBits {a : Nat} {mask v : Word} (ha : a < 0x100000) : RunsStay s (t.forceBits a mask v) :=
  (h.wr (w := (t.rd a &&& ~~~mask) ||| (v &&& mask)) ha).upd rfl

theorem RunsStay.setWide {a n v : Nat} (ha : a + 2 * n ≤ 0x100000) : RunsStay s (t.setWide a n v) := by
  induction n generalizing t a v with
  | zero => exact h
  | succ n ih => exact ih (h.wrN (by omega)) (by omega)

/-! Touchdown begins (R399, R412). -/

theorem RunsStay.fiStop : RunsStay s t.fiStop := by
  have hCleared : RunsStay s (fiRegs.foldl (fun t a => t.forceBits a 0x8000#16 0#16) t) :=
    List.foldlRecOn (motive := RunsStay s) _ _ h fun u hu a ha => hu.forceBits (by
      have hAll : ∀ a ∈ fiRegs, a < 0x100000 := by decide
      exact hAll a ha)
  exact ite_of (hCleared.evt (by decide)) h

theorem RunsStay.showFwSlot {a : Nat} {x : FwSlot} (ha : a + 12 ≤ 0x100000) : RunsStay s (t.showFwSlot a x) :=
  (((h.wrN (by omega)).wrN (by omega)).setWide (by omega)).setWide (by omega)

theorem RunsStay.showFw : RunsStay s t.showFw :=
  have hSlots := (h.showFwSlot (a := FWU_SLOTA_STAT) (x := t.nv.fwA) (by decide)).showFwSlot (a := FWU_SLOTB_STAT) (x := t.nv.fwB) (by decide)
  (((hSlots.setBit (by decide)).setBit (by decide)).setFld (by decide)).setWide (by decide)

theorem RunsStay.complete {tag op code d0 d1 d2 : Nat} : RunsStay s (t.complete tag op code d0 d1 d2) := h.upd rfl

theorem RunsStay.fwEnd {header : Bool} {code d0 : Nat} : RunsStay s (t.fwEnd header code d0) := by
  unfold State.fwEnd
  cases t.fw with
  | none => exact h
  | some j =>
    refine ite_of h (RunsStay.complete (RunsStay.evt (RunsStay.wrN (RunsStay.setBit (RunsStay.showFw ?_) (by decide)) (by decide)) (by decide)))
    have hSlot : RunsStay s (if !header then t.setFwSlot j.toB ⟨0, [], [], false⟩ else t) := ite_of (h.upd rfl) h
    refine RunsStay.setFld (RunsStay.setFld ?_ ?_) ?_
    · exact hSlot.upd rfl
    · decide
    · decide

theorem RunsStay.touchdownBegins : RunsStay s t.touchdownBegins := h.fiStop.fwEnd

/-! The run log, and the pins of a sounding (R120, R121). -/

theorem RunsStay.soundLog {result code minimum r : Nat} : RunsStay s (soundLog c result code minimum r t) :=
  h.trans ⟨fun a hLo _ => State.rd_log _ _ _ _ (by
    simp only [logRegs, HST_LOG_WR, HST_LOG_LOST, HST_EVT, List.mem_cons, List.not_mem_nil, or_false]
    omega), State.log_ctxs .., State.log_time ..⟩

end

/-- The pins of a sounding that return to park move what shows their pad switches. -/
theorem soundPark_moves : PinsMove s.padRegs s (soundPark c s) ∧ Calm True s (soundPark c s) := by
  refine List.foldlRecOn (motive := fun u => PinsMove s.padRegs s u ∧ Calm True s u) _ _ ⟨⟨.refl, rfl⟩, .refl⟩ fun u ⟨hMoves, hCalm⟩ ch _ => ?_
  cases hPin : findPin u.casting ch with
  | none => exact ⟨hMoves, hCalm⟩
  | some p =>
    rw [hCalm.casting] at hPin
    have hChannel : p.channel = ch := by simpa using List.find?_some hPin
    have hShows : ∀ a ∈ [PMU_STAT ch, MON_STAT (monBase ch)], a ∈ s.padRegs := fun a ha =>
      List.mem_flatMap.2 ⟨p, List.mem_of_find?_eq_some hPin, by rwa [hChannel]⟩
    exact ⟨hMoves.applyPark (hShows _ (by simp)) (hShows _ (by simp)), hCalm.applyPark⟩

theorem soundDrive_moves : PinsMove [] s (soundDrive c s) := by
  have hSame : PinsMove [] s s := ⟨.refl, rfl⟩
  unfold soundDrive
  split
  · exact hSame
  · split
    · exact hSame
    · exact List.foldlRecOn (motive := PinsMove [] s) _ _ hSame fun u hu e _ => hu.drivers

theorem RunsStay.soundPark (h : RunsStay s t) : RunsStay s (soundPark c t) :=
  have hMoves := soundPark_moves (c := c) (s := t)
  h.trans ⟨fun a _ hHi => hMoves.1.frame.regs a fun hPad => absurd (State.padRegs_behind hPad) (by omega), hMoves.1.ctxs, hMoves.2.time⟩

theorem RunsStay.soundDrive (h : RunsStay s t) : RunsStay s (soundDrive c t) :=
  h.trans ⟨fun a _ _ => soundDrive_moves.frame.regs a List.not_mem_nil, soundDrive_moves.ctxs, (Calm.soundDrive (Q := True) .refl).time⟩

/-! A sounding fails, begins and ends. -/

/-- The registers that show a failed sounding. -/
def State.soundFailed (s : State) (c code r : Nat) : State :=
  ((((s.setFld (RUN_SND_STAT c) 1 0 3).setFld (RUN_SND_STAT c) 15 8 r).wrN (RUN_SND_CODE c) code).setBit (RUN_CD_MIN c) 15 false).evt
    (RUN_EVT c) 3

/-- What a failed sounding leaves. -/
structure SoundFails (c code r : Nat) (s t : State) : Prop where
  code : t.rdN (RUN_SND_CODE c) = code
  state : t.fld (RUN_SND_STAT c) 1 0 = 3
  record : t.fld (RUN_SND_STAT c) 15 8 = r % 256
  invalid : t.bit (RUN_CD_MIN c) 15 = false
  event : t.bit (RUN_EVT c) 3 = true
  ended : (t.ctx c).sound = none
  time : t.time = s.time

/-- The registers that a sounding shows its course in are apart. -/
theorem soundRegs_apart (c : Nat) : RUN_SND_STAT c ≠ RUN_EVT c ∧ RUN_SND_STAT c ≠ RUN_CD_MIN c ∧ RUN_SND_STAT c ≠ RUN_SND_CODE c ∧
    RUN_SND_CODE c ≠ RUN_EVT c ∧ RUN_SND_CODE c ≠ RUN_CD_MIN c ∧ RUN_CD_MIN c ≠ RUN_EVT c := by
  unfold RUN_SND_STAT RUN_EVT RUN_CD_MIN RUN_SND_CODE
  omega

theorem soundFail_fails {code r : Nat} (hc : c < 64) (hCode : code < 65536) : SoundFails c code r s (soundFail c code r s) := by
  have hStays : RunsStay ((s.setSound c none).soundFailed c code r) (soundFail c code r s) := RunsStay.refl.soundPark.soundLog
  obtain ⟨hStatEvt, hStatMin, hStatCode, hCodeEvt, hCodeMin, hMinEvt⟩ := soundRegs_apart c
  have hStat : ((s.setSound c none).soundFailed c code r).rd (RUN_SND_STAT c) =
      (((s.setSound c none).setFld (RUN_SND_STAT c) 1 0 3).setFld (RUN_SND_STAT c) 15 8 r).rd (RUN_SND_STAT c) := by
    rw [State.soundFailed, State.rd_evt, if_neg hStatEvt, State.setBit, State.rd_setFld, if_neg hStatMin, State.wrN, State.rd_wr_ne _ _ hStatCode]
  obtain ⟨hRdStat, hRdCode, hRdMin, hRdEvt⟩ := hStays.sound hc
  refine ⟨?_, ?_, ?_, ?_, ?_, ?_, hStays.time⟩
  · rw [State.rdN, hRdCode, State.soundFailed, State.rd_evt, if_neg hCodeEvt, State.setBit, State.rd_setFld, if_neg hCodeMin, State.wrN,
      State.rd_wr_self]
    exact Nat.mod_eq_of_lt hCode
  · rw [State.fld, hRdStat, hStat]
    exact (State.fld_setFld_apart _ _ (by decide) (by decide) (by decide) (.inl (by decide))).trans
      (State.fld_setFld _ _ _ _ _ (by decide) (by decide))
  · rw [State.fld, hRdStat, hStat]
    exact State.fld_setFld _ _ _ _ _ (by decide) (by decide)
  · rw [State.bit, hRdMin, State.soundFailed, State.rd_evt, if_neg hMinEvt]
    exact State.bit_setBit_self _ _ (by decide)
  · rw [State.bit, hRdEvt]
    exact State.bit_evt_self _ _ _ (by decide)
  · rw [State.ctx_congr hStays.ctxs c]
    exact congrArg Ctx.sound (s.ctx_setCtx_self c _)

/-- A sounding that begins: no result is valid, and its first sequence crosses from this clock on. -/
theorem soundBegin_begins (hc : c < 64) : (soundBegin c s).bit (RUN_CD_MIN c) 15 = false ∧ (soundBegin c s).fld (RUN_SND_STAT c) 1 0 = 1 ∧
    ((soundBegin c s).ctx c).sound = some ⟨0, 0, s.time.up, []⟩ := by
  have hStays : RunsStay (((s.setBit (RUN_CD_MIN c) 15 false).setFld (RUN_SND_STAT c) 1 0 1).setSound c (some ⟨0, 0, s.time.up, []⟩))
      (soundBegin c s) := RunsStay.refl.touchdownBegins.soundDrive
  obtain ⟨-, hStatMin, -⟩ := soundRegs_apart c
  obtain ⟨hRdStat, -, hRdMin, -⟩ := hStays.sound hc
  refine ⟨?_, ?_, ?_⟩
  · rw [State.bit, hRdMin, State.setSound, State.rd_setCtx, State.rd_setFld, if_neg hStatMin.symm]
    exact State.bit_setBit_self _ _ (by decide)
  · rw [State.fld, hRdStat, State.setSound, State.rd_setCtx]
    exact State.fld_setFld _ _ _ _ _ (by decide) (by decide)
  · rw [State.ctx_congr hStays.ctxs c]
    exact congrArg Ctx.sound (State.ctx_setCtx_self _ c _)

/-- The minimum commit delay that results with their margins give, at least 256 (R121). -/
def soundNeed (best : List (Nat × Nat)) : Nat := max 256 ((best.map fun e => e.1 + e.2).foldl max 0)

/-- A sounding that ends with a minimum beyond 2,048 fails. -/
theorem soundEnds_exceeds {best : List (Nat × Nat)} (h : 2048 < soundNeed best) :
    ∃ r u, soundEnds c best s = soundFail c 0x0E09 r u ∧ u.time = s.time :=
  ⟨_, _, if_pos h, rfl⟩

/-- A sounding that ends gives its minimum commit delay, up to 2,048. -/
theorem soundEnds_gives {best : List (Nat × Nat)} (hc : c < 64) (h : soundNeed best ≤ 2048) :
    (soundEnds c best s).rdN (RUN_CD_MIN c) = 0x8000 + soundNeed best ∧ (soundEnds c best s).fld (RUN_SND_STAT c) 1 0 = 2 ∧
      (soundEnds c best s).bit (RUN_EVT c) 2 = true ∧ ((soundEnds c best s).ctx c).sound = none ∧ (soundEnds c best s).time = s.time := by
  let shown := (s.setSound c none).wrN (RUN_SND_RT c) ((best.map (·.1)).foldl max 0)
  have hStays : RunsStay (((shown.wrN (RUN_CD_MIN c) (0x8000 + soundNeed best)).setFld (RUN_SND_STAT c) 1 0 2).evt (RUN_EVT c) 2)
      (soundEnds c best s) := by
    have hEnds : soundEnds c best s = soundLog c 0 0 (soundNeed best) 0 (soundPark c
        (((shown.wrN (RUN_CD_MIN c) (0x8000 + soundNeed best)).setFld (RUN_SND_STAT c) 1 0 2).evt (RUN_EVT c) 2)) := if_neg (Nat.not_lt.2 h)
    rw [hEnds]
    exact RunsStay.refl.soundPark.soundLog
  obtain ⟨hStatEvt, hStatMin, -, -, -, hMinEvt⟩ := soundRegs_apart c
  obtain ⟨hRdStat, -, hRdMin, hRdEvt⟩ := hStays.sound hc
  refine ⟨?_, ?_, ?_, ?_, hStays.time⟩
  · rw [State.rdN, hRdMin, State.rd_evt, if_neg hMinEvt, State.rd_setFld, if_neg hStatMin.symm, State.wrN, State.rd_wr_self]
    exact Nat.mod_eq_of_lt (show 0x8000 + soundNeed best < 65536 by omega)
  · rw [State.fld, hRdStat, State.rd_evt, if_neg hStatEvt]
    exact State.fld_setFld _ _ _ _ _ (by decide) (by decide)
  · rw [State.bit, hRdEvt]
    exact State.bit_evt_self _ _ _ (by decide)
  · rw [State.ctx_congr hStays.ctxs c]
    exact congrArg Ctx.sound (s.ctx_setCtx_self c _)

/-! The result of one sequence (R120). -/

variable {q n : Sounding} {x : Nat}

theorem soundResult_silent (h : (s.ctx c).sound = none) : soundResult c s x = s := by rw [soundResult, h]

theorem soundResult_beyond (hq : (s.ctx c).sound = some q) (hx : 4096 < x) : soundResult c s x = soundFail c 0x0E08 q.rec_ s := by
  simp only [soundResult, hq, gt_iff_lt, hx, if_true]

theorem soundResult_heard (hq : (s.ctx c).sound = some q) (hx : x ≤ 4096) (hn : q.next (soundsOf s.casting c) x = some n) :
    soundResult c s x = if n.rec_ ≥ (soundsOf s.casting c).length then soundEnds c n.best s
      else soundDrive c ((soundPark c s).setSound c (some n)) := by
  simp only [soundResult, hq, gt_iff_lt, Nat.not_lt.2 hx, if_false, hn]

theorem Sounding.next_since {recs : List SoundRec} (h : q.next recs x = some n) : n.since = q.since + 64 + x := by
  obtain ⟨r, -, hr⟩ := Option.bind_eq_some_iff.1 h
  dsimp only at hr
  split at hr <;> cases hr <;> rfl

/-- A result before the last sends the sounding on to the next sequence. -/
theorem soundResult_goesOn (hq : (s.ctx c).sound = some q) (hx : x ≤ 4096) (hn : q.next (soundsOf s.casting c) x = some n)
    (hMore : n.rec_ < (soundsOf s.casting c).length) : ((soundResult c s x).ctx c).sound = some n ∧
      (∀ d, d ≠ c → (soundResult c s x).ctx d = s.ctx d) ∧ Frame s.padRegs s (soundResult c s x) ∧ (soundResult c s x).time = s.time := by
  rw [soundResult_heard hq hx hn, if_neg (Nat.not_le.2 hMore)]
  have hDrives := soundDrive_moves (c := c) (s := (soundPark c s).setSound c (some n))
  have hTime := (Calm.soundDrive (Q := True) (c := c) (s := (soundPark c s).setSound c (some n)) .refl).time
  refine ⟨?_, fun d hd => ?_, ?_, hTime.trans soundPark_moves.2.time⟩
  · rw [State.ctx_congr hDrives.ctxs c]
    exact congrArg Ctx.sound (State.ctx_setCtx_self _ c _)
  · rw [State.ctx_congr hDrives.ctxs d]
    exact (State.ctx_setCtx_ne _ _ hd).trans (State.ctx_congr soundPark_moves.1.ctxs d)
  · exact soundPark_moves.1.frame.setCtx.trans (hDrives.frame.mono fun _ ha => absurd ha List.not_mem_nil)

/-- One result takes no time, and a sounding that goes on began its next sequence no later than that result was due. -/
theorem soundResult_due (hc : c < 64) (hq : (s.ctx c).sound = some q) : (soundResult c s x).time = s.time ∧
    ∀ m, ((soundResult c s x).ctx c).sound = some m → m.since ≤ q.since + (64 + min x 4096) := by
  by_cases hx : 4096 < x
  · have hFails := soundFail_fails (s := s) (code := 0x0E08) (r := q.rec_) hc (by decide)
    rw [soundResult_beyond hq hx]
    exact ⟨hFails.time, fun m hm => by rw [hFails.ended] at hm; cases hm⟩
  · cases hn : q.next (soundsOf s.casting c) x with
    | none =>
      have hStays : soundResult c s x = s := by simp only [soundResult, hq, gt_iff_lt, hx, if_false, hn]
      rw [hStays]
      exact ⟨rfl, fun m hm => by cases hq.symm.trans hm; omega⟩
    | some n =>
      have hSince := Sounding.next_since hn
      rcases Nat.lt_or_ge n.rec_ (soundsOf s.casting c).length with hMore | hLast
      · obtain ⟨hSound, -, -, hTime⟩ := soundResult_goesOn hq (Nat.not_lt.1 hx) hn hMore
        exact ⟨hTime, fun m hm => by cases hSound.symm.trans hm; omega⟩
      · rw [soundResult_heard hq (Nat.not_lt.1 hx) hn, if_pos hLast]
        rcases Nat.lt_or_ge 2048 (soundNeed n.best) with hBig | hFits
        · obtain ⟨r, v, hEnds, hTime⟩ := soundEnds_exceeds (c := c) (s := s) hBig
          have hFails := soundFail_fails (s := v) (code := 0x0E09) (r := r) hc (by decide)
          rw [hEnds]
          exact ⟨hFails.time.trans hTime, fun m hm => by rw [hFails.ended] at hm; cases hm⟩
        · obtain ⟨-, -, -, hEnded, hTime⟩ := soundEnds_gives (s := s) hc hFits
          exact ⟨hTime, fun m hm => by rw [hEnded] at hm; cases hm⟩

/-! Several results. -/

theorem soundDue_append (q : Sounding) (l : List Nat) (x : Nat) : soundDue q (l ++ [x]) = soundDue q l + (64 + min x 4096) := by
  simp only [soundDue, List.map_append, List.map_cons, List.map_nil, List.foldl_append, List.foldl_cons, List.foldl_nil, Nat.add_assoc]

theorem soundDue_single (q : Sounding) (x : Nat) : soundDue q [x] = q.since + (64 + min x 4096) := soundDue_append q [] x

theorem soundDone_due {l : List Nat} (hc : c < 64) (hq : (s.ctx c).sound = some q) (hDue : soundDue q l ≤ s.time.up) :
    soundDone c l s = l.foldl (soundResult c) s := by
  simp only [soundDone, hq, ge_iff_le, Nat.not_le.2 hc, if_false]
  exact State.atDue_now hDue

/-- Results that come one after the other take no time, and the sequence that follows them began no later than the last was due. -/
theorem soundResults_due (hc : c < 64) (hq : (s.ctx c).sound = some q) (l : List Nat) : (l.foldl (soundResult c) s).time = s.time ∧
    ∀ m, ((l.foldl (soundResult c) s).ctx c).sound = some m → m.since ≤ soundDue q l := by
  induction l using List.reverseRecOn with
  | nil => exact ⟨rfl, fun m hm => by cases hq.symm.trans hm; exact Nat.le_refl _⟩
  | append_singleton l y ih =>
    obtain ⟨hTime, hSince⟩ := ih
    rw [List.foldl_append, List.foldl_cons, List.foldl_nil]
    cases hSound : ((l.foldl (soundResult c) s).ctx c).sound with
    | none =>
      rw [soundResult_silent hSound]
      exact ⟨hTime, fun m hm => by rw [hSound] at hm; cases hm⟩
    | some p =>
      obtain ⟨hStep, hNext⟩ := soundResult_due (x := y) hc hSound
      refine ⟨hStep.trans hTime, fun m hm => (hNext m hm).trans ?_⟩
      rw [soundDue_append]
      exact Nat.add_le_add_right (hSince p hSound) _

/-- A further result acts after those before it as it does with them. -/
theorem soundDone_append {l : List Nat} (hc : c < 64) (hq : (s.ctx c).sound = some q) (hDue : soundDue q (l ++ [x]) ≤ s.time.up) :
    soundDone c [x] (soundDone c l s) = soundDone c (l ++ [x]) s := by
  have hBefore : soundDue q l ≤ s.time.up := by
    rw [soundDue_append] at hDue
    omega
  obtain ⟨hTime, hSince⟩ := soundResults_due hc hq l
  rw [soundDone_due hc hq hDue, soundDone_due hc hq hBefore, List.foldl_append]
  cases hSound : ((l.foldl (soundResult c) s).ctx c).sound with
  | none => simp only [soundDone, hSound, List.foldl_cons, List.foldl_nil, soundResult_silent hSound]
  | some p =>
    refine soundDone_due hc hSound ?_
    rw [hTime, soundDue_single]
    rw [soundDue_append] at hDue
    exact (Nat.add_le_add_right (hSince p hSound) _).trans hDue

end Sys2Proof.Machine

open Sys2Proof Sys2Proof.Machine

/-- Settles O22: a refused GO shows its code; otherwise `soundBegin_begins`, `soundFail_fails`, `soundResult_goesOn`, `soundEnds_gives` and
`soundEnds_exceeds` say what each outcome shows, and `soundDone_append` that results come one after the other. -/
theorem soundings : Obligations.Soundings := by
  refine ⟨fun c s hc hReady => ⟨fun hRefused => ?_, fun hCasting hIdle hState hPins => ?_, fun hState => ?_, fun hState => ?_⟩,
    fun c r trips s hNone => ?_, fun c r q s hc hq => ⟨fun hOther => ?_, fun hThis hRec hDue => ?_⟩, fun c x q s hc hq hDue => ?_,
    fun c x l q s hc hq hDue => ?_⟩
  · have hGo : soundGo c s = (s.wrN (RUN_SND_CODE c) 0x0E0B).refuse (RUN_SND_CTL c) 0x0E0B := by
      have hCond : ((findCaravan s.casting c).isNone || s.ctxActive c || s.fld (RUN_SND_STAT c) 1 0 == 1 || !s.soundReady c) = true := by
        simpa [or_assoc] using hRefused
      rw [soundGo, if_neg (Nat.not_le.2 hc), if_pos hCond]
    refine ⟨_, congrArg Host.Outcome.next ((State.whenReady_ready hReady _).trans hGo), ?_, (Frame.refl.wrN (by simp)).refuse⟩
    rw [State.rdN, State.rd_refuse, State.wrN, State.rd_wr_self]
    rfl
  · have hGo : soundGo c s = soundBegin c s := by
      have hCond : ¬((findCaravan s.casting c).isNone || s.ctxActive c || s.fld (RUN_SND_STAT c) 1 0 == 1 || !s.soundReady c) = true := by
        simp [hCasting, hIdle, hState, hPins]
      rw [soundGo, if_neg (Nat.not_le.2 hc), if_neg hCond]
    exact ⟨_, congrArg Host.Outcome.next ((State.whenReady_ready hReady _).trans hGo), soundBegin_begins hc⟩
  · exact congrArg Host.Outcome.next ((State.whenReady_ready hReady _).trans (if_neg fun h => hState h.2))
  · obtain ⟨hCode, hFailed, -, hInvalid, hEvent, hEnded, -⟩ := soundFail_fails (s := s) (code := 0x0E0A) (r := 0) hc (by decide)
    exact ⟨_, congrArg Host.Outcome.next ((State.whenReady_ready hReady _).trans (if_pos ⟨hc, hState⟩)), hCode, hFailed, hInvalid, hEvent, hEnded⟩
  · constructor
    · exact congrArg Host.Outcome.next (by rw [soundNoEcho, hNone])
    · exact congrArg Host.Outcome.next (by rw [soundDone, hNone])
  · refine congrArg Host.Outcome.next ?_
    simp only [soundNoEcho, hq, hOther, and_false, if_false]
  · have hNoEcho : soundNoEcho c r s = soundFail c 0x0E08 r s := by
      simp only [soundNoEcho, hq, hc, hThis, and_self, if_true]
      exact State.atDue_now hDue
    obtain ⟨hCode, hFailed, hRecord, hInvalid, hEvent, hEnded, -⟩ := soundFail_fails (s := s) (code := 0x0E08) (r := r) hc (by decide)
    exact ⟨_, congrArg Host.Outcome.next hNoEcho, hCode, hFailed, hRecord.trans (Nat.mod_eq_of_lt hRec), hInvalid, hEvent, hEnded⟩
  · have hIn : soundDue q [x] ≤ s.time.up := by
      rw [soundDue_single]
      omega
    have hOne : exec (.soundDone c [x]) s = .next (soundResult c s x) := congrArg Host.Outcome.next (soundDone_due hc hq hIn)
    refine ⟨fun hx => ?_, fun n hx hn hMore => ?_, fun n hx hn hLast => ?_⟩
    · obtain ⟨hCode, hFailed, -, hInvalid, hEvent, hEnded, -⟩ := soundFail_fails (s := s) (code := 0x0E08) (r := q.rec_) hc (by decide)
      rw [soundResult_beyond hq hx] at hOne
      exact ⟨_, hOne, hCode, hFailed, hInvalid, hEvent, hEnded⟩
    · obtain ⟨hSound, hOthers, hFrame, -⟩ := soundResult_goesOn hq hx hn hMore
      exact ⟨_, hOne, hSound, hOthers, hFrame⟩
    · rw [soundResult_heard hq hx hn, if_pos hLast] at hOne
      refine ⟨fun hFits => ?_, fun hBig => ?_⟩
      · obtain ⟨hMin, hDone, hEvent, hEnded, -⟩ := soundEnds_gives (s := s) hc hFits
        exact ⟨_, hOne, hMin, hDone, hEvent, hEnded⟩
      · obtain ⟨r, u, hEnds, -⟩ := soundEnds_exceeds (c := c) (s := s) hBig
        obtain ⟨hCode, hFailed, -, hInvalid, hEvent, hEnded, -⟩ := soundFail_fails (s := u) (code := 0x0E09) (r := r) hc (by decide)
        rw [hEnds] at hOne
        exact ⟨_, hOne, hCode, hFailed, hInvalid, hEvent, hEnded⟩
  · exact ⟨_, rfl, congrArg Host.Outcome.next (soundDone_append hc hq hDue)⟩
end

section
/-!
PROOFS. Fail capture is calm (R169 to R191, R381 to R387): check units, fail records, memory events, results and the leaving of a site change
no context.
-/

namespace Sys2Proof.Machine

variable {Q : Prop} {s t : State} {n k : Nat}

section
variable (h : Calm Q s t)
include h

/-! Sites and their records. -/

theorem Calm.putSite {x : Site} : Calm Q s (t.putSite n x) := h.setSite.wrN.setWide

theorem Calm.flagSite : Calm Q s (t.flagSite n k) := h.putSite

theorem Calm.recordGone : Calm Q s (t.recordGone n k) := h.putSite

theorem Calm.record {r : FailRec} : Calm Q s (t.record n r) :=
  ite_of h.inc.recordGone (ite_of h.inc.recordGone (ite_of (Calm.recordGone (Calm.evt (Calm.inc (ite_of h.setWide h)))) h.putSite))

theorem Calm.abortCheck : Calm Q s (abortCheck n t) := ite_of h.setSite h

theorem Calm.siteMarks {vector : Nat} {v : Vec} : Calm Q s (siteMarks n vector v t) := by
  have hFirst : Calm Q s (if vector = 0 then
      t.record n ⟨4, v.straggler, v.index, vector, 0, v.instr.tset, markPayload 1 0 (v.stream.1 % 64) (t.timeOf v.cross)⟩ else t) := ite_of h.record h
  exact ite_of h (ite_of hFirst.record (ite_of hFirst.record hFirst))

/-! Check units. -/

theorem Calm.chkShow : Calm Q s (chkShow k t) := h.setFld.setBit

theorem Calm.chkAlive {value : Nat} {isMatch : Bool} : Calm Q s (chkAlive k value isMatch t).2 := by
  unfold Machine.chkAlive
  dsimp only
  split
  · exact h
  · split
    · exact h
    · cases (t.chk k).alive with
      | none => exact h.setChk
      | some r =>
        dsimp only
        split
        · exact h.setChk.inc.evt
        · split
          · exact h.setChk
          · exact h.setChk.inc.evt

theorem Calm.chkFrameEnd {whole : Bool} : Calm Q s (chkFrameEnd k whole t) :=
  have hCounted {b : Bool} : Calm Q s (State.when ((if whole then t else t.free.2).inc (CHK_FRAME_CNT k)) b
      fun t => (t.inc (CHK_FAIL_CNT k)).evt (CHK_EVT k) 1) := (Calm.inc (ite_of h h.free)).when (Calm.inc (ite_of h h.free)).inc.evt
  Calm.chkShow (Calm.setChk (ite_of hCounted.chkAlive.inc.evt.dropResult hCounted.chkAlive.pushResult.evt))

theorem Calm.chkBit {b : Bool} : Calm Q s (chkBit k t b) := ite_of h (ite_of h.setChk.chkFrameEnd h.setChk.chkShow)

theorem Calm.chkBits {l : List Bool} : Calm Q s (chkBits k l t) := h.foldl fun _ _ hu => hu.chkBit

theorem Calm.chkVector {isCp hi : Nat → Bool} : Calm Q s (chkVector n isCp hi t) := h.each fun _ _ hu => ite_of hu.chkBits hu

theorem Calm.chkSiteLeaves : Calm Q s (chkSiteLeaves n t) := h.each fun _ _ hu => ite_of hu.chkFrameEnd hu

/-! Memory events and their analysis. -/

theorem Calm.eventLost : Calm Q s (eventLost n t) := h.inc.evt.flagSite

theorem Calm.unrepairable : Calm Q s (unrepairable n t) := h.putSite.abortCheck

theorem Calm.memoryEvent {e : MemEvent} : Calm Q s (memoryEvent n e t) := by
  unfold Machine.memoryEvent
  dsimp only
  cases t.geometry n with
  | none => exact h
  | some g => exact ite_of h.inc.evt.flagSite.flagSite (ite_of h (ite_of h (ite_of h.eventLost h.putSite)))

theorem Calm.analyseEvent : Calm Q s (analyseEvent n t) := by
  unfold Machine.analyseEvent
  dsimp only
  split
  · exact ite_of h.putSite (ite_of h.putSite.eventLost (ite_of h.putSite.putSite.unrepairable h.putSite.putSite))
  · exact h

theorem Calm.analyseAll {m : Nat} : Calm Q s (analyseAll n m t) := by
  induction m generalizing t with
  | zero => exact h
  | succ m ih => exact ite_of h (ih h.analyseEvent)

/-! Compare results of a site. -/

theorem Calm.records {b : Bool} {l : List Nat} {r : Nat → FailRec} :
    Calm Q s (t.when b fun t => t.each l fun w g => w.record n (r g)) := h.when (h.each fun _ _ hu => hu.record)

theorem Calm.siteVector {vector : Nat} {v : Vec} {obs : List PinObs} : Calm Q s (siteVector n vector v obs t) := by
  unfold Machine.siteVector
  extract_lets see mine caps heard fails isMem mems logics highs capHighs capLows rec_ s1 s2 dbits flagged s3 s4 x runFails session s5
  have h1 : Calm Q s s1 := h.siteMarks
  have h2 : Calm Q s s2 := (h1.when h1.flagSite).records
  have h3 : Calm Q s s3 := by
    unfold s3
    split
    · exact h2
    · exact h2
    · exact (h2.flagSite.when h2.flagSite.record).memoryEvent
  have h4 : Calm Q s s4 := h3.records
  have h5 : Calm Q s s5 := ite_of h4 h4.putSite.abortCheck
  exact h5.chkVector

end

/-! Results and the leaving of a site, which reach device memory. -/

section
variable (h : Calm False s t)
include h

theorem Calm.deliver {x : Closing} : Calm False s (deliver n x t) :=
  have hStored := (h.setQueue.pushResult.memWrite).setBit.evt
  ite_of hStored.setBit.evt hStored

theorem Calm.finalAnalysis : Calm False s (finalAnalysis n t) := by
  unfold Machine.finalAnalysis
  cases (t.site n).finalizing with
  | none => exact h
  | some x =>
    dsimp only
    cases t.geometry n with
    | none => exact h.putSite.deliver
    | some g =>
      refine ite_of h.putSite.deliver ?_
      split
      · exact h.putSite.deliver
      · exact h.putSite.deliver

theorem Calm.finalizeSite : Calm False s (finalizeSite n t) :=
  ite_of h.finalAnalysis.analyseAll.putSite h.finalAnalysis.analyseAll.putSite.deliver

theorem Calm.siteEnds {code time index tset vecs : Nat} {strag : Bool} : Calm False s (siteEnds n code time index tset vecs strag t) :=
  have hEnded := (h.chkSiteLeaves.when h.chkSiteLeaves.record).putSite
  ite_of hEnded.finalizeSite hEnded

theorem Calm.waitEnds {c : Nat} {w : WaitGroup} {sites : List Nat} : Calm False s (waitEnds c w sites t) :=
  (h.foldl fun _ _ hu => hu.wrN).logSites

end

theorem Calm.jumpDrop (h : Calm Q s t) {c : Nat} : Calm Q s (jumpDrop c t) := ite_of h.wrN.evt h

theorem Calm.runShow (h : Calm Q s t) {c : Nat} : Calm Q s (t.runShow c) := h.wrN

theorem Calm.setSiteStat (h : Calm Q s t) {st c : Nat} : Calm Q s (t.setSiteStat n st c) := h.wrN

end Sys2Proof.Machine
end

section
/-!
PROOFS. The course of a context (R112, R124, R133 to R138): what sites that leave, tails, waits and runs that end leave of another context's
run, and of the context's own as long as it is a caravan's.
-/

namespace Sys2Proof.Machine

/-- What a context goes on with when sites leave it: whether it is a straggler's, its end code, its vectors, live paths, open branches and
outcomes, and what has crossed. -/
def Ctx.course (x : Ctx) : Bool × Option Nat × List Vec × List Path × List Fork × Tab (Option Bool) × Option Nat × Nat × Nat :=
  (x.straggler, x.code, x.vecs, x.paths, x.forks, x.outcomes, x.expect, x.crossed, x.lastIndex)

/-- Context `c` keeps its course from `s` to `t`, none of the sites `G` is in it, and non-volatile memory and the queue are kept. -/
structure Course (c : Nat) (G : List Nat) (s t : State) : Prop where
  same : (t.ctx c).course = (s.ctx c).course
  apart : ∀ n ∈ G, n ∉ (t.ctx c).sites
  nv : t.nv = s.nv
  pending : t.pending = s.pending

variable {s t u : State} {c d n : Nat} {G : List Nat} {x : Ctx}

theorem Course.start (h : ∀ n ∈ G, n ∉ (s.ctx c).sites) : Course c G s s := ⟨rfl, h, rfl, rfl⟩

section
variable (h : Course c G s t)
include h

theorem Course.straggler : (t.ctx c).straggler = (s.ctx c).straggler := congrArg (·.1) h.same
theorem Course.code : (t.ctx c).code = (s.ctx c).code := congrArg (·.2.1) h.same
theorem Course.vecs : (t.ctx c).vecs = (s.ctx c).vecs := congrArg (·.2.2.1) h.same
theorem Course.paths : (t.ctx c).paths = (s.ctx c).paths := congrArg (·.2.2.2.1) h.same
theorem Course.forks : (t.ctx c).forks = (s.ctx c).forks := congrArg (·.2.2.2.2.1) h.same
theorem Course.outcomes : (t.ctx c).outcomes = (s.ctx c).outcomes := congrArg (·.2.2.2.2.2.1) h.same
theorem Course.expect : (t.ctx c).expect = (s.ctx c).expect := congrArg (·.2.2.2.2.2.2.1) h.same
theorem Course.crossed : (t.ctx c).crossed = (s.ctx c).crossed := congrArg (·.2.2.2.2.2.2.2.1) h.same
theorem Course.lastIndex : (t.ctx c).lastIndex = (s.ctx c).lastIndex := congrArg (·.2.2.2.2.2.2.2.2) h.same

/-- A change of pins, units or fail capture. -/
theorem Course.calm (hu : Calm False t u) : Course c G s u :=
  ⟨by rw [hu.ctx c]; exact h.same, fun n hn => by rw [hu.ctx c]; exact h.apart n hn, hu.nv.trans h.nv, hu.pending.trans h.pending⟩

/-- Another context changes. -/
theorem Course.setOther (hd : d ≠ c) : Course c G s (t.setCtx d x) := by
  have hCtx := State.ctx_setCtx_ne t x hd.symm
  exact ⟨by rw [hCtx]; exact h.same, fun n hn => by rw [hCtx]; exact h.apart n hn, h.nv, h.pending⟩

/-- A context changes with its course as it was and none of those sites new to it. -/
theorem Course.setCtx (hCourse : x.course = (t.ctx d).course) (hSites : ∀ n ∈ G, n ∈ x.sites → n ∈ (t.ctx d).sites) :
    Course c G s (t.setCtx d x) := by
  by_cases hd : d = c
  · subst hd
    have hCtx := State.ctx_setCtx_self t d x
    exact ⟨by rw [hCtx, hCourse]; exact h.same, fun n hn hMem => by rw [hCtx] at hMem; exact h.apart n hn (hSites n hn hMem), h.nv, h.pending⟩
  · exact h.setOther hd

theorem Course.putCtx (hCourse : x.course = (t.ctx d).course) (hSites : ∀ n ∈ G, n ∈ x.sites → n ∈ (t.ctx d).sites) : Course c G s (t.putCtx d x) :=
  (h.setCtx hCourse hSites).calm (Calm.refl.runShow)

theorem Course.foldl {β : Type} {l : List β} {f : State → β → State} (hf : ∀ u k, Course c G s u → Course c G s (f u k)) :
    Course c G s (l.foldl f t) := List.foldlRecOn (motive := Course c G s) l f h fun u hu k _ => hf u k hu

theorem Course.each {l : List Nat} {f : State → Nat → State} (hf : ∀ u k, Course c G s u → Course c G s (f u k)) :
    Course c G s (t.each l f) := h.foldl hf

/-! Compare results on their way back (R124, R169). -/

theorem Course.countFail {v : Vec} : Course c G s (countFail v t n) :=
  ite_of h (ite_of (h.setCtx rfl fun _ _ hm => hm) (ite_of (h.setCtx rfl fun _ _ hm => hm) h))

theorem Course.resultVec {v : Vec} {obs : List PinObs} : Course c G s (resultVec v obs t) :=
  have hHeard := h.foldl (l := v.applied) (f := fun t e => siteVector e.1 e.2 v obs t) fun _ _ hu => hu.calm Calm.refl.siteVector
  ite_of (hHeard.each fun _ _ hu => hu.countFail) hHeard

theorem Course.setAwait {l : List Await} : Course c G s (t.setCtx d { t.ctx d with await := l }) := h.setCtx rfl fun _ _ hm => hm

theorem Course.drainSteps {k : Nat} : Course c G s (drainSteps d k t) := by
  induction k generalizing t with
  | zero => exact h
  | succ k ih =>
    unfold Machine.drainSteps
    dsimp only
    split
    · exact ih (h.setAwait.calm Calm.refl.siteEnds)
    · exact ih (h.setAwait.calm Calm.refl.setSite)
    · exact ite_of (ih h.setAwait.resultVec) h
    · exact h

theorem Course.drainAwait : Course c G s (drainAwait d t) := h.drainSteps

/-! Sites leave, and contexts free (R112, R135, R138). -/

theorem Course.siteGone : Course c G s (siteGone d t n) := by
  unfold Machine.siteGone
  extract_lets s1 z s2
  have h1 : Course c G s s1 := h.each fun _ _ hu => hu.setCtx rfl fun _ _ hm => List.mem_of_mem_erase hm
  have h2 : Course c G s s2 := h1.putCtx rfl fun _ _ hm => hm
  split
  · exact ite_of (h2.calm Calm.refl.waitEnds) (h2.calm Calm.refl.wrN)
  · exact h2

variable (hOwn : (s.ctx c).straggler = false)
include hOwn

/-- Only a straggler's context frees. -/
theorem Course.freeIfDone : Course c G s (freeIfDone d t) := by
  by_cases hd : d = c
  · have hStays : Machine.freeIfDone d t = t := if_neg (by rw [hd, h.straggler, hOwn]; simp)
    rwa [hStays]
  · exact ite_of ((h.setOther hd).calm Calm.refl.wrN.setFld.runShow.runShow) h

theorem Course.siteLeave {code : Nat} : Course c G s (siteLeave d code t n) := by
  unfold Machine.siteLeave
  extract_lets x h0 e s1 s2 s3 w s4 z s5 s6
  have h1 : Course c G s s1 := h.calm Calm.refl.setSiteStat.wrN
  have h2 : Course c G s s2 := ite_of (h1.calm Calm.refl.evt.log) h1
  have h4 : Course c G s s4 := h2.siteGone.setAwait
  have h5 : Course c G s s5 := h4.calm Calm.refl.setSite
  have h6 : Course c G s s6 := ite_of (h5.calm Calm.refl.evt) h5
  exact ((h6.calm Calm.refl.parkSite.commonsFollow).drainAwait.freeIfDone hOwn).freeIfDone hOwn

theorem Course.sitesLeave {code : Nat} : Course c G s (sitesLeave d code t) := h.each fun _ _ hu => hu.siteLeave hOwn

theorem Course.waitEnd {code : Nat} {w : WaitGroup} : Course c G s (waitEnd d code t w) :=
  (h.calm Calm.refl.waitEnds).each fun _ _ hu => hu.siteLeave hOwn

theorem Course.finishRun : Course c G s (finishRun d t) := by
  unfold Machine.finishRun
  extract_lets x y
  split
  · refine ite_of ?_ h
    extract_lets s1 s2 left s3
    have hShown : Course c G s (t.putCtx d y) := h.putCtx rfl fun _ _ hm => hm
    have h1 : Course c G s s1 := hShown.calm Calm.refl.setFld.wrN
    have h2 : Course c G s s2 := h1.calm Calm.refl.evt.jumpDrop
    have h3 : Course c G s s3 :=
      ite_of h2 ((h2.foldl fun _ _ hu => hu.waitEnd hOwn).foldl fun _ _ hu => hu.siteLeave hOwn)
    exact ((h3.calm Calm.refl.parkCtx).sitesLeave hOwn).freeIfDone hOwn
  · exact h

theorem Course.settleTails : Course c G s (settleTails d t) := by
  refine Course.freeIfDone (h.foldl fun u w hu => ?_) hOwn
  have hErased : Course c G s (u.setCtx d { u.ctx d with tails := (u.ctx d).tails.erase w }) := hu.setCtx rfl fun _ _ hm => hm
  exact ite_of (hErased.siteLeave hOwn) (ite_of hErased ((hErased.calm Calm.refl.parkSite.commonsFollow).finishRun hOwn))

end

end Sys2Proof.Machine
end

section
/-!
PROOFS. Branches (R125, R126, R128, R133 to R135): a branch that waits for its condition forks its path and then predicts, and one that can be
resolved is resolved for the whole context.
-/

namespace Sys2Proof.Machine

variable {s t u : State} {c d n op : Nat} {p : Path} {b : Block} {f : Fork}

/-! Paths without anything to report. -/

theorem settle_quiet_ctx (h : ∀ q ∈ (s.ctx c).paths, q.halt.settles = false ∧ q.pos.notes = []) :
    (∀ d, (settle c s).ctx d = s.ctx d) ∧ Frame [RUN_STAT c] s (settle c s) := by
  rcases settle_quiet h with hSame | hPut
  · rw [hSame]
    exact ⟨fun _ => rfl, .refl⟩
  · rw [hPut]
    refine ⟨fun d => ?_, Frame.refl.putCtx (by simp)⟩
    by_cases hd : d = c
    · rw [hd, State.ctx_putCtx_self]
    · exact s.ctx_putCtx_ne _ hd

/-- Where no path waits for a checkpoint slot none takes its branch again. -/
theorem retrySlots_idle (h : ∀ q ∈ (s.ctx c).paths, q.halt ≠ .slot) : retrySlots c s = s := by
  refine List.foldlRecOn (motive := fun u => u = s) _ _ rfl fun u hu m _ => ?_
  subst hu
  cases hPath : (u.ctx c).paths[m]? with
  | none => rfl
  | some q =>
    have hHalt := h q (List.mem_of_getElem? hPath)
    revert hHalt
    dsimp only
    cases q.halt <;> simp

/-! A branch that waits for its condition (R125, R126). -/

/-- The unresolved branches on a path that forked it. -/
def State.forkDepth (s : State) (c : Nat) (p : Path) : Nat :=
  (p.need.filter fun e => (s.ctx c).forks.any fun f => f.id == e.1 && !f.predicted).length

/-- The successor of a path along an outcome of the branch `id` that ends its block. -/
def Path.along (p : Path) (b : Block) (id : Nat) (taken : Bool) : Path :=
  { p with pos := p.pos.branch b.instr b.index taken, block := none, halt := .none, need := p.need ++ [(id, taken)] }

/-- The branch that the end of a path's block opens. -/
def State.opened (s : State) (c : Nat) (p : Path) (b : Block) : Fork :=
  ⟨(s.ctx c).nextFork, decide (2 ≤ s.forkDepth c p), s.guess c b.index b.cfg, p.pos.vec - 1, p.time, b.index, b.instr, p.need, p.pos, b.cfg, false⟩

/-- A context whose path `n` has met a branch, and goes on with the paths `l`. -/
def State.branched (s : State) (c : Nat) (p : Path) (b : Block) (l : List Path) : Ctx :=
  { s.ctx c with paths := l, forks := (s.ctx c).forks ++ [s.opened c p b], nextFork := (s.ctx c).nextFork + 1 }

section
variable (hOpen : p.need ≠ [] ∨ s.outstanding c (p.pos.vec - 1) = true) (hRoom : (s.ctx c).forks.length < 8) (hHalt : p.halt = .none)
include hOpen hRoom hHalt

theorem branchAct_forks (hDepth : s.forkDepth c p < 2) : branchAct c n p b s = (s.putCtx c (s.branched c p b
    ((s.ctx c).paths.set n (p.along b (s.ctx c).nextFork false) ++ [p.along b (s.ctx c).nextFork true]))).inc (RUN_FORK_CNT c) := by
  have hWaits : ¬(p.need.isEmpty = true ∧ s.outstanding c (p.pos.vec - 1) = false) := by
    rcases hOpen with h | h <;> simp [h]
  unfold branchAct
  simp only [hWaits, hHalt, Nat.not_le.2 hRoom, ge_iff_le, if_false, reduceCtorEq]
  exact if_pos hDepth

theorem branchAct_predicts (hDepth : 2 ≤ s.forkDepth c p) : branchAct c n p b s = (s.putCtx c (s.branched c p b
    ((s.ctx c).paths.set n (p.along b (s.ctx c).nextFork (s.guess c b.index b.cfg))))).inc (RUN_PRED_CNT c) := by
  have hWaits : ¬(p.need.isEmpty = true ∧ s.outstanding c (p.pos.vec - 1) = false) := by
    rcases hOpen with h | h <;> simp [h]
  unfold branchAct
  simp only [hWaits, hHalt, Nat.not_le.2 hRoom, ge_iff_le, if_false, reduceCtorEq]
  exact if_neg (Nat.not_lt.2 hDepth)

end

theorem Path.along_pc {id : Nat} {taken : Bool} : (p.along b id taken).pos.pc = if taken then b.instr.arg else b.index + 1 := by
  unfold Path.along SeqPos.branch
  rfl

theorem Path.along_quiet {id : Nat} {taken : Bool} (h : p.pos.notes = []) :
    (p.along b id taken).halt.settles = false ∧ (p.along b id taken).pos.notes = [] := ⟨rfl, SeqPos.branch_notes.trans h⟩

theorem AtAction.settled (h : AtAction s c n op p b) : ∀ q ∈ (s.ctx c).paths, q.halt.settles = false ∧ q.pos.notes = [] := fun q hq => by
  obtain ⟨hHalt, hNotes⟩ := h.quiet q hq
  exact ⟨by rw [hHalt]; rfl, hNotes⟩

/-- An instruction that compares meets its branch in the clock of the block's last vector. -/
theorem AtAction.instrRow_branches (h : AtAction s c n op p b) (hOp : op = 0x03 ∨ op = 0x08) (hCond : b.instr.cond ≤ 5) :
    instrRow op c n s = settle c (branchAct c n p b s) := by
  have hCompares : b.instr.compares = true := by
    rcases hOp with hOp | hOp <;> simp [PatInstr.compares, h.op, hOp, hCond]
  have hDue := State.atDue_now (f := controlNow c n) h.due
  have hHere : s.jumpHere c p b = none := by simp only [State.jumpHere, h.jump]
  have hAct : controlNow c n s = settle c (branchAct c n p b s) := by
    simp [controlNow, h.path, h.block, hHere, h.jump, hCompares]
  unfold instrRow
  rw [restOfBlock_over h.path h.block h.isOver, if_neg (not_not.2 h.running)]
  simp [h.path, h.block, h.isOver, h.op, h.unhalted, h.running, hDue, hAct]

/-- A context that has branched with nothing to report counts in `a` and keeps its paths, and no other context changes. -/
structure Branches (c a : Nat) (x : Ctx) (s t : State) : Prop where
  self : t.ctx c = x
  others : ∀ d, d ≠ c → t.ctx d = s.ctx d
  counts : t.rdN a = min 65535 (s.rdN a + 1)
  frame : Frame [RUN_STAT c, a] s t

theorem Branches.of_counted {a : Nat} {x : Ctx} (ha : a ≠ RUN_STAT c) (h : ∀ q ∈ x.paths, q.halt.settles = false ∧ q.pos.notes = []) :
    Branches c a x s (settle c ((s.putCtx c x).inc a)) := by
  have hInc : ∀ d, ((s.putCtx c x).inc a).ctx d = (s.putCtx c x).ctx d := State.ctx_incBy _ a 1
  have hSelf : ((s.putCtx c x).inc a).ctx c = x := (hInc c).trans (s.ctx_putCtx_self c x)
  obtain ⟨hCtx, hFrame⟩ := settle_quiet_ctx (s := (s.putCtx c x).inc a) (c := c) (by rwa [hSelf])
  refine ⟨(hCtx c).trans hSelf, fun d hd => (hCtx d).trans ((hInc d).trans (s.ctx_putCtx_ne x hd)), ?_,
    ((Frame.refl.putCtx (by simp)).inc (by simp)).trans (hFrame.mono (by simp))⟩
  rw [State.rdN, hFrame.regs a (by simpa using ha), State.rd_inc, if_pos rfl, State.rdN, State.rd_putCtx_ne _ _ ha]
  exact Nat.mod_eq_of_lt (Nat.lt_of_le_of_lt (Nat.min_le_left ..) (by decide))

/-- What holds of every path of a list and of the one set at `n`. -/
theorem quiet_of_set {l : List Path} {q : Path} {P : Path → Prop} (hOld : ∀ r ∈ l, P r) (hNew : P q) : ∀ r ∈ l.set n q, P r := fun r hr => by
  rcases List.mem_or_eq_of_mem_set hr with hIn | rfl
  · exact hOld r hIn
  · exact hNew

section
variable (h : AtAction s c n op p b) (hOp : op = 0x03 ∨ op = 0x08) (hCond : b.instr.cond ≤ 5)
  (hOpen : p.need ≠ [] ∨ s.outstanding c (p.pos.vec - 1) = true) (hRoom : (s.ctx c).forks.length < 8)
include h hOp hCond hOpen hRoom

/-- With fewer than two unresolved forks on its path a branch forks it. -/
theorem AtAction.forks (hDepth : s.forkDepth c p < 2) : Branches c (RUN_FORK_CNT c) (s.branched c p b
    ((s.ctx c).paths.set n (p.along b (s.ctx c).nextFork false) ++ [p.along b (s.ctx c).nextFork true])) s (instrRow op c n s) := by
  rw [h.instrRow_branches hOp hCond, branchAct_forks hOpen hRoom h.unhalted hDepth]
  refine .of_counted (by unfold RUN_FORK_CNT RUN_STAT; omega) fun q hq => ?_
  rcases List.mem_append.1 hq with hSet | hNew
  · exact quiet_of_set h.settled (Path.along_quiet h.unnoted) q hSet
  · rw [List.mem_singleton.1 hNew]
    exact Path.along_quiet h.unnoted

/-- Beyond that it goes on along one outcome. -/
theorem AtAction.predicts (hDepth : 2 ≤ s.forkDepth c p) : Branches c (RUN_PRED_CNT c) (s.branched c p b
    ((s.ctx c).paths.set n (p.along b (s.ctx c).nextFork (s.guess c b.index b.cfg)))) s (instrRow op c n s) := by
  rw [h.instrRow_branches hOp hCond, branchAct_predicts hOpen hRoom h.unhalted hDepth]
  exact .of_counted (by unfold RUN_PRED_CNT RUN_STAT; omega) (quiet_of_set h.settled (Path.along_quiet h.unnoted))

end

/-! The branch resolves (R125, R128, R133). -/

/-- A context once branch `f` has come out `o`: what lay behind the other outcome is gone, and `again` generates from the checkpoint. -/
def Ctx.resolved (x : Ctx) (f : Fork) (o : Bool) (again : List Path) : Ctx :=
  { x with
    paths := again ++ (x.paths.filter fun p => !p.need.contains (f.id, !o)).map fun p => { p with need := dropNeed f.id p.need }
    forks := (x.forks.filter fun g => g.id ≠ f.id && !g.need.contains (f.id, !o)).map fun g => { g with need := dropNeed f.id g.need }
    vecs := (x.vecs.filter fun v => !v.need.contains (f.id, !o)).map fun v => { v with need := dropNeed f.id v.need }
    outcomes := tabSet (fun _ => none) x.outcomes f.index (some o) }

theorem Ctx.resolved_outcome {x : Ctx} {o : Bool} {again : List Path} :
    tabGet (fun _ => none) (x.resolved f o again).outcomes f.index = some o := by
  change tabGet (fun _ => none) (tabSet (fun _ => none) x.outcomes f.index (some o)) f.index = some o
  exact tabGet_set_self

theorem Ctx.resolved_forks {x : Ctx} {o : Bool} {again : List Path} : ∀ g ∈ (x.resolved f o again).forks, g.id ≠ f.id := fun g hg => by
  obtain ⟨g', hMem, rfl⟩ := List.mem_map.1 hg
  simpa using And.left (by simpa using (List.mem_filter.1 hMem).2 : g'.id ≠ f.id ∧ _)

theorem Ctx.resolved_vecs {x : Ctx} {o : Bool} {again : List Path} : ∀ v ∈ (x.resolved f o again).vecs, ∀ e ∈ v.need, e.1 ≠ f.id :=
  fun v hv e he => by
    obtain ⟨v', -, rfl⟩ := List.mem_map.1 hv
    simpa using (List.mem_filter.1 he).2

theorem Ctx.resolved_quiet {x : Ctx} {o : Bool} {again : List Path} (hOld : ∀ p ∈ x.paths, p.halt = .none ∧ p.pos.notes = [])
    (hAgain : ∀ p ∈ again, p.halt = .none ∧ p.pos.notes = []) : ∀ p ∈ (x.resolved f o again).paths, p.halt = .none ∧ p.pos.notes = [] :=
  fun p hp => by
    rcases List.mem_append.1 hp with hNew | hKept
    · exact hAgain p hNew
    · obtain ⟨p', hMem, rfl⟩ := List.mem_map.1 hKept
      exact hOld p' (List.mem_filter.1 hMem).1

/-- Branch `f` of context `c` has come out `o`: what generates again is quiet, and beside RUN_STAT only the misses and the squashed paths
count. -/
structure Resolves (c : Nat) (f : Fork) (o : Bool) (s t : State) : Prop where
  self : ∃ again, t.ctx c = (s.ctx c).resolved f o again ∧ ∀ p ∈ again, p.halt = .none ∧ p.pos.notes = []
  others : ∀ d, d ≠ c → t.ctx d = s.ctx d
  casting : t.casting = s.casting
  frame : Frame [RUN_STAT c, RUN_MISS_CNT c, RUN_SQUASH_CNT c] s t

theorem Resolves.incBy {o : Bool} {a k : Nat} (h : Resolves c f o s t) (ha : a ∈ [RUN_STAT c, RUN_MISS_CNT c, RUN_SQUASH_CNT c]) :
    Resolves c f o s (t.incBy a k) := by
  have hCtx : ∀ d, (t.incBy a k).ctx d = t.ctx d := State.ctx_incBy t a k
  exact ⟨by rw [hCtx c]; exact h.self, fun d hd => (hCtx d).trans (h.others d hd), h.casting, h.frame.incBy ha⟩

/-- The context of a branch that has resolved goes on: beside RUN_STAT nothing changes but the rows that it has prefetched. -/
structure GoesOn (c : Nat) (s t : State) : Prop where
  others : ∀ d, d ≠ c → t.ctx d = s.ctx d
  course : (t.ctx c).course = (s.ctx c).course
  sites : (t.ctx c).sites = (s.ctx c).sites
  frame : Frame [RUN_STAT c] s t

theorem GoesOn.refl : GoesOn c s s := ⟨fun _ _ => rfl, rfl, rfl, .refl⟩

theorem GoesOn.trans (h : GoesOn c s t) (g : GoesOn c t u) : GoesOn c s u :=
  ⟨fun d hd => (g.others d hd).trans (h.others d hd), g.course.trans h.course, g.sites.trans h.sites, h.frame.trans g.frame⟩

theorem Course.goesOn {G : List Nat} (h : Course c G s t) (g : GoesOn c t u) : Course c G s u :=
  ⟨g.course.trans h.same, fun n hn => by rw [g.sites]; exact h.apart n hn, g.frame.nv.trans h.nv, g.frame.pending.trans h.pending⟩

theorem dropRows_goesOn : GoesOn c s (dropRows c s) := by
  unfold dropRows
  exact ⟨fun d hd => s.ctx_setCtx_ne _ hd, by rw [State.ctx_setCtx_self]; rfl, by rw [State.ctx_setCtx_self], Frame.refl.setCtx⟩

/-- Nothing settles on quiet paths, and none of them takes its branch again. -/
theorem settle_goesOn (hQuiet : ∀ p ∈ (s.ctx c).paths, p.halt = .none ∧ p.pos.notes = []) : GoesOn c s (retrySlots c (settle c s)) := by
  obtain ⟨hCtx, hSettles⟩ := settle_quiet_ctx (s := s) (c := c) fun q hq => by
    obtain ⟨hHalt, hNone⟩ := hQuiet q hq
    exact ⟨by rw [hHalt]; rfl, hNone⟩
  rw [retrySlots_idle fun q hq => by
    rw [hCtx c] at hq
    rw [(hQuiet q hq).1]
    simp]
  exact ⟨fun d _ => hCtx d, by rw [hCtx c], by rw [hCtx c], hSettles⟩

/-- A branch that resolves changes its context first (`u`); then the sites that diverge go their own way, and the context goes on. -/
theorem resolve_runs (hNotes : f.ckpt.notes = []) (hQuiet : ∀ p ∈ (s.ctx c).paths, p.halt = .none ∧ p.pos.notes = []) :
    ∃ (u : State) (moved : Option (List Path × List Fork × List Vec)), Resolves c f (s.outcome c f.ckpt.clr f.last f.diverge f.instr).1 s u ∧
      ∀ v, v = divergeSites c f (s.outcome c f.ckpt.clr f.last f.diverge f.instr).2 (!(s.outcome c f.ckpt.clr f.last f.diverge f.instr).1) moved
        (s.nowHalf + 16) 3 u → (v.ctx c).paths = (u.ctx c).paths → GoesOn c v (resolve c f s) := by
  unfold resolve
  extract_lets x o on clean cleanF cleanV lost moves moved wrong again x1 s1 s2 s3
  have hAgain : ∀ p ∈ again, p.halt = .none ∧ p.pos.notes = [] := by
    refine ite_of (Q := fun l : List Path => ∀ p ∈ l, p.halt = .none ∧ p.pos.notes = []) (fun p hp => ?_) (by simp)
    rw [List.mem_singleton.1 hp]
    exact ⟨rfl, SeqPos.branch_notes.trans hNotes⟩
  have h1 : Resolves c f o.1 s s1 := by
    have hPut : Resolves c f o.1 s (s.putCtx c x1) :=
      ⟨⟨again, s.ctx_putCtx_self c _, hAgain⟩, fun d hd => s.ctx_putCtx_ne _ hd, rfl, Frame.refl.putCtx (by simp)⟩
    exact ite_of (hPut.incBy (by simp)) hPut
  have h2 : Resolves c f o.1 s s2 := ite_of h1 (h1.incBy (by simp))
  have hAll : ∀ p ∈ (s2.ctx c).paths, p.halt = .none ∧ p.pos.notes = [] := by
    obtain ⟨l, hSelf, hl⟩ := h2.self
    rw [hSelf]
    exact Ctx.resolved_quiet hQuiet hl
  refine ⟨s2, moved, h2, fun v hv hPaths => ?_⟩
  rw [show s3 = v from hv.symm]
  have hRows : GoesOn c v (if lost.isEmpty then v else dropRows c v) := ite_of .refl dropRows_goesOn
  refine hRows.trans (settle_goesOn fun p hp => hAll p ?_)
  have hKept : (Ctx.paths _) = (v.ctx c).paths := congrArg (·.2.2.2.1) hRows.course
  rw [← hPaths, ← hKept]
  exact hp

/-- A context that a group could take is none of a caravan's. -/
theorem State.freeContext_ne (h : s.freeContext n = some d) (hCaravan : (findCaravan s.casting c).isSome = true) : d ≠ c := by
  unfold State.freeContext at h
  dsimp only at h
  split at h
  · cases h
  · have hFree := List.find?_some h
    rintro rfl
    revert hCaravan
    cases hFind : findCaravan s.casting d <;> simp_all

theorem Course.detach {G : List Nat} {w : WaitGroup} {expect : Option Nat} {paths : List Path} {forks : List Fork} {vecs : List Vec}
    (h : Course c G s t) (hd : d ≠ c) : Course c G s (detach n d w expect paths forks vecs t) := by
  unfold Machine.detach
  extract_lets home x blank y s1 s2
  have hPut : Course c G s (t.setCtx d y) := h.setOther hd
  have h1 : Course c G s s1 := hPut.calm Calm.refl.wrN.wrN.setWide
  have h2 : Course c G s s2 := h1.calm (Calm.refl.each fun _ _ hu => hu.setSiteStat)
  exact h2.calm Calm.refl.runShow.runShow.evt.logSites

/-- Sites that diverge are gone from their context, and its course goes on (R133 to R135). -/
theorem divergeSites_course {G : List Nat} {taken : Bool} {moved : Option (List Path × List Fork × List Vec)} {at_ cause : Nat}
    (hOwn : (s.ctx c).straggler = false) (hCaravan : (findCaravan s.casting c).isSome = true) :
    Course c G s (divergeSites c f G taken moved at_ cause s) := by
  unfold divergeSites
  by_cases hNone : G.isEmpty = true
  · rw [if_pos hNone]
    exact .start fun n hn => by simp [List.isEmpty_iff.1 hNone] at hn
  · rw [if_neg hNone]
    extract_lets h may x room waits stays tails s1 back pos w y t1 t2 s2
    have h1 : Course c G s s1 := by
      have hCtx : s1.ctx c = { x with sites := x.sites.filter (fun n => !G.contains n), tails := x.tails ++ tails } := s.ctx_setCtx_self c _
      refine ⟨by rw [hCtx]; rfl, fun n hn hMem => ?_, rfl, rfl⟩
      rw [hCtx] at hMem
      simpa [hn] using (List.mem_filter.1 hMem).2
    have h2 : Course c G s s2 := by
      obtain hRoom | ⟨d, hRoom⟩ := Option.eq_none_or_eq_some room
      · have hWaits : Course c G s t1 := h1.putCtx rfl fun _ _ hm => hm
        have hShown : Course c G s t2 := hWaits.calm (Calm.refl.each fun _ _ hu => hu.setSiteStat)
        simp only [s2, hRoom]
        split
        · exact hShown.calm Calm.refl.evt.inc.logSites
        · exact h1
      · have hd : d ≠ c := State.freeContext_ne hRoom hCaravan
        simp only [s2, hRoom]
        split
        · exact h1
        · cases moved with
          | some m => exact h1.detach hd
          | none => exact h1.detach hd
    exact h2.settleTails hOwn

end Sys2Proof.Machine

open Sys2Proof Sys2Proof.Machine

/-- Settles O17: a branch that waits forks (`AtAction.forks`) or predicts (`AtAction.predicts`); one that resolves changes its context first
(`resolve_runs`), then the sites that diverge leave it (`divergeSites_course`), and what is left settles nothing (`settle_goesOn`). -/
theorem branchesForkAndResolve : Obligations.BranchesForkAndResolve := by
  refine ⟨fun c n op p b s h hOp hCond hOpen hRoom => ?_, fun c f s hRipe hOwn hCode hCaravan hNotes hQuiet => ?_,
    fun c f s hRipe hAgree hNotes hQuiet => ?_, fun c s hNone => ?_⟩
  · have hRow : exec (if op = 0x03 then Instr.branch c n else Instr.loopBreak c n) s = .next (instrRow op c n s) := by
      rcases hOp with rfl | rfl <;> rfl
    have hn : n < (s.ctx c).paths.length := (List.getElem?_eq_some_iff.1 h.path).1
    rcases Nat.lt_or_ge (s.forkDepth c p) 2 with hDepth | hDepth
    · have hForks := h.forks hOp hCond hOpen hRoom hDepth
      refine ⟨_, hRow, ?_, hForks.others, fun _ => ⟨?_, ?_, ?_, hForks.counts, hForks.frame⟩, fun hMore => absurd hDepth (Nat.not_lt.2 hMore)⟩ <;>
        rw [hForks.self]
      · exact List.length_append
      · simp [State.branched]
      · have hInPlace : ((s.ctx c).paths.set n (p.along b (s.ctx c).nextFork false) ++ [p.along b (s.ctx c).nextFork true])[n]? =
            some (p.along b (s.ctx c).nextFork false) := by
          rw [List.getElem?_append_left (by simpa using hn), List.getElem?_set_self hn]
        simp only [State.branched, hInPlace, Option.map_some, Path.along_pc, Bool.false_eq_true, if_false]
      · have hBeside : ((s.ctx c).paths.set n (p.along b (s.ctx c).nextFork false) ++
            [p.along b (s.ctx c).nextFork true])[(s.ctx c).paths.length]? = some (p.along b (s.ctx c).nextFork true) := by
          rw [List.getElem?_append_right (by simp)]
          simp
        simp only [State.branched, hBeside, Option.map_some, Path.along_pc, if_true]
    · have hPredicts := h.predicts hOp hCond hOpen hRoom hDepth
      refine ⟨_, hRow, ?_, hPredicts.others, fun hLess => absurd hLess (Nat.not_lt.2 hDepth),
        fun _ => ⟨?_, ?_, hPredicts.counts, hPredicts.frame⟩⟩ <;> rw [hPredicts.self]
      · exact List.length_append
      · exact List.length_set
      · simp only [State.branched, List.getElem?_set_self hn, Option.map_some, Path.along_pc]
  · obtain ⟨u, moved, hResolves, hRuns⟩ := resolve_runs (s := s) (c := c) hNotes hQuiet
    obtain ⟨again, hSelf, -⟩ := hResolves.self
    have hDiverge := divergeSites_course (s := u) (c := c) (f := f) (G := (s.outcome c f.ckpt.clr f.last f.diverge f.instr).2)
      (taken := !(s.outcome c f.ckpt.clr f.last f.diverge f.instr).1) (moved := moved) (at_ := s.nowHalf + 16) (cause := 3)
      (by rw [hSelf]; exact hOwn) (by rw [hResolves.casting]; exact hCaravan)
    have hCourse := hDiverge.goesOn (hRuns _ rfl hDiverge.paths)
    refine ⟨_, congrArg Host.Outcome.next (by rw [hRipe]), ?_, fun g hg => ?_, hCourse.apart⟩
    · rw [hCourse.outcomes, hSelf]
      exact Ctx.resolved_outcome
    · rw [hCourse.forks, hSelf] at hg
      exact Ctx.resolved_forks g hg
  · obtain ⟨u, moved, hResolves, hRuns⟩ := resolve_runs (s := s) (c := c) hNotes hQuiet
    obtain ⟨again, hSelf, -⟩ := hResolves.self
    have hGoes := hRuns u (by rw [hAgree]; rfl) rfl
    have hCourse := (Course.start (s := u) (c := c) (G := []) fun _ hn => absurd hn List.not_mem_nil).goesOn hGoes
    refine ⟨_, congrArg Host.Outcome.next (by rw [hRipe]), ?_, fun g hg => ?_, ?_, fun v hv => ?_,
      fun d hd => (hGoes.others d hd).trans (hResolves.others d hd), hResolves.frame.trans (hGoes.frame.mono (by simp))⟩
    · rw [hCourse.outcomes, hSelf]
      exact Ctx.resolved_outcome
    · rw [hCourse.forks, hSelf] at hg
      exact Ctx.resolved_forks g hg
    · rw [hCourse.vecs, hSelf]
      exact List.length_map ..
    · rw [hCourse.vecs, hSelf] at hv
      exact Ctx.resolved_vecs v hv
  · exact congrArg Host.Outcome.next (by rw [hNone])
end

section
/-!
PROOFS. What crosses is calm (R117, R130, R145, R203, R227, R248, R286, R359, R367, R382): vectors at the pins, bubbles, what a vector shows, and
the events and frames that it releases change no context.
-/

namespace Sys2Proof.Machine

variable {Q : Prop} {s t : State} {c n ch k : Nat} {caravan : Option Nat}

section
variable (h : Calm Q s t)
include h

/-! Vectors at the pins. -/

theorem Calm.edgeRange {slots : Nat} : Calm Q s (t.edgeRange ch k slots) := h.each fun _ _ hu => ite_of hu.wrN.evt hu

theorem Calm.putSynth {slots sym : Nat} {half : Bool} : Calm Q s (t.putSynth ch k slots sym half) := ite_of h h.setChan

theorem Calm.applyVector {role slots sym : Nat} {half : Bool} : Calm Q s (t.applyVector ch role k slots half sym) :=
  ite_of h.padSettle (ite_of h.padSettle.edgeRange.putSynth.drivers.inc.evt h.padSettle.edgeRange.putSynth.drivers)

theorem Calm.applyPins {v : Vec} {sites : List Nat} : Calm Q s (applyPins c v sites t) := by
  unfold Machine.applyPins
  extract_lets x held pins
  refine h.foldl fun u p hu => ?_
  split
  · exact hu.applyVector
  · exact hu

/-- The registers that report the last vector (R114). -/
theorem Calm.showVec {v : Vec} : Calm Q s (showVec c v t) := by
  unfold Machine.showVec
  extract_lets s1 s2 s3 s4
  have h2 : Calm Q s s2 := (h.setWide.setFld).foldl fun _ _ hu => hu.setWide
  have h3 : Calm Q s s3 := h2.setWide.wrN.wrN
  have h4 : Calm Q s s4 := ite_of h3.inc h3
  exact ite_of h4.inc (ite_of h4.inc h4)

/-! Events at monitors, waveform sequencers and digitizers. -/

theorem Calm.monEvent : Calm Q s (t.monEvent k caravan) := h.each fun _ _ hu => ite_of hu.timerEvent hu

theorem Calm.wfsEnd {code : Nat} : Calm Q s (wfsEnd k code t) := h.setWfs.setFld.wrN.evt

theorem Calm.wfsAdvanceAt {b : Nat} : Calm Q s (wfsAdvanceAt k b t) := ite_of h.evt.wfsEnd h.evt.setWfs.setFld.setWide

theorem Calm.wfsIgnore : Calm Q s (wfsIgnore k t) := h.inc.evt

theorem Calm.wfsSettle : Calm Q s (wfsSettle k t) := by
  unfold Machine.wfsSettle
  extract_lets s1
  have h1 : Calm Q s s1 := by
    unfold s1
    split
    · exact ite_of h.wfsAdvanceAt h
    · exact h
  refine ite_of h (ite_of h1 ?_)
  split
  · exact ite_of h1.wfsEnd h1
  · exact h1

theorem Calm.wfsHear : Calm Q s (wfsHear k t) := by
  unfold Machine.wfsHear
  dsimp only
  split
  · exact ite_of h h.wfsIgnore
  · exact ite_of h.setWfs (ite_of h.setWfs h.setWfs.inc.evt)

theorem Calm.wfsEvent : Calm Q s (wfsEvent k caravan t) :=
  h.each fun _ _ hu => ite_of hu (ite_of hu.wfsSettle (ite_of hu.wfsSettle (ite_of hu.wfsSettle.wfsHear hu.wfsSettle.wfsIgnore)))

theorem Calm.setAcqState {v : Nat} : Calm Q s (t.setAcqState k v) := h.setFld

theorem Calm.segFlag {b : Nat} : Calm Q s (t.segFlag k b) := ite_of h.setAcq h

theorem Calm.beginSegment {at_ : Nat} : Calm Q s (beginSegment k at_ t) := h.setAcq.setAcqState

theorem Calm.acqIgnore : Calm Q s (acqIgnore k t) := h.inc.evt.segFlag

theorem Calm.acqJudge {f : Found} : Calm Q s (acqJudge k f t) := by
  unfold Machine.acqJudge
  dsimp only
  refine ite_of h.setAcq.setAcqState ?_
  split
  · exact ite_of h.setAcq h.acqIgnore
  · exact h.acqIgnore

theorem Calm.acqRearmed {till : Nat} : Calm Q s (acqRearmed k till t) := ite_of h.beginSegment h

theorem Calm.acqFilled {till : Nat} : Calm Q s (acqFilled k till t) := ite_of h.setAcqState h

theorem Calm.acqJudgeAt {f : Found} : Calm Q s (acqJudgeAt k t f) := h.acqRearmed.acqFilled.acqJudge

theorem Calm.acqSettle : Calm Q s (acqSettle k t) := by
  unfold Machine.acqSettle
  extract_lets now l a s1
  have h1 : Calm Q s s1 := ite_of h (h.setAcq.foldl fun _ _ hu => hu.acqJudgeAt)
  exact h1.acqRearmed.acqFilled

theorem Calm.acqRecognise {mask at_ time event : Nat} : Calm Q s (acqRecognise k mask at_ time event t) :=
  ite_of h.acqSettle.acqJudge h.acqSettle.setAcq

theorem Calm.acqEvent : Calm Q s (acqEvent k caravan t) := h.each fun _ _ hu => ite_of hu.acqRecognise hu

/-! Events at time measurement and at check units. -/

theorem Calm.setTdcState {v : Nat} : Calm Q s (t.setTdcState ch v) := h.setFld

theorem Calm.tdcRestart {since : Nat} : Calm Q s (tdcRestart ch since t) := h.setTdc.setTdcState

theorem Calm.tdcIdle : Calm Q s (tdcIdle ch t) := by
  unfold Machine.tdcIdle
  extract_lets s1
  have h1 : Calm Q s s1 := by
    unfold s1
    split
    · exact h.setTdc.setTdcState
    · exact h
  exact h1.setTdc.setTdcState

theorem Calm.tdcResult {timeout : Bool} : Calm Q s (tdcResult ch timeout t) := by
  unfold Machine.tdcResult
  extract_lets m a iv leg q flags s1 s2
  have h1 : Calm Q s s1 := ite_of h.inc.evt.dropResult h.pushResult.evt
  have h2 : Calm Q s s2 := ite_of h1.evt h1
  exact ite_of h2.tdcRestart h2.tdcIdle

theorem Calm.deadTime {ph : Nat} {e : Edge} {w : Int} {stop : Bool} : Calm Q s (deadTime k ph e w stop t) := ite_of h.setTdc h

theorem Calm.earlyStop : Calm Q s (earlyStop k t) := h.setTdc.inc

theorem Calm.edgeLost : Calm Q s (edgeLost k t) := h.setTdc.inc

theorem Calm.stopDisplaced {l : Capture} : Calm Q s (stopDisplaced k l t) := h.setTdc.wrN.edgeLost

theorem Calm.startTaken {x : Stamp} : Calm Q s (startTaken k x t) := ite_of h.setTdc.tdcResult h.setTdc.setTdcState

theorem Calm.stopTaken {x : Stamp} : Calm Q s (stopTaken k x t) := by
  unfold Machine.stopTaken
  dsimp only
  refine ite_of (ite_of h.setTdc.tdcResult h.setTdc) ?_
  split
  · exact h.earlyStop
  · exact ite_of h.earlyStop h.setTdc.tdcResult

theorem Calm.tdcEdgeFor {ph : Nat} {e : Edge} {isStart isStop : Bool} : Calm Q s (tdcEdgeFor k ph e isStart isStop t) := by
  unfold Machine.tdcEdgeFor
  extract_lets m st wantStart wantStop x dead
  refine ite_of h (ite_of ?_ (ite_of h (ite_of h.edgeLost (ite_of h.deadTime.startTaken h.deadTime.stopTaken))))
  split
  · exact h.stopDisplaced.deadTime.startTaken
  · exact h

theorem Calm.tdcSettle {till : Nat} : Calm Q s (tdcSettle k till t) := by
  unfold Machine.tdcSettle
  extract_lets l drop
  have hDropped : Calm Q s (((t.tdc k).peer.toList).foldl drop (drop t k)) := h.setChan.foldl fun _ _ hu => hu.setChan
  exact ite_of h (hDropped.foldl fun _ _ hu => hu.tdcEdgeFor)

theorem Calm.tdcEvent : Calm Q s (tdcEvent k caravan t) := by
  refine h.each fun u m hu => ite_of ?_ hu
  extract_lets e u1
  have h1 : Calm Q s u1 := hu.tdcSettle
  split
  · exact h1.tdcEdgeFor
  · exact h1.tdcEdgeFor.tdcEdgeFor

theorem Calm.chkEvent : Calm Q s (chkEvent k caravan t) := h.each fun _ _ hu => ite_of hu.setChk hu

theorem Calm.busRaise : Calm Q s (t.busRaise k caravan) := h.monEvent.wfsEvent.acqEvent.tdcEvent.chkEvent

/-! Frames and notifications. -/

theorem Calm.setPort {west : Bool} {p : Port} : Calm Q s (t.setPort west p) := h.upd rfl

theorem Calm.depart {west : Bool} {f : List Byte} : Calm Q s (t.depart west f) := h.upd rfl

theorem Calm.departOn {west : Bool} {f : List Byte} : Calm Q s (t.departOn west f) := by
  unfold State.departOn
  dsimp only
  split
  · exact h.depart
  · exact h.depart.depart.setPort

theorem Calm.injectFrame {west : Bool} {mode : Nat} {head : List Byte} : Calm Q s (t.injectFrame west mode head) :=
  ite_of h.inc.free.departOn (ite_of h.inc.setPort (ite_of h.inc.departOn h.inc))

theorem Calm.sendOn {west : Bool} {head : List Byte} : Calm Q s (t.sendOn west head) :=
  ite_of (ite_of h.free.injectFrame h.free.departOn) h.departOn

theorem Calm.takeSeq : Calm Q s t.takeSeq.2 := h.upd rfl

theorem Calm.flood {type time : Nat} {payload : List Byte} : Calm Q s (t.flood type time payload) := h.takeSeq.sendOn.sendOn.sendOn.sendOn

theorem Calm.notify {code index : Nat} : Calm Q s (notify c code index t) :=
  have hHost (x : HostIf) : Calm Q s { t with host := x } := h.upd rfl
  ite_of (hHost _) (hHost _).inc.evt

/-- The first vector of a TRIGGER block (R130, R367). -/
theorem Calm.triggerRelease {v : Vec} : Calm Q s (triggerRelease c v t) :=
  have hFlooded := ite_of (p := v.instr.arg.testBit 8 = true) h.busRaise.flood h.busRaise
  ite_of hFlooded.notify hFlooded

end

theorem Calm.bubble (h : Calm False s t) {cause index since len : Nat} : Calm False s (bubble c cause index since len t) :=
  have hShown := h.inc.addWide.wrN.wrN.evt
  Calm.log (ite_of hShown.inc.evt hShown)

end Sys2Proof.Machine
end

section
/-!
PROOFS. The pour line (R112, R114, R116, R117, R130, R137, R138, R370): the next vector crosses in its clock or is discarded, and what its
crossing leaves of its context.
-/

namespace Sys2Proof.Machine

variable {s t u : State} {c d n : Nat} {v w : Vec} {G : List Nat}

/-! Waypoints, rejoins and ingot boundaries. -/

theorem Course.setCtx_free {x : Ctx} (h : Course c [] s t) (hCourse : x.course = (t.ctx d).course) : Course c [] s (t.setCtx d x) :=
  h.setCtx hCourse fun _ hn => absurd hn List.not_mem_nil

theorem Course.setSites {l : List Nat} (h : Course c [] s t) : Course c [] s (t.setCtx d { t.ctx d with sites := l }) := h.setCtx_free rfl

section
variable (hOwn : (s.ctx c).straggler = false)
include hOwn

theorem Course.boundaryLeave (h : Course c G s t) : Course c G s (boundaryLeave d t) :=
  h.each fun _ _ hu => ite_of hu (ite_of (hu.siteLeave hOwn) (ite_of (hu.siteLeave hOwn) hu))

theorem Course.rejoin {label : Nat} (h : Course c [] s t) : Course c [] s (rejoin d label t) := by
  unfold Machine.rejoin
  extract_lets x now sites s1 s2 s3
  have hPut : Course c [] s s1 := h.putCtx rfl fun _ hn => absurd hn List.not_mem_nil
  have h2 : Course c [] s s2 := hPut.calm (Calm.refl.each fun _ _ hu => hu.setSiteStat.setWide)
  have h3 : Course c [] s s3 := h2.each fun u k hu => by
    extract_lets group t1 y
    have h1 : Course c [] s t1 := hu.calm Calm.refl.logSites
    exact h1.setSites.freeIfDone hOwn
  exact ite_of h (h3.calm Calm.refl.evt)

theorem Course.waypointEnd {label : Nat} (h : Course c [] s t) : Course c [] s (waypointEnd c label t) := by
  have hHome : (!(t.ctx c).straggler) = true := by rw [h.straggler, hOwn]; rfl
  unfold Machine.waypointEnd
  dsimp only
  rw [if_pos hHome]
  exact (h.rejoin hOwn).setCtx_free rfl

end

theorem Course.rdvArrive {label : Nat} (h : Course c [] s t) : Course c [] s (rdvArrive d label t) := by
  unfold Machine.rdvArrive
  split
  · exact h
  · extract_lets k counts here cvy s1 x s2
    have h1 : Course c [] s s1 := h.calm (Calm.refl.upd rfl)
    have h2 : Course c [] s s2 := h1.setCtx_free rfl
    exact h2.calm Calm.refl.flood

/-! What is left when nothing leaves. -/

/-- A context without sites that take its last vectors, and which has sites or is a caravan's, is done with none. -/
theorem settleTails_idle (hTails : (s.ctx c).tails = []) (hStays : (s.ctx c).straggler = false ∨ (s.ctx c).sites ≠ []) : settleTails c s = s := by
  have hFree : freeIfDone c s = s := if_neg (by rcases hStays with h | h <;> simp [h])
  unfold settleTails
  simp only [hTails, List.filter_nil, List.foldl_nil]
  exact hFree

/-- A run without an end code does not end. -/
theorem finishRun_runs (hCode : (s.ctx c).code = none) : finishRun c s = s := by simp only [finishRun, hCode]

/-- A queue whose oldest vector waits for its results keeps what waits behind it. -/
theorem drainAwait_waits {q : Vec} {rest : List Await} (hHead : (s.ctx n).await = .vec q none :: rest)
    (hStrobes : q.strobes ≠ []) : drainAwait n s = s := by
  unfold drainAwait
  rw [hHead, List.length_cons, drainSteps]
  simp [hHead, hStrobes]

/-! A vector crosses (R112, R114, R116). -/

/-- What the first vector of a block releases. -/
def blockBegins (c : Nat) (v w : Vec) (s : State) : State :=
  if v.first && v.instr.op == 0x0B then triggerRelease c w s else if v.first && v.instr.op == 0x09 then rdvArrive c v.instr.arg s else s

/-- What the last vector of a block brings about. -/
def blockEnds (c : Nat) (v : Vec) (s : State) : State := if v.last && v.instr.op == 0x09 then waypointEnd c v.instr.arg s else s

/-- What follows in the clock of a crossing, the queue of caravan `h` first showing the vector. -/
def crossEnds (c h : Nat) (v w : Vec) (s : State) : State :=
  finishRun c (drainAwait h (settleTails c (blockEnds c v (blockBegins c v w (showVec c v s)))))

/-- Vector `v` of context `c` has crossed in clock `up`: it is no longer among those that wait, and its results are awaited. Device memory
changes only where a gap lay before it. -/
structure Crosses (c : Nat) (v : Vec) (up : Nat) (s u : State) : Prop where
  vecs : (u.ctx c).vecs = (s.ctx c).vecs.erase v
  expect : (u.ctx c).expect = some (v.gen + v.slots)
  crossed : (u.ctx c).crossed = up
  index : (u.ctx c).lastIndex = v.index
  straggler : (u.ctx c).straggler = (s.ctx c).straggler
  code : (u.ctx c).code = (s.ctx c).code
  tails : (u.ctx c).tails = (s.ctx c).tails
  sites : (u.ctx c).sites = (s.ctx c).sites
  await : ∃ w, (u.ctx (s.homeOf c)).await = (s.ctx (s.homeOf c)).await ++ [.vec w none]
  nv : u.nv = s.nv
  pending : u.pending = s.pending
  mem : (s.ctx c).expect.getD v.gen = v.gen → u.mem = s.mem

/-- A change of a context's queue leaves the rest of every context. -/
theorem State.ctx_setAwait (s : State) (h c : Nat) (l : List Await) :
    ∃ k, (s.setCtx h { s.ctx h with await := l }).ctx c = { s.ctx c with await := k } := by
  by_cases hc : c = h
  · exact ⟨l, by rw [hc, State.ctx_setCtx_self]⟩
  · exact ⟨(s.ctx c).await, s.ctx_setCtx_ne _ hc⟩

/-- The ingot boundary of a vector that begins an ingot. -/
def boundaryOf (c : Nat) (v : Vec) (s : State) : State := if v.pos % 64 = 0 then boundaryLeave c s else s

theorem crossVec_crosses (hMem : v ∈ ((boundaryOf c v s).ctx c).vecs) : ∃ u w, Crosses c v s.time.up (boundaryOf c v s) u ∧
    crossVec c v s = crossEnds c ((boundaryOf c v s).homeOf c) v w u := by
  unfold crossVec
  rw [if_neg (by simpa [boundaryOf] using hMem)]
  extract_lets x h due gap s1 s2 sites w s3 y s4 z s4a s5 s6 s7 s8
  have hGap : Calm (x.expect.getD v.gen = v.gen) (boundaryOf c v s) s2 := by
    by_cases hIs : gap
    · have h1 : Calm False (boundaryOf c v s) s1 := ite_of Calm.refl.parkCtx .refl
      have h2 : Calm False (boundaryOf c v s) s2 := ite_of h1.bubble h1
      exact ⟨h2.ctxs, h2.cast, h2.time, h2.nv, h2.pending, fun hNone => absurd hIs (by simp [gap, due, hNone])⟩
    · have hSame : s2 = boundaryOf c v s := (if_neg fun h => hIs h.1).trans (if_neg hIs)
      rw [hSame]
      exact .refl
  have h3 : Calm (x.expect.getD v.gen = v.gen) (boundaryOf c v s) s3 := hGap.applyPins
  have h5 : Calm (x.expect.getD v.gen = v.gen) s4a s5 := Calm.refl.each fun _ _ hu => hu.setSite.abortCheck
  have hSelf : ∃ k, s5.ctx c = { s4.ctx c with await := k } := by
    rw [h5.ctx c]
    exact s4.ctx_setAwait h c _
  obtain ⟨k, hSelf⟩ := hSelf
  have hPut : s4.ctx c = { y with
      vecs := y.vecs.erase v, expect := some (v.gen + v.slots), crossed := s.time.up
      phases := phaseStep y.phases (v.gen + 2 * y.delay) v.slots (v.pos = 0 && !y.straggler), lastIndex := v.index
      lastTset := v.instr.tset } := s3.ctx_setCtx_self c _
  have hOld : y = (boundaryOf c v s).ctx c := h3.ctx c
  rw [hPut, hOld] at hSelf
  have hBefore : (s4.ctx h).await = ((boundaryOf c v s).ctx h).await := by
    by_cases hc : h = c
    · rw [hc, hPut, hOld]
    · rw [s3.ctx_setCtx_ne _ hc, h3.ctx h]
  have hAwait : (s5.ctx h).await = ((boundaryOf c v s).ctx h).await ++ [.vec w none] := by
    rw [h5.ctx h, ← hBefore]
    exact congrArg Ctx.await (s4.ctx_setCtx_self h _)
  have hMemory : x.expect.getD v.gen = v.gen → s5.mem = (boundaryOf c v s).mem := fun hNone => (h5.mem hNone).trans (h3.mem hNone)
  refine ⟨s5, w, ⟨?_, ?_, ?_, ?_, ?_, ?_, ?_, ?_, ⟨w, hAwait⟩, h5.nv.trans h3.nv, h5.pending.trans h3.pending, hMemory⟩, rfl⟩ <;> rw [hSelf]

/-- What the crossing brings about leaves the context's course: a caravan's own, or a straggler's within an ingot and no WAYPOINT. -/
theorem crossEnds_course {h : Nat} (hCase : (s.ctx c).straggler = false ∨
    (v.instr.op ≠ 0x09 ∧ (s.ctx c).sites ≠ [] ∧ (s.ctx c).tails = [] ∧ (s.ctx c).code = none)) : Course c [] s (crossEnds c h v w s) := by
  have hStart : Course c [] s s := .start fun _ hn => absurd hn List.not_mem_nil
  have hShown : Course c [] s (showVec c v s) := hStart.calm Calm.refl.showVec
  rcases hCase with hOwn | ⟨hOp, hSites, hTails, hCode⟩
  · have hBegins : Course c [] s (blockBegins c v w (showVec c v s)) := ite_of (hShown.calm Calm.refl.triggerRelease) (ite_of hShown.rdvArrive hShown)
    have hEnds : Course c [] s (blockEnds c v (blockBegins c v w (showVec c v s))) := ite_of (hBegins.waypointEnd hOwn) hBegins
    exact ((hEnds.settleTails hOwn).drainAwait).finishRun hOwn
  · have hCalm : Calm False s (blockBegins c v w (showVec c v s)) := by
      have hPlain : ¬(v.first && v.instr.op == 0x09) = true := by simp [hOp]
      unfold blockBegins
      rw [if_neg hPlain]
      exact ite_of Calm.refl.showVec.triggerRelease Calm.refl.showVec
    have hEnds : blockEnds c v (blockBegins c v w (showVec c v s)) = blockBegins c v w (showVec c v s) := if_neg (by simp [hOp])
    have hDrained := (hStart.calm hCalm).drainAwait (d := h)
    unfold crossEnds
    rw [hEnds, settleTails_idle (by rw [hCalm.ctx c, hTails]) (.inr (by rw [hCalm.ctx c]; exact hSites)),
      finishRun_runs (hDrained.code.trans hCode)]
    exact hDrained

/-- The vector generated first among those of a context is one of them. -/
theorem firstVec_mem {l : List Vec} (h : firstVec l = some v) : v ∈ l := by
  induction l generalizing v with
  | nil => cases h
  | cons a l ih =>
    unfold firstVec at h
    cases hRest : firstVec l with
    | none =>
      rw [hRest] at h
      cases h
      exact List.mem_cons_self
    | some b =>
      rw [hRest] at h
      dsimp only at h
      split at h <;> cases h
      · exact List.mem_cons_of_mem _ (ih hRest)
      · exact List.mem_cons_self

/-- Register `a` reads in `t` what it reads in `s`. -/
def RegStays (a : Nat) (s t : State) : Prop := t.rd a = s.rd a

section
variable {a b : Nat} (h : RegStays a s t) (hApart : a ≠ b)
include h hApart

theorem RegStays.wr {x : Word} : RegStays a s (t.wr b x) := (State.rd_wr_ne _ _ hApart).trans h

theorem RegStays.inc : RegStays a s (t.inc b) := (State.rd_inc ..).trans ((if_neg hApart).trans h)

theorem RegStays.setWide_two {x : Nat} (hNext : a ≠ b + 2) : RegStays a s (t.setWide b 2 x) :=
  (State.rd_setWide_two ..).trans ((if_neg hNext).trans ((if_neg hApart).trans h))

end

/-- The registers of SEQ_PC show the index of the vector, whatever else is shown of it. -/
theorem RegStays.showVec {a : Nat} (ha : a = SEQ_PC c ∨ a = SEQ_PC c + 2) : RegStays a (s.setWide (SEQ_PC c) 2 v.index) (showVec c v s) := by
  have hApart : ∀ b, b = SEQ_STAT c ∨ SEQ_LC_HIT c ≤ b → a ≠ b ∧ a ≠ b + 2 := by
    unfold SEQ_PC at ha
    unfold SEQ_STAT SEQ_LC_HIT
    omega
  have hBehind : ∀ k, SEQ_LC_HIT c ≤ SEQ_LOOP c k ∧ SEQ_LC_HIT c ≤ SEQ_LC_MISS c ∧ SEQ_LC_HIT c ≤ SEQ_RDCLASH_CNT c ∧
      SEQ_LC_HIT c ≤ SEQ_GEN_X c ∧ SEQ_LC_HIT c ≤ SEQ_GEN_Y c ∧ SEQ_LC_HIT c ≤ SEQ_GEN_Z c := by
    unfold SEQ_LC_HIT SEQ_LOOP SEQ_LC_MISS SEQ_RDCLASH_CNT SEQ_GEN_X SEQ_GEN_Y SEQ_GEN_Z
    omega
  obtain ⟨-, hMiss, hClash, hX, hY, hZ⟩ := hBehind 0
  obtain ⟨hLoX, hHiX⟩ := hApart _ (.inr hX)
  unfold Machine.showVec
  extract_lets s1 s2 s3 s4
  have h1 : RegStays a (s.setWide (SEQ_PC c) 2 v.index) s1 := RegStays.wr rfl (hApart _ (.inl rfl)).1
  have h2 : RegStays a (s.setWide (SEQ_PC c) 2 v.index) s2 := List.foldlRecOn (motive := RegStays a _) _ _ h1 fun u hu e _ => by
    obtain ⟨hLo, hHi⟩ := hApart _ (.inr (hBehind e.2).1)
    exact hu.setWide_two hLo hHi
  have h3 : RegStays a (s.setWide (SEQ_PC c) 2 v.index) s3 :=
    ((h2.setWide_two hLoX hHiX).wr (hApart _ (.inr hY)).1).wr (hApart _ (.inr hZ)).1
  have h4 : RegStays a (s.setWide (SEQ_PC c) 2 v.index) s4 := ite_of (h3.inc (hApart _ (.inr hClash)).1) h3
  exact ite_of (h4.inc (hApart _ (.inr (Nat.le_refl _))).1) (ite_of (h4.inc (hApart _ (.inr hMiss)).1) h4)

theorem showVec_pc (hIndex : v.index < 2 ^ 32) : (showVec c v s).wide (SEQ_PC c) 2 = v.index := by
  have hLow : (showVec c v s).rd (SEQ_PC c) = _ := RegStays.showVec (.inl rfl)
  have hHigh : (showVec c v s).rd (SEQ_PC c + 2) = _ := RegStays.showVec (.inr rfl)
  simp only [State.wide, State.rdN, hLow, hHigh, State.rd_setWide_two, if_true]
  rw [if_neg (by omega), BitVec.toNat_ofNat, BitVec.toNat_ofNat]
  omega

/-! The crossing clock (R116, R117). -/

/-- A change of pins leaves the next vector, its crossing clock and the caravan of a context. -/
theorem Calm.crossing {Q : Prop} (h : Calm Q s t) : t.nextVec c = s.nextVec c ∧ t.crossClock c v = s.crossClock c v ∧ t.homeOf c = s.homeOf c := by
  refine ⟨?_, ?_, ?_⟩
  · rw [State.nextVec, h.ctx c, State.nextVec]
  · rw [State.crossClock, h.ctx c, State.crossClock]
  · rw [State.homeOf, h.ctx c, State.homeOf]

/-- A vector that is due crosses at once; where a gap lies before it the pins of its context park first. -/
theorem pourLine_due (hNext : s.nextVec c = some v) (hDue : s.crossClock c v ≤ s.time.up) :
    ∃ u, (u = s ∨ u = parkCtx c s) ∧ pourLine c s = crossNow c u := by
  have hCross : ∀ u, Calm True s u → (match u.nextVec c with
      | some v => u.atDue (u.crossClock c v) (crossNow c)
      | none => u) = crossNow c u := fun u hu => by
    obtain ⟨hVec, hClock, -⟩ := hu.crossing (c := c) (v := v)
    rw [hVec, hNext]
    exact State.atDue_now (by rw [hClock, hu.up]; exact hDue)
  unfold pourLine
  cases hGap : s.gapClock c with
  | none => exact ⟨s, .inl rfl, hCross s .refl⟩
  | some g =>
    have hEarly : g ≤ s.time.up := by
      obtain ⟨e, -, hClock⟩ := Option.bind_eq_some_iff.1 hGap
      rw [hNext] at hClock
      split at hClock
      · rename_i hBefore
        have hLess : e < v.gen := by simpa using (Bool.and_eq_true_iff.1 hBefore).2
        cases hClock
        exact Nat.le_trans (Nat.add_le_add_right (Nat.div_le_div_right (Nat.le_of_lt hLess)) _) hDue
      · cases hClock
    refine ⟨parkCtx c s, .inr rfl, ?_⟩
    dsimp only
    rw [State.atDue_now hEarly]
    exact hCross _ Calm.refl.parkCtx

theorem pourLine_vector (hNext : s.nextVec c = some v) (hDue : s.crossClock c v ≤ s.time.up) (hNeed : v.need = []) :
    ∃ u, Calm True s u ∧ pourLine c s = crossVec c v u := by
  obtain ⟨u, hOr, hLine⟩ := pourLine_due hNext hDue
  have hCalm : Calm True s u := by
    rcases hOr with rfl | rfl
    · exact .refl
    · exact Calm.refl.parkCtx
  refine ⟨u, hCalm, hLine.trans ?_⟩
  unfold crossNow
  rw [(hCalm.crossing (c := c) (v := v)).1, hNext]
  dsimp only
  rw [hNeed]

/-- A context whose branch `id` resolves too late: what lies behind it is discarded, and it is marked. -/
def Ctx.late (x : Ctx) (id : Nat) : Ctx :=
  { x with
    vecs := x.vecs.filter fun v => !v.need.any fun e => e.1 == id
    paths := x.paths.filter fun p => !p.need.any fun e => e.1 == id
    forks := (x.forks.filter fun f => !f.need.any fun e => e.1 == id).map fun f => if f.id = id then { f with late := true } else f }

theorem Ctx.late_discards {x : Ctx} {id : Nat} : (∀ w ∈ (x.late id).vecs, ∀ e ∈ w.need, e.1 ≠ id) ∧
    (∀ p ∈ (x.late id).paths, ∀ e ∈ p.need, e.1 ≠ id) ∧ ∀ f ∈ (x.late id).forks, f.id = id → f.late = true := by
  refine ⟨fun w hw e he => ?_, fun p hp e he => ?_, fun f hf hId => ?_⟩
  · have hFree := (List.mem_filter.1 hw).2
    simp only [Bool.not_eq_true', List.any_eq_false, beq_iff_eq] at hFree
    exact hFree e he
  · have hFree := (List.mem_filter.1 hp).2
    simp only [Bool.not_eq_true', List.any_eq_false, beq_iff_eq] at hFree
    exact hFree e he
  · obtain ⟨g, -, rfl⟩ := List.mem_map.1 hf
    split at hId
    · rename_i hSame
      rw [if_pos hSame]
    · contradiction

/-- A vector that is due behind an unresolved branch is discarded with all that lies behind it (R117). -/
theorem pourLine_late {e : Nat × Bool} {l : List (Nat × Bool)} (hNext : s.nextVec c = some v) (hDue : s.crossClock c v ≤ s.time.up)
    (hNeed : v.need = e :: l) : (pourLine c s).ctx c = (s.ctx c).late e.1 ∧ (∀ d, d ≠ c → (pourLine c s).ctx d = s.ctx d) ∧
      Frame (RUN_STAT c :: s.padRegs) s (pourLine c s) := by
  obtain ⟨u, hOr, hLine⟩ := pourLine_due hNext hDue
  have hMoves : PinsMove s.padRegs s u ∧ Calm True s u := by
    rcases hOr with rfl | rfl
    · exact ⟨⟨.refl, rfl⟩, .refl⟩
    · exact ⟨parkCtx_moves, Calm.refl.parkCtx⟩
  obtain ⟨hPins, hCalm⟩ := hMoves
  have hLate : pourLine c s = parkCtx c (u.putCtx c ((u.ctx c).late e.1)) := by
    rw [hLine]
    unfold crossNow
    rw [(hCalm.crossing (c := c) (v := v)).1, hNext]
    dsimp only
    rw [hNeed]
    rfl
  have hPark := parkCtx_moves (c := c) (s := u.putCtx c ((u.ctx c).late e.1))
  have hPads : (u.putCtx c ((u.ctx c).late e.1)).padRegs = s.padRegs := by
    rw [State.padRegs, State.casting_putCtx, hCalm.casting, State.padRegs]
  rw [hLate]
  refine ⟨?_, fun d hd => ?_, ?_⟩
  · rw [State.ctx_congr hPark.ctxs c, State.ctx_putCtx_self, hCalm.ctx c]
  · rw [State.ctx_congr hPark.ctxs d, State.ctx_putCtx_ne _ _ hd, hCalm.ctx d]
  · have hPut : Frame (RUN_STAT c :: s.padRegs) s (u.putCtx c ((u.ctx c).late e.1)) :=
      (hPins.frame.mono fun _ ha => List.mem_cons_of_mem _ ha).putCtx List.mem_cons_self
    exact hPut.trans (hPark.frame.mono fun _ ha => List.mem_cons_of_mem _ (hPads ▸ ha))

/-- The next vector crosses in its clock (R116): a caravan's own, or a straggler's within an ingot and no WAYPOINT. -/
theorem pourLine_crosses (hNext : s.nextVec c = some v) (hNeed : v.need = []) (hDue : s.crossClock c v ≤ s.time.up)
    (hCase : (s.ctx c).straggler = false ∨
      (v.pos % 64 ≠ 0 ∧ v.instr.op ≠ 0x09 ∧ (s.ctx c).sites ≠ [] ∧ (s.ctx c).tails = [] ∧ (s.ctx c).code = none)) :
    ((pourLine c s).ctx c).vecs = (s.ctx c).vecs.erase v ∧ ((pourLine c s).ctx c).expect = some (v.gen + v.slots) ∧
      ((pourLine c s).ctx c).crossed = s.time.up ∧ ((pourLine c s).ctx c).lastIndex = v.index ∧ (pourLine c s).nv = s.nv ∧
      (pourLine c s).pending = s.pending := by
  obtain ⟨u, hCalm, hLine⟩ := pourLine_vector hNext hDue hNeed
  have hStart : Course c [] u u := .start fun _ hn => absurd hn List.not_mem_nil
  have hBound : Course c [] u (boundaryOf c v u) ∧ (((boundaryOf c v u).ctx c).straggler = false ∨ (v.instr.op ≠ 0x09 ∧
      ((boundaryOf c v u).ctx c).sites ≠ [] ∧ ((boundaryOf c v u).ctx c).tails = [] ∧ ((boundaryOf c v u).ctx c).code = none)) := by
    rcases hCase with hOwn | ⟨hPos, hOp, hRest⟩
    · have hOwn' : (u.ctx c).straggler = false := by rw [hCalm.ctx c, hOwn]
      have hCourse : Course c [] u (boundaryOf c v u) := ite_of (hStart.boundaryLeave hOwn') hStart
      exact ⟨hCourse, .inl (hCourse.straggler.trans hOwn')⟩
    · rw [boundaryOf, if_neg hPos, hCalm.ctx c]
      exact ⟨hStart, .inr ⟨hOp, hRest⟩⟩
  obtain ⟨hCourse, hRest⟩ := hBound
  have hMem : v ∈ ((boundaryOf c v u).ctx c).vecs := by
    rw [hCourse.vecs, hCalm.ctx c]
    exact firstVec_mem hNext
  obtain ⟨t, w, hCross, hEnds⟩ := crossVec_crosses hMem
  have hFinal := crossEnds_course (s := t) (c := c) (v := v) (w := w) (h := (boundaryOf c v u).homeOf c) (by
    rw [hCross.straggler, hCross.sites, hCross.tails, hCross.code]
    exact hRest)
  rw [hLine, hEnds]
  refine ⟨?_, ?_, ?_, ?_, ?_, ?_⟩
  · rw [hFinal.vecs, hCross.vecs, hCourse.vecs, hCalm.ctx c]
  · rw [hFinal.expect, hCross.expect]
  · rw [hFinal.crossed, hCross.crossed, hCalm.up]
  · rw [hFinal.lastIndex, hCross.index]
  · rw [hFinal.nv, hCross.nv, hCourse.nv, hCalm.nv]
  · rw [hFinal.pending, hCross.pending, hCourse.pending, hCalm.pending]

/-- Behind older results a vector within a block and an ingot, with no gap before it, is shown and awaits its own (R114). -/
theorem pourLine_awaits {q : Vec} {rest : List Await} (hNext : s.nextVec c = some v) (hNeed : v.need = []) (hDue : s.crossClock c v ≤ s.time.up)
    (hPos : v.pos % 64 ≠ 0) (hFirst : v.first = false) (hLast : v.last = false) (hNoGap : (s.ctx c).expect.getD v.gen = v.gen)
    (hHead : (s.ctx (s.homeOf c)).await = .vec q none :: rest) (hStrobes : q.strobes ≠ []) (hTails : (s.ctx c).tails = [])
    (hCode : (s.ctx c).code = none) (hStays : (s.ctx c).straggler = false ∨ (s.ctx c).sites ≠ []) (hIndex : v.index < 2 ^ 32) :
    ((pourLine c s).ctx c).vecs = (s.ctx c).vecs.erase v ∧ (pourLine c s).wide (SEQ_PC c) 2 = v.index ∧
      ((pourLine c s).ctx (s.homeOf c)).await.length = (s.ctx (s.homeOf c)).await.length + 1 ∧
      ((pourLine c s).ctx c).expect = some (v.gen + v.slots) ∧ ((pourLine c s).ctx c).crossed = s.time.up ∧
      (∀ a, (pourLine c s).memByte a = s.memByte a) ∧ (pourLine c s).nv = s.nv ∧ (pourLine c s).pending = s.pending := by
  obtain ⟨b, hCalm, hLine⟩ := pourLine_vector hNext hDue hNeed
  have hBound : boundaryOf c v b = b := if_neg hPos
  have hHomeOf := (hCalm.crossing (c := c) (v := v)).2.2
  obtain ⟨t, w, hCross, hEnds⟩ := crossVec_crosses (s := b) (c := c) (v := v) (by
    rw [hBound, hCalm.ctx c]
    exact firstVec_mem hNext)
  rw [hBound] at hCross hEnds
  have hShown : Calm True t (showVec c v t) := Calm.refl.showVec
  obtain ⟨a, hAwait⟩ := hCross.await
  rw [hHomeOf, hCalm.ctx (s.homeOf c), hHead] at hAwait
  have hBegins : blockBegins c v w (showVec c v t) = showVec c v t := by simp [blockBegins, hFirst]
  have hBlock : blockEnds c v (showVec c v t) = showVec c v t := by simp [blockEnds, hLast]
  have hIdle : settleTails c (showVec c v t) = showVec c v t := settleTails_idle
    (by rw [hShown.ctx c, hCross.tails, hCalm.ctx c, hTails])
    (by rw [hShown.ctx c, hCross.straggler, hCross.sites, hCalm.ctx c]; exact hStays)
  have hDrains : drainAwait (s.homeOf c) (showVec c v t) = showVec c v t :=
    drainAwait_waits (by rw [hShown.ctx (s.homeOf c), hAwait]; rfl) hStrobes
  have hRuns : finishRun c (showVec c v t) = showVec c v t := finishRun_runs (by rw [hShown.ctx c, hCross.code, hCalm.ctx c, hCode])
  have hDone : pourLine c s = showVec c v t := by
    rw [hLine, hEnds, crossEnds, hBegins, hBlock, hIdle, hHomeOf, hDrains, hRuns]
  rw [hDone]
  refine ⟨?_, showVec_pc hIndex, ?_, ?_, ?_, fun x => ?_, ?_, ?_⟩
  · rw [hShown.ctx c, hCross.vecs, hCalm.ctx c]
  · rw [hShown.ctx (s.homeOf c), hAwait, hHead]
    simp
  · rw [hShown.ctx c, hCross.expect]
  · rw [hShown.ctx c, hCross.crossed, hCalm.up]
  · have hMem : (showVec c v t).mem = s.mem :=
      (hShown.mem trivial).trans ((hCross.mem (by rw [hCalm.ctx c, hNoGap])).trans (hCalm.mem trivial))
    rw [State.memByte, hMem, State.memByte]
  · rw [hShown.nv, hCross.nv, hCalm.nv]
  · rw [hShown.pending, hCross.pending, hCalm.pending]

end Sys2Proof.Machine
end

section
/-!
PROOFS. Compare results (R82, R124, R169): they belong to the oldest vector of their context that waits for them, and are processed in the order
of the crossings.
-/

namespace Sys2Proof.Machine

variable {s t u : State} {c d h n k : Nat} {v q : Vec} {obs : List PinObs} {rest : List Await}

/-! What results leave of the queues. -/

/-- The queues of results of every context, non-volatile memory and the command queue are kept. -/
structure AwaitsStay (s t : State) : Prop where
  await : ∀ d, (t.ctx d).await = (s.ctx d).await
  nv : t.nv = s.nv
  pending : t.pending = s.pending

theorem AwaitsStay.refl : AwaitsStay s s := ⟨fun _ => rfl, rfl, rfl⟩

theorem AwaitsStay.calm (g : AwaitsStay s t) (hu : Calm False t u) : AwaitsStay s u :=
  ⟨fun d => by rw [hu.ctx d]; exact g.await d, hu.nv.trans g.nv, hu.pending.trans g.pending⟩

theorem AwaitsStay.setCtx {x : Ctx} (g : AwaitsStay s t) (hx : x.await = (t.ctx d).await) : AwaitsStay s (t.setCtx d x) := by
  refine ⟨fun e => ?_, g.nv, g.pending⟩
  by_cases he : e = d
  · rw [he, State.ctx_setCtx_self, hx]
    exact g.await d
  · rw [State.ctx_setCtx_ne _ _ he]
    exact g.await e

theorem AwaitsStay.countFail (g : AwaitsStay s t) : AwaitsStay s (countFail v t n) := ite_of g (ite_of (g.setCtx rfl) (ite_of (g.setCtx rfl) g))

/-- The results of a vector at its sites reach fail capture alone. -/
theorem Calm.siteVectors {l : List (Nat × Nat)} : Calm False s (l.foldl (fun t e => Machine.siteVector e.1 e.2 v obs t) s) :=
  Calm.refl.foldl fun _ _ hu => hu.siteVector

theorem AwaitsStay.resultVec (g : AwaitsStay s t) : AwaitsStay s (resultVec v obs t) := by
  have hHeard := g.calm (Calm.siteVectors (l := v.applied) (v := v) (obs := obs))
  exact ite_of (List.foldlRecOn (motive := AwaitsStay s) _ _ hHeard fun _ hu _ _ => hu.countFail) hHeard

/-- What waits for no result leaves a queue from its head. -/
theorem drainSteps_drops : ∃ j, ((drainSteps h k s).ctx h).await = (s.ctx h).await.drop j ∧ (drainSteps h k s).nv = s.nv ∧
    (drainSteps h k s).pending = s.pending := by
  induction k generalizing s with
  | zero => exact ⟨0, rfl, rfl, rfl⟩
  | succ k ih =>
    have hNext : ∀ (a : Await) (rest : List Await) (u : State), (s.ctx h).await = a :: rest →
        AwaitsStay (s.setCtx h { s.ctx h with await := rest }) u → ∃ j, ((drainSteps h k u).ctx h).await = (s.ctx h).await.drop j ∧
          (drainSteps h k u).nv = s.nv ∧ (drainSteps h k u).pending = s.pending := fun a rest u hHead hStay => by
      obtain ⟨j, hAwait, hNv, hPending⟩ := ih (s := u)
      refine ⟨j + 1, ?_, hNv.trans hStay.nv, hPending.trans hStay.pending⟩
      rw [hAwait, hHead, hStay.await h, State.ctx_setCtx_self, List.drop_succ_cons]
    unfold drainSteps
    dsimp only
    split
    · rename_i hHead
      exact hNext _ _ _ hHead (AwaitsStay.refl.calm Calm.refl.siteEnds)
    · rename_i hHead
      exact hNext _ _ _ hHead (AwaitsStay.refl.calm Calm.refl.setSite)
    · rename_i hHead
      exact ite_of (Q := fun t : State => ∃ j, (t.ctx h).await = (s.ctx h).await.drop j ∧ t.nv = s.nv ∧ t.pending = s.pending)
        (hNext _ _ _ hHead AwaitsStay.refl.resultVec) ⟨0, rfl, rfl, rfl⟩
    · exact ⟨0, rfl, rfl, rfl⟩

/-! The results of the oldest vector. -/

/-- The queue of context `h` becomes `l`. -/
def State.withAwait (s : State) (h : Nat) (l : List Await) : State := s.setCtx h { s.ctx h with await := l }

theorem State.ctx_withAwait_self (s : State) (h : Nat) (l : List Await) : (s.withAwait h l).ctx h = { s.ctx h with await := l } :=
  s.ctx_setCtx_self h _

theorem State.ctx_withAwait_ne (s : State) {h d : Nat} (l : List Await) (hd : d ≠ h) : (s.withAwait h l).ctx d = s.ctx d := s.ctx_setCtx_ne _ hd

/-- The queue of a context aside, fails count as before. -/
theorem State.withAwait_counts (s : State) (h d : Nat) (l : List Await) : ((s.withAwait h l).ctx d).waits = (s.ctx d).waits ∧
    ((s.withAwait h l).ctx d).lineage = (s.ctx d).lineage ∧ ((s.withAwait h l).ctx d).delay = (s.ctx d).delay := by
  obtain ⟨k, hCtx⟩ : ∃ k, (s.withAwait h l).ctx d = { s.ctx d with await := k } := s.ctx_setAwait h d l
  rw [hCtx]
  exact ⟨rfl, rfl, rfl⟩

/-- A vector whose results are in leaves the head of a queue. -/
theorem drainSteps_result (hHead : (s.ctx h).await = .vec v (some obs) :: rest) :
    drainSteps h (k + 1) s = drainSteps h k (resultVec v obs (s.withAwait h rest)) := by
  rw [drainSteps]
  simp only [hHead, Option.isSome_some, Bool.or_true, if_true, Option.getD_some, State.withAwait]

theorem Await.waits_vec (hStrobes : v.strobes ≠ []) : (Await.vec v none).waits c = if v.stream.1 = c then some v.cross else none := by
  simp [Await.waits, hStrobes]

/-- The results go to a vector of their context at the head of the queue. -/
theorem putObs_own (hOwn : v.stream.1 = c) (hStrobes : v.strobes ≠ []) : putObs c obs (.vec v none :: rest) = .vec v (some obs) :: rest := by
  have hWaits := Await.waits_vec (c := c) hStrobes
  rw [if_pos hOwn] at hWaits
  simp only [putObs, hWaits]

/-- An older vector of another context waits on for its own. -/
theorem putObs_other (hOther : v.stream.1 ≠ c) (hStrobes : v.strobes ≠ []) :
    putObs c obs (.vec v none :: rest) = .vec v none :: putObs c obs rest := by
  have hWaits := Await.waits_vec (c := c) hStrobes
  rw [if_neg hOther] at hWaits
  simp only [putObs, hWaits]

section
variable (hHome : s.awaitHome c = some h)
include hHome

theorem compareResult_drains (hAwait : putObs c obs (s.ctx h).await = rest) : compareResult c obs s = drainAwait h (s.withAwait h rest) := by
  rw [compareResult, hHome, ← hAwait]
  rfl

/-- The results of the oldest vector of a caravan reach fail capture, and then what waited for it alone. -/
theorem compareResult_processes (hHead : (s.ctx h).await = .vec v none :: rest) (hOwn : v.stream.1 = c) (hStrobes : v.strobes ≠ []) :
    compareResult c obs s = drainSteps h rest.length (resultVec v obs ((s.withAwait h (.vec v (some obs) :: rest)).withAwait h rest)) := by
  rw [compareResult_drains hHome (rest := .vec v (some obs) :: rest) (by rw [hHead, putObs_own hOwn hStrobes]), drainAwait, State.ctx_withAwait_self]
  exact drainSteps_result (by rw [State.ctx_withAwait_self])

theorem compareResult_last (hHead : (s.ctx h).await = [.vec v none]) (hOwn : v.stream.1 = c) (hStrobes : v.strobes ≠ []) :
    compareResult c obs s = resultVec v obs ((s.withAwait h [.vec v (some obs)]).withAwait h []) := compareResult_processes hHome hHead hOwn hStrobes

/-- They take the vector, and what waited for it alone, from the queue. -/
theorem compareResult_drops (hHead : (s.ctx h).await = .vec v none :: rest) (hOwn : v.stream.1 = c) (hStrobes : v.strobes ≠ []) :
    ∃ j, ((compareResult c obs s).ctx h).await = rest.drop j ∧ (compareResult c obs s).nv = s.nv ∧
      (compareResult c obs s).pending = s.pending := by
  obtain ⟨j, hAwait, hNv, hPending⟩ := drainSteps_drops (h := h) (k := rest.length)
    (s := resultVec v obs ((s.withAwait h (.vec v (some obs) :: rest)).withAwait h rest))
  have hStay := AwaitsStay.refl.resultVec (s := (s.withAwait h (.vec v (some obs) :: rest)).withAwait h rest) (v := v) (obs := obs)
  rw [compareResult_processes hHome hHead hOwn hStrobes]
  refine ⟨j, ?_, hNv.trans hStay.nv, hPending.trans hStay.pending⟩
  rw [hAwait, hStay.await h, State.ctx_withAwait_self]

end

/-! Fails of a MATCH vector (R124). -/

/-- From `s` to `t` fails have been counted: registers stay, and context `d`, in which no group waits, keeps the fails that it had. -/
structure Counting (d : Nat) (s t : State) : Prop where
  frame : Frame [] s t
  waits : (t.ctx d).waits = []
  lineage : (t.ctx d).lineage = (s.ctx d).lineage
  delay : (t.ctx d).delay = (s.ctx d).delay
  results : ∀ r ∈ (s.ctx d).results, r ∈ (t.ctx d).results

theorem Counting.start (hWaits : (s.ctx d).waits = []) : Counting d s s := ⟨.refl, hWaits, rfl, rfl, fun _ hr => hr⟩

theorem Counting.trans (g : Counting d s t) (f : Counting d t u) : Counting d s u :=
  ⟨g.frame.trans f.frame, f.waits, f.lineage.trans g.lineage, f.delay.trans g.delay, fun r hr => f.results r (g.results r hr)⟩

theorem Counting.setCtx {x : Ctx} (hWaits : (s.ctx d).waits = []) (hNone : (s.ctx k).waits = [] → x.waits = [])
    (hLineage : x.lineage = (s.ctx k).lineage) (hDelay : x.delay = (s.ctx k).delay) (hResults : ∀ r ∈ (s.ctx k).results, r ∈ x.results) :
    Counting d s (s.setCtx k x) := by
  by_cases hd : d = k
  · subst hd
    have hCtx := s.ctx_setCtx_self d x
    exact ⟨Frame.refl.setCtx, by rw [hCtx]; exact hNone hWaits, by rw [hCtx, hLineage], by rw [hCtx, hDelay], by rw [hCtx]; exact hResults⟩
  · have hCtx := s.ctx_setCtx_ne x hd
    exact ⟨Frame.refl.setCtx, by rw [hCtx, hWaits], by rw [hCtx], by rw [hCtx], by rw [hCtx]; exact fun _ hr => hr⟩

theorem countFail_counting (hWaits : (s.ctx d).waits = []) : Counting d s (countFail v s n) := by
  have hStart : Counting d s s := .start hWaits
  refine ite_of hStart (ite_of ?_ (ite_of ?_ hStart))
  · exact .setCtx hWaits (fun hNone => by rw [hNone]; rfl) rfl rfl fun _ hr => hr
  · exact .setCtx hWaits (fun hNone => hNone) rfl rfl fun _ hr => List.mem_append_left _ hr

theorem countFails_counting {l : List Nat} (hWaits : (s.ctx d).waits = []) : Counting d s (s.each l (countFail v)) :=
  List.foldlRecOn (motive := Counting d s) _ _ (.start hWaits) fun _ hu _ _ => hu.trans (countFail_counting hu.waits)

/-- A fail of a served site counts in the context that serves it. -/
theorem countFail_counts (hServed : s.siteServed n = true) (hWaits : (s.ctx (s.ctxOfSite n)).waits = [])
    (hStream : v.stream ∈ (s.ctx (s.ctxOfSite n)).lineage) :
    (n, v.pos + 2 * (s.ctx (s.ctxOfSite n)).delay) ∈ ((countFail v s n).ctx (s.ctxOfSite n)).results := by
  have hCounts : countFail v s n = s.setCtx (s.ctxOfSite n) { s.ctx (s.ctxOfSite n) with
      results := (s.ctx (s.ctxOfSite n)).results ++ [(n, v.pos + 2 * (s.ctx (s.ctxOfSite n)).delay)] } := by
    simp [countFail, hServed, hWaits, hStream]
  rw [hCounts, State.ctx_setCtx_self]
  exact List.mem_append_right _ List.mem_cons_self

/-- Every fail of a list counts in the context that serves its site. -/
theorem countFails_counts {l : List Nat} (hMem : n ∈ l) (hServed : s.siteServed n = true) (hWaits : (s.ctx (s.ctxOfSite n)).waits = [])
    (hStream : v.stream ∈ (s.ctx (s.ctxOfSite n)).lineage) :
    (n, v.pos + 2 * (s.ctx (s.ctxOfSite n)).delay) ∈ ((s.each l (countFail v)).ctx (s.ctxOfSite n)).results := by
  obtain ⟨before, after, rfl⟩ := List.append_of_mem hMem
  have hBefore := countFails_counting (v := v) (l := before) hWaits
  have hSite : (s.each before (countFail v)).ctxOfSite n = s.ctxOfSite n := congrArg (bitsOf · 8 3) (hBefore.frame.regs _ List.not_mem_nil)
  have hRuns : (s.each before (countFail v)).siteServed n = true := by
    rw [← hServed, State.siteServed, State.siteServed, State.fld, State.fld, hBefore.frame.regs _ List.not_mem_nil]
  have hHere := countFail_counts (v := v) hRuns (by rw [hSite]; exact hBefore.waits) (by rw [hSite, hBefore.lineage]; exact hStream)
  rw [hSite, hBefore.delay] at hHere
  have hAfter := countFails_counting (v := v) (l := after) (countFail_counting (v := v) (n := n) hBefore.waits).waits
  have hSplit : s.each (before ++ n :: after) (countFail v) = (countFail v (s.each before (countFail v)) n).each after (countFail v) := by
    simp only [State.each, List.foldl_append, List.foldl_cons]
  rw [hSplit]
  exact hAfter.results _ hHere

/-- The results of a MATCH vector that is the only one awaited count its fails. -/
theorem compareResult_counts (hHome : s.awaitHome c = some h) (hHead : (s.ctx h).await = [.vec v none]) (hOwn : v.stream.1 = c)
    (hStrobes : v.strobes ≠ []) (hMatch : v.instr.isMatch = true) (hApplied : v.applied = []) (hFails : n ∈ (v.fails obs).map Strobe.site)
    (hServed : s.siteServed n = true) (hWaits : (s.ctx (s.ctxOfSite n)).waits = []) (hStream : v.stream ∈ (s.ctx (s.ctxOfSite n)).lineage) :
    (n, v.pos + 2 * (s.ctx (s.ctxOfSite n)).delay) ∈ ((compareResult c obs s).ctx (s.ctxOfSite n)).results ∧
      Frame [] s (compareResult c obs s) := by
  have hDone : compareResult c obs s = ((s.withAwait h [.vec v (some obs)]).withAwait h []).each ((v.fails obs).map Strobe.site).eraseDups
      (countFail v) := by
    rw [compareResult_last hHome hHead hOwn hStrobes, resultVec, hApplied]
    exact if_pos hMatch
  obtain ⟨hWaits1, hLineage1, hDelay1⟩ := s.withAwait_counts h (s.ctxOfSite n) [.vec v (some obs)]
  obtain ⟨hWaits2, hLineage2, hDelay2⟩ := (s.withAwait h [.vec v (some obs)]).withAwait_counts h (s.ctxOfSite n) []
  have hIdle := hWaits2.trans (hWaits1.trans hWaits)
  have hCounts := countFails_counts (s := (s.withAwait h [.vec v (some obs)]).withAwait h []) (v := v) (List.mem_eraseDups.2 hFails) hServed
    hIdle ((hLineage2.trans hLineage1).symm ▸ hStream)
  have hFrame := (countFails_counting (v := v) (l := ((v.fails obs).map Strobe.site).eraseDups) hIdle).frame
  rw [hDone]
  refine ⟨?_, Frame.refl.setCtx.setCtx.trans hFrame⟩
  rw [← hDelay1, ← hDelay2]
  exact hCounts

end Sys2Proof.Machine

open Sys2Proof Sys2Proof.Machine

/-- Settles O20: the vector that is due crosses (`pourLine_crosses`), is shown and awaits its results (`pourLine_awaits`), or is discarded
(`pourLine_late`); results are processed from the head of their caravan's queue (`compareResult_drops`), an older vector of another context
keeps its place (`putObs_other`), and the fails of a MATCH vector count (`compareResult_counts`). -/
theorem vectorsCrossAndAreCompared : Obligations.VectorsCrossAndAreCompared := by
  refine ⟨⟨fun c v s hNext hNeed hDue hCase => ?_,
    fun c v u rest s _ hNext hNeed hDue hPos hFirst hLast hNoGap hHead hStrobes hTails hCode hStays _ hIndex => ?_,
    fun c v e l s hNext hNeed hDue => ?_⟩, fun c h v obs rest s hHome hHead hOwn hStrobes => ?_,
    fun c h u obs rest s hHome hHead hOther hStrobes => ?_, fun c h v obs s hHome hHead hOwn hStrobes hPlain => ?_,
    fun c h n v obs s hHome hHead hOwn hStrobes hMatch hApplied hFails hServed hWaits hStream => ?_, fun c obs s hNone => ?_⟩
  · exact ⟨_, rfl, pourLine_crosses hNext hNeed hDue hCase⟩
  · exact ⟨_, rfl, pourLine_awaits hNext hNeed hDue hPos hFirst hLast hNoGap hHead hStrobes hTails hCode hStays hIndex⟩
  · obtain ⟨hSelf, hOthers, hFrame⟩ := pourLine_late hNext hDue hNeed
    have hDiscards := Ctx.late_discards (x := s.ctx c) (id := e.1)
    rw [← hSelf] at hDiscards
    obtain ⟨hVecs, hPaths, hForks⟩ := hDiscards
    exact ⟨_, rfl, hVecs, hPaths, hForks, hOthers, hFrame⟩
  · obtain ⟨j, hDrops⟩ := compareResult_drops (obs := obs) hHome hHead hOwn hStrobes
    exact ⟨_, j, rfl, hDrops⟩
  · have hPut : putObs c obs (s.ctx h).await = .vec u none :: putObs c obs rest := by rw [hHead, putObs_other hOther hStrobes]
    have hQueue : ((s.withAwait h (.vec u none :: putObs c obs rest)).ctx h).await = .vec u none :: putObs c obs rest := by
      rw [State.ctx_withAwait_self]
    refine ⟨_, congrArg Host.Outcome.next ((compareResult_drains hHome hPut).trans (drainAwait_waits hQueue hStrobes)), hQueue,
      fun d hd => s.ctx_withAwait_ne _ hd, Frame.refl.setCtx⟩
  · have hDone : compareResult c obs s = v.applied.foldl (fun t e => siteVector e.1 e.2 v obs t)
        ((s.withAwait h [.vec v (some obs)]).withAwait h []) := by
      rw [compareResult_last hHome hHead hOwn hStrobes]
      exact if_neg (by simp [hPlain])
    have hCalm := Calm.siteVectors (s := (s.withAwait h [.vec v (some obs)]).withAwait h []) (l := v.applied) (v := v) (obs := obs)
    refine ⟨_, congrArg Host.Outcome.next hDone, ?_, fun d hd => ?_, hCalm.nv, hCalm.pending, fun hNone => ?_⟩
    · rw [hCalm.ctx h, State.ctx_withAwait_self]
    · rw [hCalm.ctx d, State.ctx_withAwait_ne _ _ hd, State.ctx_withAwait_ne _ _ hd]
    · rw [hNone]
      exact Frame.refl.setCtx.setCtx
  · exact ⟨_, rfl, compareResult_counts hHome hHead hOwn hStrobes hMatch hApplied hFails hServed hWaits hStream⟩
  · exact congrArg Host.Outcome.next (by rw [compareResult, hNone])
end

section
/-!
PROOFS. Pad switches and duties (R147, R156, R158, R159, R161, R305): who drives a contact, what a pad switch that has closed or opened
leaves at its pin, and the takeover and the hand-back of a duty once their overlap has ended.
-/

namespace Sys2Proof.Machine

variable {s t : State} {ch : Nat}

/-! The channels that drive a contact (R161). -/

theorem State.chan_congr (h : t.chans = s.chans) (c : Nat) : t.chan c = s.chan c := congrArg (tabGet (fun _ => Chan.init) · c) h

/-- The duties of `t` are those of `s`: the registers of the outriders and the overlaps say who holds one. -/
structure DutiesStay (s t : State) : Prop where
  stat : ∀ n, t.rd (PIN_STAT n) = s.rd (PIN_STAT n)
  overlap : ∀ c, (t.chan c).overlap = (s.chan c).overlap

theorem DutiesStay.bit (h : DutiesStay s t) (n b : Nat) : t.bit (PIN_STAT n) b = s.bit (PIN_STAT n) b := by
  simp only [State.bit, h.stat]

theorem DutiesStay.fld (h : DutiesStay s t) (n hi lo : Nat) : t.fld (PIN_STAT n) hi lo = s.fld (PIN_STAT n) hi lo := by
  simp only [State.fld, h.stat]

theorem DutiesStay.holder (h : DutiesStay s t) (ch : Nat) : t.holder ch = s.holder ch := by
  unfold State.holder State.outState
  dsimp only
  rw [h.fld, h.fld, h.overlap]

theorem DutiesStay.driving (h : DutiesStay s t) (ch : Nat) : t.driving ch = s.driving ch := by
  unfold State.driving State.outState
  dsimp only
  rw [h.holder, h.fld, h.fld, h.overlap, h.overlap]

theorem State.holder_mem_driving (s : State) (ch : Nat) : s.holder ch ∈ s.driving ch := by
  unfold State.driving
  dsimp only
  split <;> exact List.mem_cons_self

/-- The two channels of an overlap are a pin channel and its lane's outrider. -/
theorem State.driving_nodup (s : State) (ch : Nat) : (s.driving ch).Nodup := by
  unfold State.driving outriderOf
  dsimp only
  split
  · next hBoth =>
    have hPin : ch < 2048 := by simp at hBoth; omega
    rw [List.nodup_cons, List.mem_singleton]
    refine ⟨?_, List.nodup_singleton _⟩
    split <;> omega
  · exact List.nodup_singleton _

/-- What acts on each of a list of channels. -/
theorem State.chan_each_setChan {l : List Nat} (hl : l.Nodup) (s : State) (f : Chan → Chan) (c : Nat) :
    (s.each l fun t h => t.setChan h (f (t.chan h))).chan c = if c ∈ l then f (s.chan c) else s.chan c := by
  induction l generalizing s with
  | nil => exact (if_neg List.not_mem_nil).symm
  | cons k l ih =>
    obtain ⟨hk, hl⟩ := List.nodup_cons.1 hl
    refine (ih hl (s.setChan k (f (s.chan k)))).trans ?_
    by_cases hc : c = k
    · subst hc
      simp [hk]
    · simp [hc, State.chan_setChan_ne]

theorem State.chan_drivers (s : State) (ch : Nat) (f : Chan → Chan) (c : Nat) :
    (s.drivers ch f).chan c = if c ∈ s.driving ch then f (s.chan c) else s.chan c :=
  State.chan_each_setChan (s.driving_nodup ch) s f c

theorem Frame.drivers {l : List Nat} {f : Chan → Chan} (h : Frame l s t) : Frame l s (t.drivers ch f) := h.each fun _ _ hu => hu.setChan

/-- An outrider's own settings reach the outrider alone (R163). -/
theorem State.driving_outrider (s : State) {o : Nat} (h : 2048 ≤ o) : s.driving o = [o] := by
  have hNot : ¬ o < 2048 := by omega
  simp [State.driving, State.holder, hNot]

/-! A steady symbol (R46, R158). -/

@[simp] theorem Chan.holds_switch (c : Chan) (inert : Bool) (sym : Nat) : (c.holds inert sym).switch = c.switch := by
  unfold Chan.holds; split <;> rfl

@[simp] theorem Chan.holds_overlap (c : Chan) (inert : Bool) (sym : Nat) : (c.holds inert sym).overlap = c.overlap := by
  unfold Chan.holds; split <;> rfl

@[simp] theorem Chan.holds_symbol (c : Chan) (inert : Bool) (sym : Nat) : (c.holds inert sym).symbol = sym := by
  unfold Chan.holds; split <;> rfl

/-- D0 and D1 drive unless drive actions are inert. -/
theorem Chan.holds_driverOn (c : Chan) (inert : Bool) (sym : Nat) : (c.holds inert sym).driverOn = (!inert && decide (sym ≤ 1)) := by
  unfold Chan.holds
  split
  · next hOff =>
    rcases hOff with hInert | hSym
    · simp [hInert]
    · simp [Nat.not_le.2 hSym]
  · next hOn =>
    obtain ⟨hInert, hSym⟩ := not_or.1 hOn
    simp [hInert, Nat.not_lt.1 hSym]

theorem Chan.holds_driveHigh (c : Chan) {sym : Nat} (h : sym ≤ 1) : (c.holds false sym).driveHigh = (sym == 1) := by
  have hOn : ¬ (false = true ∨ sym > 1) := by simp [h]
  rw [Chan.holds, if_neg hOn]

/-! The PMU at the pad (R147, R155). -/

/-- The registers that show the pad switch of pin channel `ch`. -/
def padShown (ch : Nat) : List Nat := [PMU_STAT ch, MON_STAT (monOfChannel ch)]

/-- They are none of the registers of modes and duties. -/
theorem modes_not_padShown (ch n : Nat) : PIN_STAT n ∉ padShown ch ∧ PIN_MODE n ∉ padShown ch ∧ PMU_MODE n ∉ padShown ch := by
  simp only [padShown, List.mem_cons, List.not_mem_nil, or_false, PIN_STAT, PIN_MODE, PMU_MODE, PMU_STAT, MON_STAT, monOfChannel]
  omega

theorem State.timerEvent_chans (s : State) (b : Nat) : (s.timerEvent b).chans = s.chans :=
  ite_of (Q := fun u : State => u.chans = s.chans) rfl rfl

theorem State.settingEvent_chans (s : State) (b : Nat) : (s.settingEvent b).chans = s.chans :=
  ite_of (Q := fun u : State => u.chans = s.chans) (s.timerEvent_chans b) rfl

theorem State.monRefresh_chans (s : State) (u : Nat) : (s.monRefresh u).chans = s.chans :=
  ite_of (Q := fun u : State => u.chans = s.chans) rfl (ite_of (Q := fun u : State => u.chans = s.chans) (State.settingEvent_chans _ _) rfl)

theorem State.pmuUpdate_chans (s : State) (ch : Nat) : (s.pmuUpdate ch).chans = s.chans :=
  (State.monRefresh_chans _ _).trans (ite_of (Q := fun u : State => u.chans = s.chans) rfl rfl)

/-- The settings of modes and duties of `t` are those of `s`. -/
structure ModesStay (s t : State) : Prop extends DutiesStay s t where
  pinMode : ∀ n, t.rd (PIN_MODE n) = s.rd (PIN_MODE n)
  pmuMode : ∀ n, t.rd (PMU_MODE n) = s.rd (PMU_MODE n)

theorem ModesStay.modeBit (h : ModesStay s t) (n b : Nat) : t.bit (PIN_MODE n) b = s.bit (PIN_MODE n) b := by
  simp only [State.bit, h.pinMode]

theorem ModesStay.pmuActs (h : ModesStay s t) (n : Nat) : t.pmuMode n = s.pmuMode n := by
  have hSet : t.pmuSet n = s.pmuSet n := by
    unfold State.pmuSet State.fld
    rw [h.pmuMode]
  rw [State.pmuMode, hSet, h.bit, State.pmuMode]

theorem ModesStay.pmuForces (h : ModesStay s t) (n : Nat) : t.pmuForces n = s.pmuForces n := by
  simp only [State.pmuForces, h.pmuActs]

/-- With the channels unchanged too, what acts at the pad is unchanged. -/
theorem ModesStay.padActs (h : ModesStay s t) (hChans : t.chans = s.chans) (ch : Nat) :
    t.terminates ch = s.terminates ch ∧ t.loadActs ch = s.loadActs ch := by
  simp only [State.terminates, State.loadActs, State.passiveFree, State.padJoined, State.chan_congr hChans, h.holder, h.bit, h.modeBit,
    h.pmuForces, and_self]

section
variable (hch : ch < 2048)
include hch

theorem monBase_channel : monBase ch = monOfChannel ch := if_pos (by omega)

theorem Frame.monRefresh {l : List Nat} (h : Frame l s t) (hl : MON_STAT (monOfChannel ch) ∈ l) : Frame l s (t.monRefresh ch) :=
  h.trans ((PinsMove.mk .refl rfl).monRefresh (by rwa [monBase_channel hch])).frame

theorem Frame.pmuUpdate (h : Frame (padShown ch) s t) : Frame (padShown ch) s (t.pmuUpdate ch) := by
  refine h.trans ((PinsMove.mk .refl rfl).pmuUpdate List.mem_cons_self ?_).frame
  rw [monBase_channel hch]
  exact List.mem_cons_of_mem _ List.mem_cons_self

theorem State.pmuUpdate_modes (s : State) : ModesStay s (s.pmuUpdate ch) := by
  have hRegs := (Frame.refl.pmuUpdate (s := s) hch).regs
  exact ⟨⟨fun n => hRegs _ (modes_not_padShown ch n).1, fun c => congrArg Chan.overlap (State.chan_congr (s.pmuUpdate_chans ch) c)⟩,
    fun n => hRegs _ (modes_not_padShown ch n).2.1, fun n => hRegs _ (modes_not_padShown ch n).2.2⟩

/-- PMU_STAT.CONNECTED follows the mode that acts and the pad switch. -/
theorem State.pmuUpdate_connected (s : State) : (s.pmuUpdate ch).bit (PMU_STAT ch) 3 = (s.pmuMode ch ≠ 0 && s.padJoined ch) := by
  have hApart : PMU_STAT ch ∉ [MON_STAT (monOfChannel ch)] := by
    rw [List.mem_singleton]
    unfold PMU_STAT MON_STAT monOfChannel
    omega
  have hMon (u : State) : (u.monRefresh ch).bit (PMU_STAT ch) 3 = u.bit (PMU_STAT ch) 3 :=
    congrArg (·.getLsbD 3) ((Frame.refl.monRefresh hch List.mem_cons_self).regs _ hApart)
  refine (hMon _).trans (ite_of (Q := fun u : State => u.bit (PMU_STAT ch) 3 = _) (State.bit_setBit_self _ _ (by decide)) ?_)
  rw [State.bit_setBit _ _ _ _ _ _ (by decide), if_neg (by simp)]
  exact State.bit_setBit_self _ _ (by decide)

end

/-! A pad switch has closed (R158). -/

/-- The symbol in which the casting parks pin channel `ch`. -/
def State.parkSymbol (s : State) (ch : Nat) : Nat := ((findPin s.casting ch).map (·.park)).getD 2

/-- The switch of the channel that holds the duty `ch` is closed, and nothing has connected yet. -/
def State.switchClosed (s : State) (ch : Nat) : State := s.setChan (s.holder ch) { s.chan (s.holder ch) with switch := .closed }

/-- Then every channel that drives the pin holds the park symbol. -/
def State.parked (s : State) (ch : Nat) : State :=
  (s.switchClosed ch).drivers ch fun c => c.holds (s.driveInert ch) (s.parkSymbol ch)

/-- Last the PMU connects. -/
theorem State.padClosed_eq (s : State) (ch : Nat) : s.padClosed ch = (s.parked ch).pmuUpdate ch := rfl

theorem State.chan_switchClosed_holder (s : State) (ch : Nat) :
    (s.switchClosed ch).chan (s.holder ch) = { s.chan (s.holder ch) with switch := .closed } := s.chan_setChan_self _ _

theorem State.chan_switchClosed_ne (s : State) {c : Nat} (h : c ≠ s.holder ch) : (s.switchClosed ch).chan c = s.chan c :=
  s.chan_setChan_ne _ h

theorem State.switchClosed_duties (s : State) (ch : Nat) : DutiesStay s (s.switchClosed ch) := by
  refine ⟨fun _ => rfl, fun c => ?_⟩
  by_cases hc : c = s.holder ch
  · rw [hc, State.chan_switchClosed_holder]
  · rw [State.chan_switchClosed_ne _ hc]

theorem State.chan_parked (s : State) (ch c : Nat) : (s.parked ch).chan c =
    if c ∈ s.driving ch then ((s.switchClosed ch).chan c).holds (s.driveInert ch) (s.parkSymbol ch) else s.chan c := by
  rw [State.parked, State.chan_drivers, (s.switchClosed_duties ch).driving]
  refine if_ctx_congr Iff.rfl (fun _ => rfl) fun hOther => s.chan_switchClosed_ne fun hHolds => ?_
  exact hOther (hHolds ▸ s.holder_mem_driving ch)

theorem State.parked_frame (s : State) (ch : Nat) : Frame [] s (s.parked ch) := Frame.refl.setChan.drivers

theorem State.parked_modes (s : State) (ch : Nat) : ModesStay s (s.parked ch) := by
  have hRegs (a : Nat) : (s.parked ch).rd a = s.rd a := (s.parked_frame ch).regs a List.not_mem_nil
  refine ⟨⟨fun _ => hRegs _, fun c => ?_⟩, fun _ => hRegs _, fun _ => hRegs _⟩
  rw [State.chan_parked]
  split
  · rw [Chan.holds_overlap, (s.switchClosed_duties ch).overlap]
  · rfl

/-- The channel that holds the duty, once its switch has closed. -/
theorem State.chan_parked_holder (s : State) (ch : Nat) : (s.parked ch).chan (s.holder ch) =
    { s.chan (s.holder ch) with switch := .closed }.holds (s.driveInert ch) (s.parkSymbol ch) := by
  rw [State.chan_parked, if_pos (s.holder_mem_driving ch), State.chan_switchClosed_holder]

/-- The pad switch joins the pin to its contact unless the pin is in the safe state. -/
theorem State.parked_padJoined (s : State) (ch : Nat) : (s.parked ch).padJoined ch = !s.bit (PIN_STAT ch) 15 := by
  rw [State.padJoined, (s.parked_modes ch).holder, State.chan_parked_holder, (s.parked_modes ch).bit]
  simp

/-- Where nothing turns the termination and the active load off (R147). -/
def State.padFree (s : State) (ch : Nat) : Prop :=
  s.bit (PIN_STAT ch) 15 = false ∧ s.bit (PIN_STAT ch) 14 = false ∧ s.pmuForces ch = false ∧ (s.driveInert ch = true ∨ 1 < s.parkSymbol ch)

theorem State.parked_passiveFree (s : State) (ch : Nat) : (s.parked ch).passiveFree ch = true ↔ s.padFree ch := by
  rw [State.passiveFree, State.parked_padJoined, (s.parked_modes ch).holder, State.chan_parked_holder, Chan.holds_driverOn,
    (s.parked_modes ch).pmuForces, (s.parked_modes ch).bit, State.padFree]
  simp only [Bool.and_eq_true, Bool.not_eq_true', Bool.and_eq_false_iff, Bool.not_eq_false', decide_eq_false_iff_not, Nat.not_le]
  tauto

/-- What a pad switch that has closed leaves at pin channel `ch`. -/
structure PadCloses (ch : Nat) (s t : State) : Prop where
  closed : (t.chan (s.holder ch)).switch = .closed
  connected : t.bit (PMU_STAT ch) 3 = (s.pmuMode ch ≠ 0 && !s.bit (PIN_STAT ch) 15)
  driving : ∀ c ∈ s.driving ch, ∃ x : Chan, t.chan c = x.holds (s.driveInert ch) (s.parkSymbol ch)
  terminates : t.terminates ch = true ↔ s.padFree ch ∧ s.bit (PIN_MODE ch) 13 = true
  loadActs : t.loadActs ch = true ↔
    s.padFree ch ∧ s.bit (PIN_MODE ch) 13 = false ∧ s.bit (PIN_MODE ch) 12 = true ∧ loadEligible (s.parkSymbol ch) = true
  others : ∀ c, c ∉ s.driving ch → t.chan c = s.chan c
  frame : Frame (padShown ch) s t

theorem State.padClosed_closes (s : State) (hch : ch < 2048) : PadCloses ch s (s.padClosed ch) := by
  have hModes := s.parked_modes ch
  have hChans := (s.parked ch).pmuUpdate_chans ch
  obtain ⟨hTerm, hLoad⟩ := (State.pmuUpdate_modes hch (s.parked ch)).padActs hChans ch
  rw [State.padClosed_eq]
  refine ⟨?_, ?_, fun c hc => ?_, ?_, ?_, fun c hc => ?_, ?_⟩
  · rw [State.chan_congr hChans, State.chan_parked_holder, Chan.holds_switch]
  · rw [State.pmuUpdate_connected hch, hModes.pmuActs, State.parked_padJoined]
  · exact ⟨_, (State.chan_congr hChans c).trans ((s.chan_parked ch c).trans (if_pos hc))⟩
  · rw [hTerm, State.terminates, Bool.and_eq_true, State.parked_passiveFree, hModes.modeBit]
  · rw [hLoad, State.loadActs, hModes.holder, State.chan_parked_holder, Chan.holds_symbol, hModes.modeBit, hModes.modeBit]
    simp only [Bool.and_eq_true, Bool.not_eq_true', State.parked_passiveFree, and_assoc]
  · exact (State.chan_congr hChans c).trans ((s.chan_parked ch c).trans (if_neg hc))
  · exact Frame.pmuUpdate hch ((s.parked_frame ch).mono fun _ h => absurd h List.not_mem_nil)

/-- The row acts on a switch that closes and whose clock has come. -/
theorem execPadSwitchClosed_due (hClosing : (s.chan (s.holder ch)).switch = .closing) (hDue : (s.chan (s.holder ch)).due ≤ s.time.up) :
    execPadSwitchClosed ch s = .next (s.padClosed ch) :=
  congrArg Host.Outcome.next ((if_pos hClosing).trans (State.atDue_now hDue))

/-! A pad switch has opened (R159). -/

theorem State.padOpened_due {h : Nat} (hOpening : (s.chan h).switch = .opening) (hDue : (s.chan h).due ≤ s.time.up) :
    s.padOpened h = s.setChan h { s.chan h with switch := .opened } := if_pos (by simp [hOpening, hDue])

theorem State.chan_padOpened_ne (s : State) {h c : Nat} (hc : c ≠ h) : (s.padOpened h).chan c = s.chan c :=
  ite_of (Q := fun u : State => u.chan c = s.chan c) (s.chan_setChan_ne _ hc) rfl

theorem Frame.padOpened {l : List Nat} {h : Nat} (hFrame : Frame l s t) : Frame l s (t.padOpened h) := .ite hFrame.setChan hFrame

theorem State.padOpened_time (s : State) (h : Nat) : (s.padOpened h).time = s.time :=
  ite_of (Q := fun u : State => u.time = s.time) rfl rfl

/-- The switch of a channel or of its lane's outrider whose clock has come is open. -/
theorem State.padOpened_opens {h o : Nat} (ho : o ≠ ch) (hh : h ∈ [ch, o]) (hOpening : (s.chan h).switch = .opening)
    (hDue : (s.chan h).due ≤ s.time.up) : (((s.padOpened ch).padOpened o).chan h).switch = .opened := by
  rcases List.mem_pair.1 hh with rfl | rfl
  · rw [State.chan_padOpened_ne _ ho.symm, State.padOpened_due hOpening hDue, State.chan_setChan_self]
  · have hSame := s.chan_padOpened_ne ho
    rw [State.padOpened_due (by rw [hSame, hOpening]) (by rw [hSame, State.padOpened_time]; exact hDue), State.chan_setChan_self]

/-- The first of the two switches opens no later than either. -/
theorem State.opensAt_le {h : Nat} (hh : h ∈ [ch, outriderOf (laneOf ch)]) (hOpening : (s.chan h).switch = .opening) :
    ∃ d, s.opensAt ch = some d ∧ d ≤ (s.chan h).due := by
  have hMem : (s.chan h).due ∈ (([ch, outriderOf (laneOf ch)].filter fun h => (s.chan h).switch == .opening).map fun h => (s.chan h).due) :=
    List.mem_map_of_mem (List.mem_filter.2 ⟨hh, by simp [hOpening]⟩)
  obtain ⟨d, hd⟩ := Option.isSome_iff_exists.1 (List.isSome_min?_of_mem hMem)
  exact ⟨d, hd, (List.min?_eq_some_iff.1 hd).2 _ hMem⟩

theorem State.opensAt_none (hOwn : (s.chan ch).switch ≠ .opening) (hOutrider : (s.chan (outriderOf (laneOf ch))).switch ≠ .opening) :
    s.opensAt ch = none := by
  simp [State.opensAt, hOwn, hOutrider]

theorem execPadSwitchOpen_due {d : Nat} (h : s.opensAt ch = some d) (hDue : d ≤ s.time.up) :
    execPadSwitchOpen ch s = .next ((s.padOpened ch).padOpened (outriderOf (laneOf ch))) := by
  rw [execPadSwitchOpen, h]
  exact congrArg Host.Outcome.next (State.atDue_now hDue)

/-! The interval of a range or mode change ends (R156). -/

/-- Channel `ch` has ranged. -/
def State.ranged (s : State) (ch : Nat) : State := (s.setChan ch { s.chan ch with ranging := none }).setBit (PMU_STAT ch) 2 false

theorem execPmuRangingEnd_due {d : Nat} (h : (s.chan ch).ranging = some d) (hDue : d ≤ s.time.up) :
    execPmuRangingEnd ch s = .next (s.ranged ch) := by
  rw [execPmuRangingEnd, h]
  exact congrArg Host.Outcome.next (State.atDue_now hDue)

/-! The takeover ends (R161, R305). -/

/-- The registers that show the duty of pin channel `ch`, and those that show that its TDC collects. -/
def dutyShown (ch : Nat) : List Nat := [PIN_STAT ch, PIN_EVT ch]
def collectShown (ch : Nat) : List Nat := [TDC_STAT ch, TDC_TSTAT ch, TDC_CODE ch]

theorem dutyShown_not_collectShown {a : Nat} (h : a ∈ dutyShown ch) : a ∉ collectShown ch := by
  simp only [dutyShown, collectShown, List.mem_cons, List.not_mem_nil, or_false, PIN_STAT, PIN_EVT, TDC_STAT, TDC_TSTAT, TDC_CODE] at h ⊢
  omega

/-- What the switch of a displaced channel leaves once it is open. -/
structure Displaced (ch : Nat) (s t : State) : Prop where
  opened : (t.chan ch).switch = .opened
  overlap : (t.chan ch).overlap = none
  off : (t.chan ch).driverOn = false
  replaced : t.bit (PIN_STAT ch) 13 = true
  event : t.bit (PIN_EVT ch) 6 = true
  others : ∀ c, c ≠ ch → t.chan c = s.chan c

theorem State.takeoverOpen_frame (s : State) (ch : Nat) : Frame (dutyShown ch) s (s.takeoverOpen ch) :=
  (Frame.refl.setChan.setBit List.mem_cons_self).evt (List.mem_cons_of_mem _ List.mem_cons_self)

theorem State.takeoverOpen_displaced (s : State) (ch : Nat) : Displaced ch s (s.takeoverOpen ch) := by
  have hSelf : (s.takeoverOpen ch).chan ch = { s.chan ch with overlap := none, switch := .opened, driverOn := false } :=
    s.chan_setChan_self ch _
  refine ⟨by rw [hSelf], by rw [hSelf], by rw [hSelf], ?_, State.bit_evt_self _ _ _ (by decide), fun c hc => s.chan_setChan_ne _ hc⟩
  have hApart : PIN_STAT ch ≠ PIN_EVT ch := by unfold PIN_STAT PIN_EVT; omega
  rw [State.takeoverOpen, State.bit, State.rd_evt, if_neg hApart]
  exact State.bit_setBit_self _ _ (by decide)

/-- Updates of other channels, and of other registers than those of the duty, keep that. -/
theorem Displaced.trans {u : State} (h : Displaced ch s t) (hChans : u.chans = t.chans) (hFrame : Frame (collectShown ch) t u) :
    Displaced ch s u := by
  have hSame := State.chan_congr hChans
  have hBit {a : Nat} (b : Nat) (ha : a ∈ dutyShown ch) : u.bit a b = t.bit a b :=
    congrArg (·.getLsbD b) (hFrame.regs a (dutyShown_not_collectShown ha))
  exact ⟨by rw [hSame, h.opened], by rw [hSame, h.overlap], by rw [hSame, h.off], (hBit 13 List.mem_cons_self).trans h.replaced,
    (hBit 6 (List.mem_cons_of_mem _ List.mem_cons_self)).trans h.event, fun c hc => (hSame c).trans (h.others c hc)⟩

theorem State.calJob_unit {x : Nat} {j : CalJob} (h : s.calJob x = some j) : j.unit = x := by
  simpa using List.find?_some h

/-- The job of a unit is what it was set to. -/
theorem State.calJob_setCalJob {j k : CalJob} (h : s.calJob k.unit = some j) : (s.setCalJob k).calJob k.unit = some k := by
  have hUnits : ((fun o : CalJob => o.unit == k.unit) ∘ fun o => if o.unit = k.unit then k else o) = fun o => o.unit == k.unit := by
    funext o
    by_cases ho : o.unit = k.unit <;> simp [ho]
  have hFind : s.cal.jobs.find? (fun o => o.unit == k.unit) = some j := h
  rw [State.calJob, State.setCalJob, List.find?_map, hUnits, hFind]
  exact congrArg some (if_pos (State.calJob_unit h))

/-- The steps of a channel begin with its collection, and its job is in its steps. -/
theorem stepsBegin_job {j : CalJob} (h : s.calJob ch = some j) : ∃ u b,
    stepsBegin ch s = u.setCalJob { j with phase := 3, collects := b } ∧ u.cal = s.cal ∧ u.chans = s.chans ∧ Frame (collectShown ch) s u := by
  have hCd : Frame (collectShown ch) s (cdBegin ch s) := Frame.refl.setTdc.setFld (by simp [collectShown])
  unfold stepsBegin
  rw [h]
  refine ⟨_, _, rfl, ?_, ?_, .ite (Frame.refl.wrN (by simp [collectShown])) (.ite hCd (hCd.setFld (by simp [collectShown])))⟩
  · exact ite_of (Q := fun u : State => u.cal = s.cal) rfl (ite_of (Q := fun u : State => u.cal = s.cal) rfl rfl)
  · exact ite_of (Q := fun u : State => u.chans = s.chans) rfl (ite_of (Q := fun u : State => u.chans = s.chans) rfl rfl)

/-- A calibration that waited for the takeover goes on with its step. -/
theorem takeoverDone_waiting {j : CalJob} (h : s.calJob ch = some j) (hPhase : j.phase = 2) :
    (∃ k, (takeoverDone ch s).calJob ch = some k ∧ k.phase = 3 ∧ k.step = j.step) ∧
      (takeoverDone ch s).chans = (s.takeoverOpen ch).chans ∧ Frame (collectShown ch) (s.takeoverOpen ch) (takeoverDone ch s) := by
  obtain rfl := State.calJob_unit h
  have hJob : (s.takeoverOpen j.unit).calJob j.unit = some j := h
  obtain ⟨u, b, hSteps, hCal, hChans, hFrame⟩ := stepsBegin_job hJob
  have hDone : takeoverDone j.unit s = u.setCalJob { j with phase := 3, collects := b } := by
    rw [takeoverDone, hJob]
    exact (if_pos hPhase).trans hSteps
  have hUnit : u.calJob j.unit = some j := by
    rw [State.calJob, hCal]
    exact hJob
  rw [hDone]
  exact ⟨⟨_, State.calJob_setCalJob (k := { j with phase := 3, collects := b }) hUnit, rfl, rfl⟩, hChans,
    hFrame.upd rfl rfl rfl rfl rfl rfl rfl⟩

/-- Without one no more than the duty changes. -/
theorem takeoverDone_idle (h : ∀ j, s.calJob ch = some j → j.phase ≠ 2) : takeoverDone ch s = s.takeoverOpen ch := by
  have hSame : (s.takeoverOpen ch).calJob ch = s.calJob ch := rfl
  unfold takeoverDone
  dsimp only
  rw [hSame]
  cases hJob : s.calJob ch with
  | none => rfl
  | some j => exact if_neg (h j hJob)

theorem takeoverDone_displaced (s : State) (ch : Nat) :
    Displaced ch s (takeoverDone ch s) ∧ Frame (dutyShown ch ++ collectShown ch) s (takeoverDone ch s) := by
  have hOpen := (s.takeoverOpen_frame ch).mono fun _ => List.mem_append_left (collectShown ch)
  by_cases hIdle : ∀ j, s.calJob ch = some j → j.phase ≠ 2
  · rw [takeoverDone_idle hIdle]
    exact ⟨s.takeoverOpen_displaced ch, hOpen⟩
  · push Not at hIdle
    obtain ⟨j, hJob, hPhase⟩ := hIdle
    obtain ⟨-, hChans, hFrame⟩ := takeoverDone_waiting hJob hPhase
    exact ⟨(s.takeoverOpen_displaced ch).trans hChans hFrame, hOpen.trans (hFrame.mono fun _ => List.mem_append_right (dutyShown ch))⟩

theorem execTakeoverSwitchOpen_due {d : Nat} (hch : ch < 2048) (h : (s.chan ch).overlap = some d) (hDue : d ≤ s.time.up) :
    execTakeoverSwitchOpen ch s = .next (takeoverDone ch s) := by
  rw [execTakeoverSwitchOpen, h]
  exact congrArg Host.Outcome.next ((if_pos hch).trans (State.atDue_now hDue))

/-! The hand-back ends (R161, R163). -/

/-- The level codes that a channel acts on, from the registers of its own window (R143, R144). -/
def State.ownLevels (s : State) (ch : Nat) : List Nat :=
  (((levelRegs ch).map s.rdN).take 6).map voltActed ++ (((levelRegs ch).map s.rdN).drop 6).map curActed

theorem State.loadLevels_eq (s : State) (ch : Nat) : s.loadLevels ch = s.drivers ch fun c => { c with dacs := s.ownLevels ch } := rfl

/-- Outrider `o` with its switch open and no duty, its levels not yet loaded. -/
def State.released (s : State) (o : Nat) : State :=
  ((s.setChan o { s.chan o with overlap := none, switch := .opened, driverOn := false }).setFld (PIN_STAT o) 12 11 0).setFld (PIN_STAT o) 3 0 0

theorem State.handbackOpen_eq (s : State) (ch : Nat) : s.handbackOpen ch =
    ((s.released (outriderOf (laneOf ch))).loadLevels (outriderOf (laneOf ch))).evt (PIN_EVT ch) 7 := rfl

theorem State.released_frame (s : State) (o : Nat) : Frame [PIN_STAT o] s (s.released o) :=
  (Frame.refl.setChan.setFld List.mem_cons_self).setFld List.mem_cons_self

theorem State.released_ownLevels (s : State) (o : Nat) : (s.released o).ownLevels o = s.ownLevels o := by
  have hLevels : (levelRegs o).map (s.released o).rdN = (levelRegs o).map s.rdN := List.map_congr_left fun a ha => by
    refine congrArg BitVec.toNat ((s.released_frame o).regs a ?_)
    simp only [levelRegs, List.mem_cons, List.not_mem_nil, or_false, PIN_LVL_VIH, PIN_LVL_VIL, PIN_LVL_VIT, PIN_LVL_VOH, PIN_LVL_VOL,
      PIN_LVL_VCOM, PIN_LVL_IOH, PIN_LVL_IOL] at ha
    rw [List.mem_singleton, PIN_STAT]
    omega
  rw [State.ownLevels, hLevels, State.ownLevels]

theorem State.released_outState (s : State) (o : Nat) : (s.released o).outState o = 0 := by
  rw [State.outState, State.released, State.fld_setFld_apart _ _ (by decide) (by decide) (by decide) (by decide),
    State.fld_setFld _ _ _ _ _ (by decide) (by decide), Nat.zero_mod]

/-- What a hand-back of `ch` leaves once the switch of outrider `o` is open. -/
structure HandedBack (ch o : Nat) (s t : State) : Prop where
  chan : t.chan o = { s.chan o with overlap := none, switch := .opened, driverOn := false, dacs := s.ownLevels o }
  parked : t.outState o = 0
  event : t.bit (PIN_EVT ch) 7 = true
  others : ∀ c, c ≠ o → t.chan c = s.chan c
  frame : Frame [PIN_STAT o, PIN_EVT ch] s t

theorem State.handbackOpen_handedBack (s : State) (ch : Nat) : HandedBack ch (outriderOf (laneOf ch)) s (s.handbackOpen ch) := by
  rw [State.handbackOpen_eq]
  have hOutrider : 2048 ≤ outriderOf (laneOf ch) := Nat.le_add_right _ _
  generalize outriderOf (laneOf ch) = o at hOutrider
  have hChan (c : Nat) : (((s.released o).loadLevels o).evt (PIN_EVT ch) 7).chan c =
      if c ∈ [o] then { (s.released o).chan c with dacs := s.ownLevels o } else (s.released o).chan c := by
    rw [State.chan_evt, State.loadLevels_eq, State.chan_drivers, State.driving_outrider _ hOutrider, State.released_ownLevels]
  have hRegs : Frame [] (s.released o) ((s.released o).loadLevels o) := by
    rw [State.loadLevels_eq]
    exact Frame.refl.drivers
  have hStat : PIN_STAT o ≠ PIN_EVT ch := by unfold PIN_STAT PIN_EVT; omega
  refine ⟨?_, ?_, State.bit_evt_self _ _ _ (by decide), fun c hc => ?_, Frame.evt ?_ (List.mem_cons_of_mem _ List.mem_cons_self)⟩
  · rw [hChan, if_pos List.mem_cons_self]
    exact congrArg (fun x : Chan => { x with dacs := s.ownLevels o }) (s.chan_setChan_self o _)
  · rw [State.outState, State.fld, State.rd_evt, if_neg hStat, hRegs.regs _ List.not_mem_nil]
    exact s.released_outState o
  · rw [hChan, if_neg (by simpa using hc)]
    exact s.chan_setChan_ne _ hc
  · exact ((s.released_frame o).mono fun _ h => List.mem_cons.2 (.inl (List.mem_singleton.1 h))).trans
      (hRegs.mono fun _ h => absurd h List.not_mem_nil)

theorem execHandbackSwitchOpen_due {d : Nat} (h : (s.chan (outriderOf (laneOf ch))).overlap = some d)
    (hServes : s.fld (PIN_STAT (outriderOf (laneOf ch))) 3 0 = ch % 16) (hDue : d ≤ s.time.up) :
    execHandbackSwitchOpen ch s = .next (s.handbackOpen ch) := by
  rw [execHandbackSwitchOpen, h]
  exact congrArg Host.Outcome.next ((if_pos hServes).trans (State.atDue_now hDue))

end Sys2Proof.Machine

open Sys2Proof Sys2Proof.Machine

/-- Settles O35: a switch that has closed parks its pin (`State.padClosed_closes`), one that has opened is open (`State.padOpened_opens`), a
displaced channel leaves its contact (`takeoverDone_displaced`) and an outrider parks with its own levels (`State.handbackOpen_handedBack`);
without an interval or a movement under way each row keeps the state. -/
theorem padSwitchesAndDuties : Obligations.PadSwitchesAndDuties := by
  intro ch s hch o
  have ho : o ≠ ch := by
    have : 2048 ≤ o := Nat.le_add_right _ _
    omega
  refine ⟨fun hClosing hDue => ?_, fun hStill => ?_, fun h hh hOpening hDue => ?_, fun hOwn hOutrider => ?_, fun d hRanging hDue => ?_,
    fun hIdle => ?_, fun d hOverlap hDue => ?_, fun hIdle => ?_, fun d hOverlap hServes hDue => ?_, fun hIdle => ?_⟩
  · have hCloses := s.padClosed_closes hch
    refine ⟨_, execPadSwitchClosed_due hClosing hDue, hCloses.closed, hCloses.connected, fun c hc => ?_, hCloses.terminates, hCloses.loadActs,
      hCloses.others, hCloses.frame⟩
    obtain ⟨x, hx⟩ := hCloses.driving c hc
    rw [hx]
    refine ⟨x.holds_symbol _ _, x.holds_driverOn _ _, fun hInert hPark => ?_⟩
    rw [hInert]
    exact x.holds_driveHigh hPark
  · exact congrArg Host.Outcome.next (if_neg hStill)
  · obtain ⟨d, hOpens, hFirst⟩ := State.opensAt_le hh hOpening
    refine ⟨_, execPadSwitchOpen_due hOpens (hFirst.trans hDue), State.padOpened_opens ho hh hOpening hDue, fun c hc hco => ?_,
      Frame.refl.padOpened.padOpened⟩
    exact ((s.padOpened ch).chan_padOpened_ne hco).trans (s.chan_padOpened_ne hc)
  · exact congrArg Host.Outcome.next (by rw [State.opensAt_none hOwn hOutrider])
  · exact ⟨_, execPmuRangingEnd_due hRanging hDue, congrArg Chan.ranging (s.chan_setChan_self ch _), State.bit_setBit_self _ _ (by decide),
      fun c hc => s.chan_setChan_ne _ hc, Frame.refl.setChan.setBit List.mem_cons_self⟩
  · exact congrArg Host.Outcome.next (by rw [hIdle])
  · obtain ⟨hDisplaced, hFrame⟩ := takeoverDone_displaced s ch
    refine ⟨_, execTakeoverSwitchOpen_due hch hOverlap hDue, hDisplaced.opened, hDisplaced.overlap, hDisplaced.off, hDisplaced.replaced,
      hDisplaced.event, hDisplaced.others, fun j hJob hPhase => (takeoverDone_waiting hJob hPhase).1, fun hNone => ?_, hFrame⟩
    rw [takeoverDone_idle hNone]
    exact ⟨rfl, s.takeoverOpen_frame ch⟩
  · exact congrArg Host.Outcome.next (by rw [hIdle])
  · have hBack := s.handbackOpen_handedBack ch
    refine ⟨_, execHandbackSwitchOpen_due hOverlap hServes hDue, ?_, ?_, hBack.parked, hBack.event, ?_, hBack.others, hBack.frame⟩ <;>
      rw [hBack.chan]
    rfl
  · exact congrArg Host.Outcome.next (by rw [hIdle])
end

section
/-!
PROOFS. The final search (R183): every branch covers the first uncovered cell with a spare of its region, so a cover that it finds covers every
cell within the spares that are left.
-/

namespace Sys2Proof.Machine

variable {g : RepairRec} {cells : List (Nat × Nat × Nat)} {repairs l : List Repair}

/-- The repairs `l` are of one region, cover its cells and take no more spares of a kind than `free` has. -/
structure CoversRegion (g : RepairRec) (region : Nat) (free : Bool → Nat) (cells : List (Nat × Nat × Nat)) (l : List Repair) : Prop where
  covers : ∀ c ∈ cells, ∃ p ∈ l, p.covers g c = true
  region : ∀ p ∈ l, p.region = region
  spares : ∀ k, (l.filter fun p => p.isCol == k).length ≤ free k

/-- A spare that covers the first cell, with a cover of the cells that it leaves, is a cover. -/
theorem CoversRegion.cons {region : Nat} {free left : Bool → Nat} {c : Nat × Nat × Nat} {p : Repair}
    (h : CoversRegion g region left (cells.filter fun x => !p.covers g x) l) (hRegion : p.region = region) (hFirst : p.covers g c = true)
    (hSpare : ∀ k, (if p.isCol = k then 1 else 0) + left k ≤ free k) : CoversRegion g region free (c :: cells) (p :: l) := by
  refine ⟨fun x hx => ?_, by simpa [hRegion] using h.region, fun k => ?_⟩
  · by_cases hCovered : p.covers g x = true
    · exact ⟨p, List.mem_cons_self, hCovered⟩
    · obtain rfl | hRest := List.mem_cons.1 hx
      · exact absurd hFirst hCovered
      · obtain ⟨q, hq, hCovers⟩ := h.covers x (List.mem_filter.2 ⟨hRest, by simpa using hCovered⟩)
        exact ⟨q, List.mem_cons_of_mem _ hq, hCovers⟩
  · have hKind := h.spares k
    have hFree := hSpare k
    by_cases hp : p.isCol = k
    · rw [if_pos hp] at hFree
      rw [List.filter_cons_of_pos (by simpa using hp), List.length_cons]
      omega
    · rw [if_neg hp] at hFree
      rw [List.filter_cons_of_neg (by simpa using hp)]
      omega

/-- The spares of a region as `coversOf` takes them: `sr` rows and `sc` columns. -/
def sparesOf (sr sc : Nat) (isCol : Bool) : Nat := if isCol then sc else sr

theorem coversOf_covers {region n sr sc : Nat} (hCells : ∀ c ∈ cells, g.regionOf c.1 c.2.1 = region) (h : l ∈ coversOf g region n sr sc cells) :
    CoversRegion g region (sparesOf sr sc) cells l := by
  induction n generalizing sr sc cells l with
  | zero =>
    cases cells with
    | nil =>
      rw [coversOf, List.mem_singleton] at h
      subst h
      exact ⟨by simp, by simp, by simp⟩
    | cons c cs => simp [coversOf] at h
  | succ n ih =>
    cases cells with
    | nil =>
      rw [coversOf, List.mem_singleton] at h
      subst h
      exact ⟨by simp, by simp, by simp⟩
    | cons c cs =>
      have hHere := hCells c List.mem_cons_self
      have hRest : ∀ p : Repair, ∀ x ∈ cs.filter fun x => !p.covers g x, g.regionOf x.1 x.2.1 = region := fun p x hx =>
        hCells x (List.mem_cons_of_mem _ (List.mem_filter.1 hx).1)
      rw [coversOf, List.mem_append] at h
      rcases h with hRow | hCol
      · split at hRow
        · cases hRow
        · obtain ⟨l, hl, rfl⟩ := List.mem_map.1 hRow
          refine (ih (hRest _) hl).cons rfl (by simp [Repair.covers]) fun k => ?_
          cases k <;> simp [sparesOf]
          omega
      · split at hCol
        · cases hCol
        · obtain ⟨l, hl, rfl⟩ := List.mem_map.1 hCol
          refine (ih (hRest _) hl).cons rfl (by simp [Repair.covers, hHere]) fun k => ?_
          cases k <;> simp [sparesOf]
          omega

theorem bestCover_mem {ls : List (List Repair)} (h : bestCover ls = some l) : l ∈ ls := by
  induction ls generalizing l with
  | nil => cases h
  | cons a ls ih =>
    unfold bestCover at h
    cases hRest : bestCover ls with
    | none =>
      rw [hRest] at h
      cases h
      exact List.mem_cons_self
    | some b =>
      rw [hRest] at h
      dsimp only at h
      split at h <;> cases h
      · exact List.mem_cons_of_mem _ (ih hRest)
      · exact List.mem_cons_self

/-- The cells of a region. -/
def cellsOf (g : RepairRec) (cells : List (Nat × Nat × Nat)) (region : Nat) : List (Nat × Nat × Nat) :=
  cells.filter fun c => g.regionOf c.1 c.2.1 == region

theorem regionCover_covers {region : Nat} (h : regionCover g cells repairs region = some l) :
    CoversRegion g region (spareLeft g repairs region) (cellsOf g cells region) l := by
  have hCover := coversOf_covers (fun c hc => by simpa using (List.mem_filter.1 hc).2) (bestCover_mem h)
  exact ⟨hCover.covers, hCover.region, fun k => (hCover.spares k).trans (by cases k <;> exact Nat.le_refl _)⟩

/-- The repairs found for regions 0 to `m` hold a cover of each of them, and none of another region. -/
theorem regionCovers_cover {m : Nat} (h : (List.range m).foldl
    (fun acc r => acc.bind fun l => (regionCover g cells repairs r).map (l ++ ·)) (some []) = some l) :
    (∀ p ∈ l, p.region < m) ∧ ∀ r < m, CoversRegion g r (spareLeft g repairs r) (cellsOf g cells r) (l.filter fun p => p.region == r) := by
  induction m generalizing l with
  | zero =>
    cases h
    exact ⟨by simp, by simp⟩
  | succ m ih =>
    rw [List.range_succ, List.foldl_append] at h
    obtain ⟨l, hBelow, hLast⟩ := Option.bind_eq_some_iff.1 h
    obtain ⟨k, hCover, rfl⟩ := Option.map_eq_some_iff.1 hLast
    obtain ⟨hRegions, hCovers⟩ := ih hBelow
    have hHere := regionCover_covers hCover
    refine ⟨fun p hp => ?_, fun r hr => ?_⟩
    · rcases List.mem_append.1 hp with hOld | hNew
      · exact Nat.lt_succ_of_lt (hRegions p hOld)
      · exact (hHere.region p hNew).symm ▸ Nat.lt_succ_self m
    · rw [List.filter_append]
      rcases Nat.lt_succ_iff_lt_or_eq.1 hr with hLess | rfl
      · have hNone : (k.filter fun p => p.region == r) = [] := List.filter_eq_nil_iff.2 fun p hp => by
          rw [hHere.region p hp]
          simpa using Nat.ne_of_gt hLess
        rw [hNone, List.append_nil]
        exact hCovers r hLess
      · have hNone : (l.filter fun p => p.region == r) = [] := List.filter_eq_nil_iff.2 fun p hp => by
          simpa using Nat.ne_of_lt (hRegions p hp)
        have hAll : (k.filter fun p => p.region == r) = k := List.filter_eq_self.2 fun p hp => by simpa using hHere.region p hp
        rw [hNone, hAll, List.nil_append]
        exact hHere

end Sys2Proof.Machine

open Sys2Proof Sys2Proof.Machine

/-- Settles O24: the search covers region by region (`regionCovers_cover`), each by branching on its first uncovered cell (`coversOf_covers`). -/
theorem finalSearchCoversEveryCell : Obligations.FinalSearchCoversEveryCell := by
  intro g cells repairs l h
  obtain ⟨-, hCovers⟩ := regionCovers_cover h
  refine ⟨fun c hc hRegion => ?_, fun r hr k => ?_⟩
  · obtain ⟨p, hp, hCovered⟩ := (hCovers _ hRegion).covers c (List.mem_filter.2 ⟨hc, by simp⟩)
    exact List.any_eq_true.2 ⟨p, List.mem_append_right _ (List.mem_filter.1 hp).1, hCovered⟩
  · have hSpares := (hCovers r hr).spares k
    rw [List.filter_filter] at hSpares
    simpa only [Bool.and_comm] using hSpares
end

section
/-!
PROOFS. Memory events and their analysis (R179 to R182): the fails of an analysed event are recorded or covered by an assigned repair, whatever
spares the must-repair rule assigns.
-/

namespace Sys2Proof.Machine

variable {s t u : State} {n m k : Nat} {g : RepairRec} {e : MemEvent} {rest : List MemEvent} {x : Site}

/-! The must-repair rule (R180, R181). -/

/-- Every cell is recorded or covered after the rule, and every repair stays assigned. -/
theorem mustRepair_keeps {region : Nat} {cells : List (Nat × Nat × Nat)} {repairs : List Repair} :
    (∀ c ∈ cells, c ∈ (mustRepair g region k cells repairs).1 ∨ ∃ p ∈ (mustRepair g region k cells repairs).2.1, p.covers g c = true) ∧
      ∀ p ∈ repairs, p ∈ (mustRepair g region k cells repairs).2.1 := by
  induction k generalizing cells repairs with
  | zero => exact ⟨fun c hc => .inl hc, fun p hp => hp⟩
  | succ k ih =>
    unfold mustRepair
    split
    · exact ⟨fun c hc => .inl hc, fun p hp => hp⟩
    · rename_i line _ _
      split
      · exact ⟨fun c hc => .inl hc, fun p hp => hp⟩
      · obtain ⟨hCells, hRepairs⟩ := ih (cells := cells.filter fun c => !line.covers g c) (repairs := repairs ++ [line])
        refine ⟨fun c hc => ?_, fun p hp => hRepairs p (List.mem_append_left _ hp)⟩
        by_cases hCovered : line.covers g c = true
        · exact .inr ⟨line, hRepairs line (List.mem_append_right _ List.mem_cons_self), hCovered⟩
        · exact hCells c (List.mem_filter.2 ⟨hc, by simpa using hCovered⟩)

/-! What fail capture of one site leaves (R173 to R182). -/

theorem State.setWide_eq (s : State) (a v : Nat) : ∃ r, s.setWide a k v = { s with regs := r } := by
  induction k generalizing s a v with
  | zero => exact ⟨s.regs, rfl⟩
  | succ k ih => exact ih (s.wrN a v) (a + 2) (v / 65536)

theorem State.putSite_eq (s : State) (n : Nat) (x : Site) : ∃ r, s.putSite n x = { s.setSite n x with regs := r } :=
  State.setWide_eq ((s.setSite n x).wrN _ _) _ _

@[simp] theorem State.site_putSite_self (s : State) (n : Nat) (x : Site) : (s.putSite n x).site n = x := by
  obtain ⟨r, hr⟩ := s.putSite_eq n x
  rw [hr]
  exact s.site_setSite_self n x

/-- Fail capture works on site `n`: the other sites and the result queues are as before. -/
structure OfSite (n : Nat) (s t : State) : Prop where
  sites : ∀ m, m ≠ n → t.site m = s.site m
  results : t.results = s.results

theorem OfSite.refl : OfSite n s s := ⟨fun _ _ => rfl, rfl⟩

section
variable (h : OfSite n s t)
include h

theorem OfSite.upd (hu : (u.sites, u.results) = (t.sites, t.results)) : OfSite n s u := by
  simp only [Prod.mk.injEq] at hu
  obtain ⟨hSites, hResults⟩ := hu
  exact ⟨fun m hm => (congrArg (tabGet (fun _ => Site.init) · m) hSites).trans (h.sites m hm), hResults.trans h.results⟩

theorem OfSite.evt {a b : Nat} : OfSite n s (t.evt a b) := h.upd rfl
theorem OfSite.inc {a : Nat} : OfSite n s (t.inc a) := h.upd rfl

theorem OfSite.setSite : OfSite n s (t.setSite n x) :=
  ⟨fun m hm => (t.site_setSite_ne x hm).trans (h.sites m hm), h.results⟩

theorem OfSite.putSite : OfSite n s (t.putSite n x) := by
  obtain ⟨r, hr⟩ := t.putSite_eq n x
  rw [hr]
  exact h.setSite.upd rfl

theorem OfSite.abortCheck : OfSite n s (abortCheck n t) := ite_of h.setSite h

theorem OfSite.flagSite : OfSite n s (t.flagSite n k) := h.putSite

theorem OfSite.eventLost : OfSite n s (eventLost n t) := h.inc.evt.flagSite

theorem OfSite.unrepairable : OfSite n s (unrepairable n t) := h.putSite.abortCheck

theorem OfSite.analyseEvent : OfSite n s (analyseEvent n t) := by
  unfold Machine.analyseEvent
  dsimp only
  split
  · exact ite_of h.putSite (ite_of h.putSite.eventLost (ite_of h.putSite.putSite.unrepairable h.putSite.putSite))
  · exact h

theorem OfSite.analyseAll : OfSite n s (analyseAll n k t) := by
  induction k generalizing t with
  | zero => exact h
  | succ k ih => exact ite_of h (ih h.analyseEvent)

end

/-! The analysis of one event. -/

/-- A site once its oldest event has left the FIFO. -/
def Site.popped (x : Site) (rest : List MemEvent) : Site := { x with fifo := rest }

/-- The cells of a session with that of an event. -/
def Session.withCell (x : Session) (c : Nat × Nat × Nat) : List (Nat × Nat × Nat) := if x.cells.contains c then x.cells else x.cells ++ [c]

theorem Session.mem_withCell {x : Session} {c d : Nat × Nat × Nat} (h : d = c ∨ d ∈ x.cells) : d ∈ x.withCell c := by
  unfold Session.withCell
  split
  · rename_i hKnown
    rcases h with rfl | hOld
    · simpa using hKnown
    · exact hOld
  · rcases h with rfl | hOld
    · exact List.mem_append_right _ List.mem_cons_self
    · exact List.mem_append_left _ hOld

/-- A session once the must-repair rule has assigned its spares for cell `c`. -/
def Session.repaired (x : Session) (g : RepairRec) (c : Nat × Nat × Nat) : Session :=
  let m := mustRepair g (g.regionOf c.1 c.2.1) (g.spareRows + g.spareCols + 1) (x.withCell c) x.repairs
  { x with cells := m.1, repairs := m.2.1 }

theorem Session.repaired_keeps {x : Session} {c : Nat × Nat × Nat} :
    (∀ d, d = c ∨ d ∈ x.cells → d ∈ (x.repaired g c).cells ∨ (x.repaired g c).covered g d = true) ∧
      ∀ p ∈ x.repairs, p ∈ (x.repaired g c).repairs := by
  obtain ⟨hCells, hRepairs⟩ := mustRepair_keeps (g := g) (region := g.regionOf c.1 c.2.1) (k := g.spareRows + g.spareCols + 1)
    (cells := x.withCell c) (repairs := x.repairs)
  exact ⟨fun d hd => (hCells d (Session.mem_withCell hd)).imp_right List.any_eq_true.2, hRepairs⟩

theorem unrepairable_site (s : State) : ((unrepairable n s).site n).session = (s.site n).session.setFlag 2 ∧
    ((unrepairable n s).site n).fifo = [] := by
  let P := fun t : State => (t.site n).session = (s.site n).session.setFlag 2 ∧ (t.site n).fifo = []
  have hPut : P (s.putSite n { s.site n with session := (s.site n).session.setFlag 2, fifo := [] }) := by
    simp only [P, State.site_putSite_self, and_self]
  refine ite_of (Q := P) ?_ hPut
  simp only [P, State.site_setSite_self]
  exact hPut

section
variable (hFifo : (s.site n).fifo = e :: rest) (hGeometry : s.geometry n = some g)
include hFifo hGeometry

theorem analyseEvent_covered (hCovered : (s.site n).session.covered g (e.bank, e.row, e.col) = true) :
    analyseEvent n s = s.putSite n ((s.site n).popped rest) := by
  unfold analyseEvent
  simp only [hFifo, hGeometry, hCovered, if_true]
  rfl

/-- An event that no repair covers and that the session has room for is repaired, or its site is found unrepairable. -/
theorem analyseEvent_repairs (hBare : (s.site n).session.covered g (e.bank, e.row, e.col) = false)
    (hRoom : (s.site n).session.cells.length + (s.site n).session.repairs.length < 8184 ∨ (e.bank, e.row, e.col) ∈ (s.site n).session.cells) :
    ∃ u, (u.site n).session = (s.site n).session.repaired g (e.bank, e.row, e.col) ∧ (u.site n).fifo = rest ∧
      (analyseEvent n s = u ∨ analyseEvent n s = unrepairable n u) := by
  have hFits : (!(s.site n).session.cells.contains (e.bank, e.row, e.col) &&
      decide ((s.site n).session.cells.length + (s.site n).session.repairs.length ≥ 8184)) = false := by
    rcases hRoom with h | h <;> simp [h]
  unfold analyseEvent
  simp only [hFifo, hGeometry, hBare, hFits, Bool.false_eq_true, if_false]
  refine ⟨_, ?_, ?_, (ite_eq_or_eq _ _ _).symm⟩ <;> rw [State.site_putSite_self]
  · simp only [Session.repaired, Session.withCell]
    cases (s.site n).session.cells.contains (e.bank, e.row, e.col) <;> rfl
  · rw [State.site_putSite_self]

end

end Sys2Proof.Machine

open Sys2Proof Sys2Proof.Machine

/-- Settles O23: the must-repair rule loses no cell (`mustRepair_keeps`), so neither does the repaired session (`Session.repaired_keeps`), and
a site found unrepairable keeps it. -/
theorem analysisLosesNoFail : Obligations.AnalysisLosesNoFail := by
  refine ⟨fun n e rest g s hFifo hGeometry hRoom => ?_, fun n s hFifo => ?_⟩
  · have hCalm : Calm True s (analyseEvent n s) := Calm.refl.analyseEvent
    have hOf : OfSite n s (analyseEvent n s) := OfSite.refl.analyseEvent
    refine ⟨_, rfl, and_assoc.1 (and_assoc.1 ⟨?_, fun a => congrArg (tabGet (fun _ => 0#8) · a) (hCalm.mem trivial), hCalm.nv, hOf.sites⟩)⟩
    cases hCovered : (s.site n).session.covered g (e.bank, e.row, e.col) with
    | true =>
      rw [analyseEvent_covered hFifo hGeometry hCovered, State.site_putSite_self]
      refine ⟨⟨fun c hc => ?_, fun p hp => hp⟩, .inl rfl⟩
      rcases hc with rfl | hOld
      · exact .inr hCovered
      · exact .inl hOld
    | false =>
      obtain ⟨u, hSession, hRest, hEnd⟩ := analyseEvent_repairs hFifo hGeometry hCovered hRoom
      have hKeeps := Session.repaired_keeps (g := g) (x := (s.site n).session) (c := (e.bank, e.row, e.col))
      rw [← hSession] at hKeeps
      rcases hEnd with hEnd | hEnd <;> rw [hEnd]
      · exact ⟨hKeeps, .inl hRest⟩
      · obtain ⟨hFlagged, hEmpty⟩ := unrepairable_site (n := n) u
        rw [hFlagged]
        exact ⟨hKeeps, .inr ⟨hEmpty, (Nat.testBit_or _ _ _).trans (Bool.or_true _)⟩⟩
  · have hNone : analyseEvent n s = s := by simp only [analyseEvent, hFifo]
    exact congrArg Host.Outcome.next hNone
end

section
/-!
PROOFS. The result queues: what a read of a status register latches and what an advance discards (R191, R238, R260, R281, R386).
-/

namespace Sys2Proof.Machine

variable {s t b : State} {a : Nat} {regs more : List Nat}

theorem State.readReady_ready (h : s.bit SYS_STAT 15 = true) (f : State → State) : s.readReady f = f s := if_pos h

/-- Registers take the values that stand beside them. -/
def State.wrPairs (s : State) (l : List (Nat × Nat)) : State := l.foldl (fun t e => t.wrN e.1 e.2) s

theorem State.wrPairs_results (l : List (Nat × Nat)) : (s.wrPairs l).results = s.results := by
  induction l generalizing s with
  | nil => rfl
  | cons e l ih => exact ih (s := s.wrN e.1 e.2)

theorem State.rd_wrPairs_ne {l : List (Nat × Nat)} (h : ∀ e ∈ l, a ≠ e.1) : (s.wrPairs l).rd a = s.rd a := by
  induction l generalizing s with
  | nil => rfl
  | cons e l ih =>
    obtain ⟨hHead, hTail⟩ := List.forall_mem_cons.1 h
    exact (ih hTail).trans (s.rd_wr_ne _ hHead)

/-- Where no register stands twice, each holds its value in the end. -/
theorem State.rd_wrPairs_zip {vs : List Nat} (hRegs : regs.Nodup) :
    ∀ e ∈ regs.zip vs, (s.wrPairs (regs.zip vs)).rd e.1 = BitVec.ofNat 16 e.2 := by
  induction regs generalizing s vs with
  | nil => exact fun e he => absurd he List.not_mem_nil
  | cons r regs ih =>
    obtain ⟨hNew, hRest⟩ := List.nodup_cons.1 hRegs
    cases vs with
    | nil => exact fun e he => absurd he List.not_mem_nil
    | cons v vs =>
      refine List.forall_mem_cons.2 ⟨?_, ih (s := s.wrN r v) hRest⟩
      exact (State.rd_wrPairs_ne fun e he (hEq : r = e.1) => hNew (hEq ▸ (List.of_mem_zip he).1)).trans (s.rd_wr_self r _)

theorem Frame.wrPairs {vs : List Nat} (h : Frame more s t) (hRegs : ∀ r ∈ regs, r ∈ more) : Frame more s (t.wrPairs (regs.zip vs)) := by
  induction regs generalizing t vs with
  | nil => exact h
  | cons r regs ih =>
    obtain ⟨hHead, hTail⟩ := List.forall_mem_cons.1 hRegs
    cases vs with
    | nil => exact h
    | cons v vs => exact ih (h.wrN hHead) hTail

/-! A latch. -/

/-- The status word that a read of a queue with the result `it` shows. -/
def latchWord (seen : Bool) (it : Nat × List Nat) (live : Nat) : Nat := 0x8000 ||| (if seen then 0x4000 else 0) ||| it.1 ||| live

theorem latchWord_ready (seen : Bool) (it : Nat × List Nat) (live : Nat) : (latchWord seen it live).testBit 15 = true := by
  have hTop : Nat.testBit 0x8000 15 = true := by decide
  simp only [latchWord, Nat.testBit_or, hTop, Bool.true_or]

theorem latchWord_repeat (it : Nat × List Nat) (live : Nat) : (latchWord true it live).testBit 14 = true := by
  have hRepeat : Nat.testBit 0x4000 14 = true := by decide
  simp only [latchWord, if_true, Nat.testBit_or, hRepeat, Bool.or_true, Bool.true_or]

theorem State.latchResult_queued {it : Nat × List Nat} {rest : List (Nat × List Nat)} {live : Nat} (h : (s.queue a).items = it :: rest) :
    s.latchResult a regs live =
      ((s.setQueue a { s.queue a with seen := true }).wrN a (latchWord (s.queue a).seen it live)).wrPairs (regs.zip it.2) := by
  simp only [State.latchResult, h]
  rfl

theorem State.latchResult_empty {live : Nat} (h : (s.queue a).items = []) :
    s.latchResult a regs live =
      (s.wrN a ((s.queue a).last.1 ||| live)).wrPairs (regs.zip ((s.queue a).last.2 ++ List.replicate regs.length 0)) := by
  simp only [State.latchResult, h]
  rfl

theorem State.queue_of_results (h : t.results = s.results) (c : Nat) : t.queue c = s.queue c := congrArg (tabGet (fun _ => ResQueue.init) · c) h

theorem State.bit_wrN_self (v i : Nat) (hi : i < 16) : (s.wrN a v).bit a i = v.testBit i := by
  rw [State.bit, State.wrN, State.rd_wr_self, BitVec.getLsbD_ofNat, decide_eq_true hi, Bool.true_and]

/-- A read that latches the result at `a` into `regs`, which ascend from `a`, is a read of a result queue. -/
theorem queueRead_of_latch {read : Instr} {live : Nat} (hRegs : List.IsChain (· < ·) (a :: regs)) (hLatch : t = b.latchResult a regs live)
    (hRead : exec read s = .next { t with read := ⟨t.rdN a, [], false⟩ }) : QueueRead read a regs s b := by
  subst hLatch
  replace hRegs : (a :: regs).Nodup := hRegs.pairwise.imp Nat.ne_of_lt
  obtain ⟨hStatus, hNodup⟩ := List.nodup_cons.1 hRegs
  have hBehind : ∀ r ∈ regs, r ∈ a :: regs := fun r hr => List.mem_cons_of_mem a hr
  constructor
  case latches =>
    intro it rest hItems
    refine ⟨_, hRead, rfl, ?_⟩
    rw [State.latchResult_queued hItems]
    have hShown : ∀ u : State, (u.wrPairs (regs.zip it.2)).rd a = u.rd a := fun u =>
      State.rd_wrPairs_ne fun e he hEq => hStatus (hEq ▸ (List.of_mem_zip he).1)
    have hBit : ∀ (u : State) (v i : Nat), i < 16 → ((u.wrN a v).wrPairs (regs.zip it.2)).bit a i = v.testBit i := fun u v i hi =>
      (congrArg (BitVec.getLsbD · i) (hShown _)).trans (State.bit_wrN_self v i hi)
    have hQueue : ∀ (u : State) (v c : Nat), ((u.wrN a v).wrPairs (regs.zip it.2)).queue c = u.queue c := fun u v c =>
      State.queue_of_results (State.wrPairs_results _) c
    refine ⟨(hBit _ _ 15 (by decide)).trans (latchWord_ready _ _ _), fun hSeen => ?_, State.rd_wrPairs_zip hNodup,
      (hQueue _ _ a).trans (b.queue_setQueue_self a _), fun c hc => (hQueue _ _ c).trans (b.queue_setQueue_ne _ hc), ?_⟩
    · rw [hSeen]
      exact (hBit _ _ 14 (by decide)).trans (latchWord_repeat _ _)
    · exact (((Frame.refl.setQueue).wrN List.mem_cons_self).wrPairs hBehind).port
  case empty =>
    intro hItems
    refine ⟨_, hRead, rfl, ?_⟩
    rw [State.latchResult_empty hItems]
    exact ⟨State.wrPairs_results _, ((Frame.refl.wrN List.mem_cons_self).wrPairs hBehind).port⟩

/-! An advance. -/

theorem State.advResult_queued {it : Nat × List Nat} {rest : List (Nat × List Nat)} (h : (s.queue a).items = it :: rest) :
    s.advResult a = s.setQueue a { s.queue a with items := rest, last := it, seen := false } := by
  simp only [State.advResult, h]

theorem State.advResult_empty (h : (s.queue a).items = []) : s.advResult a = s := by
  simp only [State.advResult, h]

/-- An advance of the queue at `a`, after which at most the registers `more` are written, is an advance of a result queue. -/
theorem queueAdvance_of_advResult {adv : Instr} (hAdv : exec adv s = .next t) (hResults : t.results = (s.advResult a).results)
    (hFrame : Frame more (s.advResult a) t) : QueueAdvance adv a more s := by
  constructor
  case discards =>
    intro it rest hItems
    rw [State.advResult_queued hItems] at hResults hFrame
    have hQueue := State.queue_of_results hResults
    exact ⟨t, hAdv, (hQueue a).trans (s.queue_setQueue_self a _), fun c hc => (hQueue c).trans (s.queue_setQueue_ne _ hc),
      Frame.refl.setQueue.trans hFrame⟩
  case empty =>
    intro hItems
    rw [State.advResult_empty hItems] at hResults hFrame
    exact ⟨t, hAdv, hResults, hFrame⟩

/-! The five kinds of queue. -/

section
variable {n : Nat} (hReady : s.bit SYS_STAT 15 = true)
include hReady

theorem asyResults_latch (hn : n < 512) : QueueRead (.asyResStatRead n) (ASY_RES_STAT n) (asyRegs n) s s :=
  queueRead_of_latch (by simp [asyRegs, ASY_RES_STAT, ASY_RES_SEQ, ASY_RES_USER, ASY_RES_FLAGS, ASY_RES_END, ASY_RES_REPAIRS]; omega)
    (if_neg (Nat.not_le.2 hn)) (congrArg Host.Outcome.next ((State.readReady_ready hReady _).trans (if_pos hn)))

theorem asyResults_advance (hn : n < 512) : QueueAdvance (.asyResAdv n) (ASY_RES_STAT n) [ASY_READY (n / 16)] s :=
  queueAdvance_of_advResult (congrArg Host.Outcome.next ((State.whenReady_ready hReady _).trans (if_neg (Nat.not_le.2 hn)))) rfl
    (Frame.refl.setBit List.mem_cons_self)

theorem acqResults_latch (hn : n < 20) :
    QueueRead (.acqResStatRead n) (ACQ_RES_STAT n) [ACQ_RES_SEQ n, ACQ_RES_SEG n, ACQ_RES_FLAGS n] s (acqSettle n s) :=
  queueRead_of_latch (by simp [ACQ_RES_STAT, ACQ_RES_SEQ, ACQ_RES_SEG, ACQ_RES_FLAGS])
    rfl (congrArg Host.Outcome.next ((State.readReady_ready hReady _).trans (if_pos hn)))

theorem acqResults_advance (hn : n < 20) : QueueAdvance (.acqResAdv n) (ACQ_RES_STAT n) [ACQ_RES_QUEUED n] s :=
  queueAdvance_of_advResult (congrArg Host.Outcome.next ((State.whenReady_ready hReady _).trans (if_pos hn))) rfl
    (Frame.refl.wrN List.mem_cons_self)

theorem tdcResults_latch :
    QueueRead (.tdcResStatRead n) (TDC_RES_STAT n)
      ([TDC_RES_SEQ n, TDC_RES_FLAGS n] ++ (List.range 4).map (TDC_RES_START n) ++ (List.range 4).map (TDC_RES_STOP n) ++
        (List.range 4).map (TDC_RES_INT n) ++ [TDC_RES_LEG n 0, TDC_RES_LEG n 1]) s (tdcSettle n (s.time.up * 65536) s) :=
  queueRead_of_latch (by
    simp [List.range_succ, TDC_RES_STAT, TDC_RES_SEQ, TDC_RES_FLAGS, TDC_RES_START, TDC_RES_STOP, TDC_RES_INT, TDC_RES_LEG]
    omega)
    rfl (congrArg Host.Outcome.next (State.readReady_ready hReady _))

theorem tdcResults_advance : QueueAdvance (.tdcResAdv n) (TDC_RES_STAT n) [] s :=
  queueAdvance_of_advResult (congrArg Host.Outcome.next (State.whenReady_ready hReady _)) rfl Frame.refl

theorem measResults_latch (hn : (measUnit n).isSome = true) :
    QueueRead (.pmuMeasStatRead n) (PMU_MEAS_STAT n) ([PMU_MEAS_SEQ n, PMU_MEAS_AVG n, PMU_MEAS_MIN n, PMU_MEAS_MAX n, PMU_MEAS_FLAGS n] ++
      (List.range 4).map fun i => PMU_MEAS_T n + 2 * i) s s :=
  queueRead_of_latch (by simp [List.range_succ, PMU_MEAS_STAT, PMU_MEAS_SEQ, PMU_MEAS_AVG, PMU_MEAS_MIN, PMU_MEAS_MAX, PMU_MEAS_FLAGS, PMU_MEAS_T])
    rfl (congrArg Host.Outcome.next ((State.readReady_ready hReady _).trans (if_neg (by simp [Option.isNone_eq_false_iff.2 hn]))))

theorem measResults_advance (hn : (measUnit n).isSome = true) : QueueAdvance (.pmuMeasAdv n) (PMU_MEAS_STAT n) [] s :=
  queueAdvance_of_advResult (congrArg Host.Outcome.next ((State.whenReady_ready hReady _).trans (if_neg (by simp [Option.isNone_eq_false_iff.2 hn])))) rfl
    Frame.refl

theorem chkResults_latch (hn : n < 16) :
    QueueRead (.chkResStatRead n) (CHK_RES_STAT n) ([CHK_RES_SEQ n, CHK_RES_ALIVE n, CHK_RES_FLAGS n] ++
      (List.range 4).map (CHK_RES_CALC n) ++ (List.range 4).map (CHK_RES_RECV n) ++ (List.range 4).map (CHK_RES_T n)) s s :=
  queueRead_of_latch (by
    simp [List.range_succ, CHK_RES_STAT, CHK_RES_SEQ, CHK_RES_ALIVE, CHK_RES_FLAGS, CHK_RES_CALC, CHK_RES_RECV, CHK_RES_T]
    omega)
    (if_neg (Nat.not_le.2 hn)) (congrArg Host.Outcome.next ((State.readReady_ready hReady _).trans (if_pos hn)))

theorem chkResults_advance (hn : n < 16) : QueueAdvance (.chkResAdv n) (CHK_RES_STAT n) [] s :=
  queueAdvance_of_advResult (congrArg Host.Outcome.next ((State.whenReady_ready hReady _).trans (if_pos hn))) rfl Frame.refl

end

end Sys2Proof.Machine

open Sys2Proof Sys2Proof.Machine

/-- Settles O31: the five kinds of queue are one, by `queueRead_of_latch` and `queueAdvance_of_advResult`. -/
theorem resultQueuesLatchAndAdvance : Obligations.ResultQueuesLatchAndAdvance := fun _ _ hReady =>
  ⟨fun hn => ⟨asyResults_latch hReady hn, asyResults_advance hReady hn⟩,
    fun hn => ⟨acqResults_latch hReady hn, acqResults_advance hReady hn⟩,
    fun _ => ⟨tdcResults_latch hReady, tdcResults_advance hReady⟩, fun hn => ⟨measResults_latch hReady hn, measResults_advance hReady hn⟩,
    fun hn => ⟨chkResults_latch hReady hn, chkResults_advance hReady hn⟩⟩
end

section
/-!
PROOFS. Sessions close and reach memory (R176, R183 to R185, R190): what the delivery of a result does to its queue and to device memory,
how a session closes, and where the drain stores a record.
-/

namespace Sys2Proof.Machine

variable {s t : State} {n : Nat} {x : Closing}

/-! Sites show themselves in four registers. -/

/-- The registers that follow a site. -/
def siteShown (n : Nat) : List Nat := [ASY_SITE_STAT n, ASY_FAILVEC n, ASY_FAILVEC n + 2, ASY_FAILVEC n + 4]

theorem Frame.putSite {l : List Nat} {y : Site} (h : Frame l s t) (hl : ∀ a ∈ siteShown n, a ∈ l) : Frame l s (t.putSite n y) := by
  refine (h.setSite.wrN (hl _ (by simp [siteShown]))).setWide fun i hi => hl _ ?_
  have hThree : i = 0 ∨ i = 1 ∨ i = 2 := by omega
  rcases hThree with rfl | rfl | rfl <;> simp [siteShown]

theorem State.queue_putSite (s : State) (n : Nat) (y : Site) (a : Nat) : (s.putSite n y).queue a = s.queue a := by
  obtain ⟨r, hr⟩ := s.putSite_eq n y
  rw [hr]
  rfl

theorem State.site_putSite_ne (s : State) {m : Nat} (y : Site) (h : m ≠ n) : (s.putSite n y).site m = s.site m := by
  obtain ⟨r, hr⟩ := s.putSite_eq n y
  rw [hr]
  exact s.site_setSite_ne y h

/-! A result is delivered. -/

/-- The result of a closed session as its queue holds it, with its block in slot `slot`. -/
def resultItem (seq slot : Nat) (x : Closing) : Nat × List Nat :=
  (16 * slot + x.session.category, [seq, x.bins.getD x.session.category 0, x.session.flags % 65536, x.session.flags / 65536, x.session.endCode,
    x.session.repairs.length])

theorem Session.category_lt (z : Session) : z.category < 16 := by
  unfold Session.category
  repeat' split
  all_goals decide

theorem resultItem_slot (seq : Nat) {slot : Nat} (x : Closing) (h : slot < 4) : (resultItem seq slot x).1 / 16 % 4 = slot := by
  have hCategory := x.session.category_lt
  simp only [resultItem]
  omega

theorem resultBlock_length (n stype seq bin : Nat) (x : Closing) : (resultBlock n stype seq bin x).length = 64 + 8 * x.session.repairs.length := by
  have hEntries (l : List Repair) : (l.flatMap Repair.bytes).length = 8 * l.length := by
    induction l with
    | nil => rfl
    | cons p l ih => simp only [List.flatMap_cons, List.length_append, List.length_cons, ih, Repair.bytes, leBytes_length]; omega
  simp only [resultBlock, List.length_append, leBytes_length, hEntries, sortRepairs, length_sortBy]

/-- The first of the four result slots that no result of a queue holds. -/
def freeSlot (items : List (Nat × List Nat)) : Nat := ((List.range 4).find? fun i => !(items.map resultSlot).contains i).getD 0

theorem freeSlot_lt (items : List (Nat × List Nat)) : freeSlot items < 4 := by
  unfold freeSlot
  cases hFree : (List.range 4).find? fun i => !(items.map resultSlot).contains i with
  | none => decide
  | some i => exact List.mem_range.1 (List.mem_of_find?_eq_some hFree)

theorem deliver_site (n : Nat) (x : Closing) (s : State) (m : Nat) : (deliver n x s).site m = s.site m := by
  refine ite_of (Q := fun t : State => t.site m = s.site m) ?_ ?_ <;> simp only [State.setBit, State.setFld, State.site_evt, State.site_wr] <;> rfl

theorem State.items_pushResult (s : State) (a st : Nat) (ws : List Nat) :
    ((s.pushResult a st ws).queue a).items = (s.queue a).items ++ [(st, (s.queue a).seq :: ws)] := by
  rw [State.pushResult, State.queue_setQueue_self]

theorem State.queue_memWrite (s : State) (a k : Nat) (l : List Byte) : (s.memWrite k l).queue a = s.queue a := rfl

/-- A queue with room takes the result at its end; the block fills its slot of the result area, and nothing outside it. -/
theorem deliver_room (h : (s.queue (ASY_RES_STAT n)).items.length < 4) :
    ∃ slot < 4, ∃ u : State, deliver n x s = u.evt ASY_EVT 0 ∧
      (u.queue (ASY_RES_STAT n)).items = (s.queue (ASY_RES_STAT n)).items ++ [resultItem (s.queue (ASY_RES_STAT n)).seq slot x] ∧
      ∀ k, (k < s.wide HST_ASY_BASE 3 + (4 * n + slot) * 65536 ∨
          s.wide HST_ASY_BASE 3 + (4 * n + slot) * 65536 + (64 + 8 * x.session.repairs.length) ≤ k) → u.memByte k = s.memByte k := by
  have hRoom : ¬ (s.queue (ASY_RES_STAT n)).items.length ≥ 4 := Nat.not_le.2 h
  refine ⟨freeSlot (s.queue (ASY_RES_STAT n)).items, freeSlot_lt _, ?_⟩
  unfold deliver
  simp only [hRoom, if_false]
  refine ⟨_, rfl, ?_, fun k hk => ?_⟩
  · simp only [State.setBit, State.setFld, State.queue_wr, State.queue_memWrite, State.items_pushResult, State.queue_setQueue_self]
    rfl
  · rw [← resultBlock_length n (s.siteType n) (s.queue (ASY_RES_STAT n)).seq (x.bins.getD x.session.category 0)] at hk
    exact ((Frame.refl.setBit (l := [ASY_READY (n / 16)]) List.mem_cons_self).mem k).trans
      ((State.memByte_memWrite_outside _ hk).trans ((Frame.refl.setQueue.pushResult (l := [])).mem k))

/-- A full queue gives up its newest result for the new one. -/
theorem deliver_full (h : 4 ≤ (s.queue (ASY_RES_STAT n)).items.length) :
    ∃ (u : State) (it : Nat × List Nat), deliver n x s = ((u.evt ASY_EVT 0).setBit (ASY_RES_STAT n) 13 true).evt ASY_EVT 4 ∧
      (u.queue (ASY_RES_STAT n)).items = (s.queue (ASY_RES_STAT n)).items.dropLast ++ [it] := by
  have hFull : (s.queue (ASY_RES_STAT n)).items.length ≥ 4 := h
  unfold deliver
  simp only [hFull, if_true]
  refine ⟨_, resultItem (s.queue (ASY_RES_STAT n)).seq (resultSlot ((s.queue (ASY_RES_STAT n)).items.getLastD (0, []))) x, rfl, ?_⟩
  simp only [State.setBit, State.setFld, State.queue_wr, State.queue_memWrite, State.items_pushResult, State.queue_setQueue_self]
  rfl

/-- An event bit, once raised, stays when another is raised. -/
theorem State.bit_evt_of_bit {a b c : Nat} (h : s.bit a b = true) : (s.evt a c).bit a b = true := by
  unfold State.bit at h ⊢
  rw [State.rd_evt, if_pos rfl, BitVec.getLsbD_or, h, Bool.true_or]

theorem deliver_full_events {u : State} (h : deliver n x s = ((u.evt ASY_EVT 0).setBit (ASY_RES_STAT n) 13 true).evt ASY_EVT 4) :
    (deliver n x s).bit ASY_EVT 0 = true ∧ (deliver n x s).bit ASY_EVT 4 = true := by
  have hApart : ¬ (ASY_EVT = ASY_RES_STAT n ∧ 0 = 13) := fun hBoth => absurd hBoth.2 (by decide)
  rw [h]
  refine ⟨State.bit_evt_of_bit ?_, State.bit_evt_self _ _ _ (by decide)⟩
  rw [State.bit_setBit _ _ _ _ _ _ (by decide), if_neg hApart]
  exact State.bit_evt_self _ _ _ (by decide)

/-- A delivery raises RESULT_READY. -/
theorem deliver_ready : (deliver n x s).bit ASY_EVT 0 = true := by
  rcases Nat.lt_or_ge (s.queue (ASY_RES_STAT n)).items.length 4 with hRoom | hFull
  · obtain ⟨slot, -, u, hEq, -⟩ := deliver_room (x := x) hRoom
    rw [hEq]
    exact State.bit_evt_self _ _ _ (by decide)
  · obtain ⟨u, it, hEq, -⟩ := deliver_full (x := x) hFull
    exact (deliver_full_events hEq).1

/-! A final search ends. -/

/-- The site of a session whose search is over. -/
def Site.searched (y : Site) : Site := { y with finalizing := none }

/-- The search delivers the session, with the repairs or flags that it has found. -/
theorem finalAnalysis_delivers (h : (s.site n).finalizing = some x) :
    ∃ y, finalAnalysis n s = deliver n y (s.putSite n (s.site n).searched) := by
  unfold finalAnalysis
  simp only [h]
  split
  · exact ⟨_, rfl⟩
  · split
    · exact ⟨_, rfl⟩
    · split
      · exact ⟨_, rfl⟩
      · exact ⟨_, rfl⟩

theorem State.wide_congr {a k : Nat} (h : ∀ i < k, t.rd (a + 2 * i) = s.rd (a + 2 * i)) : t.wide a k = s.wide a k := by
  induction k generalizing a with
  | zero => rfl
  | succ k ih =>
    have hTail : t.wide (a + 2) k = s.wide (a + 2) k := ih fun i hi => by
      have hNext := h (i + 1) (Nat.succ_lt_succ hi)
      rwa [show a + 2 * (i + 1) = a + 2 + 2 * i by omega] at hNext
    simp only [State.wide, State.rdN, hTail, show t.rd a = s.rd a from h 0 k.succ_pos]

/-- The base of the result area is none of the registers that follow a site. -/
theorem resultBase_putSite (y : Site) : (s.putSite n y).wide HST_ASY_BASE 3 = s.wide HST_ASY_BASE 3 :=
  State.wide_congr fun i hi => (Frame.refl.putSite fun _ ha => ha).regs _ (by
    simp only [siteShown, HST_ASY_BASE, ASY_SITE_STAT, ASY_FAILVEC, List.mem_cons, List.not_mem_nil, or_false]
    omega)

/-- The site of a delivered session has no search under way. -/
theorem searched_ends (s : State) (n : Nat) (y : Closing) : ((deliver n y (s.putSite n (s.site n).searched)).site n).finalizing = none := by
  rw [deliver_site, State.site_putSite_self]
  rfl

/-- A search whose result finds room in its queue writes no byte outside the result's block. -/
theorem finalAnalysis_room (h : (s.site n).finalizing = some x) (hRoom : (s.queue (ASY_RES_STAT n)).items.length < 4) :
    ∃ slot < 4, ∃ y seq, finalAnalysis n s = deliver n y (s.putSite n (s.site n).searched) ∧
      ((finalAnalysis n s).queue (ASY_RES_STAT n)).items = (s.queue (ASY_RES_STAT n)).items ++ [resultItem seq slot y] ∧
      ∀ k, (k < s.wide HST_ASY_BASE 3 + (4 * n + slot) * 65536 ∨
          s.wide HST_ASY_BASE 3 + (4 * n + slot) * 65536 + 64 + 8 * y.session.repairs.length ≤ k) →
        (finalAnalysis n s).memByte k = s.memByte k := by
  obtain ⟨y, hDelivers⟩ := finalAnalysis_delivers h
  have hQueue := s.queue_putSite n (s.site n).searched (ASY_RES_STAT n)
  rw [← hQueue] at hRoom
  obtain ⟨slot, hSlot, u, hEnd, hItems, hMem⟩ := deliver_room (x := y) hRoom
  refine ⟨slot, hSlot, y, (s.queue (ASY_RES_STAT n)).seq, hDelivers, ?_, fun k hk => ?_⟩
  · rw [hDelivers, hEnd, State.queue_evt, hItems, hQueue]
  · rw [Nat.add_assoc, ← resultBase_putSite (s.site n).searched] at hk
    rw [hDelivers, hEnd]
    exact ((Frame.refl.evt (l := [ASY_EVT]) List.mem_cons_self).mem k).trans ((hMem k hk).trans ((Frame.refl.putSite fun _ ha => ha).mem k))

/-- A search whose result finds its queue full takes the place of the newest one. -/
theorem finalAnalysis_full (h : (s.site n).finalizing = some x) (hFull : 4 ≤ (s.queue (ASY_RES_STAT n)).items.length) :
    ∃ it, ((finalAnalysis n s).site n).finalizing = none ∧
      (finalAnalysis n s).bit ASY_EVT 0 = true ∧ (finalAnalysis n s).bit ASY_EVT 4 = true ∧
      ((finalAnalysis n s).queue (ASY_RES_STAT n)).items = (s.queue (ASY_RES_STAT n)).items.dropLast ++ [it] := by
  obtain ⟨y, hDelivers⟩ := finalAnalysis_delivers h
  have hQueue := s.queue_putSite n (s.site n).searched (ASY_RES_STAT n)
  rw [← hQueue] at hFull
  obtain ⟨u, it, hEnd, hItems⟩ := deliver_full (x := y) hFull
  obtain ⟨hReady, hLost⟩ := deliver_full_events hEnd
  rw [hDelivers]
  refine ⟨it, searched_ends s n y, hReady, hLost, ?_⟩
  rw [hEnd, State.queue_evt, State.setBit, State.setFld, State.queue_wr, State.queue_evt, hItems, hQueue]

theorem finalAnalysis_idle (h : (s.site n).finalizing = none) : finalAnalysis n s = s := by
  simp only [finalAnalysis, h]

/-! A session closes. -/

/-- A site with an empty session, whose closed one waits for its search as `fin` says. -/
def Site.reopened (y : Site) (fin : Option Closing) : Site := { y with session := Session.empty, fifo := [], finalizing := fin }

/-- Finalize leaves an empty session; the closed one waits for its search, or its result is delivered. -/
theorem finalizeSite_closes (n : Nat) (s : State) :
    ∃ u c, OfSite n (finalAnalysis n s) u ∧
      (finalizeSite n s = u.putSite n ((u.site n).reopened (some c)) ∨
        finalizeSite n s = deliver n c (u.putSite n ((u.site n).reopened none))) := by
  unfold finalizeSite
  extract_lets t s0 x z c searches s1
  refine ⟨s0, c, OfSite.refl.analyseAll, ?_⟩
  by_cases hSearches : searches
  · exact .inl ((if_pos hSearches).trans (congrArg (fun fin => s0.putSite n (x.reopened fin)) (if_pos hSearches)))
  · exact .inr ((if_neg hSearches).trans (congrArg (fun fin => deliver n c (s0.putSite n (x.reopened fin))) (if_neg hSearches)))

theorem finalizeSite_empties (n : Nat) (s : State) :
    ((finalizeSite n s).site n).session = Session.empty ∧ ((finalizeSite n s).site n).fifo = [] := by
  obtain ⟨u, c, -, hEq | hEq⟩ := finalizeSite_closes n s <;> rw [hEq]
  · rw [State.site_putSite_self]
    exact ⟨rfl, rfl⟩
  · rw [deliver_site, State.site_putSite_self]
    exact ⟨rfl, rfl⟩

/-- With no search under way the result queue is as before while the closed session waits, and longer by one when its result has joined. -/
theorem finalizeSite_result (h : (s.site n).finalizing = none) :
    let t := finalizeSite n s
    (t.site n).finalizing.isSome = true ∧ (t.queue (ASY_RES_STAT n)).items = (s.queue (ASY_RES_STAT n)).items ∨
      (t.site n).finalizing = none ∧ t.bit ASY_EVT 0 = true ∧ ((s.queue (ASY_RES_STAT n)).items.length < 4 →
        (t.queue (ASY_RES_STAT n)).items.length = (s.queue (ASY_RES_STAT n)).items.length + 1) := by
  dsimp only
  obtain ⟨u, c, hOf, hEq⟩ := finalizeSite_closes n s
  rw [finalAnalysis_idle h] at hOf
  have hQueue (y : Site) : (u.putSite n y).queue (ASY_RES_STAT n) = s.queue (ASY_RES_STAT n) :=
    (u.queue_putSite n y _).trans (State.queue_of_results hOf.results _)
  rcases hEq with hEq | hEq <;> rw [hEq]
  · rw [State.site_putSite_self, hQueue]
    exact .inl ⟨rfl, rfl⟩
  · rw [deliver_site, State.site_putSite_self]
    refine .inr ⟨rfl, deliver_ready, fun hRoom => ?_⟩
    rw [← hQueue ((u.site n).reopened none)] at hRoom ⊢
    obtain ⟨slot, -, v, hDelivers, hItems, -⟩ := deliver_room (x := c) hRoom
    rw [hDelivers, State.queue_evt, hItems, List.length_append, List.length_singleton]

/-! The drain of the fail log. -/

theorem State.wide_setWide_two (s : State) (a v : Nat) : (s.setWide a 2 v).wide a 2 = v % 2 ^ 32 := by
  have hLow : (s.setWide a 2 v).rdN a = v % 65536 := by
    rw [State.rdN, State.rd_setWide_two, if_neg (by omega), if_pos rfl, BitVec.toNat_ofNat]
  have hHigh : (s.setWide a 2 v).rdN (a + 2) = v / 65536 % 65536 := by
    rw [State.rdN, State.rd_setWide_two, if_pos rfl, BitVec.toNat_ofNat]
  simp only [State.wide, hLow, hHigh]
  omega

/-- A site whose oldest accepted record has been stored. -/
def Site.drained (y : Site) (rest : List (List Byte)) : Site := { y with queue := rest }

/-- The device address at which the drain stores the next record of site `n`, in partition `p`. -/
def State.drainAddr (s : State) (n : Nat) (p : StoreRec) : Nat :=
  p.device (s.wide (ASY_LOG_BASE n) 3 + 32 * (s.wide (ASY_LOG_WR n) 2 % max 1 (s.wide (ASY_LOG_CAP n) 2)))

theorem logDrain_stores {r : List Byte} {rest : List (List Byte)} {p : StoreRec} (hQueue : (s.site n).queue = r :: rest)
    (hStore : failStore s.casting n = some p) :
    logDrain n s =
      ((s.memWrite (s.drainAddr n p) r).putSite n ((s.site n).drained rest)).setWide (ASY_LOG_WR n) 2 (s.wide (ASY_LOG_WR n) 2 + 1) := by
  simp only [logDrain, hQueue, hStore]
  rfl

/-- The registers that the drain of a site's log writes. -/
def drainShown (n : Nat) : List Nat := siteShown n ++ [ASY_LOG_WR n, ASY_LOG_WR n + 2]

/-- What a step that stores the bytes `l` at `a` and then changes only the registers of the drain leaves. -/
theorem drainFrame (s : State) (n a wr : Nat) (l : List Byte) (y : Site) :
    Frame (drainShown n) (s.memWrite a l) (((s.memWrite a l).putSite n y).setWide (ASY_LOG_WR n) 2 wr) := by
  refine (Frame.refl.putSite fun _ ha => List.mem_append_left _ ha).setWide fun i hi => List.mem_append_right _ ?_
  have hTwo : i = 0 ∨ i = 1 := by omega
  rcases hTwo with rfl | rfl <;> simp

theorem State.site_setWide (s : State) (a k v m : Nat) : (s.setWide a k v).site m = s.site m := by
  obtain ⟨r, hr⟩ := State.setWide_eq s a v
  rw [hr]
  rfl

theorem logDrain_idle (h : (s.site n).queue = [] ∨ failStore s.casting n = none) : logDrain n s = s := by
  unfold logDrain
  dsimp only
  split
  · rename_i hQueue hStore
    rcases h with h | h
    · exact absurd (hQueue.symm.trans h) (List.cons_ne_nil _ _)
    · exact absurd (hStore.symm.trans h) (Option.some_ne_none _)
  · rfl

/-! FINALIZE and SESSION_CLEAR as commands. -/

section
variable (hn : n < 512)
include hn

theorem siteFinalize_served (h : s.siteServed n = true) : siteFinalize n s = (s.evt ASY_EVT 5).refuse (ASY_SITE_CTL n) 0x0F08 :=
  (if_neg (Nat.not_le.2 hn)).trans (if_pos h)

theorem siteFinalize_free (h : s.siteServed n = false) : siteFinalize n s = finalizeSite n s :=
  (if_neg (Nat.not_le.2 hn)).trans (if_neg (by simp [h]))

theorem siteClear_served (h : s.siteServed n = true) : siteClear n s = (s.evt ASY_EVT 5).refuse (ASY_SITE_CTL n) 0x0F09 :=
  (if_neg (Nat.not_le.2 hn)).trans (if_pos h)

/-- A site whose session has been cleared. -/
def Site.cleared (y : Site) : Site := { y with session := Session.empty, fifo := [] }

theorem siteClear_free (h : s.siteServed n = false) : siteClear n s = s.putSite n (s.site n).cleared :=
  (if_neg (Nat.not_le.2 hn)).trans (if_neg (by simp [h]))

end

theorem sessionCommand_refused {k : Nat} : ∃ t, Host.Outcome.next ((s.evt ASY_EVT 5).refuse (ASY_SITE_CTL n) k) =
      (.next t : Host.Outcome State Fault Refusal) ∧ t.bit ASY_EVT 5 = true ∧ t.site n = s.site n ∧ Frame [ASY_EVT] s t :=
  ⟨_, rfl, s.bit_evt_self ASY_EVT 5 (by decide), rfl, (Frame.refl.evt List.mem_cons_self).refuse⟩

end Sys2Proof.Machine

open Sys2Proof Sys2Proof.Machine

/-- Settles O25: the sessions by `finalizeSite_closes`, the drain by `logDrain_stores`, the search by `finalAnalysis_delivers` and the two cases
of a delivery, `deliver_room` and `deliver_full`. -/
theorem sessionsCloseAndReachMemory : Obligations.SessionsCloseAndReachMemory := by
  refine ⟨fun n s hn hReady => ⟨fun hServed => ?_, fun hFree => ?_⟩, fun n r rest p s hQueue hStore => ?_,
    fun n s hNone => congrArg Host.Outcome.next (logDrain_idle hNone), fun n x s _ hFin hRoom => ?_, fun n x s _ hFin hFull => ?_,
    fun n s hFin => congrArg Host.Outcome.next (finalAnalysis_idle hFin)⟩
  · have hFinalize : exec (.finalize n) s = .next ((s.evt ASY_EVT 5).refuse (ASY_SITE_CTL n) 0x0F08) :=
      congrArg Host.Outcome.next ((State.whenReady_ready hReady _).trans (siteFinalize_served hn hServed))
    have hClear : exec (.sessionClear n) s = .next ((s.evt ASY_EVT 5).refuse (ASY_SITE_CTL n) 0x0F09) :=
      congrArg Host.Outcome.next ((State.whenReady_ready hReady _).trans (siteClear_served hn hServed))
    simp only [List.forall_mem_cons, List.not_mem_nil, false_implies, implies_true, and_true, hFinalize, hClear]
    exact ⟨sessionCommand_refused, sessionCommand_refused⟩
  · have hFinalize : exec (.finalize n) s = .next (finalizeSite n s) :=
      congrArg Host.Outcome.next ((State.whenReady_ready hReady _).trans (siteFinalize_free hn hFree))
    have hClear : exec (.sessionClear n) s = .next (s.putSite n (s.site n).cleared) :=
      congrArg Host.Outcome.next ((State.whenReady_ready hReady _).trans (siteClear_free hn hFree))
    obtain ⟨hSession, hFifo⟩ := finalizeSite_empties n s
    refine ⟨⟨_, hFinalize, hSession, hFifo⟩, ⟨_, hClear, ?_, ?_, fun m hm => s.site_putSite_ne _ hm, Frame.refl.putSite fun _ ha => ha⟩,
      fun hIdle => ⟨_, hFinalize, hSession, hFifo, finalizeSite_result hIdle⟩⟩
    · rw [State.site_putSite_self]; rfl
    · rw [State.site_putSite_self]; rfl
  · have hFrame := drainFrame s n (s.drainAddr n p) (s.wide (ASY_LOG_WR n) 2 + 1) r ((s.site n).drained rest)
    refine ⟨_, congrArg Host.Outcome.next (logDrain_stores hQueue hStore), fun i hi => ?_,
      fun x hx => (hFrame.mem x).trans (s.memByte_memWrite_outside hx), ?_, State.wide_setWide_two _ _ _, hFrame.hostMem, hFrame.nv, hFrame.regs⟩
    · have hByte := (hFrame.mem _).trans (s.memByte_memWrite_inside (a := s.drainAddr n p) hi)
      exact (congrArg some hByte).trans (List.getElem?_eq_getElem hi).symm
    · rw [State.site_setWide, State.site_putSite_self]
      rfl
  · obtain ⟨slot, hSlot, y, seq, hDelivers, hItems, hMem⟩ := finalAnalysis_room hFin hRoom
    refine ⟨_, resultItem seq slot y, rfl, ?_, ?_, hItems, ?_⟩
    · rw [hDelivers]
      exact searched_ends s n y
    · rw [hDelivers]
      exact deliver_ready
    · rw [resultItem_slot _ _ hSlot]
      exact hMem
  · obtain ⟨it, hEnd⟩ := finalAnalysis_full hFin hFull
    exact ⟨_, it, rfl, hEnd⟩
end

section
/-!
PROOFS. What the leaving of sites keeps (R112, R135, R138, R173 to R191): the registers that show sites in their runs, and every event of the
assay engine, through parked pins, the run log, fail capture and contexts that free.
-/

namespace Sys2Proof.Machine

variable {s t u : State} {l : List Nat} {a c d h k m n : Nat} {x : Ctx}

/-! Registers. -/

/-- The registers that show sites in their runs. -/
def SiteReg (a : Nat) : Prop := 0x160000 ≤ a ∧ a < 0x168000 ∧ a % 64 < 16

/-- A register that is neither one of those nor ASY_EVT. -/
def Aside (a : Nat) : Prop := ¬ SiteReg a ∧ a ≠ ASY_EVT

theorem aside_below (hLo : ASY_EVT < a) (hHi : a < 0x160000) : Aside a := ⟨fun hSite => absurd hHi (Nat.not_lt.2 hSite.1), by omega⟩

theorem aside_above (h : 0x168000 ≤ a) : Aside a := ⟨fun hSite => absurd h (Nat.not_le.2 hSite.2.1), by unfold ASY_EVT; omega⟩

theorem aside_runStat (c : Nat) : Aside (RUN_STAT c) := by
  unfold RUN_STAT
  exact ⟨fun hSite => by have hLow := hSite.2.2; omega, by unfold ASY_EVT; omega⟩

/-- A register of check unit `k`. -/
theorem aside_chk (hk : k < 16) (o : Nat) (ho : o < 0x100) : Aside (0x10000 + o + 0x100 * k) :=
  aside_below (by unfold ASY_EVT; omega) (by omega)

/-- A register of the assay engine for site `n`. -/
theorem aside_asy (n o : Nat) : Aside (0x180000 + o + 0x100 * n) := aside_above (by omega)

theorem aside_siteShown : ∀ a ∈ siteShown n, Aside a := by
  intro a ha
  simp only [siteShown, ASY_SITE_STAT, ASY_FAILVEC, List.mem_cons, List.not_mem_nil, or_false] at ha
  exact aside_above (by omega)

/-- `t` shows what `s` shows in the registers `l`, all of them of sites, and every event of ASY_EVT that is raised in `s`. -/
structure SiteStays (l : List Nat) (s t : State) : Prop where
  ofSites : ∀ a ∈ l, SiteReg a
  regs : ∀ a ∈ l, t.rd a = s.rd a
  raised : ∀ b, s.bit ASY_EVT b = true → t.bit ASY_EVT b = true

theorem SiteStays.refl (hl : ∀ a ∈ l, SiteReg a) : SiteStays l s s := ⟨hl, fun _ _ => rfl, fun _ hb => hb⟩

theorem SiteStays.trans (g : SiteStays l s t) (f : SiteStays l t u) : SiteStays l s u :=
  ⟨g.ofSites, fun a ha => (f.regs a ha).trans (g.regs a ha), fun b hb => f.raised b (g.raised b hb)⟩

section
variable (g : SiteStays l s t)
include g

theorem SiteStays.not_mem (ha : ¬ SiteReg a) : a ∉ l := fun hMem => ha (g.ofSites a hMem)

/-- An update of other parts of the state than the registers. -/
theorem SiteStays.upd (hu : u.regs = t.regs) : SiteStays l s u :=
  g.trans ⟨g.ofSites, fun a _ => State.rd_congr hu a, fun b hb => by rw [State.bit, State.rd_congr hu]; exact hb⟩

theorem SiteStays.pushResult {st : Nat} {ws : List Nat} : SiteStays l s (t.pushResult a st ws) := g.upd rfl
theorem SiteStays.dropResult : SiteStays l s (t.dropResult a) := g.upd rfl
theorem SiteStays.setChk {y : ChkUnit} : SiteStays l s (t.setChk k y) := g.upd rfl
theorem SiteStays.setSite {y : Site} : SiteStays l s (t.setSite n y) := g.upd rfl
theorem SiteStays.setCtx : SiteStays l s (t.setCtx c x) := g.upd rfl

theorem SiteStays.wrOut {w : Word} (ha : a ∉ l) (hEvt : a ≠ ASY_EVT) : SiteStays l s (t.wr a w) :=
  g.trans ⟨g.ofSites, fun b hb => t.rd_wr_ne w fun hEq => ha (hEq ▸ hb), fun b hb => by rw [State.bit, t.rd_wr_ne w hEvt.symm]; exact hb⟩

theorem SiteStays.wr {w : Word} (ha : Aside a) : SiteStays l s (t.wr a w) := g.wrOut (g.not_mem ha.1) ha.2
theorem SiteStays.wrN {v : Nat} (ha : Aside a) : SiteStays l s (t.wrN a v) := g.wr ha
theorem SiteStays.setFld {hi lo v : Nat} (ha : Aside a) : SiteStays l s (t.setFld a hi lo v) := g.wr ha
theorem SiteStays.setBit {b : Nat} {v : Bool} (ha : Aside a) : SiteStays l s (t.setBit a b v) := g.wr ha
theorem SiteStays.incBy (ha : Aside a) : SiteStays l s (t.incBy a k) := (g.wr (w := BitVec.ofNat 16 (min 0xFFFF (t.rdN a + k))) ha).upd rfl
theorem SiteStays.inc (ha : Aside a) : SiteStays l s (t.inc a) := g.incBy ha

/-- An event of any block; those of ASY_EVT that are raised stay so. -/
theorem SiteStays.evt {b : Nat} (ha : ¬ SiteReg a) : SiteStays l s (t.evt a b) := by
  refine g.trans ⟨g.ofSites, fun r hr => ?_, fun e he => ?_⟩
  · rw [State.rd_evt, if_neg fun hEq : r = a => g.not_mem ha (hEq ▸ hr)]
  · by_cases hEq : a = ASY_EVT
    · subst hEq
      exact State.bit_evt_of_bit he
    · rw [State.bit, State.rd_evt, if_neg (Ne.symm hEq)]
      exact he

theorem SiteStays.setWide {v : Nat} (ha : ∀ i < k, Aside (a + 2 * i)) : SiteStays l s (t.setWide a k v) := by
  induction k generalizing t a v with
  | zero => exact g
  | succ k ih =>
    refine ih (g.wrN (ha 0 k.succ_pos)) fun i hi => ?_
    have hNext := ha (i + 1) (Nat.succ_lt_succ hi)
    rwa [show a + 2 * (i + 1) = a + 2 + 2 * i by omega] at hNext

theorem SiteStays.foldl {β : Type} {ks : List β} {f : State → β → State}
    (hf : ∀ u, ∀ k ∈ ks, SiteStays l s u → SiteStays l s (f u k)) :
    SiteStays l s (ks.foldl f t) := List.foldlRecOn (motive := SiteStays l s) ks f g fun u hu k hk => hf u k hk hu

theorem SiteStays.when {b : Bool} {f : State → State} (hf : SiteStays l s (f t)) : SiteStays l s (t.when b f) := ite_of hf g

/-! The run log and parked pins. -/

theorem SiteStays.logEntry {type flags time : Nat} {p : List Byte} : SiteStays l s (t.logEntry type flags time p) := by
  have hStored (a : Nat) (b : List Byte) (w : Nat) : SiteStays l s ((t.memWrite a b).setWide HST_LOG_WR 2 w) :=
    (g.upd (u := t.memWrite a b) rfl).setWide fun i hi => aside_below (by unfold HST_LOG_WR ASY_EVT; omega) (by unfold HST_LOG_WR; omega)
  exact State.logEntry_shape (Q := SiteStays l s) t _ _ _ _ hStored fun a b w =>
    ((hStored a b w).inc (aside_below (by decide) (by decide))).evt (by unfold SiteReg HST_EVT; omega)

theorem SiteStays.logSites {type time : Nat} {p : List Byte} {sites : List Nat} : SiteStays l s (t.logSites type time p sites) := g.logEntry.logEntry

theorem SiteStays.applyPark {ch park : Nat} : SiteStays l s (t.applyPark ch park) := by
  have hMoves : PinsMove [PMU_STAT ch, MON_STAT (monBase ch)] t (t.applyPark ch park) := (PinsMove.mk .refl rfl).applyPark (by simp) (by simp)
  have hAside : ∀ a ∈ [PMU_STAT ch, MON_STAT (monBase ch)], Aside a := by
    intro a ha
    simp only [List.mem_cons, List.not_mem_nil, or_false] at ha
    unfold PMU_STAT MON_STAT monBase monOfChannel monOfSlice at ha
    exact aside_above (by split at ha <;> omega)
  exact g.trans ⟨g.ofSites, fun a ha => hMoves.frame.regs a fun hMem => (hAside a hMem).1 (g.ofSites a ha), fun b hb => by
    rw [State.bit, hMoves.frame.regs _ fun hMem => (hAside _ hMem).2 rfl]
    exact hb⟩

theorem SiteStays.parkSite : SiteStays l s (parkSite t n) := g.foldl fun _ _ _ hu => ite_of hu hu.applyPark

theorem SiteStays.commonsFollow : SiteStays l s (commonsFollow h t) := ite_of (g.foldl fun _ _ _ hu => hu.applyPark) g

/-! Check units. -/

section
variable (hk : k < 16)
include hk

theorem SiteStays.chkShow : SiteStays l s (chkShow k t) :=
  have hStat : Aside (CHK_STAT k) := aside_chk hk 0x38 (by decide)
  (g.setFld hStat).setBit hStat

theorem SiteStays.chkEvt {b : Nat} : SiteStays l s (t.evt (CHK_EVT k) b) := g.evt (aside_chk hk 0x3A (by decide)).1

theorem SiteStays.chkAlive {value : Nat} {isMatch : Bool} : SiteStays l s (chkAlive k value isMatch t).2 := by
  have hRepeat : Aside (CHK_REPEAT_CNT k) := aside_chk hk 0x66 (by decide)
  have hSkip : Aside (CHK_SKIP_CNT k) := aside_chk hk 0x68 (by decide)
  have hSet : SiteStays l s (t.setChk k { t.chk k with alive := some value }) := g.upd rfl
  unfold Machine.chkAlive
  dsimp only
  split
  · exact g
  · split
    · exact g
    · split
      · exact hSet
      · split
        · exact (hSet.inc hRepeat).chkEvt hk
        · split
          · exact hSet
          · exact (hSet.inc hSkip).chkEvt hk

theorem SiteStays.chkFrameEnd {whole : Bool} : SiteStays l s (chkFrameEnd k whole t) := by
  have hFrames : Aside (CHK_FRAME_CNT k) := aside_chk hk 0x62 (by decide)
  have hFails : Aside (CHK_FAIL_CNT k) := aside_chk hk 0x64 (by decide)
  have hDrops : Aside (CHK_DROP_CNT k) := aside_chk hk 0x6A (by decide)
  have hBegun : SiteStays l s (if whole then t else t.free.2) := ite_of g (g.upd rfl)
  have hCounted {b : Bool} : SiteStays l s (State.when ((if whole then t else t.free.2).inc (CHK_FRAME_CNT k)) b
      fun t => (t.inc (CHK_FAIL_CNT k)).evt (CHK_EVT k) 1) := (hBegun.inc hFrames).when (((hBegun.inc hFrames).inc hFails).chkEvt hk)
  refine SiteStays.chkShow (SiteStays.setChk (ite_of ?_ ?_)) hk
  · exact (((hCounted.chkAlive hk).inc hDrops).chkEvt hk).dropResult
  · exact (hCounted.chkAlive hk).pushResult.chkEvt hk

end

theorem SiteStays.chkSiteLeaves : SiteStays l s (chkSiteLeaves n t) :=
  g.foldl fun _ _ hk hu => ite_of (hu.chkFrameEnd (List.mem_range.1 hk)) hu

/-! Sites and their records. -/

theorem SiteStays.asyEvt {b : Nat} : SiteStays l s (t.evt ASY_EVT b) := g.evt fun hSite => absurd hSite.1 (by decide)

theorem SiteStays.putSite {y : Site} : SiteStays l s (t.putSite n y) :=
  (g.setSite.wrN (aside_siteShown _ List.mem_cons_self)).setWide fun i hi => by
    unfold ASY_FAILVEC
    exact aside_above (by omega)

theorem SiteStays.flagSite : SiteStays l s (t.flagSite n k) := g.putSite

theorem SiteStays.recordGone : SiteStays l s (t.recordGone n k) := g.putSite

theorem SiteStays.record {r : FailRec} : SiteStays l s (t.record n r) := by
  have hSupp : Aside (ASY_SUPP_CNT n) := aside_asy n 0x34
  have hFull : Aside (ASY_FULL_CNT n) := aside_asy n 0x36
  have hLost : Aside (ASY_LOST_CNT n) := aside_asy n 0x32
  have hVec : SiteStays l s (t.setWide (ASY_LOST_VEC n) 3 r.vector) := g.setWide fun i hi => by
    unfold ASY_LOST_VEC
    exact aside_above (by omega)
  exact ite_of (g.inc hSupp).recordGone (ite_of (g.inc hFull).recordGone
    (ite_of (SiteStays.recordGone (SiteStays.asyEvt (SiteStays.inc (ite_of hVec g) hLost))) g.putSite))

theorem SiteStays.abortCheck : SiteStays l s (abortCheck n t) := ite_of g.setSite g

/-! Analysis and results. -/

theorem SiteStays.eventLost : SiteStays l s (eventLost n t) :=
  have hLost : Aside (ASY_ANA_LOST_CNT n) := aside_asy n 0x38
  (g.inc hLost).asyEvt.flagSite

theorem SiteStays.unrepairable : SiteStays l s (unrepairable n t) := g.putSite.abortCheck

theorem SiteStays.analyseEvent : SiteStays l s (analyseEvent n t) := by
  unfold Machine.analyseEvent
  dsimp only
  split
  · exact ite_of g.putSite (ite_of g.putSite.eventLost (ite_of g.putSite.putSite.unrepairable g.putSite.putSite))
  · exact g

theorem SiteStays.analyseAll : SiteStays l s (analyseAll n k t) := by
  induction k generalizing t with
  | zero => exact g
  | succ k ih => exact ite_of g (ih g.analyseEvent)

section
variable (hn : n < 512)
include hn

theorem SiteStays.deliver {y : Closing} : SiteStays l s (deliver n y t) := by
  have hReady : Aside (ASY_READY (n / 16)) := aside_below (by unfold ASY_READY ASY_EVT; omega) (by unfold ASY_READY; omega)
  have hStat : Aside (ASY_RES_STAT n) := aside_asy n 0xA
  unfold Machine.deliver
  extract_lets a q full kept used slot bin words s1 s2 s3
  have h2 : SiteStays l s s2 := g.upd rfl
  have h3 : SiteStays l s s3 := (h2.setBit hReady).asyEvt
  exact ite_of (h3.setBit hStat).asyEvt h3

theorem SiteStays.finalAnalysis : SiteStays l s (finalAnalysis n t) := by
  cases hFin : (t.site n).finalizing with
  | none => rwa [finalAnalysis_idle hFin]
  | some y =>
    obtain ⟨z, hDelivers⟩ := finalAnalysis_delivers hFin
    rw [hDelivers]
    exact g.putSite.deliver hn

theorem SiteStays.finalizeSite : SiteStays l s (finalizeSite n t) :=
  have hClosed := (g.finalAnalysis hn).analyseAll
  ite_of hClosed.putSite (hClosed.putSite.deliver hn)

theorem SiteStays.siteEnds {code time index tset vecs : Nat} {strag : Bool} : SiteStays l s (siteEnds n code time index tset vecs strag t) :=
  have hEnded := (g.chkSiteLeaves.when g.chkSiteLeaves.record).putSite
  ite_of (hEnded.finalizeSite hn) hEnded

end

/-! Contexts. -/

theorem SiteStays.runShow : SiteStays l s (t.runShow c) := g.wrN (aside_runStat c)

theorem SiteStays.putCtx : SiteStays l s (t.putCtx c x) := g.setCtx.runShow

/-- A straggler's context may free. -/
theorem SiteStays.freeIfDone (hc : c < 64) : SiteStays l s (freeIfDone c t) :=
  have hHome : Aside (RUN_HOME c) := aside_below (by unfold RUN_HOME ASY_EVT; omega) (by unfold RUN_HOME; omega)
  have hStat : Aside (SEQ_STAT c) := aside_below (by unfold SEQ_STAT ASY_EVT; omega) (by unfold SEQ_STAT; omega)
  ite_of ((g.setCtx.wrN hHome).setFld hStat).runShow.runShow g

end

end Sys2Proof.Machine
end

section
/-!
PROOFS. Sites leave their run (R112, R135, R187, R290): an early abort, a tripped group or a wait that is over.
-/

namespace Sys2Proof.Machine

variable {s t u : State} {l : List Nat} {a c d e h k m n code : Nat}

/-! What the leaving of a site asks of its caravan's context. -/

/-- A queue of results that is empty, or whose oldest vector waits for its results. -/
def IdleQueue (q : List Await) : Prop := (∃ v rest, q = .vec v none :: rest ∧ v.strobes ≠ []) ∨ q = []

/-- What the sites that leave read of their caravan's context. -/
def Ctx.hosting (x : Ctx) : Bool × List Await × List WaitGroup := (x.straggler, x.await, x.waits)

/-- A change of one context that keeps a part `f` of it keeps that part of every context. -/
theorem State.ctx_setCtx_part {β : Type} {f : Ctx → β} {x : Ctx} (hx : f x = f (s.ctx d)) : f ((s.setCtx d x).ctx e) = f (s.ctx e) := by
  by_cases he : e = d
  · rw [he, State.ctx_setCtx_self, hx]
  · rw [State.ctx_setCtx_ne _ _ he]

/-- Site `n` waits in no group of context `h`. -/
def State.unwaited (s : State) (h n : Nat) : Prop := ∀ w ∈ (s.ctx h).waits, n ∉ w.sites

/-! No context serves the site any more. -/

/-- A context that serves site `n` no more. -/
def Ctx.struck (x : Ctx) (n : Nat) : Ctx := { x with sites := x.sites.erase n, tails := x.tails.filter fun t => t.site ≠ n }

/-- Site `n` struck from the sites and tails of the contexts `l`. -/
def State.struck (s : State) (l : List Nat) (n : Nat) : State :=
  s.each l fun t d => t.setCtx d ((t.ctx d).struck n)

theorem State.struck_hosting (l : List Nat) (n : Nat) : ((s.struck l n).ctx e).hosting = (s.ctx e).hosting :=
  List.foldlRecOn (motive := fun t : State => (t.ctx e).hosting = (s.ctx e).hosting) _ _ rfl fun t hu d _ =>
    (State.ctx_setCtx_part (f := Ctx.hosting) (x := (t.ctx d).struck n) rfl).trans hu

theorem State.struck_mem (l : List Nat) (n : Nat) : (s.struck l n).mem = s.mem :=
  List.foldlRecOn (motive := fun t : State => t.mem = s.mem) _ _ rfl fun _ hu _ _ => hu

theorem State.struck_stays {r : List Nat} (g : SiteStays r s t) (l : List Nat) (n : Nat) : SiteStays r s (t.struck l n) :=
  g.foldl fun _ _ _ hu => hu.setCtx

/-- The context of caravan `h` once site `n` has left: it is struck from the groups that wait, and empty groups go. -/
def Ctx.parted (x : Ctx) (n : Nat) : Ctx :=
  { x with
    rejoins := x.rejoins.filter (fun r => r.site ≠ n)
    waits := (x.waits.map fun w => { w with sites := w.sites.erase n }).filter fun w => !w.sites.isEmpty }

/-- State `s` once site `n` has left every context of caravan `h`. -/
def State.gone (s : State) (h n : Nat) : State :=
  (s.struck (h :: s.stragglersOf h) n).putCtx h (((s.struck (h :: s.stragglersOf h) n).ctx h).parted n)

theorem siteGone_eq (h : Nat) (s : State) (n : Nat) :
    siteGone h s n = match ((s.struck (h :: s.stragglersOf h) n).ctx h).waits.find? fun w => w.sites.contains n with
      | some w => if w.sites.length ≤ 1 then waitEnds h w [n] (s.gone h n) else (s.gone h n).wrN (RUN_SITE_WAIT n) (min 0xFFFF w.stages)
      | none => s.gone h n := rfl

theorem siteGone_unwaited (hAlone : s.unwaited h n) : siteGone h s n = s.gone h n := by
  have hWaits : ((s.struck (h :: s.stragglersOf h) n).ctx h).waits = (s.ctx h).waits := congrArg (·.2.2) (s.struck_hosting (e := h) _ n)
  have hNone : (((s.struck (h :: s.stragglersOf h) n).ctx h).waits.find? fun w => w.sites.contains n) = none :=
    List.find?_eq_none.2 fun w hw => by simpa using hAlone w (hWaits ▸ hw)
  rw [siteGone_eq, hNone]

theorem SiteStays.gone (g : SiteStays l s t) : SiteStays l s (t.gone h n) := (State.struck_stays g _ n).putCtx

theorem SiteStays.waitEnds {w : WaitGroup} {sites : List Nat} (g : SiteStays l s t) (hOut : ∀ m ∈ sites, RUN_SITE_WAIT m ∉ l) :
    SiteStays l s (waitEnds h w sites t) := by
  unfold Machine.waitEnds
  exact (g.foldl fun _ m hm hu => hu.wrOut (hOut m hm) (by unfold RUN_SITE_WAIT ASY_EVT; omega)).logSites

/-- A site that waits shows the stages it waited as it leaves; one that does not shows nothing new. -/
theorem SiteStays.siteGone (g : SiteStays l s t) (hWait : RUN_SITE_WAIT n ∈ l → t.unwaited h n) : SiteStays l s (siteGone h t n) := by
  by_cases hIn : RUN_SITE_WAIT n ∈ l
  · rw [siteGone_unwaited (hWait hIn)]
    exact g.gone
  · have hEvt : RUN_SITE_WAIT n ≠ ASY_EVT := by unfold RUN_SITE_WAIT ASY_EVT; omega
    rw [siteGone_eq]
    split
    · exact ite_of (g.gone.waitEnds fun m hm => List.eq_of_mem_singleton hm ▸ hIn) (g.gone.wrOut hIn hEvt)
    · exact g.gone

/-- The caravan's context keeps its queue; the groups that wait in it have no new site. -/
theorem gone_hosting : ((s.gone h n).ctx h).straggler = (s.ctx h).straggler ∧ ((s.gone h n).ctx h).await = (s.ctx h).await ∧
    ∀ m, s.unwaited h m → (s.gone h n).unwaited h m := by
  have hPart : (((s.struck (h :: s.stragglersOf h) n).ctx h)).hosting = (s.ctx h).hosting := s.struck_hosting _ n
  simp only [Ctx.hosting, Prod.mk.injEq] at hPart
  obtain ⟨hStraggler, hAwait, hWaits⟩ := hPart
  unfold State.gone State.unwaited
  rw [State.ctx_putCtx_self]
  refine ⟨hStraggler, hAwait, fun m hm w hw hIn => ?_⟩
  obtain ⟨hw, -⟩ := List.mem_filter.1 hw
  obtain ⟨v, hv, rfl⟩ := List.mem_map.1 hw
  exact hm v (hWaits ▸ hv) (List.mem_of_mem_erase hIn)

/-! The queue of results takes the leaving in. -/

/-- The leaving of a site waits behind results that are outstanding; with none it is processed at once. -/
theorem drainAwait_leaving {q : List Await} {time index tset vecs : Nat} {strag : Bool} (hIdle : IdleQueue q)
    (hQueue : (s.ctx h).await = q ++ [.leave n code time index tset vecs strag]) :
    q ≠ [] ∧ drainAwait h s = s ∨
      q = [] ∧ drainAwait h s = siteEnds n code time index tset vecs strag (s.setCtx h { s.ctx h with await := [] }) := by
  rcases hIdle with ⟨v, rest, rfl, hStrobes⟩ | rfl
  · exact .inl ⟨List.cons_ne_nil _ _, drainAwait_waits hQueue hStrobes⟩
  · refine .inr ⟨rfl, ?_⟩
    have hOne : (s.ctx h).await = [.leave n code time index tset vecs strag] := hQueue
    unfold drainAwait
    rw [hOne, List.length_singleton]
    simp only [drainSteps, hOne]

theorem IdleQueue.append {q : List Await} (hIdle : IdleQueue q) (hSome : q ≠ []) (y : Await) : IdleQueue (q ++ [y]) := by
  rcases hIdle with ⟨v, rest, rfl, hStrobes⟩ | hNone
  · exact .inl ⟨v, rest ++ [y], rfl, hStrobes⟩
  · exact absurd hNone hSome

/-! A site leaves. -/

/-- State `s` with site `n` shown as one that has left with `code`. -/
def State.leftWith (s : State) (n code : Nat) : State := (s.setSiteStat n 5 (s.ctxOfSite n)).wrN (RUN_SITE_CODE n) code

/-- The same, with the event of the context and its log entry where the code is one of a wait. -/
def State.leftLogged (s : State) (c n code : Nat) : State :=
  if 0x0E10 ≤ code ∧ code ≤ 0x0E13 then
    ((s.leftWith n code).evt (RUN_EVT c) 7).log 0x0015 s.convoyTime (leBytes 1 c ++ leBytes 1 0 ++ leBytes 2 n ++ leBytes 2 code)
  else s.leftWith n code

/-- A site whose leaving has been taken in. -/
def Site.leaving (y x : Site) (code : Nat) : Site :=
  { y with abort := none, tripped := false, disableAt := x.disableAt || (code = 0x0F01 && x.abort.any (·.1)) }

/-- The site stands as one that has left, an early abort raises its event, and the pins hold park. -/
def State.sitePark (s : State) (h n code : Nat) (x : Site) : State :=
  let t := s.setSite n ((s.site n).leaving x code)
  commonsFollow h (parkSite (if code = 0x0F01 then t.evt ASY_EVT 1 else t) n)

/-- The leaving of site `n` as it stands in the queue of results. -/
def State.leaving (s : State) (c n code : Nat) : Await :=
  .leave n code s.convoyTime (s.site n).lastIndex (s.site n).lastTset (s.site n).vecs (s.ctx c).straggler

/-- State `s` with the leaving of site `n` in the queue of caravan `h` and its pins parked. -/
def State.leftParked (s : State) (c h n code : Nat) : State :=
  let t := siteGone h (s.leftLogged c n code) n
  (t.withAwait h ((t.ctx h).await ++ [s.leaving c n code])).sitePark h n code (s.site n)

theorem siteLeave_eq (c code : Nat) (s : State) (n : Nat) :
    siteLeave c code s n =
      freeIfDone (s.ctxOfSite n) (freeIfDone c (drainAwait (s.homeOf c) (s.leftParked c (s.homeOf c) n code))) := rfl

/-! What the steps of a leaving keep. -/

theorem leftLogged_calm (s : State) (c n code : Nat) : Calm False s (s.leftLogged c n code) :=
  have hLeft : Calm False s (s.leftWith n code) := Calm.refl.setSiteStat.wrN
  ite_of hLeft.evt.log hLeft

theorem SiteStays.leftLogged (g : SiteStays l s (t.leftWith n code)) (hc : c < 64) : SiteStays l s (t.leftLogged c n code) := by
  have hEvt : Aside (RUN_EVT c) := aside_below (by unfold RUN_EVT ASY_EVT; omega) (by unfold RUN_EVT; omega)
  exact ite_of (g.evt hEvt.1).logEntry g

theorem sitePark_calm {Q : Prop} (s : State) (h n code : Nat) (x : Site) : Calm Q s (s.sitePark h n code x) :=
  have hSet : Calm Q s (s.setSite n ((s.site n).leaving x code)) := Calm.refl.setSite
  (Calm.parkSite (ite_of hSet.evt hSet)).commonsFollow

theorem SiteStays.sitePark (g : SiteStays l s t) {x : Site} : SiteStays l s (t.sitePark h n code x) :=
  have hSet : SiteStays l s (t.setSite n ((t.site n).leaving x code)) := g.setSite
  (SiteStays.parkSite (ite_of hSet.asyEvt hSet)).commonsFollow

theorem siteGone_calm (h : Nat) (s : State) (n : Nat) : Calm False (s.gone h n) (siteGone h s n) := by
  rw [siteGone_eq]
  split
  · exact ite_of Calm.refl.waitEnds Calm.refl.wrN
  · exact Calm.refl

/-- A leaving stands at the end of the caravan's queue; the groups that wait have no new site. -/
theorem leftParked_hosting (s : State) (c h n code : Nat) : ((s.leftParked c h n code).ctx h).straggler = (s.ctx h).straggler ∧
    (∃ time index tset vecs strag, ((s.leftParked c h n code).ctx h).await = (s.ctx h).await ++ [.leave n code time index tset vecs strag]) ∧
    ∀ m, s.unwaited h m → (s.leftParked c h n code).unwaited h m := by
  obtain ⟨hStraggler, hAwait, hWaits⟩ := gone_hosting (s := s.leftLogged c n code) (h := h) (n := n)
  have hGone := (siteGone_calm h (s.leftLogged c n code) n).ctx h
  have hLogged := (leftLogged_calm s c n code).ctx h
  have hParked := (sitePark_calm (Q := False) ((siteGone h (s.leftLogged c n code) n).withAwait h
    (((siteGone h (s.leftLogged c n code) n).ctx h).await ++ [s.leaving c n code])) h n code (s.site n)).ctx h
  rw [State.ctx_withAwait_self, hGone] at hParked
  unfold State.unwaited at hWaits ⊢
  rw [hLogged] at hStraggler hAwait hWaits
  unfold State.leftParked
  dsimp only
  rw [hGone, hParked]
  exact ⟨hStraggler, ⟨_, _, _, _, _, congrArg (· ++ [s.leaving c n code]) hAwait⟩, hWaits⟩

theorem SiteStays.leftParked (g : SiteStays l s (t.leftWith n code)) (hc : c < 64) (hWait : RUN_SITE_WAIT n ∈ l → t.unwaited h n) :
    SiteStays l s (t.leftParked c h n code) := by
  have hLogged : SiteStays l s (Machine.siteGone h (t.leftLogged c n code) n) := (g.leftLogged hc).siteGone fun hIn w hw =>
    hWait hIn w (by rwa [(leftLogged_calm t c n code).ctx h] at hw)
  exact hLogged.setCtx.sitePark

/-- An early abort raises its event. -/
theorem leftParked_event : (s.leftParked c h n 0x0F01).bit ASY_EVT 1 = true := by
  unfold State.leftParked State.sitePark
  dsimp only
  rw [if_pos rfl]
  exact (SiteStays.refl (l := []) fun _ hMem => absurd hMem List.not_mem_nil).parkSite.commonsFollow.raised 1 (State.bit_evt_self _ _ _ (by decide))

theorem SiteStays.drainLeaving {q : List Await} {time index tset vecs : Nat} {strag : Bool} (g : SiteStays l s t) (hn : n < 512)
    (hIdle : IdleQueue q) (hQueue : (t.ctx h).await = q ++ [.leave n code time index tset vecs strag]) : SiteStays l s (drainAwait h t) := by
  obtain ⟨-, hDrain⟩ | ⟨-, hDrain⟩ := drainAwait_leaving hIdle hQueue <;> rw [hDrain]
  · exact g
  · exact g.setCtx.siteEnds hn

theorem State.ctxOfSite_lt (s : State) (n : Nat) : s.ctxOfSite n < 64 := Nat.mod_lt _ (by decide)

/-- The leaving of a site keeps what shows sites otherwise. -/
theorem SiteStays.siteLeave (g : SiteStays l s (t.leftWith n code)) (hn : n < 512) (hc : c < 64) (hIdle : IdleQueue (t.ctx (t.homeOf c)).await)
    (hWait : RUN_SITE_WAIT n ∈ l → t.unwaited (t.homeOf c) n) : SiteStays l s (siteLeave c code t n) := by
  obtain ⟨-, ⟨time, index, tset, vecs, strag, hQueue⟩, -⟩ := leftParked_hosting t c (t.homeOf c) n code
  rw [siteLeave_eq]
  exact (((g.leftParked hc hWait).drainLeaving hn hIdle hQueue).freeIfDone hc).freeIfDone (t.ctxOfSite_lt n)

/-! What a site that has left shows. -/

/-- Site `n` is shown as one that has left with `code`. -/
structure ShownLeft (n code : Nat) (s : State) : Prop where
  state : s.fld (RUN_SITE_STAT n) 2 0 = 5
  code : s.rdN (RUN_SITE_CODE n) = code

/-- The registers that show the run of site `n`. -/
def runShown (n : Nat) : List Nat := [RUN_SITE_STAT n, RUN_SITE_CODE n]

theorem siteReg_run (hn : n < 512) : SiteReg (RUN_SITE_STAT n) ∧ SiteReg (RUN_SITE_CODE n) ∧ SiteReg (RUN_SITE_WAIT n) := by
  unfold SiteReg RUN_SITE_STAT RUN_SITE_CODE RUN_SITE_WAIT
  omega

theorem ShownLeft.stays (g : SiteStays l s t) (hl : ∀ a ∈ runShown n, a ∈ l) (hLeft : ShownLeft n code s) : ShownLeft n code t := by
  have hStat : t.rd (RUN_SITE_STAT n) = s.rd (RUN_SITE_STAT n) := g.regs _ (hl _ (by simp [runShown]))
  have hCode : t.rd (RUN_SITE_CODE n) = s.rd (RUN_SITE_CODE n) := g.regs _ (hl _ (by simp [runShown]))
  obtain ⟨hState, hShown⟩ := hLeft
  exact ⟨by rw [State.fld, hStat]; exact hState, by rw [State.rdN, hCode]; exact hShown⟩

theorem leftWith_shows (hCode : code < 65536) : ShownLeft n code (s.leftWith n code) := by
  have hApart : RUN_SITE_STAT n ≠ RUN_SITE_CODE n := by unfold RUN_SITE_STAT RUN_SITE_CODE; omega
  constructor
  · rw [State.fld, State.leftWith, State.wrN, State.rd_wr_ne _ _ hApart, State.setSiteStat, State.wrN, State.rd_wr_self]
    simp only [bitsOf, BitVec.toNat_ofNat]
    omega
  · rw [State.rdN, State.leftWith, State.wrN, State.rd_wr_self, BitVec.toNat_ofNat, Nat.mod_eq_of_lt hCode]

/-- A site that leaves shows that it has left, and with which code. -/
theorem siteLeave_shows (hn : n < 512) (hc : c < 64) (hCode : code < 65536) (hIdle : IdleQueue (s.ctx (s.homeOf c)).await) :
    ShownLeft n code (siteLeave c code s n) := by
  obtain ⟨hStat, hShown, -⟩ := siteReg_run hn
  have hStays : SiteStays (runShown n) (s.leftWith n code) (s.leftWith n code) := .refl (by simp [runShown, hStat, hShown])
  have hNoWait : RUN_SITE_WAIT n ∉ runShown n := by
    simp only [runShown, RUN_SITE_STAT, RUN_SITE_CODE, RUN_SITE_WAIT, List.mem_cons, List.not_mem_nil, or_false]
    omega
  exact (leftWith_shows hCode).stays (hStays.siteLeave hn hc hIdle fun hIn => absurd hIn hNoWait) fun _ ha => ha

/-- A site that leaves by an early abort raises ASY_EVT.EARLY_ABORT. -/
theorem siteLeave_event (hn : n < 512) (hc : c < 64) (hIdle : IdleQueue (s.ctx (s.homeOf c)).await) :
    (siteLeave c 0x0F01 s n).bit ASY_EVT 1 = true := by
  obtain ⟨-, ⟨time, index, tset, vecs, strag, hQueue⟩, -⟩ := leftParked_hosting s c (s.homeOf c) n 0x0F01
  have hStays : SiteStays [] (s.leftParked c (s.homeOf c) n 0x0F01) (siteLeave c 0x0F01 s n) := by
    rw [siteLeave_eq]
    exact (((SiteStays.refl (fun _ hMem => absurd hMem List.not_mem_nil)).drainLeaving hn hIdle hQueue).freeIfDone hc).freeIfDone (s.ctxOfSite_lt n)
  exact hStays.raised 1 leftParked_event

/-! Device memory. -/

theorem State.runShow_mem (s : State) (c : Nat) : (s.runShow c).mem = s.mem := s.wr_mem ..

theorem State.gone_mem (s : State) (h n : Nat) : (s.gone h n).mem = s.mem := by
  rw [State.gone, State.putCtx, State.runShow_mem]
  exact s.struck_mem _ n

theorem freeIfDone_mem (c : Nat) (s : State) : (freeIfDone c s).mem = s.mem := by
  refine ite_of (Q := fun t : State => t.mem = s.mem) ?_ rfl
  simp only [freeCtx, State.runShow_mem, State.setFld, State.wrN, State.wr_mem]
  rfl

/-- With results outstanding, and no wait of the site, a leaving writes no device memory. -/
theorem siteLeave_mem (hCode : ¬(0x0E10 ≤ code ∧ code ≤ 0x0E13)) (hIdle : IdleQueue (s.ctx (s.homeOf c)).await)
    (hHeld : (s.ctx (s.homeOf c)).await ≠ []) (hAlone : s.unwaited (s.homeOf c) n) : (siteLeave c code s n).mem = s.mem := by
  obtain ⟨-, ⟨time, index, tset, vecs, strag, hQueue⟩, -⟩ := leftParked_hosting s c (s.homeOf c) n code
  have hDrain : drainAwait (s.homeOf c) (s.leftParked c (s.homeOf c) n code) = s.leftParked c (s.homeOf c) n code := by
    obtain ⟨-, hDrain⟩ | ⟨hNone, -⟩ := drainAwait_leaving hIdle hQueue
    · exact hDrain
    · exact absurd hNone hHeld
  have hLogged : s.leftLogged c n code = s.leftWith n code := if_neg hCode
  have hGone : siteGone (s.homeOf c) (s.leftWith n code) n = (s.leftWith n code).gone (s.homeOf c) n :=
    siteGone_unwaited hAlone
  rw [siteLeave_eq, freeIfDone_mem, freeIfDone_mem, hDrain]
  unfold State.leftParked
  rw [hLogged, hGone]
  refine ((sitePark_calm (Q := True) _ _ n code _).mem trivial).trans ?_
  rw [State.withAwait, State.setCtx_mem, State.gone_mem]
  simp only [State.leftWith, State.setSiteStat, State.wrN, State.wr_mem]

/-! Several sites of one wait leave. -/

/-- Caravan `h` can let the sites `G` go one after the other: its context is its own, its queue idle, and no group waits with one of them. -/
structure Hosts (h : Nat) (G : List Nat) (s : State) : Prop where
  own : (s.ctx h).straggler = false
  idle : IdleQueue (s.ctx h).await
  apart : ∀ n ∈ G, s.unwaited h n

variable {G : List Nat}

theorem Hosts.of_ctx (hHosts : Hosts h G s) (hCtx : t.ctx h = s.ctx h) : Hosts h G t :=
  ⟨by rw [hCtx]; exact hHosts.own, by rw [hCtx]; exact hHosts.idle, fun n hn w hw => hHosts.apart n hn w (by rwa [hCtx] at hw)⟩

theorem Hosts.home (hHosts : Hosts h G s) : s.homeOf h = h := if_neg (by simp [hHosts.own])

theorem freeCtx_ctx_ne (hd : h ≠ d) : (freeCtx d s).ctx h = s.ctx h := by
  unfold freeCtx
  extract_lets x free s1 s2
  have hShown : Calm False s1 ((s2.runShow d).runShow x.home) := Calm.refl.wrN.setFld.runShow.runShow
  exact (hShown.ctx h).trans (s.ctx_setCtx_ne _ hd)

/-- A caravan's own context does not free. -/
theorem freeIfDone_own (hOwn : (s.ctx h).straggler = false) : (freeIfDone d s).ctx h = s.ctx h := by
  by_cases hd : d = h
  · have hStays : freeIfDone d s = s := if_neg (by simp [hd, hOwn])
    rw [hStays]
  · exact ite_of (Q := fun t : State => t.ctx h = s.ctx h) (freeCtx_ctx_ne (Ne.symm hd)) rfl

/-- A caravan that lets one site go can let the next go. -/
theorem Hosts.siteLeave (hHosts : Hosts h G s) : Hosts h G (siteLeave h code s n) := by
  obtain ⟨hOwn, ⟨time, index, tset, vecs, strag, hQueue⟩, hWaits⟩ := leftParked_hosting s h h n code
  rw [hHosts.own] at hOwn
  have hDrained : Hosts h G (drainAwait h (s.leftParked h h n code)) := by
    obtain ⟨hSome, hDrain⟩ | ⟨-, hDrain⟩ := drainAwait_leaving hHosts.idle hQueue <;> rw [hDrain]
    · exact ⟨hOwn, hQueue ▸ hHosts.idle.append hSome _, fun m hm => hWaits m (hHosts.apart m hm)⟩
    · have hCtx := ((Calm.refl (s := (s.leftParked h h n code).withAwait h [])).siteEnds (n := n) (code := code) (time := time) (index := index)
        (tset := tset) (vecs := vecs) (strag := strag)).ctx h
      rw [State.ctx_withAwait_self] at hCtx
      exact Hosts.of_ctx (s := (s.leftParked h h n code).withAwait h []) ⟨by rw [State.ctx_withAwait_self]; exact hOwn,
        by rw [State.ctx_withAwait_self]; exact .inr rfl,
        fun m hm w hw => hWaits m (hHosts.apart m hm) w (by rwa [State.ctx_withAwait_self] at hw)⟩ (by rw [State.ctx_withAwait_self]; exact hCtx)
  rw [siteLeave_eq, hHosts.home]
  have hFirst := hDrained.of_ctx (freeIfDone_own (d := h) hDrained.own)
  exact hFirst.of_ctx (freeIfDone_own hFirst.own)

theorem SiteStays.leftWith (g : SiteStays l s t) (hStat : RUN_SITE_STAT m ∉ l) (hCode : RUN_SITE_CODE m ∉ l) :
    SiteStays l s (t.leftWith m code) :=
  (g.wrOut hStat (by unfold RUN_SITE_STAT ASY_EVT; omega)).wrOut hCode (by unfold RUN_SITE_CODE ASY_EVT; omega)

section
variable (hHosts : Hosts h G s) (hh : h < 64) (hm : m < 512) (hn : n < 512)
include hHosts hh hm hn

/-- What shows another site stays. -/
theorem siteLeave_other (hOther : m ≠ n) : SiteStays (runShown n) s (siteLeave h code s m) := by
  obtain ⟨hStat, hShown, -⟩ := siteReg_run hn
  have hStays : SiteStays (runShown n) s s := .refl (by simp [runShown, hStat, hShown])
  have hOut : RUN_SITE_STAT m ∉ runShown n ∧ RUN_SITE_CODE m ∉ runShown n ∧ RUN_SITE_WAIT m ∉ runShown n := by
    simp only [runShown, RUN_SITE_STAT, RUN_SITE_CODE, RUN_SITE_WAIT, List.mem_cons, List.not_mem_nil, or_false]
    omega
  obtain ⟨hOutStat, hOutCode, hOutWait⟩ := hOut
  exact (hStays.leftWith hOutStat hOutCode).siteLeave hm hh (by rw [hHosts.home]; exact hHosts.idle) fun hIn => absurd hIn hOutWait

/-- The time that a site waited stays when one that waits in no group leaves. -/
theorem siteLeave_wait (hIn : m ∈ G) : (siteLeave h code s m).rd (RUN_SITE_WAIT n) = s.rd (RUN_SITE_WAIT n) := by
  obtain ⟨-, -, hWait⟩ := siteReg_run hn
  have hStays : SiteStays [RUN_SITE_WAIT n] s s := .refl (by simp [hWait])
  have hOut : RUN_SITE_STAT m ∉ [RUN_SITE_WAIT n] ∧ RUN_SITE_CODE m ∉ [RUN_SITE_WAIT n] := by
    simp only [RUN_SITE_STAT, RUN_SITE_CODE, RUN_SITE_WAIT, List.mem_cons, List.not_mem_nil, or_false]
    omega
  obtain ⟨hOutStat, hOutCode⟩ := hOut
  have hLeaves := (hStays.leftWith (code := code) hOutStat hOutCode).siteLeave hm hh (by rw [hHosts.home]; exact hHosts.idle) fun _ => by
    rw [hHosts.home]
    exact hHosts.apart m hIn
  exact hLeaves.regs _ List.mem_cons_self

end

/-- Sites that leave one after the other are all shown as such, and keep the time that they waited. -/
theorem sitesLeave_show {L : List Nat} (hHosts : Hosts h G s) (hh : h < 64) (hCode : code < 65536)
    (hG : ∀ m ∈ G, m < 512) (hL : ∀ m ∈ L, m ∈ G) :
    ∀ n ∈ G, (n ∈ L ∨ ShownLeft n code s → ShownLeft n code (s.each L (siteLeave h code))) ∧
      (s.each L (siteLeave h code)).rd (RUN_SITE_WAIT n) = s.rd (RUN_SITE_WAIT n) := by
  induction L generalizing s with
  | nil => exact fun n _ => ⟨fun hLeft => hLeft.resolve_left List.not_mem_nil, rfl⟩
  | cons m L ih =>
    intro n hn
    obtain ⟨hmG, hLG⟩ := List.forall_mem_cons.1 hL
    obtain ⟨hShow, hWait⟩ := ih (s := siteLeave h code s m) hHosts.siteLeave hLG n hn
    rw [State.each, List.foldl_cons, ← State.each]
    refine ⟨fun hLeft => hShow ?_, hWait.trans (siteLeave_wait hHosts hh (hG m hmG) (hG n hn) hmG)⟩
    by_cases hOther : m = n
    · subst hOther
      exact .inr (siteLeave_shows (hG m hmG) hh hCode (by rw [hHosts.home]; exact hHosts.idle))
    · rcases hLeft with hMem | hLeft
      · exact .inl ((List.mem_cons.1 hMem).resolve_left (Ne.symm hOther))
      · exact .inr (hLeft.stays (siteLeave_other hHosts hh (hG m hmG) (hG n hn) hOther) fun _ ha => ha)

/-! The end of a wait. -/

theorem rd_waitEnds {w : WaitGroup} {sites : List Nat} (hn : n < 512) (hIn : n ∈ sites) :
    (waitEnds h w sites s).rdN (RUN_SITE_WAIT n) = min 65535 w.stages := by
  obtain ⟨-, -, hWait⟩ := siteReg_run hn
  have hLogged : SiteStays [RUN_SITE_WAIT n] (sites.foldl (fun t m => t.wrN (RUN_SITE_WAIT m) (min 0xFFFF w.stages)) s) (waitEnds h w sites s) := by
    unfold waitEnds
    exact (SiteStays.refl (by simp [hWait])).logSites
  have hWritten (l : List Nat) (t : State) : (n ∈ l ∨ t.rdN (RUN_SITE_WAIT n) = min 65535 w.stages) →
      (l.foldl (fun t m => t.wrN (RUN_SITE_WAIT m) (min 0xFFFF w.stages)) t).rdN (RUN_SITE_WAIT n) = min 65535 w.stages := by
    induction l generalizing t with
    | nil => exact fun hNone => hNone.resolve_left List.not_mem_nil
    | cons m l ih =>
      refine fun hSome => ih (t.wrN (RUN_SITE_WAIT m) (min 0xFFFF w.stages)) ?_
      by_cases hEq : n = m
      · subst hEq
        right
        rw [State.rdN, State.wrN, State.rd_wr_self, BitVec.toNat_ofNat]
        omega
      · refine hSome.imp (fun hMem => (List.mem_cons.1 hMem).resolve_left hEq) fun hHolds => ?_
        rwa [State.rdN, State.wrN, State.rd_wr_ne _ _ (by unfold RUN_SITE_WAIT; omega)]
  rw [State.rdN, hLogged.regs _ List.mem_cons_self]
  exact hWritten sites s (.inl hIn)

/-- Sites whose wait is over leave with the code and the stages that they waited. -/
theorem waitEnd_shows {w : WaitGroup} (hh : h < 64) (hCode : code < 65536) (hSites : ∀ n ∈ w.sites, n < 512) (hHosts : Hosts h w.sites s) :
    ∀ n ∈ w.sites, ShownLeft n code (waitEnd h code s w) ∧ (waitEnd h code s w).rdN (RUN_SITE_WAIT n) = min 65535 w.stages := by
  intro n hn
  have hEnds : Hosts h w.sites (waitEnds h w w.sites s) := hHosts.of_ctx (Calm.refl.waitEnds.ctx h)
  obtain ⟨hShow, hWait⟩ := sitesLeave_show hEnds hh hCode hSites (fun _ hm => hm) n hn
  exact ⟨hShow (.inl hn), (congrArg BitVec.toNat hWait).trans (rd_waitEnds (hSites n hn) hn)⟩

/-! The commands. -/

/-- At an ingot boundary that crosses now a site leaves once its leaving is due. -/
theorem leaveAtBoundary_leaves {v : Vec} {due : State → Bool} (hServed : s.siteServed n = true) (hNext : s.nextVec (s.boundaryCtx n) = some v)
    (hNeed : v.need = []) (hPos : v.pos % 64 = 0) (hCross : s.crossClock (s.boundaryCtx n) v ≤ s.time.up) (hDue : due s = true) :
    leaveAtBoundary n code due s = siteLeave (s.boundaryCtx n) code s n := by
  unfold leaveAtBoundary
  simp only [hNext, hServed, hNeed, hPos, List.isEmpty_nil, Bool.true_and, beq_self_eq_true, if_true]
  exact (State.atDue_now hCross).trans (if_pos hDue)

theorem waitTimeout_ends {w : WaitGroup} (hOver : (s.ctx h).waits.find? (s.waitOver h) = some w) :
    waitTimeout h s = waitEnd h 0x0E11 (s.putCtx h { s.ctx h with waits := (s.ctx h).waits.erase w }) w := by
  simp only [waitTimeout, hOver]

theorem waitTimeout_idle (hNone : (s.ctx h).waits.find? (s.waitOver h) = none) : waitTimeout h s = s := by
  simp only [waitTimeout, hNone]

end Sys2Proof.Machine

open Sys2Proof Sys2Proof.Machine

/-- Settles O21: a site that leaves is shown as such (`siteLeave_shows`, `siteLeave_event`), writes no device memory while results are
outstanding (`siteLeave_mem`), and so with every site of a wait that is over (`waitEnd_shows`). -/
theorem sitesLeaveTheirRun : Obligations.SitesLeaveTheirRun := by
  refine ⟨?_, ?_, fun h s hNone => congrArg Host.Outcome.next (waitTimeout_idle hNone)⟩
  · intro n v s c h held hn hc hh hServed hNext hNeed hPos hCross hQueue
    have hMem (code : Nat) (hCode : ¬(0x0E10 ≤ code ∧ code ≤ 0x0E13)) (hHeld : held)
        (hAlone : ∀ w ∈ (s.ctx h).waits, n ∉ w.sites) (a : Nat) : (siteLeave c code s n).memByte a = s.memByte a := by
      have hSome : (s.ctx h).await ≠ [] := by
        obtain ⟨u, rest, hAwait, -⟩ := hHeld
        simp [hAwait]
      exact congrArg (tabGet (fun _ => 0#8) · a) (siteLeave_mem hCode hQueue hSome hAlone)
    refine ⟨fun hAbort => ?_, fun hTripped => ?_⟩
    · obtain ⟨hState, hShown⟩ := siteLeave_shows (code := 0x0F01) hn hc (by decide) hQueue
      exact ⟨_, congrArg Host.Outcome.next (leaveAtBoundary_leaves hServed hNext hNeed hPos hCross hAbort), hState, hShown,
        siteLeave_event hn hc hQueue, hMem _ (by decide)⟩
    · obtain ⟨hState, hShown⟩ := siteLeave_shows (code := 0x1310) hn hc (by decide) hQueue
      exact ⟨_, congrArg Host.Outcome.next (leaveAtBoundary_leaves hServed hNext hNeed hPos hCross hTripped), hState, hShown, hMem _ (by decide)⟩
  · intro h w s hh hFind hSites hApart hOwn hQueue
    have hHosts : Hosts h w.sites (s.putCtx h { s.ctx h with waits := (s.ctx h).waits.erase w }) := by
      constructor
      case own => rw [State.ctx_putCtx_self]; exact hOwn
      case idle => rw [State.ctx_putCtx_self]; exact hQueue
      case apart =>
        unfold State.unwaited
        rw [State.ctx_putCtx_self]
        exact fun n hn g hg => hApart g hg n hn
    refine ⟨_, congrArg Host.Outcome.next (waitTimeout_ends hFind), fun n hn => ?_⟩
    obtain ⟨⟨hState, hShown⟩, hWait⟩ := waitEnd_shows (code := 0x0E11) hh (by decide) hSites hHosts n hn
    exact ⟨hState, hShown, hWait⟩
end

section
/-!
PROOFS. Waveform sequencers (R198, R202 to R206): the boundaries of advances and stops, and what a start, a stop and an advance leave. A use
of a unit may end its calibration (R308, R309), which shows in the unit's calibration block alone.
-/

namespace Sys2Proof.Machine

variable {s t : State} {l : List Nat} {a b c d o u v x : Nat}

/-! Registers. -/

theorem State.bit_of_rd (h : t.rd a = s.rd a) (i : Nat) : t.bit a i = s.bit a i := congrArg (BitVec.getLsbD · i) h

theorem State.fld_of_rd (h : t.rd a = s.rd a) (hi lo : Nat) : t.fld a hi lo = s.fld a hi lo := congrArg (bitsOf · hi lo) h

/-- A field of a register that takes the value `v`. -/
theorem State.fld_wrN_self (s : State) (a v hi lo : Nat) : (s.wrN a v).fld a hi lo = (v % 65536) >>> lo % 2 ^ (hi - lo + 1) := by
  rw [State.fld, State.wrN, State.rd_wr_self, bitsOf, BitVec.toNat_ofNat]

theorem State.rdN_inc_self (s : State) (a : Nat) : (s.inc a).rdN a = min 65535 (s.rdN a + 1) := by
  rw [State.rdN, State.rd_inc, if_pos rfl, BitVec.toNat_ofNat]
  omega

theorem State.rd_setWide_ne {n : Nat} (h : ∀ i < n, c ≠ a + 2 * i) : (s.setWide a n v).rd c = s.rd c := by
  have hFrame : Frame ((List.range n).map (a + 2 * ·)) s (s.setWide a n v) :=
    Frame.refl.setWide fun i hi => List.mem_map_of_mem (List.mem_range.2 hi)
  refine hFrame.regs c fun hMem => ?_
  obtain ⟨i, hi, hEq⟩ := List.mem_map.1 hMem
  exact h i (List.mem_range.1 hi) hEq.symm

theorem State.wfs_setWide {n : Nat} : (s.setWide a n v).wfs u = s.wfs u := by
  obtain ⟨r, hr⟩ := State.setWide_eq s a v
  rw [hr]
  rfl

/-! The end of a unit's calibration. -/

/-- The registers in which the end of the calibration of unit `x` shows. -/
def calEndShown (x : Nat) : List Nat :=
  [CAL_STAT (calBlock x), CAL_CODE (calBlock x), CAL_EVT (calBlock x), CAL_PROG_DONE, CALC_EVT]

theorem State.calEnd_frame {code : Nat} : Frame (calEndShown x) s (s.calEnd x o code) := by
  refine .ite .refl ?_
  extract_lets b jobs cal s1 s2 s3 s4
  have h1 : Frame (calEndShown x) s s1 := Frame.refl.upd rfl rfl rfl rfl rfl rfl rfl
  have h2 : Frame (calEndShown x) s s2 :=
    ((h1.setFld (by simp [calEndShown, b])).setBit (by simp [calEndShown, b])).wrN (by simp [calEndShown, b])
  have h3 : Frame (calEndShown x) s s3 := h2.wrN (by simp [calEndShown])
  have h4 : Frame (calEndShown x) s s4 :=
    .ite ((h3.evt (by simp [calEndShown, b])).evt (by simp [calEndShown])) (.ite (h3.evt (by simp [calEndShown, b])) h3)
  exact .ite (h4.evt (by simp [calEndShown])) h4

/-- The records of waveform sequencers and AWG outputs in `t` are those in `s`. -/
structure WaveStays (s t : State) : Prop where
  wfss : t.wfss = s.wfss
  awgs : t.awgs = s.awgs

theorem WaveStays.wfs (h : WaveStays s t) (u : Nat) : t.wfs u = s.wfs u := congrArg (tabGet (fun _ => Wfs.init) · u) h.wfss

theorem WaveStays.awg (h : WaveStays s t) (u : Nat) : t.awg u = s.awg u := congrArg (tabGet (fun _ => Awg.init) · u) h.awgs

theorem WaveStays.evt (h : WaveStays s t) {i : Nat} : WaveStays s (t.evt a i) := ⟨h.wfss, h.awgs⟩

theorem State.calEnd_wave {code : Nat} : WaveStays s (s.calEnd x o code) := by
  refine ite_of (Q := WaveStays s) ⟨rfl, rfl⟩ ?_
  extract_lets b jobs cal s1 s2 s3 s4
  have h3 : WaveStays s s3 := ⟨rfl, rfl⟩
  have h4 : WaveStays s s4 := ite_of (Q := WaveStays s) h3.evt.evt (ite_of (Q := WaveStays s) h3.evt h3)
  exact ite_of (Q := WaveStays s) h4.evt h4

/-- A use of a unit leaves it alone, or ends its calibration. -/
theorem State.calPreempt_cases (s : State) (x : Nat) : s.calPreempt x = s ∨ s.calPreempt x = s.calEnd x 4 0x1414 := by
  unfold State.calPreempt
  split
  · split
    · exact .inl rfl
    · exact .inr rfl
  · exact .inl rfl

theorem State.calPreempt_idle (h : s.calJob x = none) : s.calPreempt x = s := by
  unfold State.calPreempt
  rw [h]

theorem State.calPreempt_frame : Frame (calEndShown x) s (s.calPreempt x) := by
  rcases s.calPreempt_cases x with h | h <;> rw [h]
  · exact .refl
  · exact State.calEnd_frame

theorem State.calPreempt_wave : WaveStays s (s.calPreempt x) := by
  rcases s.calPreempt_cases x with h | h <;> rw [h]
  · exact ⟨rfl, rfl⟩
  · exact State.calEnd_wave

theorem calBlock_unitOfAwg (u : Nat) : calBlock (unitOfAwg u) = 0x2400E0 + 0x100 * u := by
  unfold calBlock unitOfAwg calOfAwg
  rw [if_neg (by omega), if_neg (by omega), if_neg (by omega), Nat.add_sub_cancel_left]

theorem wfsStat_calEndShown (hu : u < 20) : WFS_STAT u ∉ calEndShown (unitOfAwg v) := by
  simp only [calEndShown, calBlock_unitOfAwg, WFS_STAT, CAL_STAT, CAL_CODE, CAL_EVT, CAL_PROG_DONE, CALC_EVT, List.mem_cons,
    List.not_mem_nil, or_false]
  omega

/-! Boundaries (R204, R206). -/

/-- The boundary lies no earlier than asked for, a whole number of steps after the origin. -/
theorem nextPoint_spec (hStep : 0 < c) : d ≤ nextPoint a c d ∧ c ∣ nextPoint a c d - a := by
  unfold nextPoint
  split
  case isTrue hBefore => exact ⟨hBefore, by simp⟩
  case isFalse hAfter =>
    have hDiv := Nat.div_add_mod (d - a + c - 1) c
    have hMod := Nat.mod_lt (d - a + c - 1) hStep
    rw [Nat.mul_comm] at hDiv
    exact ⟨by omega, by rw [Nat.add_sub_cancel_left]; exact Nat.dvd_mul_left ..⟩

/-! Starting (R202). -/

/-- Sequencer `u` as a start leaves it: its first sample leaves 64 clocks on, and nothing is decided. -/
def State.wfsStarted (s : State) (u : Nat) : Wfs :=
  { s.wfs u with
    hold := s.fld (WFS_CFG u) 11 0 + 1, at_ := s.time.up + 64, next := none, stopAt := none, acc := 0, accAt := s.time.up + 64 }

theorem wfsStartCode_running (h : s.wfsState u = 1) : s.wfsStartCode u = some 0x1003 := if_pos h

/-- A spare that serves ignores a start of its own: the model's choice (R316, log entry 30). -/
theorem wfsStart_serving (h : s.awgServes u = true) : wfsStart u s = s := if_pos (by simp [h])

theorem wfsStart_refused {code : Nat} (hu : u < 20) (hServes : s.awgServes u = false) (hCode : s.wfsStartCode u = some code) :
    wfsStart u s = ((s.wrN (WFS_CODE u) code).evt (WFS_EVT u) 0).refuse (WFS_CTL u) code := by
  simp [wfsStart, hServes, hCode, Nat.not_le.2 hu]

theorem wfsStart_accepted (hu : u < 20) (hServes : s.awgServes u = false) (hCode : s.wfsStartCode u = none) :
    wfsStart u s =
      ((s.setWfs u (s.wfsStarted u)).wrN (WFS_STAT u) (0x4000 + s.fld (WFS_START_ENT u) 7 0)).calPreempt (unitOfAwg (s.awgPhys u)) := by
  simp [wfsStart, hServes, hCode, Nat.not_le.2 hu, State.wfsStarted]

/-- An accepted start shows RUNNING at the first entry. -/
theorem wfsStart_shows (hu : u < 20) (hServes : s.awgServes u = false) (hCode : s.wfsStartCode u = none) :
    (wfsStart u s).wfsState u = 1 ∧ (wfsStart u s).fld (WFS_STAT u) 7 0 = s.fld (WFS_START_ENT u) 7 0 := by
  have hFirst : s.fld (WFS_START_ENT u) 7 0 < 2 ^ 8 := Nat.mod_lt _ (by decide)
  rw [wfsStart_accepted hu hServes hCode]
  have hShown (hi lo : Nat) := (State.fld_of_rd (State.calPreempt_frame.regs _ (wfsStat_calEndShown (v := s.awgPhys u) hu)) hi lo).trans
    (State.fld_wrN_self (s.setWfs u (s.wfsStarted u)) (WFS_STAT u) (0x4000 + s.fld (WFS_START_ENT u) 7 0) hi lo)
  rw [State.wfsState, hShown, hShown, Nat.shiftRight_eq_div_pow, Nat.shiftRight_eq_div_pow]
  omega

theorem wfsStart_wfs (hu : u < 20) (hServes : s.awgServes u = false) (hCode : s.wfsStartCode u = none) :
    (wfsStart u s).wfs u = s.wfsStarted u ∧ ∀ v, v ≠ u → (wfsStart u s).wfs v = s.wfs v := by
  rw [wfsStart_accepted hu hServes hCode]
  exact ⟨(State.calPreempt_wave.wfs _).trans (State.wfs_setWfs_self ..),
    fun v hv => (State.calPreempt_wave.wfs _).trans (State.wfs_setWfs_ne _ _ hv)⟩

/-! Stopping (R206). -/

theorem wfsStop_idle (h : s.wfsState u ≠ 1) : wfsStop u s = s := ite_of (Q := (· = s)) rfl (if_pos h)

/-- The stop of a sequencer that runs with none decided decides its boundary alone. -/
theorem wfsStop_decides (hu : u < 20) (hRuns : s.wfsState u = 1) (hStop : (s.wfs u).stopAt = none) :
    wfsStop u s =
      s.setWfs u { s.wfs u with stopAt := some (nextPoint (s.wfs u).at_ (s.granuleClocks u) (s.time.up + 64), 0x1011) } := by
  simp [wfsStop, wfsStopAt, Nat.not_le.2 hu, hRuns, hStop]

/-! Ends and advances of entries (R198, R205, R206). -/

/-- Sequencer `u` has ended with `code`, and nothing else has changed. -/
structure WfsEnded (u code : Nat) (s t : State) : Prop where
  state : t.wfsState u = 2
  code : t.rdN (WFS_CODE u) = code
  event : t.bit (WFS_EVT u) 1 = true
  frame : Frame [WFS_STAT u, WFS_EVT u, WFS_CODE u] s t

/-- Sequencer `u` goes on at clock `b` with the entry that NEXT of its entry names. -/
structure WfsAdvanced (u b : Nat) (s t : State) : Prop where
  entry : t.fld (WFS_STAT u) 7 0 = (s.wfsEntry u).next
  event : t.bit (WFS_EVT u) 2 = true
  since : (t.wfs u).at_ = b
  undecided : (t.wfs u).next = none
  state : t.wfsState u = s.wfsState u
  frame : Frame [WFS_STAT u, WFS_EVT u, WFS_ADV_T u, WFS_ADV_T u + 2, WFS_ADV_T u + 4, WFS_ADV_T u + 6] s t

theorem wfsEnd_ends {code : Nat} (hCode : code < 65536) (h : Frame [WFS_STAT u, WFS_EVT u, WFS_CODE u] s t) :
    WfsEnded u code s (wfsEnd u code t) := by
  constructor
  case state =>
    rw [wfsEnd, State.wfsState, State.fld, State.rd_evt, if_neg (by simp [WFS_STAT, WFS_EVT]), State.wrN,
      State.rd_wr_ne _ _ (by simp [WFS_STAT, WFS_CODE])]
    exact State.fld_setFld _ _ _ _ _ (by decide) (by decide)
  case code =>
    rw [wfsEnd, State.rdN, State.rd_evt, if_neg (by simp [WFS_CODE, WFS_EVT]), State.wrN, State.rd_wr_self, BitVec.toNat_ofNat,
      Nat.mod_eq_of_lt hCode]
  case event => exact State.bit_evt_self _ _ _ (by decide)
  case frame => exact ((h.setWfs.setFld (by simp)).wrN (by simp)).evt (by simp)

/-- The advance of an END entry ends the sequence. -/
theorem wfsAdvanceAt_end (hEnd : (s.wfsEntry u).isEnd = true) : wfsAdvanceAt u b s = wfsEnd u 0x1010 (s.evt (WFS_EVT u) 2) := if_pos hEnd

theorem wfsAdvanceAt_next (hEnd : (s.wfsEntry u).isEnd = false) :
    wfsAdvanceAt u b s = (((s.evt (WFS_EVT u) 2).setWfs u { s.wfs u with at_ := b, next := none }).setFld (WFS_STAT u) 7 0
      (s.wfsEntry u).next).setWide (WFS_ADV_T u) 4 (s.timeOf b) := if_neg (by simp [hEnd])

theorem wfsAdvanceAt_ends (hEnd : (s.wfsEntry u).isEnd = true) : WfsEnded u 0x1010 s (wfsAdvanceAt u b s) := by
  rw [wfsAdvanceAt_end hEnd]
  exact wfsEnd_ends (by decide) (Frame.refl.evt (by simp))

/-- The advance of any other entry goes on with the entry that it names. -/
theorem wfsAdvanceAt_advances (hEnd : (s.wfsEntry u).isEnd = false) : WfsAdvanced u b s (wfsAdvanceAt u b s) := by
  rw [wfsAdvanceAt_next hEnd]
  have hApart : ∀ i < 4, WFS_STAT u ≠ WFS_ADV_T u + 2 * i ∧ WFS_EVT u ≠ WFS_ADV_T u + 2 * i := by
    unfold WFS_STAT WFS_EVT WFS_ADV_T
    omega
  have hStat (r : State) (w : Nat) : (r.setWide (WFS_ADV_T u) 4 w).rd (WFS_STAT u) = r.rd (WFS_STAT u) :=
    State.rd_setWide_ne fun i hi => (hApart i hi).1
  constructor
  case entry =>
    rw [State.fld_of_rd (hStat _ _), State.fld_setFld _ _ _ _ _ (by decide) (by decide)]
    exact Nat.mod_mod ..
  case event =>
    rw [State.bit_of_rd (State.rd_setWide_ne fun i hi => (hApart i hi).2), State.bit, State.rd_setFld,
      if_neg (by simp [WFS_STAT, WFS_EVT])]
    exact State.bit_evt_self _ _ _ (by decide)
  case since => rw [State.wfs_setWide, State.setFld, State.wfs_wr, State.wfs_setWfs_self]
  case undecided => rw [State.wfs_setWide, State.setFld, State.wfs_wr, State.wfs_setWfs_self]
  case state =>
    rw [State.wfsState, State.fld_of_rd (hStat _ _), State.fld_setFld_apart _ _ (by decide) (by decide) (by decide) (by decide),
      State.fld, State.rd_setWfs, State.rd_evt, if_neg (by simp [WFS_STAT, WFS_EVT])]
    rfl
  case frame =>
    refine (((Frame.refl.evt (by simp)).setWfs.setFld (by simp)).setWide fun i hi => ?_)
    interval_cases i <;> simp

/-- Where nothing is decided nothing takes place. -/
theorem wfsSettle_undecided (hNext : (s.wfs u).next = none) (hStop : (s.wfs u).stopAt = none) : wfsSettle u s = s := by
  simp [wfsSettle, hNext, hStop]

/-- A decided advance whose clock has come takes place where no stop is decided. -/
theorem wfsSettle_decided (hRuns : s.wfsState u = 1) (hNext : (s.wfs u).next = some (b, d)) (hDue : b ≤ s.time.up)
    (hStop : (s.wfs u).stopAt = none) : wfsSettle u s = wfsAdvanceAt u b s := by
  have hNone : ((wfsAdvanceAt u b s).wfs u).stopAt = none := by
    cases hEnd : (s.wfsEntry u).isEnd
    · rw [wfsAdvanceAt_next hEnd, State.wfs_setWide, State.setFld, State.wfs_wr, State.wfs_setWfs_self, hStop]
    · rw [wfsAdvanceAt_end hEnd, wfsEnd, State.wfs_evt, State.wrN, State.wfs_wr, State.setFld, State.wfs_wr, State.wfs_setWfs_self]
  simp [wfsSettle, hRuns, hNext, hDue, hStop, hNone]

/-! The host's advance (R204, R205). -/

/-- An event that no entry hears is counted and raised, and nothing else changes. -/
structure WfsIgnored (u : Nat) (s t : State) : Prop where
  count : t.rdN (WFS_IGN_CNT u) = min 65535 (s.rdN (WFS_IGN_CNT u) + 1)
  event : t.bit (WFS_EVT u) 4 = true
  records : ∀ v, t.wfs v = s.wfs v
  frame : Frame [WFS_IGN_CNT u, WFS_EVT u] s t

theorem wfsIgnore_ignores : WfsIgnored u s (wfsIgnore u s) where
  count := by
    rw [wfsIgnore, State.rdN, State.rd_evt, if_neg (by simp [WFS_IGN_CNT, WFS_EVT])]
    exact State.rdN_inc_self ..
  event := State.bit_evt_self _ _ _ (by decide)
  records _ := rfl
  frame := (Frame.refl.inc (by simp)).evt (by simp)

/-- The advance of sequencer `u` at clock `b` is decided in this clock, at a boundary 64 clocks or more on between repetitions. -/
structure AdvanceDecided (u b : Nat) (s t : State) : Prop where
  decided : (t.wfs u).next = some (b, s.time.up)
  lead : s.time.up + 64 ≤ b
  boundary : s.repClocks u ∣ b - (s.wfs u).at_
  others : ∀ v, v ≠ u → t.wfs v = s.wfs v
  frame : Frame [WFS_DEF_CNT u, WFS_EVT u] s t

/-- An entry that does not advance in mid-repetition and hears its event decides its advance, and counts the deferral where it comes too
late for the repetition under way. -/
theorem wfsHear_decides (hNext : (s.wfs u).next = none) (hMode : (s.wfsEntry u).adv ≠ 2) (hRep : 0 < s.repClocks u) :
    AdvanceDecided u (nextPoint (s.wfs u).at_ (s.repClocks u) (s.time.up + 64)) s (wfsHear u s) := by
  obtain ⟨hLead, hBoundary⟩ := nextPoint_spec (a := (s.wfs u).at_) (d := s.time.up + 64) hRep
  generalize hb : nextPoint (s.wfs u).at_ (s.repClocks u) (s.time.up + 64) = b at hLead hBoundary ⊢
  have hDecided : AdvanceDecided u b s (s.setWfs u { s.wfs u with next := some (b, s.time.up) }) :=
    ⟨by rw [State.wfs_setWfs_self], hLead, hBoundary, fun v hv => State.wfs_setWfs_ne _ _ hv, Frame.refl.setWfs⟩
  have hCounted : AdvanceDecided u b s (((s.setWfs u { s.wfs u with next := some (b, s.time.up) }).inc (WFS_DEF_CNT u)).evt (WFS_EVT u) 3) :=
    { hDecided with frame := (hDecided.frame.inc (by simp)).evt (by simp) }
  simp only [wfsHear, hNext, hMode, if_false, hb]
  exact ite_of hDecided hCounted

theorem wfsAdvance_unheard (hu : u < 20) (hNext : (s.wfs u).next = none) (hStop : (s.wfs u).stopAt = none)
    (hHears : s.wfsListens u [3] = false) : wfsAdvance u s = wfsIgnore u s := by
  simp [wfsAdvance, Nat.not_le.2 hu, wfsSettle_undecided hNext hStop, hHears]

theorem wfsAdvance_heard (hu : u < 20) (hNext : (s.wfs u).next = none) (hStop : (s.wfs u).stopAt = none)
    (hHears : s.wfsListens u [3] = true) : wfsAdvance u s = wfsHear u s := by
  simp [wfsAdvance, Nat.not_le.2 hu, wfsSettle_undecided hNext hStop, hHears]

/-- An entry that listens for the host is in mode 3. -/
theorem wfsListens_host (h : s.wfsListens u [3] = true) : (s.wfsEntry u).adv = 3 := by
  simp only [State.wfsListens, Bool.and_eq_true, List.contains_iff_mem, List.mem_singleton] at h
  exact h.2

/-! The rows (R198, R204). -/

theorem entryAdvance_decided (hu : u < 20) (hRuns : s.wfsState u = 1) (hNext : (s.wfs u).next = some (b, d)) (hDue : b ≤ s.time.up) :
    execEntryAdvance u s = .next (wfsSettle u s) := by
  simp [execEntryAdvance, Nat.not_le.2 hu, hRuns, hNext, State.atDue_now hDue]

theorem entryAdvance_undecided (hNext : (s.wfs u).next = none) : execEntryAdvance u s = .next s := by
  simp [execEntryAdvance, hNext]

/-- An AUTO entry that has played its repetitions advances. -/
theorem autoAdvance_played (hu : u < 20) (hRuns : s.wfsState u = 1) (hStop : (s.wfs u).stopAt = none) (hAuto : (s.wfsEntry u).adv = 0)
    (hTimes : (s.wfsEntry u).forever = false) (hDue : (s.wfs u).at_ + ((s.wfsEntry u).plays + 1) * s.repClocks u ≤ s.time.up) :
    execAutoAdvance u s = .next (wfsAdvanceAt u ((s.wfs u).at_ + ((s.wfsEntry u).plays + 1) * s.repClocks u) s) := by
  simp [execAutoAdvance, Nat.not_le.2 hu, hRuns, hStop, hAuto, hTimes, State.atDue_now hDue]

theorem autoAdvance_waits (hStop : (s.wfs u).stopAt = none) (hMode : (s.wfsEntry u).adv ≠ 0) : execAutoAdvance u s = .next s := by
  simp [execAutoAdvance, hStop, hMode]

end Sys2Proof.Machine

open Sys2Proof Sys2Proof.Machine

/-- Settles O26: a start by `wfsStart_refused`, `wfsStart_shows` and `wfsStart_wfs`, a stop and the host's advance by the boundary that they
decide (`nextPoint_spec`, `wfsHear_decides`), and the two rows of an advance by the one operation that both perform, which advances
(`wfsAdvanceAt_advances`) or ends (`wfsAdvanceAt_ends`). -/
theorem waveformSequencersRunAndAdvance : Obligations.WaveformSequencersRunAndAdvance := by
  refine ⟨?_, ?_⟩
  · intro u s hu hReady
    have hExec {f : State → State} {t : State} (h : f s = t) : Host.Outcome.next (s.whenReady f) = .next (φ := Fault) (ρ := Refusal) t :=
      congrArg _ ((State.whenReady_ready hReady f).trans h)
    refine ⟨wfsStartCode_running, fun hServes => hExec (wfsStart_serving hServes), ?_, ?_, fun hIdle => hExec (wfsStop_idle hIdle), ?_, ?_⟩
    · intro code hServes hCode
      refine ⟨_, hExec (wfsStart_refused hu hServes hCode), ?_, State.bit_evt_self _ _ _ (by decide), fun _ => rfl,
        ((Frame.refl.wrN (by simp)).evt (by simp)).refuse⟩
      rw [State.rd_refuse, State.rd_evt, if_neg (by simp [WFS_CODE, WFS_EVT]), State.wrN, State.rd_wr_self]
    · intro hServes hCode
      obtain ⟨hState, hEntry⟩ := wfsStart_shows hu hServes hCode
      obtain ⟨hOwn, hOthers⟩ := wfsStart_wfs hu hServes hCode
      exact ⟨_, hExec rfl, hState, hEntry, by rw [hOwn]; rfl, by rw [hOwn]; rfl, by rw [hOwn]; rfl, hOthers⟩
    · intro hRuns hStop hHold
      obtain ⟨hLead, hBoundary⟩ := nextPoint_spec (a := (s.wfs u).at_) (d := s.time.up + 64)
        (show 0 < s.granuleClocks u from Nat.mul_pos (by decide) hHold)
      exact ⟨_, _, hExec (wfsStop_decides hu hRuns hStop), by rw [State.wfs_setWfs_self], hLead, hBoundary,
        fun v hv => State.wfs_setWfs_ne _ _ hv, Frame.refl.setWfs⟩
    · intro hNext hStop
      refine ⟨fun hHears => ?_, fun hHears hRep => ?_⟩
      · obtain ⟨hCount, hEvent, hRecords, hFrame⟩ := wfsIgnore_ignores (s := s) (u := u)
        exact ⟨_, hExec (wfsAdvance_unheard hu hNext hStop hHears), hCount, hEvent, hRecords, hFrame⟩
      · obtain ⟨hDecided, hLead, hBoundary, hOthers, hFrame⟩ := wfsHear_decides hNext (by simp [wfsListens_host hHears]) hRep
        exact ⟨_, _, hExec (wfsAdvance_heard hu hNext hStop hHears), hDecided, hLead, hBoundary, hOthers, hFrame⟩
  · intro u s hu hRuns hStop
    refine ⟨fun b d hNext hDue => ?_, fun hNext => ?_, fun hAuto hTimes hDue => ?_, fun hMode => ?_⟩
    · have hExec : exec (.entryAdvance u) s = .next (wfsAdvanceAt u b s) :=
        (entryAdvance_decided hu hRuns hNext hDue).trans (congrArg Host.Outcome.next (wfsSettle_decided hRuns hNext hDue hStop))
      refine ⟨fun hEnd => ?_, fun hEnd => ?_⟩
      · obtain ⟨hEntry, hEvent, hSince, hNone, hState, hFrame⟩ := wfsAdvanceAt_advances (b := b) hEnd
        exact ⟨_, hExec, hEntry, hEvent, hSince, hNone, hState.trans hRuns, hFrame⟩
      · obtain ⟨hState, hCode, hEvent, hFrame⟩ := wfsAdvanceAt_ends (b := b) hEnd
        exact ⟨_, hExec, hState, hCode, hEvent, hFrame⟩
    · exact entryAdvance_undecided hNext
    · have hExec := autoAdvance_played hu hRuns hStop hAuto hTimes hDue
      refine ⟨fun hEnd => ?_, fun hEnd => ?_⟩
      · obtain ⟨hEntry, hEvent, hSince, -, hState, -⟩ := wfsAdvanceAt_advances hEnd
        exact ⟨_, hExec, hEntry, hEvent, hSince, hState.trans hRuns⟩
      · obtain ⟨hState, hCode, hEvent, -⟩ := wfsAdvanceAt_ends hEnd
        exact ⟨_, hExec, hState, hCode, hEvent⟩
    · exact autoAdvance_waits hStop hMode

end

section
/-!
PROOFS. Sequence table writes, samples that saturate, the output stage and the mute switch of an AWG (R199, R210, R211, R214, R316).
-/

namespace Sys2Proof.Machine

variable {s t : State} {d k u v : Nat}

/-! Sequence table writes (R199, R316). -/

theorem wfsTableWrite_busy (hu : u < 20) (hk : k < 2048) (hRuns : s.wfsState u = 1) : wfsTableWrite u k v s = s.evt (WFS_EVT u) 6 := by
  simp [wfsTableWrite, Nat.not_le.2 hu, Nat.not_le.2 hk, hRuns]

/-- A write of a cluster unit whose copy onto the spare is pending is refused (R316). -/
theorem wfsTableWrite_pending (hk : k < 2048) (hIdle : s.wfsState u ≠ 1) (hu : u < 16) (hPending : s.bit (CAL_SUB_AWG (u / 4)) 14 = true)
    (hUnit : s.fld (CAL_SUB_AWG (u / 4)) 1 0 = u % 4) : wfsTableWrite u k v s = s.wrN CALC_CODE 0x142A := by
  have hRange : ¬ (20 ≤ u ∨ 2048 ≤ k) := by omega
  simp [wfsTableWrite, hRange, hIdle, hu, hPending, hUnit]

theorem wfsTableWrite_stored (hu : u < 20) (hk : k < 2048) (hIdle : s.wfsState u ≠ 1)
    (hFree : 16 ≤ u ∨ s.bit (CAL_SUB_AWG (u / 4)) 14 = false ∨ s.fld (CAL_SUB_AWG (u / 4)) 1 0 ≠ u % 4) :
    wfsTableWrite u k v s = s.wr (WFS_SEQ u k) (BitVec.ofNat 16 v &&& maskAt .rw (WFS_SEQ u k)) := by
  have hNotPending : ¬ (u < 16 ∧ s.bit (CAL_SUB_AWG (u / 4)) 14 = true ∧ s.fld (CAL_SUB_AWG (u / 4)) 1 0 = u % 4) := by
    rintro ⟨hCluster, hPending, hUnit⟩
    rcases hFree with hSpare | hOff | hOther
    · omega
    · exact absurd hPending (by simp [hOff])
    · exact hOther hUnit
  unfold wfsTableWrite
  rw [if_neg (by omega), if_neg hIdle, if_neg hNotPending]

/-! Samples that saturate (R210). -/

theorem saturate16_outside {x : Int} (h : x < -32768 ∨ 32767 < x) : saturate16 x ≠ x := by
  unfold saturate16
  omega

theorem saturate16_inside {x : Int} (hLow : -32768 ≤ x) (hHigh : x ≤ 32767) : saturate16 x = x := by
  unfold saturate16
  omega

theorem sampleSaturated_outside (hDue : s.sampleDue u s.time.up = true) (hFormed : s.formedAt u s.time.up = s.time.up)
    (hSum : (s.oscAt u s.time.up).src = 3) (hOut : s.sumSample u s.time.up < -32768 ∨ 32767 < s.sumSample u s.time.up) :
    execSampleSaturated u s = .next ((s.inc (WFS_SAT_CNT u)).evt (WFS_EVT u) 5) := by
  simp [execSampleSaturated, hDue, hFormed, hSum, saturate16_outside hOut]

theorem sampleSaturated_inside (hLow : -32768 ≤ s.sumSample u s.time.up) (hHigh : s.sumSample u s.time.up ≤ 32767) :
    execSampleSaturated u s = .next s := by
  simp [execSampleSaturated, saturate16_inside hLow hHigh]

/-! The output stage (R211). -/

theorem outputStageLimit_limits (hu : u < 20) (hOut : s.awgVolts u s.time.up < 0 ∨ 56000 * 32768 < s.awgVolts u s.time.up) :
    execOutputStageLimit u s = .next ((s.setBit (AWG_STAT u) 4 true).evt (AWG_EVT u) 4) := by
  unfold execOutputStageLimit
  rw [if_neg (Nat.not_le.2 hu), if_pos hOut]

theorem outputStageLimit_ceases (hu : u < 20) (hLow : 0 ≤ s.awgVolts u s.time.up) (hHigh : s.awgVolts u s.time.up ≤ 56000 * 32768) :
    execOutputStageLimit u s = .next (s.setBit (AWG_STAT u) 4 false) := by
  unfold execOutputStageLimit
  rw [if_neg (Nat.not_le.2 hu), if_neg (by omega)]

/-! The mute switch (R214). -/

/-- The module once the ranging interval of AWG `u` is over, its mute switch not yet closed. -/
def State.rangingOver (s : State) (u : Nat) : State := (s.setAwg u { s.awg u with ranging := none }).setBit (AWG_STAT u) 2 false

/-- Nothing but AWG_STAT changes of what decides whether the switch closes, and which AWG does. -/
theorem State.rangingOver_frame : Frame [AWG_STAT u] s (s.rangingOver u) := Frame.refl.setAwg.setBit (by simp)

theorem State.rangingOver_awgServes : (s.rangingOver u).awgServes u = s.awgServes u := by
  unfold State.awgServes
  rw [State.bit_of_rd (State.rangingOver_frame.regs _ (by simp only [CAL_SUB_AWG, AWG_STAT, List.mem_singleton]; omega))]

theorem State.rangingOver_awgPhys : (s.rangingOver u).awgPhys u = s.awgPhys u := by
  have hSub : (s.rangingOver u).rd (CAL_SUB_AWG (u / 4)) = s.rd (CAL_SUB_AWG (u / 4)) :=
    State.rangingOver_frame.regs _ (by simp only [CAL_SUB_AWG, AWG_STAT, List.mem_singleton]; omega)
  unfold State.awgPhys
  rw [State.bit_of_rd hSub, State.fld_of_rd hSub]

/-- The mute switch closes again: OUT holds it closed and no trip holds it open. -/
def State.recloses (s : State) (u : Nat) : Bool := s.bit (AWG_OUT u) 15 && !s.awgServes u && !s.bit (AWG_STAT u) 3

theorem State.rangingOver_recloses : (s.rangingOver u).recloses u = s.recloses u := by
  have hOut : (s.rangingOver u).bit (AWG_OUT u) 15 = s.bit (AWG_OUT u) 15 :=
    State.bit_of_rd (State.rangingOver_frame.regs _ (by simp [AWG_OUT, AWG_STAT])) 15
  have hTrip : (s.rangingOver u).bit (AWG_STAT u) 3 = s.bit (AWG_STAT u) 3 :=
    (State.bit_setBit _ _ _ _ _ _ (by decide)).trans (if_neg (by simp))
  rw [State.recloses, State.recloses, hOut, hTrip, State.rangingOver_awgServes]

theorem awgReclose_eq : awgReclose u s = if s.recloses u then awgClose u (s.rangingOver u) else s.rangingOver u := by
  rw [← State.rangingOver_recloses]
  rfl

theorem awgMuteReclose_due (hRanging : (s.awg u).ranging = some d) (hDue : d ≤ s.time.up) :
    execAwgMuteReclose u s = .next (awgReclose u s) := by
  simp [execAwgMuteReclose, hRanging, State.atDue_now hDue]

theorem awgMuteReclose_none (hRanging : (s.awg u).ranging = none) : execAwgMuteReclose u s = .next s := by
  simp [execAwgMuteReclose, hRanging]

/-- The ranging interval of AWG `u` is over in `t`, and its mute switch is closed in `t` where it was or `closes` holds. -/
structure RangingEnded (u : Nat) (closes : Bool) (s t : State) : Prop where
  interval : (t.awg u).ranging = none
  shown : t.bit (AWG_STAT u) 2 = false
  switch : t.bit (AWG_STAT u) 0 = (s.bit (AWG_STAT u) 0 || closes)
  frame : s.calJob (unitOfAwg (s.awgPhys u)) = none → Frame [AWG_STAT u] s t

theorem State.rangingOver_ends : RangingEnded u false s (s.rangingOver u) where
  interval := by rw [State.rangingOver, State.setBit, State.setFld, State.awg_wr, State.awg_setAwg_self]
  shown := State.bit_setBit_self _ _ (by decide)
  switch := by
    rw [Bool.or_false, State.rangingOver, State.bit_setBit _ _ _ _ _ _ (by decide), if_neg (by simp)]
    rfl
  frame _ := State.rangingOver_frame

theorem awgStat_calEndShown {p : Nat} (hu : u < 20) : AWG_STAT u ∉ calEndShown (unitOfAwg p) := by
  simp only [calEndShown, calBlock_unitOfAwg, AWG_STAT, CAL_STAT, CAL_CODE, CAL_EVT, CAL_PROG_DONE, CALC_EVT, List.mem_cons,
    List.not_mem_nil, or_false]
  omega

/-- The switch closes over a calibration of the AWG, whose end reaches none of its output's registers. -/
theorem awgClose_ends (hu : u < 20) : RangingEnded u true s (awgClose u (s.rangingOver u)) := by
  obtain ⟨hInterval, hShown, -, -⟩ := State.rangingOver_ends (s := s) (u := u)
  have hBit (i : Nat) :
      (awgClose u (s.rangingOver u)).bit (AWG_STAT u) i = ((s.rangingOver u).setBit (AWG_STAT u) 0 true).bit (AWG_STAT u) i :=
    State.bit_of_rd (State.calPreempt_frame.regs _ (awgStat_calEndShown hu)) i
  constructor
  case interval => exact (congrArg Awg.ranging (State.calPreempt_wave.awg u)).trans hInterval
  case shown =>
    rw [hBit, State.bit_setBit _ _ _ _ _ _ (by decide), if_neg (by simp)]
    exact hShown
  case switch => rw [hBit, State.bit_setBit_self _ _ (by decide), Bool.or_true]
  case frame =>
    intro hNone
    have hIdle : ((s.rangingOver u).setBit (AWG_STAT u) 0 true).calJob (unitOfAwg ((s.rangingOver u).awgPhys u)) = none := by
      rw [State.rangingOver_awgPhys]
      exact hNone
    have hStays : awgClose u (s.rangingOver u) = (s.rangingOver u).setBit (AWG_STAT u) 0 true := State.calPreempt_idle hIdle
    rw [hStays]
    exact State.rangingOver_frame.setBit (by simp)

theorem awgReclose_ends (hu : u < 20) : RangingEnded u (s.recloses u) s (awgReclose u s) := by
  rw [awgReclose_eq]
  cases h : s.recloses u
  · exact State.rangingOver_ends
  · exact awgClose_ends hu

end Sys2Proof.Machine

open Sys2Proof Sys2Proof.Machine

/-- Settles O27: a write of the table by its place and the unit that takes it, a SUM sample by `saturate16`, the output stage by the
voltage, and the end of a ranging interval by `awgReclose_ends`. -/
theorem waveformTablesAndOutputs : Obligations.WaveformTablesAndOutputs := by
  intro u s hu
  refine ⟨?_, ?_, sampleSaturated_inside, fun hOut => ?_, fun hLow hHigh => ?_, fun d hRanging hDue => ?_, awgMuteReclose_none⟩
  · intro k v hk hReady
    have hExec {t : State} (h : wfsTableWrite u k v s = t) : exec (.wfsTableWrite u k v) s = .next t :=
      congrArg Host.Outcome.next ((State.whenReady_ready hReady _).trans h)
    refine ⟨fun hRuns => ?_, fun hIdle hCluster hPending hUnit => ?_, fun hIdle hFree => ?_⟩
    · exact ⟨_, hExec (wfsTableWrite_busy hu hk hRuns), State.bit_evt_self _ _ _ (by decide), Frame.refl.evt (by simp)⟩
    · exact ⟨_, hExec (wfsTableWrite_pending hk hIdle hCluster hPending hUnit), congrArg BitVec.toNat (State.rd_wr_self ..),
        Frame.refl.wrN (by simp)⟩
    · exact ⟨_, hExec (wfsTableWrite_stored hu hk hIdle hFree), State.rd_wr_self .., Frame.refl.wr (by simp)⟩
  · intro hDue hFormed hSum hOut
    refine ⟨_, sampleSaturated_outside hDue hFormed hSum hOut, ?_, State.bit_evt_self _ _ _ (by decide),
      (Frame.refl.inc (by simp)).evt (by simp)⟩
    rw [State.rdN, State.rd_evt, if_neg (by simp [WFS_SAT_CNT, WFS_EVT])]
    exact State.rdN_inc_self ..
  · refine ⟨_, outputStageLimit_limits hu hOut, ?_, State.bit_evt_self _ _ _ (by decide), (Frame.refl.setBit (by simp)).evt (by simp)⟩
    rw [State.bit, State.rd_evt, if_neg (by simp [AWG_STAT, AWG_EVT])]
    exact State.bit_setBit_self _ _ (by decide)
  · exact ⟨_, outputStageLimit_ceases hu hLow hHigh, State.bit_setBit_self _ _ (by decide), Frame.refl.setBit (by simp)⟩
  · obtain ⟨hInterval, hShown, hSwitch, hFrame⟩ := awgReclose_ends (s := s) hu
    exact ⟨_, awgMuteReclose_due hRanging hDue, hInterval, hShown, hSwitch, hFrame⟩

end

section
/-!
PROOFS. Digitizers (R225, R226, R229, R230, R234): what it is to stand at the present clock, and what the judging of a trigger source
leaves of a digitizer.
-/

namespace Sys2Proof.Machine

variable {r s t : State} {l : List Nat} {a at_ event mask time u v : Nat} {f : Found} {x : Trig}

/-! Registers and records. -/

theorem State.acqState_setAcqState (s : State) (u : Nat) (h : v < 8) : (s.setAcqState u v).acqState u = v :=
  (State.fld_setFld s (ACQ_STAT u) 15 13 v (by decide) (by decide)).trans (Nat.mod_eq_of_lt h)

theorem State.acqState_of_frame (h : Frame l s t) (hl : ACQ_STAT u ∉ l) : t.acqState u = s.acqState u :=
  State.fld_of_rd (h.regs _ hl) 15 13

/-- A flag of a segment is kept in the digitizer's record alone. -/
theorem State.segFlag_frame {b : Nat} : Frame l s (s.segFlag u b) := .ite Frame.refl.setAcq .refl

/-- The counter `a` has counted one, and the bit `i` of the event register `e` is raised. -/
structure EventCounted (a e i : Nat) (s t : State) : Prop where
  count : t.rdN a = min 65535 (s.rdN a + 1)
  event : t.bit e i = true
  frame : Frame [a, e] s t

/-- A count and its event, which a segment in progress is flagged with. -/
theorem State.segFlag_counts {b e i : Nat} (hApart : a ≠ e) (hi : i < 16) :
    EventCounted a e i s (((s.inc a).evt e i).segFlag u b) := by
  have hFlag : Frame [] ((s.inc a).evt e i) (((s.inc a).evt e i).segFlag u b) := State.segFlag_frame
  constructor
  case count =>
    rw [State.rdN, hFlag.regs _ List.not_mem_nil, State.rd_evt, if_neg hApart]
    exact State.rdN_inc_self ..
  case event =>
    rw [State.bit_of_rd (hFlag.regs _ List.not_mem_nil)]
    exact State.bit_evt_self _ _ _ hi
  case frame => exact ((Frame.refl.inc (by simp)).evt (by simp)).trans (hFlag.mono (by simp))

/-- Time and every digitizer in `t` are as in `s`, and at most the registers `l` differ. -/
structure AcqStays (l : List Nat) (s t : State) : Prop where
  acq : ∀ v, t.acq v = s.acq v
  time : t.time = s.time
  frame : Frame l s t

theorem AcqStays.refl : AcqStays l s s := ⟨fun _ => rfl, rfl, .refl⟩

theorem AcqStays.setFld {hi lo : Nat} (ha : a ∈ l) : AcqStays l s (s.setFld a hi lo v) := ⟨fun _ => rfl, rfl, Frame.refl.setFld ha⟩

/-! A digitizer that stands at the present clock. -/

/-- Nothing of digitizer `u` that was due by the present clock is still to come. -/
structure AcqSettled (u : Nat) (s : State) : Prop where
  found : ∀ f ∈ (s.acq u).found, s.time.up < f.assigned
  rearm : s.acqState u = 4 → s.time.up < (s.acq u).first
  fill : s.acqState u = 1 → s.time.up < (s.acq u).waitAt

theorem AcqSettled.setFld {hi lo : Nat} (h : AcqSettled u s) (hState : (s.setFld a hi lo v).acqState u = s.acqState u) :
    AcqSettled u (s.setFld a hi lo v) :=
  ⟨h.found, fun hRearm => h.rearm (hState.symm.trans hRearm), fun hFills => h.fill (hState.symm.trans hFills)⟩

theorem acqRearmed_idle {till : Nat} (h : s.acqState u = 4 → till < (s.acq u).first) : acqRearmed u till s = s :=
  if_neg fun hDue => Nat.not_le.2 (h hDue.1) hDue.2

theorem acqFilled_idle {till : Nat} (h : s.acqState u = 1 → till < (s.acq u).waitAt) : acqFilled u till s = s :=
  if_neg fun hDue => Nat.not_le.2 (h hDue.1) hDue.2

/-- A segment that begins fills, or waits at once. -/
theorem beginSegment_state : (beginSegment u at_ s).acqState u = if (s.acq u).pre = 0 then 2 else 1 :=
  State.acqState_setAcqState _ _ (ite_of (Q := (· < 8)) (by decide) (by decide))

/-- No REARM is left over whose next segment's first sample has come. -/
theorem acqRearmed_rearm {till : Nat} (h : (acqRearmed u till s).acqState u = 4) : till < ((acqRearmed u till s).acq u).first := by
  by_cases hDue : s.acqState u = 4 ∧ (s.acq u).first ≤ till
  · have hBegun : acqRearmed u till s = beginSegment u (s.acq u).first s := if_pos hDue
    rw [hBegun, beginSegment_state] at h
    split at h <;> cases h
  · have hSame : acqRearmed u till s = s := if_neg hDue
    rw [hSame] at h ⊢
    exact Nat.lt_of_not_le fun hCome => hDue ⟨h, hCome⟩

/-- The flags of a segment, its beginning and the judging of a source leave the sources that wait for their sample. -/
theorem State.segFlag_found {b : Nat} : ((s.segFlag u b).acq u).found = (s.acq u).found :=
  ite_of (Q := fun t : State => (t.acq u).found = (s.acq u).found) (by rw [State.acq_setAcq_self]) rfl

theorem acqRearmed_found {till : Nat} : ((acqRearmed u till s).acq u).found = (s.acq u).found :=
  ite_of (Q := fun t : State => (t.acq u).found = (s.acq u).found)
    (by rw [beginSegment, State.setAcqState, State.setFld, State.acq_wr, State.acq_setAcq_self]) rfl

theorem acqFilled_acq {till : Nat} : (acqFilled u till s).acq v = s.acq v := ite_of (Q := fun t : State => t.acq v = s.acq v) rfl rfl

/-- PRE samples that have come make the segment wait; otherwise nothing changes. -/
theorem acqFilled_cases {till : Nat} : (acqFilled u till s).acqState u = 2 ∨
    (acqFilled u till s = s ∧ (s.acqState u = 1 → till < (s.acq u).waitAt)) := by
  by_cases hDue : s.acqState u = 1 ∧ (s.acq u).waitAt ≤ till
  · exact .inl ((congrArg (State.acqState · u) (if_pos hDue)).trans (State.acqState_setAcqState s u (by decide)))
  · exact .inr ⟨if_neg hDue, fun hFills => Nat.lt_of_not_le fun hCome => hDue ⟨hFills, hCome⟩⟩

theorem acqIgnore_found : ((acqIgnore u s).acq u).found = (s.acq u).found := State.segFlag_found

theorem acqJudge_found : ((acqJudge u f s).acq u).found = (s.acq u).found := by
  unfold acqJudge
  dsimp only
  split
  · rw [State.setAcqState, State.setFld, State.acq_wr, State.acq_setAcq_self]
  · split
    · split
      · rw [State.acq_setAcq_self]
      · exact acqIgnore_found
    · exact acqIgnore_found

theorem acqJudgeAt_found : ((acqJudgeAt u s f).acq u).found = (s.acq u).found := by
  rw [acqJudgeAt, acqJudge_found, acqFilled_acq, acqRearmed_found]

theorem acqSettle_time : (acqSettle u s).time = s.time := (Calm.acqSettle (Q := False) .refl).time

/-- The sources that are still to be judged, once those whose sample has come have been. -/
def State.acqJudged (s : State) (u : Nat) : State :=
  if (s.acq u).found.isEmpty then s
  else ((s.acq u).found.filter (·.assigned ≤ s.time.up)).foldl (acqJudgeAt u)
    (s.setAcq u { s.acq u with found := (s.acq u).found.filter (s.time.up < ·.assigned) })

theorem acqSettle_eq : acqSettle u s = acqFilled u s.time.up (acqRearmed u s.time.up (s.acqJudged u)) := rfl

theorem State.acqJudged_found : ∀ f ∈ ((s.acqJudged u).acq u).found, s.time.up < f.assigned := by
  by_cases hEmpty : (s.acq u).found.isEmpty
  · have hSame : s.acqJudged u = s := if_pos hEmpty
    rw [hSame, List.isEmpty_iff.1 hEmpty]
    simp
  · have hKept : ((s.acqJudged u).acq u).found = (s.acq u).found.filter (s.time.up < ·.assigned) := by
      rw [State.acqJudged, if_neg hEmpty]
      refine List.foldlRecOn (motive := fun t : State => (t.acq u).found = _) _ _ (by rw [State.acq_setAcq_self]) fun t ht f _ => ?_
      rw [acqJudgeAt_found, ht]
    intro f hf
    rw [hKept] at hf
    simpa using (List.mem_filter.1 hf).2

theorem acqSettle_settled : AcqSettled u (acqSettle u s) := by
  have hFilled := acqFilled_cases (u := u) (s := acqRearmed u s.time.up (s.acqJudged u)) (till := s.time.up)
  constructor <;> rw [acqSettle_time, acqSettle_eq]
  case found =>
    rw [acqFilled_acq, acqRearmed_found]
    exact State.acqJudged_found
  case rearm =>
    rcases hFilled with hWaits | ⟨hSame, -⟩
    · rw [hWaits]
      exact fun h => absurd h (by decide)
    · rw [hSame]
      exact acqRearmed_rearm
  case fill =>
    rcases hFilled with hWaits | ⟨hSame, hFills⟩
    · rw [hWaits]
      exact fun h => absurd h (by decide)
    · rw [hSame]
      exact hFills

/-- A digitizer that stands at the present clock is brought up to it without a change. -/
theorem AcqSettled.stays (h : AcqSettled u s) : AcqStays l s (acqSettle u s) := by
  have hJudged : s.acqJudged u = s ∨ s.acqJudged u = s.setAcq u (s.acq u) := by
    have hNone : (s.acq u).found.filter (·.assigned ≤ s.time.up) = [] := by simpa using h.found
    have hAll : (s.acq u).found.filter (s.time.up < ·.assigned) = (s.acq u).found := by simpa using h.found
    rw [State.acqJudged, hNone, hAll]
    exact ite_of (Q := fun t => t = s ∨ t = s.setAcq u (s.acq u)) (.inl rfl) (.inr rfl)
  have hStays : AcqStays l s (s.acqJudged u) := by
    rcases hJudged with hSame | hAgain
    · rw [hSame]
      exact .refl
    · rw [hAgain]
      refine ⟨fun v => ?_, rfl, Frame.refl.setAcq⟩
      by_cases hv : v = u
      · rw [hv, State.acq_setAcq_self]
      · exact State.acq_setAcq_ne _ _ hv
  have hState : (s.acqJudged u).acqState u = s.acqState u := by
    rcases hJudged with hSame | hAgain
    · rw [hSame]
    · rw [hAgain]
      rfl
  have hAcq := hStays.acq u
  rw [acqSettle_eq, acqRearmed_idle (by rw [hState, hAcq]; exact h.rearm), acqFilled_idle (by rw [hState, hAcq]; exact h.fill)]
  exact hStays

/-! A source is judged (R226, R229, R230). -/

/-- The source `mask` has triggered the segment of digitizer `u`, which is assigned to the sample of clock `at_`. -/
structure SegmentTriggered (u mask at_ : Nat) (s t : State) : Prop where
  state : t.acqState u = 3
  trigger : ∃ x, (t.acq u).trig = some x ∧ x.sources = mask ∧ x.assigned = at_
  others : ∀ v, v ≠ u → t.acq v = s.acq v
  frame : Frame [ACQ_STAT u] s t

/-- The source `mask` has joined those of the trigger `x` of digitizer `u`. -/
structure SourceJoined (u mask : Nat) (x : Trig) (s t : State) : Prop where
  trigger : ∃ y, (t.acq u).trig = some y ∧ y.sources = x.sources ||| mask
  others : ∀ v, v ≠ u → t.acq v = s.acq v
  frame : Frame [] s t

theorem SegmentTriggered.after (h : AcqStays [ACQ_STAT u] r s) (g : SegmentTriggered u mask at_ s t) : SegmentTriggered u mask at_ r t :=
  ⟨g.state, g.trigger, fun v hv => (g.others v hv).trans (h.acq v), h.frame.trans g.frame⟩

theorem SourceJoined.after (h : AcqStays [] r s) (g : SourceJoined u mask x s t) : SourceJoined u mask x r t :=
  ⟨g.trigger, fun v hv => (g.others v hv).trans (h.acq v), h.frame.trans g.frame⟩

/-- A source found while the digitizer waits triggers its segment. -/
theorem acqJudge_triggers (hWaits : s.acqState u = 2) : SegmentTriggered u f.mask f.assigned s (acqJudge u f s) := by
  obtain ⟨x, hJudge, hMask, hSample⟩ : ∃ x, acqJudge u f s = (s.setAcq u { s.acq u with trig := some x }).setAcqState u 3 ∧
      x.sources = f.mask ∧ x.assigned = f.assigned := ⟨_, if_pos hWaits, rfl, rfl⟩
  rw [hJudge]
  refine ⟨State.acqState_setAcqState _ _ (by decide), ⟨x, ?_, hMask, hSample⟩, fun v hv => State.acq_setAcq_ne _ _ hv,
    Frame.refl.setAcq.setFld (by simp)⟩
  rw [State.setAcqState, State.setFld, State.acq_wr, State.acq_setAcq_self]

/-- A source of the sample at which the segment was triggered joins its trigger. -/
theorem acqJudge_joins (hPost : s.acqState u = 3) (hTrig : (s.acq u).trig = some x) (hSample : x.assigned = f.assigned) :
    SourceJoined u f.mask x s (acqJudge u f s) := by
  obtain ⟨y, hJudge, hMask⟩ : ∃ y, acqJudge u f s = s.setAcq u { s.acq u with trig := some y } ∧ y.sources = x.sources ||| f.mask := by
    simp only [acqJudge, hPost, hTrig, hSample]
    exact ⟨_, rfl, rfl⟩
  rw [hJudge]
  exact ⟨⟨y, by rw [State.acq_setAcq_self], hMask⟩, fun v hv => State.acq_setAcq_ne _ _ hv, Frame.refl.setAcq⟩

/-- An ignored source is counted and raised (R230). -/
theorem acqIgnore_counts : EventCounted (ACQ_IGN_CNT u) (ACQ_EVT u) 3 s (acqIgnore u s) :=
  State.segFlag_counts (by simp [ACQ_IGN_CNT, ACQ_EVT]) (by decide)

/-- A source found in any other state, or at another sample than the trigger's, is ignored. -/
theorem acqJudge_ignores (hNotWaiting : s.acqState u ≠ 2)
    (hOther : s.acqState u = 3 → ∀ x, (s.acq u).trig = some x → x.assigned ≠ f.assigned) :
    EventCounted (ACQ_IGN_CNT u) (ACQ_EVT u) 3 s (acqJudge u f s) := by
  have hJudge : acqJudge u f s = acqIgnore u s := by
    unfold acqJudge
    dsimp only
    rw [if_neg hNotWaiting]
    split
    · rename_i x hTrig
      exact if_neg fun hSame => hOther hSame.1 x hTrig hSame.2
    · rfl
  rw [hJudge]
  exact acqIgnore_counts

/-- The trigger state is not a source's to change. -/
theorem acqJudge_trigState : (acqJudge u f s).fld (ACQ_STAT u) 12 11 = s.fld (ACQ_STAT u) 12 11 := by
  have hIgnored : (acqIgnore u s).fld (ACQ_STAT u) 12 11 = s.fld (ACQ_STAT u) 12 11 :=
    State.fld_of_rd (acqIgnore_counts.frame.regs _ (by simp [ACQ_STAT, ACQ_IGN_CNT, ACQ_EVT])) 12 11
  unfold acqJudge
  dsimp only
  split
  · exact State.fld_setFld_apart _ _ (by decide) (by decide) (by decide) (by decide)
  · split
    · exact ite_of (Q := fun t : State => t.fld (ACQ_STAT u) 12 11 = _) rfl hIgnored
    · exact hIgnored

/-- A source whose sample has come is judged. -/
theorem acqRecognise_due (h : at_ ≤ s.time.up) : acqRecognise u mask at_ time event s = acqJudge u ⟨mask, at_, time, event⟩ (acqSettle u s) :=
  if_pos (by rw [acqSettle_time]; exact h)

/-- A source whose sample is still to come is kept until then. -/
theorem acqRecognise_early (h : s.time.up < at_) : acqRecognise u mask at_ time event s =
    (acqSettle u s).setAcq u { (acqSettle u s).acq u with found := ((acqSettle u s).acq u).found ++ [⟨mask, at_, time, event⟩] } :=
  if_neg (by rw [acqSettle_time]; exact Nat.not_le.2 h)

end Sys2Proof.Machine
end

section
/-!
PROOFS. Digitizers: what the end of a segment leaves in its slot and in the result queue, and the end of an acquisition (R234 to R237).
-/

namespace Sys2Proof.Machine

variable {s t : State} {u : Nat} {x : Trig}

/-! The end of a segment (R235, R237). -/

/-- A flag of a segment is all that changes of the digitizers and of the result queues. -/
theorem State.segFlag_units {b : Nat} :
    (s.segFlag u b).results = s.results ∧ ∃ flags, (s.segFlag u b).acq u = { s.acq u with flags := flags } := by
  unfold State.segFlag
  split
  · exact ⟨rfl, _, State.acq_setAcq_self ..⟩
  · exact ⟨rfl, _, rfl⟩

/-- The bytes of a sample are stored within the ring. -/
theorem ringStore_outside {m : Tab Byte} {base size p k : Nat} {l : List Nat} (hSize : 0 < size) (hk : k < base ∨ base + 2 * size ≤ k) :
    tabGet (fun _ => 0#8) (ringStore m base size p l) k = tabGet (fun _ => 0#8) m k := by
  induction l generalizing m p with
  | nil => rfl
  | cons v l ih =>
    have hPlace : p % size < size := Nat.mod_lt p hSize
    rw [ringStore, ih, memStore_outside (by rw [leBytes_length]; omega)]

theorem State.segHeader_length {seq n : Nat} : (s.segHeader u seq n x).length = 64 := by
  unfold State.segHeader
  extract_lets a e firstTime truncated lowest
  simp only [List.length_append, List.length_cons, List.length_nil, leBytes_length]

/-- The bytes at the start of a segment header. -/
def segMagic : List Byte := [0x5A#8, 0x56#8, 0x53#8, 0x47#8]

theorem State.segHeader_magic {seq n : Nat} : ∃ rest, s.segHeader u seq n x = segMagic ++ rest := by
  unfold State.segHeader
  extract_lets a e firstTime truncated lowest
  simp only [List.append_assoc]
  exact ⟨_, rfl⟩

/-- A store reads back from its start. -/
theorem State.memRead_memWrite_append (s : State) (a : Nat) (l m : List Byte) : (s.memWrite a (l ++ m)).memRead a l.length = l :=
  List.ext_getElem (by simp) fun i _ h => by
    rw [State.getElem_memRead, State.memByte_memWrite_inside s (by rw [List.length_append]; omega), List.getElem_append_left h]

/-- The samples of a segment in a slot; a stream keeps none there. -/
def Acq.slotted (a : Acq) : Nat := if a.stream then 0 else a.pre + a.post

/-- The device address of the slot of the segment in progress. -/
def State.segSlot (s : State) (u : Nat) : Nat := unitBase (s.acqPhys u) + (s.acq u).seg * slotSamples (s.acq u).segs * 2

/-- The segment in progress of digitizer `u` has ended: its result has joined the queue and its header stands at the start of its slot. -/
structure SegmentEnded (u : Nat) (s t : State) : Prop where
  event : t.bit (ACQ_EVT u) 1 = true
  queued : (t.queue (ACQ_RES_STAT u)).items.length = (s.queue (ACQ_RES_STAT u)).items.length + 1
  header : t.memRead (s.segSlot u) 4 = segMagic
  outside : (s.acq u).stream = true ∨ 0 < (s.acq u).pre + (s.acq u).post →
    ∀ k, (k < s.segSlot u ∨ s.segSlot u + 64 + 2 * (s.acq u).slotted ≤ k) → t.memByte k = s.memByte k

theorem State.memRead_congr (h : ∀ k, t.memByte k = s.memByte k) (a n : Nat) : t.memRead a n = s.memRead a n :=
  List.ext_getElem (by simp) fun i _ _ => by simp only [State.getElem_memRead, h]

/-- The segment in progress with its flag of a wrap of the clock count where one lies in it. -/
def State.segWrapped (s : State) (u : Nat) : State :=
  if clockSpan ≤ s.timeOf (s.acq u).first / 65536 + (s.time.up - (s.acq u).first) then s.segFlag u 4 else s

/-- The samples of the segment in its slot. -/
def State.segSampled (s : State) (u n : Nat) (samples : List Nat) (x : Trig) : State :=
  if (s.acq u).stream then s
  else { (s.segSamples u n samples).2 with
    mem := ringStore (s.segSamples u n samples).2.mem (s.segSlot u + 64) ((s.acq u).pre + (s.acq u).post) (s.earliestKept u x)
      (s.segSamples u n samples).1 }

/-- The result of the segment in the queue, and the registers that show it. -/
def State.segQueued (s : State) (u n : Nat) (a : Acq) : State :=
  let t := (s.pushResult (ACQ_RES_STAT u) 0 [a.seg, a.flags]).setAcq u { a with written := some n }
  (t.wrN (ACQ_RES_QUEUED u) (min 0xFFFF (t.queue (ACQ_RES_STAT u)).items.length)).evt (ACQ_EVT u) 1

theorem finishSegment_eq {n : Nat} {samples : List Nat} : finishSegment u n samples x s =
    (((s.segWrapped u).segSampled u n samples x).memWrite ((s.segWrapped u).segSlot u)
      (((s.segWrapped u).segSampled u n samples x).segHeader u
        (((s.segWrapped u).segSampled u n samples x).queue (ACQ_RES_STAT u)).seq n x)).segQueued u n ((s.segWrapped u).acq u) := rfl

theorem State.segWrapped_results : (s.segWrapped u).results = s.results :=
  ite_of (Q := fun t : State => t.results = s.results) State.segFlag_units.1 rfl

theorem State.segWrapped_frame : Frame [] s (s.segWrapped u) := .ite State.segFlag_frame .refl

theorem State.segWrapped_acq : ∃ flags, (s.segWrapped u).acq u = { s.acq u with flags := flags } :=
  ite_of (Q := fun t : State => ∃ flags, t.acq u = { s.acq u with flags := flags }) State.segFlag_units.2 ⟨_, rfl⟩

theorem State.segWrapped_segSlot : (s.segWrapped u).segSlot u = s.segSlot u := by
  obtain ⟨flags, hOwn⟩ := State.segWrapped_acq (s := s) (u := u)
  have hSub := State.segWrapped_frame.regs (s := s) (t := s.segWrapped u) (CAL_SUB_ACQ (u / 4)) List.not_mem_nil
  rw [State.segSlot, State.segSlot, State.acqPhys, State.acqPhys, State.bit_of_rd hSub, State.fld_of_rd hSub, hOwn]

theorem State.segSampled_results {n : Nat} {samples : List Nat} : (s.segSampled u n samples x).results = s.results :=
  ite_of (Q := fun t : State => t.results = s.results) rfl
    (ite_of (Q := fun p : List Nat × State => p.2.results = s.results) (x := (List.replicate n 0, s)) rfl rfl)

theorem State.segSampled_outside {n k : Nat} {samples : List Nat} (hRing : (s.acq u).stream = true ∨ 0 < (s.acq u).pre + (s.acq u).post)
    (hk : k < s.segSlot u ∨ s.segSlot u + 64 + 2 * (s.acq u).slotted ≤ k) : (s.segSampled u n samples x).memByte k = s.memByte k := by
  unfold State.segSampled
  split
  · rfl
  · rename_i hPlain
    have hDrawn : (s.segSamples u n samples).2.mem = s.mem :=
      ite_of (Q := fun p : List Nat × State => p.2.mem = s.mem) (x := (List.replicate n 0, s)) rfl rfl
    rw [Acq.slotted, if_neg hPlain] at hk
    refine (ringStore_outside (hRing.resolve_left hPlain) (by omega)).trans ?_
    rw [hDrawn]
    rfl

theorem State.segQueued_length {n : Nat} {a : Acq} :
    ((s.segQueued u n a).queue (ACQ_RES_STAT u)).items.length = (s.queue (ACQ_RES_STAT u)).items.length + 1 := by
  have hPushed := State.items_pushResult s (ACQ_RES_STAT u) 0 [a.seg, a.flags]
  rw [State.segQueued, State.queue_evt, State.wrN, State.queue_wr, State.queue_of_results (State.setAcq_results ..), hPushed,
    List.length_append, List.length_singleton]

theorem State.memByte_segQueued {n : Nat} {a : Acq} (k : Nat) : (s.segQueued u n a).memByte k = s.memByte k :=
  (((Frame.refl (l := [ACQ_RES_QUEUED u, ACQ_EVT u])).pushResult.setAcq.wrN (by simp)).evt (by simp)).mem k

theorem finishSegment_ends {n : Nat} {samples : List Nat} : SegmentEnded u s (finishSegment u n samples x s) := by
  rw [finishSegment_eq]
  generalize hWrapped : s.segWrapped u = w
  generalize hSampled : w.segSampled u n samples x = z
  have hSlot : w.segSlot u = s.segSlot u := hWrapped ▸ State.segWrapped_segSlot
  obtain ⟨flags, hOwn⟩ : ∃ flags, w.acq u = { s.acq u with flags := flags } := hWrapped ▸ State.segWrapped_acq
  constructor
  case event => exact State.bit_evt_self _ _ _ (by decide)
  case queued =>
    have hResults : z.results = s.results := by rw [← hSampled, State.segSampled_results, ← hWrapped, State.segWrapped_results]
    rw [State.segQueued_length, State.queue_memWrite, State.queue_of_results hResults]
  case header =>
    obtain ⟨rest, hHeader⟩ := State.segHeader_magic (s := z) (u := u) (seq := (z.queue (ACQ_RES_STAT u)).seq) (n := n) (x := x)
    rw [hHeader, hSlot]
    exact (State.memRead_congr State.memByte_segQueued ..).trans (State.memRead_memWrite_append z (s.segSlot u) segMagic rest)
  case outside =>
    intro hRing k hk
    rw [← hSlot] at hk
    have hHeader := State.memByte_memWrite_outside z (k := k) (a := w.segSlot u)
      (l := z.segHeader u (z.queue (ACQ_RES_STAT u)).seq n x) (by rw [State.segHeader_length]; omega)
    have hStored : z.memByte k = w.memByte k := hSampled ▸ State.segSampled_outside (by rw [hOwn]; exact hRing) (by rw [hOwn]; exact hk)
    have hFrame : Frame [] s w := hWrapped ▸ State.segWrapped_frame
    rw [State.memByte_segQueued]
    exact hHeader.trans (hStored.trans (hFrame.mem k))

/-! The end of an acquisition (R236). -/

/-- The acquisition of digitizer `u` has ended with a code. -/
structure AcqEnded (u code : Nat) (s t : State) : Prop where
  state : t.acqState u = 5
  code : t.rdN (ACQ_CODE u) = code
  event : t.bit (ACQ_EVT u) 2 = true
  raised : ∀ b, s.bit (ACQ_EVT u) b = true → t.bit (ACQ_EVT u) b = true
  acq : ∀ v, t.acq v = s.acq v
  results : t.results = s.results
  frame : Frame [ACQ_STAT u, ACQ_CODE u, ACQ_EVT u] s t

theorem acqDone_ends {code : Nat} (hCode : code < 65536) : AcqEnded u code s (acqDone u code s) := by
  constructor
  case state =>
    rw [acqDone, State.acqState, State.fld, State.rd_evt, if_neg (by simp [ACQ_STAT, ACQ_EVT]), State.wrN,
      State.rd_wr_ne _ _ (by simp [ACQ_STAT, ACQ_CODE])]
    exact State.acqState_setAcqState _ _ (by decide)
  case code =>
    rw [acqDone, State.rdN, State.rd_evt, if_neg (by simp [ACQ_CODE, ACQ_EVT]), State.wrN, State.rd_wr_self, BitVec.toNat_ofNat,
      Nat.mod_eq_of_lt hCode]
  case event => exact State.bit_evt_self _ _ _ (by decide)
  case raised =>
    intro b hb
    refine State.bit_evt_of_bit ?_
    rw [State.bit, State.wrN, State.rd_wr_ne _ _ (by simp [ACQ_EVT, ACQ_CODE]), State.setAcqState, State.setFld,
      State.rd_wr_ne _ _ (by simp [ACQ_EVT, ACQ_STAT])]
    exact hb
  case acq => exact fun _ => rfl
  case results => rfl
  case frame => exact ((Frame.refl.setFld (by simp)).wrN (by simp)).evt (by simp)

/-- An acquisition that has ended raises a further event. -/
theorem AcqEnded.evt {b code : Nat} (h : AcqEnded u code s t) : AcqEnded u code s (t.evt (ACQ_EVT u) b) := by
  have hShown : Frame [ACQ_EVT u] t (t.evt (ACQ_EVT u) b) := Frame.refl.evt (by simp)
  refine ⟨(State.acqState_of_frame hShown (by simp [ACQ_STAT, ACQ_EVT])).trans h.state, ?_, State.bit_evt_of_bit h.event,
    fun c hc => State.bit_evt_of_bit (h.raised c hc), h.acq, h.results, h.frame.trans (hShown.mono (by simp))⟩
  rw [State.rdN, hShown.regs _ (by simp [ACQ_CODE, ACQ_EVT])]
  exact h.code

end Sys2Proof.Machine
end

section
/-!
PROOFS. Digitizers: an arm, a stop and a forced trigger (R226, R230, R233, R234, R236, R316).
-/

namespace Sys2Proof.Machine

variable {r s t : State} {code u v : Nat} {x : Trig}

/-! Arming (R233, R316). -/

theorem acqArmCode_open (h : s.segOpen u = true ∨ s.acqState u = 4) : s.acqArmCode u = some 0x1103 :=
  if_pos (by simpa only [Bool.or_eq_true, beq_iff_eq] using h)

/-- A spare that serves ignores an arm of its own: the model's choice (R316, log entry 30). -/
theorem acqArm_serving (h : s.acqServes u = true) : acqArm u s = s := if_pos (by simp [h])

/-- An arm of digitizer `u` has been refused with `code`. -/
structure ArmRefused (u code : Nat) (s t : State) : Prop where
  code : t.rd (ACQ_CODE u) = BitVec.ofNat 16 code
  event : t.bit (ACQ_EVT u) 0 = true
  acq : ∀ v, t.acq v = s.acq v
  frame : Frame [ACQ_CODE u, ACQ_EVT u] s t

theorem acqArm_refused (hu : u < 20) (hServes : s.acqServes u = false) (hCode : s.acqArmCode u = some code) :
    ArmRefused u code s (acqArm u s) := by
  have hArm : acqArm u s = ((s.wrN (ACQ_CODE u) code).evt (ACQ_EVT u) 0).refuse (ACQ_CTL u) code := by
    simp [acqArm, hServes, hCode, Nat.not_le.2 hu]
  rw [hArm]
  constructor
  case code => rw [State.rd_refuse, State.rd_evt, if_neg (by simp [ACQ_CODE, ACQ_EVT]), State.wrN, State.rd_wr_self]
  case event => exact (State.bit_of_rd (State.rd_refuse ..) 0).trans (State.bit_evt_self _ _ _ (by decide))
  case acq => exact fun _ => rfl
  case frame => exact ((Frame.refl.wrN (by simp)).evt (by simp)).refuse

/-- Digitizer `u` with the settings in force, before its first segment begins. -/
def State.acqInForce (s : State) (u : Nat) : Acq :=
  { s.acq u with
    segs := s.rdN (ACQ_SEGS u) + 1, pre := s.acqPre u, post := s.acqPost u, decim := s.rdN (ACQ_DECIM u) + 1
    stream := s.bit (ACQ_MODE u) 15, seg := 0 }

/-- The module with the settings of digitizer `u` in force and its result queue empty. -/
def State.acqCleared (s : State) (u : Nat) : State :=
  (s.setAcq u (s.acqInForce u)).setQueue (ACQ_RES_STAT u) { s.queue (ACQ_RES_STAT u) with items := [], seen := false }

/-- The same with the counts of its results and of its stream at 0. -/
def State.acqArmed (s : State) (u : Nat) : State :=
  (((s.acqCleared u).wrN (ACQ_RES_QUEUED u) 0).setWide (ACQ_STRM_PROD u) 3 0).setWide (ACQ_STRM_CONS u) 3 0

/-- An accepted arm ends a calibration of the unit and begins the first segment at the next sample. -/
theorem acqArm_accepted (hu : u < 20) (hServes : s.acqServes u = false) (hCode : s.acqArmCode u = none) :
    acqArm u s =
      beginSegment u (s.acqArmed u).sampleNow ((s.acqArmed u).calPreempt (unitOfAcq ((s.acqArmed u).acqPhys u))) := by
  unfold acqArm
  rw [if_neg (by simp [hServes, Nat.not_le.2 hu]), hCode]
  rfl

/-- Digitizers, result queues and time in `t` are those in `s`. -/
structure UnitsStay (s t : State) : Prop where
  acqs : t.acqs = s.acqs
  results : t.results = s.results
  time : t.time = s.time

theorem UnitsStay.acq (h : UnitsStay s t) (v : Nat) : t.acq v = s.acq v := congrArg (tabGet (fun _ => Acq.init) · v) h.acqs

theorem UnitsStay.trans (h : UnitsStay s r) (g : UnitsStay r t) : UnitsStay s t :=
  ⟨g.acqs.trans h.acqs, g.results.trans h.results, g.time.trans h.time⟩

theorem UnitsStay.evt (h : UnitsStay s t) {a b : Nat} : UnitsStay s (t.evt a b) := ⟨h.acqs, h.results, h.time⟩

theorem UnitsStay.setWide (h : UnitsStay s t) {a n w : Nat} : UnitsStay s (t.setWide a n w) := by
  obtain ⟨m, hm⟩ := State.setWide_eq (k := n) t a w
  rw [hm]
  exact ⟨h.acqs, h.results, h.time⟩

theorem State.calEnd_units {c o : Nat} : UnitsStay s (s.calEnd c o code) := by
  refine ite_of (Q := UnitsStay s) ⟨rfl, rfl, rfl⟩ ?_
  extract_lets b jobs cal s1 s2 s3 s4
  have h3 : UnitsStay s s3 := ⟨rfl, rfl, rfl⟩
  have h4 : UnitsStay s s4 := ite_of (Q := UnitsStay s) h3.evt.evt (ite_of (Q := UnitsStay s) h3.evt h3)
  exact ite_of (Q := UnitsStay s) h4.evt h4

theorem State.calPreempt_units {c : Nat} : UnitsStay s (s.calPreempt c) := by
  rcases s.calPreempt_cases c with h | h <;> rw [h]
  · exact ⟨rfl, rfl, rfl⟩
  · exact State.calEnd_units

/-- The counts that an arm clears are registers. -/
theorem State.acqArmed_units : UnitsStay (s.acqCleared u) (s.acqArmed u) :=
  have hCount : UnitsStay (s.acqCleared u) ((s.acqCleared u).wrN (ACQ_RES_QUEUED u) 0) := ⟨rfl, rfl, rfl⟩
  hCount.setWide.setWide

/-- Digitizer `u` is armed: its settings are taken over and its first segment begins at the next sample. -/
structure AcqArms (u : Nat) (s t : State) : Prop where
  state : t.acqState u = if s.acqPre u = 0 then 2 else 1
  queue : (t.queue (ACQ_RES_STAT u)).items = []
  settings : ∃ wait flags shut, t.acq u =
    { s.acqInForce u with first := s.sampleNow, waitAt := wait, trig := none, flags := flags, written := none, shut := shut }
  others : ∀ v, v ≠ u → t.acq v = s.acq v

theorem acqArm_arms (hu : u < 20) (hServes : s.acqServes u = false) (hCode : s.acqArmCode u = none) : AcqArms u s (acqArm u s) := by
  have hUnits := State.acqArmed_units.trans (State.calPreempt_units (s := s.acqArmed u) (c := unitOfAcq ((s.acqArmed u).acqPhys u)))
  have hOwn := (hUnits.acq u).trans (State.acq_setAcq_self s u (s.acqInForce u))
  have hNow : (s.acqArmed u).sampleNow = s.sampleNow := by
    have hTime : (s.acqArmed u).time = s.time := State.acqArmed_units.time
    rw [State.sampleNow, State.sampleNow, hTime]
  rw [acqArm_accepted hu hServes hCode]
  constructor
  case state =>
    rw [beginSegment_state, hOwn]
    rfl
  case queue => exact congrArg ResQueue.items ((State.queue_of_results hUnits.results _).trans (State.queue_setQueue_self ..))
  case settings =>
    rw [beginSegment, State.setAcqState, State.setFld, State.acq_wr, State.acq_setAcq_self, hOwn, hNow]
    exact ⟨_, _, _, rfl⟩
  case others =>
    intro v hv
    exact (State.acq_setAcq_ne _ _ hv).trans ((hUnits.acq v).trans (State.acq_setAcq_ne _ _ hv))

/-! The stop and the forced trigger (R226, R236). -/

theorem acqEndAs_idle (h : (acqSettle u s).acqState u = 0 ∨ (acqSettle u s).acqState u = 5) : acqEndAs u code s = acqSettle u s := by
  rcases h with h | h <;> simp [acqEndAs, State.segOpen, h]

/-- An acquisition without a triggered segment ends as it stands. -/
theorem acqEndAs_untriggered (h : (acqSettle u s).acqState u = 1 ∨ (acqSettle u s).acqState u = 2 ∨ (acqSettle u s).acqState u = 4) :
    acqEndAs u code s = acqDone u code (acqSettle u s) := by
  rcases h with h | h | h <;> simp [acqEndAs, State.segOpen, h]

/-- A triggered segment ends with the samples taken, flagged as truncated. -/
theorem acqEndAs_triggered (hPost : (acqSettle u s).acqState u = 3) (hTrig : ((acqSettle u s).acq u).trig = some x) :
    ∃ n, acqEndAs u code s = acqDone u code (finishSegment u n [] x ((acqSettle u s).segFlag u 2)) := by
  simp only [acqEndAs, hPost, hTrig, if_true]
  exact ⟨_, rfl⟩

theorem acqStop_eq (hu : u < 20) : acqStop u s = acqEndAs u 0x1111 s := if_neg (Nat.not_le.2 hu)

theorem acqForce_eq (hu : u < 20) : acqForce u s = acqRecognise u 4 s.sampleNow (s.timeOf s.sampleNow) 0 s := if_neg (Nat.not_le.2 hu)

/-- A trigger forced at the sample of the present clock is judged by the digitizer as it stands. -/
theorem acqForce_now (hu : u < 20) (hNow : s.sampleNow = s.time.up) :
    acqForce u s = acqJudge u ⟨4, s.sampleNow, s.timeOf s.sampleNow, 0⟩ (acqSettle u s) :=
  (acqForce_eq hu).trans (acqRecognise_due (Nat.le_of_eq hNow))

end Sys2Proof.Machine

open Sys2Proof Sys2Proof.Machine

/-- Settles O28: an arm by `acqArm_refused` and `acqArm_arms`, a stop by what the digitizer as it stands has under way (`acqDone_ends`,
`finishSegment_ends`), and a forced trigger by its sample: kept until it comes (`acqRecognise_early`), or judged at it. -/
theorem acquisitionArmsStopsAndForces : Obligations.AcquisitionArmsStopsAndForces := by
  rintro u s r hu hReady rfl
  have hExec {f : State → State} {t : State} (h : f s = t) : Host.Outcome.next (s.whenReady f) = .next (φ := Fault) (ρ := Refusal) t :=
    congrArg _ ((State.whenReady_ready hReady f).trans h)
  refine ⟨acqArmCode_open, fun hServes => hExec (acqArm_serving hServes), ?_, ?_, ?_, ?_,
    fun hIdle => hExec ((acqStop_eq hu).trans (acqEndAs_idle hIdle)), ?_, fun hNow => ⟨?_, ?_, ?_⟩⟩
  · intro code hServes hCode
    obtain ⟨hShown, hEvent, hAcq, hFrame⟩ := acqArm_refused hu hServes hCode
    exact ⟨_, hExec rfl, hShown, hEvent, hAcq, hFrame⟩
  · intro hServes hCode
    obtain ⟨hState, hQueue, ⟨wait, flags, shut, hOwn⟩, hOthers⟩ := acqArm_arms hu hServes hCode
    refine ⟨_, hExec rfl, hState, hQueue, ?_⟩
    rw [hOwn]
    exact ⟨rfl, rfl, rfl, rfl, rfl, rfl, rfl, rfl, hOthers⟩
  · intro hState
    obtain ⟨hDone, hCode, hEvent, -, hAcq, -, hFrame⟩ := acqDone_ends (u := u) (code := 0x1111) (s := acqSettle u s) (by decide)
    exact ⟨_, hExec ((acqStop_eq hu).trans (acqEndAs_untriggered hState)), hDone, hCode, hEvent, hAcq, hFrame⟩
  · intro hPost hSome
    obtain ⟨x, hTrig⟩ := Option.isSome_iff_exists.1 hSome
    obtain ⟨n, hStop⟩ := acqEndAs_triggered (code := 0x1111) hPost hTrig
    obtain ⟨hSegment, hLength, -, -⟩ := finishSegment_ends (u := u) (n := n) (samples := []) (x := x) (s := (acqSettle u s).segFlag u 2)
    obtain ⟨hDone, hCode, hEvent, hRaised, -, hResults, -⟩ :=
      acqDone_ends (u := u) (code := 0x1111) (s := finishSegment u n [] x ((acqSettle u s).segFlag u 2)) (by decide)
    refine ⟨_, hExec ((acqStop_eq hu).trans hStop), hDone, hCode, hRaised 1 hSegment, hEvent, ?_⟩
    rw [State.queue_of_results hResults, hLength, State.queue_of_results State.segFlag_units.1]
  · intro hEarly
    refine ⟨_, hExec ((acqForce_eq hu).trans (acqRecognise_early hEarly)), ?_, fun v hv => State.acq_setAcq_ne _ _ hv, Frame.refl.setAcq⟩
    rw [State.acq_setAcq_self]
  · intro hWaits
    obtain ⟨hState, ⟨x, hTrig, hMask, hSample⟩, hOthers, hFrame⟩ :=
      acqJudge_triggers (f := ⟨4, s.sampleNow, s.timeOf s.sampleNow, 0⟩) hWaits
    exact ⟨_, x, hExec (acqForce_now hu hNow), hState, hTrig, hMask, hSample, hOthers, hFrame⟩
  · intro x hPost hTrig hSame
    obtain ⟨⟨y, hJoined, hMask⟩, hOthers, hFrame⟩ := acqJudge_joins (f := ⟨4, s.sampleNow, s.timeOf s.sampleNow, 0⟩) hPost hTrig hSame
    exact ⟨_, y, hExec (acqForce_now hu hNow), hJoined, hMask, hOthers, hFrame⟩
  · intro hNotWaiting hOther
    obtain ⟨hCount, hEvent, hFrame⟩ := acqJudge_ignores (f := ⟨4, s.sampleNow, s.timeOf s.sampleNow, 0⟩) hNotWaiting hOther
    have hState := State.acqState_of_frame (u := u) hFrame (by simp [ACQ_STAT, ACQ_IGN_CNT, ACQ_EVT])
    exact ⟨_, hExec (acqForce_now hu hNow), hCount, hEvent, hState, hFrame⟩

end

section
/-!
PROOFS. Digitizers: the trigger state and the edge trigger, the AUTO trigger, and the PRE samples (R221, R225, R226, R228, R229, R234).
-/

namespace Sys2Proof.Machine

variable {s : State} {at_ event mask time u : Nat} {nv prev : Int} {x : Trig}

/-! The judging of sources by a digitizer that stands at the present clock. -/

theorem AcqSettled.acqState (h : AcqSettled u s) : (acqSettle u s).acqState u = s.acqState u :=
  State.acqState_of_frame (l := []) h.stays.frame List.not_mem_nil

theorem AcqSettled.triggers (h : AcqSettled u s) (hWaits : s.acqState u = 2) (hDue : at_ ≤ s.time.up) :
    SegmentTriggered u mask at_ s (acqRecognise u mask at_ time event s) := by
  rw [acqRecognise_due hDue]
  exact (acqJudge_triggers (f := ⟨mask, at_, time, event⟩) (h.acqState.trans hWaits)).after h.stays

theorem AcqSettled.joins (h : AcqSettled u s) (hPost : s.acqState u = 3) (hTrig : (s.acq u).trig = some x) (hSample : x.assigned = at_)
    (hDue : at_ ≤ s.time.up) : SourceJoined u mask x s (acqRecognise u mask at_ time event s) := by
  have hSettled : ((acqSettle u s).acq u).trig = some x := (congrArg Acq.trig (h.stays (l := []).acq u)).trans hTrig
  rw [acqRecognise_due hDue]
  exact (acqJudge_joins (f := ⟨mask, at_, time, event⟩) (h.acqState.trans hPost) hSettled hSample).after h.stays

theorem AcqSettled.trigState (h : AcqSettled u s) :
    (acqRecognise u mask at_ time event s).fld (ACQ_STAT u) 12 11 = s.fld (ACQ_STAT u) 12 11 := by
  have hSettled : (acqSettle u s).fld (ACQ_STAT u) 12 11 = s.fld (ACQ_STAT u) 12 11 :=
    State.fld_of_rd (h.stays (l := []).frame.regs _ List.not_mem_nil) 12 11
  rcases Nat.lt_or_ge s.time.up at_ with hEarly | hDue
  · rw [acqRecognise_early hEarly]
    exact hSettled
  · rw [acqRecognise_due hDue, acqJudge_trigState, hSettled]

/-! The trigger state (R225, R229). -/

/-- How a sample of `nv` nanovolts moves the trigger state, and the edge that it completes. -/
def State.trigMove (s : State) (u : Nat) (nv : Int) : Nat × Option Bool :=
  trigStep (s.trigUpper u) (s.trigLower u) (s.fld (ACQ_STAT u) 12 11) (s.acqCode u nv)

/-- The module with the trigger state of digitizer `u` moved by such a sample. -/
def State.trigMoved (s : State) (u : Nat) (nv : Int) : State := s.setFld (ACQ_STAT u) 12 11 (s.trigMove u nv).1

theorem State.trigMoved_stays : AcqStays [ACQ_STAT u] s (s.trigMoved u nv) := .setFld (by simp)

theorem State.trigMoved_acqState : (s.trigMoved u nv).acqState u = s.acqState u :=
  State.fld_setFld_apart _ _ (by decide) (by decide) (by decide) (by decide)

theorem AcqSettled.trigMoved (h : AcqSettled u s) : AcqSettled u (s.trigMoved u nv) := h.setFld State.trigMoved_acqState

theorem State.trigMove_upper (h : s.trigUpper u ≤ s.acqCode u nv) :
    s.trigMove u nv = (2, if s.fld (ACQ_STAT u) 12 11 = 1 then some true else none) := if_pos h

theorem State.trigMove_lower (hUpper : s.acqCode u nv < s.trigUpper u) (hLower : s.acqCode u nv < s.trigLower u) :
    s.trigMove u nv = (1, if s.fld (ACQ_STAT u) 12 11 = 2 then some false else none) :=
  (if_neg (Int.not_le.2 hUpper)).trans (if_pos hLower)

theorem State.trigMove_between (hUpper : s.acqCode u nv < s.trigUpper u) (hLower : s.trigLower u ≤ s.acqCode u nv) :
    s.trigMove u nv = (s.fld (ACQ_STAT u) 12 11, none) := (if_neg (Int.not_le.2 hUpper)).trans (if_neg (Int.not_lt.2 hLower))

/-- ACQ_TRIG selects the ADC as a source, and the slope of an edge. -/
def State.edgeFires (s : State) (u : Nat) (rising : Bool) : Bool :=
  s.bit (ACQ_TRIG u) 0 &&
    (s.fld (ACQ_TRIG u) 14 13 == 2 || (rising && s.fld (ACQ_TRIG u) 14 13 ≠ 1) || (!rising && s.fld (ACQ_TRIG u) 14 13 == 1))

theorem acqSample_still (hu : u < 20) (hMove : ((acqSettle u s).trigMove u nv).2 = none) :
    acqSample u prev nv s = (acqSettle u s).trigMoved u nv := by
  unfold State.trigMove at hMove
  simp only [acqSample, if_neg (Nat.not_le.2 hu), hMove]
  rfl

/-- An edge that fires is a source of its sample; any other moves the trigger state alone. -/
theorem acqSample_edge {rising : Bool} (hu : u < 20) (hMove : ((acqSettle u s).trigMove u nv).2 = some rising) :
    ∃ time, acqSample u prev nv s =
      if (acqSettle u s).edgeFires u rising then
        acqRecognise u 1 (acqSettle u s).sampleNow time 0 ((acqSettle u s).trigMoved u nv)
      else (acqSettle u s).trigMoved u nv := by
  have hAdc : ((acqSettle u s).trigMoved u nv).bit (ACQ_TRIG u) 0 = (acqSettle u s).bit (ACQ_TRIG u) 0 :=
    State.bit_of_rd (State.trigMoved_stays.frame.regs _ (by simp [ACQ_TRIG, ACQ_STAT])) 0
  unfold State.trigMoved at hAdc
  unfold State.trigMove at hMove hAdc
  simp only [acqSample, if_neg (Nat.not_le.2 hu), hMove, hAdc, ← Bool.not_and]
  cases hFires : (acqSettle u s).edgeFires u rising <;> unfold State.edgeFires at hFires <;> rw [hFires]
  · exact ⟨0, rfl⟩
  · exact ⟨_, rfl⟩

/-- Whatever a sample brings about, the trigger state is as it moves it. -/
theorem acqSample_trigState (hu : u < 20) : (acqSample u prev nv s).fld (ACQ_STAT u) 12 11 = ((acqSettle u s).trigMove u nv).1 % 4 := by
  have hMoved : ((acqSettle u s).trigMoved u nv).fld (ACQ_STAT u) 12 11 = ((acqSettle u s).trigMove u nv).1 % 4 :=
    State.fld_setFld _ _ _ _ _ (by decide) (by decide)
  cases hMove : ((acqSettle u s).trigMove u nv).2 with
  | none => rw [acqSample_still hu hMove, hMoved]
  | some rising =>
    obtain ⟨time, hEdge⟩ := acqSample_edge (prev := prev) hu hMove
    rw [hEdge]
    exact ite_of (Q := fun t : State => t.fld (ACQ_STAT u) 12 11 = _) (acqSettle_settled.trigMoved.trigState.trans hMoved) hMoved

/-- An edge that fires at a sample triggers the segment of a digitizer that waits. -/
theorem acqSample_triggers {rising : Bool} (hu : u < 20) (hMove : ((acqSettle u s).trigMove u nv).2 = some rising)
    (hFires : (acqSettle u s).edgeFires u rising = true) (hWaits : (acqSettle u s).acqState u = 2) (hNow : s.sampleNow = s.time.up) :
    SegmentTriggered u 1 s.sampleNow (acqSettle u s) (acqSample u prev nv s) := by
  have hSame : (acqSettle u s).sampleNow = s.sampleNow := by rw [State.sampleNow, State.sampleNow, acqSettle_time]
  obtain ⟨time, hEdge⟩ := acqSample_edge (prev := prev) hu hMove
  rw [hEdge, if_pos hFires, hSame]
  refine (acqSettle_settled.trigMoved.triggers (State.trigMoved_acqState.trans hWaits) ?_).after State.trigMoved_stays
  rw [State.trigMoved_stays.time (l := [ACQ_STAT u]), acqSettle_time, hNow]

/-! The AUTO trigger (R228). -/

/-- The clock at which the AUTO timeout of digitizer `u` ends. -/
def State.autoAt (s : State) (u : Nat) : Nat := s.nthSample (s.acq u).waitAt (512 * max 1 (s.rdN (ACQ_AUTO u)))

theorem autoTrigger_due (hu : u < 20) (hAuto : (acqSettle u s).bit (ACQ_TRIG u) 15 = true)
    (hState : (acqSettle u s).acqState u = 2 ∨
      ((acqSettle u s).acqState u = 3 ∧ ((acqSettle u s).acq u).trig.any (·.assigned = (acqSettle u s).autoAt u) = true))
    (hDue : (acqSettle u s).autoAt u ≤ s.time.up) :
    ∃ time, execAutoTrigger u s = .next (acqRecognise u 8 ((acqSettle u s).autoAt u) time 0 (acqSettle u s)) := by
  unfold State.autoAt at *
  unfold execAutoTrigger
  dsimp only
  rw [if_pos ⟨hu, hAuto, hState⟩, State.atDue_now (by rw [acqSettle_time]; exact hDue)]
  exact ⟨_, rfl⟩

theorem autoTrigger_idle
    (h : ((acqSettle u s).acqState u ≠ 2 ∧ (acqSettle u s).acqState u ≠ 3) ∨ (acqSettle u s).bit (ACQ_TRIG u) 15 = false) :
    execAutoTrigger u s = .next (acqSettle u s) := by
  refine congrArg Host.Outcome.next (if_neg ?_)
  rintro ⟨-, hAuto, hState⟩
  rcases h with ⟨hNotWaiting, hNotPost⟩ | hOff
  · exact hState.elim hNotWaiting fun hPost => hNotPost hPost.1
  · exact Bool.false_ne_true (hOff.symm.trans hAuto)

/-! The PRE samples (R234). -/

/-- A digitizer that fills with no source found is only to become WAITING. -/
theorem acqSettle_filling (hFills : s.acqState u = 1) (hNone : (s.acq u).found = []) : acqSettle u s = acqFilled u s.time.up s := by
  have hJudged : s.acqJudged u = s := if_pos (by rw [hNone]; rfl)
  rw [acqSettle_eq, hJudged, acqRearmed_idle fun hRearm => by rw [hFills] at hRearm; cases hRearm]

theorem acqSettle_filled (hFills : s.acqState u = 1) (hNone : (s.acq u).found = []) (hDue : (s.acq u).waitAt ≤ s.time.up) :
    acqSettle u s = s.setAcqState u 2 := (acqSettle_filling hFills hNone).trans (if_pos ⟨hFills, hDue⟩)

theorem preFilled_settles (h : (acqSettle u s).acqState u ≠ 1) : execPreFilled u s = .next (acqSettle u s) :=
  congrArg Host.Outcome.next (if_neg fun hFills => h hFills.2)

/-- Clocks that pass leave a digitizer as it was. -/
theorem State.acq_advance (s : State) (n v : Nat) : (s.advance n).acq v = s.acq v :=
  ite_of (Q := fun t : State => t.acq v = s.acq v) rfl rfl

/-- The clock advances to the first WAITING sample where it lies before the next tick. -/
theorem preFilled_advances (hu : u < 20) (hFills : s.acqState u = 1) (hNone : (s.acq u).found = [])
    (hAhead : s.time.up < (s.acq u).waitAt) (hStage : (s.acq u).waitAt - s.time.up < s.toTick) :
    execPreFilled u s = .next ((s.advance ((s.acq u).waitAt - s.time.up)).setAcqState u 2) := by
  have hSame : acqSettle u s = s := (acqSettle_filling hFills hNone).trans (acqFilled_idle fun _ => hAhead)
  have hState : (s.advance ((s.acq u).waitAt - s.time.up)).acqState u = s.acqState u :=
    State.acqState_of_frame (l := []) Frame.refl.advance List.not_mem_nil
  simp only [execPreFilled, hSame, if_pos (And.intro hu hFills), State.atDue, if_neg (Nat.not_le.2 hAhead), if_pos hStage]
  refine congrArg Host.Outcome.next (acqSettle_filled (hState.trans hFills) ?_ ?_)
  · rw [State.acq_advance, hNone]
  · rw [State.acq_advance, State.advance_time]
    dsimp only
    omega

end Sys2Proof.Machine

open Sys2Proof Sys2Proof.Machine

/-- Settles O29: a sample by the move of the trigger state (`acqSample_trigState`) and the edge that it completes (`acqSample_triggers`),
the AUTO timeout by the judging of its source, and the PRE samples by what brings a digitizer up to the present clock. -/
theorem triggersStartTheirSegment : Obligations.TriggersStartTheirSegment := by
  rintro u s r hu rfl
  refine ⟨?_, ?_, ?_, ?_, ?_⟩
  · rintro prev nv v rfl
    refine ⟨fun hUpper => ?_, fun hLower hUpper => ?_, fun hLower hUpper => ?_, ?_⟩
    · exact ⟨_, rfl, (acqSample_trigState hu).trans (congrArg (·.1 % 4) (State.trigMove_upper hUpper))⟩
    · exact ⟨_, rfl, (acqSample_trigState hu).trans (congrArg (·.1 % 4) (State.trigMove_lower hUpper hLower))⟩
    · have hMove := State.trigMove_between hUpper hLower
      refine ⟨_, congrArg Host.Outcome.next (acqSample_still hu (congrArg Prod.snd hMove)), ?_, State.trigMoved_stays.acq (l := [ACQ_STAT u]),
        State.trigMoved_stays.frame⟩
      rw [State.trigMoved, hMove, State.fld_setFld _ _ _ _ _ (by decide) (by decide)]
      exact Nat.mod_mod ..
    · intro hWaits hNow hAdc hEdge
      obtain ⟨rising, hMove, hFires⟩ :
          ∃ rising, ((acqSettle u s).trigMove u nv).2 = some rising ∧ (acqSettle u s).edgeFires u rising = true := by
        rcases hEdge with ⟨hBelow, hUpper, hSlope⟩ | ⟨hAbove, hLower, hUpper, hSlope⟩
        · exact ⟨true, by rw [State.trigMove_upper hUpper, hBelow, if_pos rfl], by simp [State.edgeFires, hAdc, hSlope]⟩
        · exact ⟨false, by rw [State.trigMove_lower hUpper hLower, hAbove, if_pos rfl], by simp [State.edgeFires, hAdc, hSlope.symm]⟩
      obtain ⟨hState, ⟨x, hTrig, hMask, hSample⟩, hOthers, hFrame⟩ := acqSample_triggers (prev := prev) hu hMove hFires hWaits hNow
      exact ⟨_, x, rfl, hState, hTrig, hMask, hSample, hOthers, hFrame⟩
  · rintro d hEnd hAuto hDue
    replace hEnd : (acqSettle u s).autoAt u = d := hEnd
    subst hEnd
    have hCome : (acqSettle u s).autoAt u ≤ (acqSettle u s).time.up := by rw [acqSettle_time]; exact hDue
    refine ⟨fun hWaits => ?_, fun x hPost hTrig hSample => ?_⟩
    · obtain ⟨time, hExec⟩ := autoTrigger_due hu hAuto (.inl hWaits) hDue
      obtain ⟨hState, ⟨x, hTrig, hMask, hSample⟩, hOthers, hFrame⟩ :=
        acqSettle_settled.triggers (mask := 8) (time := time) (event := 0) hWaits hCome
      exact ⟨_, x, hExec, hState, hTrig, hMask, hSample, hOthers, hFrame⟩
    · obtain ⟨time, hExec⟩ := autoTrigger_due hu hAuto (.inr ⟨hPost, by simp [hTrig, hSample]⟩) hDue
      obtain ⟨⟨y, hJoined, hMask⟩, hOthers, hFrame⟩ :=
        acqSettle_settled.joins (mask := 8) (time := time) (event := 0) hPost hTrig hSample hCome
      exact ⟨_, y, hExec, hJoined, hMask, hOthers, hFrame⟩
  · exact autoTrigger_idle
  · intro hFills hNone
    refine ⟨fun hDue => ?_, fun hAhead hStage => ?_⟩
    · have hWaiting := acqSettle_filled hFills hNone hDue
      have hState := State.acqState_setAcqState s u (v := 2) (by decide)
      exact ⟨_, (preFilled_settles (by rw [hWaiting, hState]; decide)).trans (congrArg _ hWaiting), hState, fun _ => rfl,
        Frame.refl.setFld (by simp)⟩
    · refine ⟨_, preFilled_advances hu hFills hNone hAhead hStage, State.acqState_setAcqState _ _ (by decide), ?_, ?_,
        Frame.refl.advance.setFld (by simp)⟩
      · exact (congrArg Time.up (State.advance_time ..)).trans (Nat.add_sub_cancel' hAhead.le)
      · exact fun v => State.acq_advance ..
  · exact preFilled_settles

end

section
/-!
PROOFS. Digitizers: a complete segment and what follows it, the overrun and the blocks of a stream, over-range and the range interval
(R221, R222, R234 to R237, R239, R240).
-/

namespace Sys2Proof.Machine

variable {s t : State} {d u : Nat} {nv : Int} {x : Trig} {samples : List Nat}

/-! A complete segment (R234, R236, R237). -/

theorem segmentDone_last (h : (s.acq u).stream = true ∨ (s.acq u).segs ≤ (s.acq u).seg + 1) :
    ∃ n, segmentDone u samples x s = acqDone u 0x1110 (finishSegment u n samples x s) :=
  ⟨_, if_pos (by simpa using h)⟩

/-- A work item that arrives may be deferred, which shows in the registers of SYS and of the run log. -/
structure ItemArrives (s t : State) : Prop where
  acqs : t.acqs = s.acqs
  results : t.results = s.results
  regs : ∀ a, a ∉ SYS_STAGE_OVR :: SYS_EVT :: logRegs → t.rd a = s.rd a

theorem State.deferItem_arrives (w : WorkItem) : ItemArrives s (s.deferItem w) := by
  refine ⟨(State.log_acqs ..).trans rfl, (State.log_results ..).trans rfl, fun a ha => ?_⟩
  simp only [List.mem_cons, not_or] at ha
  obtain ⟨hCount, hEvent, hLog⟩ := ha
  rw [State.deferItem, State.rd_log _ _ _ _ hLog, State.rd_evt, if_neg hEvent, State.rd_inc, if_neg hCount]
  rfl

/-- The item that begins the next segment of a sequence leaves every digitizer alone when it arrives. -/
theorem State.arrive_rearm (cls origin cost : Nat) : ItemArrives s (s.arrive cls origin cost (.rearm u)) := by
  have hSame {t : State} (hAcqs : t.acqs = s.acqs) (hResults : t.results = s.results) (hRegs : t.regs = s.regs) : ItemArrives s t :=
    ⟨hAcqs, hResults, fun a _ => State.rd_congr hRegs a⟩
  unfold State.arrive
  extract_lets w q t act
  split
  · exact hSame rfl rfl rfl
  · split
    · exact hSame rfl rfl rfl
    · obtain ⟨hAcqs, hResults, hRegs⟩ := t.deferItem_arrives w
      exact ⟨hAcqs, hResults, hRegs⟩

/-- Digitizer `u` goes to REARM before segment `seg`, which begins by a work item. -/
def acqRearm (u seg : Nat) (s : State) : State :=
  let f := s.free
  let next := f.2.nthSample f.2.sampleNow (1 + f.1 % 100)
  ((f.2.setAcq u { f.2.acq u with seg := seg, first := next, trig := none }).setAcqState u 4).arrive 1 u (yardCost 1) (.rearm u)

theorem segmentDone_next (hPlain : (s.acq u).stream = false) (hNext : (s.acq u).seg + 1 < (s.acq u).segs) :
    ∃ n, segmentDone u samples x s = acqRearm u ((s.acq u).seg + 1) (finishSegment u n samples x s) :=
  ⟨_, if_neg (by simp only [hPlain, Bool.false_or, decide_eq_true_eq]; omega)⟩

/-- Digitizer `u` is in REARM, before segment `seg`. -/
structure AcqRearms (u seg : Nat) (s t : State) : Prop where
  state : t.acqState u = 4
  seg : (t.acq u).seg = seg
  results : t.results = s.results
  event : t.rd (ACQ_EVT u) = s.rd (ACQ_EVT u)

theorem acqRearm_rearms {seg : Nat} : AcqRearms u seg s (acqRearm u seg s) := by
  unfold acqRearm
  extract_lets f next
  generalize hRearm : (f.2.setAcq u { f.2.acq u with seg := seg, first := next, trig := none }).setAcqState u 4 = z
  obtain ⟨hAcqs, hResults, hRegs⟩ := State.arrive_rearm (s := z) (u := u) 1 u (yardCost 1)
  have hAside (o : Nat) : 0x250000 + o + 0x100 * u ∉ SYS_STAGE_OVR :: SYS_EVT :: logRegs := by
    simp only [logRegs, SYS_STAGE_OVR, SYS_EVT, HST_LOG_WR, HST_LOG_LOST, HST_EVT, List.mem_cons, List.not_mem_nil, or_false]
    omega
  constructor
  case state =>
    rw [State.acqState, State.fld_of_rd (hRegs (ACQ_STAT u) (hAside 2)), ← hRearm]
    exact State.acqState_setAcqState _ _ (by decide)
  case seg =>
    have hOwn : z.acq u = { f.2.acq u with seg := seg, first := next, trig := none } := by
      rw [← hRearm, State.setAcqState, State.setFld, State.acq_wr, State.acq_setAcq_self]
    rw [State.acq, hAcqs, ← State.acq, hOwn]
  case results =>
    rw [hResults, ← hRearm]
    rfl
  case event =>
    rw [hRegs (ACQ_EVT u) (hAside 4), ← hRearm]
    exact State.rd_wr_ne _ _ (by simp [ACQ_EVT, ACQ_STAT])

theorem segmentComplete_due (hu : u < 20) (hPost : (acqSettle u s).acqState u = 3) (hTrig : ((acqSettle u s).acq u).trig = some x)
    (hDue : (acqSettle u s).nthSample x.kept ((((acqSettle u s).acq u).post - 1) * ((acqSettle u s).acq u).decim) ≤ (acqSettle u s).time.up) :
    execSegmentComplete u samples s = .next (segmentDone u samples x (acqSettle u s)) := by
  simp only [execSegmentComplete, if_pos (And.intro hu hPost), hTrig, State.atDue_now hDue]

theorem segmentComplete_idle (h : (acqSettle u s).acqState u ≠ 3) : execSegmentComplete u samples s = .next (acqSettle u s) :=
  congrArg Host.Outcome.next (if_neg fun hPost => h hPost.2)

/-! The overrun of a stream (R240). -/

theorem streamOverrun_due (hu : u < 20) (hPost : s.acqState u = 3) (hTrig : (s.acq u).trig = some x) (hStream : (s.acq u).stream = true)
    (hDue : s.nthSample (s.acq u).first ((s.earliestKept u x + 32 * s.wide (ACQ_STRM_PROD u) 3 + 2 ^ 28 - 1) * (s.acq u).decim) ≤ s.time.up) :
    ∃ n, execStreamOverrun u s = .next ((acqDone u 0x1112 (finishSegment u n [] x (s.segFlag u 3))).evt (ACQ_EVT u) 6) := by
  unfold execStreamOverrun
  simp only [hTrig, if_pos (And.intro hu (And.intro hStream hPost)), State.atDue_now hDue]
  exact ⟨_, rfl⟩

/-! A block of the stream (R239). -/

/-- The samples of a block as they go to the host: the centre voltage's while the route is open. -/
def State.blockSamples (s : State) (u : Nat) (samples : List Nat) : List Nat := if (s.acq u).shut then List.replicate 32 0 else samples

/-- A block whose 32 samples the command carries takes no free value. -/
theorem State.segSamples_block (h : samples.length = 32) : s.segSamples u 32 samples = (s.blockSamples u samples, s) := by
  unfold State.segSamples State.blockSamples
  split
  · rfl
  · simp [State.free16, h]

theorem streamBlock_full (hTrig : (s.acq u).trig = some x)
    (hFull : s.wide (ACQ_STRM_BLK u) 2 ≤ s.wide (ACQ_STRM_PROD u) 3 - s.wide (ACQ_STRM_CONS u) 3) : streamBlock u samples s = s := by
  simp only [streamBlock, hTrig]
  exact if_pos (by simp [hFull])

theorem streamBlock_writes (hTrig : (s.acq u).trig = some x) (hStream : (s.acq u).stream = true) (hRing : 0 < s.wide (ACQ_STRM_BLK u) 2)
    (hRoom : s.wide (ACQ_STRM_PROD u) 3 - s.wide (ACQ_STRM_CONS u) 3 < s.wide (ACQ_STRM_BLK u) 2)
    (hTaken : 32 * s.wide (ACQ_STRM_PROD u) 3 + 32 ≤ s.streamTaken u x) (hSamples : samples.length = 32) :
    streamBlock u samples s =
      (s.hostWrite (s.wide (ACQ_STRM_ADDR u) 4 + 64 * (s.wide (ACQ_STRM_PROD u) 3 % s.wide (ACQ_STRM_BLK u) 2))
        ((s.blockSamples u samples).flatMap (leBytes 2))).setWide (ACQ_STRM_PROD u) 3 (s.wide (ACQ_STRM_PROD u) 3 + 1) := by
  have hWhole : min 32 (s.streamTaken u x - 32 * s.wide (ACQ_STRM_PROD u) 3) = 32 := by omega
  have hGoes : ¬ ((!(s.acq u).stream || decide (s.wide (ACQ_STRM_BLK u) 2 = 0) ||
      decide (s.wide (ACQ_STRM_PROD u) 3 - s.wide (ACQ_STRM_CONS u) 3 ≥ s.wide (ACQ_STRM_BLK u) 2) || decide (32 = 0) ||
      (decide (32 < 32) && (s.acq u).written.isNone)) = true) := by
    simp [hStream]
    omega
  simp only [streamBlock, hTrig, hWhole, State.segSamples_block hSamples, Nat.sub_self, List.replicate_zero, List.append_nil]
  exact if_neg hGoes

theorem length_flatMap_leBytes (n : Nat) (l : List Nat) : (l.flatMap (leBytes n)).length = n * l.length := by
  induction l with
  | nil => rfl
  | cons v l ih => rw [List.flatMap_cons, List.length_append, ih, leBytes_length, List.length_cons, Nat.mul_succ, Nat.add_comm]

/-- What `n` registers hold together after a value was put into them. -/
theorem State.wide_setWide_self (s : State) (a n v : Nat) : (s.setWide a n v).wide a n = v % 65536 ^ n := by
  induction n generalizing s a v with
  | zero => exact (Nat.mod_one v).symm
  | succ n ih =>
    have hLow : (s.setWide a (n + 1) v).rdN a = v % 65536 := by
      rw [State.setWide, State.rdN, State.rd_setWide_ne (by omega), State.wrN, State.rd_wr_self, BitVec.toNat_ofNat]
    have hHigh : (s.setWide a (n + 1) v).wide (a + 2) n = v / 65536 % 65536 ^ n := ih (s.wrN a v) (a + 2) (v / 65536)
    rw [State.wide, hLow, hHigh, Nat.pow_succ', Nat.mod_mul]

/-- A block of the stream of digitizer `u` stands at `a` in the host's ring and has been counted, and neither device memory nor a register
beside the count has changed. -/
structure BlockWritten (u a : Nat) (data : List Byte) (s t : State) : Prop where
  count : t.wide (ACQ_STRM_PROD u) 3 = (s.wide (ACQ_STRM_PROD u) 3 + 1) % 2 ^ 48
  inside : ∀ k, k < data.length → t.hostByte (a + k) = some (data.getD k 0)
  outside : ∀ k, (k < a ∨ a + data.length ≤ k) → t.hostByte k = s.hostByte k
  mem : t.mem = s.mem
  regs : ∀ c, c ∉ [ACQ_STRM_PROD u, ACQ_STRM_PROD u + 2, ACQ_STRM_PROD u + 4] → t.rd c = s.rd c

theorem blockWritten {a : Nat} {data : List Byte} :
    BlockWritten u a data s ((s.hostWrite a data).setWide (ACQ_STRM_PROD u) 3 (s.wide (ACQ_STRM_PROD u) 3 + 1)) := by
  generalize hCount : s.wide (ACQ_STRM_PROD u) 3 + 1 = w
  have hFrame : Frame [ACQ_STRM_PROD u, ACQ_STRM_PROD u + 2, ACQ_STRM_PROD u + 4] (s.hostWrite a data)
      ((s.hostWrite a data).setWide (ACQ_STRM_PROD u) 3 w) := Frame.refl.setWide fun i hi => by interval_cases i <;> simp
  constructor
  case count => rw [State.wide_setWide_self, hCount, show 65536 ^ 3 = 2 ^ 48 by norm_num]
  case inside =>
    intro k hk
    rw [hFrame.hostMem, State.hostByte_hostWrite_inside s hk, List.getElem?_eq_getElem hk, List.getD_eq_getElem _ _ hk]
  case outside => exact fun k hk => (hFrame.hostMem k).trans (State.hostByte_hostWrite_outside s hk)
  case mem => exact setWide_mem.trans (State.hostWrite_mem ..)
  case regs => exact fun c hc => (hFrame.regs c hc).trans (State.rd_hostWrite ..)

/-- The bytes of a block of 32 samples. -/
theorem State.blockSamples_bytes (hSamples : samples.length = 32) :
    ((s.blockSamples u samples).flatMap (leBytes 2)).length = 64 ∧
      ∀ k < 64, ((s.blockSamples u samples).flatMap (leBytes 2)).getD k 0 =
        if (s.acq u).shut then 0 else (samples.flatMap (leBytes 2)).getD k 0 := by
  unfold State.blockSamples
  split
  · have hZero : (List.replicate 32 0).flatMap (leBytes 2) = List.replicate 64 0#8 := by decide
    rw [hZero]
    exact ⟨rfl, fun k hk => List.getD_replicate _ hk⟩
  · exact ⟨by rw [length_flatMap_leBytes, hSamples], fun _ _ => rfl⟩

/-! Over-range and the range interval (R221, R222). -/

theorem acqOverrange_outside (hu : u < 20) (h : (acqSettle u s).acqResult u nv < -32768 ∨ 32767 < (acqSettle u s).acqResult u nv) :
    execAcqOverrange ⟨u, nv⟩ s = .next ((((acqSettle u s).inc (ACQ_OVR_CNT u)).evt (ACQ_EVT u) 4).segFlag u 0) :=
  congrArg Host.Outcome.next (if_pos ⟨hu, saturate16_outside h⟩)

theorem acqOverrange_inside (hLow : -32768 ≤ (acqSettle u s).acqResult u nv) (hHigh : (acqSettle u s).acqResult u nv ≤ 32767) :
    execAcqOverrange ⟨u, nv⟩ s = .next (acqSettle u s) :=
  congrArg Host.Outcome.next (if_neg fun h => h.2 (saturate16_inside hLow hHigh))

/-- A sample of digitizer `u` out of range has been counted and raised, and an open segment bears its flag. -/
structure OverrangeSeen (u : Nat) (s t : State) : Prop where
  count : t.rdN (ACQ_OVR_CNT u) = min 65535 (s.rdN (ACQ_OVR_CNT u) + 1)
  event : t.bit (ACQ_EVT u) 4 = true
  flag : s.segOpen u = true → (t.acq u).flags = (s.acq u).flags ||| 1
  frame : Frame [ACQ_OVR_CNT u, ACQ_EVT u] s t

theorem overrange_seen : OverrangeSeen u s (((s.inc (ACQ_OVR_CNT u)).evt (ACQ_EVT u) 4).segFlag u 0) := by
  obtain ⟨hCount, hEvent, hFrame⟩ := State.segFlag_counts (s := s) (a := ACQ_OVR_CNT u) (e := ACQ_EVT u) (u := u) (i := 4) (b := 0)
    (by simp [ACQ_OVR_CNT, ACQ_EVT]) (by decide)
  refine ⟨hCount, hEvent, fun hOpen => ?_, hFrame⟩
  have hRaised : Frame [ACQ_OVR_CNT u, ACQ_EVT u] s ((s.inc (ACQ_OVR_CNT u)).evt (ACQ_EVT u) 4) := (Frame.refl.inc (by simp)).evt (by simp)
  have hStill : ((s.inc (ACQ_OVR_CNT u)).evt (ACQ_EVT u) 4).segOpen u = true := by
    rw [State.segOpen, State.acqState_of_frame hRaised (by simp [ACQ_STAT, ACQ_OVR_CNT, ACQ_EVT])]
    exact hOpen
  rw [State.segFlag, if_pos hStill, State.acq_setAcq_self]
  rfl

theorem acqRangingEnd_due (hRanging : (s.acq u).ranging = some d) (hDue : d ≤ s.time.up) : execAcqRangingEnd u s =
    .next (((acqSettle u s).setAcq u { (acqSettle u s).acq u with ranging := none }).setBit (ACQ_STAT u) 9 false) := by
  simp only [execAcqRangingEnd, hRanging, State.atDue_now hDue]

theorem acqRangingEnd_none (hRanging : (s.acq u).ranging = none) : execAcqRangingEnd u s = .next s := by
  simp only [execAcqRangingEnd, hRanging]

end Sys2Proof.Machine

open Sys2Proof Sys2Proof.Machine

/-- Settles O30: a complete segment by `finishSegment_ends` and what follows it, the end (`acqDone_ends`) or the next segment
(`acqRearm_rearms`); the overrun of a stream by the same; a block of the stream by `blockWritten`; an over-range input by
`overrange_seen`. -/
theorem segmentsReachTheirSlot : Obligations.SegmentsReachTheirSlot := by
  rintro u s r hu rfl
  refine ⟨fun x samples hPost hTrig hDue => ?_, fun hIdle _ => segmentComplete_idle hIdle, fun x hPost hTrig hStream hDue => ?_,
    fun x samples hTrig hStream hRing => ⟨fun hFull => congrArg _ (streamBlock_full hTrig hFull), fun hRoom hTaken hSamples => ?_⟩,
    fun nv => ⟨fun hOut => ?_, acqOverrange_inside⟩, fun d hRanging hDue => ?_, acqRangingEnd_none⟩
  · have hExec := segmentComplete_due (samples := samples) hu hPost hTrig hDue
    by_cases hLast : ((acqSettle u s).acq u).stream = true ∨ ((acqSettle u s).acq u).segs ≤ ((acqSettle u s).acq u).seg + 1
    · obtain ⟨n, hDone⟩ := segmentDone_last (x := x) (samples := samples) hLast
      obtain ⟨hSegment, hQueued, hHeader, hOutside⟩ := finishSegment_ends (u := u) (n := n) (samples := samples) (x := x) (s := acqSettle u s)
      obtain ⟨hState, hCode, hEvent, hRaised, -, hResults, hFrame⟩ :=
        acqDone_ends (u := u) (code := 0x1110) (s := finishSegment u n samples x (acqSettle u s)) (by decide)
      refine ⟨_, hExec.trans (congrArg _ hDone), ?_, hRaised 1 hSegment, fun _ => ⟨hState, hCode, hEvent⟩, fun hPlain hNext => ?_,
        fun _ hSize => ⟨?_, fun k hk => (hFrame.mem k).trans (hOutside hSize k hk)⟩⟩
      · rw [State.queue_of_results hResults, hQueued]
      · exact absurd hLast (by simp [hPlain, hNext])
      · exact (State.memRead_congr hFrame.mem ..).trans hHeader
    · obtain ⟨hPlain, hNext⟩ : ((acqSettle u s).acq u).stream = false ∧ ((acqSettle u s).acq u).seg + 1 < ((acqSettle u s).acq u).segs := by
        simpa using hLast
      obtain ⟨n, hDone⟩ := segmentDone_next (x := x) (samples := samples) hPlain hNext
      obtain ⟨hSegment, hQueued, -, -⟩ := finishSegment_ends (u := u) (n := n) (samples := samples) (x := x) (s := acqSettle u s)
      obtain ⟨hState, hSeg, hResults, hEvent⟩ :=
        acqRearm_rearms (u := u) (seg := ((acqSettle u s).acq u).seg + 1) (s := finishSegment u n samples x (acqSettle u s))
      refine ⟨_, hExec.trans (congrArg _ hDone), ?_, (State.bit_of_rd hEvent 1).trans hSegment, fun h => absurd h hLast,
        fun _ _ => ⟨hState, hSeg⟩, fun h => absurd h hLast⟩
      rw [State.queue_of_results hResults, hQueued]
  · obtain ⟨n, hExec⟩ := streamOverrun_due hu hPost hTrig hStream hDue
    obtain ⟨hState, hCode, hEvent, -, -, -, -⟩ :=
      (acqDone_ends (u := u) (code := 0x1112) (s := finishSegment u n [] x (s.segFlag u 3)) (by decide)).evt (b := 6)
    exact ⟨_, hExec, hState, hCode, State.bit_evt_self _ _ _ (by decide), hEvent⟩
  · have hExec := streamBlock_writes hTrig hStream hRing hRoom hTaken hSamples
    obtain ⟨hLength, hBytes⟩ := State.blockSamples_bytes (s := s) (u := u) hSamples
    obtain ⟨hCount, hInside, hOutside, hMem, hRegs⟩ := blockWritten (u := u) (s := s)
      (a := s.wide (ACQ_STRM_ADDR u) 4 + 64 * (s.wide (ACQ_STRM_PROD u) 3 % s.wide (ACQ_STRM_BLK u) 2))
      (data := (s.blockSamples u samples).flatMap (leBytes 2))
    rw [hLength] at hInside hOutside
    exact ⟨_, congrArg Host.Outcome.next hExec, hCount, fun k hk => by rw [hInside k hk, hBytes k hk], hOutside, hMem, hRegs⟩
  · obtain ⟨hCount, hEvent, hFlag, hFrame⟩ := overrange_seen (u := u) (s := acqSettle u s)
    exact ⟨_, acqOverrange_outside hu hOut, hCount, hEvent, hFlag, hFrame⟩
  · refine ⟨_, acqRangingEnd_due hRanging hDue, ?_, State.bit_setBit_self _ _ (by decide), Frame.refl.setAcq.setBit (by simp)⟩
    rw [State.setBit, State.setFld, State.acq_wr, State.acq_setAcq_self]

end

section
/-!
PROOFS. Time measurement: what arming, restarting, ending and the result of a measurement leave of its TDC, its registers and its result
queue (R249, R250, R255, R257, R258).
-/

namespace Sys2Proof.Machine

variable {r s t u : State} {l : List Nat} {c ch code p since v : Nat} {timeout : Bool} {x : Tdc}

/-! A TDC and its state register. -/

theorem State.tdc_congr (h : t.tdcs = s.tdcs) (c : Nat) : t.tdc c = s.tdc c := congrArg (tabGet (fun _ => Tdc.init) · c) h

/-- A row that acts while READY is 1. -/
theorem State.whenReady_next {f : State → State} (hReady : s.bit SYS_STAT 15 = true) (h : f s = t) :
    (Host.Outcome.next (s.whenReady f) : Host.Outcome State Fault Refusal) = .next t := congrArg _ ((State.whenReady_ready hReady f).trans h)

theorem State.tdcState_setTdcState (s : State) (ch : Nat) (h : v < 8) : (s.setTdcState ch v).tdcState ch = v :=
  (State.fld_setFld s (TDC_STAT ch) 15 13 v (by decide) (by decide)).trans (Nat.mod_eq_of_lt h)

theorem State.tdcState_of_frame (h : Frame l s t) (hl : TDC_STAT ch ∉ l) : t.tdcState ch = s.tdcState ch := State.fld_of_rd (h.regs _ hl) 15 13

theorem State.tdcState_setTdc (s : State) (c : Nat) (x : Tdc) : (s.setTdc c x).tdcState ch = s.tdcState ch := rfl

theorem tdcStat_ne (h : c ≠ ch) : TDC_STAT c ≠ TDC_STAT ch := by
  unfold TDC_STAT
  omega

theorem State.tdcState_setTdcState_ne (s : State) (v : Nat) (h : c ≠ ch) : (s.setTdcState ch v).tdcState c = s.tdcState c :=
  State.fld_of_rd (s.rd_wr_ne _ (tdcStat_ne h)) 15 13

/-- The TDC of channel `ch` is in state `v`, no other TDC and no queue has changed, and no register but its TDC_STAT. -/
structure TdcMoves (ch v : Nat) (s t : State) : Prop where
  state : t.tdcState ch = v
  others : ∀ c, c ≠ ch → t.tdc c = s.tdc c
  results : t.results = s.results
  frame : Frame [TDC_STAT ch] s t

theorem tdcRestart_moves : TdcMoves ch 1 s (tdcRestart ch since s) :=
  ⟨State.tdcState_setTdcState _ _ (by decide), fun _ hc => s.tdc_setTdc_ne _ hc, rfl, Frame.refl.setTdc.setFld List.mem_cons_self⟩

theorem tdcRestart_tdc : (tdcRestart ch since s).tdc ch =
    { s.tdc ch with since := since, s := none, e := none, early := false, lost := false, frozen := s.laneFrozen ch } :=
  s.tdc_setTdc_self ch _

theorem tdcIdle_alone (hPeer : (s.tdc ch).peer = none) :
    tdcIdle ch s = (s.setTdc ch { s.tdc ch with peer := none }).setTdcState ch 0 := by
  simp only [tdcIdle, hPeer]

theorem tdcIdle_moves (hPeer : (s.tdc ch).peer = none) : TdcMoves ch 0 s (tdcIdle ch s) := by
  rw [tdcIdle_alone hPeer]
  exact ⟨State.tdcState_setTdcState _ _ (by decide), fun _ hc => s.tdc_setTdc_ne _ hc, rfl, Frame.refl.setTdc.setFld List.mem_cons_self⟩

/-- Channel `p` is IDLE and its TDC is lent to none. -/
def tdcFree (p : Nat) (s : State) : State := (s.setTdc p { s.tdc p with lentTo := none }).setTdcState p 0

theorem tdcFree_tdc : (tdcFree p s).tdc p = { s.tdc p with lentTo := none } := by
  rw [tdcFree, State.setTdcState, State.setFld, State.tdc_wr, State.tdc_setTdc_self]

theorem tdcIdle_lent (hPeer : (s.tdc ch).peer = some p) :
    tdcIdle ch s = ((tdcFree p s).setTdc ch { (tdcFree p s).tdc ch with peer := none }).setTdcState ch 0 := by
  simp only [tdcIdle, hPeer]
  rfl

/-- A measurement of channel `ch` with the peer `p` is over: both TDCs are IDLE. -/
structure PeerFreed (ch p : Nat) (s t : State) : Prop where
  state : t.tdcState ch = 0
  peerState : t.tdcState p = 0
  unlent : (t.tdc p).lentTo = none
  frame : Frame [TDC_STAT ch, TDC_STAT p] s t

theorem tdcIdle_frees (hPeer : (s.tdc ch).peer = some p) (hp : p ≠ ch) : PeerFreed ch p s (tdcIdle ch s) := by
  rw [tdcIdle_lent hPeer]
  refine ⟨State.tdcState_setTdcState _ _ (by decide), ?_, ?_, (Frame.refl.setTdc.setFld (by simp)).setTdc.setFld (by simp)⟩
  · rw [State.tdcState_setTdcState_ne _ _ hp, State.tdcState_setTdc, tdcFree, State.tdcState_setTdcState _ _ (by decide)]
  · rw [State.setTdcState, State.setFld, State.tdc_wr, State.tdc_setTdc_ne _ _ hp, tdcFree_tdc]

/-! The end of a collection (R262). -/

/-- The registers in which a collection of channel `ch` shows. -/
def cdShown (ch : Nat) : List Nat := [TDC_STAT ch, TDC_TSTAT ch, TDC_CODE ch, TDC_EVT ch]

/-- What a collection of channel `ch` and its table leave alone. -/
structure CdStays (ch : Nat) (s t : State) : Prop where
  others : ∀ c, c ≠ ch → t.tdc c = s.tdc c
  time : t.time = s.time
  frame : Frame (cdShown ch) s t

theorem CdStays.refl : CdStays ch s s := ⟨fun _ _ => rfl, rfl, .refl⟩

/-- The collection of channel `ch` is over, its TDC keeping `x`: it is IDLE again, and beside TDC_STAT at most the registers `l` have
changed. -/
structure CdLeft (ch : Nat) (x : Tdc) (l : List Nat) (s t : State) : Prop where
  own : t.tdc ch = x
  others : ∀ c, c ≠ ch → t.tdc c = s.tdc c
  time : t.time = s.time
  idle : s.tdcState ch = 3 → t.tdcState ch = 0
  frame : Frame (TDC_STAT ch :: l) s t

theorem CdLeft.stays (h : CdLeft ch x l s t) (hl : ∀ a ∈ l, a ∈ cdShown ch) : CdStays ch s t :=
  ⟨h.others, h.time, h.frame.mono (List.forall_mem_cons.2 ⟨by simp [cdShown], hl⟩)⟩

/-- Registers beside TDC_STAT change after it. -/
theorem CdLeft.regs (h : CdLeft ch x [] s t) (hTdcs : u.tdcs = t.tdcs) (hTime : u.time = t.time) (hFrame : Frame l t u)
    (hl : TDC_STAT ch ∉ l) : CdLeft ch x l s u :=
  ⟨(State.tdc_congr hTdcs ch).trans h.own, fun c hc => (State.tdc_congr hTdcs c).trans (h.others c hc), hTime.trans h.time,
    fun hCollects => (State.tdcState_of_frame hFrame hl).trans (h.idle hCollects),
    (h.frame.mono (by simp)).trans (hFrame.mono fun _ ha => List.mem_cons_of_mem _ ha)⟩

/-- The TDC of channel `ch` takes `x`, and is IDLE where it collected. -/
def State.cdOver (s : State) (ch : Nat) (x : Tdc) : State :=
  if (s.setTdc ch x).tdcState ch = 3 then (s.setTdc ch x).setTdcState ch 0 else s.setTdc ch x

theorem State.cdOver_left : CdLeft ch x [] s (s.cdOver ch x) := by
  have hOthers : ∀ c, c ≠ ch → (s.setTdc ch x).tdc c = s.tdc c := fun _ hc => s.tdc_setTdc_ne _ hc
  unfold State.cdOver
  split
  · exact ⟨s.tdc_setTdc_self ch x, hOthers, rfl, fun _ => State.tdcState_setTdcState _ _ (by decide),
      Frame.refl.setTdc.setFld List.mem_cons_self⟩
  · next hStill => exact ⟨s.tdc_setTdc_self ch x, hOthers, rfl, fun hCollects => absurd hCollects hStill, Frame.refl.setTdc⟩

/-- What a TDC keeps of a collection that has left no table. -/
def Tdc.uncollected (x : Tdc) : Tdc := { x with collect := none, shadow := [] }

theorem cdEnd_eq : cdEnd ch code s = ((s.cdOver ch (s.tdc ch).uncollected).setFld (TDC_TSTAT ch) 15 14 0).wrN (TDC_CODE ch) code := rfl

theorem cdEnd_left : CdLeft ch (s.tdc ch).uncollected [TDC_TSTAT ch, TDC_CODE ch] s (cdEnd ch code s) :=
  State.cdOver_left.regs rfl rfl ((Frame.refl.setFld (by simp)).wrN (by simp)) (by simp [TDC_STAT, TDC_TSTAT, TDC_CODE])

theorem cdEnd_code (hCode : code < 65536) : (cdEnd ch code s).rdN (TDC_CODE ch) = code := by
  rw [cdEnd_eq, State.rdN, State.wrN, State.rd_wr_self, BitVec.toNat_ofNat, Nat.mod_eq_of_lt hCode]

theorem cdEnd_shadow : (cdEnd ch code s).fld (TDC_TSTAT ch) 15 14 = 0 := by
  rw [cdEnd_eq, State.wrN, State.fld_of_rd (State.rd_wr_ne _ _ (by simp [TDC_TSTAT, TDC_CODE])), State.fld_setFld _ _ _ _ _ (by decide) (by decide),
    Nat.zero_mod]

theorem cdAbort_stays : CdStays ch s (cdAbort ch s) := by
  obtain ⟨hOthers, hTime, hFrame⟩ := (cdEnd_left (s := s) (ch := ch) (code := 0x1215)).stays (by simp [cdShown])
  exact ite_of ⟨hOthers, hTime, hFrame.evt (by simp [cdShown])⟩ .refl

/-! The result of a measurement (R255, R258). -/

/-- A result of channel `ch` has joined its queue, or been dropped where that is full, with the event of each, and TIMEOUT where it timed
out. -/
structure ResultNoted (ch : Nat) (timeout : Bool) (s t : State) : Prop where
  timedOut : timeout = true → t.bit (TDC_EVT ch) 2 = true
  queued : (s.queue (TDC_RES_STAT ch)).items.length < 16 → t.bit (TDC_EVT ch) 1 = true ∧
    (t.queue (TDC_RES_STAT ch)).items.length = (s.queue (TDC_RES_STAT ch)).items.length + 1 ∧ t.rd (TDC_DROP ch) = s.rd (TDC_DROP ch)
  dropped : 16 ≤ (s.queue (TDC_RES_STAT ch)).items.length → t.rdN (TDC_DROP ch) = min 65535 (s.rdN (TDC_DROP ch) + 1) ∧
    t.bit (TDC_EVT ch) 3 = true ∧ (t.queue (TDC_RES_STAT ch)).gap = true ∧
    (t.queue (TDC_RES_STAT ch)).items = (s.queue (TDC_RES_STAT ch)).items

/-- Whatever else changed before the result. -/
theorem ResultNoted.after (h : ResultNoted ch timeout s t) (hResults : s.results = r.results) (hDrop : s.rd (TDC_DROP ch) = r.rd (TDC_DROP ch)) :
    ResultNoted ch timeout r t := by
  obtain ⟨hTimedOut, hQueued, hDropped⟩ := h
  simp only [State.queue_of_results hResults, State.rdN, hDrop] at hQueued hDropped
  exact ⟨hTimedOut, hQueued, hDropped⟩

/-- Whatever state the TDC comes to after it. -/
theorem ResultNoted.moves (h : ResultNoted ch timeout s t) (hMoves : TdcMoves ch v t u) : ResultNoted ch timeout s u := by
  have hEvt := hMoves.frame.regs (TDC_EVT ch) (by simp [TDC_EVT, TDC_STAT])
  have hDrop := hMoves.frame.regs (TDC_DROP ch) (by simp [TDC_DROP, TDC_STAT])
  obtain ⟨hTimedOut, hQueued, hDropped⟩ := h
  constructor <;> simp only [State.rdN, State.bit_of_rd hEvt, hDrop, State.queue_of_results hMoves.results] <;> assumption

/-- A result is noted, and no TDC changes by it. -/
structure ResultLeaves (ch : Nat) (timeout : Bool) (s t : State) : Prop where
  noted : ResultNoted ch timeout s t
  tdcs : t.tdcs = s.tdcs
  time : t.time = s.time
  frame : Frame [TDC_EVT ch, TDC_DROP ch] s t

theorem result_dropped (hFull : 16 ≤ (s.queue (TDC_RES_STAT ch)).items.length) :
    ResultLeaves ch false s (((s.inc (TDC_DROP ch)).evt (TDC_EVT ch) 3).dropResult (TDC_RES_STAT ch)) := by
  refine ⟨⟨fun h => absurd h Bool.false_ne_true, fun hRoom => absurd hFull (Nat.not_le.2 hRoom), fun _ => ⟨?_, ?_, ?_, ?_⟩⟩, rfl, rfl,
    ((Frame.refl.inc (by simp)).evt (by simp)).dropResult⟩
  · have hApart : TDC_DROP ch ≠ TDC_EVT ch := by simp [TDC_DROP, TDC_EVT]
    rw [State.dropResult, State.rdN, State.rd_setQueue, State.rd_evt, if_neg hApart]
    exact State.rdN_inc_self ..
  · exact State.bit_evt_self _ _ _ (by decide)
  · rw [State.dropResult, State.queue_setQueue_self]
  · rw [State.dropResult, State.queue_setQueue_self]
    rfl

theorem result_queued {st : Nat} {ws : List Nat} (hRoom : (s.queue (TDC_RES_STAT ch)).items.length < 16) :
    ResultLeaves ch false s ((s.pushResult (TDC_RES_STAT ch) st ws).evt (TDC_EVT ch) 1) := by
  refine ⟨⟨fun h => absurd h Bool.false_ne_true, fun _ => ⟨State.bit_evt_self _ _ _ (by decide), ?_, ?_⟩,
    fun hFull => absurd hFull (Nat.not_le.2 hRoom)⟩, rfl, rfl, Frame.refl.pushResult.evt (by simp)⟩
  · rw [State.queue_evt, State.items_pushResult, List.length_append, List.length_singleton]
  · have hApart : TDC_DROP ch ≠ TDC_EVT ch := by simp [TDC_DROP, TDC_EVT]
    rw [State.rd_evt, if_neg hApart]
    rfl

theorem ResultLeaves.timesOut (h : ResultLeaves ch false s t) : ResultLeaves ch true s (t.evt (TDC_EVT ch) 2) := by
  obtain ⟨⟨-, hQueued, hDropped⟩, hTdcs, hTime, hFrame⟩ := h
  have hApart : TDC_DROP ch ≠ TDC_EVT ch := by simp [TDC_DROP, TDC_EVT]
  have hDrop : (t.evt (TDC_EVT ch) 2).rd (TDC_DROP ch) = t.rd (TDC_DROP ch) := (State.rd_evt ..).trans (if_neg hApart)
  refine ⟨⟨fun _ => State.bit_evt_self _ _ _ (by decide), fun hRoom => ?_, fun hFull => ?_⟩, hTdcs, hTime, hFrame.evt (by simp)⟩
  · obtain ⟨hEvent, hLength, hCount⟩ := hQueued hRoom
    exact ⟨State.bit_evt_of_bit hEvent, hLength, hDrop.trans hCount⟩
  · obtain ⟨hCount, hEvent, hQueue⟩ := hDropped hFull
    exact ⟨(congrArg BitVec.toNat hDrop).trans hCount, State.bit_evt_of_bit hEvent, hQueue⟩

/-- A measurement that completes notes its result, and its TDC waits for the next start or is IDLE. -/
theorem tdcResult_leaves (ch : Nat) (timeout : Bool) (s : State) : ∃ u, ResultLeaves ch timeout s u ∧
    tdcResult ch timeout s = if (s.tdc ch).mode.getLsbD 13 then tdcRestart ch (u.time.up + 1) u else tdcIdle ch u := by
  unfold tdcResult
  extract_lets t a iv leg q flags s1 s2
  have hNoted : ResultLeaves ch false s s1 := by
    unfold s1
    split
    · next hFull => exact result_dropped hFull
    · next hRoom => exact result_queued (Nat.not_le.1 hRoom)
  refine ⟨s2, ?_, rfl⟩
  cases timeout
  · exact hNoted
  · exact hNoted.timesOut

/-- The measurement of channel `ch`, which has no peer, is over: its result is noted, and where it repeats it waits for the next start. -/
structure MeasurementEnds (ch : Nat) (timeout : Bool) (s t : State) : Prop where
  noted : ResultNoted ch timeout s t
  state : t.tdcState ch = ((s.tdc ch).mode.getLsbD 13).toNat
  restarts : (s.tdc ch).mode.getLsbD 13 = true → (t.tdc ch).since = s.time.up + 1 ∧ (t.tdc ch).s = none ∧ (t.tdc ch).e = none
  others : ∀ c, c ≠ ch → t.tdc c = s.tdc c
  frame : Frame [TDC_STAT ch, TDC_EVT ch, TDC_DROP ch] s t

theorem tdcResult_ends (hPeer : (s.tdc ch).peer = none) : MeasurementEnds ch timeout s (tdcResult ch timeout s) := by
  obtain ⟨u, ⟨hNoted, hTdcs, hTime, hFrame⟩, hResult⟩ := tdcResult_leaves ch timeout s
  have hTdc := State.tdc_congr hTdcs
  have hMoves : TdcMoves ch ((s.tdc ch).mode.getLsbD 13).toNat u (tdcResult ch timeout s) := by
    rw [hResult]
    cases (s.tdc ch).mode.getLsbD 13
    · exact tdcIdle_moves ((congrArg Tdc.peer (hTdc ch)).trans hPeer)
    · exact tdcRestart_moves
  refine ⟨hNoted.moves hMoves, hMoves.state, fun hRepeat => ?_, fun c hc => (hMoves.others c hc).trans (hTdc c),
    (hFrame.mono (by simp)).trans (hMoves.frame.mono (by simp))⟩
  rw [hResult, if_pos hRepeat, tdcRestart_tdc, hTime]
  exact ⟨rfl, rfl, rfl⟩

/-- A single measurement with a peer is over: both TDCs are IDLE. -/
theorem tdcResult_frees (hPeer : (s.tdc ch).peer = some p) (hp : p ≠ ch) (hSingle : (s.tdc ch).mode.getLsbD 13 = false) :
    ∃ u, Frame [TDC_EVT ch, TDC_DROP ch] s u ∧ PeerFreed ch p u (tdcResult ch timeout s) := by
  obtain ⟨u, hLeaves, hResult⟩ := tdcResult_leaves ch timeout s
  rw [hSingle] at hResult
  rw [hResult]
  exact ⟨u, hLeaves.frame, tdcIdle_frees ((congrArg Tdc.peer (State.tdc_congr hLeaves.tdcs ch)).trans hPeer) hp⟩

end Sys2Proof.Machine
end

section
/-!
PROOFS. Time measurement: arming, disarming and the timeout (R249, R250, R255, R257, R258).
-/

namespace Sys2Proof.Machine

variable {s t : State} {a c ch code p : Nat} {peer : Option Nat}

/-! The refusals of an arm, in the order of R250. -/

theorem State.tdcArmCode_measuring (h : s.tdcState ch = 1 ∨ s.tdcState ch = 2) : s.tdcArmCode ch = some 0x1201 := if_pos h

theorem State.tdcArmCode_lent (h : s.tdcState ch = 4) : s.tdcArmCode ch = some 0x1202 := by
  simp [State.tdcArmCode, h]

section
variable (hFree : s.tdcState ch = 0 ∨ s.tdcState ch = 3)
include hFree

theorem State.tdcArmCode_off (hMode : tdcMode (s.rd (TDC_MODE ch)) = 0) : s.tdcArmCode ch = some 0x1203 := by
  rcases hFree with h | h <;> simp [State.tdcArmCode, h, hMode]

theorem State.tdcArmCode_source (hMode : tdcMode (s.rd (TDC_MODE ch)) ≠ 0) (hStart : selSource (s.rd (TDC_START ch)) ≥ 5) :
    s.tdcArmCode ch = some 0x1204 := by
  rcases hFree with h | h <;> simp [State.tdcArmCode, h, hMode, hStart]

variable (hMode : tdcMode (s.rd (TDC_MODE ch)) ≠ 0) (hStart : selSource (s.rd (TDC_START ch)) < 5) (hStop : selSource (s.rd (TDC_STOP ch)) < 5)
include hMode hStart hStop

theorem State.tdcArmCode_position (hPeer : 16 < s.fld (TDC_STOP ch) 4 0) : s.tdcArmCode ch = some 0x1205 := by
  rcases hFree with h | h <;> simp [State.tdcArmCode, h, hMode, Nat.not_le.2 hStart, Nat.not_le.2 hStop, hPeer]

theorem State.tdcArmCode_peerBusy (hPosition : s.fld (TDC_STOP ch) 4 0 ≤ 16) (hPeer : s.tdcPeer ch = some p)
    (hBusy : s.tdcState (laneChannel (laneOf ch) p) ≠ 0) : s.tdcArmCode ch = some 0x1206 := by
  rcases hFree with h | h <;>
    simp [State.tdcArmCode, h, hMode, Nat.not_le.2 hStart, Nat.not_le.2 hStop, Nat.not_lt.2 hPosition, hPeer, hBusy]

end

/-! The peer (R249). -/

/-- A peer is another channel of the lane. -/
theorem laneChannel_ne (hch : ch < 2176) (hp : p ≤ 16) (hPos : p ≠ lanePos ch) : laneChannel (laneOf ch) p ≠ ch := by
  unfold laneChannel outriderOf laneOf lanePos at *
  split at hPos <;> split <;> omega

theorem State.tdcArmCode_accepts (hCode : s.tdcArmCode ch = none) : s.fld (TDC_STOP ch) 4 0 ≤ 16 := by
  by_contra hHigh
  simp only [State.tdcArmCode, gt_iff_lt, if_pos (Nat.not_le.1 hHigh)] at hCode
  split_ifs at hCode

theorem State.tdcPeer_ne (hch : ch < 2176) (hCode : s.tdcArmCode ch = none) (hPeer : s.tdcPeer ch = some p) :
    laneChannel (laneOf ch) p ≠ ch := by
  obtain ⟨-, -, hPos, rfl⟩ : (s.rd (TDC_STOP ch)).getLsbD 5 = true ∧ tdcMode (s.rd (TDC_MODE ch)) = 1 ∧
      bitsOf (s.rd (TDC_STOP ch)) 4 0 ≠ lanePos ch ∧ bitsOf (s.rd (TDC_STOP ch)) 4 0 = p := by
    simpa [State.tdcPeer, and_assoc] using hPeer
  exact laneChannel_ne hch (State.tdcArmCode_accepts hCode) hPos

/-! Arming (R250). -/

/-- The module once an arm of channel `ch` has ended a collection under way. -/
def State.cdCleared (s : State) (ch : Nat) : State := if s.tdcState ch = 3 then cdAbort ch s else s

theorem State.cdCleared_stays : CdStays ch s (s.cdCleared ch) := ite_of cdAbort_stays .refl

/-- The TDC of channel `ch` with the settings in force, its stop to come from `peer`. -/
def State.tdcTaken (s : State) (ch : Nat) (peer : Option Nat) : Tdc :=
  { s.tdc ch with
    mode := s.rd (TDC_MODE ch), start := s.rd (TDC_START ch), stop := s.rd (TDC_STOP ch), evsrc := s.rd (TDC_EVSRC ch)
    tmo := s.wide (TDC_TMO ch 0) 3 + 1, peer := peer, peerPhys := (peer.map s.holder).getD 0 }

/-- The TDC of channel `p` is lent to the measurement of channel `ch`. -/
def tdcLend (ch p : Nat) (s : State) : State := (s.setTdc p { s.tdc p with lentTo := some ch }).setTdcState p 4

theorem State.tdcPeer_cleared : (s.cdCleared ch).tdcPeer ch = s.tdcPeer ch := by
  have hStop := (State.cdCleared_stays (s := s) (ch := ch)).frame.regs (TDC_STOP ch)
    (by simp [cdShown, TDC_STOP, TDC_STAT, TDC_TSTAT, TDC_CODE, TDC_EVT])
  have hMode := (State.cdCleared_stays (s := s) (ch := ch)).frame.regs (TDC_MODE ch)
    (by simp [cdShown, TDC_MODE, TDC_STAT, TDC_TSTAT, TDC_CODE, TDC_EVT])
  simp only [State.tdcPeer, hStop, hMode]

theorem tdcArm_refused (hch : ch < 2176) (hCode : s.tdcArmCode ch = some code) :
    tdcArm ch s = ((s.wrN (TDC_CODE ch) code).evt (TDC_EVT ch) 0).refuse (TDC_CTL ch) code := by
  simp only [tdcArm, if_neg (Nat.not_le.2 hch), hCode]

theorem tdcArm_alone (hch : ch < 2176) (hCode : s.tdcArmCode ch = none) (hPeer : s.tdcPeer ch = none) :
    tdcArm ch s = tdcRestart ch (s.cdCleared ch).time.up ((s.cdCleared ch).setTdc ch ((s.cdCleared ch).tdcTaken ch none)) := by
  rw [← State.tdcPeer_cleared] at hPeer
  unfold State.cdCleared at *
  simp only [tdcArm, if_neg (Nat.not_le.2 hch), hCode, hPeer]
  rfl

theorem tdcArm_peer (hch : ch < 2176) (hCode : s.tdcArmCode ch = none) (hPeer : s.tdcPeer ch = some p) :
    tdcArm ch s = tdcRestart ch (s.cdCleared ch).time.up (tdcLend ch (laneChannel (laneOf ch) p)
      ((s.cdCleared ch).setTdc ch ((s.cdCleared ch).tdcTaken ch (some (laneChannel (laneOf ch) p))))) := by
  rw [← State.tdcPeer_cleared] at hPeer
  unfold State.cdCleared at *
  simp only [tdcArm, if_neg (Nat.not_le.2 hch), hCode, hPeer]
  rfl

/-- The settings that an arm takes are those in force before it. -/
theorem State.tdcTaken_cleared : let x := (s.cdCleared ch).tdcTaken ch peer
    x.mode = s.rd (TDC_MODE ch) ∧ x.start = s.rd (TDC_START ch) ∧ x.stop = s.rd (TDC_STOP ch) ∧ x.evsrc = s.rd (TDC_EVSRC ch) ∧
      x.tmo = s.wide (TDC_TMO ch 0) 3 + 1 ∧ x.peer = peer := by
  have hSame (a : Nat) (ha : a < TDC_STAT ch) : (s.cdCleared ch).rd a = s.rd a :=
    State.cdCleared_stays.frame.regs a (by simp only [cdShown, TDC_STAT, TDC_TSTAT, TDC_CODE, TDC_EVT] at *; simp; omega)
  refine ⟨hSame _ ?_, hSame _ ?_, hSame _ ?_, hSame _ ?_, congrArg (· + 1) (State.wide_congr fun i hi => hSame _ ?_), rfl⟩
  all_goals simp only [TDC_MODE, TDC_START, TDC_STOP, TDC_EVSRC, TDC_TMO, TDC_STAT]; omega

/-- TDC_FRZ lies below every channel window. -/
theorem tdcFrz_below (hch : ch < 2176) : TDC_FRZ (laneOf ch / 16) < 0x1000000 := by
  unfold TDC_FRZ laneOf
  split <;> omega

theorem State.laneFrozen_cleared (hch : ch < 2176) : (s.cdCleared ch).laneFrozen ch = s.laneFrozen ch := by
  have hBelow := tdcFrz_below hch
  refine State.bit_of_rd (State.cdCleared_stays.frame.regs _ ?_) _
  simp only [cdShown, TDC_STAT, TDC_TSTAT, TDC_CODE, TDC_EVT, List.mem_cons, List.not_mem_nil, or_false]
  omega

/-- The measurement of channel `ch` has begun with the settings in force, and waits for its start. -/
structure TdcArmed (ch : Nat) (peer : Option Nat) (s t : State) : Prop where
  state : t.tdcState ch = 1
  fresh : (t.tdc ch).s = none ∧ (t.tdc ch).e = none
  settings : (t.tdc ch).mode = s.rd (TDC_MODE ch) ∧ (t.tdc ch).start = s.rd (TDC_START ch) ∧ (t.tdc ch).stop = s.rd (TDC_STOP ch) ∧
    (t.tdc ch).evsrc = s.rd (TDC_EVSRC ch)
  frozen : (t.tdc ch).frozen = s.laneFrozen ch
  peer : (t.tdc ch).peer = peer
  tmo : (t.tdc ch).tmo = s.wide (TDC_TMO ch 0) 3 + 1
  since : (t.tdc ch).since = s.time.up

theorem tdcRestart_arms (hOwn : t.tdc ch = (s.cdCleared ch).tdcTaken ch peer) (hFrozen : t.laneFrozen ch = s.laneFrozen ch) :
    TdcArmed ch peer s (tdcRestart ch (s.cdCleared ch).time.up t) := by
  obtain ⟨hMode, hStart, hStop, hSource, hTmo, hPeer⟩ := State.tdcTaken_cleared (s := s) (ch := ch) (peer := peer)
  constructor
  case state => exact tdcRestart_moves.state
  all_goals rw [tdcRestart_tdc, hOwn]
  case fresh => exact ⟨rfl, rfl⟩
  case settings => exact ⟨hMode, hStart, hStop, hSource⟩
  case frozen => exact hFrozen
  case peer => exact hPeer
  case tmo => exact hTmo
  case since => exact congrArg Time.up State.cdCleared_stays.time

/-- An arm whose stop comes from its own TDC. -/
theorem tdcArm_arms (hch : ch < 2176) (hCode : s.tdcArmCode ch = none) (hPeer : s.tdcPeer ch = none) :
    TdcArmed ch none s (tdcArm ch s) ∧ (∀ c, c ≠ ch → (tdcArm ch s).tdc c = s.tdc c) ∧ Frame [TDC_STAT ch] (s.cdCleared ch) (tdcArm ch s) := by
  rw [tdcArm_alone hch hCode hPeer]
  refine ⟨tdcRestart_arms (State.tdc_setTdc_self ..) (State.laneFrozen_cleared hch), fun c hc => ?_, Frame.refl.setTdc.trans tdcRestart_moves.frame⟩
  rw [tdcRestart_moves.others c hc, State.tdc_setTdc_ne _ _ hc, State.cdCleared_stays.others c hc]

/-- The TDC of channel `p` is lent to the measurement of channel `ch`, and no other has changed. -/
structure TdcLent (ch p : Nat) (s t : State) : Prop where
  state : t.tdcState p = 4
  lentTo : (t.tdc p).lentTo = some ch
  others : ∀ c, c ≠ p → t.tdc c = s.tdc c
  frame : Frame [TDC_STAT p] s t

theorem tdcLend_lends : TdcLent ch p s (tdcLend ch p s) := by
  refine ⟨State.tdcState_setTdcState _ _ (by decide), ?_, fun _ hc => s.tdc_setTdc_ne _ hc, Frame.refl.setTdc.setFld List.mem_cons_self⟩
  rw [tdcLend, State.setTdcState, State.setFld, State.tdc_wr, State.tdc_setTdc_self]

/-- An arm whose stop comes from the TDC of another channel of the lane, which is lent. -/
theorem tdcArm_lends (hch : ch < 2176) (hCode : s.tdcArmCode ch = none) (hPeer : s.tdcPeer ch = some p) :
    let q := laneChannel (laneOf ch) p
    TdcArmed ch (some q) s (tdcArm ch s) ∧ (tdcArm ch s).tdcState q = 4 ∧ ((tdcArm ch s).tdc q).lentTo = some ch ∧
      (∀ c, c ≠ ch → c ≠ q → (tdcArm ch s).tdc c = s.tdc c) ∧ Frame [TDC_STAT ch, TDC_STAT q] (s.cdCleared ch) (tdcArm ch s) := by
  intro q
  have hq : q ≠ ch := State.tdcPeer_ne hch hCode hPeer
  have hArm : tdcArm ch s = _ := tdcArm_peer hch hCode hPeer
  generalize hOwn : (s.cdCleared ch).setTdc ch ((s.cdCleared ch).tdcTaken ch (some q)) = r at hArm
  rw [hArm]
  obtain ⟨hState, hLent, hOthers, hFrame⟩ := tdcLend_lends (ch := ch) (p := q) (s := r)
  have hMoves : TdcMoves ch 1 _ _ := tdcRestart_moves (s := tdcLend ch q r) (since := (s.cdCleared ch).time.up)
  have hBelow := tdcFrz_below hch
  have hApart : TDC_STAT q ∉ [TDC_STAT ch] := by simpa using tdcStat_ne hq
  refine ⟨tdcRestart_arms ?_ ?_, (State.tdcState_of_frame hMoves.frame hApart).trans hState, ?_, fun c hc hcq => ?_, ?_⟩
  · rw [hOthers ch hq.symm, ← hOwn, State.tdc_setTdc_self]
  · refine (State.bit_of_rd (hFrame.regs _ ?_) _).trans ?_
    · rw [List.mem_singleton, TDC_STAT]
      omega
    · rw [← hOwn]
      exact State.laneFrozen_cleared hch
  · rw [hMoves.others q hq, hLent]
  · rw [hMoves.others c hc, hOthers c hcq, ← hOwn, State.tdc_setTdc_ne _ _ hc, State.cdCleared_stays.others c hc]
  · have hTaken : Frame [TDC_STAT ch, TDC_STAT q] (s.cdCleared ch) r := hOwn ▸ Frame.refl.setTdc
    exact (hTaken.trans (hFrame.mono (by simp))).trans (hMoves.frame.mono (by simp))

/-! Disarming and the timeout (R255, R257). -/

theorem tdcDisarm_measuring (h : s.tdcState ch = 1 ∨ s.tdcState ch = 2) : tdcDisarm ch s = tdcIdle ch s := if_pos h

theorem execTdcTimeout_due (h : s.tdcState ch = 1 ∨ s.tdcState ch = 2) (hDue : (s.tdc ch).since + (s.tdc ch).tmo ≤ s.time.up)
    (hWaits : (tdcSettle ch (s.time.up * 65536) s).tdcState ch = 1 ∨ (tdcSettle ch (s.time.up * 65536) s).tdcState ch = 2)
    (hOver : ((tdcSettle ch (s.time.up * 65536) s).tdc ch).since + ((tdcSettle ch (s.time.up * 65536) s).tdc ch).tmo ≤
      (tdcSettle ch (s.time.up * 65536) s).time.up) :
    execTdcTimeout ch s = .next (tdcResult ch true (tdcSettle ch (s.time.up * 65536) s)) := by
  refine congrArg Host.Outcome.next ((if_pos h).trans ((State.atDue_now hDue).trans ?_))
  exact if_pos ⟨hWaits, hOver⟩

end Sys2Proof.Machine

open Sys2Proof Sys2Proof.Machine

/-- Settles O32: the refusals of an arm in their order, the arm of a measurement with its own TDC (`tdcArm_arms`) and with a peer's
(`tdcArm_lends`), the return to IDLE (`tdcIdle_moves`, `tdcIdle_frees`), and the timeout by what a result leaves (`tdcResult_ends`). -/
theorem timeMeasurementsArmAndEnd : Obligations.TimeMeasurementsArmAndEnd := by
  intro ch s hch
  refine ⟨State.tdcArmCode_measuring, State.tdcArmCode_lent, fun hFree => ⟨State.tdcArmCode_off hFree, State.tdcArmCode_source hFree,
    fun hMode hStart hStop => ⟨State.tdcArmCode_position hFree hMode hStart hStop, fun hPosition p hPeer hBusy =>
      State.tdcArmCode_peerBusy hFree hMode hStart hStop hPosition hPeer hBusy⟩⟩, fun hReady => ⟨fun code hCode => ?_, fun hCode => ?_,
    fun hWaits => ⟨fun hAlone => ?_, fun p _ hp hPeer => ?_⟩, fun hNotStart hNotStop => ?_⟩, fun hWaits hDue hStill hAlone hOver => ?_,
    fun hNotStart hNotStop => ?_⟩
  · refine ⟨_, State.whenReady_next hReady (tdcArm_refused hch hCode), ?_, State.bit_evt_self _ _ _ (by decide), fun c => rfl, ((Frame.refl.wrN (by simp)).evt (by simp)).refuse⟩
    rw [State.rd_refuse, State.rd_evt, if_neg (by simp [TDC_CODE, TDC_EVT])]
    exact State.rd_wr_self ..
  · have hArm : exec (.tdcCtlArm ch) s = .next (tdcArm ch s) := State.whenReady_next hReady rfl
    refine ⟨fun hAlone => ?_, fun p hPeer => ?_⟩
    · obtain ⟨hArmed, hOthers, hFrame⟩ := tdcArm_arms hch hCode hAlone
      obtain ⟨hMode, hStart, hStop, hSource⟩ := hArmed.settings
      exact ⟨_, hArm, hArmed.state, hArmed.fresh.1, hArmed.fresh.2, hMode, hStart, hStop, hSource, hArmed.frozen, hArmed.tmo, hArmed.since,
        hOthers, hFrame⟩
    · obtain ⟨hArmed, hState, hLent, hOthers, hFrame⟩ := tdcArm_lends hch hCode hPeer
      exact ⟨_, hArm, hArmed.state, hState, hLent, hArmed.peer, hArmed.tmo, hArmed.since, hOthers, hFrame⟩
  · obtain ⟨hState, hOthers, -, hFrame⟩ := tdcIdle_moves hAlone
    exact ⟨_, State.whenReady_next hReady (tdcDisarm_measuring hWaits), hState, hOthers, hFrame⟩
  · obtain ⟨hState, hPeerState, hUnlent, hFrame⟩ := tdcIdle_frees hPeer hp
    exact ⟨_, State.whenReady_next hReady (tdcDisarm_measuring hWaits), hState, hPeerState, hUnlent,
      hFrame⟩
  · exact State.whenReady_next hReady (if_neg (by simp [hNotStart, hNotStop]))
  · obtain ⟨hNoted, hState, hRestarts, hOthers, hFrame⟩ := tdcResult_ends (timeout := true) hAlone
    exact ⟨_, execTdcTimeout_due hWaits hDue hStill hOver, hNoted.timedOut rfl, hState, hRestarts, hNoted.queued, hNoted.dropped, hOthers,
      hFrame⟩
  · exact congrArg Host.Outcome.next (if_neg (by simp [hNotStart, hNotStop]))

end

section
/-!
PROOFS. Time measurement: code-density collections, the shadow table and its checks, and swaps (R262 to R265, R267, R269).
-/

namespace Sys2Proof.Machine

variable {s t : State} {c ch code d v : Nat} {hits l : List Nat} {kind : WorkKind}

/-! Tables. -/

theorem tabLookup_tableOf_below {d : Nat → Nat} {j k : Nat} (h : j < k) : tabLookup (tableOf d k l) j = none := by
  induction l generalizing k with
  | nil => rfl
  | cons v l ih =>
    rw [tableOf]
    split
    · exact ih (Nat.lt_succ_of_lt h)
    · rw [tabLookup, if_neg (Nat.ne_of_lt h)]
      exact ih (Nat.lt_succ_of_lt h)

/-- A table made from entries reads them back. -/
theorem tabGet_tableOf {d : Nat → Nat} (k i : Nat) : tabGet d (tableOf d k l) (k + i) = l.getD i (d (k + i)) := by
  induction l generalizing k i with
  | nil => rfl
  | cons v l ih =>
    cases i with
    | zero =>
      rw [tableOf]
      split
      · next hNominal =>
        exact (congrArg (·.getD (d k)) (tabLookup_tableOf_below (Nat.lt_succ_self k))).trans hNominal.symm
      · simp [tabGet, tabLookup]
    | succ i =>
      have hNext : k + (i + 1) = k + 1 + i := by omega
      rw [hNext, List.getD_cons_succ, ← ih, tableOf]
      split
      · rfl
      · rw [tabGet, tabLookup, if_neg (by omega), tabGet]

/-! Collections begin and end without a table (R262). -/

theorem cdGo_busy (hch : ch < 2176) (hBusy : s.tdcState ch ≠ 0) : cdGo ch s = (s.wrN (TDC_CODE ch) 0x1210).refuse (TDC_CD_CTL ch) 0x1210 :=
  (if_neg (Nat.not_le.2 hch)).trans (if_pos hBusy)

theorem cdGo_begins (hch : ch < 2176) (hIdle : s.tdcState ch = 0) : cdGo ch s = (cdBegin ch s).setTdcState ch 3 :=
  (if_neg (Nat.not_le.2 hch)).trans (if_neg (not_not.2 hIdle))

theorem cdBegin_collects : ((cdBegin ch s).setTdcState ch 3).fld (TDC_TSTAT ch) 15 14 = 1 ∧
    (((cdBegin ch s).setTdcState ch 3).tdc ch).collect = some s.time.up ∧
    Frame [TDC_STAT ch, TDC_TSTAT ch] s ((cdBegin ch s).setTdcState ch 3) := by
  refine ⟨?_, ?_, (Frame.refl.setTdc.setFld (by simp)).setFld (by simp)⟩
  · rw [State.setTdcState, State.setFld, State.fld_of_rd (State.rd_wr_ne _ _ (by simp [TDC_TSTAT, TDC_STAT])), cdBegin,
      State.fld_setFld _ _ _ _ _ (by decide) (by decide), Nat.mod_eq_of_lt (by decide)]
  · rw [State.setTdcState, State.setFld, State.tdc_wr, cdBegin, State.setFld, State.tdc_wr, State.tdc_setTdc_self]

theorem cdAbort_collecting (h : (s.tdc ch).collect.isSome = true) : cdAbort ch s = (cdEnd ch 0x1215 s).evt (TDC_EVT ch) 6 := if_pos h

/-- An abort of a collection under way. -/
theorem cdAbort_aborts (h : (s.tdc ch).collect.isSome = true) : ((cdAbort ch s).tdc ch).collect = none ∧
    (cdAbort ch s).rdN (TDC_CODE ch) = 0x1215 ∧ (cdAbort ch s).bit (TDC_EVT ch) 6 = true ∧
    (s.tdcState ch = 3 → (cdAbort ch s).tdcState ch = 0) ∧
    Frame [TDC_STAT ch, TDC_TSTAT ch, TDC_CODE ch, TDC_EVT ch] s (cdAbort ch s) := by
  rw [cdAbort_collecting h]
  have hLeft : CdLeft ch _ _ s (cdEnd ch 0x1215 s) := cdEnd_left
  have hEvent : Frame [TDC_EVT ch] (cdEnd ch 0x1215 s) ((cdEnd ch 0x1215 s).evt (TDC_EVT ch) 6) := Frame.refl.evt List.mem_cons_self
  have hCode := hEvent.regs (TDC_CODE ch) (by simp [TDC_CODE, TDC_EVT])
  refine ⟨congrArg Tdc.collect hLeft.own, (congrArg BitVec.toNat hCode).trans (cdEnd_code (by decide)), State.bit_evt_self _ _ _ (by decide),
    fun hCollects => ?_, (hLeft.frame.mono (by simp)).trans (hEvent.mono (by simp))⟩
  exact (State.tdcState_of_frame hEvent (by simp [TDC_STAT, TDC_EVT])).trans (hLeft.idle hCollects)

theorem cdAbort_idle (h : (s.tdc ch).collect = none) : cdAbort ch s = s := if_neg (by simp [h])

theorem execCdTooFew_due (h : (s.tdc ch).collect = some d) (hDue : d + 2 ^ 30 ≤ s.time.up) : execCdTooFew ch s = .next (cdEnd ch 0x1211 s) := by
  simp only [execCdTooFew, h, State.atDue_now hDue]

/-! The shadow table as the host writes it (R264, R269). -/

/-- A host store of `v` at the index of TDC_TSEL. -/
theorem tdcTableWrite_stores (hch : ch < 2176) : let k := s.fld (TDC_TSEL ch) 7 0
    tdcTableWrite ch v s = ((s.setTdc ch { s.tdc ch with shadow := tabSet (fun _ => 0) (s.tdc ch).shadow k (v % 65536) }).setFld
      (TDC_TSTAT ch) 15 14 0).setFld (TDC_TSEL ch) 7 0 (k + 1) := if_neg (Nat.not_le.2 hch)

/-- The shadow table of channel `ch` holds `v` at `k` and is EMPTY again, and the index has moved on. -/
structure EntryStored (ch k v : Nat) (s t : State) : Prop where
  entry : t.tdcShadow ch k = v
  others : ∀ j, j ≠ k → t.tdcShadow ch j = s.tdcShadow ch j
  shadow : t.fld (TDC_TSTAT ch) 15 14 = 0
  index : t.fld (TDC_TSEL ch) 7 0 = (k + 1) % 256
  frame : Frame [TDC_TSTAT ch, TDC_TSEL ch] s t

theorem tdcTableWrite_entry (hch : ch < 2176) : EntryStored ch (s.fld (TDC_TSEL ch) 7 0) (v % 65536) s (tdcTableWrite ch v s) := by
  rw [tdcTableWrite_stores hch]
  generalize s.fld (TDC_TSEL ch) 7 0 = k
  constructor
  case entry => rw [State.tdcShadow, State.setFld, State.tdc_wr, State.setFld, State.tdc_wr, State.tdc_setTdc_self, tabGet_set_self]
  case others =>
    intro j hj
    rw [State.tdcShadow, State.setFld, State.tdc_wr, State.setFld, State.tdc_wr, State.tdc_setTdc_self, tabGet_set_ne hj, State.tdcShadow]
  case shadow =>
    rw [State.setFld, State.fld_of_rd (State.rd_wr_ne _ _ (by simp [TDC_TSTAT, TDC_TSEL])), State.fld_setFld _ _ _ _ _ (by decide) (by decide),
      Nat.zero_mod]
  case index => exact State.fld_setFld _ _ _ _ _ (by decide) (by decide)
  case frame => exact (Frame.refl.setTdc.setFld (by simp)).setFld (by simp)

theorem execTdcTdataRead_ready (hReady : s.bit SYS_STAT 15 = true) (hch : ch < 2176) : execTdcTdataRead ch s =
    .next { (tdcTableRead ch s).2 with read := ⟨(tdcTableRead ch s).1, [], false⟩ } :=
  congrArg Host.Outcome.next ((State.readReady_ready hReady _).trans (if_neg (Nat.not_le.2 hch)))

/-- The state that such a read leaves. -/
theorem tdcTableRead_moves : (tdcTableRead ch s).2 = s.setFld (TDC_TSEL ch) 7 0 (s.fld (TDC_TSEL ch) 7 0 + 1) := rfl

theorem tdcTableRead_index {p : ReadPort} : ({ (tdcTableRead ch s).2 with read := p } : State).fld (TDC_TSEL ch) 7 0 =
    (s.fld (TDC_TSEL ch) 7 0 + 1) % 256 := by
  rw [tdcTableRead_moves]
  exact State.fld_setFld s (TDC_TSEL ch) 7 0 _ (by decide) (by decide)

theorem tdcTableRead_frame {p : ReadPort} : Frame [TDC_TSEL ch] s { (tdcTableRead ch s).2 with read := p } :=
  (Frame.refl.setFld List.mem_cons_self).port

/-! The checks of a shadow (R263, R264). -/

/-- The shadow of channel `ch` is REJECTED with `code`, and no table has changed. -/
structure TableRejected (ch code : Nat) (s t : State) : Prop where
  shadow : t.fld (TDC_TSTAT ch) 15 14 = 3
  code : t.rd (TDC_CODE ch) = BitVec.ofNat 16 code
  event : t.bit (TDC_EVT ch) 5 = true
  tdcs : t.tdcs = s.tdcs
  frame : Frame [TDC_TSTAT ch, TDC_CODE ch, TDC_EVT ch] s t

theorem tdcReject_rejects : TableRejected ch code s (tdcReject ch code s) := by
  refine ⟨?_, ?_, State.bit_evt_self _ _ _ (by decide), rfl, ((Frame.refl.setFld (by simp)).wrN (by simp)).evt (by simp)⟩
  · rw [tdcReject, State.fld, State.rd_evt, if_neg (by simp [TDC_TSTAT, TDC_EVT]), State.wrN,
      State.rd_wr_ne _ _ (by simp [TDC_TSTAT, TDC_CODE])]
    exact State.fld_setFld _ _ _ _ _ (by decide) (by decide)
  · rw [tdcReject, State.rd_evt, if_neg (by simp [TDC_CODE, TDC_EVT]), State.wrN, State.rd_wr_self]

section
variable (hch : ch < 2176)
include hch

theorem tdcTswap_again (h : s.fld (TDC_TSTAT ch) 15 14 ≠ 0) : tdcTswap ch s = tdcSwapRequest ch s :=
  (if_neg (Nat.not_le.2 hch)).trans (if_neg h)

variable (hHost : s.fld (TDC_TSTAT ch) 15 14 = 0)
include hHost

theorem tdcTswap_badCrc
    (hCrc : (crc32c (((List.range 256).map (s.tdcShadow ch)).flatMap (leBytes 2))).toNat ≠ s.wide (TDC_TCRC ch) 2) :
    tdcTswap ch s = tdcReject ch 0x1214 s :=
  (if_neg (Nat.not_le.2 hch)).trans ((if_pos hHost).trans (if_pos hCrc))

variable (hCrc : (crc32c (((List.range 256).map (s.tdcShadow ch)).flatMap (leBytes 2))).toNat = s.wide (TDC_TCRC ch) 2)
include hCrc

theorem tdcTswap_falls (hFalls : increasing ((List.range 256).map (s.tdcShadow ch)) = false) : tdcTswap ch s = tdcReject ch 0x1213 s :=
  (if_neg (Nat.not_le.2 hch)).trans ((if_pos hHost).trans ((if_neg (not_not.2 hCrc)).trans (if_pos (by rw [hFalls]; rfl))))

theorem tdcTswap_rises (hRises : increasing ((List.range 256).map (s.tdcShadow ch)) = true) :
    tdcTswap ch s = tdcSwapRequest ch (s.setFld (TDC_TSTAT ch) 15 14 2) :=
  (if_neg (Nat.not_le.2 hch)).trans ((if_pos hHost).trans ((if_neg (not_not.2 hCrc)).trans (if_neg (by rw [hRises]; decide))))

end

/-! Swaps (R265, R267). -/

theorem State.admitNote_tdcs (s : State) (k : WorkKind) : (s.admitNote k).tdcs = s.tdcs := by cases k <;> rfl

/-- An item that arrives leaves every TDC alone. -/
theorem State.arrive_tdcs (s : State) (cls origin cost : Nat) (kind : WorkKind) : (s.arrive cls origin cost kind).tdcs = s.tdcs := by
  unfold State.arrive
  extract_lets w q s1 act
  split
  · rfl
  · split
    · exact State.admitNote_tdcs ..
    · rw [State.deferItem, State.log_tdcs, State.evt_tdcs]
      rfl

theorem tdcSwapRequest_unaccepted (h : s.fld (TDC_TSTAT ch) 15 14 ≠ 2) : tdcSwapRequest ch s = s := if_pos h

section
variable (hAccepted : s.fld (TDC_TSTAT ch) 15 14 = 2)
include hAccepted

theorem tdcSwapRequest_frozen (hFrozen : s.laneFrozen ch = true) : tdcSwapRequest ch s = swapFrozen ch s :=
  (if_neg (not_not.2 hAccepted)).trans (if_pos hFrozen)

variable (hThawed : s.laneFrozen ch = false)
include hThawed

theorem tdcSwapRequest_pending (hPending : s.bit (TDC_TSTAT ch) 13 = true) : tdcSwapRequest ch s = s :=
  (if_neg (not_not.2 hAccepted)).trans ((if_neg (by simp [hThawed])).trans (if_pos hPending))

/-- The swap of an accepted shadow becomes stage work. -/
theorem tdcSwapRequest_item (hNew : s.bit (TDC_TSTAT ch) 13 = false) :
    (tdcSwapRequest ch s).hasItem (.tdcSwap ch) ∧ (tdcSwapRequest ch s).tdcs = s.tdcs := by
  have hArrives : tdcSwapRequest ch s = (s.setBit (TDC_TSTAT ch) 13 true).arrive 2 ch (yardCost 2) (.tdcSwap ch) :=
    (if_neg (not_not.2 hAccepted)).trans ((if_neg (by simp [hThawed])).trans (if_neg (by simp [hNew])))
  rw [hArrives]
  exact ⟨(State.arrive_item ..).1, State.arrive_tdcs ..⟩

end

/-- A bit of TDC_TSTAT outside SHADOW. -/
theorem State.bit_setShadow {b : Nat} (s : State) (v : Nat) (hb : b < 14) : (s.setFld (TDC_TSTAT ch) 15 14 v).bit (TDC_TSTAT ch) b =
    s.bit (TDC_TSTAT ch) b := by
  rw [State.bit, State.rd_setFld, if_pos rfl, getLsbD_withBits _ _ _ _ _ (by decide) (by decide), if_neg (by omega), State.bit]

theorem tdcShown_frz (hch : ch < 2176) (o : Nat) : TDC_FRZ (laneOf ch / 16) ≠ 0x1000000 + o + 0x1000 * ch := by
  unfold TDC_FRZ laneOf
  split <;> omega

/-- A host table that passes is accepted, and its swap becomes stage work. -/
theorem tdcSwapRequest_host (hch : ch < 2176) (hThawed : s.laneFrozen ch = false) (hNew : s.bit (TDC_TSTAT ch) 13 = false) :
    (tdcSwapRequest ch (s.setFld (TDC_TSTAT ch) 15 14 2)).hasItem (.tdcSwap ch) ∧
      (tdcSwapRequest ch (s.setFld (TDC_TSTAT ch) 15 14 2)).tdcs = s.tdcs := by
  have hFrz : TDC_FRZ (laneOf ch / 16) ≠ TDC_TSTAT ch := tdcShown_frz hch 0x27A
  exact tdcSwapRequest_item (State.fld_setFld _ _ _ _ _ (by decide) (by decide))
    ((State.bit_of_rd (State.rd_wr_ne _ _ hFrz) _).trans hThawed) ((s.bit_setShadow 2 (by decide)).trans hNew)

/-- The swap of channel `ch` is held, which TDC_TSTAT, TDC_CODE and TDC_EVT show. -/
structure SwapHeld (ch : Nat) (s t : State) : Prop where
  held : (t.tdc ch).held = true
  pending : t.bit (TDC_TSTAT ch) 13 = true
  code : t.rdN (TDC_CODE ch) = 0x1216
  event : t.bit (TDC_EVT ch) 8 = true
  sched : t.sched = s.sched
  frame : Frame [TDC_TSTAT ch, TDC_CODE ch, TDC_EVT ch] s t

theorem swapFrozen_holds : SwapHeld ch s (swapFrozen ch s) := by
  refine ⟨?_, ?_, ?_, State.bit_evt_self _ _ _ (by decide), rfl, ((Frame.refl.setTdc.setBit (by simp)).wrN (by simp)).evt (by simp)⟩
  · rw [swapFrozen, State.tdc_evt, State.wrN, State.tdc_wr, State.setBit, State.setFld, State.tdc_wr, State.tdc_setTdc_self]
  · rw [swapFrozen, State.bit, State.rd_evt, if_neg (by simp [TDC_TSTAT, TDC_EVT]), State.wrN,
      State.rd_wr_ne _ _ (by simp [TDC_TSTAT, TDC_CODE])]
    exact State.bit_setBit_self _ _ (by decide)
  · rw [swapFrozen, State.rdN, State.rd_evt, if_neg (by simp [TDC_CODE, TDC_EVT]), State.wrN, State.rd_wr_self]
    rfl

/-! All hits of a collection (R263). -/

/-- The hits that a collection of channel `ch` was to count. -/
structure HitsCounted (ch : Nat) (hits : List Nat) (s : State) : Prop where
  collects : (s.tdc ch).collect.isSome = true
  taps : hits.length = 256
  total : hits.foldl (· + ·) 0 = s.cdHits ch

theorem HitsCounted.guard (h : HitsCounted ch hits s) : ¬ ((s.tdc ch).collect.isNone || decide (hits.length ≠ 256) ||
    decide (hits.foldl (· + ·) 0 ≠ s.cdHits ch)) = true := by
  simp [Option.isSome_iff_ne_none.1 h.collects, h.taps, h.total]

/-- A TDC whose shadow table is the one that a collection gave. -/
def Tdc.counted (x : Tdc) (table : List Nat) : Tdc := { x with collect := none, shadow := tableOf (fun _ => 0) 0 table }

/-- The module with the density table of channel `ch` in its shadow, not yet judged. -/
def State.cdCounted (s : State) (ch : Nat) (hits : List Nat) : State :=
  s.cdOver ch ((s.tdc ch).counted (densityTable (s.cdHits ch) 0 hits))

section
variable (hCounted : HitsCounted ch hits s)
include hCounted

theorem cdComplete_accepts (hCode : densityCode (s.cdHits ch) hits = none) :
    cdComplete ch hits s = ((s.cdCounted ch hits).setFld (TDC_TSTAT ch) 15 14 2).evt (TDC_EVT ch) 4 := by
  refine (if_neg hCounted.guard).trans ?_
  simp only [hCode]
  rfl

theorem cdComplete_rejects (hCode : densityCode (s.cdHits ch) hits = some code) :
    cdComplete ch hits s = tdcReject ch code (s.cdCounted ch hits) := by
  refine (if_neg hCounted.guard).trans ?_
  simp only [hCode]
  rfl

/-- Accepted or rejected, the density table is the shadow. -/
theorem cdComplete_left : CdLeft ch ((s.tdc ch).counted (densityTable (s.cdHits ch) 0 hits)) [TDC_TSTAT ch, TDC_CODE ch, TDC_EVT ch] s
    (cdComplete ch hits s) ∧ (cdComplete ch hits s).cal = s.cal := by
  have hOver : CdLeft ch _ [] s (s.cdCounted ch hits) := State.cdOver_left
  have hCal : (s.cdCounted ch hits).cal = s.cal := ite_of (Q := fun t : State => t.cal = s.cal) rfl rfl
  have hStat : TDC_STAT ch ∉ [TDC_TSTAT ch, TDC_CODE ch, TDC_EVT ch] := by simp [TDC_STAT, TDC_TSTAT, TDC_CODE, TDC_EVT]
  cases hCode : densityCode (s.cdHits ch) hits with
  | none =>
    rw [cdComplete_accepts hCounted hCode]
    exact ⟨hOver.regs rfl rfl ((Frame.refl.setFld (by simp)).evt (by simp)) hStat, hCal⟩
  | some code =>
    rw [cdComplete_rejects hCounted hCode]
    exact ⟨hOver.regs rfl rfl tdcReject_rejects.frame hStat, hCal⟩

theorem cdComplete_accepted (hCode : densityCode (s.cdHits ch) hits = none) :
    (cdComplete ch hits s).fld (TDC_TSTAT ch) 15 14 = 2 ∧ (cdComplete ch hits s).bit (TDC_EVT ch) 4 = true := by
  rw [cdComplete_accepts hCounted hCode]
  refine ⟨?_, State.bit_evt_self _ _ _ (by decide)⟩
  rw [State.fld, State.rd_evt, if_neg (by simp [TDC_TSTAT, TDC_EVT])]
  exact State.fld_setFld _ _ _ _ _ (by decide) (by decide)

theorem cdComplete_shadow {k : Nat} : (cdComplete ch hits s).tdcShadow ch k = (densityTable (s.cdHits ch) 0 hits).getD k 0 := by
  rw [State.tdcShadow, (cdComplete_left hCounted).1.own, Tdc.counted]
  simpa using tabGet_tableOf (d := fun _ => 0) (l := densityTable (s.cdHits ch) 0 hits) 0 k

theorem cdComplete_laneFrozen (hch : ch < 2176) : (cdComplete ch hits s).laneFrozen ch = s.laneFrozen ch := by
  refine State.bit_of_rd ((cdComplete_left hCounted).1.frame.regs _ ?_) _
  simp only [List.mem_cons, List.not_mem_nil, or_false, not_or]
  exact ⟨tdcShown_frz hch 0x220, tdcShown_frz hch 0x27A, tdcShown_frz hch 0x224, tdcShown_frz hch 0x222⟩

theorem cdComplete_pending (hCode : densityCode (s.cdHits ch) hits = none) :
    (cdComplete ch hits s).bit (TDC_TSTAT ch) 13 = s.bit (TDC_TSTAT ch) 13 := by
  have hOver : CdLeft ch _ [] s (s.cdCounted ch hits) := State.cdOver_left
  rw [cdComplete_accepts hCounted hCode, State.bit, State.rd_evt, if_neg (by simp [TDC_TSTAT, TDC_EVT])]
  exact ((s.cdCounted ch hits).bit_setShadow 2 (by decide)).trans
    (State.bit_of_rd (hOver.frame.regs _ (by simp [TDC_TSTAT, TDC_STAT])) 13)

end

/-- CD_DONE of a collection that no calibration asked for: with AUTO an accepted table asks for its swap. -/
theorem execCdDone_unclaimed (hCounted : HitsCounted ch hits s) (hStep : (s.calJob ch).any (·.collects) = false)
    (hOnly : (s.calJob ch).any (·.tdcOnly) = false) : execCdDone ch hits s =
      .next (if (cdComplete ch hits s).fld (TDC_TSTAT ch) 15 14 = 2 ∧ s.bit (TDC_CD_CFG ch) 15 = true then
        tdcSwapRequest ch (cdComplete ch hits s) else cdComplete ch hits s) := by
  obtain ⟨hLeft, hCal⟩ := cdComplete_left hCounted
  have hJob : (cdComplete ch hits s).calJob ch = s.calJob ch := by simp only [State.calJob, hCal]
  have hAuto : (cdComplete ch hits s).bit (TDC_CD_CFG ch) 15 = s.bit (TDC_CD_CFG ch) 15 :=
    State.bit_of_rd (hLeft.frame.regs _ (by simp [TDC_CD_CFG, TDC_STAT, TDC_TSTAT, TDC_CODE, TDC_EVT])) 15
  simp [execCdDone, hStep, hJob, hOnly, hAuto, hCounted.collects]

end Sys2Proof.Machine

open Sys2Proof Sys2Proof.Machine

/-- Settles O34: collections by what begins and ends them (`cdBegin_collects`, `cdEnd_left`, `cdComplete_left`), the shadow table by its
entries (`tdcTableWrite_entry`, `tabGet_tableOf`) and its checks (`tdcReject_rejects`), and swaps by what a request makes of an accepted
shadow (`tdcSwapRequest_item`, `swapFrozen_holds`). -/
theorem linearityTablesAreCollectedAndSwapped : Obligations.LinearityTablesAreCollectedAndSwapped := by
  intro ch s hch
  refine ⟨fun hReady => ⟨fun hBusy => ?_, fun hIdle => ?_, fun hCollects => ?_, fun hNone => ?_, fun v => ?_,
    ⟨fun hHost => ⟨fun hCrc => ?_, fun hCrc => ⟨fun hFalls => ?_, fun hRises hThawed hNew => ?_⟩⟩,
      fun hAccepted => ⟨fun hFrozen => ?_, fun hThawed hNew => ?_, fun hThawed hPending => ?_⟩, fun hOther => ?_⟩, ?_⟩,
    fun hits hCollects hTaps hTotal hStep hOnly => ?_, fun d hCollects hDue => ?_⟩
  · refine ⟨_, State.whenReady_next hReady (cdGo_busy hch hBusy), ?_, fun _ => rfl, (Frame.refl.wrN (by simp)).refuse⟩
    rw [State.rdN, State.rd_refuse, State.wrN, State.rd_wr_self]
    rfl
  · obtain ⟨hShadow, hCollect, hFrame⟩ := cdBegin_collects (s := s) (ch := ch)
    exact ⟨_, State.whenReady_next hReady (cdGo_begins hch hIdle), State.tdcState_setTdcState _ _ (by decide), hShadow, hCollect, hFrame⟩
  · obtain ⟨hCollect, hCode, hEvent, hState, hFrame⟩ := cdAbort_aborts hCollects
    exact ⟨_, State.whenReady_next hReady rfl, hCollect, hCode, hEvent, hState, hFrame⟩
  · exact State.whenReady_next hReady (cdAbort_idle hNone)
  · obtain ⟨hEntry, hOthers, hShadow, hIndex, hFrame⟩ := tdcTableWrite_entry (s := s) (v := v) hch
    exact ⟨_, State.whenReady_next hReady rfl, hEntry, hOthers, hShadow, hIndex, hFrame⟩
  · obtain ⟨hShadow, hCode, hEvent, hTdcs, hFrame⟩ := tdcReject_rejects (s := s) (ch := ch) (code := 0x1214)
    exact ⟨_, State.whenReady_next hReady (tdcTswap_badCrc hch hHost hCrc), hShadow, (congrArg BitVec.toNat hCode).trans rfl, hEvent,
      State.tdc_congr hTdcs, hFrame⟩
  · obtain ⟨hShadow, hCode, hEvent, hTdcs, hFrame⟩ := tdcReject_rejects (s := s) (ch := ch) (code := 0x1213)
    exact ⟨_, State.whenReady_next hReady (tdcTswap_falls hch hHost hCrc hFalls), hShadow, (congrArg BitVec.toNat hCode).trans rfl, hEvent,
      State.tdc_congr hTdcs, hFrame⟩
  · obtain ⟨hItem, hTdcs⟩ := tdcSwapRequest_host hch hThawed hNew
    exact ⟨_, State.whenReady_next hReady (tdcTswap_rises hch hHost hCrc hRises), hItem, hTdcs⟩
  · obtain ⟨hHeld, hPending, hCode, hEvent, hSched, hFrame⟩ := swapFrozen_holds (s := s) (ch := ch)
    exact ⟨_, State.whenReady_next hReady ((tdcTswap_again hch (by omega)).trans (tdcSwapRequest_frozen hAccepted hFrozen)), hHeld, hPending,
      hCode, hEvent, hSched, hFrame⟩
  · obtain ⟨hItem, hTdcs⟩ := tdcSwapRequest_item hAccepted hThawed hNew
    exact ⟨_, State.whenReady_next hReady (tdcTswap_again hch (by omega)), hItem, hTdcs⟩
  · exact State.whenReady_next hReady ((tdcTswap_again hch (by omega)).trans (tdcSwapRequest_pending hAccepted hThawed hPending))
  · exact State.whenReady_next hReady ((tdcTswap_again hch (by omega)).trans (tdcSwapRequest_unaccepted (by omega)))
  · exact ⟨_, execTdcTdataRead_ready hReady hch, rfl, tdcTableRead_index, rfl, tdcTableRead_frame⟩
  · have hCounted : HitsCounted ch hits s := ⟨hCollects, hTaps, hTotal⟩
    have hDone := execCdDone_unclaimed hCounted hStep hOnly
    obtain ⟨hLeft, -⟩ := cdComplete_left hCounted
    have hCollect : ((cdComplete ch hits s).tdc ch).collect = none := congrArg Tdc.collect hLeft.own
    refine ⟨fun hManual => ?_, fun hAuto hCode hThawed hNew => ?_⟩
    · rw [if_neg (by simp [hManual])] at hDone
      refine ⟨_, hDone, hCollect, fun k _ => cdComplete_shadow hCounted, cdComplete_accepted hCounted, fun code hCode => ?_, hLeft.frame⟩
      rw [cdComplete_rejects hCounted hCode]
      exact ⟨tdcReject_rejects.shadow, tdcReject_rejects.code, tdcReject_rejects.event⟩
    · have hAccepted := (cdComplete_accepted hCounted hCode).1
      rw [if_pos ⟨hAccepted, hAuto⟩] at hDone
      obtain ⟨hItem, hTdcs⟩ := tdcSwapRequest_item hAccepted ((cdComplete_laneFrozen hCounted hch).trans hThawed)
        ((cdComplete_pending hCounted hCode).trans hNew)
      exact ⟨_, hDone, (congrArg Tdc.collect (State.tdc_congr hTdcs ch)).trans hCollect, hItem⟩
  · exact ⟨_, execCdTooFew_due hCollects hDue, congrArg Tdc.collect cdEnd_left.own, cdEnd_code (by decide), cdEnd_shadow, cdEnd_left.frame⟩

end

section
/-!
PROOFS. Time measurement: which measurement an edge on a physical channel serves, and what edges leave of the duties and loans that say so
(R161, R163, R249).
-/

namespace Sys2Proof.Machine

variable {s t : State} {ch d k m o p ph since till v : Nat} {e : Edge} {timeout : Bool}

/-! What time measurement keeps of an outrider. -/

/-- The register that shows the duty of physical channel `o` is as before, and its TDC is lent to none where it was. -/
structure LoanStays (o : Nat) (s t : State) : Prop where
  stat : t.rd (PIN_STAT o) = s.rd (PIN_STAT o)
  unlent : (s.tdc o).lentTo = none → (t.tdc o).lentTo = none

theorem LoanStays.refl : LoanStays o s s := ⟨rfl, id⟩

/-- PIN_STAT stands at another place of its window than the registers of time measurement. -/
theorem pinStat_ne {base : Nat} (m : Nat) (h : base % 0x1000 ≠ 2) : PIN_STAT o ≠ base + 0x1000 * m := by
  unfold PIN_STAT
  omega

section
variable (h : LoanStays o s t)
include h

theorem LoanStays.upd {u : State} (hTdcs : u.tdcs = t.tdcs) (hRegs : u.regs = t.regs) : LoanStays o s u :=
  ⟨(State.rd_congr hRegs _).trans h.stat, fun hNone => (congrArg Tdc.lentTo (State.tdc_congr hTdcs o)).trans (h.unlent hNone)⟩

theorem LoanStays.setTdc {x : Tdc} (hx : (t.tdc m).lentTo = none → x.lentTo = none := by exact id) : LoanStays o s (t.setTdc m x) := by
  refine ⟨h.stat, fun hNone => ?_⟩
  by_cases ho : o = m
  · subst ho
    rw [State.tdc_setTdc_self]
    exact hx (h.unlent hNone)
  · rw [State.tdc_setTdc_ne _ _ ho]
    exact h.unlent hNone

theorem LoanStays.wrN {a : Nat} (ha : PIN_STAT o ≠ a := by exact pinStat_ne _ (by decide)) : LoanStays o s (t.wrN a v) :=
  ⟨(t.rd_wr_ne _ ha).trans h.stat, h.unlent⟩

theorem LoanStays.setTdcState : LoanStays o s (t.setTdcState m v) :=
  ⟨(t.rd_wr_ne _ (pinStat_ne (base := 0x1000220) m (by decide))).trans h.stat, h.unlent⟩

theorem LoanStays.evt {a b : Nat} (ha : PIN_STAT o ≠ a := by exact pinStat_ne _ (by decide)) : LoanStays o s (t.evt a b) :=
  ⟨((t.rd_evt ..).trans (if_neg ha)).trans h.stat, h.unlent⟩

theorem LoanStays.inc {a : Nat} (ha : PIN_STAT o ≠ a := by exact pinStat_ne _ (by decide)) : LoanStays o s (t.inc a) :=
  ⟨((t.rd_inc ..).trans (if_neg ha)).trans h.stat, h.unlent⟩

theorem LoanStays.setQueue {a : Nat} {q : ResQueue} : LoanStays o s (t.setQueue a q) := h.upd rfl rfl

theorem LoanStays.setChan {c : Nat} {x : Chan} : LoanStays o s (t.setChan c x) := h.upd rfl rfl

theorem LoanStays.tdcRestart : LoanStays o s (tdcRestart m since t) := h.setTdc.setTdcState

theorem LoanStays.tdcIdle : LoanStays o s (tdcIdle m t) := by
  cases hPeer : (t.tdc m).peer with
  | none =>
    rw [tdcIdle_alone hPeer]
    exact h.setTdc.setTdcState
  | some p =>
    rw [tdcIdle_lent hPeer]
    exact (h.setTdc fun _ => rfl).setTdcState.setTdc.setTdcState

theorem LoanStays.tdcResult : LoanStays o s (tdcResult m timeout t) := by
  unfold Machine.tdcResult
  extract_lets x a iv leg q flags s1 s2
  have h1 : LoanStays o s s1 := ite_of h.inc.evt.setQueue h.setQueue.evt
  have h2 : LoanStays o s s2 := ite_of h1.evt h1
  exact ite_of h2.tdcRestart h2.tdcIdle

theorem LoanStays.deadTime {w : Int} {stop : Bool} : LoanStays o s (deadTime m ph e w stop t) := ite_of h.setTdc h

theorem LoanStays.earlyStop : LoanStays o s (earlyStop m t) := h.setTdc.inc

theorem LoanStays.edgeLost : LoanStays o s (edgeLost m t) := h.setTdc.inc

theorem LoanStays.stopDisplaced {l : Capture} : LoanStays o s (stopDisplaced m l t) := h.setTdc.wrN.edgeLost

theorem LoanStays.startTaken {x : Stamp} : LoanStays o s (startTaken m x t) := ite_of h.setTdc.tdcResult h.setTdc.setTdcState

theorem LoanStays.stopTaken {x : Stamp} : LoanStays o s (stopTaken m x t) := by
  unfold Machine.stopTaken
  dsimp only
  refine ite_of (ite_of h.setTdc.tdcResult h.setTdc) ?_
  split
  · exact h.earlyStop
  · exact ite_of h.earlyStop h.setTdc.tdcResult

theorem LoanStays.tdcEdgeFor {isStart isStop : Bool} : LoanStays o s (tdcEdgeFor m ph e isStart isStop t) := by
  unfold Machine.tdcEdgeFor
  extract_lets x st wantStart wantStop stamp dead
  refine ite_of h (ite_of ?_ (ite_of h (ite_of h.edgeLost (ite_of h.deadTime.startTaken h.deadTime.stopTaken))))
  split
  · exact h.stopDisplaced.deadTime.startTaken
  · exact h

theorem LoanStays.foldl {β : Type} {ks : List β} {f : State → β → State} (hf : ∀ u, LoanStays o s u → ∀ k, LoanStays o s (f u k)) :
    LoanStays o s (ks.foldl f t) := by
  induction ks generalizing t with
  | nil => exact h
  | cons k ks ih => exact ih (hf t h k)

theorem LoanStays.tdcSettle : LoanStays o s (tdcSettle m till t) := by
  unfold Machine.tdcSettle
  extract_lets l drop
  have hDropped : LoanStays o s (((t.tdc m).peer.toList).foldl drop (drop t m)) := h.setChan.foldl fun _ hu _ => hu.setChan
  exact ite_of h (hDropped.foldl fun _ hu _ => hu.tdcEdgeFor)

end

/-! The duties of a physical channel. -/

/-- What an edge on physical channel `ph` does for the measurement that the TDC of duty `d` serves. -/
def dutyEdge (ph : Nat) (e : Edge) (s : State) (d : Nat) : State :=
  match (s.tdc d).lentTo with
  | some m => tdcEdgeFor m ph e false true (tdcSettle m (s.time.up * 65536) s)
  | none => if d = ph && !s.ownApplied ph then s else tdcEdgeFor d ph e true (s.tdc d).peer.isNone (tdcSettle d (s.time.up * 65536) s)

theorem tdcEdge_eq : tdcEdge ph e s = s.each (s.tdcDuties ph) (dutyEdge ph e) := rfl

theorem dutyEdge_lent (hLent : (s.tdc d).lentTo = some m) :
    dutyEdge ph e s d = tdcEdgeFor m ph e false true (tdcSettle m (s.time.up * 65536) s) := by
  simp only [dutyEdge, hLent]

theorem dutyEdge_own (hLent : (s.tdc d).lentTo = none) (hOwn : d ≠ ph ∨ s.ownApplied ph = true) :
    dutyEdge ph e s d = tdcEdgeFor d ph e true (s.tdc d).peer.isNone (tdcSettle d (s.time.up * 65536) s) := by
  simp only [dutyEdge, hLent]
  exact if_neg (by rcases hOwn with h | h <;> simp [h])

/-- The window of an outrider that holds a duty measures nothing. -/
theorem dutyEdge_kept (hLent : (s.tdc ph).lentTo = none) (hOwn : s.ownApplied ph = false) : dutyEdge ph e s ph = s := by
  simp [dutyEdge, hLent, hOwn]

theorem LoanStays.dutyEdge (h : LoanStays o s t) : LoanStays o s (dutyEdge ph e t d) := by
  unfold Machine.dutyEdge
  split
  · exact h.tdcSettle.tdcEdgeFor
  · exact ite_of h h.tdcSettle.tdcEdgeFor

/-- An outrider that holds a duty holds one of its lane's pins. -/
theorem State.dutyOf_outrider (ho : 2048 ≤ ph) (hDuty : s.dutyOf ph = some d) :
    s.ownApplied ph = false ∧ d = 16 * (ph - 2048) + s.fld (PIN_STAT ph) 3 0 := by
  have hNot : ¬ ph < 2048 := Nat.not_lt.2 ho
  unfold State.dutyOf at hDuty
  rw [if_neg hNot] at hDuty
  split at hDuty
  · next hServes =>
    simp only [Bool.and_eq_true, decide_eq_true_eq] at hServes
    exact ⟨by simp [State.ownApplied, hNot, hServes.1], (Option.some.inj hDuty).symm⟩
  · cases hDuty

theorem State.dutyOf_outrider_lt (hph : ph < 2176) (ho : 2048 ≤ ph) (hDuty : s.dutyOf ph = some d) : d < 2048 := by
  have hField : s.fld (PIN_STAT ph) 3 0 < 2 ^ (3 - 0 + 1) := Nat.mod_lt _ (by decide)
  have := (State.dutyOf_outrider ho hDuty).2
  omega

/-- An edge on a channel that holds a duty serves that duty alone. -/
theorem tdcEdge_held (hDuty : s.dutyOf ph = some d) (hUnlent : 2048 ≤ ph → (s.tdc ph).lentTo = none) : tdcEdge ph e s = dutyEdge ph e s d := by
  by_cases ho : 2048 ≤ ph
  · have hDuties : s.tdcDuties ph = [d, ph] := by rw [State.tdcDuties, hDuty, if_neg (Nat.not_lt.2 ho)]; rfl
    have hStays : LoanStays ph s (dutyEdge ph e s d) := LoanStays.refl.dutyEdge
    have hOwn : (dutyEdge ph e s d).ownApplied ph = false := by
      rw [← (State.dutyOf_outrider ho hDuty).1, State.ownApplied, State.outState, State.fld_of_rd hStays.stat]
      rfl
    rw [tdcEdge_eq, hDuties]
    exact dutyEdge_kept (hStays.unlent (hUnlent ho)) hOwn
  · rw [tdcEdge_eq, State.tdcDuties, hDuty, if_pos (Nat.not_le.1 ho)]
    rfl

/-- A parked outrider's edge serves its own window. -/
theorem tdcEdge_parked (ho : 2048 ≤ ph) (hNone : s.dutyOf ph = none) : tdcEdge ph e s = dutyEdge ph e s ph := by
  rw [tdcEdge_eq, State.tdcDuties, hNone, if_neg (Nat.not_lt.2 ho)]
  rfl

/-- An edge serves the measurement of the channel whose duty `ph` holds, or of the parked outrider `ph` itself, as start and as stop. -/
theorem tdcEdge_serves (hph : ph < 2176) (hDuty : s.dutyOf ph = some ch ∨ (s.dutyOf ph = none ∧ ch = ph ∧ 2048 ≤ ph ∧ s.ownApplied ph = true))
    (hUnlent : 2048 ≤ ph → (s.tdc ph).lentTo = none) (hLent : (s.tdc ch).lentTo = none) (hPeer : (s.tdc ch).peer = none) :
    tdcEdge ph e s = tdcEdgeFor ch ph e true true (tdcSettle ch (s.time.up * 65536) s) := by
  have hEdge : tdcEdge ph e s = dutyEdge ph e s ch ∧ (ch ≠ ph ∨ s.ownApplied ph = true) := by
    rcases hDuty with hHeld | ⟨hNone, rfl, ho, hOwn⟩
    · refine ⟨tdcEdge_held hHeld hUnlent, ?_⟩
      by_cases ho : 2048 ≤ ph
      · have := State.dutyOf_outrider_lt hph ho hHeld
        exact .inl (by omega)
      · exact .inr (by simp [State.ownApplied, Nat.not_le.1 ho])
    · exact ⟨tdcEdge_parked ho hNone, .inr hOwn⟩
  rw [hEdge.1, dutyEdge_own hLent hEdge.2, hPeer]
  rfl

/-- An edge on a channel whose TDC is lent is at most a stop of the measurement that it is lent to. -/
theorem tdcEdge_serves_loan (hDuty : s.dutyOf ph = some d) (hUnlent : 2048 ≤ ph → (s.tdc ph).lentTo = none) (hLent : (s.tdc d).lentTo = some m) :
    tdcEdge ph e s = tdcEdgeFor m ph e false true (tdcSettle m (s.time.up * 65536) s) :=
  (tdcEdge_held hDuty hUnlent).trans (dutyEdge_lent hLent)

end Sys2Proof.Machine
end

section
/-!
PROOFS. Time measurement: what an edge makes of the measurement that waits for it (R247, R249, R251, R252, R254, R257, R258).
-/

namespace Sys2Proof.Machine

variable {r s t u : State} {d m p ph w : Nat} {e : Edge} {x a : Stamp} {l : Capture} {isStart isStop : Bool}

/-! Which of its outcomes an edge has (R251, R252). -/

/-- Measurement `m` waits, since a clock that is not after that of the edge `e`. -/
structure TdcAwaits (m : Nat) (e : Edge) (s : State) : Prop where
  waits : s.tdcState m = 1 ∨ s.tdcState m = 2
  since : (s.tdc m).since ≤ e.clock

theorem TdcAwaits.guard (h : TdcAwaits m e s) : ¬ ((s.tdcState m ≠ 1 ∧ s.tdcState m ≠ 2) ∨ e.clock < (s.tdc m).since) := by
  have hWaits := h.waits
  have hSince := h.since
  omega

/-- An edge with the stamp `x` comes in the dead time of the delay line of `ph`. -/
def State.deadTo (s : State) (ph : Nat) (x : Stamp) : Bool :=
  (s.tdc ph).last.any fun l => l.when_ ≤ x.when_ && x.when_ - l.when_ ≤ 6 * 65536

section
variable (h : TdcAwaits m e s) (hNone : (s.tdc m).s = none) (hStart : selMatches (s.tdc m).start e.source e.rising = true)
include h hNone hStart

theorem tdcEdgeFor_displaces (hStop : s.stopBefore m ph e = some l) : tdcEdgeFor m ph e true isStop s =
    startTaken m (s.stampOf m ph e) (deadTime m ph e (s.stampOf m ph e).when_ false (stopDisplaced m l s)) := by
  unfold tdcEdgeFor
  simp only [if_neg h.guard, hNone, hStart, hStop]
  rfl

theorem tdcEdgeFor_loses (hNoStop : s.stopBefore m ph e = none) (hDead : (e.line && s.deadTo ph (s.stampOf m ph e)) = true) :
    tdcEdgeFor m ph e true isStop s = edgeLost m s := by
  unfold State.deadTo at hDead
  unfold tdcEdgeFor
  simp only [if_neg h.guard, hNone, hStart, hNoStop, hDead]
  rfl

theorem tdcEdgeFor_starts (hNoStop : s.stopBefore m ph e = none) (hLive : (e.line && s.deadTo ph (s.stampOf m ph e)) = false) :
    tdcEdgeFor m ph e true isStop s = startTaken m (s.stampOf m ph e) (deadTime m ph e (s.stampOf m ph e).when_ false s) := by
  unfold State.deadTo at hLive
  unfold tdcEdgeFor
  simp only [if_neg h.guard, hNone, hStart, hNoStop, hLive]
  rfl

end

theorem tdcEdgeFor_stops (h : TdcAwaits m e s)
    (hNoStart : (isStart && (s.tdc m).s.isNone && selMatches (s.tdc m).start e.source e.rising) = false)
    (hMode : tdcMode (s.tdc m).mode = 1) (hNone : (s.tdc m).e = none) (hStop : selMatches (s.tdc m).stop e.source e.rising = true)
    (hLive : (e.line && s.deadTo ph (s.stampOf m ph e)) = false) :
    tdcEdgeFor m ph e isStart true s =
      stopTaken m (s.stampOf m ph e) (deadTime m ph e (s.stampOf m ph e).when_ (s.tdc m).s.isNone s) := by
  unfold State.deadTo at hLive
  unfold tdcEdgeFor
  simp only [if_neg h.guard, hNoStart, hMode, hNone, hStop, hLive]
  rfl

/-! What each outcome leaves. -/

/-- Beside the edges captured last, no TDC, queue or register has changed. -/
structure LastOnly (s t : State) : Prop where
  tdc : ∀ c, ∃ l, t.tdc c = { s.tdc c with last := l }
  results : t.results = s.results
  chans : t.chans = s.chans
  frame : Frame [] s t

theorem deadTime_last {v : Int} {stop : Bool} : LastOnly s (deadTime m ph e v stop s) := by
  unfold deadTime
  split
  · refine ⟨fun c => ?_, rfl, rfl, Frame.refl.setTdc⟩
    by_cases hc : c = ph
    · subst hc
      exact ⟨_, s.tdc_setTdc_self c _⟩
    · exact ⟨_, s.tdc_setTdc_ne _ hc⟩
  · exact ⟨fun c => ⟨(s.tdc c).last, rfl⟩, rfl, rfl, .refl⟩

/-- A lost edge of measurement `m` is counted, and flags it. -/
theorem edgeLost_counts : (edgeLost m s).rdN (TDC_LOST m) = min 65535 (s.rdN (TDC_LOST m) + 1) ∧
    (edgeLost m s).tdc m = { s.tdc m with lost := true } ∧ Frame [TDC_LOST m] s (edgeLost m s) :=
  ⟨State.rdN_inc_self .., s.tdc_setTdc_self m _, Frame.refl.setTdc.inc List.mem_cons_self⟩

/-- An early stop of measurement `m` is counted, and flags it. -/
theorem earlyStop_counts : (earlyStop m s).rdN (TDC_EARLY_STOP m) = min 65535 (s.rdN (TDC_EARLY_STOP m) + 1) ∧
    (earlyStop m s).tdc m = { s.tdc m with early := true } ∧ Frame [TDC_EARLY_STOP m] s (earlyStop m s) :=
  ⟨State.rdN_inc_self .., s.tdc_setTdc_self m _, Frame.refl.setTdc.inc List.mem_cons_self⟩

/-- The stop of measurement `m` that a start of the same instant displaces is lost, and no longer an early one. -/
structure StopDisplaced (m : Nat) (l : Capture) (s t : State) : Prop where
  tdc : t.tdc m = { s.tdc m with e := none, early := l.early, lost := true }
  count : t.rdN (TDC_LOST m) = min 65535 (s.rdN (TDC_LOST m) + 1)
  early : t.rd (TDC_EARLY_STOP m) = BitVec.ofNat 16 l.count
  frame : Frame [TDC_LOST m, TDC_EARLY_STOP m] s t

theorem stopDisplaced_displaces : StopDisplaced m l s (stopDisplaced m l s) := by
  unfold stopDisplaced
  generalize hTaken : (s.setTdc m { s.tdc m with e := none, early := l.early }).wrN (TDC_EARLY_STOP m) l.count = t
  have hOwn : t.tdc m = { s.tdc m with e := none, early := l.early } := by
    rw [← hTaken, State.wrN, State.tdc_wr, State.tdc_setTdc_self]
  have hTake : Frame [TDC_EARLY_STOP m] s t := hTaken ▸ Frame.refl.setTdc.wrN List.mem_cons_self
  obtain ⟨hCount, hLost, hFrame⟩ := edgeLost_counts (s := t) (m := m)
  refine ⟨by rw [hLost, hOwn], ?_, ?_, (hTake.mono (by simp)).trans (hFrame.mono (by simp))⟩
  · rw [hCount, State.rdN, hTake.regs _ (by simp [TDC_LOST, TDC_EARLY_STOP]), State.rdN]
  · rw [hFrame.regs _ (by simp [TDC_LOST, TDC_EARLY_STOP]), ← hTaken, State.wrN, State.rd_wr_self]

/-- Measurement `m` has its start `x` and waits for its stop. -/
structure StartRecorded (m : Nat) (x : Stamp) (s t : State) : Prop where
  state : t.tdcState m = 2
  tdc : ∃ p k, t.tdc m = { s.tdc m with s := some x, peerPhys := p, last := k }
  chans : t.chans = s.chans
  frame : Frame [TDC_STAT m] s t

theorem startTaken_records (hLast : LastOnly s t) (hMode : tdcMode (s.tdc m).mode = 1) (hUnipolar : (s.tdc m).mode.getLsbD 12 = false) :
    StartRecorded m x s (startTaken m x t) := by
  obtain ⟨k, hTdc⟩ := hLast.tdc m
  have hTaken : ∃ p, startTaken m x t = (t.setTdc m { t.tdc m with s := some x, peerPhys := p }).setTdcState m 2 := by
    refine ⟨((t.tdc m).peer.map t.holder).getD 0, ?_⟩
    unfold startTaken
    simp only [hTdc, hMode, hUnipolar]
    rfl
  obtain ⟨p, hTaken⟩ := hTaken
  rw [hTaken]
  refine ⟨State.tdcState_setTdcState _ _ (by decide), ⟨p, k, ?_⟩, hLast.chans, (hLast.frame.mono (by simp)).setTdc.setFld List.mem_cons_self⟩
  rw [State.setTdcState, State.setFld, State.tdc_wr, State.tdc_setTdc_self, hTdc]

/-- Measurement `m` has its start `x`, and the stop taken before it is lost. -/
structure StartDisplaces (m : Nat) (x : Stamp) (l : Capture) (s t : State) : Prop where
  state : t.tdcState m = 2
  tdc : ∃ p k, t.tdc m = { s.tdc m with s := some x, e := none, early := l.early, lost := true, peerPhys := p, last := k }
  count : t.rdN (TDC_LOST m) = min 65535 (s.rdN (TDC_LOST m) + 1)
  early : t.rd (TDC_EARLY_STOP m) = BitVec.ofNat 16 l.count
  frame : Frame [TDC_STAT m, TDC_LOST m, TDC_EARLY_STOP m] s t

theorem startTaken_displaces (hLast : LastOnly (stopDisplaced m l s) t) (hMode : tdcMode (s.tdc m).mode = 1)
    (hUnipolar : (s.tdc m).mode.getLsbD 12 = false) : StartDisplaces m x l s (startTaken m x t) := by
  obtain ⟨hOwn, hCount, hEarly, hFrame⟩ := stopDisplaced_displaces (s := s) (m := m) (l := l)
  obtain ⟨hState, ⟨p, k, hTdc⟩, -, hStat⟩ := startTaken_records (x := x) hLast (by rw [hOwn]; exact hMode) (by rw [hOwn]; exact hUnipolar)
  refine ⟨hState, ⟨p, k, by rw [hTdc, hOwn]⟩, ?_, ?_, (hFrame.mono (by simp)).trans (hStat.mono (by simp))⟩
  · rw [State.rdN, hStat.regs _ (by simp [TDC_LOST, TDC_STAT])]
    exact hCount
  · rw [hStat.regs _ (by simp [TDC_EARLY_STOP, TDC_STAT])]
    exact hEarly

/-- Measurement `m`, which has no peer, is complete: its result is queued where there is room, and it is IDLE or waits again. -/
structure TdcCompleted (m : Nat) (s t : State) : Prop where
  state : t.tdcState m = ((s.tdc m).mode.getLsbD 13).toNat
  queued : (s.queue (TDC_RES_STAT m)).items.length < 16 → t.bit (TDC_EVT m) 1 = true ∧
    (t.queue (TDC_RES_STAT m)).items.length = (s.queue (TDC_RES_STAT m)).items.length + 1
  frame : Frame [TDC_STAT m, TDC_EVT m, TDC_DROP m] s t

theorem tdcResult_completes (hMode : (t.tdc m).mode = (s.tdc m).mode) (hPeer : (t.tdc m).peer = none) (hResults : t.results = s.results)
    (hFrame : Frame [] s t) : TdcCompleted m s (tdcResult m false t) := by
  obtain ⟨hNoted, hState, -, -, hEnds⟩ := tdcResult_ends (timeout := false) hPeer
  obtain ⟨-, hQueued, -⟩ := hNoted.after hResults (hFrame.regs _ List.not_mem_nil)
  exact ⟨by rw [hState, hMode], fun hRoom => ⟨(hQueued hRoom).1, (hQueued hRoom).2.1⟩, (hFrame.mono (by simp)).trans hEnds⟩

theorem startTaken_completes (hLast : LastOnly s t) (hPeer : (s.tdc m).peer = none) (hMode : tdcMode (s.tdc m).mode = 2) :
    TdcCompleted m s (startTaken m x t) := by
  obtain ⟨k, hTdc⟩ := hLast.tdc m
  have hTaken : ∃ q, startTaken m x t = tdcResult m false (t.setTdc m { t.tdc m with s := some x, peerPhys := q }) :=
    ⟨_, if_pos (.inl (by rw [hTdc]; exact hMode))⟩
  obtain ⟨q, hTaken⟩ := hTaken
  rw [hTaken]
  refine tdcResult_completes ?_ ?_ hLast.results hLast.frame.setTdc <;> rw [State.tdc_setTdc_self, hTdc]
  exact hPeer

section
variable (hUnipolar : (s.tdc m).mode.getLsbD 12 = false)
include hUnipolar

theorem stopTaken_unstarted (hNone : (s.tdc m).s = none) : stopTaken m x s = earlyStop m s := by
  unfold stopTaken
  simp only [hUnipolar, hNone]
  rfl

variable (hStart : (s.tdc m).s = some a)
include hStart

theorem stopTaken_early (hBefore : x.when_ < a.when_) : stopTaken m x s = earlyStop m s := by
  unfold stopTaken
  simp only [hUnipolar, hStart, if_pos hBefore]
  rfl

theorem stopTaken_late (hAfter : a.when_ ≤ x.when_) : stopTaken m x s = tdcResult m false (s.setTdc m { s.tdc m with e := some x }) := by
  unfold stopTaken
  simp only [hUnipolar, hStart, if_neg (Int.not_lt.2 hAfter)]
  rfl

end

/-- A stop that comes before any start, or earlier than the start taken, is an early one. -/
theorem stopTaken_counts (hLast : LastOnly s t) (hUnipolar : (s.tdc m).mode.getLsbD 12 = false)
    (hEarly : ∀ a, (s.tdc m).s = some a → x.when_ < a.when_) :
    (stopTaken m x t).rdN (TDC_EARLY_STOP m) = min 65535 (s.rdN (TDC_EARLY_STOP m) + 1) ∧
      (∃ k, (stopTaken m x t).tdc m = { s.tdc m with early := true, last := k }) ∧ Frame [TDC_EARLY_STOP m] s (stopTaken m x t) := by
  obtain ⟨k, hTdc⟩ := hLast.tdc m
  have hUni : (t.tdc m).mode.getLsbD 12 = false := by rw [hTdc]; exact hUnipolar
  have hTaken : stopTaken m x t = earlyStop m t := by
    cases hStart : (s.tdc m).s with
    | none => exact stopTaken_unstarted hUni (by rw [hTdc]; exact hStart)
    | some a => exact stopTaken_early hUni (by rw [hTdc]; exact hStart) (hEarly a hStart)
  obtain ⟨hCount, hOwn, hFrame⟩ := earlyStop_counts (s := t) (m := m)
  rw [hTaken]
  refine ⟨?_, ⟨k, by rw [hOwn, hTdc]⟩, (hLast.frame.mono (by simp)).trans hFrame⟩
  rw [hCount, State.rdN, hLast.frame.regs _ List.not_mem_nil, State.rdN]

theorem stopTaken_completes (hLast : LastOnly s t) (hPeer : (s.tdc m).peer = none) (hUnipolar : (s.tdc m).mode.getLsbD 12 = false)
    (hStart : (s.tdc m).s = some a) (hAfter : a.when_ ≤ x.when_) : TdcCompleted m s (stopTaken m x t) := by
  obtain ⟨k, hTdc⟩ := hLast.tdc m
  rw [stopTaken_late (by rw [hTdc]; exact hUnipolar) (by rw [hTdc]; exact hStart) hAfter]
  refine tdcResult_completes ?_ ?_ hLast.results hLast.frame.setTdc <;> rw [State.tdc_setTdc_self, hTdc]
  exact hPeer

/-- A stop taken on a lent TDC frees it. -/
theorem stopTaken_frees (hLast : LastOnly s t) (hPeer : (s.tdc m).peer = some p) (hp : p ≠ m) (hUnipolar : (s.tdc m).mode.getLsbD 12 = false)
    (hSingle : (s.tdc m).mode.getLsbD 13 = false) (hStart : (s.tdc m).s = some a) (hAfter : a.when_ ≤ x.when_) :
    ∃ u, Frame [TDC_EVT m, TDC_DROP m] s u ∧ PeerFreed m p u (stopTaken m x t) := by
  obtain ⟨k, hTdc⟩ := hLast.tdc m
  rw [stopTaken_late (by rw [hTdc]; exact hUnipolar) (by rw [hTdc]; exact hStart) hAfter]
  obtain ⟨u, hFrame, hFreed⟩ := tdcResult_frees (p := p) (s := t.setTdc m { t.tdc m with e := some x })
    (by rw [State.tdc_setTdc_self, hTdc]; exact hPeer) hp (by rw [State.tdc_setTdc_self, hTdc]; exact hSingle)
  exact ⟨u, (hLast.frame.setTdc.mono (by simp)).trans hFrame, hFreed⟩

/-! An edge that a vector gave its instant (R247). -/

/-- No synthetic edge waits on channel `d` any more. -/
def State.synthTaken (s : State) (d : Nat) : State := s.setChan d { s.chan d with synth := [] }

theorem State.synthTaken_holder : (s.synthTaken d).holder d = s.holder d := by
  refine DutiesStay.holder (s := s) (t := s.synthTaken d) ⟨fun _ => rfl, fun c => ?_⟩ d
  by_cases hc : c = d
  · rw [hc, State.synthTaken, State.chan_setChan_self]
  · rw [State.synthTaken, State.chan_setChan_ne _ _ hc]

section
variable {source w : Nat} {up rising : Bool} (hSynth : (s.chan d).synth = [(source, up, w)])
include hSynth

/-- The one edge that waits comes to the measurement of its channel. -/
theorem tdcSettle_one (hPeer : (s.tdc d).peer = none) : tdcSettle d (w + 1) s =
    tdcEdgeFor d (s.holder d) ⟨source, up, w / 65536, w % 65536⟩ true true (s.synthTaken d) := by
  have hWaiting : s.synthOf d (w + 1) = [(d, source, up, w)] := by
    simp [State.synthOf, hSynth, hPeer, sortBy, insertBy]
  have hTaken : (s.chan d).synth.filter (w + 1 ≤ ·.2.2) = [] := by simp [hSynth]
  have hStill : ((s.synthTaken d).tdc d).peer = none := hPeer
  unfold tdcSettle
  simp only [hWaiting, hTaken, hPeer, List.isEmpty_cons, Option.toList_none, List.foldl_nil, List.foldl_cons]
  rw [← State.synthTaken, State.synthTaken_holder, hStill]
  simp

theorem tdcSynth_comes (hDuty : s.dutyOf ph = some d) (hMatch : source = 3 ∨ up = rising) (hDue : w / 65536 ≤ s.time.up)
    (hLent : (s.tdc d).lentTo = none) : tdcSynth ph source rising s = tdcSettle d (w + 1) s := by
  have hNext : s.nextSynth d source rising = some (source, up, w) := by
    rw [State.nextSynth, hSynth, List.find?_cons_of_pos]
    simpa using hMatch
  simp only [tdcSynth, hDuty, hNext, State.atDue_now hDue, hLent]
  rfl

end

theorem execTdcEdge_line {source tap : Nat} {rising : Bool} (h : source ≤ 1) :
    execTdcEdge ph source rising tap s = .next (tdcEdge ph ⟨source, rising, s.time.up, tap⟩ s) := congrArg Host.Outcome.next (if_pos h)

theorem execTdcEdge_synthetic {source tap : Nat} {rising : Bool} (h : source = 2 ∨ source = 3) :
    execTdcEdge ph source rising tap s = .next (tdcSynth ph source rising s) :=
  congrArg Host.Outcome.next ((if_neg (by omega)).trans (if_pos (by omega)))

theorem execTdcEdge_none {source tap : Nat} {rising : Bool} (h : 4 ≤ source) : execTdcEdge ph source rising tap s = .next s :=
  congrArg Host.Outcome.next ((if_neg (by omega)).trans (if_neg (by omega)))

end Sys2Proof.Machine

open Sys2Proof Sys2Proof.Machine

/-- Settles O33: an edge reaches the one measurement that its channel serves (`tdcEdge_serves`, `tdcEdge_serves_loan`), where it is lost,
starts, displaces an earlier stop or stops (`tdcEdgeFor_loses` to `tdcEdgeFor_stops`), each with what it leaves; a waiting synthetic edge
comes with its own instant (`tdcSettle_one`). -/
theorem edgesMakeMeasurements : Obligations.EdgesMakeMeasurements := by
  refine ⟨?_, ?_, fun ph source tap rising s hSource => execTdcEdge_none hSource⟩
  · intro ch ph source tap rising s _ hph hSource hDuty hUnlent e
    have hLine : e.line = true := decide_eq_true hSource
    have hExec : exec (.tdcEdge ph source rising tap) s = .next (tdcEdge ph e s) := execTdcEdge_line hSource
    refine ⟨?_, ?_⟩
    · intro hLent hPeer r hWaits hSince hAlone x dead completed interval
      have hAwaits : TdcAwaits ch e r := ⟨hWaits, hSince⟩
      have hDeadTo : (e.line && r.deadTo ph x) = dead := by rw [hLine, Bool.true_and]; rfl
      have hOuts {t : State} (h : tdcEdgeFor ch ph e true true r = t) : exec (.tdcEdge ph source rising tap) s = .next t :=
        hExec.trans (congrArg _ ((tdcEdge_serves hph hDuty hUnlent hLent hPeer).trans h))
      have hLast {v : Int} {stop : Bool} : LastOnly r (deadTime ch ph e v stop r) := deadTime_last
      refine ⟨fun hNone hSel => ⟨fun hNoStop => ⟨fun hDead => ?_, fun hDead hInterval => ?_, fun hDead hStamp => ?_⟩, fun l hStop hInterval => ?_⟩,
        fun hNone hFree hInterval hOther hSel hDead => ?_, fun a hStart hFree hInterval hSel hDead => ?_⟩
      · obtain ⟨hCount, hOwn, hFrame⟩ := edgeLost_counts (s := r) (m := ch)
        exact ⟨_, hOuts (tdcEdgeFor_loses hAwaits hNone hSel hNoStop (hDeadTo.trans hDead)), hCount, by rw [hOwn], by rw [hOwn, hNone], hFrame⟩
      · obtain ⟨hState, ⟨p, k, hOwn⟩, -, hFrame⟩ := startTaken_records (x := x) (hLast (v := x.when_) (stop := false)) hInterval.1 hInterval.2
        exact ⟨_, hOuts (tdcEdgeFor_starts hAwaits hNone hSel hNoStop (hDeadTo.trans hDead)), hState, by rw [hOwn], hFrame⟩
      · obtain ⟨hState, hQueued, hFrame⟩ := startTaken_completes (x := x) (hLast (v := x.when_) (stop := false)) hAlone hStamp
        exact ⟨_, hOuts (tdcEdgeFor_starts hAwaits hNone hSel hNoStop (hDeadTo.trans hDead)), hState, hQueued, hFrame⟩
      · obtain ⟨hState, ⟨p, k, hOwn⟩, hCount, hEarly, hFrame⟩ := startTaken_displaces (x := x) (l := l)
          (deadTime_last (v := x.when_) (m := ch) (ph := ph) (e := e) (stop := false)) hInterval.1 hInterval.2
        exact ⟨_, hOuts (tdcEdgeFor_displaces hAwaits hNone hSel hStop), hState, by rw [hOwn], by rw [hOwn], by rw [hOwn], hCount, hEarly, hFrame⟩
      · obtain ⟨hCount, ⟨k, hOwn⟩, hFrame⟩ := stopTaken_counts (x := x) (hLast (v := x.when_) (stop := (r.tdc ch).s.isNone)) hInterval.2
          (fun a hStart => by rw [hNone] at hStart; cases hStart)
        exact ⟨_, hOuts (tdcEdgeFor_stops hAwaits (by rw [hNone]; exact hOther) hInterval.1 hFree hSel (hDeadTo.trans hDead)), hCount, by rw [hOwn],
          by rw [hOwn, hNone], by rw [hOwn, hFree], hFrame⟩
      · have hEdge := tdcEdgeFor_stops (isStart := true) hAwaits (by rw [hStart]; rfl) hInterval.1 hFree hSel (hDeadTo.trans hDead)
        refine ⟨fun hAfter => ?_, fun hBefore => ?_⟩
        · obtain ⟨hState, hQueued, hFrame⟩ := stopTaken_completes (x := x) (hLast (v := x.when_) (stop := (r.tdc ch).s.isNone)) hAlone
            hInterval.2 hStart hAfter
          exact ⟨_, hOuts hEdge, hState, hQueued, hFrame⟩
        · obtain ⟨hCount, ⟨k, hOwn⟩, hFrame⟩ := stopTaken_counts (x := x) (hLast (v := x.when_) (stop := (r.tdc ch).s.isNone)) hInterval.2
            (fun b hTaken => by rw [hStart] at hTaken; cases hTaken; exact hBefore)
          exact ⟨_, hOuts hEdge, hCount, by rw [hOwn], by rw [hOwn, hStart], hFrame⟩
    · intro m _ hm hHeld hLent r hWaits hSince hPeer a hStart hNone hMode hUnipolar hSingle hSel hAfter hDead
      have hLive : (e.line && r.deadTo ph (r.stampOf m ph e)) = false := by
        rw [hLine, Bool.true_and]
        exact hDead
      have hEdge := tdcEdgeFor_stops (isStart := false) ⟨hWaits, hSince⟩ rfl hMode hNone hSel hLive
      obtain ⟨u, hFrame, hFreed⟩ := stopTaken_frees (x := r.stampOf m ph e) deadTime_last hPeer hm.symm hUnipolar hSingle hStart hAfter
      exact ⟨_, hExec.trans (congrArg _ ((tdcEdge_serves_loan hHeld hUnlent hLent).trans hEdge)), hFreed.state, hFreed.peerState, hFreed.unlent,
        (hFrame.mono (by simp)).trans (hFreed.frame.mono (by simp))⟩
  · intro d ph source tap w rising up s _ hSource hDuty hSynth hMatch hDue hLent hPeer hState hSince hNone hMode hUnipolar hSel
    have hLine : (⟨source, up, w / 65536, w % 65536⟩ : Edge).line = false := decide_eq_false (show ¬ source ≤ 1 by omega)
    have hEdge := tdcEdgeFor_starts (isStop := true) (ph := s.holder d) (e := ⟨source, up, w / 65536, w % 65536⟩) (s := s.synthTaken d)
      ⟨.inl hState, hSince⟩ hNone hSel (by simp [State.stopBefore, hLine]) (by rw [hLine, Bool.false_and])
    obtain ⟨hStarted, ⟨p, k, hOwn⟩, hChans, hFrame⟩ := startTaken_records
      (x := (s.synthTaken d).stampOf d (s.holder d) ⟨source, up, w / 65536, w % 65536⟩) (m := d) (s := s.synthTaken d) deadTime_last hMode hUnipolar
    refine ⟨_, (execTdcEdge_synthetic hSource).trans (congrArg _
      ((tdcSynth_comes hSynth hDuty hMatch hDue hLent).trans ((tdcSettle_one hSynth hPeer).trans hEdge))), hStarted, ?_, ?_,
      Frame.refl.setChan.trans hFrame⟩
    · rw [hOwn]
      rfl
    · rw [State.chan_congr hChans, State.synthTaken, State.chan_setChan_self]

end

section
/-!
PROOFS. ON of a slice that is not live (R271). A power record names the site that owns its slice, and nothing in the state bounds that
site: CST_SITE_EN of a site beyond the 512 of the module lies in other registers.
-/

namespace Sys2Proof.Machine

/-- A site n whose enable bit, bit n % 16 of CST_SITE_EN (n / 16), is bit 0 of DPS_CTL of slice 0. -/
def aliasOwner : Nat := 25132544

/-- One power slice, its own leader, owned by that site. -/
def ownerCasting : Casting := { Casting.none with powers := [⟨0, 0, false, aliasOwner⟩] }

/-- A ready module with that casting in force. -/
def ownedByAlias : State :=
  ({ State.reset with cast := { State.reset.cast with applied := some ownerCasting } }).setBit SYS_STAT 15 true

/-- The slice is not live: its owner's enable bit, bit 0 of DPS_CTL, is clear. -/
theorem ownedByAlias_notLive : ownedByAlias.sliceLive 0 = false := by decide +kernel

/-- DPS_ON sets that bit, so that it finds the slice live and keeps ON. -/
theorem ownedByAlias_dpsOn : ∃ t, exec (.dpsOn 0) ownedByAlias = .next t ∧ t.bit (DPS_CTL 0) 0 = true :=
  ⟨_, rfl, by decide +kernel⟩

end Sys2Proof.Machine

open Sys2Proof Sys2Proof.Machine

/-- Refutes O36: a slice owned by a site beyond the 512 of the module is not live, and DPS_ON does not refuse it. -/
theorem not_slicesFollowTheirSequence : ¬ Obligations.SlicesFollowTheirSequence := by
  unfold Obligations.SlicesFollowTheirSequence
  intro h
  obtain ⟨hOn, -⟩ := h 0 ownedByAlias (by decide) (by decide +kernel) (by decide +kernel)
  obtain ⟨hRefused, -⟩ := hOn (by decide +kernel)
  obtain ⟨t, ht, hOff, -⟩ := hRefused ownedByAlias_notLive
  obtain ⟨u, hu, hStays⟩ := ownedByAlias_dpsOn
  cases ht.symm.trans hu
  exact absurd (hOff.symm.trans hStays) (by decide)

end

section
/-!
PROOFS. Measurement requests of PMUs and slices (R279, R282): which join the queue of their converter and which are refused; their results
(R280, R281).
-/

namespace Sys2Proof.Machine

variable {s t : State} {b n : Nat} {u : Bool × Nat}

/-! Requests. -/

theorem measUnit_channel (hn : n < 2176) : measUnit (measOfChannel n) = some (false, n) := by
  have hBlock : 0x1000140 ≤ measOfChannel n ∧ (measOfChannel n - 0x1000140) % 0x1000 = 0 ∧ (measOfChannel n - 0x1000140) / 0x1000 = n := by
    unfold measOfChannel
    omega
  obtain ⟨hLow, hStep, hIndex⟩ := hBlock
  simp [measUnit, hLow, hStep, hIndex, hn]

theorem measUnit_slice (hn : n < 256) : measUnit (measOfSlice n) = some (true, n) := by
  have hBlock : ¬ 0x1000140 ≤ measOfSlice n ∧ 0x300040 ≤ measOfSlice n ∧ (measOfSlice n - 0x300040) % 0x100 = 0 ∧
      (measOfSlice n - 0x300040) / 0x100 = n := by
    unfold measOfSlice
    omega
  obtain ⟨hBelow, hLow, hStep, hIndex⟩ := hBlock
  simp [measUnit, hBelow, hLow, hStep, hIndex, hn]

theorem measRefused_of_code {code : Nat} (hCode : code < 65536) (a : Nat) :
    MeasRefused b code s ((s.wrN (PMU_MEAS_CODE b) code).refuse a code) where
  code := by
    change (s.wrN (PMU_MEAS_CODE b) code).rdN (PMU_MEAS_CODE b) = code
    rw [State.rdN, State.wrN, State.rd_wr_self, BitVec.toNat_ofNat, Nat.mod_eq_of_lt hCode]
  converters := rfl
  frame := (Frame.refl.wrN (by simp)).refuse

/-- A request of block `b` joins the queue of converter `k`. -/
def State.measJoins (s : State) (b k : Nat) : State :=
  (s.setAdc k { s.adc k with queue := (s.adc k).queue ++ [(b, s.time.up)] }).setBit (PMU_MEAS_STAT b) 10 true

theorem State.measJoins_queued (s : State) (b k : Nat) : MeasQueued b k s (s.measJoins b k) where
  queue := congrArg Adc.queue (State.adc_setAdc_self s k _)
  pending := State.bit_setBit_self _ _ (by decide)
  converters _ hc := State.adc_setAdc_ne s _ hc
  frame := Frame.refl.setAdc.setBit (by simp)

/-- The PMU is connected, or the slice is live. -/
def State.measurable (s : State) : Bool × Nat → Bool
  | (true, i) => s.sliceLive i
  | (false, ch) => s.bit (PMU_STAT ch) 3

theorem measGo_eq (hu : measUnit b = some u) (hLead : u.1 = true → s.leaderOf u.2 = u.2) : measGo b s =
    if (s.adc (converterOf u)).queue.any (·.1 == b) then (s.wrN (PMU_MEAS_CODE b) 0x1301).refuse (PMU_MEAS_CTL b) 0x1301
    else if !s.measurable u then (s.wrN (PMU_MEAS_CODE b) 0x1302).refuse (PMU_MEAS_CTL b) 0x1302
    else s.measJoins b (converterOf u) := by
  obtain ⟨sl, n⟩ := u
  unfold measGo
  rw [hu]
  dsimp only
  rw [if_neg (by simpa using hLead)]
  cases sl <;> rfl

/-- A member of a gang that does not lead it takes no request (R282). -/
theorem measGo_member (hn : n < 256) (hLead : s.leaderOf n ≠ n) : measGo (measOfSlice n) s = s := by
  simp [measGo, measUnit_slice hn, hLead]

/-- What becomes of the request `go` of a unit whose block is `b` (R279, R282). -/
theorem request_judged {go : Instr} (hGo : exec go s = .next (measGo b s)) (hu : measUnit b = some u)
    (hLead : u.1 = true → s.leaderOf u.2 = u.2) :
    ((s.adc (converterOf u)).queue.any (·.1 == b) = true → ∃ t, exec go s = .next t ∧ MeasRefused b 0x1301 s t) ∧
    ((s.adc (converterOf u)).queue.any (·.1 == b) = false → s.measurable u = false → ∃ t, exec go s = .next t ∧ MeasRefused b 0x1302 s t) ∧
    ((s.adc (converterOf u)).queue.any (·.1 == b) = false → s.measurable u = true →
      ∃ t, exec go s = .next t ∧ MeasQueued b (converterOf u) s t) := by
  have hEq := measGo_eq hu hLead
  refine ⟨fun hWaits => ⟨_, hGo, ?_⟩, fun hFree hNot => ⟨_, hGo, ?_⟩, fun hFree hCan => ⟨_, hGo, ?_⟩⟩
  · rw [hEq, if_pos hWaits]
    exact measRefused_of_code (by decide) _
  · rw [hEq, if_neg (by simp [hFree]), if_pos (by simp [hNot])]
    exact measRefused_of_code (by decide) _
  · rw [hEq, if_neg (by simp [hFree]), if_neg (by simp [hCan])]
    exact State.measJoins_queued ..

/-! Results. -/

/-- The word of PMU_MEAS_FLAGS (R280). -/
def flagsWord (volts : Bool) (range : Nat) (clamped ranged tripped gap ends : Bool) : Nat :=
  let bit := fun (x : Nat) (c : Bool) => if c then 2 ^ x else 0
  bit 0 volts + 2 * range + bit 4 clamped + bit 5 ranged + bit 6 tripped + bit 7 gap + bit 8 ends

section
variable {volts clamped ranged tripped gap ends : Bool} {range : Nat} (hRange : range < 8)
include hRange

theorem flagsWord_clamped : (flagsWord volts range clamped ranged tripped gap ends).testBit 4 = clamped := by
  have hParts : flagsWord volts range clamped ranged tripped gap ends =
      2 ^ 4 * (clamped.toNat + 2 * (ranged.toNat + 2 * (tripped.toNat + 2 * (gap.toNat + 2 * ends.toNat)))) + (volts.toNat + 2 * range) := by
    simp only [flagsWord, Bool.toNat, Bool.cond_eq_ite]
    grind
  have hLow : volts.toNat + 2 * range < 2 ^ 4 := by
    have := Bool.toNat_le volts
    omega
  rw [hParts, Nat.testBit_two_pow_mul_add _ hLow]
  cases clamped <;> simp

theorem flagsWord_tripped : (flagsWord volts range clamped ranged tripped gap ends).testBit 6 = tripped := by
  have hParts : flagsWord volts range clamped ranged tripped gap ends = 2 ^ 6 * (tripped.toNat + 2 * (gap.toNat + 2 * ends.toNat)) +
      (volts.toNat + 2 * range + 16 * clamped.toNat + 32 * ranged.toNat) := by
    simp only [flagsWord, Bool.toNat, Bool.cond_eq_ite]
    grind
  have hLow : volts.toNat + 2 * range + 16 * clamped.toNat + 32 * ranged.toNat < 2 ^ 6 := by
    have := Bool.toNat_le volts
    have := Bool.toNat_le clamped
    have := Bool.toNat_le ranged
    omega
  rw [hParts, Nat.testBit_two_pow_mul_add _ hLow]
  cases tripped <;> simp

end

/-- The codes of a request, read as voltages or as signed currents. -/
def State.measVals (s : State) (u : Bool × Nat) (b : Nat) (codes : List Nat) : List Int :=
  codes.map fun c => if s.measVolts u.1 u.2 b then ((c % 65536 : Nat) : Int) else signed 16 c

/-- A clamp limited the unit during the conversions, which began in clock `start`. -/
def State.clampedSince (s : State) (start : Nat) (clamp : Bool) : Bool × Nat → Bool
  | (true, i) => s.bit (DPS_STAT i) 12 || decide (start < (s.slice i).clampedTill)
  | (false, _) => clamp

/-- A trip of the unit was in force during the conversions, which began in clock `start`. -/
def State.trippedSince (s : State) (start : Nat) : Bool × Nat → Bool
  | (true, i) => s.bit (DPS_STAT i) 11 || decide (start < (s.slice i).trippedTill)
  | (false, ch) => s.bit (PIN_STAT ch) 14 || decide (start < (s.chan ch).trippedTill)

/-- The request of block `b` leaves converter `k`, which is free from now on. -/
def State.measTaken (s : State) (b k : Nat) : State :=
  (s.setAdc k ⟨s.time.up, (s.adc k).queue.filter fun x => x.1 ≠ b⟩).setBit (PMU_MEAS_STAT b) 10 false

/-- The current range that a measurement of the unit shows. -/
def State.rangeShown (s : State) (b : Nat) : Bool × Nat → Nat
  | (true, _) => s.fld (PMU_MEAS_CFG b) 2 1
  | (false, ch) => pmuRange (s.rd (PMU_MODE ch))

theorem State.rangeShown_lt : s.rangeShown b u < 8 := by
  obtain ⟨_ | _, n⟩ := u
  · simp only [State.rangeShown, pmuRange]
    split <;> omega
  · exact Nat.lt_trans (Nat.mod_lt _ (by decide)) (by decide)

/-- The flags of the result of a request whose conversions began in clock `start`. -/
def State.measFlags (s : State) (u : Bool × Nat) (b start : Nat) (codes : List Nat) (clamp : Bool) : Nat :=
  let ends := if s.measVolts u.1 u.2 b then [(0 : Int), 65535] else [-32768, 32767]
  flagsWord (s.measVolts u.1 u.2 b) (s.rangeShown b u) (s.clampedSince start clamp u) (!u.1 && decide (start < (s.chan u.2).rangedTill))
    (s.trippedSince start u) (s.queue (PMU_MEAS_STAT b)).gap ((s.measVals u b codes).any ends.contains)

/-- The words of the result of a request: its mean, minimum, maximum, flags and time. -/
def State.measWords (s : State) (u : Bool × Nat) (b start : Nat) (codes : List Nat) (clamp : Bool) : List Nat :=
  let vals := s.measVals u b codes
  [unsigned 16 (roundDiv (vals.foldl (· + ·) 0) codes.length), unsigned 16 (vals.foldl min (vals.headD 0)),
    unsigned 16 (vals.foldl max (vals.headD 0)), s.measFlags u b start codes clamp] ++ words64 (s.timeOf start)

theorem measDone_eq (hu : measUnit b = some u) (start : Nat) (codes : List Nat) (clamp : Bool) : measDone b start codes clamp s =
    if 4 ≤ (s.queue (PMU_MEAS_STAT b)).items.length then ((s.measTaken b (converterOf u)).inc (PMU_MEAS_DROP b)).dropResult (PMU_MEAS_STAT b)
    else ((s.measTaken b (converterOf u)).pushResult (PMU_MEAS_STAT b) 0 (s.measWords u b start codes clamp)).setBit (PMU_MEAS_STAT b) 15 true := by
  obtain ⟨sl, n⟩ := u
  unfold measDone
  rw [hu]
  cases sl <;> rfl

section
variable {start : Nat} {codes : List Nat} {clamp : Bool} (hu : measUnit b = some u)
include hu

theorem measDone_frame : Frame [PMU_STAT u.2, PMU_MEAS_STAT b, PMU_MEAS_DROP b] s (measDone b start codes clamp s) := by
  rw [measDone_eq hu]
  have hTaken : Frame [PMU_STAT u.2, PMU_MEAS_STAT b, PMU_MEAS_DROP b] s (s.measTaken b (converterOf u)) := Frame.refl.setAdc.setBit (by simp)
  split
  · exact (hTaken.inc (by simp)).dropResult
  · exact hTaken.pushResult.setBit (by simp)

theorem measDone_queue : ((measDone b start codes clamp s).adc (converterOf u)).queue = (s.adc (converterOf u)).queue.filter fun x => x.1 ≠ b := by
  rw [measDone_eq hu]
  split <;> exact congrArg Adc.queue (State.adc_setAdc_self ..)

/-- With fewer than 4 results queued the result joins them. -/
theorem measDone_queues (hRoom : (s.queue (PMU_MEAS_STAT b)).items.length < 4) :
    (measDone b start codes clamp s).bit (PMU_MEAS_STAT b) 15 = true ∧
    ((measDone b start codes clamp s).queue (PMU_MEAS_STAT b)).items = (s.queue (PMU_MEAS_STAT b)).items ++
      [(0, (s.queue (PMU_MEAS_STAT b)).seq :: s.measWords u b start codes clamp)] := by
  rw [measDone_eq hu, if_neg (by omega)]
  exact ⟨State.bit_setBit_self _ _ (by decide), State.items_pushResult ..⟩

/-- With 4 results queued the result is dropped and counted. -/
theorem measDone_drops (hFull : 4 ≤ (s.queue (PMU_MEAS_STAT b)).items.length) :
    (measDone b start codes clamp s).rdN (PMU_MEAS_DROP b) = min 65535 (s.rdN (PMU_MEAS_DROP b) + 1) ∧
    (measDone b start codes clamp s).queue (PMU_MEAS_STAT b) = { s.queue (PMU_MEAS_STAT b) with gap := true } := by
  have hBefore : (s.measTaken b (converterOf u)).rdN (PMU_MEAS_DROP b) = s.rdN (PMU_MEAS_DROP b) :=
    congrArg BitVec.toNat (State.rd_wr_ne _ _ (by unfold PMU_MEAS_DROP PMU_MEAS_STAT; omega))
  have hQueue : ((s.measTaken b (converterOf u)).inc (PMU_MEAS_DROP b)).queue (PMU_MEAS_STAT b) = s.queue (PMU_MEAS_STAT b) :=
    State.queue_of_results (State.incBy_results ..) _
  rw [measDone_eq hu, if_pos hFull, State.dropResult, hQueue, State.queue_setQueue_self, ← hBefore, ← State.rdN_inc_self]
  exact ⟨rfl, rfl⟩

end

/-- A request at the head of its converter whose conversions have been taken completes (R280). -/
theorem exec_measComplete {acc : Nat} {rest : List (Nat × Nat)} {codes : List Nat} {clamp : Bool} (hu : measUnit b = some u)
    (hHead : (s.adc (converterOf u)).queue = (b, acc) :: rest) (hCodes : codes.length = 2 ^ s.fld (PMU_MEAS_CFG b) 15 13)
    (hLane : u.1 = false → s.cal.lanes.contains (converterOf u) = false) {start : Nat}
    (hStart : start = max (acc + 3000 * s.fld (PMU_MEAS_CFG b) 10 3) (s.adc (converterOf u)).free)
    (hDue : start + 3000 * 2 ^ s.fld (PMU_MEAS_CFG b) 15 13 ≤ s.time.up) :
    exec (.measComplete b codes clamp) s = .next (measDone b start codes clamp s) := by
  change execMeasComplete b codes clamp s = _
  unfold execMeasComplete
  rw [hu]
  dsimp only
  rw [hHead]
  dsimp only
  rw [if_neg (by grind), ← hStart, State.atDue_now hDue]

end Sys2Proof.Machine

open Sys2Proof Sys2Proof.Machine

/-- Settles O37: each branch of the judgement of a request, and of the completion of one. -/
theorem measurementsQueueAndComplete : Obligations.MeasurementsQueueAndComplete := by
  unfold Obligations.MeasurementsQueueAndComplete
  refine ⟨fun n s hReady hn => ?_, fun n s hReady hn hLead => ?_, fun n s hReady hn hLead => ?_, ?_⟩
  · exact request_judged (State.whenReady_next hReady rfl) (measUnit_channel hn) nofun
  · exact request_judged (State.whenReady_next hReady rfl) (measUnit_slice hn) fun _ => hLead
  · exact State.whenReady_next hReady (measGo_member hn hLead)
  · intro b n acc sl rest codes clamp s hu hHead hCodes hLane start hDue vals q
    refine ⟨_, exec_measComplete hu hHead hCodes (fun h => by cases h; exact hLane rfl) rfl hDue, ?_, fun hRoom => ?_, fun hFull => ?_,
      measDone_frame hu⟩
    · rw [measDone_queue hu, hHead]
      simp
    · obtain ⟨hShown, hItems⟩ := measDone_queues (start := start) (codes := codes) (clamp := clamp) hu hRoom
      refine ⟨hShown, _, hItems, rfl, rfl, _, rfl, ?_, ?_⟩
      · exact (flagsWord_clamped State.rangeShown_lt).trans (by cases sl <;> rfl)
      · exact (flagsWord_tripped State.rangeShown_lt).trans (by cases sl <;> rfl)
    · obtain ⟨hCount, hQueue⟩ := measDone_drops (start := start) (codes := codes) (clamp := clamp) hu hFull
      exact ⟨hCount, by rw [hQueue], by rw [hQueue]⟩

end

section
/-!
PROOFS. What a trip does to the blocks that it reaches (R154, R160, R274, R288): it leaves the registers of the groups alone, and a driver
or slice trip that is in force stays in force.
-/

namespace Sys2Proof.Machine

variable {s t u : State}

/-- Bit b of register a tells of a driver trip or of a slice trip. -/
def TripBit (a b : Nat) : Prop := (b = 14 ∧ ∃ ch, a = PIN_STAT ch) ∨ (b = 11 ∧ ∃ i < 256, a = DPS_STAT i)

/-- The register tells of no trip, and is none of the blocks of the 512 groups. -/
def OffTrips (a : Nat) : Prop := (a < 0x1C0000 ∨ 0x1C8000 ≤ a) ∧ ∀ b, ¬ TripBit a b

theorem offTrips_low {a : Nat} (h : a < 0x1C0000) : OffTrips a := by
  refine ⟨.inl h, ?_⟩
  rintro b (⟨-, ch, rfl⟩ | ⟨-, i, -, rfl⟩)
  · unfold PIN_STAT at h
    omega
  · unfold DPS_STAT at h
    omega

/-- Trips show at offsets 0x02 and 0x0A of a block. -/
theorem offTrips_offset {a o k : Nat} (ha : a = o + 0x100 * k) (ho : 0x1C8000 ≤ o := by decide)
    (hOffset : o % 0x100 ≠ 2 ∧ o % 0x100 ≠ 0xA := by decide) : OffTrips a := by
  subst ha
  refine ⟨.inr (by omega), ?_⟩
  rintro b (⟨-, ch, h⟩ | ⟨-, i, -, h⟩)
  · unfold PIN_STAT at h
    omega
  · unfold DPS_STAT at h
    omega

theorem offTrips_awg (k : Nat) : OffTrips (AWG_STAT k) ∧ OffTrips (AWG_EVT k) := ⟨offTrips_offset rfl, offTrips_offset rfl⟩
theorem offTrips_slice (i : Nat) : OffTrips (DPS_CTL i) ∧ OffTrips (DPS_EVT i) := ⟨offTrips_offset rfl, offTrips_offset rfl⟩

theorem offTrips_pin (ch : Nat) : OffTrips (PIN_EVT ch) ∧ OffTrips (PMU_STAT ch) :=
  ⟨offTrips_offset (o := 0x1000004) (k := 0x10 * ch) (by unfold PIN_EVT; omega),
    offTrips_offset (o := 0x1000108) (k := 0x10 * ch) (by unfold PMU_STAT; omega)⟩

theorem offTrips_monitor (k : Nat) : OffTrips (MON_STAT (monBase k)) := by
  have hBlock : 0x300080 ≤ monBase k ∧ (monBase k % 0x100 = 0x80 ∨ 0x1000000 ≤ monBase k ∧ monBase k % 0x100 = 0) := by
    unfold monBase monOfChannel monOfSlice
    split <;> omega
  obtain ⟨hLow, hOffset⟩ := hBlock
  refine ⟨.inr (by unfold MON_STAT; omega), ?_⟩
  rintro b (⟨-, ch, h⟩ | ⟨-, i, hi, h⟩)
  · unfold MON_STAT PIN_STAT at h
    omega
  · unfold MON_STAT DPS_STAT at h
    omega

/-- A slice of a gang takes the trip of the gang (R274). -/
def State.sliceTripped (s : State) (k : Nat) : State :=
  if s.bit (DPS_STAT k) 11 then s else (s.setBit (DPS_STAT k) 11 true).evt (DPS_EVT k) 2

/-- What stays through the effects of a trip: the registers of the groups, the urgent interrupts, and every driver and slice trip in force. -/
structure TripFrame (s t : State) : Prop where
  groups : ∀ a, 0x1C0000 ≤ a → a < 0x1C8000 → t.rd a = s.rd a
  trips : ∀ a b, TripBit a b → s.bit a b = true → t.bit a b = true
  irq2 : t.host.irq2 = s.host.irq2

theorem TripFrame.refl : TripFrame s s := ⟨fun _ _ _ => rfl, fun _ _ _ h => h, rfl⟩

theorem TripFrame.trans (h : TripFrame s t) (g : TripFrame t u) : TripFrame s u :=
  ⟨fun a hLo hHi => (g.groups a hLo hHi).trans (h.groups a hLo hHi), fun a b hBit hs => g.trips a b hBit (h.trips a b hBit hs),
    g.irq2.trans h.irq2⟩

/-- Both states signal vector 2. -/
theorem TripFrame.irqUrgent (h : TripFrame s t) : TripFrame s.irqUrgent t.irqUrgent := ⟨h.groups, h.trips, congrArg (· + 1) h.irq2⟩

section
variable (h : TripFrame s t)
include h

/-! The named updates. -/

/-- An update of what the frame does not speak of. -/
theorem TripFrame.upd (hRegs : u.regs = t.regs) (hIrq : u.host.irq2 = t.host.irq2) : TripFrame s u :=
  h.trans ⟨fun a _ _ => State.rd_congr hRegs a, fun a b _ hs => (State.bit_of_rd (State.rd_congr hRegs a) b).trans hs, hIrq⟩

theorem TripFrame.wr {a : Nat} {w : Word} (ha : OffTrips a) : TripFrame s (t.wr a w) := by
  obtain ⟨hApart, hNone⟩ := ha
  refine h.trans ⟨fun c hLo hHi => State.rd_wr_ne t w (by omega), fun c b hBit hs => ?_, rfl⟩
  have hNe : c ≠ a := fun hEq => hNone b (hEq ▸ hBit)
  exact (State.bit_of_rd (State.rd_wr_ne t w hNe) b).trans hs

/-- A trip takes force. -/
theorem TripFrame.setBit_trip {a b : Nat} (ha : a < 0x1C0000 ∨ 0x1C8000 ≤ a) (hb : b < 16) : TripFrame s (t.setBit a b true) := by
  refine h.trans ⟨fun c hLo hHi => State.rd_wr_ne t _ (by omega), fun c d _ hs => ?_, rfl⟩
  rw [State.bit_setBit _ _ _ _ _ _ hb]
  split
  · rfl
  · exact hs

/-- Another field of DPS_STAT than TRIPPED. -/
theorem TripFrame.setFld_slice {i hi lo v : Nat} (hl : lo ≤ hi) (hh : hi < 16) (hApart : hi < 11 ∨ 11 < lo) :
    TripFrame s (t.setFld (DPS_STAT i) hi lo v) := by
  have hAbove : 0x1C8000 ≤ DPS_STAT i := by unfold DPS_STAT; omega
  refine h.trans ⟨fun c _ hHi => State.rd_wr_ne t _ (by omega), fun c b hBit hs => ?_, rfl⟩
  rw [State.bit, State.rd_setFld]
  split
  case isFalse => exact hs
  case isTrue hc =>
    have hb : b = 11 := by
      rcases hBit with ⟨-, ch, hPin⟩ | ⟨hb, -⟩
      · unfold DPS_STAT at hc
        unfold PIN_STAT at hPin
        omega
      · exact hb
    rw [getLsbD_withBits _ _ _ _ _ hl hh, if_neg (by omega), ← hc]
    exact hs

theorem TripFrame.setFld {a hi lo v : Nat} (ha : OffTrips a) : TripFrame s (t.setFld a hi lo v) := h.wr ha
theorem TripFrame.setBit {a b : Nat} {v : Bool} (ha : OffTrips a) : TripFrame s (t.setBit a b v) := h.wr ha
theorem TripFrame.setBit_slice {i b : Nat} {v : Bool} (hb : b < 16 := by decide) (hApart : b < 11 ∨ 11 < b := by decide) :
    TripFrame s (t.setBit (DPS_STAT i) b v) := h.setFld_slice (Nat.le_refl b) hb hApart
theorem TripFrame.evt {a b : Nat} (ha : OffTrips a) : TripFrame s (t.evt a b) :=
  (h.wr (w := t.rd a ||| BitVec.ofNat 16 (2 ^ b)) ha).upd rfl (State.evt_irq2 ..)
theorem TripFrame.inc {a : Nat} (ha : OffTrips a) : TripFrame s (t.inc a) := (h.wr (w := BitVec.ofNat 16 (min 0xFFFF (t.rdN a + 1))) ha).upd rfl rfl
theorem TripFrame.forceBits {a : Nat} {mask v : Word} (ha : OffTrips a) : TripFrame s (t.forceBits a mask v) :=
  (h.wr (w := (t.rd a &&& ~~~mask) ||| (v &&& mask)) ha).upd rfl rfl
theorem TripFrame.setTrips {x : Trips} : TripFrame s { t with trips := x } := h.upd rfl rfl
theorem TripFrame.setChan {k : Nat} {x : Chan} : TripFrame s (t.setChan k x) := h.upd rfl rfl
theorem TripFrame.setSlice {k : Nat} {x : Slice} : TripFrame s (t.setSlice k x) := h.upd rfl rfl
theorem TripFrame.setMon {k : Nat} {x : Monitor} : TripFrame s (t.setMon k x) := h.upd rfl rfl
theorem TripFrame.setSite {k : Nat} {x : Site} : TripFrame s (t.setSite k x) := h.upd rfl rfl
theorem TripFrame.setAwg {k : Nat} {x : Awg} : TripFrame s (t.setAwg k x) := h.upd rfl rfl
theorem TripFrame.memWrite {a : Nat} {l : List Byte} : TripFrame s (t.memWrite a l) := h.upd rfl rfl
theorem TripFrame.patchLog {wc o : Nat} {l : List Byte} : TripFrame s (t.patchLog wc o l) := h.memWrite

theorem TripFrame.each {l : List Nat} {f : State → Nat → State} (hf : ∀ u k, TripFrame s u → TripFrame s (f u k)) :
    TripFrame s (t.each l f) :=
  List.foldlRecOn (motive := TripFrame s) l f h fun u hu k _ => hf u k hu

/-! Monitors, pins and slices. -/

theorem TripFrame.settingEvent {k : Nat} : TripFrame s (t.settingEvent (monBase k)) :=
  ite_of (ite_of h (h.setMon.setBit (offTrips_monitor k))) h

theorem TripFrame.monRefresh {k : Nat} : TripFrame s (t.monRefresh k) :=
  ite_of h (ite_of (h.setFld (offTrips_monitor k)).setMon.settingEvent (h.setFld (offTrips_monitor k)).setMon)

theorem TripFrame.pmuUpdate {ch : Nat} : TripFrame s (t.pmuUpdate ch) := by
  have hStat := (offTrips_pin ch).2
  exact TripFrame.monRefresh (ite_of ((h.setBit (b := 1) hStat).setBit hStat) (((h.setBit (b := 1) hStat).setBit hStat).setBit hStat))

theorem TripFrame.drivers {ch : Nat} {f : Chan → Chan} : TripFrame s (t.drivers ch f) := h.each fun _ _ hu => hu.setChan

theorem TripFrame.driverOff {ch : Nat} : TripFrame s (t.driverOff ch) :=
  (h.drivers.setBit_trip (by unfold PIN_STAT; omega) (by decide)).pmuUpdate

theorem TripFrame.driverTrip {ch : Nat} : TripFrame s (t.driverTrip ch) := h.driverOff.evt (offTrips_pin ch).1

theorem TripFrame.awgTrip {chs : List Nat} : TripFrame s (awgTrip chs t) :=
  h.each fun _ k hu => ite_of (((hu.setAwg.setBit (offTrips_awg k).1).setBit (offTrips_awg k).1).evt (offTrips_awg k).2) hu

theorem TripFrame.setSliceState {i v : Nat} : TripFrame s (t.setSliceState i v) :=
  h.each fun _ _ hu => hu.setFld_slice (by decide) (by decide) (by decide)

theorem TripFrame.clampFollow {i : Nat} : TripFrame s (t.clampFollow i) :=
  ite_of h (ite_of (h.setBit_slice.evt (offTrips_slice i).2) h.setSlice.setBit_slice)

theorem TripFrame.sliceOff {i : Nat} : TripFrame s (t.sliceOff i) := h.setSlice.setSliceState.clampFollow.monRefresh

theorem TripFrame.refreshSlices : TripFrame s t.refreshSlices := by
  refine h.each fun u i hu => ?_
  extract_lets live t1 t2
  have h1 : TripFrame s t1 := hu.setBit_slice.setBit_slice
  have h2 : TripFrame s t2 := ite_of (h1.forceBits (offTrips_slice i).1) h1
  exact ite_of h1 (ite_of h2.sliceOff h2)

theorem TripFrame.sliceTripped {k : Nat} : TripFrame s (t.sliceTripped k) :=
  ite_of h ((h.setBit_trip (by unfold DPS_STAT; omega) (by decide)).evt (offTrips_slice k).2)

theorem TripFrame.sliceTrip {i : Nat} : TripFrame s (t.sliceTrip i) := by
  have hTrips : TripFrame s (t.each (t.gang i) State.sliceTripped) := h.each fun _ _ hu => hu.sliceTripped
  exact ite_of hTrips.sliceOff hTrips

/-! A trip's reach, its record in the run log and its notice. -/

theorem TripFrame.tripLeaves {g : Nat} : TripFrame s (t.tripLeaves g) := h.each fun _ _ hu => ite_of hu.setSite hu

theorem TripFrame.tripReach {g action : Nat} : TripFrame s (t.tripReach g action) := by
  unfold State.tripReach
  extract_lets chs s1 s2
  have h1 : TripFrame s s1 := ite_of h (h.each fun _ _ hu => hu.driverTrip).awgTrip
  have h2 : TripFrame s s2 := ite_of h1 (h1.each fun _ _ hu => hu.sliceTrip)
  exact h2.refreshSlices

theorem TripFrame.logEntry {type flags time : Nat} {payload : List Byte} : TripFrame s (t.logEntry type flags time payload) :=
  have hWide : ∀ a l w, TripFrame s ((t.memWrite a l).setWide HST_LOG_WR 2 w) := fun _ _ _ =>
    (h.memWrite.wr (offTrips_low (by decide))).wr (offTrips_low (by decide))
  State.logEntry_shape (Q := TripFrame s) t _ _ _ _ hWide fun _ _ _ =>
    ((hWide _ _ _).inc (offTrips_low (by decide))).evt (offTrips_low (by decide))

theorem TripFrame.logSites {type time : Nat} {fixed : List Byte} {sites : List Nat} : TripFrame s (t.logSites type time fixed sites) :=
  h.logEntry.logEntry

/-! The frame of a trip with NOTIFY (R368). -/

theorem TripFrame.depart {west : Bool} {f : List Byte} : TripFrame s (t.depart west f) := h.upd rfl rfl
theorem TripFrame.setPort {west : Bool} {p : Port} : TripFrame s (t.setPort west p) := h.upd rfl rfl

theorem TripFrame.departOn {west : Bool} {f : List Byte} : TripFrame s (t.departOn west f) := by
  unfold State.departOn
  dsimp only
  split
  · exact h.depart
  · exact h.depart.depart.setPort

theorem TripFrame.injectFrame {west : Bool} {mode : Nat} {head : List Byte} : TripFrame s (t.injectFrame west mode head) := by
  have hInc : TripFrame s (t.inc CVY_FI_CNT) := h.inc (offTrips_low (by decide))
  have hFree : TripFrame s (t.inc CVY_FI_CNT).free.2 := hInc.upd rfl rfl
  exact ite_of hFree.departOn (ite_of (hInc.upd rfl rfl) (ite_of hInc.departOn hInc))

theorem TripFrame.sendOn {west : Bool} {head : List Byte} : TripFrame s (t.sendOn west head) := by
  have hFree : TripFrame s t.free.2 := h.upd rfl rfl
  exact ite_of (ite_of hFree.injectFrame hFree.departOn) h.departOn

theorem TripFrame.flood {type time : Nat} {payload : List Byte} : TripFrame s (t.flood type time payload) := by
  have hTaken : TripFrame s t.takeSeq.2 := h.upd rfl rfl
  exact hTaken.sendOn.sendOn.sendOn.sendOn

theorem TripFrame.failNotice {g : Nat} : TripFrame s (t.failNotice g) := h.flood

end

/-! Which trips are in force once a trip has reached its pins and slices. -/

/-- Where a member of a list puts its trip into force, the trip is in force in the end. -/
theorem each_trips {l : List Nat} {f : State → Nat → State} {k a b : Nat} (hFrame : ∀ u x, TripFrame u (f u x)) (hk : k ∈ l)
    (hBit : TripBit a b) (hTrips : ∀ u, (f u k).bit a b = true) : (s.each l f).bit a b = true := by
  induction l generalizing s with
  | nil => simp at hk
  | cons x xs ih =>
    rcases List.mem_cons.1 hk with rfl | hk
    · have hTail : TripFrame (f s k) (s.each (k :: xs) f) := TripFrame.refl.each fun u x hu => hu.trans (hFrame u x)
      exact hTail.trips _ _ hBit (hTrips s)
    · exact ih hk

theorem tripBit_pin (ch : Nat) : TripBit (PIN_STAT ch) 14 := .inl ⟨rfl, ch, rfl⟩
theorem tripBit_slice {i : Nat} (hi : i < 256) : TripBit (DPS_STAT i) 11 := .inr ⟨rfl, i, hi, rfl⟩

theorem State.driverOff_trips (ch : Nat) : (s.driverOff ch).bit (PIN_STAT ch) 14 = true :=
  TripFrame.refl.pmuUpdate.trips _ _ (tripBit_pin ch) (State.bit_setBit_self _ _ (by decide))

theorem State.driverTrip_trips (ch : Nat) : (s.driverTrip ch).bit (PIN_STAT ch) 14 = true :=
  (TripFrame.refl.evt (offTrips_pin ch).1).trips _ _ (tripBit_pin ch) (State.driverOff_trips ch)

/-- A slice belongs to its own gang. -/
theorem State.self_mem_gang (i : Nat) : i ∈ s.gang i := by
  unfold State.gang
  split
  case h_1 => exact List.mem_singleton.2 rfl
  case h_2 p hp =>
    have hSlice : p.slice = i := by simpa using List.find?_some hp
    exact List.mem_map.2 ⟨p, List.mem_filter.2 ⟨List.mem_of_find?_eq_some hp, by simp⟩, hSlice⟩

theorem State.sliceTripped_trips {i : Nat} (hi : i < 256) : (s.sliceTripped i).bit (DPS_STAT i) 11 = true := by
  unfold State.sliceTripped
  split
  · assumption
  · exact (TripFrame.refl.evt (offTrips_slice i).2).trips _ _ (tripBit_slice hi) (State.bit_setBit_self _ _ (by decide))

theorem State.sliceTrip_trips {i : Nat} (hi : i < 256) : (s.sliceTrip i).bit (DPS_STAT i) 11 = true := by
  have hOwn : (s.each (s.gang i) State.sliceTripped).bit (DPS_STAT i) 11 = true :=
    each_trips (fun _ _ => TripFrame.refl.sliceTripped) (State.self_mem_gang i) (tripBit_slice hi) fun _ => State.sliceTripped_trips hi
  exact ite_of (Q := fun u : State => u.bit (DPS_STAT i) 11 = true) (TripFrame.refl.sliceOff.trips _ _ (tripBit_slice hi) hOwn) hOwn

theorem State.tripReach_pins {g action ch : Nat} (hAction : action ≠ 2) (hch : ch ∈ groupPins s.casting g) :
    (s.tripReach g action).bit (PIN_STAT ch) 14 = true := by
  have hDrivers : (s.each (groupPins s.casting g) State.driverTrip).bit (PIN_STAT ch) 14 = true :=
    each_trips (fun _ _ => TripFrame.refl.driverTrip) hch (tripBit_pin ch) fun _ => State.driverTrip_trips ch
  unfold State.tripReach
  dsimp only
  rw [if_neg hAction]
  have hAwgs : TripFrame (s.each (groupPins s.casting g) State.driverTrip)
      (awgTrip (groupPins s.casting g) (s.each (groupPins s.casting g) State.driverTrip)) := TripFrame.refl.awgTrip
  have hSlices := ite_of (p := action = 1) hAwgs (hAwgs.each (l := groupSlices s.casting g) (f := State.sliceTrip) fun _ _ hu => hu.sliceTrip)
  exact hSlices.refreshSlices.trips _ _ (tripBit_pin ch) hDrivers

theorem State.tripReach_slices {g action i : Nat} (hAction : action ≠ 1) (hi : i ∈ groupSlices s.casting g) (hBound : i < 256) :
    (s.tripReach g action).bit (DPS_STAT i) 11 = true := by
  unfold State.tripReach
  dsimp only
  rw [if_neg hAction]
  exact TripFrame.refl.refreshSlices.trips _ _ (tripBit_slice hBound)
    (each_trips (fun _ _ => TripFrame.refl.sliceTrip) hi (tripBit_slice hBound) fun _ => State.sliceTrip_trips hBound)

/-- At a pin under a driver trip neither the termination nor the load acts, and the PMU does not force (R154, R160). -/
theorem State.tripped_passive {ch : Nat} (h : s.bit (PIN_STAT ch) 14 = true) :
    s.terminates ch = false ∧ s.loadActs ch = false ∧ s.pmuForces ch = false := by
  have hFree : s.passiveFree ch = false := by simp [State.passiveFree, h]
  refine ⟨by simp [State.terminates, hFree], by simp [State.loadActs, hFree], ?_⟩
  unfold State.pmuForces State.pmuMode
  rw [h]
  split <;> simp_all

end Sys2Proof.Machine

end

section
/-!
PROOFS. The trip of a group and its recovery (R287, R288, R289, R291, R292).
-/

namespace Sys2Proof.Machine

variable {s t u : State} {g cause unit : Nat}

/-- A bit of a register after the write of a field. -/
theorem State.bit_setFld (s : State) (a c b : Nat) {hi lo v : Nat} (hl : lo ≤ hi) (hh : hi < 16) :
    (s.setFld a hi lo v).bit c b = if c = a ∧ lo ≤ b ∧ b ≤ hi then v.testBit (b - lo) else s.bit c b := by
  unfold State.bit
  rw [State.rd_setFld]
  by_cases hc : c = a
  · simp [hc, getLsbD_withBits _ _ _ _ _ hl hh]
  · simp [hc]

/-! The parts of a trip: what is noted in the group's own registers, then what the trip reaches. -/

/-- The trip of a group is decided in the present clock. -/
def State.tripSince (s : State) (g : Nat) : State :=
  { s with trips := { s.trips with since := tabInsert (tabErase s.trips.since g) g s.time.up } }

/-- MON_GRP_STAT shows a trip with its causes. -/
def State.tripMarked (s : State) (g causes : Nat) : State := (s.setFld (MON_GRP_STAT g) 15 15 1).setFld (MON_GRP_STAT g) 11 8 causes

/-- A first trip in the group's registers (R289). -/
def State.tripNoted (s : State) (g cause unit : Nat) : State :=
  (((s.tripMarked g (2 ^ cause)).wrN (MON_GRP_FIRST g) (cause * 4096 + unit)).setWide (MON_GRP_T g) 4 s.convoyTime).evt (MON_GRP_EVT g) 0

/-- A clear of the present clock that a trip undoes, in the group's registers (R292). -/
def State.clearRefused (s : State) (g cause : Nat) (x : ClearNote) : State :=
  let marked := s.tripMarked g (x.causes ||| 2 ^ cause)
  (((if x.stood then marked else marked.setBit (MON_GRP_EVT g) 1 false).wrN (MON_GRP_CODE g) 0x1308).evt (MON_GRP_EVT g) 2).inc (MON_GRP_CNT g)

theorem State.groupTrip_first (hUntripped : s.groupTripped g = false) (hClear : s.clearedNow g = none) :
    s.groupTrip g cause unit = (s.tripSince g).groupTrips g cause unit := by
  simp [State.groupTrip, State.tripSince, hUntripped, hClear]

theorem State.groupTrip_undone {x : ClearNote} (hUntripped : s.groupTripped g = false) (hClear : s.clearedNow g = some x) :
    s.groupTrip g cause unit = (s.tripSince g).clearUndone g cause x := by
  simp [State.groupTrip, State.tripSince, hUntripped, hClear]

theorem State.groupTrip_later (hTripped : s.groupTripped g = true) (hLater : s.wide (MON_GRP_T g) 4 ≠ s.convoyTime) :
    s.groupTrip g cause unit =
      ((s.tripSince g).setFld (MON_GRP_STAT g) 11 8 (s.fld (MON_GRP_STAT g) 11 8 ||| 2 ^ cause)).inc (MON_GRP_CNT g) := by
  simp [State.groupTrip, State.tripSince, hTripped, hLater]

theorem State.groupTrips_frame :
    TripFrame ((s.tripNoted g cause unit).tripReach g (groupRule s.casting g).1).irqUrgent (s.groupTrips g cause unit) := by
  unfold State.groupTrips
  extract_lets rule s1 s2 s3 noted s4 s5 s6 ended
  have h3 : TripFrame ((s.tripNoted g cause unit).tripReach g rule.1).irqUrgent s3 := TripFrame.refl.tripLeaves.irqUrgent
  have h4 : TripFrame ((s.tripNoted g cause unit).tripReach g rule.1).irqUrgent s4 := h3.setTrips
  have h5 : TripFrame ((s.tripNoted g cause unit).tripReach g rule.1).irqUrgent s5 := h4.logSites
  have h6 : TripFrame ((s.tripNoted g cause unit).tripReach g rule.1).irqUrgent s6 := ite_of h5.failNotice h5
  exact ite_of (h6.setTrips) h6

theorem State.clearUndone_frame {x : ClearNote} : TripFrame (s.clearRefused g cause x) (s.clearUndone g cause x) := by
  unfold State.clearUndone
  extract_lets rule s1 s2 s3 s4 s5 s6 s7 ended
  have h3 : TripFrame (s.clearRefused g cause x) s3 := .refl
  have h4 : TripFrame (s.clearRefused g cause x) s4 := ite_of h3 (h3.each fun _ _ hu => hu.driverOff)
  have h5 : TripFrame (s.clearRefused g cause x) s5 :=
    ite_of h4 (h4.each fun _ _ hu => hu.setBit_trip (by unfold DPS_STAT; omega) (by decide))
  have h6 : TripFrame (s.clearRefused g cause x) s6 := h5.patchLog.patchLog
  exact h6.refreshSlices.setTrips

theorem State.tripNoted_casting (s : State) : (s.tripNoted g cause unit).casting = s.casting := by
  have hCalm : Calm True s (s.tripNoted g cause unit) := Calm.refl.setFld.setFld.wrN.setWide.evt
  exact hCalm.casting

/-! The group's own registers. -/

theorem State.tripMarked_tripped {causes : Nat} : (s.tripMarked g causes).groupTripped g = true := by
  unfold State.groupTripped State.tripMarked
  rw [State.bit_setFld _ _ _ _ (by decide) (by decide), if_neg (by simp), State.bit_setFld _ _ _ _ (by decide) (by decide), if_pos (by simp)]
  rfl

theorem State.tripNoted_stat : (s.tripNoted g cause unit).rd (MON_GRP_STAT g) = (s.tripMarked g (2 ^ cause)).rd (MON_GRP_STAT g) := by
  have hApart : MON_GRP_STAT g ≠ MON_GRP_EVT g ∧ MON_GRP_STAT g ≠ MON_GRP_FIRST g ∧ ∀ i < 4, MON_GRP_STAT g ≠ MON_GRP_T g + 2 * i := by
    unfold MON_GRP_STAT MON_GRP_EVT MON_GRP_FIRST MON_GRP_T
    exact ⟨by omega, by omega, fun i hi => by omega⟩
  obtain ⟨hEvt, hFirst, hTime⟩ := hApart
  rw [State.tripNoted, State.rd_evt, if_neg hEvt, State.rd_setWide_ne hTime, State.wrN, State.rd_wr_ne _ _ hFirst]

theorem State.tripNoted_tripped : (s.tripNoted g cause unit).groupTripped g = true :=
  (State.bit_of_rd State.tripNoted_stat 15).trans State.tripMarked_tripped

theorem State.tripNoted_causes : (s.tripNoted g cause unit).fld (MON_GRP_STAT g) 11 8 = 2 ^ cause % 16 :=
  (State.fld_of_rd State.tripNoted_stat 11 8).trans (State.fld_setFld _ _ _ _ _ (by decide) (by decide))

theorem State.convoyTime_lt (s : State) : s.convoyTime < 65536 ^ 4 := by
  have := s.time.clock.isLt
  unfold State.convoyTime
  omega

theorem State.tripNoted_time : (s.tripNoted g cause unit).wide (MON_GRP_T g) 4 = s.convoyTime := by
  have hApart : ∀ i < 4, MON_GRP_T g + 2 * i ≠ MON_GRP_EVT g := by
    unfold MON_GRP_T MON_GRP_EVT
    omega
  rw [State.tripNoted, State.wide_congr fun i hi => (State.rd_evt ..).trans (if_neg (hApart i hi)), State.wide_setWide_self]
  exact Nat.mod_eq_of_lt s.convoyTime_lt

theorem State.clearRefused_shown {x : ClearNote} : (s.clearRefused g cause x).groupTripped g = true ∧
    (s.clearRefused g cause x).rdN (MON_GRP_CODE g) = 0x1308 ∧ (s.clearRefused g cause x).bit (MON_GRP_EVT g) 2 = true ∧
    (s.clearRefused g cause x).rdN (MON_GRP_CNT g) = min 65535 (s.rdN (MON_GRP_CNT g) + 1) := by
  unfold State.clearRefused
  extract_lets marked
  generalize hCleared : (if x.stood = true then marked else marked.setBit (MON_GRP_EVT g) 1 false) = v
  have hKeep : ∀ a, a ≠ MON_GRP_EVT g → v.rd a = marked.rd a := fun a ha => by
    rw [← hCleared]
    split
    · rfl
    · exact State.rd_wr_ne _ _ ha
  have hMarked : ∀ a, a ≠ MON_GRP_STAT g → marked.rd a = s.rd a := fun a ha => (State.rd_wr_ne _ _ ha).trans (State.rd_wr_ne _ _ ha)
  have hApart : MON_GRP_STAT g ≠ MON_GRP_CNT g ∧ MON_GRP_STAT g ≠ MON_GRP_EVT g ∧ MON_GRP_STAT g ≠ MON_GRP_CODE g ∧
      MON_GRP_CODE g ≠ MON_GRP_CNT g ∧ MON_GRP_CODE g ≠ MON_GRP_EVT g ∧ MON_GRP_EVT g ≠ MON_GRP_CNT g := by
    unfold MON_GRP_STAT MON_GRP_CNT MON_GRP_EVT MON_GRP_CODE
    omega
  obtain ⟨hStatCnt, hStatEvt, hStatCode, hCodeCnt, hCodeEvt, hEvtCnt⟩ := hApart
  refine ⟨(State.bit_of_rd ?_ 15).trans (State.tripMarked_tripped (s := s) (causes := x.causes ||| 2 ^ cause)), ?_, ?_, ?_⟩
  · rw [State.rd_inc, if_neg hStatCnt, State.rd_evt, if_neg hStatEvt, State.wrN, State.rd_wr_ne _ _ hStatCode, hKeep _ hStatEvt]
  · rw [State.rdN, State.rd_inc, if_neg hCodeCnt, State.rd_evt, if_neg hCodeEvt, State.wrN, State.rd_wr_self]
    rfl
  · rw [State.bit, State.rd_inc, if_neg hEvtCnt]
    exact State.bit_evt_self _ _ _ (by decide)
  · rw [State.rdN_inc_self]
    have hCount : ((v.wrN (MON_GRP_CODE g) 0x1308).evt (MON_GRP_EVT g) 2).rdN (MON_GRP_CNT g) = s.rdN (MON_GRP_CNT g) := by
      rw [State.rdN, State.rd_evt, if_neg hEvtCnt.symm, State.wrN, State.rd_wr_ne _ _ hCodeCnt.symm, hKeep _ hEvtCnt.symm, hMarked _ hStatCnt.symm,
        State.rdN]
    rw [hCount]

/-! A trip by the host (R287): the first of a group, one that undoes a clear, and a later one. -/

theorem TripFrame.groupRd (h : TripFrame s t) (hg : g < 512) {a o : Nat} (ha : a = 0x1C0000 + o + 0x40 * g) (ho : o < 0x40 := by decide) :
    t.rd a = s.rd a :=
  h.groups a (by omega) (by omega)

theorem TripFrame.groupTripped (h : TripFrame s t) (hg : g < 512) : t.groupTripped g = s.groupTripped g :=
  State.bit_of_rd (h.groupRd hg (o := 4) rfl) 15

theorem State.irqUrgent_irq2 (s : State) : s.irqUrgent.host.irq2 = s.host.irq2 + 1 := rfl

theorem State.tripNoted_irq2 : (s.tripNoted g cause unit).host.irq2 = s.host.irq2 := by
  rw [State.tripNoted, State.evt_irq2]
  obtain ⟨r, hr⟩ := State.setWide_eq (k := 4) ((s.tripMarked g (2 ^ cause)).wrN (MON_GRP_FIRST g) (cause * 4096 + unit)) (MON_GRP_T g)
    s.convoyTime
  rw [hr]
  rfl

/-- A first trip shows in the group's registers and by vector 2. -/
theorem State.groupTrips_shown (hg : g < 512) : (s.groupTrips g cause unit).groupTripped g = true ∧
    (s.groupTrips g cause unit).fld (MON_GRP_STAT g) 11 8 = 2 ^ cause % 16 ∧ (s.groupTrips g cause unit).wide (MON_GRP_T g) 4 = s.convoyTime ∧
    (s.groupTrips g cause unit).bit (MON_GRP_EVT g) 0 = true ∧ (s.groupTrips g cause unit).host.irq2 = s.host.irq2 + 1 := by
  have hReach : TripFrame (s.tripNoted g cause unit) ((s.tripNoted g cause unit).tripReach g (groupRule s.casting g).1) := TripFrame.refl.tripReach
  have hFrame : TripFrame (s.tripNoted g cause unit).irqUrgent (s.groupTrips g cause unit) := hReach.irqUrgent.trans State.groupTrips_frame
  have hRd : ∀ o < 0x40, (s.groupTrips g cause unit).rd (0x1C0000 + o + 0x40 * g) = (s.tripNoted g cause unit).rd (0x1C0000 + o + 0x40 * g) :=
    fun o ho => (hFrame.groupRd hg rfl ho).trans (State.rd_irqUrgent ..)
  have hTime : ∀ i < 4, (s.groupTrips g cause unit).rd (MON_GRP_T g + 2 * i) = (s.tripNoted g cause unit).rd (MON_GRP_T g + 2 * i) := fun i hi => by
    have hWord := hRd (0x10 + 2 * i) (by omega)
    rwa [show 0x1C0000 + (0x10 + 2 * i) + 0x40 * g = MON_GRP_T g + 2 * i by unfold MON_GRP_T; omega] at hWord
  refine ⟨?_, ?_, ?_, ?_, by rw [hFrame.irq2, State.irqUrgent_irq2, State.tripNoted_irq2]⟩
  · exact (State.bit_of_rd (hRd 4 (by decide)) 15).trans State.tripNoted_tripped
  · exact (State.fld_of_rd (hRd 4 (by decide)) 11 8).trans State.tripNoted_causes
  · exact (State.wide_congr hTime).trans State.tripNoted_time
  · exact (State.bit_of_rd (hRd 6 (by decide)) 0).trans (State.bit_evt_self _ _ _ (by decide))

/-- The pins of the group that a first trip reaches. -/
theorem State.groupTrips_pins {ch : Nat} (hAction : (groupRule s.casting g).1 ≠ 2) (hch : ch ∈ groupPins s.casting g) :
    (s.groupTrips g cause unit).bit (PIN_STAT ch) 14 = true :=
  State.groupTrips_frame.trips _ _ (tripBit_pin ch) ((State.bit_of_rd (State.rd_irqUrgent ..) 14).trans
    (State.tripReach_pins hAction (by rwa [State.tripNoted_casting])))

/-- The slices of the group that a first trip reaches. -/
theorem State.groupTrips_slices {i : Nat} (hAction : (groupRule s.casting g).1 ≠ 1) (hi : i ∈ groupSlices s.casting g) (hBound : i < 256) :
    (s.groupTrips g cause unit).bit (DPS_STAT i) 11 = true :=
  State.groupTrips_frame.trips _ _ (tripBit_slice hBound) ((State.bit_of_rd (State.rd_irqUrgent ..) 11).trans
    (State.tripReach_slices hAction (by rwa [State.tripNoted_casting]) hBound))

theorem groupSlices_lt {k : Casting} (h : ∀ p ∈ k.powers, p.slice < 256) {i : Nat} (hi : i ∈ groupSlices k g) : i < 256 := by
  obtain ⟨p, hp, rfl⟩ := List.mem_map.1 hi
  exact h p (List.mem_filter.1 hp).1

/-- A trip that undoes a clear of its own clock (R292). -/
theorem State.clearUndone_shown {x : ClearNote} (hg : g < 512) : (s.clearUndone g cause x).groupTripped g = true ∧
    (s.clearUndone g cause x).rdN (MON_GRP_CODE g) = 0x1308 ∧ (s.clearUndone g cause x).bit (MON_GRP_EVT g) 2 = true ∧
    (s.clearUndone g cause x).rdN (MON_GRP_CNT g) = min 65535 (s.rdN (MON_GRP_CNT g) + 1) := by
  have hFrame : TripFrame (s.clearRefused g cause x) (s.clearUndone g cause x) := State.clearUndone_frame
  obtain ⟨hTripped, hCode, hEvt, hCount⟩ := State.clearRefused_shown (s := s) (g := g) (cause := cause) (x := x)
  exact ⟨(hFrame.groupTripped hg).trans hTripped, (congrArg BitVec.toNat (hFrame.groupRd hg (o := 0xA) rfl)).trans hCode,
    (State.bit_of_rd (hFrame.groupRd hg (o := 6) rfl) 2).trans hEvt, (congrArg BitVec.toNat (hFrame.groupRd hg (o := 0xC) rfl)).trans hCount⟩

/-- A later trip of the host adds its cause and counts. -/
theorem State.groupTrip_later_shown (hTripped : s.groupTripped g = true) (hLater : s.wide (MON_GRP_T g) 4 ≠ s.convoyTime) :
    (s.groupTrip g 2 0).rdN (MON_GRP_CNT g) = min 65535 (s.rdN (MON_GRP_CNT g) + 1) ∧
    ((s.groupTrip g 2 0).fld (MON_GRP_STAT g) 11 8).testBit 2 = true ∧ Frame [MON_GRP_STAT g, MON_GRP_CNT g] s (s.groupTrip g 2 0) := by
  have hApart : MON_GRP_CNT g ≠ MON_GRP_STAT g := by
    unfold MON_GRP_CNT MON_GRP_STAT
    omega
  have hSince : Frame [MON_GRP_STAT g, MON_GRP_CNT g] s (s.tripSince g) := Frame.refl.upd rfl rfl rfl rfl rfl rfl rfl
  rw [State.groupTrip_later hTripped hLater]
  refine ⟨?_, ?_, (hSince.setFld (by simp)).inc (by simp)⟩
  · rw [State.rdN_inc_self, State.rdN, State.rd_setFld, if_neg hApart]
    rfl
  · rw [State.fld_of_rd ((State.rd_inc ..).trans (if_neg hApart.symm)), State.fld_setFld _ _ _ _ _ (by decide) (by decide),
      Nat.testBit_mod_two_pow, Nat.testBit_or, show Nat.testBit (2 ^ 2) 2 = true from rfl, Bool.or_true]
    rfl

/-! Whoever trips a group, it is tripped then, and every group that was tripped before still is. -/

/-- Each of the 512 groups that was tripped is tripped. -/
def TripsStay (s t : State) : Prop := ∀ g < 512, s.groupTripped g = true → t.groupTripped g = true

section
variable (h : TripsStay s t)
include h

theorem TripsStay.after (hFrame : TripFrame t u) : TripsStay s u := fun k hk hs => (hFrame.groupTripped hk).trans (h k hk hs)

theorem TripsStay.upd (hRegs : u.regs = t.regs) : TripsStay s u := fun k hk hs => (State.bit_of_rd (State.rd_congr hRegs _) 15).trans (h k hk hs)

theorem TripsStay.irqUrgent : TripsStay s t.irqUrgent := h.upd rfl

theorem TripsStay.wr {a : Nat} {w : Word} (ha : ∀ k, a ≠ MON_GRP_STAT k) : TripsStay s (t.wr a w) := fun k hk hs =>
  (State.bit_of_rd (State.rd_wr_ne t w (ha k).symm) 15).trans (h k hk hs)

theorem TripsStay.evt {a b : Nat} (ha : ∀ k, a ≠ MON_GRP_STAT k) : TripsStay s (t.evt a b) :=
  (h.wr (w := t.rd a ||| BitVec.ofNat 16 (2 ^ b)) ha).upd rfl

theorem TripsStay.inc {a : Nat} (ha : ∀ k, a ≠ MON_GRP_STAT k) : TripsStay s (t.inc a) :=
  (h.wr (w := BitVec.ofNat 16 (min 0xFFFF (t.rdN a + 1))) ha).upd rfl

theorem TripsStay.causes {v : Nat} : TripsStay s (t.setFld (MON_GRP_STAT g) 11 8 v) := fun k hk hs => by
  rw [State.groupTripped, State.bit_setFld _ _ _ _ (by decide) (by decide), if_neg (by simp)]
  exact h k hk hs

theorem TripsStay.tripMarked {v : Nat} : TripsStay s (t.tripMarked g v) := by
  have hRaised : TripsStay s (t.setFld (MON_GRP_STAT g) 15 15 1) := fun k hk hs => by
    rw [State.groupTripped, State.bit_setFld _ _ _ _ (by decide) (by decide)]
    split
    · rfl
    · exact h k hk hs
  exact hRaised.causes

end

/-- The registers of a group but MON_GRP_STAT. -/
theorem groupReg_apart {o : Nat} (ho : o % 0x40 ≠ 4 := by decide) (k : Nat) : 0x1C0000 + o + 0x40 * g ≠ MON_GRP_STAT k := by
  unfold MON_GRP_STAT
  omega

theorem State.tripNoted_stays : TripsStay s (s.tripNoted g cause unit) := by
  have hMarked : TripsStay s (s.tripMarked g (2 ^ cause)) := TripsStay.tripMarked fun _ _ hs => hs
  have hFirst : TripsStay s ((s.tripMarked g (2 ^ cause)).wrN (MON_GRP_FIRST g) (cause * 4096 + unit)) := hMarked.wr (groupReg_apart (o := 8))
  have hTime : TripsStay s (((s.tripMarked g (2 ^ cause)).wrN (MON_GRP_FIRST g) (cause * 4096 + unit)).setWide (MON_GRP_T g) 4 s.convoyTime) :=
    fun k hk hs => (State.bit_of_rd (State.rd_setWide_ne fun i hi => by unfold MON_GRP_STAT MON_GRP_T; omega) 15).trans (hFirst k hk hs)
  exact hTime.evt (groupReg_apart (o := 6))

theorem State.clearRefused_stays {x : ClearNote} : TripsStay s (s.clearRefused g cause x) := by
  have hMarked : TripsStay s (s.tripMarked g (x.causes ||| 2 ^ cause)) := TripsStay.tripMarked fun _ _ hs => hs
  have hEvent : TripsStay s (if x.stood then s.tripMarked g (x.causes ||| 2 ^ cause)
      else (s.tripMarked g (x.causes ||| 2 ^ cause)).setBit (MON_GRP_EVT g) 1 false) := ite_of hMarked (hMarked.wr (groupReg_apart (o := 6)))
  exact ((hEvent.wr (groupReg_apart (o := 0xA))).evt (groupReg_apart (o := 6))).inc (groupReg_apart (o := 0xC))

theorem State.groupTrip_stays : TripsStay s (s.groupTrip g cause unit) := by
  have hSince : TripsStay s (s.tripSince g) := TripsStay.upd (fun _ _ hs => hs) rfl
  cases hTripped : s.groupTripped g with
  | false =>
    cases hClear : s.clearedNow g with
    | none =>
      rw [State.groupTrip_first hTripped hClear]
      have hReach : TripFrame ((s.tripSince g).tripNoted g cause unit)
          (((s.tripSince g).tripNoted g cause unit).tripReach g (groupRule s.casting g).1) := TripFrame.refl.tripReach
      have hNoted : TripsStay s ((s.tripSince g).tripNoted g cause unit) := fun k hk hs => State.tripNoted_stays k hk (hSince k hk hs)
      have hUrgent : TripsStay s (((s.tripSince g).tripNoted g cause unit).tripReach g (groupRule s.casting g).1).irqUrgent :=
        (hNoted.after hReach).irqUrgent
      exact hUrgent.after State.groupTrips_frame
    | some x =>
      rw [State.groupTrip_undone hTripped hClear]
      have hNoted : TripsStay s ((s.tripSince g).clearRefused g cause x) := fun k hk hs => State.clearRefused_stays k hk (hSince k hk hs)
      exact hNoted.after State.clearUndone_frame
  | true =>
    have hCauses : TripsStay s ((s.tripSince g).setFld (MON_GRP_STAT g) 11 8 (s.fld (MON_GRP_STAT g) 11 8 ||| 2 ^ cause)) := hSince.causes
    unfold State.groupTrip
    rw [if_pos hTripped]
    refine ite_of (ite_of ?_ hCauses) (hCauses.inc (groupReg_apart (o := 0xC)))
    have hFirst : TripsStay s (((s.tripSince g).setFld (MON_GRP_STAT g) 11 8 (s.fld (MON_GRP_STAT g) 11 8 ||| 2 ^ cause)).wrN (MON_GRP_FIRST g)
        (cause * 4096 + unit)) := hCauses.wr (groupReg_apart (o := 8))
    exact hFirst.upd rfl

theorem State.groupTrip_tripped (hg : g < 512) : (s.groupTrip g cause unit).groupTripped g = true := by
  cases hTripped : s.groupTripped g with
  | false =>
    cases hClear : s.clearedNow g with
    | none =>
      rw [State.groupTrip_first hTripped hClear]
      exact (State.groupTrips_shown hg).1
    | some x =>
      rw [State.groupTrip_undone hTripped hClear]
      exact (State.clearUndone_shown hg).1
  | true => exact State.groupTrip_stays g hg hTripped

/-- Each of the groups that a cause trips is tripped in the end. -/
theorem each_groupTripped {gs : List Nat} (hg : g < 512) (h : g ∈ gs) :
    (s.each gs fun t g => t.groupTrip g cause unit).groupTripped g = true := by
  induction gs generalizing s with
  | nil => simp at h
  | cons x xs ih =>
    rcases List.mem_cons.1 h with rfl | h
    · have hTail : TripsStay (s.groupTrip g cause unit) (s.each (g :: xs) fun t g => t.groupTrip g cause unit) :=
        List.foldlRecOn (motive := TripsStay (s.groupTrip g cause unit)) xs _ (fun _ _ hs => hs)
          fun u hu k _ k' hk hs => State.groupTrip_stays k' hk (hu k' hk hs)
      exact hTail g hg (State.groupTrip_tripped hg)
    · exact ih h

/-! A clear (R292). -/

/-- A clear is an item of class 0, which no yard that restarts delays. -/
theorem State.arrive_clear (s : State) (g : Nat) : ∃ w : WorkItem, w.kind = .clear g ∧ w.cls = 0 ∧
    (w ∈ (s.arrive 0 0 (yardCost 0) (.clear g)).sched.waiting ∨ ∃ act, (w, act) ∈ (s.arrive 0 0 (yardCost 0) (.clear g)).sched.running) ∧
    Frame [] s (s.arrive 0 0 (yardCost 0) (.clear g)) := by
  unfold State.arrive
  extract_lets w seq s1 act
  refine ⟨w, rfl, rfl, ?_⟩
  split
  · exact ⟨.inl (List.mem_append_right _ (List.mem_singleton_self _)), Frame.refl.upd rfl rfl rfl rfl rfl rfl rfl⟩
  · rw [if_pos (.inl rfl)]
    exact ⟨.inr ⟨_, List.mem_append_right _ (List.mem_singleton_self _)⟩, Frame.refl.upd rfl rfl rfl rfl rfl rfl rfl⟩

end Sys2Proof.Machine
end

section
/-!
PROOFS. Decisions of the window monitors (R283, R284, R286, R287): what each leaves in the registers of its monitor.
-/

namespace Sys2Proof.Machine

variable {s t : State} {b u v : Nat}

theorem monBase_of_monUnit (h : monUnit b = some u) : monBase u = b := by
  unfold monUnit at h
  split at h
  case isTrue hChannel =>
    obtain rfl := Option.some.inj h
    simp only [Bool.and_eq_true, decide_eq_true_eq, beq_iff_eq] at hChannel
    rw [monBase, if_pos (by omega), monOfChannel]
    omega
  case isFalse =>
    split at h
    case isTrue hSlice =>
      obtain rfl := Option.some.inj h
      simp only [Bool.and_eq_true, decide_eq_true_eq, beq_iff_eq] at hSlice
      rw [monBase, if_neg (by omega), monOfSlice]
      omega
    case isFalse => simp at h

/-- An inside decision. -/
def State.monInside (s : State) (b : Nat) : State := (s.setFld (MON_STAT b) 15 14 1).setMon b { s.mon b with tripped := false }

theorem exec_monitorInside (hu : monUnit b = some u) : exec (.monitorInside ⟨b, v⟩) s =
    .next (if s.monActive u && s.canDecide u && !s.monOutside u v then s.monInside b else s) := by
  change Host.Outcome.next (monitorInsideAt s b v) = _
  simp [monitorInsideAt, hu, State.monInside]

/-- An outside decision in a blanking window: the first of the window counts. -/
def State.monBlanked (s : State) (b : Nat) : State :=
  if (s.mon b).seen then s.setFld (MON_STAT b) 15 14 2
  else (((s.setFld (MON_STAT b) 15 14 2).setMon b { s.mon b with seen := true }).inc (MON_BLANKED_CNT b)).evt (MON_EVT b) 1

theorem exec_blankedOutside (hu : monUnit b = some u) : exec (.blankedOutside ⟨b, v⟩) s =
    .next (if s.monActive u && s.bit (MON_STAT b) 13 && s.canDecide u && s.monOutside u v then s.monBlanked b else s) := by
  change Host.Outcome.next (blankedOutsideAt s b v) = _
  simp [blankedOutsideAt, hu, State.monBlanked]

/-- A monitor trip in the registers of the monitor. -/
def State.monTripped (s : State) (b : Nat) : State :=
  ((((s.setFld (MON_STAT b) 15 14 2).setMon b { s.mon b with tripped := true }).inc (MON_TRIP_CNT b)).evt (MON_EVT b) 0).setWide (MON_TRIP_T b) 4
    s.convoyTime

theorem exec_monitorTrip (hu : monUnit b = some u) : exec (.monitorTrip ⟨b, v⟩) s =
    .next (if s.monOutside u v then monitorDecides b s else s) := by
  change Host.Outcome.next (monitorTrip b v s) = _
  simp [monitorTrip, hu]

theorem monitorDecides_eq (hu : monUnit b = some u) : monitorDecides b s =
    if s.monActive u && !s.bit (MON_STAT b) 13 && !(s.mon b).tripped && s.canDecide u then
      (s.monTripped b).each (monGroups s.casting u) fun t g => t.groupTrip g 0 u
    else s := by
  simp [monitorDecides, hu, State.monTripped]

/-- The blanking window of the monitor is over. -/
def State.blankOver (s : State) (b : Nat) : State := s.setBit (MON_STAT b) 13 false

/-- The quantity is compared as the window ends: nothing blanks the decision, and an earlier trip does not stand in its way. -/
def State.blankDue (s : State) (b : Nat) : State := (s.blankOver b).setMon b { s.mon b with tripped := false }

theorem exec_blankWindowClose (hu : monUnit b = some u) (hDue : (s.mon b).until_ ≤ s.time.up) : exec (.blankWindowClose b v) s = .next (
    if s.bit (MON_STAT b) 13 then
      if (s.blankOver b).monActive u && (s.blankOver b).monOutside u v then monitorDecides b (s.blankDue b) else s.blankOver b
    else s) := by
  change Host.Outcome.next (blankClose b v s) = _
  unfold blankClose
  rw [hu]
  dsimp only
  rw [State.atDue_now hDue]
  rfl

theorem exec_blankWindowClose_open (hOpen : s.bit (MON_STAT b) 13 = false) : exec (.blankWindowClose b v) s = .next s := by
  change Host.Outcome.next (blankClose b v s) = _
  unfold blankClose
  split
  · rfl
  · simp [hOpen]

/-! The registers that a decision moves. -/

/-- The registers of a monitor that a trip moves. -/
def monTripRegs (b : Nat) : List Nat :=
  [MON_STAT b, MON_TRIP_CNT b, MON_EVT b, MON_TRIP_T b, MON_TRIP_T b + 2, MON_TRIP_T b + 4, MON_TRIP_T b + 6]

/-- What a trip of the monitor at b shows. -/
def MonTrips (b : Nat) (s t : State) : Prop :=
  t.fld (MON_STAT b) 15 14 = 2 ∧ (t.mon b).tripped = true ∧ t.rdN (MON_TRIP_CNT b) = min 65535 (s.rdN (MON_TRIP_CNT b) + 1) ∧
    t.bit (MON_EVT b) 0 = true ∧ t.wide (MON_TRIP_T b) 4 = s.convoyTime ∧ Frame (monTripRegs b) s t

theorem State.monInside_shown : (s.monInside b).fld (MON_STAT b) 15 14 = 1 ∧ ((s.monInside b).mon b).tripped = false ∧
    Frame [MON_STAT b] s (s.monInside b) := by
  refine ⟨?_, congrArg Monitor.tripped (State.mon_setMon_self ..), (Frame.refl.setFld (by simp)).setMon⟩
  exact (State.fld_of_rd (State.rd_setMon ..) 15 14).trans (State.fld_setFld _ _ _ _ _ (by decide) (by decide))

theorem State.monTripped_rd {o : Nat} (ho : o < 0x12) : (s.monTripped b).rd (b + o) =
    ((((s.setFld (MON_STAT b) 15 14 2).setMon b { s.mon b with tripped := true }).inc (MON_TRIP_CNT b)).evt (MON_EVT b) 0).rd (b + o) :=
  State.rd_setWide_ne fun i _ => by unfold MON_TRIP_T; omega

theorem State.monTripped_stat : (s.monTripped b).rd (MON_STAT b) = (s.setFld (MON_STAT b) 15 14 2).rd (MON_STAT b) := by
  refine (State.monTripped_rd (o := 0xA) (by decide)).trans ?_
  rw [State.rd_evt, if_neg (by unfold MON_EVT; omega), State.rd_inc, if_neg (by unfold MON_TRIP_CNT; omega)]
  rfl

theorem State.monTripped_trips : MonTrips b s (s.monTripped b) := by
  have hFrame : Frame (monTripRegs b) s (s.monTripped b) := by
    refine Frame.setWide (Frame.evt (Frame.inc (Frame.setMon (Frame.setFld .refl ?_)) ?_) ?_) fun i hi => ?_
    · simp [monTripRegs]
    · simp [monTripRegs]
    · simp [monTripRegs]
    · simp only [monTripRegs, List.mem_cons, List.not_mem_nil, or_false]
      omega
  refine ⟨?_, ?_, ?_, ?_, ?_, hFrame⟩
  · exact (State.fld_of_rd State.monTripped_stat 15 14).trans (State.fld_setFld _ _ _ _ _ (by decide) (by decide))
  · unfold State.monTripped
    obtain ⟨r, hr⟩ := State.setWide_eq (k := 4)
      ((((s.setFld (MON_STAT b) 15 14 2).setMon b { s.mon b with tripped := true }).inc (MON_TRIP_CNT b)).evt (MON_EVT b) 0) (MON_TRIP_T b)
      s.convoyTime
    rw [hr]
    exact congrArg Monitor.tripped (State.mon_setMon_self ..)
  · rw [State.rdN, show MON_TRIP_CNT b = b + 0xE from rfl, State.monTripped_rd (by decide), State.rd_evt, if_neg (by unfold MON_EVT; omega)]
    refine (State.rdN_inc_self ..).trans ?_
    rw [State.rdN, State.rd_setMon, State.rd_setFld, if_neg (by unfold MON_TRIP_CNT MON_STAT; omega)]
    rfl
  · exact (State.bit_of_rd (State.monTripped_rd (o := 0xC) (by decide)) 0).trans (State.bit_evt_self _ _ _ (by decide))
  · exact (State.wide_setWide_self ..).trans (Nat.mod_eq_of_lt s.convoyTime_lt)

theorem State.monTripped_blank : (s.monTripped b).bit (MON_STAT b) 13 = s.bit (MON_STAT b) 13 := by
  rw [State.bit_of_rd State.monTripped_stat, State.bit_setFld _ _ _ _ (by decide) (by decide), if_neg (by omega)]

/-- An outside decision in a blanking window shows OUTSIDE (R286). -/
theorem State.monBlanked_state : (s.monBlanked b).fld (MON_STAT b) 15 14 = 2 := by
  have hState : (s.setFld (MON_STAT b) 15 14 2).fld (MON_STAT b) 15 14 = 2 := State.fld_setFld _ _ _ _ _ (by decide) (by decide)
  have hApart : MON_STAT b ≠ MON_EVT b ∧ MON_STAT b ≠ MON_BLANKED_CNT b := by
    unfold MON_STAT MON_EVT MON_BLANKED_CNT
    omega
  refine ite_of (Q := fun t : State => t.fld (MON_STAT b) 15 14 = 2) hState ((State.fld_of_rd ?_ 15 14).trans hState)
  rw [State.rd_evt, if_neg hApart.1, State.rd_inc, if_neg hApart.2, State.rd_setMon]

theorem State.monBlanked_again (hSeen : (s.mon b).seen = true) : Frame [MON_STAT b] s (s.monBlanked b) := by
  rw [State.monBlanked, if_pos hSeen]
  exact Frame.refl.setFld (by simp)

/-- The first outside decision of a window counts. -/
theorem State.monBlanked_first (hSeen : (s.mon b).seen = false) : ((s.monBlanked b).mon b).seen = true ∧
    (s.monBlanked b).rdN (MON_BLANKED_CNT b) = min 65535 (s.rdN (MON_BLANKED_CNT b) + 1) ∧ (s.monBlanked b).bit (MON_EVT b) 1 = true ∧
    Frame [MON_STAT b, MON_BLANKED_CNT b, MON_EVT b] s (s.monBlanked b) := by
  have hApart : MON_BLANKED_CNT b ≠ MON_STAT b ∧ MON_BLANKED_CNT b ≠ MON_EVT b := by
    unfold MON_STAT MON_EVT MON_BLANKED_CNT
    omega
  rw [State.monBlanked, if_neg (by simp [hSeen])]
  refine ⟨congrArg Monitor.seen (State.mon_setMon_self ..), ?_, State.bit_evt_self _ _ _ (by decide), ?_⟩
  · rw [State.rdN, State.rd_evt, if_neg hApart.2]
    refine (State.rdN_inc_self ..).trans ?_
    rw [State.rdN, State.rd_setMon, State.rd_setFld, if_neg hApart.1]
    rfl
  · exact ((Frame.refl.setFld (by simp)).setMon.inc (by simp)).evt (by simp)

/-! The end of a blanking window changes nothing that a decision rests on. -/

/-- The registers that decisions of the monitor rest on are other than its MON_STAT. -/
theorem monStat_apart (u : Nat) : MON_CFG (monBase u) ≠ MON_STAT (monBase u) ∧ MON_HI (monBase u) ≠ MON_STAT (monBase u) ∧
    MON_LO (monBase u) ≠ MON_STAT (monBase u) ∧
    (u < 2176 → PMU_STAT u ≠ MON_STAT (monBase u) ∧ PIN_STAT u ≠ MON_STAT (monBase u) ∧ PMU_MODE u ≠ MON_STAT (monBase u)) ∧
    (¬ u < 2176 → DPS_STAT (u - 2176) ≠ MON_STAT (monBase u)) := by
  unfold MON_CFG MON_HI MON_LO MON_STAT
  refine ⟨by omega, by omega, by omega, fun hu => ?_, fun hu => ?_⟩
  · rw [monBase, if_pos hu]
    unfold PMU_STAT PIN_STAT PMU_MODE monOfChannel
    omega
  · rw [monBase, if_neg hu]
    unfold DPS_STAT monOfSlice
    omega

section
variable (hRegs : ∀ a, a ≠ MON_STAT (monBase u) → t.rd a = s.rd a)
include hRegs

theorem State.pmuMode_of_monRegs (hu : u < 2176) : t.pmuMode u = s.pmuMode u := by
  obtain ⟨-, -, -, hChannel, -⟩ := monStat_apart u
  obtain ⟨-, hPin, hMode⟩ := hChannel hu
  have hSet : t.pmuSet u = s.pmuSet u := by simp only [State.pmuSet, State.fld_of_rd (hRegs _ hMode)]
  simp only [State.pmuMode, hSet, State.bit_of_rd (hRegs _ hPin)]

theorem State.monActive_of_monRegs : t.monActive u = s.monActive u := by
  obtain ⟨hCfg, -, -, hChannel, hSlice⟩ := monStat_apart u
  have hMode : t.monMode (monBase u) = s.monMode (monBase u) := by simp only [State.monMode, State.fld_of_rd (hRegs _ hCfg)]
  unfold State.monActive
  rw [hMode]
  split
  case isTrue hu => rw [State.bit_of_rd (hRegs _ (hChannel hu).1), State.pmuMode_of_monRegs hRegs hu]
  case isFalse hu => rw [State.fld_of_rd (hRegs _ (hSlice hu)), State.bit_of_rd (hRegs _ (hSlice hu))]

theorem State.monOutside_of_monRegs : t.monOutside u v = s.monOutside u v := by
  obtain ⟨hCfg, hHi, hLo, -, -⟩ := monStat_apart u
  have hVolts : t.monVolts u = s.monVolts u := by
    unfold State.monVolts
    split
    case isTrue hu => rw [State.pmuMode_of_monRegs hRegs hu]
    case isFalse => rw [State.bit_of_rd (hRegs _ hCfg)]
  simp only [State.monOutside, hVolts, State.rdN, hRegs _ hHi, hRegs _ hLo]

theorem State.canDecide_of_monRegs (hTime : t.time = s.time) (hPending : t.bit (MON_STAT (monBase u)) 12 = s.bit (MON_STAT (monBase u)) 12) :
    t.canDecide u = s.canDecide u := by
  obtain ⟨hCfg, -, -, -, -⟩ := monStat_apart u
  have hCfgFld (hi lo : Nat) : t.fld (MON_CFG (monBase u)) hi lo = s.fld (MON_CFG (monBase u)) hi lo := State.fld_of_rd (hRegs _ hCfg) hi lo
  have hPoints : t.samplePoints u = s.samplePoints u := by
    unfold State.samplePoints State.stageLen
    rw [hTime, hCfgFld]
  unfold State.canDecide State.monMode State.stageOffset
  dsimp only
  rw [hPoints, hTime, hCfgFld, hPending]

end

theorem State.blankOver_bit (s : State) (b : Nat) : (s.blankOver b).bit (MON_STAT b) 13 = false := State.bit_setBit_self _ _ (by decide)

theorem State.blankOver_rd {a : Nat} (ha : a ≠ MON_STAT b) : (s.blankOver b).rd a = s.rd a := State.rd_wr_ne s _ ha

theorem State.blankDue_rd (s : State) (b a : Nat) : (s.blankDue b).rd a = (s.blankOver b).rd a := State.rd_setMon ..

/-- The window ends with the quantity outside: the monitor trips as at any other decision (R286, R287). -/
theorem State.blankDue_decides (hu : monUnit b = some u) (hActive : s.monActive u = true) (hDecides : s.canDecide u = true)
    (hGroups : monGroups s.casting u = []) : monitorDecides b (s.blankDue b) = (s.blankDue b).monTripped b := by
  have hBase := monBase_of_monUnit hu
  have hRegs : ∀ a, a ≠ MON_STAT (monBase u) → (s.blankDue b).rd a = s.rd a :=
    fun a ha => (s.blankDue_rd b a).trans (State.blankOver_rd (by rwa [← hBase]))
  have hBit : ∀ k, (s.blankDue b).bit (MON_STAT b) k = if k = 13 then false else s.bit (MON_STAT b) k := fun k => by
    rw [State.bit_of_rd (s.blankDue_rd b _), State.blankOver, State.bit_setBit _ _ _ _ _ _ (by decide)]
    simp only [true_and]
  have hPending : (s.blankDue b).bit (MON_STAT (monBase u)) 12 = s.bit (MON_STAT (monBase u)) 12 := by
    rw [hBase, hBit, if_neg (by decide)]
  have hTripped : ((s.blankDue b).mon b).tripped = false := congrArg Monitor.tripped (State.mon_setMon_self ..)
  have hCasting : monGroups (s.blankDue b).casting u = [] := hGroups
  rw [monitorDecides_eq hu, State.monActive_of_monRegs hRegs, State.canDecide_of_monRegs hRegs rfl hPending, hActive, hDecides, hBit, hTripped,
    hCasting]
  rfl

/-- A trip at the end of a blanking window shows as one of the state before. -/
theorem MonTrips.of_blankDue (h : MonTrips b (s.blankDue b) t) : MonTrips b s t := by
  obtain ⟨hState, hTripped, hCount, hEvt, hTime, hFrame⟩ := h
  have hDue : Frame (monTripRegs b) s (s.blankDue b) := (Frame.refl.setBit (by simp [monTripRegs])).setMon
  have hBefore : (s.blankDue b).rdN (MON_TRIP_CNT b) = s.rdN (MON_TRIP_CNT b) :=
    congrArg BitVec.toNat ((s.blankDue_rd b _).trans (State.blankOver_rd (by unfold MON_TRIP_CNT MON_STAT; omega)))
  exact ⟨hState, hTripped, by rwa [hBefore] at hCount, hEvt, hTime, hDue.trans hFrame⟩

/-! Which commands leave everything as it was, and what the others lead to. -/

section
variable (hu : monUnit b = some u)
include hu

theorem monitorInside_stays (h : s.monOutside u v = true ∨ s.canDecide u = false) : exec (.monitorInside ⟨b, v⟩) s = .next s := by
  rw [exec_monitorInside hu]
  rcases h with h | h <;> simp [h]

theorem blankedOutside_stays (h : s.monOutside u v = false ∨ s.canDecide u = false) : exec (.blankedOutside ⟨b, v⟩) s = .next s := by
  rw [exec_blankedOutside hu]
  rcases h with h | h <;> simp [h]

theorem monitorTrip_stays (h : s.monOutside u v = false ∨ s.canDecide u = false ∨ (s.mon b).tripped = true) :
    exec (.monitorTrip ⟨b, v⟩) s = .next s := by
  rw [exec_monitorTrip hu, monitorDecides_eq hu]
  rcases h with h | h | h <;> simp [h]

theorem blankWindowClose_inside (hBlank : s.bit (MON_STAT b) 13 = true) (hDue : (s.mon b).until_ ≤ s.time.up) (hIn : s.monOutside u v = false) :
    exec (.blankWindowClose b v) s = .next (s.blankOver b) := by
  have hRegs : ∀ a, a ≠ MON_STAT (monBase u) → (s.blankOver b).rd a = s.rd a :=
    fun a ha => State.blankOver_rd (by rwa [← monBase_of_monUnit hu])
  rw [exec_blankWindowClose hu hDue, if_pos hBlank, State.monOutside_of_monRegs hRegs, hIn, if_neg (by simp)]

variable (hActive : s.monActive u = true)
include hActive

theorem monitorInside_shows (hCan : s.canDecide u = true) (hIn : s.monOutside u v = false) :
    exec (.monitorInside ⟨b, v⟩) s = .next (s.monInside b) := by
  rw [exec_monitorInside hu]
  simp [hActive, hCan, hIn]

theorem blankedOutside_shows (hBlank : s.bit (MON_STAT b) 13 = true) (hCan : s.canDecide u = true) (hOut : s.monOutside u v = true) :
    exec (.blankedOutside ⟨b, v⟩) s = .next (s.monBlanked b) := by
  rw [exec_blankedOutside hu]
  simp [hActive, hBlank, hCan, hOut]

/-- An unblanked outside decision of a monitor not tripped trips it, and then each of its groups (R287). -/
theorem monitorTrip_trips (hOpen : s.bit (MON_STAT b) 13 = false) (hFirst : (s.mon b).tripped = false) (hCan : s.canDecide u = true)
    (hOut : s.monOutside u v = true) :
    exec (.monitorTrip ⟨b, v⟩) s = .next ((s.monTripped b).each (monGroups s.casting u) fun t g => t.groupTrip g 0 u) := by
  rw [exec_monitorTrip hu, if_pos hOut, monitorDecides_eq hu, if_pos (by simp [hActive, hOpen, hFirst, hCan])]

theorem blankWindowClose_outside (hBlank : s.bit (MON_STAT b) 13 = true) (hDue : (s.mon b).until_ ≤ s.time.up) (hOut : s.monOutside u v = true)
    (hCan : s.canDecide u = true) (hGroups : monGroups s.casting u = []) :
    exec (.blankWindowClose b v) s = .next ((s.blankDue b).monTripped b) := by
  have hRegs : ∀ a, a ≠ MON_STAT (monBase u) → (s.blankOver b).rd a = s.rd a :=
    fun a ha => State.blankOver_rd (by rwa [← monBase_of_monUnit hu])
  rw [exec_blankWindowClose hu hDue, if_pos hBlank, State.monActive_of_monRegs hRegs, State.monOutside_of_monRegs hRegs, hActive, hOut,
    if_pos (show (true && true) = true from rfl), State.blankDue_decides hu hActive hCan hGroups]

end

/-- With LO above HI every value is outside (R283). -/
theorem outsideWindow_empty {hi lo : Nat} (h : hi < lo) (x : Int) : outsideWindow hi lo x = true := by
  simp only [outsideWindow, Bool.or_eq_true, decide_eq_true_eq]
  omega

end Sys2Proof.Machine

open Sys2Proof Sys2Proof.Machine

/-- Settles O38: each command through the equation of its meaning, the trips of groups through what their effects leave standing. -/
theorem monitorsTripTheirGroups : Obligations.MonitorsTripTheirGroups := by
  unfold Obligations.MonitorsTripTheirGroups
  refine ⟨fun b u v s hu hActive => ?monitor, fun u v s hEmpty hVolts => ?window, fun g s hg hReady => ?group⟩
  case monitor =>
    refine ⟨fun hIn => ⟨monitorTrip_stays hu (.inl hIn), blankedOutside_stays hu (.inl hIn), fun hCan => ?inside⟩,
      fun hOut => monitorInside_stays hu (.inl hOut),
      fun hNot => ⟨monitorTrip_stays hu (.inr (.inl hNot)), blankedOutside_stays hu (.inr hNot), monitorInside_stays hu (.inr hNot)⟩,
      fun hBlank hCan hOut => ?blanked, fun hBlank hDue => ?close, exec_blankWindowClose_open,
      fun _ hOld => monitorTrip_stays hu (.inr (.inr hOld)), fun hOpen hFirst hCan hOut => ?trip⟩
    case inside => exact ⟨_, monitorInside_shows hu hActive hCan hIn, State.monInside_shown⟩
    case blanked =>
      have hShows := blankedOutside_shows hu hActive hBlank hCan hOut
      exact ⟨fun hSeen => ⟨_, hShows, State.monBlanked_state, State.monBlanked_again hSeen⟩,
        fun hSeen => ⟨_, hShows, State.monBlanked_state, State.monBlanked_first hSeen⟩⟩
    case close =>
      refine ⟨fun hIn => ⟨_, blankWindowClose_inside hu hBlank hDue hIn, s.blankOver_bit b, Frame.refl.setBit (by simp)⟩,
        fun hOut hCan hGroups => ⟨_, blankWindowClose_outside hu hActive hBlank hDue hOut hCan hGroups, ?_, State.monTripped_trips.of_blankDue⟩⟩
      rw [State.monTripped_blank, State.bit_of_rd (s.blankDue_rd b _), State.blankOver_bit]
    case trip =>
      have hTrips := monitorTrip_trips hu hActive hOpen hFirst hCan hOut
      refine ⟨fun hGroups => ⟨s.monTripped b, ?_, State.monTripped_trips⟩,
        fun _ => ⟨_, hTrips, fun g hMember hg => each_groupTripped hg hMember⟩⟩
      rw [hTrips, hGroups]
      rfl
  case window =>
    rw [State.monOutside, if_pos hVolts]
    exact outsideWindow_empty hEmpty _
  case group =>
    have hForce {t : State} (h : s.groupTrip g 2 0 = t) : exec (.groupForce g) s = .next t := State.whenReady_next hReady ((if_pos hg).trans h)
    refine ⟨fun hUntripped hSlices _ => ⟨fun hClear => ?first, fun x hClear => ?undone⟩, fun hTripped hLater => ?later, ?clear⟩
    case first =>
      obtain ⟨hTripped, hCauses, hTime, hEvt, hIrq⟩ := (s.tripSince g).groupTrips_shown (cause := 2) (unit := 0) hg
      refine ⟨_, hForce (State.groupTrip_first hUntripped hClear), hTripped, by rw [hCauses]; rfl, hTime, hEvt, hIrq, fun hAction ch hch => ?_,
        fun hAction i hi => State.groupTrips_slices hAction hi (groupSlices_lt hSlices hi)⟩
      have hBit : ((s.tripSince g).groupTrips g 2 0).bit (PIN_STAT ch) 14 = true := State.groupTrips_pins hAction hch
      exact ⟨hBit, State.tripped_passive hBit⟩
    case undone => exact ⟨_, hForce (State.groupTrip_undone hUntripped hClear), State.clearUndone_shown hg⟩
    case later => exact ⟨_, hForce rfl, State.groupTrip_later_shown hTripped hLater⟩
    case clear =>
      obtain ⟨w, hKind, hClass, hWaits, hFrame⟩ := s.arrive_clear g
      exact ⟨_, w, State.whenReady_next hReady (if_pos hg), hKind, hClass, hWaits, hFrame⟩

end
